-- ==== Sys2Proof/Word.lean ====
section
/-! DEFINITION. The word types of the package: a byte, a register word, a code of a wide format. -/

namespace Sys2Proof

/-- One byte of device memory (R8: little-endian in every multi-byte field). -/
abbrev Byte := BitVec 8

/-- One 8-byte register, descriptor, command or record word. -/
abbrev Word := BitVec 64

end Sys2Proof
end

