-- ==== Sys2Proof/Syntax.lean ====
section
/-! DEFINITION. The commands of the block: one constructor of `Instr` per row of the table of operations and
events (95_what_each_step_holds.md). The table gives no operands; each operand here is what identifies the
part that acts, the value a host writes, or what arrives from outside the package (log entry 8). -/

namespace Sys2Proof

/-- The two job contexts of a compute die (R282). -/
inductive Ctx where
  | primary
  | cutIn
deriving DecidableEq, Repr

/-- What a fetch from host memory answers, for a queue whose SPACE is not device memory (R248, R648):
the command slot's words, and whether the completion arrived poisoned. Not looked at for other queues. -/
structure HostSlot where
  words    : List Word := []
  poisoned : Bool := false
deriving DecidableEq, Repr

/-- Operations of the scalar integer class of R136. The signed and unsigned readings that the manual does
not tell apart are separate operations (log entry 12). -/
inductive ScalarInt where
  | add | sub | mul | and | or | xor | shl | shrLogical | shrArith
  | minS | maxS | minU | maxU | cmpEq | cmpLtS | cmpLtU | moveImm
deriving DecidableEq, Repr

/-- Operations of the scalar FP32 class of R136. -/
inductive ScalarFp where
  | add | mul | fma | min | max | cmpEq | cmpLt | cmpLe | toInt | fromInt
deriving DecidableEq, Repr

/-- Comparisons of the tile class "compare to mask" (R136). -/
inductive Cmp where
  | eq | lt | le
deriving DecidableEq, Repr

/-- Operations of the tile elementwise class of R136. -/
inductive TileOp where
  | add | sub | mul | fma | min | max | abs | neg | cmpMask (c : Cmp) | selMask | move
deriving DecidableEq, Repr

/-- Functions of the tile function class: those of R134, and DIV. -/
inductive Fn where
  | exp | exp2 | log | log2 | recip | rsqrt | sqrt | tanh | sigmoid | erf | gelu | silu | div
deriving DecidableEq, Repr

/-- Block axis of a narrow tensor or of a quantise instruction (R44). -/
inductive Axis where
  | columns
  | rows
deriving DecidableEq, Repr

/-- Formats by their codes of R35. -/
inductive Fmt where
  | fp32 | bf16 | e4m3 | e5m2 | e3m2 | e2m1 | fp64
deriving DecidableEq, Repr

/-- The source view of a conversion: its format, and the axis of the blocks of a narrow one (R44, R53). -/
structure Blocked where
  fmt  : Fmt
  axis : Axis
deriving DecidableEq, Repr

/-- Where a sync-cell update comes from, for the order of R262 and the counts of R292. -/
inductive Origin where
  | host
  | caller (d : Fin 4)
  | floor (d : Fin 4)
  | remote
deriving DecidableEq, Repr

/-- The arbiters of R278, at which a LOW request can be promoted (R280). Those of moves and memory
grant single granules; `waited` is the count of grants that such a request has waited for. -/
inductive Arbiter where
  | caller (d : Fin 4) (c : Fin 8)
  | array (d : Fin 4)
  | vector (d : Fin 4)
  | move (q : Fin 4) (waited : Nat)
  | memory (n : Fin 16) (waited : Nat)
  | optical (n : Fin 16)
deriving DecidableEq, Repr

/-- What a read of one codeword finds (R227). -/
inductive Ecc where
  | clean | corrected | uncorrectable
deriving DecidableEq, Repr

/-- What a frame of a bundle carries (R296, R297, R299): nothing, packets, or a raw array stream. Items longer than a frame
go on in frames that start none, so ITEM_START alone does not tell an idle frame. -/
inductive Carried where
  | idle | packets | stream
deriving DecidableEq, Repr

/-- A data frame or an idle frame at the receiving end of a bundle: what it carries, the strobe fields and the 64 beats of
R298. -/
structure BundleFrame where
  carries   : Carried
  seq       : BitVec 8
  itemStart : BitVec 8
  crcStrobe : BitVec 16
  crcData   : BitVec 16
  data      : BitVec 4096
deriving DecidableEq, Repr

/-- The bundle that is to retrain, and whether it is because its handshake wire has stopped toggling (R301, R304). -/
structure RetrainAsk where
  bundle : Fin 1024
  silent : Bool
deriving DecidableEq, Repr

/-- A handshake frame of R298. -/
structure HandshakeFrame where
  toggle  : Bool
  credits : BitVec 16
  ackSeq  : BitVec 8
  nak     : Bool
  crc     : BitVec 16
deriving DecidableEq, Repr

/-- What the wire tests of a bundle find (R301, R302): the failing wires among the 64 data wires and the
4 spares (64–67), and whether the strobe or a handshake wire fails. -/
structure BundleTest where
  bundle    : Fin 1024
  failing   : List (Fin 68)
  ctlFails  : Bool
deriving DecidableEq, Repr

/-- What a self-test of a compute die finds (R117, R537, R538): failing logical cells, unusable spares,
failing vector units, and whether logic outside the vector units and the array fails. -/
structure DieTest where
  cells     : List (Fin 640 × Fin 640) := []
  badRows   : List (Fin 8) := []
  badCols   : List (Fin 8) := []
  arrayScan : Bool := false
  units     : List (Fin 64) := []
  dieFails  : Bool := false
deriving DecidableEq, Repr

/-- The memories that the SRAM march repairs (R525): a quadrant of staging or of the wide buffer, or the ACC of a die. -/
inductive SramArray where
  | staging (q : Fin 4)
  | wide (q : Fin 4)
  | acc (d : Fin 4)
deriving DecidableEq, Repr

/-- What a row of the start sequence or an element of a last waltz finds (R528, R533, R538); `floor` says that the scan of
a floor block without a row of its own fails, and `repairs` lists the places of each memory that its repair map replaces
(R525). -/
structure TestResult where
  ok        : Bool := true
  dies      : List (Fin 4 × DieTest) := []
  bundles   : List (Fin 4 × BundleTest) := []
  badPages  : List (Fin 786432) := []
  pchs      : List (Fin 1024) := []
  hbms      : List (Fin 16) := []
  staging   : List (Fin 4) := []
  wide      : List (Fin 4) := []
  ports     : List (Fin 16) := []
  diags     : List (Fin 2) := []
  hosts     : List (Fin 2) := []
  floor     : Bool := false
  repairs   : List (SramArray × Nat) := []
deriving DecidableEq, Repr

/-- The outcome of one sub-link training (R344, R347): the wavelengths that fail in each direction, the
peer's generation, incarnation number and the measured credit loop. -/
structure TrainResult where
  txFail  : List (Fin 9)
  rxFail  : List (Fin 9)
  peerGen1 : Bool
  peerInc : BitVec 32
  loop    : BitVec 16
deriving DecidableEq, Repr

/-- A frame of an optical sub-link as its codewords are decoded: the header of R335 and the payload. `decoded` is false
when a bit of it lies in a codeword reported uncorrectable (R340); `corrected` counts the code symbols corrected in it,
and `bad` the codewords that are first reported uncorrectable with it (R360). -/
structure OptFrame where
  header    : BitVec 28
  payload   : BitVec 512
  decoded   : Bool
  corrected : Nat
  bad       : Nat
deriving DecidableEq, Repr

/-- An IDLE frame and the sub-link that it arrives on. -/
structure IdleFrame where
  link  : Fin 32
  frame : OptFrame
deriving DecidableEq, Repr

/-- The header frame of a collective item (R369). KIND is the command that carries it. -/
structure ItemHdr where
  epoch     : BitVec 16
  step      : BitVec 32
  tensor    : BitVec 16
  origin    : BitVec 13
  chunk     : BitVec 13
  wgen      : BitVec 32
  offset    : BitVec 32
  remote    : BitVec 52
  rsigDie   : Fin 4
  rsigIndex : Fin 16384
  last      : Bool
  rsigValue : BitVec 32
deriving DecidableEq, Repr

/-- A collective item: its header and its payload bytes, FRAMES · 64 of them. -/
structure Item where
  hdr     : ItemHdr
  payload : List Byte
deriving DecidableEq, Repr

/-- The fields of a SYNC item (R266): a primary cell of this package, and the update. -/
structure SyncItem where
  hdr   : ItemHdr
  die   : Fin 4
  index : Fin 16384
  set   : Bool
  value : BitVec 32
deriving DecidableEq, Repr

/-- The path of a collective command, by which an ABORT or LANDED item finds its command (R362). -/
inductive Path where
  | gather | reduce | bucket | pipeNext | pipePrev | seqRing | sync
deriving DecidableEq, Repr

/-- The three legs of a step summary (R393, R394). -/
inductive SummaryLeg where
  | accumulate
  | passBack
  | chainFromPrev
  | chainFromNext
deriving DecidableEq, Repr

/-- One statistics slot of a step summary: the FP64 sums of L and R, and the contributing packages. -/
structure SlotSum where
  slot  : Fin 64
  sumL  : Word
  sumR  : Word
  count : Nat
deriving DecidableEq, Repr

/-- A step-summary item: the gate word, the DUE bit of R473, and the sums (R393). -/
structure SummaryItem where
  hdr   : ItemHdr
  leg   : SummaryLeg
  stage : Nat
  word  : BitVec 16
  due   : Bool
  sums  : List SlotSum
deriving DecidableEq, Repr

/-- A PAGE item of R455: 64 payload frames of one page, and on the last item the digest entry's words. -/
structure PageItem where
  epoch   : BitVec 16
  step    : BitVec 32
  origin  : BitVec 13
  poseId  : BitVec 32
  pageNo  : Nat
  offset  : Nat
  payload : List Byte
  digest  : List Byte
deriving DecidableEq, Repr

/-- A PCTL item's words 2 to 5 (R455): cause, pose, page count, transfer kind (0 a promenade, else KIND of
R465) and the sender's domain. -/
structure PctlItem where
  epoch  : BitVec 16
  step   : BitVec 32
  origin : BitVec 13
  cause  : BitVec 8
  poseId : BitVec 32
  pages  : Nat
  kind   : Nat
  domain : BitVec 16
deriving DecidableEq, Repr

/-- The header of a bank as it arrives with the SEAL of a promenade or the first page of a refill (R448). -/
structure BankHdr where
  poseId : BitVec 32
  step   : BitVec 32
  epoch  : BitVec 16
  rank   : BitVec 13
  domain : BitVec 16
  npages : Nat
  stats  : List Word
deriving DecidableEq, Repr

/-- The error codes of R501, and the FATAL error of R507, which has none. -/
inductive ErrKind where
  | eccCorrected | linkRetried | memUe | sramUe | pageRetired | retireDenied | pchFenced | stackFenced
  | banksLost | vuFault | arrayRowFault | arrayColFault | arrayUnusable | bundleChanged | dieAbsent
  | dieFailed | diagChanged | laneChanged | portFenced | promenadeFailed | doubleFault
  | stackRetrain | portLoss | fatal
deriving DecidableEq, Repr

/-- A hardware error as a block detects it (R495, R499, R500). -/
structure ErrEvent where
  kind    : ErrKind
  die     : Fin 5
  block   : Nat
  inst    : Nat
  index   : Nat
  address : Nat
  detail  : Nat
deriving DecidableEq, Repr

/-- What a sensor of R645 reads: junction sensor `n` of a logic die, sensor `k` of a stack, or the package draw averaged over
1 ms. Temperatures are in °C, the draw in W. -/
inductive Sensor where
  | die (d : Fin 5) (n : Fin 16)
  | stack (n : Fin 16) (k : Fin 2)
  | draw
deriving DecidableEq, Repr

/-- The trigger that asks for a throttle step (R645). -/
inductive Trigger where
  | die (d : Fin 4)
  | draw
deriving DecidableEq, Repr

/-- The messages of R565, by their effect: a secured session whose transcript the AK signs, or a set of keys for an IDE
stream, which is Secure with that set from then on: at first, and at each refresh. -/
inductive Spdm where
  | session (transcript : List Byte)
  | ideKeys (stream : Fin 4) (set : Bool)
deriving DecidableEq, Repr

/-- A memory request of a host through a BAR: the port, the IDE stream that it comes in, if any (0 the link stream, 1–3
selective, R565), and the bytes of a BAR0 access (R573). -/
structure Access where
  port   : Fin 2
  stream : Option (Fin 4) := some 0
  size   : Nat := 8
deriving DecidableEq, Repr

/-- What a host sets in the configuration space of a port (R571, R572, R576, R581): MSI-X Enable, Max_Payload_Size, and base
addresses of BAR0, BAR2 and BAR4, by 0, 1 and 2. Bus Master Enable is set with them. -/
structure PortConfig where
  msix    : Bool
  payload : Nat := 512
  bars    : List (Fin 3 × Word) := []
deriving DecidableEq, Repr

/-- A write of an entry of the MSI-X table (R575): its vector, message address and data, and mask bit. -/
structure VectorWrite where
  vector : Fin 2048
  addr   : Word := 0
  data   : BitVec 32 := 0
  masked : Bool := false
deriving DecidableEq, Repr

/-- A rail leaves regulation, or is within it again (R518, R547). -/
structure RailChange where
  rail  : Fin 10
  valid : Bool := false
deriving DecidableEq, Repr

/-- The commands: one constructor per row of the table, in the table's order. -/
inductive Instr where
  -- commands of the queues that run on the caller (R258)
  | nop (d : Fin 4) (q : Fin 64) (ext : HostSlot)
  | jump (d : Fin 4) (q : Fin 64) (ext : HostSlot)
  | progEnd (d : Fin 4) (q : Fin 64) (ext : HostSlot)
  | syncRemote (d : Fin 4) (q : Fin 64) (ext : HostSlot)
  | marker (d : Fin 4) (q : Fin 64) (ext : HostSlot)
  -- the array
  | arrayOp (d : Fin 4) (q : Fin 64) (ext : HostSlot)
  | grandClaim
  | arrayOpStart (d : Fin 4)
  | arrayOpComplete (d : Fin 4)
  -- the vector engine
  | vectorOp (d : Fin 4) (q : Fin 64) (ext : HostSlot)
  | kernel (d : Fin 4)
  | epilogue (d : Fin 4)
  | softmax (d : Fin 4)
  | rmsnorm (d : Fin 4)
  | layernorm (d : Fin 4)
  | quant (d : Fin 4)
  | adamw (d : Fin 4)
  | attnMerge (d : Fin 4)
  | xent (d : Fin 4)
  | vectorOpComplete (d : Fin 4) (vu : Fin 64)
  -- unit cores
  | scalarIntegerOp (d : Fin 4) (vu : Fin 64) (op : ScalarInt) (rd ra rb : Fin 32)
  | scalarFp32Op (d : Fin 4) (vu : Fin 64) (op : ScalarFp) (rd ra rb rc : Fin 32)
  | branch (d : Fin 4) (vu : Fin 64)
  | conditionalBranch (d : Fin 4) (vu : Fin 64)
  | call (d : Fin 4) (vu : Fin 64)
  | ret (d : Fin 4) (vu : Fin 64)
  | halt (d : Fin 4) (vu : Fin 64)
  | ubar (d : Fin 4) (vu : Fin 64)
  | ubarRelease (d : Fin 4) (vu : Fin 64)
  | numReport (d : Fin 4) (vu : Fin 64)
  | tileLoad (d : Fin 4) (vu : Fin 64)
  | tileStore (d : Fin 4) (vu : Fin 64)
  | transposedLoad (d : Fin 4) (vu : Fin 64)
  | transposedStore (d : Fin 4) (vu : Fin 64)
  | packedNarrowStore (d : Fin 4) (vu : Fin 64)
  | tileElementwise (d : Fin 4) (vu : Fin 64) (op : TileOp)
  | tileFunction (d : Fin 4) (vu : Fin 64) (fn : Fn)
  | rowSum (d : Fin 4) (vu : Fin 64)
  | columnSum (d : Fin 4) (vu : Fin 64)
  | rowMax (d : Fin 4) (vu : Fin 64)
  | columnMax (d : Fin 4) (vu : Fin 64)
  | tileConversion (d : Fin 4) (vu : Fin 64) (src : Blocked)
  | quantise (d : Fin 4) (vu : Fin 64) (src : Fmt) (axis : Axis)
  | split (d : Fin 4) (vu : Fin 64)
  | transpose (d : Fin 4) (vu : Fin 64)
  | laneRotate (d : Fin 4) (vu : Fin 64)
  | rowRotate (d : Fin 4) (vu : Fin 64)
  -- moves
  | moveCopy (d : Fin 4) (q : Fin 64) (ext : HostSlot)
  | move2d (d : Fin 4) (q : Fin 64) (ext : HostSlot)
  | moveFill (d : Fin 4) (q : Fin 64) (ext : HostSlot)
  | moveComplete (d : Fin 4)
  -- brackets and the gate
  | layerOpen (d : Fin 4) (q : Fin 64) (ext : HostSlot)
  | layerClose (d : Fin 4) (q : Fin 64) (ext : HostSlot)
  | bracketOutcome (d : Fin 4) (c : Ctx)
  | commitAddDone (d : Fin 4) (c : Ctx)
  | stepGate (d : Fin 4) (q : Fin 64) (ext : HostSlot)
  | gateWordForm (c : Ctx)
  | gateEvaluation (d : Fin 4) (c : Ctx)
  -- collectives
  | gather (d : Fin 4) (q : Fin 64) (ext : HostSlot)
  | reduceScatter (d : Fin 4) (q : Fin 64) (ext : HostSlot)
  | allReduce (d : Fin 4) (q : Fin 64) (ext : HostSlot)
  | pipeSend (d : Fin 4) (q : Fin 64) (ext : HostSlot)
  | seqPass (d : Fin 4) (q : Fin 64) (ext : HostSlot)
  | dieReduce (d : Fin 4) (q : Fin 64) (ext : HostSlot)
  | bucketReduce (d : Fin 4) (q : Fin 64) (ext : HostSlot)
  | collectiveComplete (d : Fin 4) (q : Fin 64) (number : BitVec 32)
  -- figures
  | figureChange (d : Fin 4) (q : Fin 64) (ext : HostSlot)
  | figureSwap
  | figDrainTimeout
  | reweight (e : Fin 32)
  -- poses and ownership
  | pose (d : Fin 4) (q : Fin 64) (ext : HostSlot)
  | poseArm
  | takeover (d : Fin 4) (q : Fin 64) (ext : HostSlot)
  -- legacy commands
  | v1Nop (d : Fin 4) (q : Fin 64) (ext : HostSlot)
  | v1Array (d : Fin 4) (q : Fin 64) (ext : HostSlot)
  | v1Vector (d : Fin 4) (q : Fin 64) (ext : HostSlot)
  | v1Copy (d : Fin 4) (q : Fin 64) (ext : HostSlot)
  | v1Marker (d : Fin 4) (q : Fin 64) (ext : HostSlot)
  | v1BucketReduce (d : Fin 4) (q : Fin 64) (ext : HostSlot)
  -- host accesses to queues, cells and contexts
  | doorbell (x : Access) (wide : Bool) (d : Fin 4) (q : Fin 64) (tail : BitVec 32)
  | queueEnable (x : Access) (d : Fin 4) (q : Fin 64) (value : Word)
  | queueDisable (x : Access) (d : Fin 4) (q : Fin 64) (value : Word)
  | programRun (x : Access) (d : Fin 4) (q : Fin 64) (value : Word)
  | resume (x : Access) (d : Fin 4) (value : Word)
  | synOpRead (x : Access) (d : Fin 4) (index : Fin 16384)
  | synOpSet (x : Access) (d : Fin 4) (index : Fin 16384) (value : BitVec 32)
  | synOpAdd (x : Access) (d : Fin 4) (index : Fin 16384) (value : BitVec 32)
  | syncUpdate (d : Fin 4) (index : Fin 16384) (set : Bool) (value : BitVec 32) (src : Origin)
  | lowPromotion (a : Arbiter)
  | partitionWrite (x : Access) (d : Fin 4) (c : Ctx) (n : Fin 16) (value : Word)
  | forceShut (x : Access) (d : Fin 4) (c : Ctx)
  | jcxStepWrite (x : Access) (d : Fin 4) (c : Ctx) (value : Word)
  | numEvtEnable (x : Access) (d : Fin 4) (value : Word)
  -- memory
  | scrubRead (n : Fin 16) (found : Ecc)
  | ceThresholdReached (page : Fin 786432) (stack : Fin 16)
  | retireRequest (x : Access) (n : Fin 1024) (value : Word)
  | retireCopyDone
  | preserveCopyDone (page : Fin 786432)
  | bar2Read (x : Access) (offset len : Nat)
  | bar2Write (x : Access) (offset : Nat) (data : List Byte)
  | registerWrite (x : Access) (offset : Nat) (value : Word)
  | fenceWrite (x : Access) (pageNo : Nat) (value : Word)
  | intEnWrite (x : Access) (pageNo : Nat) (value : Word)
  -- bundles and dies
  | bundleDataFrame (d : Fin 4) (b : Fin 1024) (f : BundleFrame)
  | bundleHandshakeFrame (d : Fin 4) (b : Fin 1024) (f : HandshakeFrame)
  | bundleRetrain (d : Fin 4) (b : RetrainAsk)
  | bundleRetrainDone (d : Fin 4) (t : BundleTest)
  | dieAbsent (d : Fin 4) (bundleLoss : Bool)
  | absenceLearned (d : Fin 4)
  | floorLost (d : Fin 4)
  | dieResetRequest (x : Access) (d : Fin 4)
  | dieResetHoldEnd (d : Fin 4)
  | dieTrainingDone (d : Fin 4) (tests : List BundleTest)
  | dieSelftestDone (d : Fin 4) (t : DieTest)
  | diagLaneLoss (link : Fin 2) (guide : Fin 40) (wave : Fin 9)
  -- optical ports
  | wavelengthLit (n : Fin 16) (feed : Fin 2) (wave : Fin 9)
  | wavelengthUnlit (n : Fin 16) (feed : Fin 2) (wave : Fin 9)
  | lanesRelocked (n : Fin 16)
  | dataFrame (e : Fin 32) (f : OptFrame)
  | controlFrame (e : Fin 32) (f : OptFrame)
  | idleFrame (e : IdleFrame)
  | resendTimeout (e : Fin 32)
  | sublinkEnable (x : Access) (e : Fin 32)
  | sublinkDisable (x : Access) (e : Fin 32)
  | trainingComplete (e : Fin 32) (t : TrainResult)
  | downRetry (e : Fin 32)
  | laneFault (e : Fin 32)
  | fieldRetrainingDone (e : Fin 32) (t : TrainResult)
  | otdrStart (x : Access) (n : Fin 16) (value : Word)
  | otdrDone (n : Fin 16) (events : List (BitVec 20 × BitVec 8))
  -- items from other packages
  | gatherItem (e : Fin 32) (i : Item)
  | reduce (e : Fin 32) (i : Item)
  | result (e : Fin 32) (i : Item)
  | bucket (e : Fin 32) (i : Item)
  | pipe (e : Fin 32) (i : Item)
  | seq (e : Fin 32) (i : Item)
  | sync (e : Fin 32) (i : SyncItem)
  | abort (e : Fin 32) (p : Path) (h : ItemHdr)
  | landed (e : Fin 32) (p : Path) (h : ItemHdr) (denied : Bool) (badCell : Bool)
  | summary (e : Fin 32) (i : SummaryItem)
  -- layout, shards and statistics
  | layoutWrite (x : Access) (pos : Bool) (value : Word)
  | peerTableWrite (x : Access) (partner : Bool) (e : Fin 32) (value : Word)
  | layoutApply
  | shardValidSet (x : Access) (n : Fin 1024) (value : Word)
  | statsClear (x : Access) (value : Word)
  -- snapshots
  | promenadePage
  | pageSent
  | page (e : Fin 32) (i : PageItem)
  | openItem (e : Fin 32) (i : PctlItem)
  | accept (e : Fin 32) (i : PctlItem)
  | refuse (e : Fin 32) (i : PctlItem)
  | seal (e : Fin 32) (i : PctlItem) (h : BankHdr)
  | sealed (e : Fin 32) (i : PctlItem)
  | pctlAbort (e : Fin 32) (i : PctlItem)
  | lossLimitExpiry (refill : Option (Fin 8))
  | refillQueue (x : Access) (n : Fin 8) (value : Word)
  | restore (n : Fin 8)
  | replicate (n : Fin 8)
  | handover (n : Fin 8)
  | rollback (n : Fin 8)
  | verify (n : Fin 8)
  | refillComplete (n : Fin 8)
  | refillAbort (x : Access) (n : Fin 8)
  | drainRequest (x : Access)
  -- errors
  | errorDetected (e : ErrEvent)
  | containmentAction (d : Fin 5)
  | errTailWrite (x : Access) (d : Fin 5) (value : Word)
  -- power, start and self-test
  | packageReset
  | start
  | startRowDone (r : TestResult)
  | powerRemoved
  | railExcursion (rail : RailChange)
  | lwStart (x : Access) (value : Word)
  | lwInvalidate (x : Access) (value : Word)
  | lwElementDone (r : TestResult)
  | powerPause
  | powerPauseEnd
  | sensorThreshold (x : Sensor) (reading : Nat)
  | throttleStepDown (t : Trigger)
  | throttleStepUp (t : Trigger)
  | clockStop (d : Fin 5)
  -- security
  | extend (hp : Fin 2)
  | quote (hp : Fin 2)
  | getDik (hp : Fin 2)
  | getAkCert (hp : Fin 2)
  | svnCommit (hp : Fin 2)
  | lcTransition (hp : Fin 2)
  | scanRequest
  | spdmMessage (hp : Fin 2) (m : Spdm)
  -- host ports and I3C
  | hostLinkUp (hp : Fin 2) (gen width : Nat)
  | hostLinkDown (hp : Fin 2)
  | hostPortReset (hp : Fin 2)
  | regRead (offset : Nat)
  | regWrite (offset : Nat) (value : Word)
  | imgWrite (region : Nat) (offset : Nat) (data : List Byte)
  | imgDone (region : Nat) (length : Nat)
  | imgStatus
  | drainGo (x : Access) (hp : Fin 2) (value : Word)
  | drainAbort (x : Access) (hp : Fin 2)
  | drainFlushComplete (hp : Fin 2)
  -- performance monitoring
  | counterWrite (x : Access) (offset : Nat) (value : Word)
  | counterOverflow (d : Fin 5) (index : Nat)
  | samplerEnable (x : Access) (d : Fin 4) (value : Word)
  | sampleTag (d : Fin 4)
  | pmuBufEnable (x : Access) (d : Fin 5) (value : Word)
  | markerToken (d : Fin 4)
  -- late host and memory events
  | busMasterEnable (hp : Fin 2) (c : PortConfig)
  | msixVectorUnmask (x : Access) (e : VectorWrite)
  | stackRetrainDone (n : Fin 16) (ok : Bool)
deriving DecidableEq, Repr

end Sys2Proof
end

