-- ==== Sys2Proof/Decode.lean ====
section
/-! DEFINITION. The words of the table of operations and events. No row of the table gives bits, so no word spells a
command (log entry 8). -/

namespace Sys2Proof

/-- The command that a word spells by the table's bits: none, as no row gives any. -/
def decodeTableWord (_nbits _w : Nat) : Option Instr := none

end Sys2Proof
end

