-- ==== Sys2Proof/Config.lean ====
section
/-! DEFINITION. The free values: what the manual leaves open and the machine goes on with. None has a body, so
nothing can be proved of a value; each is named in the assumption log. -/

namespace Sys2Proof.Config

/-- A stamp of an island's cycle counter (R27–R30, R603): the draw of a free counter (log entry 7). -/
opaque stamp : Nat → BitVec 48

/-- The bytes of a region that the manual leaves undefined (R97, R150, R186, R310, R373, R469), by draw and
position (log entry 7). -/
opaque undefinedByte : Nat → Nat → BitVec 8

/-- A function value whose two bounds round apart at the working precision; by function, format code and
operand (log entry 17). R134 fixes the value; the model's evaluation does not reach it. -/
opaque hardCase : Nat → Nat → Nat → Nat

/-- The code of "true" of a scalar comparison (R136 gives no encoding; log entry 12). -/
opaque cmpTrue : BitVec 64

/-- The code of "false" of a scalar comparison. -/
opaque cmpFalse : BitVec 64

/-- The element that "compare to mask" writes for true, by element width in bits (log entry 12). -/
opaque maskTrue : Nat → Nat

/-- The element that "compare to mask" writes for false, by element width in bits. -/
opaque maskFalse : Nat → Nat

/-- Where a branch, a call, or a return without a call goes: instruction word, pc and S[SB] (R136 gives no target
field; log entry 12). -/
opaque branchTarget : BitVec 64 → BitVec 64 → BitVec 64 → BitVec 64

/-- Whether a conditional branch is taken: instruction word and S[SB] (log entry 12). -/
opaque branchTaken : BitVec 64 → BitVec 64 → Bool

/-- The value of a scalar shift by 64 or more (R136 does not say; log entry 12). -/
opaque wideShift : BitVec 64 → BitVec 64 → BitVec 64

/-- The conversion of an FP32 code to an integer where it has no exact integer in range, and its rounding
(R136 gives neither; log entry 12). -/
opaque toInteger : BitVec 32 → BitVec 64

/-- Which way LANE_ROTATE and ROW_ROTATE move (R136 names none; log entry 12). -/
opaque rotateUp : Bool

/-- The stochastic draw of a conversion in a kernel, for which R61 names no tensor (log entry 13). -/
opaque kernelDraw : Nat → Nat → Nat

/-- The stochastic draw of an element of a tensor beyond the limit of R63 (log entry 13). -/
opaque bigTensorDraw : Nat → Nat → Nat

/-- Whether the true row extent of a logical tensor of a context reaches the limit of R63 in a step: host software alone
knows it, and the descriptor does not say it. -/
opaque hugeTensor : Nat → Nat → Nat → Bool

/-- DUE under the reserved GOV_MODE 3, by draw (R471, R480; log entry 24). -/
opaque reservedDue : Nat → Bool

/-- A field of a record whose value the manual does not fix, by draw (log entry 7). -/
opaque openField : Nat → Nat

/-- The 32 bytes of hedged signing randomness, by draw (R549; log entry 16). -/
opaque signRandom : Nat → BitVec 256

/-- Whether blowing a fuse succeeds (R564 names FUSE_FAIL and gives no cause; log entry 16). -/
opaque fuseBlows : Nat → Bool

/-- The unique device secret and the root hash, 64 bytes each (R550). -/
opaque uds : List (BitVec 8)

/-- SHA3-512 of the vendor root public key, as fused (R550). -/
opaque rootHash : List (BitVec 8)

/-- The bytes that each of LC, fused SVN, REVOKE and SERIAL takes in the block of MR6, by position 0–3; R557 does not give the
widths (log entry 31). -/
opaque mr6Width : Nat → Nat

/-- The bytes of a last-waltz record that its digest is over: R525 names the fields, and gives no layout (log entry 32). -/
opaque recordBytes : Nat → Nat → Nat → TestResult → List (BitVec 8)

/-- The incarnation number that an end chooses at a training: of its training count and its serial, by no stated function
(R341; log entry 15). -/
opaque incarnation : Nat → BitVec 64 → BitVec 32

/-- Free entries at the receiving end of a bundle when it starts, by die and bundle: the credits that its sending end holds
then (R24; R115 sizes some buffers, and no rule shares them among the bundles of a group; log entry 27). -/
opaque bundleEntries : Nat → Nat → Nat

/-- A word read in the debug range, by BAR0 offset: its contents are vendor test (R613; log entry 14). -/
opaque debugWord : Nat → BitVec 64

end Sys2Proof.Config
end

