-- ==== Sys2Proof/Machine/Bits.lean ====
section
/-! DEFINITION. Bit fields, byte order, and the canonical sparse tables that hold registers, memory and cells. -/

namespace Sys2Proof.Machine

/-- Bits [lsb + width − 1 : lsb] of a number (R8: bit 0 is the least significant). -/
def bits (n lsb width : Nat) : Nat := (n >>> lsb) % 2 ^ width

/-- `n` with bits [lsb + width − 1 : lsb] replaced by the low bits of `v`. -/
def setBits (n lsb width v : Nat) : Nat :=
  n % 2 ^ lsb + ((v % 2 ^ width) <<< lsb) + ((n >>> (lsb + width)) <<< (lsb + width))

/-- Whether bit `i` of a number is 1. -/
def bitOn (n i : Nat) : Bool := bits n i 1 == 1

/-- The low `k` bytes of a number, little-endian (R8). -/
def leBytes : Nat → Nat → List Byte
  | 0, _ => []
  | k + 1, n => BitVec.ofNat 8 n :: leBytes k (n / 256)

/-- The number that a little-endian byte list spells (R8). -/
def leNat : List Byte → Nat
  | [] => 0
  | b :: t => b.toNat + 256 * leNat t

/-- Words as bytes, each word little-endian. -/
def wordBytes : List Nat → List Byte
  | [] => []
  | w :: t => leBytes 8 w ++ wordBytes t

/-- ⌈a / b⌉. -/
def ceilDiv (a b : Nat) : Nat := (a + b - 1) / b

/-- A sparse table: sorted keys, no entry equal to what an unlisted key reads as. -/
abbrev Table (α : Type) := List (Nat × α)

/-- The entry of key `k`, or what an unlisted key reads as. -/
def Table.get {α : Type} (dflt : Nat → α) : Table α → Nat → α
  | [], k => dflt k
  | (j, v) :: t, k => if k = j then v else Table.get dflt t k

/-- The table with key `k` set to `v`, in canonical form. -/
def Table.set {α : Type} [DecidableEq α] (dflt : Nat → α) : Table α → Nat → α → Table α
  | [], k, v => if v = dflt k then [] else [(k, v)]
  | (j, w) :: t, k, v =>
    if k < j then (if v = dflt k then (j, w) :: t else (k, v) :: (j, w) :: t)
    else if k = j then (if v = dflt k then t else (k, v) :: t)
    else (j, w) :: Table.set dflt t k v

/-- The canonical form: keys strictly rising, and no entry that an unlisted key would read as. -/
abbrev Table.wf {α : Type} (dflt : Nat → α) (t : Table α) : Prop :=
  List.Pairwise (fun a b => a.1 < b.1) t ∧ ∀ e ∈ t, e.2 ≠ dflt e.1

/-- A set of numbers as a strictly rising list: insertion. -/
def setInsert (k : Nat) : List Nat → List Nat
  | [] => [k]
  | j :: t => if k < j then k :: j :: t else if k = j then j :: t else j :: setInsert k t

/-- A set of numbers as a strictly rising list: removal. -/
def setErase (k : Nat) : List Nat → List Nat
  | [] => []
  | j :: t => if k = j then t else j :: setErase k t

/-- The first element that satisfies `p`, and its position. -/
def findPos {α : Type} (p : α → Bool) : List α → Nat → Option (Nat × α)
  | [], _ => none
  | a :: t, i => if p a then some (i, a) else findPos p t (i + 1)

/-- The list without its first element that satisfies `p`. -/
def dropFirst {α : Type} (p : α → Bool) : List α → List α
  | [] => []
  | a :: t => if p a then t else a :: dropFirst p t

/-- Apply `f` to every element that satisfies `p`. -/
def mapIf {α : Type} (p : α → Bool) (f : α → α) (l : List α) : List α :=
  l.map fun a => if p a then f a else a

/-- Fold over 0, 1, …, n − 1, in that order. -/
def forUpto {σ : Type} (f : Nat → σ → σ) : Nat → σ → σ
  | 0, s => s
  | n + 1, s => f n (forUpto f n s)

/-- Fold over a, a + 1, …, a + n − 1. -/
def forFrom {σ : Type} (f : Nat → σ → σ) (a n : Nat) (s : σ) : σ :=
  forUpto (fun i t => f (a + i) t) n s

/-- The list f 0, f 1, …, f (n − 1). -/
def tabulate {α : Type} (f : Nat → α) (n : Nat) : List α := (List.range n).map f

/-- Entry `i` of a list, or a default. -/
def nthD {α : Type} (l : List α) (i : Nat) (d : α) : α := l.getD i d

/-- Cut a list into pieces of `k`, the last one short; `fuel` bounds the number of pieces. -/
def chunks {α : Type} (k : Nat) : Nat → List α → List (List α)
  | 0, _ => []
  | _, [] => []
  | fuel + 1, l => l.take k :: chunks k fuel (l.drop k)

/-- The signed value of a two's complement field of `w` bits. -/
def signed (w n : Nat) : Int := if n % 2 ^ w < 2 ^ (w - 1) then (n % 2 ^ w : Nat) else ((n % 2 ^ w : Nat) : Int) - (2 ^ w : Nat)

end Sys2Proof.Machine
end

