-- ==== Sys2Proof/Machine/Regs.lean ====
section
/-! DEFINITION. The register map (R17, R611, R615 and the register rules each block's line names): the pages, the
fields by offset and bits, the counters, the reset words and the writable bits. A field of a table takes the
entry's number. Names are the manual's, a field's after its register's. -/

namespace Sys2Proof.Machine

/-- A register field: byte offset in its page, least significant bit, width. -/
structure Fld where
  off   : Nat
  lsb   : Nat
  width : Nat
deriving DecidableEq, Repr

/-- BAR0 offset of the page of a block index on a die (R17). -/
def page (die block : Nat) : Nat := die * 0x1000000 + block * 0x10000

/-- Die index of the floor (R16). -/
def floorDie : Nat := 4

/-- Block indices of R17. -/
abbrev B.CAP : Nat := 0x00
abbrev B.PWR : Nat := 0x01
abbrev B.ERR : Nat := 0x02
abbrev B.PMU : Nat := 0x03
abbrev B.BST : Nat := 0x04
abbrev B.D2D : Nat := 0x05
abbrev B.ARY : Nat := 0x08
abbrev B.ACC : Nat := 0x09
abbrev B.VEC : Nat := 0x0A
abbrev B.CAL : Nat := 0x0B
abbrev B.SYN : Nat := 0x0C
abbrev B.JCX : Nat := 0x0D
abbrev B.NUM : Nat := 0x0E
abbrev B.STG : Nat := 0x10
abbrev B.WBF : Nat := 0x11
abbrev B.FIG : Nat := 0x12
abbrev B.CLX : Nat := 0x13
abbrev B.SNP : Nat := 0x14
abbrev B.DGA : Nat := 0x15
abbrev B.SEC : Nat := 0x16
abbrev B.HIF : Nat := 0x18
abbrev B.MCT : Nat := 0x20
abbrev B.OPX : Nat := 0x30

/-- ID (R616). -/
def R.ID : Fld := ⟨0x0, 0, 64⟩
def R.ID_VENDOR : Fld := ⟨0x0, 48, 16⟩
def R.ID_TYPE : Fld := ⟨0x0, 40, 8⟩
def R.ID_DIE : Fld := ⟨0x0, 32, 8⟩
def R.ID_INSTANCE : Fld := ⟨0x0, 24, 8⟩
def R.ID_MAJOR : Fld := ⟨0x0, 8, 8⟩
def R.ID_MINOR : Fld := ⟨0x0, 0, 8⟩
/-- CAPS (R618). -/
def R.CAPS : Fld := ⟨0x8, 0, 64⟩
def R.CAPS_COUNTERS : Fld := ⟨0x8, 32, 16⟩
def R.CAPS_DEBUG : Fld := ⟨0x8, 18, 1⟩
def R.CAPS_FENCE_IMPL : Fld := ⟨0x8, 16, 1⟩
def R.CAPS_INT_DEFINED : Fld := ⟨0x8, 0, 16⟩
/-- CTL (R619). -/
def R.CTL : Fld := ⟨0x10, 0, 64⟩
def R.CTL_SCRATCH : Fld := ⟨0x10, 0, 32⟩
/-- STS (R620). -/
def R.STS : Fld := ⟨0x18, 0, 64⟩
def R.STS_BUSY : Fld := ⟨0x18, 1, 1⟩
def R.STS_READY : Fld := ⟨0x18, 0, 1⟩
/-- ERR_SUM (R621). -/
def R.ERR_SUM : Fld := ⟨0x20, 0, 64⟩
def R.ERR_SUM_FATAL : Fld := ⟨0x20, 3, 1⟩
def R.ERR_SUM_CONTAINED : Fld := ⟨0x20, 2, 1⟩
def R.ERR_SUM_DEGRADED : Fld := ⟨0x20, 1, 1⟩
def R.ERR_SUM_CORRECTED : Fld := ⟨0x20, 0, 1⟩
/-- ERR_MASK (R622). -/
def R.ERR_MASK : Fld := ⟨0x28, 0, 64⟩
def R.ERR_MASK_MASK_DEGRADED : Fld := ⟨0x28, 1, 1⟩
def R.ERR_MASK_MASK_CORRECTED : Fld := ⟨0x28, 0, 1⟩
/-- FENCE (R624). -/
def R.FENCE : Fld := ⟨0x40, 0, 64⟩
def R.FENCE_HOST_FENCE : Fld := ⟨0x40, 0, 1⟩
/-- HEALTH (R506). -/
def R.HEALTH : Fld := ⟨0x48, 0, 64⟩
def R.HEALTH_SECOND : Fld := ⟨0x48, 3, 1⟩
def R.HEALTH_STATE : Fld := ⟨0x48, 0, 3⟩
/-- INT_STS (R623). -/
def R.INT_STS : Fld := ⟨0x30, 0, 64⟩
def R.INT_STS_CAUSE : Fld := ⟨0x30, 0, 16⟩
/-- INT_EN (R623). -/
def R.INT_EN : Fld := ⟨0x38, 0, 64⟩
def R.INT_EN_ENABLE : Fld := ⟨0x38, 0, 16⟩
/-- NUM_SR_SALT (R65). -/
def R.NUM_SR_SALT : Fld := ⟨0x180, 0, 64⟩
def R.NUM_SR_SALT_SALT_CUT : Fld := ⟨0x180, 32, 32⟩
def R.NUM_SR_SALT_SALT_PRI : Fld := ⟨0x180, 0, 32⟩
/-- ARY_MODE (R124). -/
def R.ARY_MODE : Fld := ⟨0x100, 0, 64⟩
def R.ARY_MODE_ARRAY_BUSY : Fld := ⟨0x100, 7, 1⟩
def R.ARY_MODE_GRAND_PENDING : Fld := ⟨0x100, 6, 1⟩
def R.ARY_MODE_ARRAY_USABLE : Fld := ⟨0x100, 3, 1⟩
def R.ARY_MODE_GRAND_AVAIL : Fld := ⟨0x100, 2, 1⟩
def R.ARY_MODE_GRAND_EN : Fld := ⟨0x100, 0, 1⟩
/-- ARY_SPARE_STS (R125). -/
def R.ARY_SPARE_STS : Fld := ⟨0x108, 0, 64⟩
def R.ARY_SPARE_STS_COLS_USED : Fld := ⟨0x108, 12, 4⟩
def R.ARY_SPARE_STS_ROWS_USED : Fld := ⟨0x108, 8, 4⟩
/-- ARY_SLOT_PENDING (R126). -/
def R.ARY_SLOT_PENDING (i : Nat) : Fld := ⟨0x110 + 8 * i, 0, 64⟩
def R.ARY_SLOT_PENDING_PENDING (i : Nat) : Fld := ⟨0x110 + 8 * i, 0, 48⟩
/-- SPARE_TABLE (R127). -/
def R.SPARE_TABLE (i : Nat) : Fld := ⟨0x1000 + 8 * i, 0, 64⟩
def R.SPARE_TABLE_VALID (i : Nat) : Fld := ⟨0x1000 + 8 * i, 63, 1⟩
def R.SPARE_TABLE_FIELD (i : Nat) : Fld := ⟨0x1000 + 8 * i, 62, 1⟩
def R.SPARE_TABLE_POSITION (i : Nat) : Fld := ⟨0x1000 + 8 * i, 0, 10⟩
/-- VEC_UNIT_USABLE (R167). -/
def R.VEC_UNIT_USABLE : Fld := ⟨0x100, 0, 64⟩
def R.VEC_UNIT_USABLE_USABLE : Fld := ⟨0x100, 0, 64⟩
/-- VEC_UNIT_BUSY (R168). -/
def R.VEC_UNIT_BUSY : Fld := ⟨0x108, 0, 64⟩
def R.VEC_UNIT_BUSY_BUSY : Fld := ⟨0x108, 0, 64⟩
/-- CAL_STATE (R169). -/
def R.CAL_STATE : Fld := ⟨0x100, 0, 64⟩
def R.CAL_STATE_CL7_STATE : Fld := ⟨0x100, 56, 8⟩
def R.CAL_STATE_CL6_STATE : Fld := ⟨0x100, 48, 8⟩
def R.CAL_STATE_CL5_STATE : Fld := ⟨0x100, 40, 8⟩
def R.CAL_STATE_CL4_STATE : Fld := ⟨0x100, 32, 8⟩
def R.CAL_STATE_CL3_STATE : Fld := ⟨0x100, 24, 8⟩
def R.CAL_STATE_CL2_STATE : Fld := ⟨0x100, 16, 8⟩
def R.CAL_STATE_CL1_STATE : Fld := ⟨0x100, 8, 8⟩
def R.CAL_STATE_CL0_STATE : Fld := ⟨0x100, 0, 8⟩
/-- NUM_TABLE (R206). -/
def R.NUM_TABLE (i : Nat) : Fld := ⟨0x100 + 8 * i, 0, 64⟩
def R.NUM_TABLE_BASE (i : Nat) : Fld := ⟨0x100 + 8 * i, 0, 52⟩
/-- NUM_HIST_DEPTH (R207). -/
def R.NUM_HIST_DEPTH : Fld := ⟨0x110, 0, 64⟩
def R.NUM_HIST_DEPTH_MARGIN_CUT : Fld := ⟨0x110, 24, 3⟩
def R.NUM_HIST_DEPTH_DEPTH_CUT : Fld := ⟨0x110, 16, 5⟩
def R.NUM_HIST_DEPTH_MARGIN_PRI : Fld := ⟨0x110, 8, 3⟩
def R.NUM_HIST_DEPTH_DEPTH_PRI : Fld := ⟨0x110, 0, 5⟩
/-- NUM_EVT_BASE (R208). -/
def R.NUM_EVT_BASE : Fld := ⟨0x120, 0, 64⟩
def R.NUM_EVT_BASE_BASE : Fld := ⟨0x120, 0, 52⟩
/-- NUM_EVT_CTL (R208). -/
def R.NUM_EVT_CTL : Fld := ⟨0x128, 0, 64⟩
def R.NUM_EVT_CTL_EN : Fld := ⟨0x128, 8, 1⟩
def R.NUM_EVT_CTL_SIZE : Fld := ⟨0x128, 0, 5⟩
/-- NUM_EVT_HEAD (R208). -/
def R.NUM_EVT_HEAD : Fld := ⟨0x130, 0, 64⟩
def R.NUM_EVT_HEAD_HEAD : Fld := ⟨0x130, 0, 32⟩
/-- NUM_EVT_TAIL (R208). -/
def R.NUM_EVT_TAIL : Fld := ⟨0x138, 0, 64⟩
def R.NUM_EVT_TAIL_TAIL : Fld := ⟨0x138, 0, 32⟩
/-- JCX_STEP (R209). -/
def R.JCX_STEP (i : Nat) : Fld := ⟨0x100 + 8 * i, 0, 64⟩
def R.JCX_STEP_STEP (i : Nat) : Fld := ⟨0x100 + 8 * i, 0, 32⟩
/-- JCX_NUM_STS (R210). -/
def R.JCX_NUM_STS (i : Nat) : Fld := ⟨0x110 + 8 * i, 0, 64⟩
def R.JCX_NUM_STS_BRACKET_LAYER (i : Nat) : Fld := ⟨0x110 + 8 * i, 32, 16⟩
def R.JCX_NUM_STS_FORCE_SHUT (i : Nat) : Fld := ⟨0x110 + 8 * i, 24, 1⟩
def R.JCX_NUM_STS_NF_AFTER_GATE (i : Nat) : Fld := ⟨0x110 + 8 * i, 16, 1⟩
def R.JCX_NUM_STS_FORCED (i : Nat) : Fld := ⟨0x110 + 8 * i, 12, 1⟩
def R.JCX_NUM_STS_DIE_ABSENT (i : Nat) : Fld := ⟨0x110 + 8 * i, 11, 1⟩
def R.JCX_NUM_STS_BRACKET_FAILED (i : Nat) : Fld := ⟨0x110 + 8 * i, 10, 1⟩
def R.JCX_NUM_STS_GATHER_MISMATCH (i : Nat) : Fld := ⟨0x110 + 8 * i, 9, 1⟩
def R.JCX_NUM_STS_NONFINITE (i : Nat) : Fld := ⟨0x110 + 8 * i, 8, 1⟩
def R.JCX_NUM_STS_STEP_CLEAN (i : Nat) : Fld := ⟨0x110 + 8 * i, 7, 1⟩
def R.JCX_NUM_STS_GATE_WAIT (i : Nat) : Fld := ⟨0x110 + 8 * i, 6, 1⟩
def R.JCX_NUM_STS_LEVEL (i : Nat) : Fld := ⟨0x110 + 8 * i, 4, 2⟩
def R.JCX_NUM_STS_BRACKET_OPEN (i : Nat) : Fld := ⟨0x110 + 8 * i, 3, 1⟩
def R.JCX_NUM_STS_GATE_DONE (i : Nat) : Fld := ⟨0x110 + 8 * i, 2, 1⟩
/-- JCX_GATE (R211). -/
def R.JCX_GATE (i : Nat) : Fld := ⟨0x120 + 8 * i, 0, 64⟩
def R.JCX_GATE_STEP (i : Nat) : Fld := ⟨0x120 + 8 * i, 32, 32⟩
def R.JCX_GATE_VALID (i : Nat) : Fld := ⟨0x120 + 8 * i, 31, 1⟩
def R.JCX_GATE_OPEN (i : Nat) : Fld := ⟨0x120 + 8 * i, 30, 1⟩
def R.JCX_GATE_WORD (i : Nat) : Fld := ⟨0x120 + 8 * i, 0, 16⟩
/-- MCT_SCRUB_CTL (R241). -/
def R.MCT_SCRUB_CTL : Fld := ⟨0x100, 0, 64⟩
def R.MCT_SCRUB_CTL_EN : Fld := ⟨0x100, 32, 1⟩
def R.MCT_SCRUB_CTL_INTERVAL : Fld := ⟨0x100, 0, 32⟩
/-- MCT_SCRUB_STS (R242). -/
def R.MCT_SCRUB_STS : Fld := ⟨0x108, 0, 64⟩
def R.MCT_SCRUB_STS_PASSES : Fld := ⟨0x108, 32, 32⟩
def R.MCT_SCRUB_STS_POSITION : Fld := ⟨0x108, 0, 31⟩
/-- MCT_RETIRE_CTL (R243). -/
def R.MCT_RETIRE_CTL : Fld := ⟨0x110, 0, 64⟩
def R.MCT_RETIRE_CTL_POOL_COUNT : Fld := ⟨0x110, 48, 11⟩
def R.MCT_RETIRE_CTL_CE_THRESH : Fld := ⟨0x110, 20, 16⟩
def R.MCT_RETIRE_CTL_POOL_PAGE : Fld := ⟨0x110, 0, 20⟩
/-- MCT_RETIRE_STS (R243). -/
def R.MCT_RETIRE_STS : Fld := ⟨0x118, 0, 64⟩
def R.MCT_RETIRE_STS_USED : Fld := ⟨0x118, 0, 11⟩
/-- RETIRE_TABLE (R244). -/
def R.RETIRE_TABLE (i : Nat) : Fld := ⟨0x1000 + 8 * i, 0, 64⟩
def R.RETIRE_TABLE_VALID (i : Nat) : Fld := ⟨0x1000 + 8 * i, 63, 1⟩
def R.RETIRE_TABLE_BY_HOST (i : Nat) : Fld := ⟨0x1000 + 8 * i, 62, 1⟩
def R.RETIRE_TABLE_SPARE_PAGE (i : Nat) : Fld := ⟨0x1000 + 8 * i, 32, 20⟩
def R.RETIRE_TABLE_FAULT_PAGE (i : Nat) : Fld := ⟨0x1000 + 8 * i, 0, 20⟩
/-- SNP_POOL_BASE (R245). -/
def R.SNP_POOL_BASE : Fld := ⟨0x100, 0, 64⟩
def R.SNP_POOL_BASE_BASE : Fld := ⟨0x100, 21, 31⟩
/-- SNP_POOL_SIZE (R245). -/
def R.SNP_POOL_SIZE : Fld := ⟨0x108, 0, 64⟩
def R.SNP_POOL_SIZE_SIZE : Fld := ⟨0x108, 0, 14⟩
/-- QUEUE_W0 (R286). -/
def R.QUEUE_W0 (i : Nat) : Fld := ⟨0x1000 + 64 * i, 0, 64⟩
def R.QUEUE_W0_BASE (i : Nat) : Fld := ⟨0x1000 + 64 * i, 6, 58⟩
/-- QUEUE_W1 (R286). -/
def R.QUEUE_W1 (i : Nat) : Fld := ⟨0x1008 + 64 * i, 0, 64⟩
def R.QUEUE_W1_EN (i : Nat) : Fld := ⟨0x1008 + 64 * i, 63, 1⟩
def R.QUEUE_W1_RUN (i : Nat) : Fld := ⟨0x1008 + 64 * i, 62, 1⟩
def R.QUEUE_W1_PROGRAM (i : Nat) : Fld := ⟨0x1008 + 64 * i, 61, 1⟩
def R.QUEUE_W1_LEGACY (i : Nat) : Fld := ⟨0x1008 + 64 * i, 60, 1⟩
def R.QUEUE_W1_CONTEXT (i : Nat) : Fld := ⟨0x1008 + 64 * i, 59, 1⟩
def R.QUEUE_W1_SPACE (i : Nat) : Fld := ⟨0x1008 + 64 * i, 57, 2⟩
def R.QUEUE_W1_OWNER (i : Nat) : Fld := ⟨0x1008 + 64 * i, 56, 1⟩
def R.QUEUE_W1_CLASS (i : Nat) : Fld := ⟨0x1008 + 64 * i, 54, 2⟩
def R.QUEUE_W1_CALLER (i : Nat) : Fld := ⟨0x1008 + 64 * i, 51, 3⟩
def R.QUEUE_W1_SIZE (i : Nat) : Fld := ⟨0x1008 + 64 * i, 46, 5⟩
def R.QUEUE_W1_DB_OVERRUN (i : Nat) : Fld := ⟨0x1008 + 64 * i, 45, 1⟩
def R.QUEUE_W1_OUTSTANDING (i : Nat) : Fld := ⟨0x1008 + 64 * i, 44, 1⟩
def R.QUEUE_W1_VECTOR (i : Nat) : Fld := ⟨0x1008 + 64 * i, 0, 11⟩
/-- QUEUE_W2 (R286). -/
def R.QUEUE_W2 (i : Nat) : Fld := ⟨0x1010 + 64 * i, 0, 64⟩
def R.QUEUE_W2_TAIL (i : Nat) : Fld := ⟨0x1010 + 64 * i, 32, 32⟩
def R.QUEUE_W2_HEAD (i : Nat) : Fld := ⟨0x1010 + 64 * i, 0, 32⟩
/-- QUEUE_W3 (R286). -/
def R.QUEUE_W3 (i : Nat) : Fld := ⟨0x1018 + 64 * i, 0, 64⟩
def R.QUEUE_W3_CPL_BASE (i : Nat) : Fld := ⟨0x1018 + 64 * i, 6, 58⟩
def R.QUEUE_W3_CPL_SPACE (i : Nat) : Fld := ⟨0x1018 + 64 * i, 4, 2⟩
/-- QUEUE_W4 (R286). -/
def R.QUEUE_W4 (i : Nat) : Fld := ⟨0x1020 + 64 * i, 0, 64⟩
def R.QUEUE_W4_CPL_HEAD (i : Nat) : Fld := ⟨0x1020 + 64 * i, 32, 32⟩
def R.QUEUE_W4_CPL_SIZE (i : Nat) : Fld := ⟨0x1020 + 64 * i, 0, 5⟩
/-- QUEUE_W5 (R286). -/
def R.QUEUE_W5 (i : Nat) : Fld := ⟨0x1028 + 64 * i, 0, 64⟩
def R.QUEUE_W5_FETCH (i : Nat) : Fld := ⟨0x1028 + 64 * i, 32, 16⟩
def R.QUEUE_W5_CPL_TAIL (i : Nat) : Fld := ⟨0x1028 + 64 * i, 0, 32⟩
/-- CAL_ARB_BOUND (R287). -/
def R.CAL_ARB_BOUND : Fld := ⟨0x108, 0, 64⟩
def R.CAL_ARB_BOUND_BOUND : Fld := ⟨0x108, 0, 17⟩
/-- STG_ARB_BOUND (R287). -/
def R.STG_ARB_BOUND : Fld := ⟨0x100, 0, 64⟩
def R.STG_ARB_BOUND_BOUND : Fld := ⟨0x100, 0, 17⟩
/-- SYN_OP (R289). -/
def R.SYN_OP (i : Nat) : Fld := ⟨0x100 + 8 * i, 0, 64⟩
def R.SYN_OP_VALUE (i : Nat) : Fld := ⟨0x100 + 8 * i, 32, 32⟩
def R.SYN_OP_OP (i : Nat) : Fld := ⟨0x100 + 8 * i, 30, 2⟩
def R.SYN_OP_INDEX (i : Nat) : Fld := ⟨0x100 + 8 * i, 0, 14⟩
/-- SYN_RESULT (R289). -/
def R.SYN_RESULT (i : Nat) : Fld := ⟨0x110 + 8 * i, 0, 64⟩
def R.SYN_RESULT_DONE (i : Nat) : Fld := ⟨0x110 + 8 * i, 63, 1⟩
def R.SYN_RESULT_VALUE (i : Nat) : Fld := ⟨0x110 + 8 * i, 0, 32⟩
/-- SYN_CUT_RANGE (R290). -/
def R.SYN_CUT_RANGE : Fld := ⟨0x120, 0, 64⟩
def R.SYN_CUT_RANGE_COUNT : Fld := ⟨0x120, 32, 15⟩
def R.SYN_CUT_RANGE_BASE : Fld := ⟨0x120, 0, 14⟩
/-- WATCH_TABLE (R291). -/
def R.WATCH_TABLE (i : Nat) : Fld := ⟨0x1000 + 8 * i, 0, 64⟩
def R.WATCH_TABLE_EN (i : Nat) : Fld := ⟨0x1000 + 8 * i, 63, 1⟩
def R.WATCH_TABLE_FIRED (i : Nat) : Fld := ⟨0x1000 + 8 * i, 62, 1⟩
def R.WATCH_TABLE_INDEX (i : Nat) : Fld := ⟨0x1000 + 8 * i, 44, 14⟩
def R.WATCH_TABLE_HOST (i : Nat) : Fld := ⟨0x1000 + 8 * i, 43, 1⟩
def R.WATCH_TABLE_VECTOR (i : Nat) : Fld := ⟨0x1000 + 8 * i, 32, 11⟩
def R.WATCH_TABLE_THRESH (i : Nat) : Fld := ⟨0x1000 + 8 * i, 0, 32⟩
/-- JCX_CTX_CTL (R293). -/
def R.JCX_CTX_CTL : Fld := ⟨0x130, 0, 64⟩
def R.JCX_CTX_CTL_OVERLAP_CUT : Fld := ⟨0x130, 9, 1⟩
def R.JCX_CTX_CTL_OVERLAP_PRI : Fld := ⟨0x130, 8, 1⟩
def R.JCX_CTX_CTL_CUT_EN : Fld := ⟨0x130, 0, 1⟩
/-- PARTITION_W0 (R294). -/
def R.PARTITION_W0 (i : Nat) : Fld := ⟨0x1000 + 16 * i, 0, 64⟩
def R.PARTITION_W0_VALID (i : Nat) : Fld := ⟨0x1000 + 16 * i, 63, 1⟩
def R.PARTITION_W0_BASE (i : Nat) : Fld := ⟨0x1000 + 16 * i, 0, 36⟩
/-- PARTITION_W1 (R294). -/
def R.PARTITION_W1 (i : Nat) : Fld := ⟨0x1008 + 16 * i, 0, 64⟩
def R.PARTITION_W1_LIMIT (i : Nat) : Fld := ⟨0x1008 + 16 * i, 0, 36⟩
/-- D2D_LINK_STS (R317). -/
def R.D2D_LINK_STS : Fld := ⟨0x100, 0, 64⟩
def R.D2D_LINK_STS_FLOOR_LOST : Fld := ⟨0x100, 63, 1⟩
def R.D2D_LINK_STS_IN_FENCED : Fld := ⟨0x100, 51, 10⟩
def R.D2D_LINK_STS_IN_DEGRADED : Fld := ⟨0x100, 41, 10⟩
def R.D2D_LINK_STS_OUT_FENCED : Fld := ⟨0x100, 31, 10⟩
def R.D2D_LINK_STS_OUT_DEGRADED : Fld := ⟨0x100, 21, 10⟩
def R.D2D_LINK_STS_BORROWED : Fld := ⟨0x100, 11, 10⟩
/-- D2D_DIE_CTL (R318). -/
def R.D2D_DIE_CTL (i : Nat) : Fld := ⟨0x100 + 8 * i, 0, 64⟩
def R.D2D_DIE_CTL_STATE (i : Nat) : Fld := ⟨0x100 + 8 * i, 8, 4⟩
def R.D2D_DIE_CTL_CAUSE (i : Nat) : Fld := ⟨0x100 + 8 * i, 2, 3⟩
def R.D2D_DIE_CTL_RESET_REQ (i : Nat) : Fld := ⟨0x100 + 8 * i, 1, 1⟩
/-- D2D_MAP_SEL (R319). -/
def R.D2D_MAP_SEL : Fld := ⟨0x120, 0, 64⟩
def R.D2D_MAP_SEL_DIE : Fld := ⟨0x120, 0, 2⟩
/-- D2D_DIAG_STS (R320). -/
def R.D2D_DIAG_STS : Fld := ⟨0x128, 0, 64⟩
def R.D2D_DIAG_STS_UP_12 : Fld := ⟨0x128, 31, 1⟩
def R.D2D_DIAG_STS_REROUTED_12 : Fld := ⟨0x128, 30, 1⟩
def R.D2D_DIAG_STS_LANES_LOST_12 : Fld := ⟨0x128, 16, 8⟩
def R.D2D_DIAG_STS_UP_03 : Fld := ⟨0x128, 15, 1⟩
def R.D2D_DIAG_STS_REROUTED_03 : Fld := ⟨0x128, 14, 1⟩
def R.D2D_DIAG_STS_LANES_LOST_03 : Fld := ⟨0x128, 0, 8⟩
/-- LANE_MAP (R321). -/
def R.LANE_MAP (i : Nat) : Fld := ⟨0x1000 + 8 * i, 0, 64⟩
def R.LANE_MAP_STATE (i : Nat) : Fld := ⟨0x1000 + 8 * i, 62, 2⟩
def R.LANE_MAP_FIELD (i : Nat) : Fld := ⟨0x1000 + 8 * i, 61, 1⟩
def R.LANE_MAP_BORROWED (i : Nat) : Fld := ⟨0x1000 + 8 * i, 60, 1⟩
def R.LANE_MAP_GROUP (i : Nat) : Fld := ⟨0x1000 + 8 * i, 52, 4⟩
def R.LANE_MAP_SPARE3 (i : Nat) : Fld := ⟨0x1000 + 8 * i, 21, 7⟩
def R.LANE_MAP_SPARE2 (i : Nat) : Fld := ⟨0x1000 + 8 * i, 14, 7⟩
def R.LANE_MAP_SPARE1 (i : Nat) : Fld := ⟨0x1000 + 8 * i, 7, 7⟩
def R.LANE_MAP_SPARE0 (i : Nat) : Fld := ⟨0x1000 + 8 * i, 0, 7⟩
/-- OPX_PORT_CTL (R352). -/
def R.OPX_PORT_CTL : Fld := ⟨0x100, 0, 64⟩
def R.OPX_PORT_CTL_FEED_PREF : Fld := ⟨0x100, 5, 1⟩
def R.OPX_PORT_CTL_GEN1_ALLOW : Fld := ⟨0x100, 4, 1⟩
def R.OPX_PORT_CTL_SL1_EN : Fld := ⟨0x100, 1, 1⟩
def R.OPX_PORT_CTL_SL0_EN : Fld := ⟨0x100, 0, 1⟩
/-- OPX_PORT_STS (R353). -/
def R.OPX_PORT_STS : Fld := ⟨0x108, 0, 64⟩
def R.OPX_PORT_STS_DIAG_SRC : Fld := ⟨0x108, 32, 3⟩
def R.OPX_PORT_STS_SL1_STATE : Fld := ⟨0x108, 28, 4⟩
def R.OPX_PORT_STS_SL0_STATE : Fld := ⟨0x108, 24, 4⟩
def R.OPX_PORT_STS_SL1_GEN : Fld := ⟨0x108, 23, 1⟩
def R.OPX_PORT_STS_SL0_GEN : Fld := ⟨0x108, 22, 1⟩
def R.OPX_PORT_STS_FEED_SEL : Fld := ⟨0x108, 18, 1⟩
def R.OPX_PORT_STS_FEED_B_LIT : Fld := ⟨0x108, 9, 9⟩
def R.OPX_PORT_STS_FEED_A_LIT : Fld := ⟨0x108, 0, 9⟩
/-- OPX_SL_STS (R354). -/
def R.OPX_SL_STS (i : Nat) : Fld := ⟨0x110 + 8 * i, 0, 64⟩
def R.OPX_SL_STS_PEER_INC (i : Nat) : Fld := ⟨0x110 + 8 * i, 32, 32⟩
def R.OPX_SL_STS_LOOP (i : Nat) : Fld := ⟨0x110 + 8 * i, 16, 16⟩
def R.OPX_SL_STS_RX_LANES (i : Nat) : Fld := ⟨0x110 + 8 * i, 12, 4⟩
def R.OPX_SL_STS_TX_LANES (i : Nat) : Fld := ⟨0x110 + 8 * i, 8, 4⟩
/-- OPX_FEED_THRESH (R355). -/
def R.OPX_FEED_THRESH : Fld := ⟨0x120, 0, 64⟩
def R.OPX_FEED_THRESH_THRESH : Fld := ⟨0x120, 0, 16⟩
/-- OPX_OTDR_CTL (R356). -/
def R.OPX_OTDR_CTL : Fld := ⟨0x128, 0, 64⟩
def R.OPX_OTDR_CTL_NG : Fld := ⟨0x128, 32, 16⟩
def R.OPX_OTDR_CTL_START : Fld := ⟨0x128, 31, 1⟩
def R.OPX_OTDR_CTL_FIBRE : Fld := ⟨0x128, 30, 1⟩
def R.OPX_OTDR_CTL_WAVE : Fld := ⟨0x128, 26, 4⟩
def R.OPX_OTDR_CTL_AVG : Fld := ⟨0x128, 21, 5⟩
def R.OPX_OTDR_CTL_REFL_MIN : Fld := ⟨0x128, 13, 8⟩
/-- OPX_OTDR_STS (R357). -/
def R.OPX_OTDR_STS : Fld := ⟨0x130, 0, 64⟩
def R.OPX_OTDR_STS_BUSY : Fld := ⟨0x130, 31, 1⟩
def R.OPX_OTDR_STS_DONE : Fld := ⟨0x130, 30, 1⟩
def R.OPX_OTDR_STS_RESULT : Fld := ⟨0x130, 28, 2⟩
def R.OPX_OTDR_STS_EVENTS : Fld := ⟨0x130, 0, 5⟩
/-- OTDR_EVENT (R357). -/
def R.OTDR_EVENT (i : Nat) : Fld := ⟨0x1100 + 8 * i, 0, 64⟩
def R.OTDR_EVENT_RAW (i : Nat) : Fld := ⟨0x1100 + 8 * i, 44, 20⟩
def R.OTDR_EVENT_DIST (i : Nat) : Fld := ⟨0x1100 + 8 * i, 20, 12⟩
def R.OTDR_EVENT_REFL (i : Nat) : Fld := ⟨0x1100 + 8 * i, 0, 8⟩
/-- OPX_LANE_MAP (R358). -/
def R.OPX_LANE_MAP (i : Nat) : Fld := ⟨0x1000 + 8 * i, 0, 64⟩
def R.OPX_LANE_MAP_SPARE_USED (i : Nat) : Fld := ⟨0x1000 + 8 * i, 63, 1⟩
def R.OPX_LANE_MAP_FIELD (i : Nat) : Fld := ⟨0x1000 + 8 * i, 62, 1⟩
def R.OPX_LANE_MAP_LOST (i : Nat) : Fld := ⟨0x1000 + 8 * i, 48, 8⟩
def R.OPX_LANE_MAP_WAVE (i : Nat) : Fld := ⟨0x1000 + 8 * i, 0, 32⟩
/-- CHANNEL_TABLE (R359). -/
def R.CHANNEL_TABLE (i : Nat) : Fld := ⟨0x1200 + 8 * i, 0, 64⟩
def R.CHANNEL_TABLE_ALLOC (i : Nat) : Fld := ⟨0x1200 + 8 * i, 0, 14⟩
/-- CLX_LAYOUT (R400). -/
def R.CLX_LAYOUT : Fld := ⟨0x100, 0, 64⟩
def R.CLX_LAYOUT_MODE : Fld := ⟨0x100, 63, 1⟩
def R.CLX_LAYOUT_STAGES : Fld := ⟨0x100, 32, 9⟩
def R.CLX_LAYOUT_SEQ_SIZE : Fld := ⟨0x100, 16, 7⟩
def R.CLX_LAYOUT_DATA_SIZE : Fld := ⟨0x100, 0, 14⟩
/-- CLX_POS (R401). -/
def R.CLX_POS : Fld := ⟨0x108, 0, 64⟩
def R.CLX_POS_RANK : Fld := ⟨0x108, 48, 13⟩
def R.CLX_POS_STAGE : Fld := ⟨0x108, 32, 9⟩
def R.CLX_POS_SEQ_POS : Fld := ⟨0x108, 16, 7⟩
def R.CLX_POS_DATA_POS : Fld := ⟨0x108, 0, 13⟩
/-- CLX_STAT_CTL (R402). -/
def R.CLX_STAT_CTL : Fld := ⟨0x110, 0, 64⟩
def R.CLX_STAT_CTL_BATCH : Fld := ⟨0x110, 32, 32⟩
def R.CLX_STAT_CTL_CLEAR : Fld := ⟨0x110, 9, 1⟩
def R.CLX_STAT_CTL_EN : Fld := ⟨0x110, 8, 1⟩
def R.CLX_STAT_CTL_K : Fld := ⟨0x110, 0, 4⟩
/-- CLX_NOISE_TOTAL (R403). -/
def R.CLX_NOISE_TOTAL : Fld := ⟨0x118, 0, 64⟩
def R.CLX_NOISE_TOTAL_BNOISE_TOTAL : Fld := ⟨0x118, 0, 64⟩
/-- CLX_EPOCH_STS (R404). -/
def R.CLX_EPOCH_STS : Fld := ⟨0x120, 0, 64⟩
def R.CLX_EPOCH_STS_EPOCH : Fld := ⟨0x120, 48, 16⟩
def R.CLX_EPOCH_STS_SWITCH_PENDING : Fld := ⟨0x120, 47, 1⟩
def R.CLX_EPOCH_STS_LAYOUT_REFUSED : Fld := ⟨0x120, 46, 1⟩
def R.CLX_EPOCH_STS_INFLIGHT : Fld := ⟨0x120, 0, 32⟩
/-- SHARD_W0 (R405). -/
def R.SHARD_W0 (i : Nat) : Fld := ⟨0x1000 + 16 * i, 0, 64⟩
def R.SHARD_W0_VALID (i : Nat) : Fld := ⟨0x1000 + 16 * i, 63, 1⟩
def R.SHARD_W0_WRITTEN (i : Nat) : Fld := ⟨0x1000 + 16 * i, 62, 1⟩
def R.SHARD_W0_BASE (i : Nat) : Fld := ⟨0x1000 + 16 * i, 0, 52⟩
/-- SHARD_W1 (R405). -/
def R.SHARD_W1 (i : Nat) : Fld := ⟨0x1008 + 16 * i, 0, 64⟩
def R.SHARD_W1_WGEN (i : Nat) : Fld := ⟨0x1008 + 16 * i, 32, 32⟩
def R.SHARD_W1_UNITS (i : Nat) : Fld := ⟨0x1008 + 16 * i, 0, 32⟩
/-- STAT_W0 (R406). -/
def R.STAT_W0 (i : Nat) : Fld := ⟨0x5000 + 32 * i, 0, 64⟩
def R.STAT_W0_G2_EMA (i : Nat) : Fld := ⟨0x5000 + 32 * i, 0, 64⟩
/-- STAT_W1 (R406). -/
def R.STAT_W1 (i : Nat) : Fld := ⟨0x5008 + 32 * i, 0, 64⟩
def R.STAT_W1_S_EMA (i : Nat) : Fld := ⟨0x5008 + 32 * i, 0, 64⟩
/-- STAT_W2 (R406). -/
def R.STAT_W2 (i : Nat) : Fld := ⟨0x5010 + 32 * i, 0, 64⟩
def R.STAT_W2_BNOISE (i : Nat) : Fld := ⟨0x5010 + 32 * i, 0, 64⟩
/-- STAT_W3 (R406). -/
def R.STAT_W3 (i : Nat) : Fld := ⟨0x5018 + 32 * i, 0, 64⟩
def R.STAT_W3_STEP (i : Nat) : Fld := ⟨0x5018 + 32 * i, 32, 32⟩
def R.STAT_W3_VALID (i : Nat) : Fld := ⟨0x5018 + 32 * i, 31, 1⟩
def R.STAT_W3_EST_VALID (i : Nat) : Fld := ⟨0x5018 + 32 * i, 30, 1⟩
def R.STAT_W3_COUNT (i : Nat) : Fld := ⟨0x5018 + 32 * i, 0, 16⟩
/-- FIG_CTL (R436). -/
def R.FIG_CTL : Fld := ⟨0x100, 0, 64⟩
def R.FIG_CTL_DRAIN_LIMIT : Fld := ⟨0x100, 0, 32⟩
/-- FIG_STS (R437). -/
def R.FIG_STS : Fld := ⟨0x108, 0, 64⟩
def R.FIG_STS_STEP : Fld := ⟨0x108, 32, 32⟩
def R.FIG_STS_CHANGING : Fld := ⟨0x108, 15, 1⟩
def R.FIG_STS_STALE : Fld := ⟨0x108, 14, 1⟩
def R.FIG_STS_PHASE : Fld := ⟨0x108, 8, 3⟩
def R.FIG_STS_FIGURE : Fld := ⟨0x108, 4, 3⟩
/-- FIG_PHASE_MAP (R438). -/
def R.FIG_PHASE_MAP : Fld := ⟨0x110, 0, 64⟩
def R.FIG_PHASE_MAP_POSE : Fld := ⟨0x110, 12, 3⟩
def R.FIG_PHASE_MAP_EVAL : Fld := ⟨0x110, 9, 3⟩
def R.FIG_PHASE_MAP_OPT : Fld := ⟨0x110, 6, 3⟩
def R.FIG_PHASE_MAP_BWD : Fld := ⟨0x110, 3, 3⟩
def R.FIG_PHASE_MAP_FWD : Fld := ⟨0x110, 0, 3⟩
/-- PEER_TABLE (R439). -/
def R.PEER_TABLE (i : Nat) : Fld := ⟨0x1000 + 8 * i, 0, 64⟩
def R.PEER_TABLE_VALID (i : Nat) : Fld := ⟨0x1000 + 8 * i, 63, 1⟩
def R.PEER_TABLE_PENDING (i : Nat) : Fld := ⟨0x1000 + 8 * i, 62, 1⟩
def R.PEER_TABLE_RANK (i : Nat) : Fld := ⟨0x1000 + 8 * i, 0, 13⟩
/-- FIG_ENTRY (R440). -/
def R.FIG_ENTRY (f e : Nat) : Fld := ⟨0x2000 + 0x200 * f + 8 * e, 0, 64⟩
def R.FIG_ENTRY_WEIGHT (f e : Nat) : Fld := ⟨0x2000 + 0x200 * f + 8 * e, 8, 4⟩
def R.FIG_ENTRY_GROUPS (f e : Nat) : Fld := ⟨0x2000 + 0x200 * f + 8 * e, 0, 8⟩
/-- CHW of channel c at entry e of figure slot f (R440). -/
def R.FIG_WEIGHTS (i : Nat) : Fld := ⟨0x2100 + 512 * i, 0, 64⟩
def R.FIG_WEIGHTS_CHW (i : Nat) : Fld := ⟨0x2100 + 512 * i, 0, 36⟩
/-- JCX_CUT_LIMIT (R441). -/
def R.JCX_CUT_LIMIT : Fld := ⟨0x138, 0, 64⟩
def R.JCX_CUT_LIMIT_VEC_KELEMS : Fld := ⟨0x138, 40, 24⟩
def R.JCX_CUT_LIMIT_KERNEL_EN : Fld := ⟨0x138, 39, 1⟩
def R.JCX_CUT_LIMIT_ARY_CYCLES : Fld := ⟨0x138, 0, 32⟩
/-- SNP_CTL (R480). -/
def R.SNP_CTL : Fld := ⟨0x110, 0, 64⟩
def R.SNP_CTL_LOSS_LIMIT : Fld := ⟨0x110, 32, 32⟩
def R.SNP_CTL_GOV_MODE : Fld := ⟨0x110, 16, 2⟩
def R.SNP_CTL_DOMAIN_ID : Fld := ⟨0x110, 0, 16⟩
/-- SNP_PARTNER (R481). -/
def R.SNP_PARTNER : Fld := ⟨0x118, 0, 64⟩
def R.SNP_PARTNER_NEXT_VALID : Fld := ⟨0x118, 63, 1⟩
def R.SNP_PARTNER_PREV_VALID : Fld := ⟨0x118, 62, 1⟩
def R.SNP_PARTNER_PENDING : Fld := ⟨0x118, 61, 1⟩
def R.SNP_PARTNER_NEXT_RANK : Fld := ⟨0x118, 48, 13⟩
def R.SNP_PARTNER_PREV_RANK : Fld := ⟨0x118, 0, 13⟩
/-- SNP_BANK (R482). -/
def R.SNP_BANK (i : Nat) : Fld := ⟨0x120 + 8 * i, 0, 64⟩
def R.SNP_BANK_BASE (i : Nat) : Fld := ⟨0x120 + 8 * i, 21, 31⟩
/-- SNP_PBANK_PAGES (R482). -/
def R.SNP_PBANK_PAGES : Fld := ⟨0x140, 0, 64⟩
def R.SNP_PBANK_PAGES_PAGES : Fld := ⟨0x140, 0, 15⟩
/-- SNP_STS (R483). -/
def R.SNP_STS : Fld := ⟨0x148, 0, 64⟩
def R.SNP_STS_PAGES_SENT : Fld := ⟨0x148, 49, 15⟩
def R.SNP_STS_NPAGES : Fld := ⟨0x148, 34, 15⟩
def R.SNP_STS_P1_STATE : Fld := ⟨0x148, 21, 3⟩
def R.SNP_STS_P0_STATE : Fld := ⟨0x148, 18, 3⟩
def R.SNP_STS_K1_STATE : Fld := ⟨0x148, 15, 3⟩
def R.SNP_STS_K0_STATE : Fld := ⟨0x148, 12, 3⟩
def R.SNP_STS_CAUSE : Fld := ⟨0x148, 8, 4⟩
def R.SNP_STS_PROM_STATE : Fld := ⟨0x148, 0, 3⟩
/-- SNP_POSE_K (R484). -/
def R.SNP_POSE_K : Fld := ⟨0x150, 0, 64⟩
def R.SNP_POSE_K_K1_POSE : Fld := ⟨0x150, 32, 32⟩
def R.SNP_POSE_K_K0_POSE : Fld := ⟨0x150, 0, 32⟩
/-- SNP_POSE_P (R484). -/
def R.SNP_POSE_P : Fld := ⟨0x158, 0, 64⟩
def R.SNP_POSE_P_P1_POSE : Fld := ⟨0x158, 32, 32⟩
def R.SNP_POSE_P_P0_POSE : Fld := ⟨0x158, 0, 32⟩
/-- SNP_HOLD (R485). -/
def R.SNP_HOLD : Fld := ⟨0x160, 0, 64⟩
def R.SNP_HOLD_HOLD : Fld := ⟨0x160, 0, 4⟩
/-- SNP_GOV_CTL (R486). -/
def R.SNP_GOV_CTL : Fld := ⟨0x168, 0, 64⟩
def R.SNP_GOV_CTL_MAX_INTERVAL : Fld := ⟨0x168, 48, 16⟩
def R.SNP_GOV_CTL_MIN_INTERVAL : Fld := ⟨0x168, 32, 16⟩
def R.SNP_GOV_CTL_MIN_SPACING : Fld := ⟨0x168, 16, 16⟩
def R.SNP_GOV_CTL_RISK_THRESH : Fld := ⟨0x168, 0, 10⟩
/-- SNP_GOV_RATE (R486). -/
def R.SNP_GOV_RATE : Fld := ⟨0x170, 0, 64⟩
def R.SNP_GOV_RATE_RATE : Fld := ⟨0x170, 32, 32⟩
def R.SNP_GOV_RATE_COST : Fld := ⟨0x170, 0, 32⟩
/-- SNP_GOV_WEIGHTS (R486). -/
def R.SNP_GOV_WEIGHTS : Fld := ⟨0x178, 0, 64⟩
def R.SNP_GOV_WEIGHTS_SHIFT_THERMAL : Fld := ⟨0x178, 15, 5⟩
def R.SNP_GOV_WEIGHTS_SHIFT_REPLAY : Fld := ⟨0x178, 10, 5⟩
def R.SNP_GOV_WEIGHTS_SHIFT_LANE : Fld := ⟨0x178, 5, 5⟩
def R.SNP_GOV_WEIGHTS_SHIFT_MEM : Fld := ⟨0x178, 0, 5⟩
/-- SNP_GOV_STS (R487). -/
def R.SNP_GOV_STS : Fld := ⟨0x180, 0, 64⟩
def R.SNP_GOV_STS_INTERVAL : Fld := ⟨0x180, 48, 16⟩
def R.SNP_GOV_STS_STEPS_SINCE : Fld := ⟨0x180, 32, 16⟩
def R.SNP_GOV_STS_JOB_DUE : Fld := ⟨0x180, 17, 1⟩
def R.SNP_GOV_STS_DUE : Fld := ⟨0x180, 16, 1⟩
def R.SNP_GOV_STS_HEALTH : Fld := ⟨0x180, 0, 10⟩
/-- SNP_DRAIN (R488). -/
def R.SNP_DRAIN : Fld := ⟨0x188, 0, 64⟩
def R.SNP_DRAIN_STATE : Fld := ⟨0x188, 1, 2⟩
def R.SNP_DRAIN_REQ : Fld := ⟨0x188, 0, 1⟩
/-- SNP_DF (R488). -/
def R.SNP_DF : Fld := ⟨0x190, 0, 64⟩
def R.SNP_DF_VALID : Fld := ⟨0x190, 63, 1⟩
def R.SNP_DF_SOURCE_RANK : Fld := ⟨0x190, 16, 13⟩
def R.SNP_DF_SHARD_RANK : Fld := ⟨0x190, 0, 13⟩
/-- EXTENT_TABLE (R489). -/
def R.EXTENT_TABLE (i : Nat) : Fld := ⟨0x1000 + 8 * i, 0, 64⟩
def R.EXTENT_TABLE_VALID (i : Nat) : Fld := ⟨0x1000 + 8 * i, 63, 1⟩
def R.EXTENT_TABLE_COUNT (i : Nat) : Fld := ⟨0x1000 + 8 * i, 32, 15⟩
def R.EXTENT_TABLE_FIRST_PAGE (i : Nat) : Fld := ⟨0x1000 + 8 * i, 0, 20⟩
/-- REFILL_W0 (R490). -/
def R.REFILL_W0 (i : Nat) : Fld := ⟨0x1100 + 16 * i, 0, 64⟩
def R.REFILL_W0_VALID (i : Nat) : Fld := ⟨0x1100 + 16 * i, 63, 1⟩
def R.REFILL_W0_ABORT (i : Nat) : Fld := ⟨0x1100 + 16 * i, 62, 1⟩
def R.REFILL_W0_ROLE (i : Nat) : Fld := ⟨0x1100 + 16 * i, 61, 1⟩
def R.REFILL_W0_KIND (i : Nat) : Fld := ⟨0x1100 + 16 * i, 58, 3⟩
def R.REFILL_W0_STATE (i : Nat) : Fld := ⟨0x1100 + 16 * i, 55, 3⟩
def R.REFILL_W0_RESULT (i : Nat) : Fld := ⟨0x1100 + 16 * i, 51, 4⟩
def R.REFILL_W0_POSE_ID (i : Nat) : Fld := ⟨0x1100 + 16 * i, 0, 32⟩
/-- REFILL_W1 (R490). -/
def R.REFILL_W1 (i : Nat) : Fld := ⟨0x1108 + 16 * i, 0, 64⟩
def R.REFILL_W1_BAD_PAGES (i : Nat) : Fld := ⟨0x1108 + 16 * i, 49, 15⟩
def R.REFILL_W1_SUBLINKS (i : Nat) : Fld := ⟨0x1108 + 16 * i, 0, 32⟩
/-- ERR_HEAD (R515). -/
def R.ERR_HEAD : Fld := ⟨0x100, 0, 64⟩
def R.ERR_HEAD_HEAD : Fld := ⟨0x100, 0, 32⟩
/-- ERR_TAIL (R515). -/
def R.ERR_TAIL : Fld := ⟨0x108, 0, 64⟩
def R.ERR_TAIL_TAIL : Fld := ⟨0x108, 0, 32⟩
/-- ERR_STS (R515). -/
def R.ERR_STS : Fld := ⟨0x110, 0, 64⟩
def R.ERR_STS_STORM_PKG : Fld := ⟨0x110, 17, 1⟩
def R.ERR_STS_STORM : Fld := ⟨0x110, 16, 1⟩
def R.ERR_STS_ACTION_BUSY : Fld := ⟨0x110, 15, 1⟩
def R.ERR_STS_ACTION_DEPTH : Fld := ⟨0x110, 0, 7⟩
/-- CAL_RESUME (R516). -/
def R.CAL_RESUME : Fld := ⟨0x110, 0, 64⟩
def R.CAL_RESUME_HALTED : Fld := ⟨0x110, 8, 8⟩
def R.CAL_RESUME_RESUME : Fld := ⟨0x110, 0, 8⟩
/-- CAP_START (R543). -/
def R.CAP_START : Fld := ⟨0x100, 0, 64⟩
def R.CAP_START_START_COUNT : Fld := ⟨0x100, 32, 32⟩
def R.CAP_START_STEP : Fld := ⟨0x100, 20, 4⟩
def R.CAP_START_KIND : Fld := ⟨0x100, 18, 2⟩
def R.CAP_START_RESULT : Fld := ⟨0x100, 16, 2⟩
def R.CAP_START_LW_VALID : Fld := ⟨0x100, 15, 1⟩
/-- CAP_FLOOR_UNITS (R544). -/
def R.CAP_FLOOR_UNITS : Fld := ⟨0x108, 0, 64⟩
def R.CAP_FLOOR_UNITS_DRAM_OK : Fld := ⟨0x108, 63, 1⟩
def R.CAP_FLOOR_UNITS_DIE_OK : Fld := ⟨0x108, 56, 4⟩
def R.CAP_FLOOR_UNITS_STG_OK : Fld := ⟨0x108, 52, 4⟩
def R.CAP_FLOOR_UNITS_WBF_OK : Fld := ⟨0x108, 48, 4⟩
def R.CAP_FLOOR_UNITS_HP_OK : Fld := ⟨0x108, 46, 2⟩
def R.CAP_FLOOR_UNITS_DIAG_OK : Fld := ⟨0x108, 44, 2⟩
def R.CAP_FLOOR_UNITS_PORT_OK : Fld := ⟨0x108, 16, 16⟩
def R.CAP_FLOOR_UNITS_STACK_OK : Fld := ⟨0x108, 0, 16⟩
/-- CAP_DIE_UNITS (R545). -/
def R.CAP_DIE_UNITS : Fld := ⟨0x100, 0, 64⟩
def R.CAP_DIE_UNITS_ARRAY_USABLE : Fld := ⟨0x100, 14, 1⟩
def R.CAP_DIE_UNITS_VU_COUNT : Fld := ⟨0x100, 7, 7⟩
/-- PCH_TABLE (R545). -/
def R.PCH_TABLE (i : Nat) : Fld := ⟨0x1000 + 8 * i, 0, 64⟩
def R.PCH_TABLE_PCH_FENCED (i : Nat) : Fld := ⟨0x1000 + 8 * i, 0, 64⟩
/-- BAD_PAGE_TABLE (R545). -/
def R.BAD_PAGE_TABLE (i : Nat) : Fld := ⟨0x1800 + 8 * i, 0, 64⟩
def R.BAD_PAGE_TABLE_VALID (i : Nat) : Fld := ⟨0x1800 + 8 * i, 63, 1⟩
def R.BAD_PAGE_TABLE_PAGE (i : Nat) : Fld := ⟨0x1800 + 8 * i, 0, 20⟩
/-- PWR_LW_CTL (R546). -/
def R.PWR_LW_CTL : Fld := ⟨0x100, 0, 64⟩
def R.PWR_LW_CTL_KEY : Fld := ⟨0x100, 48, 16⟩
def R.PWR_LW_CTL_INVALIDATE : Fld := ⟨0x100, 1, 1⟩
def R.PWR_LW_CTL_START : Fld := ⟨0x100, 0, 1⟩
/-- PWR_LW_STS (R546). -/
def R.PWR_LW_STS : Fld := ⟨0x108, 0, 64⟩
def R.PWR_LW_STS_STATE : Fld := ⟨0x108, 28, 4⟩
def R.PWR_LW_STS_ELEMENT : Fld := ⟨0x108, 24, 4⟩
def R.PWR_LW_STS_FAILS : Fld := ⟨0x108, 16, 8⟩
/-- PWR_RAIL_STS (R547). -/
def R.PWR_RAIL_STS : Fld := ⟨0x110, 0, 64⟩
def R.PWR_RAIL_STS_VALID : Fld := ⟨0x110, 0, 10⟩
/-- SEC_LC (R566). -/
def R.SEC_LC : Fld := ⟨0x100, 0, 64⟩
def R.SEC_LC_REVOKED : Fld := ⟨0x100, 48, 16⟩
def R.SEC_LC_SVN_FUSED : Fld := ⟨0x100, 16, 7⟩
def R.SEC_LC_PENDING : Fld := ⟨0x100, 8, 1⟩
def R.SEC_LC_NEXT : Fld := ⟨0x100, 4, 4⟩
def R.SEC_LC_STATE : Fld := ⟨0x100, 0, 4⟩
/-- SEC_SERIAL (R566). -/
def R.SEC_SERIAL : Fld := ⟨0x108, 0, 64⟩
def R.SEC_SERIAL_SERIAL : Fld := ⟨0x108, 0, 64⟩
/-- SEC_FW_STS (R566). -/
def R.SEC_FW_STS : Fld := ⟨0x110, 0, 64⟩
def R.SEC_FW_STS_IMAGE_VER : Fld := ⟨0x110, 32, 32⟩
def R.SEC_FW_STS_IMAGE_SVN : Fld := ⟨0x110, 16, 7⟩
def R.SEC_FW_STS_ZEROISED : Fld := ⟨0x110, 13, 1⟩
def R.SEC_FW_STS_KEY_INDEX : Fld := ⟨0x110, 8, 4⟩
def R.SEC_FW_STS_FW_RESULT : Fld := ⟨0x110, 0, 4⟩
/-- SEC_IDE_CTL (R566). -/
def R.SEC_IDE_CTL : Fld := ⟨0x118, 0, 64⟩
def R.SEC_IDE_CTL_REQUIRE_HP1 : Fld := ⟨0x118, 1, 1⟩
def R.SEC_IDE_CTL_REQUIRE_HP0 : Fld := ⟨0x118, 0, 1⟩
/-- SEC_REQ (R567). -/
def R.SEC_REQ (i : Nat) : Fld := ⟨0x120 + 8 * i, 0, 64⟩
def R.SEC_REQ_GO (i : Nat) : Fld := ⟨0x120 + 8 * i, 32, 1⟩
def R.SEC_REQ_STATE (i : Nat) : Fld := ⟨0x120 + 8 * i, 24, 8⟩
def R.SEC_REQ_RESULT (i : Nat) : Fld := ⟨0x120 + 8 * i, 16, 8⟩
def R.SEC_REQ_ARG (i : Nat) : Fld := ⟨0x120 + 8 * i, 8, 8⟩
def R.SEC_REQ_OP (i : Nat) : Fld := ⟨0x120 + 8 * i, 0, 8⟩
/-- HIF_LINK_STS (R586). -/
def R.HIF_LINK_STS : Fld := ⟨0x100, 0, 64⟩
def R.HIF_LINK_STS_LINK_UP : Fld := ⟨0x100, 15, 1⟩
def R.HIF_LINK_STS_FLIT : Fld := ⟨0x100, 14, 1⟩
def R.HIF_LINK_STS_GEN : Fld := ⟨0x100, 11, 3⟩
def R.HIF_LINK_STS_WIDTH : Fld := ⟨0x100, 7, 4⟩
def R.HIF_LINK_STS_IDE_SECURE : Fld := ⟨0x100, 6, 1⟩
/-- HIF_APERTURE (R587). -/
def R.HIF_APERTURE : Fld := ⟨0x108, 0, 64⟩
def R.HIF_APERTURE_BASE : Fld := ⟨0x108, 21, 31⟩
/-- HIF_INT_DIE (R588). -/
def R.HIF_INT_DIE (i : Nat) : Fld := ⟨0x110 + 8 * i, 0, 64⟩
def R.HIF_INT_DIE_PENDING (i : Nat) : Fld := ⟨0x110 + 8 * i, 0, 64⟩
/-- HIF_INT_CTL (R588). -/
def R.HIF_INT_CTL : Fld := ⟨0x138, 0, 64⟩
def R.HIF_INT_CTL_BLOCK_INT_EN : Fld := ⟨0x138, 0, 1⟩
/-- HIF_DRAIN_SRC (R589). -/
def R.HIF_DRAIN_SRC : Fld := ⟨0x140, 0, 64⟩
def R.HIF_DRAIN_SRC_SRC : Fld := ⟨0x140, 21, 31⟩
/-- HIF_DRAIN_DST (R589). -/
def R.HIF_DRAIN_DST : Fld := ⟨0x148, 0, 64⟩
def R.HIF_DRAIN_DST_DST : Fld := ⟨0x148, 6, 58⟩
/-- HIF_DRAIN_CTL (R589). -/
def R.HIF_DRAIN_CTL : Fld := ⟨0x150, 0, 64⟩
def R.HIF_DRAIN_CTL_GO : Fld := ⟨0x150, 63, 1⟩
def R.HIF_DRAIN_CTL_ABORT : Fld := ⟨0x150, 62, 1⟩
def R.HIF_DRAIN_CTL_STATE : Fld := ⟨0x150, 59, 3⟩
def R.HIF_DRAIN_CTL_RESULT : Fld := ⟨0x150, 56, 3⟩
def R.HIF_DRAIN_CTL_POISON : Fld := ⟨0x150, 55, 1⟩
def R.HIF_DRAIN_CTL_PAGES_DONE : Fld := ⟨0x150, 32, 15⟩
def R.HIF_DRAIN_CTL_PAGES : Fld := ⟨0x150, 0, 15⟩
/-- PMU_SAMPLE_CTL (R608). -/
def R.PMU_SAMPLE_CTL : Fld := ⟨0x100, 0, 64⟩
def R.PMU_SAMPLE_CTL_SEED : Fld := ⟨0x100, 32, 32⟩
def R.PMU_SAMPLE_CTL_KINDS : Fld := ⟨0x100, 16, 5⟩
def R.PMU_SAMPLE_CTL_PERIOD : Fld := ⟨0x100, 8, 5⟩
def R.PMU_SAMPLE_CTL_EN : Fld := ⟨0x100, 0, 1⟩
/-- PMU_BUF_BASE (R609). -/
def R.PMU_BUF_BASE : Fld := ⟨0x108, 0, 64⟩
def R.PMU_BUF_BASE_BASE : Fld := ⟨0x108, 0, 52⟩
/-- PMU_BUF_CTL (R609). -/
def R.PMU_BUF_CTL : Fld := ⟨0x110, 0, 64⟩
def R.PMU_BUF_CTL_EN : Fld := ⟨0x110, 8, 1⟩
def R.PMU_BUF_CTL_SIZE : Fld := ⟨0x110, 0, 5⟩
/-- PMU_BUF_HEAD (R609). -/
def R.PMU_BUF_HEAD : Fld := ⟨0x118, 0, 64⟩
def R.PMU_BUF_HEAD_HEAD : Fld := ⟨0x118, 0, 32⟩
/-- PMU_BUF_TAIL (R609). -/
def R.PMU_BUF_TAIL : Fld := ⟨0x120, 0, 64⟩
def R.PMU_BUF_TAIL_TAIL : Fld := ⟨0x120, 0, 32⟩
/-- PMU_CHAIN (R610). -/
def R.PMU_CHAIN (i : Nat) : Fld := ⟨0x1000 + 8 * i, 0, 64⟩
def R.PMU_CHAIN_CHAIN (i : Nat) : Fld := ⟨0x1000 + 8 * i, 0, 64⟩
/-- PMU_OVF (R610). -/
def R.PMU_OVF (i : Nat) : Fld := ⟨0x1100 + 8 * i, 0, 64⟩
def R.PMU_OVF_OVF (i : Nat) : Fld := ⟨0x1100 + 8 * i, 0, 64⟩
/-- CAP_ISLAND (R630). -/
def R.CAP_ISLAND (i : Nat) : Fld := ⟨0x2000 + 8 * i, 0, 64⟩
def R.CAP_ISLAND_VALID (i : Nat) : Fld := ⟨0x2000 + 8 * i, 63, 1⟩
def R.CAP_ISLAND_THROTTLED (i : Nat) : Fld := ⟨0x2000 + 8 * i, 62, 1⟩
def R.CAP_ISLAND_NOMINAL_MHZ (i : Nat) : Fld := ⟨0x2000 + 8 * i, 16, 16⟩
def R.CAP_ISLAND_CURRENT_MHZ (i : Nat) : Fld := ⟨0x2000 + 8 * i, 0, 16⟩

-- The counters of R592, by block, at their offsets.
def C.ARY_SLOT_RETIRED : Fld := ⟨0x8000, 0, 48⟩
def C.ARY_SLOT_WASTED_PAD : Fld := ⟨0x8008, 0, 48⟩
def C.ARY_SLOT_WASTED_REPLAY : Fld := ⟨0x8010, 0, 48⟩
def C.ARY_SLOT_WASTED_PASS : Fld := ⟨0x8018, 0, 48⟩
def C.ARY_SLOT_FRONT_ACT : Fld := ⟨0x8020, 0, 48⟩
def C.ARY_SLOT_FRONT_WEIGHT : Fld := ⟨0x8028, 0, 48⟩
def C.ARY_SLOT_FRONT_RECIRC : Fld := ⟨0x8030, 0, 48⟩
def C.ARY_SLOT_FRONT_IDLE : Fld := ⟨0x8038, 0, 48⟩
def C.ARY_SLOT_BACK : Fld := ⟨0x8040, 0, 48⟩
def C.ARY_BOUND_EXCEEDED : Fld := ⟨0x8048, 0, 48⟩
def C.ARY_OPS_GRAND : Fld := ⟨0x8050, 0, 48⟩
def C.ARY_OPS_QUAD : Fld := ⟨0x8058, 0, 48⟩
def C.ARY_OPS_FAILED : Fld := ⟨0x8060, 0, 48⟩
def C.ARY_SPARE_FIELD_MAPS : Fld := ⟨0x8068, 0, 48⟩
def C.VEC_OPS_ROW : Fld := ⟨0x8000, 0, 48⟩
def C.VEC_OPS_KERNEL : Fld := ⟨0x8008, 0, 48⟩
def C.VEC_OPS_FAILED : Fld := ⟨0x8010, 0, 48⟩
def C.VEC_KERNEL_FAULTS : Fld := ⟨0x8018, 0, 48⟩
def C.VEC_MASKED_ROWS : Fld := ⟨0x8020, 0, 48⟩
def C.VEC_INF_ROWS : Fld := ⟨0x8028, 0, 48⟩
def C.VEC_NAN_ROWS : Fld := ⟨0x8030, 0, 48⟩
def C.VEC_IGNORED_LABELS : Fld := ⟨0x8038, 0, 48⟩
def C.VEC_LABEL_INVALID : Fld := ⟨0x8040, 0, 48⟩
def C.VEC_QUANT_OVERFLOW : Fld := ⟨0x8048, 0, 48⟩
def C.VEC_QUANT_NONFINITE : Fld := ⟨0x8050, 0, 48⟩
def C.VEC_FMA_FP32 : Fld := ⟨0x8058, 0, 48⟩
def C.VEC_FMA_BF16 : Fld := ⟨0x8060, 0, 48⟩
def C.VEC_FUNC_ELEMENTS : Fld := ⟨0x8068, 0, 48⟩
def C.VEC_UNIT_CYCLES_BUSY : Fld := ⟨0x8070, 0, 48⟩
def C.VEC_UNIT_CYCLES_ACC_WAIT : Fld := ⟨0x8078, 0, 48⟩
def C.VEC_UNIT_CYCLES_MEM_WAIT : Fld := ⟨0x8080, 0, 48⟩
def C.NUM_BRACKETS_COMMITTED : Fld := ⟨0x8000, 0, 48⟩
def C.NUM_REPLAYS : Fld := ⟨0x8008, 0, 48⟩
def C.NUM_BRACKETS_FAILED : Fld := ⟨0x8010, 0, 48⟩
def C.NUM_AMAX_REPORTS : Fld := ⟨0x8018, 0, 48⟩
def C.NUM_AMAX_UNBRACKETED : Fld := ⟨0x8020, 0, 48⟩
def C.NUM_STEPS_COMMITTED : Fld := ⟨0x8028, 0, 48⟩
def C.NUM_STEPS_SHUT : Fld := ⟨0x8030, 0, 48⟩
def C.NUM_OPT_SKIPPED : Fld := ⟨0x8038, 0, 48⟩
def C.NUM_COMMIT_ADD_ELEMENTS : Fld := ⟨0x8040, 0, 48⟩
def C.NUM_NONFINITE_SETS : Fld := ⟨0x8048, 0, 48⟩
def C.NUM_EVT_RECORDS : Fld := ⟨0x8050, 0, 48⟩
def C.NUM_EVT_LOST : Fld := ⟨0x8058, 0, 48⟩
def C.MCT_READ_BYTES : Fld := ⟨0x8000, 0, 48⟩
def C.MCT_WRITE_BYTES : Fld := ⟨0x8008, 0, 48⟩
def C.MCT_CE_CORRECTED : Fld := ⟨0x8010, 0, 48⟩
def C.MCT_UE_DETECTED : Fld := ⟨0x8018, 0, 48⟩
def C.MCT_SCRUB_CORRECTED : Fld := ⟨0x8020, 0, 48⟩
def C.MCT_SCRUB_UE : Fld := ⟨0x8028, 0, 48⟩
def C.MCT_POISON_READS : Fld := ⟨0x8030, 0, 48⟩
def C.MCT_PAGES_RETIRED : Fld := ⟨0x8038, 0, 48⟩
def C.MCT_RETIRE_DENIED : Fld := ⟨0x8040, 0, 48⟩
def C.SNP_COW_COPIES : Fld := ⟨0x8000, 0, 48⟩
def C.SNP_COW_STALLS : Fld := ⟨0x8008, 0, 48⟩
def C.SNP_COW_STALL_CYCLES : Fld := ⟨0x8010, 0, 48⟩
def C.SNP_SEND_WAITS : Fld := ⟨0x8018, 0, 48⟩
def C.SNP_POSES : Fld := ⟨0x8020, 0, 48⟩
def C.SNP_POSES_SKIPPED : Fld := ⟨0x8028, 0, 48⟩
def C.SNP_POSE_STOP_CYCLES : Fld := ⟨0x8030, 0, 48⟩
def C.SNP_PAGES_SENT : Fld := ⟨0x8038, 0, 48⟩
def C.SNP_PROMENADES_SEALED : Fld := ⟨0x8040, 0, 48⟩
def C.SNP_PROMENADES_FAILED : Fld := ⟨0x8048, 0, 48⟩
def C.SNP_DIGEST_FAILS : Fld := ⟨0x8050, 0, 48⟩
def C.SNP_REFILLS_DONE : Fld := ⟨0x8058, 0, 48⟩
def C.SNP_REFILLS_ABORTED : Fld := ⟨0x8060, 0, 48⟩
def C.SNP_DOUBLE_FAULTS : Fld := ⟨0x8068, 0, 48⟩
def C.SNP_DOMAIN_REFUSALS : Fld := ⟨0x8070, 0, 48⟩
def C.CAL_CMDS_DISPATCHED : Fld := ⟨0x8000, 0, 48⟩
def C.CAL_CMDS_FAILED : Fld := ⟨0x8008, 0, 48⟩
def C.CAL_CMDS_SKIPPED : Fld := ⟨0x8010, 0, 48⟩
def C.CAL_LEGACY_CMDS : Fld := ⟨0x8018, 0, 48⟩
def C.CAL_WAIT_CYCLES : Fld := ⟨0x8020, 0, 48⟩
def C.CAL_CREDIT_WAIT_CYCLES : Fld := ⟨0x8028, 0, 48⟩
def C.CAL_CPL_WAIT_CYCLES : Fld := ⟨0x8030, 0, 48⟩
def C.CAL_DB_FOREIGN : Fld := ⟨0x8038, 0, 48⟩
def C.CAL_LOW_PROMOTIONS : Fld := ⟨0x8040, 0, 48⟩
def C.SYN_UPDATES_LOCAL : Fld := ⟨0x8000, 0, 48⟩
def C.SYN_UPDATES_DIE : Fld := ⟨0x8008, 0, 48⟩
def C.SYN_UPDATES_REMOTE : Fld := ⟨0x8010, 0, 48⟩
def C.SYN_WAITS_SATISFIED : Fld := ⟨0x8018, 0, 48⟩
def C.SYN_CONSUMES : Fld := ⟨0x8020, 0, 48⟩
def C.SYN_WATCH_FIRES : Fld := ⟨0x8028, 0, 48⟩
def C.D2D_CRC_RESENDS : Fld := ⟨0x8000, 0, 48⟩
def C.D2D_HS_CRC_FAILS : Fld := ⟨0x8008, 0, 48⟩
def C.D2D_RETRAINS : Fld := ⟨0x8010, 0, 48⟩
def C.D2D_FIELD_SPARES : Fld := ⟨0x8018, 0, 48⟩
def C.D2D_DEGRADES : Fld := ⟨0x8020, 0, 48⟩
def C.D2D_FENCES : Fld := ⟨0x8028, 0, 48⟩
def C.D2D_BORROWS : Fld := ⟨0x8030, 0, 48⟩
def C.D2D_DIE_ABSENT_EVENTS : Fld := ⟨0x8038, 0, 48⟩
def C.D2D_REJOINS : Fld := ⟨0x8040, 0, 48⟩
def C.D2D_DIAG_LANE_LOSSES : Fld := ⟨0x8048, 0, 48⟩
def C.D2D_DIAG_REROUTES : Fld := ⟨0x8050, 0, 48⟩
def C.OPX_DATA_FRAMES_TX : Fld := ⟨0x8000, 0, 48⟩
def C.OPX_DATA_FRAMES_RX : Fld := ⟨0x8008, 0, 48⟩
def C.OPX_FEC_SYMBOLS_CORRECTED : Fld := ⟨0x8010, 0, 48⟩
def C.OPX_FEC_UNCORRECTABLE : Fld := ⟨0x8018, 0, 48⟩
def C.OPX_RESENDS : Fld := ⟨0x8020, 0, 48⟩
def C.OPX_NAKS : Fld := ⟨0x8028, 0, 48⟩
def C.OPX_CREDIT_WAIT_CYCLES : Fld := ⟨0x8030, 0, 48⟩
def C.OPX_TRAININGS : Fld := ⟨0x8038, 0, 48⟩
def C.OPX_FIELD_SPARES : Fld := ⟨0x8040, 0, 48⟩
def C.OPX_LANES_LOST : Fld := ⟨0x8048, 0, 48⟩
def C.OPX_FEED_SWITCHES : Fld := ⟨0x8050, 0, 48⟩
def C.OPX_SUBLINK_DOWN : Fld := ⟨0x8058, 0, 48⟩
def C.OPX_INCARNATION_CHANGES : Fld := ⟨0x8060, 0, 48⟩
def C.OPX_ITEMS_FAILED : Fld := ⟨0x8068, 0, 48⟩
def C.OPX_OTDR_RUNS : Fld := ⟨0x8070, 0, 48⟩
def C.CLX_ITEMS_TX : Fld := ⟨0x8000, 0, 48⟩
def C.CLX_ITEMS_RX : Fld := ⟨0x8008, 0, 48⟩
def C.CLX_REDUCED_ELEMENTS : Fld := ⟨0x8010, 0, 48⟩
def C.CLX_GATHERS : Fld := ⟨0x8018, 0, 48⟩
def C.CLX_REGATHERS : Fld := ⟨0x8020, 0, 48⟩
def C.CLX_TAG_MISMATCHES : Fld := ⟨0x8028, 0, 48⟩
def C.CLX_COLL_ABORTS : Fld := ⟨0x8030, 0, 48⟩
def C.CLX_EPOCH_DISCARDS : Fld := ⟨0x8038, 0, 48⟩
def C.CLX_ITEMS_FAILED : Fld := ⟨0x8040, 0, 48⟩
def C.CLX_SUMMARIES : Fld := ⟨0x8048, 0, 48⟩
def C.CLX_STATS_DROPPED : Fld := ⟨0x8050, 0, 48⟩
def C.CLX_BUCKET_OPS : Fld := ⟨0x8058, 0, 48⟩
def C.CLX_EPOCH_SWITCHES : Fld := ⟨0x8060, 0, 48⟩
def C.FIG_FIGURE_CHANGES : Fld := ⟨0x8000, 0, 48⟩
def C.FIG_SUBLINKS_DRAINED : Fld := ⟨0x8008, 0, 48⟩
def C.FIG_DRAIN_CYCLES : Fld := ⟨0x8010, 0, 48⟩
def C.FIG_DRAIN_TIMEOUTS : Fld := ⟨0x8018, 0, 48⟩
def C.FIG_FIG_REFUSED : Fld := ⟨0x8020, 0, 48⟩
def C.FIG_REWEIGHTS : Fld := ⟨0x8028, 0, 48⟩
def C.FIG_UNREACHABLE : Fld := ⟨0x8030, 0, 48⟩
def C.ERR_DETECTED_CORRECTED : Fld := ⟨0x8000, 0, 48⟩
def C.ERR_DETECTED_DEGRADED : Fld := ⟨0x8008, 0, 48⟩
def C.ERR_DETECTED_CONTAINED : Fld := ⟨0x8010, 0, 48⟩
def C.ERR_RECORDS : Fld := ⟨0x8018, 0, 48⟩
def C.ERR_LOST_RECORDS : Fld := ⟨0x8020, 0, 48⟩
def C.ERR_STORMS : Fld := ⟨0x8028, 0, 48⟩
def C.ERR_ACTIONS_QUEUED : Fld := ⟨0x8030, 0, 48⟩
def C.ERR_SECOND_FAULTS : Fld := ⟨0x8038, 0, 48⟩
def C.ERR_QUEUE_OVERFLOWS : Fld := ⟨0x8040, 0, 48⟩
def C.PWR_THERMAL_EXCURSIONS : Fld := ⟨0x8000, 0, 48⟩
def C.PWR_RAIL_EXCURSIONS : Fld := ⟨0x8008, 0, 48⟩
def C.PWR_LW_RUNS : Fld := ⟨0x8010, 0, 48⟩
def C.PWR_LW_FAILED : Fld := ⟨0x8018, 0, 48⟩
def C.PWR_POWER_PAUSES : Fld := ⟨0x8020, 0, 48⟩
def C.SEC_QUOTES : Fld := ⟨0x8000, 0, 48⟩
def C.SEC_EXTENDS : Fld := ⟨0x8008, 0, 48⟩
def C.SEC_REQ_REFUSED : Fld := ⟨0x8010, 0, 48⟩
def C.SEC_ZEROISATIONS : Fld := ⟨0x8018, 0, 48⟩
def C.SEC_KEY_LOADS : Fld := ⟨0x8020, 0, 48⟩
def C.SEC_IDE_DROPS : Fld := ⟨0x8028, 0, 48⟩
def C.SEC_SPDM_SESSIONS : Fld := ⟨0x8030, 0, 48⟩
def C.HIF_RX_BYTES : Fld := ⟨0x8000, 0, 48⟩
def C.HIF_TX_BYTES : Fld := ⟨0x8008, 0, 48⟩
def C.HIF_DOORBELLS : Fld := ⟨0x8010, 0, 48⟩
def C.HIF_APERTURE_ERRORS : Fld := ⟨0x8018, 0, 48⟩
def C.HIF_POISONED_READS : Fld := ⟨0x8020, 0, 48⟩
def C.HIF_MSIX_SENT : Fld := ⟨0x8028, 0, 48⟩
def C.HIF_MSIX_DROPPED : Fld := ⟨0x8030, 0, 48⟩
def C.HIF_LINK_DOWNS : Fld := ⟨0x8038, 0, 48⟩
def C.HIF_DRAIN_BYTES : Fld := ⟨0x8040, 0, 48⟩
def C.HIF_DRAIN_POISON_GRANULES : Fld := ⟨0x8048, 0, 48⟩
def C.HIF_TAKEOVERS : Fld := ⟨0x8050, 0, 48⟩
def C.ACC_ARRAY_WRITE_BYTES : Fld := ⟨0x8000, 0, 48⟩
def C.ACC_VECTOR_READ_BYTES : Fld := ⟨0x8008, 0, 48⟩
def C.ACC_VECTOR_WRITE_BYTES : Fld := ⟨0x8010, 0, 48⟩
def C.ACC_WINDOW_BYTES : Fld := ⟨0x8018, 0, 48⟩
def C.ACC_ECC_CORRECTED : Fld := ⟨0x8020, 0, 48⟩
def C.ACC_ECC_UE : Fld := ⟨0x8028, 0, 48⟩
def C.VEC_UNIT_CYCLES_IDLE : Fld := ⟨0x8088, 0, 48⟩
def C.VEC_UNIT_CYCLES_BARRIER : Fld := ⟨0x8090, 0, 48⟩
def C.VEC_UNIT_CYCLES_DEP_WAIT : Fld := ⟨0x8098, 0, 48⟩
def C.STG_LOW_PROMOTIONS : Fld := ⟨0x8000, 0, 48⟩
def C.STG_MOVE_BYTES_0 : Fld := ⟨0x8008, 0, 48⟩
def C.STG_MOVE_BYTES_1 : Fld := ⟨0x8010, 0, 48⟩
def C.STG_MOVE_BYTES_2 : Fld := ⟨0x8018, 0, 48⟩
def C.STG_MOVE_BYTES_3 : Fld := ⟨0x8020, 0, 48⟩
def C.STG_READ_BYTES_0 : Fld := ⟨0x8028, 0, 48⟩
def C.STG_READ_BYTES_1 : Fld := ⟨0x8030, 0, 48⟩
def C.STG_READ_BYTES_2 : Fld := ⟨0x8038, 0, 48⟩
def C.STG_READ_BYTES_3 : Fld := ⟨0x8040, 0, 48⟩
def C.STG_WRITE_BYTES_0 : Fld := ⟨0x8048, 0, 48⟩
def C.STG_WRITE_BYTES_1 : Fld := ⟨0x8050, 0, 48⟩
def C.STG_WRITE_BYTES_2 : Fld := ⟨0x8058, 0, 48⟩
def C.STG_WRITE_BYTES_3 : Fld := ⟨0x8060, 0, 48⟩
def C.STG_ECC_CORRECTED_0 : Fld := ⟨0x8068, 0, 48⟩
def C.STG_ECC_CORRECTED_1 : Fld := ⟨0x8070, 0, 48⟩
def C.STG_ECC_CORRECTED_2 : Fld := ⟨0x8078, 0, 48⟩
def C.STG_ECC_CORRECTED_3 : Fld := ⟨0x8080, 0, 48⟩
def C.STG_ECC_UE_0 : Fld := ⟨0x8088, 0, 48⟩
def C.STG_ECC_UE_1 : Fld := ⟨0x8090, 0, 48⟩
def C.STG_ECC_UE_2 : Fld := ⟨0x8098, 0, 48⟩
def C.STG_ECC_UE_3 : Fld := ⟨0x80A0, 0, 48⟩
def C.WBF_SEGMENT_ADDS_0 : Fld := ⟨0x8000, 0, 48⟩
def C.WBF_SEGMENT_ADDS_1 : Fld := ⟨0x8008, 0, 48⟩
def C.WBF_SEGMENT_ADDS_2 : Fld := ⟨0x8010, 0, 48⟩
def C.WBF_SEGMENT_ADDS_3 : Fld := ⟨0x8018, 0, 48⟩
def C.WBF_ECC_CORRECTED_0 : Fld := ⟨0x8020, 0, 48⟩
def C.WBF_ECC_CORRECTED_1 : Fld := ⟨0x8028, 0, 48⟩
def C.WBF_ECC_CORRECTED_2 : Fld := ⟨0x8030, 0, 48⟩
def C.WBF_ECC_CORRECTED_3 : Fld := ⟨0x8038, 0, 48⟩
def C.WBF_ECC_UE_0 : Fld := ⟨0x8040, 0, 48⟩
def C.WBF_ECC_UE_1 : Fld := ⟨0x8048, 0, 48⟩
def C.WBF_ECC_UE_2 : Fld := ⟨0x8050, 0, 48⟩
def C.WBF_ECC_UE_3 : Fld := ⟨0x8058, 0, 48⟩
def C.DGA_PAGES_HASHED : Fld := ⟨0x8000, 0, 48⟩
def C.DGA_BYTES_HASHED : Fld := ⟨0x8008, 0, 48⟩
def C.PMU_UNIT_ISSUE (i : Nat) : Fld := ⟨0x8000 + 8 * i, 0, 48⟩
def C.PMU_UNIT_IDLE (i : Nat) : Fld := ⟨0x8200 + 8 * i, 0, 48⟩
def C.PMU_UNIT_ACC_WAIT (i : Nat) : Fld := ⟨0x8400 + 8 * i, 0, 48⟩
def C.PMU_UNIT_MEM_WAIT (i : Nat) : Fld := ⟨0x8600 + 8 * i, 0, 48⟩
def C.PMU_UNIT_BARRIER (i : Nat) : Fld := ⟨0x8800 + 8 * i, 0, 48⟩
def C.PMU_UNIT_DEP_WAIT (i : Nat) : Fld := ⟨0x8A00 + 8 * i, 0, 48⟩
def C.PMU_UNIT_INSTRUCTIONS (i : Nat) : Fld := ⟨0x8C00 + 8 * i, 0, 48⟩
def C.PMU_UNIT_FMA_FP32 (i : Nat) : Fld := ⟨0x8E00 + 8 * i, 0, 48⟩
def C.PMU_UNIT_FMA_BF16 (i : Nat) : Fld := ⟨0x9000 + 8 * i, 0, 48⟩
def C.PMU_UNIT_FMA_FP64 (i : Nat) : Fld := ⟨0x9200 + 8 * i, 0, 48⟩
def C.PMU_UNIT_FUNC_ELEMENTS (i : Nat) : Fld := ⟨0x9400 + 8 * i, 0, 48⟩
def C.PMU_UNIT_ACC_READ_BYTES (i : Nat) : Fld := ⟨0x9600 + 8 * i, 0, 48⟩
def C.PMU_UNIT_ACC_WRITE_BYTES (i : Nat) : Fld := ⟨0x9800 + 8 * i, 0, 48⟩
def C.PMU_UNIT_MEM_BYTES (i : Nat) : Fld := ⟨0x9A00 + 8 * i, 0, 48⟩
def C.PMU_CALLER_DISPATCHED (i : Nat) : Fld := ⟨0x9C00 + 8 * i, 0, 48⟩
def C.PMU_CALLER_STATE_00 (i : Nat) : Fld := ⟨0x9C40 + 8 * i, 0, 48⟩
def C.PMU_CALLER_STATE_02 (i : Nat) : Fld := ⟨0x9C80 + 8 * i, 0, 48⟩
def C.PMU_CALLER_STATE_03 (i : Nat) : Fld := ⟨0x9CC0 + 8 * i, 0, 48⟩
def C.PMU_CALLER_STATE_05 (i : Nat) : Fld := ⟨0x9D00 + 8 * i, 0, 48⟩
def C.PMU_TAGS : Fld := ⟨0x9E00, 0, 48⟩
def C.PMU_TAGS_SKIPPED : Fld := ⟨0x9E08, 0, 48⟩
def C.PMU_RECORDS_WRITTEN : Fld := ⟨0x9E10, 0, 48⟩
def C.PMU_RECORDS_DROPPED : Fld := ⟨0x9E18, 0, 48⟩
def C.PMU_MARKERS_RECEIVED : Fld := ⟨0x8000, 0, 48⟩
def C.PMU_F_RECORDS_WRITTEN : Fld := ⟨0x8008, 0, 48⟩
def C.PMU_F_RECORDS_DROPPED : Fld := ⟨0x8010, 0, 48⟩
def C.PMU_STAMPS_RELAYED : Fld := ⟨0x8018, 0, 48⟩

/-- The block of a block index: its lowest index (R617), none where no die has it. -/
def blockOf (i : Nat) : Option Nat :=
  if i ≤ 0x05 then some i
  else if 0x08 ≤ i ∧ i ≤ 0x0E then some i
  else if 0x10 ≤ i ∧ i ≤ 0x16 then some i
  else if i = 0x18 ∨ i = 0x19 then some 0x18
  else if 0x20 ≤ i ∧ i ≤ 0x2F then some 0x20
  else if 0x30 ≤ i ∧ i ≤ 0x3F then some 0x30
  else none

/-- Whether the page of a block index exists on a die (R615). -/
def pageExists (die i : Nat) : Bool :=
  if die < 4 then decide (i ≤ 0x05) || (decide (0x08 ≤ i) && decide (i ≤ 0x0E))
  else die == 4 && (decide (i ≤ 0x05) || (decide (0x10 ≤ i) && (blockOf i).isSome))

/-- COUNTERS, FENCE_IMPL and INT_DEFINED of CAP on a compute-die page (R626, R628). -/
def capCompute : Nat → Nat × Nat × Nat
  | 0 => (0, 0, 2)
  | 1 => (1, 0, 4)
  | 2 => (9, 0, 3)
  | 3 => (940, 0, 3)
  | 4 => (0, 0, 0)
  | 5 => (7, 0, 1)
  | 8 => (14, 1, 7)
  | 9 => (6, 0, 1)
  | 10 => (20, 0, 1)
  | 11 => (9, 0, 3)
  | 12 => (6, 0, 0)
  | 13 => (0, 0, 7)
  | 14 => (12, 0, 3)
  | _ => (0, 0, 0)

/-- The same on a floor page. -/
def capFloor : Nat → Nat × Nat × Nat
  | 0 => (0, 0, 3)
  | 1 => (5, 0, 7)
  | 2 => (9, 0, 3)
  | 3 => (4, 0, 3)
  | 4 => (0, 0, 0)
  | 5 => (11, 0, 7)
  | 16 => (21, 0, 1)
  | 17 => (12, 0, 1)
  | 18 => (7, 0, 3)
  | 19 => (13, 0, 7)
  | 20 => (15, 0, 15)
  | 21 => (2, 0, 0)
  | 22 => (7, 0, 3)
  | 24 => (11, 0, 3)
  | 32 => (9, 1, 7)
  | 48 => (15, 1, 15)
  | _ => (0, 0, 0)

/-- Reset words other than 0 (the Reset columns of the register rules): on a compute die, the floor, or both. -/
def resetRow (die b off : Nat) : Nat :=
  if b == 8 && off == 0x100 then 0x1
  else if b == 14 && off == 0x110 then 0x40004
  else if b == 14 && off == 0x128 then 0x6
  else if b == 13 && decide (0x110 ≤ off) && decide (off < 0x120) then 0x80
  else if b == 32 && off == 0x100 then 0x100010000
  else if b == 32 && off == 0x110 then 0x1000000
  else if b == 20 && off == 0x108 then 0x1000
  else if b == 11 && decide (0x1008 ≤ off) && decide (off < 0x2008) && off % 64 == 8 then 0x41000000000000
  else if b == 11 && decide (0x1020 ≤ off) && decide (off < 0x2020) && off % 64 == 32 then 0x4
  else if b == 11 && off == 0x108 then 0x1000
  else if b == 16 && off == 0x100 then 0x1000
  else if b == 5 && die == 4 && decide (0x100 ≤ off) && decide (off < 0x120) then 0x200
  else if b == 48 && off == 0x100 then 0x13
  else if b == 48 && off == 0x120 then 0x78
  else if b == 48 && off == 0x128 then 0x5DF421924000
  else if b == 48 && decide (0x1000 ≤ off) && decide (off < 0x1020) then 0x76543210
  else if b == 19 && off == 0x100 then 0x100010001
  else if b == 19 && off == 0x110 then 0x104
  else if b == 18 && off == 0x100 then 0x1000000
  else if b == 18 && off == 0x108 then 0x4000
  else if b == 13 && off == 0x138 then 0x40000000040000
  else if b == 20 && off == 0x110 then 0x800000000000000
  else if b == 20 && off == 0x168 then 0x3E8000100010200
  else if b == 20 && off == 0x178 then 0x228A
  else if b == 20 && off == 0x180 then 0xFFFF00000000
  else if b == 22 && off == 0x110 then 0x2000
  else if b == 24 && off == 0x138 then 0x1
  else if b == 3 && off == 0x100 then 0x100031000
  else if b == 3 && off == 0x110 then 0x4
  else 0

/-- The nominal frequency in MHz of an island, 0 where the island does not exist (R20, R630). -/
def nominalMhz (die n : Nat) : Nat :=
  if die < 4 then (if n ≤ 2 then 1200 else if n = 3 then 1500 else if n = 4 then 1000 else 0)
  else if n < 0x10 then 1600
  else if n < 0x14 then 1500
  else if n < 0x18 then 1000
  else if n = 0x18 then 1500
  else if n = 0x19 then 1200
  else if n = 0x1A then 400
  else if n = 0x1B then 500
  else if n < 0x20 then 1000
  else if n < 0x30 then 1750
  else 0

/-- The entry of CAP_ISLAND at reset (R630). -/
def islandWord (die n : Nat) : Nat :=
  let f := nominalMhz die n
  if f = 0 then 0 else 2 ^ 63 + f * 65536 + f

/-- The value of ID (R616, R617, R18). -/
def idWord (die i : Nat) : Nat :=
  match blockOf i with
  | some b => 0x1F2A000000000200 + b * 2 ^ 40 + die * 2 ^ 32 + (i - b) * 2 ^ 24
  | none => 0

/-- The value of CAP in a page's header, DEBUG apart (R618). -/
def capsWord (die i : Nat) : Nat :=
  match blockOf i with
  | some b =>
    let c := if die = 4 then capFloor b else capCompute b
    c.1 * 2 ^ 32 + c.2.1 * 2 ^ 16 + c.2.2
  | none => 0

/-- The number a register reads after reset, by BAR0 offset (R611, R612, R19). -/
def resetNat (a : Nat) : Nat :=
  let die := a / 0x1000000
  let i := a / 0x10000 % 0x100
  let off := a % 0x10000
  if !pageExists die i then 0
  else if off = 0x00 then idWord die i
  else if off = 0x08 then capsWord die i
  else if off = 0x28 then 1
  else match blockOf i with
    | none => 0
    | some b =>
      if b = 0 ∧ 0x2000 ≤ off ∧ off < 0x2800 ∧ off % 8 = 0 then islandWord die ((off - 0x2000) / 8)
      else if b = 0x30 ∧ off = 0x120 ∧ (i = 0x32 ∨ i = 0x36 ∨ i = 0x3A ∨ i = 0x3E) then 0x96
      else resetRow die b off

/-- The bits that a plain write sets (RW) and those it clears by a 1 (W1C), of a register of the map; write-only
and W1S bits act and are not held (R9). -/
def writeMasks (die b off : Nat) : Nat × Nat :=
  if off == 0x10 then (0xFFFFFFFF, 0)
  else if off == 0x20 then (0, 0xF)
  else if off == 0x28 then (3, 0)
  else if b == 14 && off == 0x180 then (0xFFFFFFFFFFFFFFFF, 0x0)
  else if b == 8 && off == 0x100 then (0x1, 0x0)
  else if b == 14 && decide (0x100 ≤ off) && decide (off < 0x110) then (0xFFFFFFFFFFFFF, 0x0)
  else if b == 14 && off == 0x110 then (0x71F071F, 0x0)
  else if b == 14 && off == 0x120 then (0xFFFFFFFFFFFFF, 0x0)
  else if b == 14 && off == 0x128 then (0x11F, 0x0)
  else if b == 14 && off == 0x138 then (0xFFFFFFFF, 0x0)
  else if b == 13 && decide (0x100 ≤ off) && decide (off < 0x110) then (0xFFFFFFFF, 0x0)
  else if b == 32 && off == 0x100 then (0x1FFFFFFFF, 0x0)
  else if b == 32 && off == 0x110 then (0x7FF000FFFFFFFFF, 0x0)
  else if b == 32 && decide (0x1000 ≤ off) && decide (off < 0x3000) then (0x80000000000FFFFF, 0x0)
  else if b == 20 && off == 0x100 then (0xFFFFFFFE00000, 0x0)
  else if b == 20 && off == 0x108 then (0x3FFF, 0x0)
  else if b == 11 && decide (0x1000 ≤ off) && decide (off < 0x2000) && off % 64 == 0 then (0xFFFFFFFFFFFFFFC0, 0x0)
  else if b == 11 && decide (0x1008 ≤ off) && decide (off < 0x2008) && off % 64 == 8 then (0xFFFFC000000007FF, 0x200000000000)
  else if b == 11 && decide (0x1018 ≤ off) && decide (off < 0x2018) && off % 64 == 24 then (0xFFFFFFFFFFFFFFF0, 0x0)
  else if b == 11 && decide (0x1020 ≤ off) && decide (off < 0x2020) && off % 64 == 32 then (0x1F, 0x0)
  else if b == 11 && decide (0x1028 ≤ off) && decide (off < 0x2028) && off % 64 == 40 then (0xFFFFFFFF, 0x0)
  else if b == 11 && off == 0x108 then (0x1FFFF, 0x0)
  else if b == 16 && off == 0x100 then (0x1FFFF, 0x0)
  else if b == 12 && off == 0x120 then (0x7FFF00003FFF, 0x0)
  else if b == 12 && decide (0x1000 ≤ off) && decide (off < 0x1100) then (0x83FFFFFFFFFFFFFF, 0x4000000000000000)
  else if b == 13 && off == 0x130 then (0x1, 0x300)
  else if b == 13 && decide (0x1000 ≤ off) && decide (off < 0x1200) && off % 16 == 0 then (0x8000000FFFFFFFFF, 0x0)
  else if b == 13 && decide (0x1008 ≤ off) && decide (off < 0x1208) && off % 16 == 8 then (0xFFFFFFFFF, 0x0)
  else if b == 5 && die == 4 && off == 0x120 then (0x3, 0x0)
  else if b == 48 && off == 0x100 then (0x33, 0x0)
  else if b == 48 && off == 0x120 then (0xFFFF, 0x0)
  else if b == 48 && off == 0x128 then (0xFFFF7FFFE000, 0x0)
  else if b == 48 && off == 0x130 then (0x0, 0x40000000)
  else if b == 19 && off == 0x100 then (0x800001FF007F3FFF, 0x0)
  else if b == 19 && off == 0x108 then (0x1FF007F1FFF, 0x0)
  else if b == 19 && off == 0x110 then (0xFFFFFFFF0000010F, 0x0)
  else if b == 19 && off == 0x120 then (0x0, 0x400000000000)
  else if b == 19 && decide (0x1000 ≤ off) && decide (off < 0x5000) && off % 16 == 0 then (0x800FFFFFFFFFFFFF, 0x0)
  else if b == 19 && decide (0x1008 ≤ off) && decide (off < 0x5008) && off % 16 == 8 then (0xFFFFFFFF, 0x0)
  else if b == 18 && off == 0x100 then (0xFFFFFFFF, 0x0)
  else if b == 18 && off == 0x110 then (0x7FFF, 0x0)
  else if b == 18 && decide (0x1000 ≤ off) && decide (off < 0x1100) then (0x8000000000001FFF, 0x0)
  else if b == 18 && decide (0x2000 ≤ off) && decide (off < 0x3000) && decide ((off - 0x2000) % 0x200 < 0x100) then (0xFFF, 0x0)
  else if b == 18 && decide (0x2000 ≤ off) && decide (off < 0x3000) && (off - 0x2000) % 0x200 == 0x100 then (0xFFFFFFFFF, 0x0)
  else if b == 13 && off == 0x138 then (0xFFFFFF80FFFFFFFF, 0x0)
  else if b == 20 && off == 0x110 then (0xFFFFFFFF0003FFFF, 0x0)
  else if b == 20 && off == 0x118 then (0xDFFF000000001FFF, 0x0)
  else if b == 20 && decide (0x120 ≤ off) && decide (off < 0x140) then (0xFFFFFFFE00000, 0x0)
  else if b == 20 && off == 0x140 then (0x7FFF, 0x0)
  else if b == 20 && off == 0x160 then (0xF, 0x0)
  else if b == 20 && off == 0x168 then (0xFFFFFFFFFFFF03FF, 0x0)
  else if b == 20 && off == 0x170 then (0xFFFFFFFFFFFFFFFF, 0x0)
  else if b == 20 && off == 0x178 then (0xFFFFF, 0x0)
  else if b == 20 && off == 0x190 then (0x0, 0x8000000000000000)
  else if b == 20 && decide (0x1000 ≤ off) && decide (off < 0x1080) then (0x80007FFF000FFFFF, 0x0)
  else if b == 20 && decide (0x1100 ≤ off) && decide (off < 0x1180) && off % 16 == 0 then (0xBC000000FFFFFFFF, 0x0)
  else if b == 20 && decide (0x1108 ≤ off) && decide (off < 0x1188) && off % 16 == 8 then (0xFFFFFFFF, 0x0)
  else if b == 2 && off == 0x108 then (0xFFFFFFFF, 0x0)
  else if b == 22 && off == 0x118 then (0x3, 0x0)
  else if b == 22 && decide (0x120 ≤ off) && decide (off < 0x130) then (0xFFFF, 0x0)
  else if b == 24 && off == 0x108 then (0xFFFFFFFE00000, 0x0)
  else if b == 24 && off == 0x138 then (0x1, 0x0)
  else if b == 24 && off == 0x140 then (0xFFFFFFFE00000, 0x0)
  else if b == 24 && off == 0x148 then (0xFFFFFFFFFFFFFFC0, 0x0)
  else if b == 24 && off == 0x150 then (0x7FFF, 0x0)
  else if b == 3 && off == 0x100 then (0xFFFFFFFF001F1F01, 0x0)
  else if b == 3 && off == 0x108 then (0xFFFFFFFFFFFFF, 0x0)
  else if b == 3 && off == 0x110 then (0x11F, 0x0)
  else if b == 3 && off == 0x120 then (0xFFFFFFFF, 0x0)
  else if b == 3 && decide (0x1000 ≤ off) && decide (off < 0x1080) then (0xFFFFFFFFFFFFFFFF, 0x0)
  else if b == 3 && decide (0x1100 ≤ off) && decide (off < 0x1180) then (0x0, 0xFFFFFFFFFFFFFFFF)
  else (0, 0)

/-- How many counters a block has on a die (R592). -/
def counterCount (die b : Nat) : Nat := if die = 4 then (capFloor b).1 else (capCompute b).1

end Sys2Proof.Machine
end

