-- ==== Sys2Proof/Machine/State.lean ====
section
/-! DEFINITION. The state of the package: the registers in one store, the memory, and what each block holds beside
its registers; the reasons to stop; and the state after reset. INVENTORY.md names the rule of each part. -/

namespace Sys2Proof.Machine

/-- Why a step stops instead of answering a next state. -/
inductive Fault where
  /-- Raised by a write to the debug range while it answers (R613: its contents are not described, and host
  software must not write it). Safe: the machine stops where the manual gives no effect. -/
  | debugWrite
deriving DecidableEq, Repr

/-- Why a command has no meaning. -/
inductive Refusal where
  /-- Raised by an arm of `exec` that has no meaning yet. Safe: nothing can be proved of what follows. -/
  | notModelled (mnemonic : String)
deriving DecidableEq, Repr

/-- The wait of a queue's head (R253, R255): none registered, registered with SYN, satisfied, or on a cell of an
absent die (R264). -/
inductive WaitSt where
  | idle | registered | satisfied | absent
deriving DecidableEq, Repr

/-- What a caller keeps of a queue beside the queue table. -/
structure Queue where
  wait      : WaitSt := .idle
  /-- grants of the caller arbiter that the eligible LOW head has waited for (R280) -/
  waited    : Nat := 0
  /-- the head was promoted to URGENT (R280) -/
  promoted  : Bool := false
  /-- OPT_COUNT commands still to consume after a shut gate (R202) -/
  skip      : Nat := 0
  /-- OPT_COUNT commands still to dispatch after an open gate (R201) -/
  opt       : Nat := 0
  /-- the caller halts once the last of those commands has gone (R264) -/
  haltAfter : Bool := false
  /-- commands are consumed up to the LAYER_CLOSE of a failed bracket (R513) -/
  drain     : Bool := false
  /-- the head of a queue in host memory, as fetched (R251, R581) -/
  fetched   : Option HostSlot := none
  /-- the number, from 1 on, of the arbitration that first found the head eligible; 0 none has (R278; log entry 41) -/
  since     : Nat := 0
deriving DecidableEq, Repr

/-- A wait registered on a cell: the queue whose head waits (64 · die + queue), the cell (16,384 · die + index),
the threshold, and WAIT_CONSUME (R255). -/
structure Wait where
  queue   : Nat
  cell    : Nat
  thresh  : Nat
  consume : Bool
deriving DecidableEq, Repr

/-- Where a dispatched command stands. -/
inductive Stage where
  /-- an ARRAY_OP at the array dispatch arbiter of its die; a grand one holds its claim at the floor (R111) -/
  | arrayWait
  /-- the operation holds its arrays; its segments are accumulated (R89) -/
  | arrayRun
  /-- a VECTOR_OP at the vector dispatch arbiter of its die -/
  | vectorWait
  /-- the operation holds its units -/
  | vectorRun
  /-- every store of the operation is made -/
  | vectorDone
  /-- a move whose granules are written or wait in order behind a page (R225) -/
  | moving
  /-- a collective that waits for its figure, layout, or for an earlier command (R399, R420) -/
  | collHeld
  /-- a collective that CLX runs -/
  | collRun
  /-- a SYNC_REMOTE whose LANDED has not come (R266) -/
  | syncRemote
  /-- a LAYER_CLOSE before the bracket's outcome (R187) -/
  | close
  /-- a STEP_GATE before its gate's evaluation (R200) -/
  | gate
  /-- a POSE before its pose arms (R453) -/
  | pose
  /-- a FIGURE_CHANGE before the change completes (R420) -/
  | figure
deriving DecidableEq, Repr

/-- A dispatched command that has not completed. The words are the v2 words, those of a legacy command after
R277. -/
structure Cmd where
  id       : Nat
  die      : Nat
  queue    : Nat
  context  : Nat
  number   : Nat
  words    : List Nat
  legacy   : Bool := false
  step     : Nat := 0
  /-- replay level at dispatch -/
  level    : Nat := 0
  /-- the bracket whose attempt holds the command (R182) -/
  attempt  : Option Nat := none
  /-- its context had a bracket open at dispatch (R123) -/
  inLayer  : Bool := false
  /-- an operation on another die's array whose own die is absent: nothing takes its completion (R310) -/
  orphan   : Bool := false
  /-- the command is one of the OPT_COUNT commands after an open gate (R201, R203) -/
  opt      : Bool := false
  /-- the class of its traffic: 0 URGENT, 1 NORMAL, 2 LOW (R279) -/
  cls      : Nat := 1
  stage    : Stage := .moving
  /-- the descriptor as read at dispatch, and its address -/
  desc     : List Nat := []
  descAddr : Nat := 0
  tensor   : Nat := 0
  /-- what NUM reads of the scale tables at dispatch: addresses and lengths (R171, R246) -/
  reads    : List (Nat × Nat) := []
  /-- coarse scales formed at dispatch (R174), FP32 codes -/
  scales   : List Nat := []
  /-- the context's salt (R65) -/
  salt     : Nat := 0
  /-- the compute dies whose arrays the operation takes -/
  arrays   : List Nat := []
  /-- FP64 accumulators of R89, row by row -/
  acc      : List Nat := []
  /-- vector units that the operation takes -/
  units    : List Nat := []
  /-- slots that the operation retires and wastes as padding (R121–R123) -/
  slots    : Nat := 0
  pad      : Nat := 0
  ovf      : Nat := 0
  nonfinite : Nat := 0
  boundExceeded : Bool := false
  error    : Option (Nat × Nat) := none
  /-- grants that a LOW request has waited for, and its promotion (R280) -/
  waited   : Nat := 0
  promoted : Bool := false
  /-- the operation is tagged, with the stamps collected (R602, R603): stamp word and its value -/
  tagged   : Bool := false
  stamps   : List (Nat × Nat) := []
  /-- a collective has started: its units sent and received, the bucket partials received, whether LANDED has come
  back, and whether this package has answered its own predecessor (R371) -/
  begun    : Bool := false
  sent     : Nat := 0
  rcv      : Nat := 0
  got      : List Nat := []
  landed   : Bool := false
  answered : Bool := false
  /-- a re-gather that has found a mismatch (R387) -/
  mismatch : Bool := false
  /-- the sub-link that the item of a SYNC_REMOTE has gone out on (R266) -/
  link     : Option Nat := none
  /-- the pass number of a SEQ_PASS (R390) -/
  pass     : Nat := 0
deriving DecidableEq, Repr

/-- A signal of a command (R256): the cell, set or add, the value. -/
structure Signal where
  cell  : Nat
  set   : Bool
  value : Nat
deriving DecidableEq, Repr

/-- A signal held to commit (R184), with the number of the command that made it. -/
structure Held where
  number : Nat
  signal : Signal
deriving DecidableEq, Repr

/-- An open bracket on one die (R181, R182). -/
structure Bracket where
  id        : Nat := 0
  queue     : Nat
  /-- the words of the LAYER_OPEN, and its number and program slot -/
  words     : List Nat
  number    : Nat
  fetch     : Nat
  step      : Nat := 0
  level     : Nat := 0
  /-- commands taken since LAYER_OPEN in this attempt -/
  taken     : Nat := 0
  /-- a command of the attempt failed: further ones are skipped (R275) -/
  failing   : Bool := false
  /-- failed commands of the attempt: number, error, detail -/
  errors    : List (Nat × Nat × Nat) := []
  held      : List Held := []
  /-- overflow counts of the attempt by tensor (R187, R194) -/
  overflow  : List (Nat × Nat) := []
  /-- tensors reported into BRACKET_AMAX -/
  reported  : List Nat := []
  /-- the caller halted after LAYER_OPEN (R187) -/
  halted    : Bool := false
  /-- GATHERs of the bracket whose ring has completed, by number (R388) -/
  gathers   : List Nat := []
  /-- COMMIT is the outcome, and the member's commit-add list runs -/
  adding    : Bool := false
  added     : Bool := false
deriving DecidableEq, Repr

/-- A bracket of the package, from its first LAYER_OPEN to its outcome (R182, R187): the words of that LAYER_OPEN, the
members that count as absent, and what the members declared absent had made of the attempt: die, bracket, and the failed
check of its list. -/
structure Group where
  id    : Nat
  ctx   : Nat
  words : List Nat
  gone  : List Nat
  lost  : List (Nat × Bracket × Option Nat) := []
deriving DecidableEq, Repr

/-- One job context on one die: the open bracket, and the flag and causes recorded for the next step after the
gate word formed (R198), as bits 0–4 of the gate word. -/
structure Job where
  bracket : Option Bracket := none
  next    : Nat := 0
  /-- the gate has opened, and no LAYER_OPEN of the context has executed since (R195, R204) -/
  afterOpen : Bool := false
deriving DecidableEq, Repr

/-- The gate of one job context in the package (R198–R200). -/
structure Gate where
  /-- the package gate word of the step, once formed -/
  word    : Option Nat := none
  /-- the job gate word, once available -/
  job     : Option Nat := none
  /-- the dies whose gate has evaluated the step -/
  done    : List Nat := []
  /-- the JOB_DUE bit that came with the job word (R473) -/
  jobDue  : Bool := false
  /-- STEP_AMAX of the present dies as read at the first evaluation: tensor, package amax (R176) -/
  amax    : List (Nat × Nat) := []
  /-- the STEP_SHUT record of the step is written -/
  shutRec : Bool := false
deriving DecidableEq, Repr

/-- The state bits of a DRAM page (R235) and the preserve slot that holds it (R236). -/
structure Page where
  dirty     : Bool := false
  armed     : Bool := false
  sent      : Bool := false
  preserved : Bool := false
  slot      : Nat := 0
deriving DecidableEq, Repr

/-- Who makes an access, for the ACC counters of R595. NUM is an engine that sees its own writes (R175, R236); what leaves
bytes undefined is no access, and counts none. -/
inductive Via where
  | array
  | vector (d : Nat)
  | engine
  | num
  | quiet
deriving DecidableEq, Repr

/-- A granule write that waits (R233, R236–R238, R271): the identifier of the command that makes it, the granule, the 64
bytes as one number, and the mask of its nibbles. -/
structure HeldWrite where
  owner : Option Nat
  via   : Via := .engine
  addr  : Nat
  data  : Nat
  mask  : Nat
  /-- the write carries the poison of a granule it was computed from (R229) -/
  poison : Bool := false
  /-- the write is a completion record of a queue, and raises its vector (R270, R271) -/
  cpl    : Option (Nat × Bool) := none
  /-- no earlier write of its command, and no earlier record of its queue, waits: it stands at its page -/
  atPage : Bool := false
  /-- its stall for a preserve slot, and its wait for a page in transmission, are counted (R237, R238) -/
  stalled : Bool := false
  behind  : Bool := false
deriving DecidableEq, Repr

/-- A retirement copy in progress (R233): the page, the table entry, the spare, whether host software asked, and
the stack whose error caused it. -/
structure Retiring where
  page   : Nat
  entry  : Nat
  spare  : Nat
  byHost : Bool
  stack  : Nat
  /-- pseudo-channel that the record names (R500) -/
  pch    : Nat
deriving DecidableEq, Repr

/-- A message to a host (R571, R576, R584, R507). -/
inductive HostMsg where
  | msix (port vector addr data : Nat)
  | write (port addr : Nat) (data : List Byte)
  | read (port : Nat) (data : List Byte) (poisoned : Bool)
  | unsupported (port : Nat)
  | errFatal (port : Nat)
  | i3c (status : Nat) (data : List Byte)
  | i3cInterrupt (result : Nat)
  | spdm (port : Nat) (chain leaf signature : List Byte)
  | flushRead (port addr : Nat)
deriving DecidableEq, Repr

/-- A completion record that waits for its host port (R581): the queue, the 64 bytes, and whether the vector is
raised after it. -/
structure CplWait where
  queue : Nat
  data  : List Byte
  irq   : Bool
deriving DecidableEq, Repr

/-- The configuration space and the MSI-X table of a host port (R570–R572, R575, R576, R581). -/
structure HostPort where
  busMaster : Bool := false
  msix      : Bool := false
  /-- Max_Payload_Size in bytes (R571) -/
  payload   : Nat := 128
  /-- base addresses of BAR0, BAR2 and BAR4, by 0, 1 and 2 (R572) -/
  bars      : Table Nat := []
  /-- message address and data of the vectors (R575) -/
  vectors   : Table (Nat × Nat) := []
  /-- vectors that are not masked -/
  unmasked  : List Nat := []
  /-- vectors whose pending bit is set -/
  pendingV  : List Nat := []
deriving DecidableEq, Repr

/-- A containment action of ERR (R508): the error, and whether it arrived in a recovery window of its domain
(R509). -/
structure Action where
  event  : ErrEvent
  second : Bool
deriving DecidableEq, Repr

/-- The containment actions of one die: those that wait, and the one that runs (R508). -/
structure Actions where
  waiting : List Action := []
  running : Option Action := none
deriving DecidableEq, Repr

/-- The sampler of a die (R602): r, the countdown, whether a dispatch is due for its tag, and the tagged
operation. -/
structure Sampler where
  r      : Nat := 1
  count  : Nat := 0
  /-- the command at whose dispatch the countdown reached zero: identifier -/
  due    : Option Nat := none
  /-- that dispatch is not tagged: another tagged operation had not written its record, or the buffer was off -/
  skip   : Bool := false
  tagged : Option Nat := none
deriving DecidableEq, Repr

/-- A marker token on its way to the floor PMU (R606): the header words of its record and the marker value. -/
structure Token where
  head  : List Nat
  seq   : Nat
  value : Nat
deriving DecidableEq, Repr

/-- What a unit core does (R159, R160). -/
inductive UnitMode where
  | idle | running | barrier | halted
deriving DecidableEq, Repr

/-- A vector unit: its core and its registers (R129, R158). A register that the running operation has not written
reads a free value (R131, R159). -/
structure UnitCore where
  /-- the KERNEL operation that holds the unit -/
  op      : Option Nat := none
  mode    : UnitMode := .idle
  /-- byte address of the next instruction -/
  pc      : Nat := 0
  /-- return addresses of calls, the newest first (log entry 12) -/
  calls   : List Nat := []
  /-- draw that the unwritten registers of the operation read from -/
  gen     : Nat := 0
  /-- S0–S31 as written -/
  scalars : Table (Option Word) := []
  /-- the 1,024-bit rows of T0–T63 as written, by 32 · tile + row -/
  tiles   : Table (Option Nat) := []
  /-- the 16 KiB data scratch; no instruction of R136 reaches it -/
  scratch : Table Byte := []
deriving DecidableEq, Repr


/-- A frame in the replay buffer of a bundle (R300): its SEQ, and the frame, none while nothing has shown its bits. -/
structure Kept where
  seq   : Nat
  frame : Option BundleFrame
deriving DecidableEq, Repr

/-- A bundle (R298–R301): at its receiving end ACK_SEQ, NAK and the consecutive failed resends of the frame awaited; at its
sending end the newest ACK_SEQ received, the newest SEQ sent, the SEQ to send next, the frames kept, the credits returned and
spent, the items that have been accepted there, and the last TOGGLE, none before the first handshake frame; a retrain that
runs; and the failing wires that its lane map was made from. -/
structure Bundle where
  rxSeq    : Nat := 255
  nak      : Bool := false
  ack      : Nat := 255
  sent     : Nat := 255
  next     : Nat := 0
  kept     : List Kept := []
  fails    : Nat := 0
  credits  : Nat := 0
  spent    : Nat := 0
  taken    : Nat := 0
  toggle   : Option Bool := none
  retrain  : Bool := false
  failing  : List Nat := []
deriving DecidableEq, Repr

/-- A page that is due for retirement (R232, R234): the entry that host software wrote, the stack, and the pseudo-channel
that its record names. -/
structure RetireReq where
  page  : Nat
  host  : Option Nat
  stack : Nat
  pch   : Nat
deriving DecidableEq, Repr

/-- What the manual gives of a frame's payload: the bits of `mask` have the value of `value`, the others are open. -/
structure FrameBits where
  value : Nat
  mask  : Nat
deriving DecidableEq, Repr

/-- A DATA frame at its sender: channel, END, what is known of the payload, the command whose item it belongs to, its
sequence number once sent (R335), its class at the transmit arbiter, the grants that it has waited for there, and whether
it was promoted (R278–R280). -/
structure TxFrame where
  channel  : Nat
  last     : Bool
  payload  : FrameBits
  owner    : Option Nat
  cls      : Nat
  seq      : Nat := 0
  waited   : Nat := 0
  promoted : Bool := false
deriving DecidableEq, Repr

/-- A frame in a receive buffer: channel, END, payload (R338). -/
structure RxFrame where
  channel : Nat
  last    : Bool
  payload : Nat
deriving DecidableEq, Repr

/-- What an optical sub-link keeps beside its registers (R337–R341). -/
structure Link where
  /-- frames that wait for a credit or for room in the replay buffer, oldest first -/
  queue   : List TxFrame := []
  /-- the replay buffer, oldest first (R339) -/
  replay  : List TxFrame := []
  /-- SEQ of the newest new frame sent -/
  txSeq   : Nat := 0xFFFF
  /-- usable credits by channel -/
  credits : Table Nat := []
  /-- CREDITn as last received, by channel -/
  grants  : Table Nat := []
  /-- ACK_SEQ of the NAK last acted on (R340) -/
  nakAt   : Option Nat := none
  /-- SEQ of the newest frame received in order and intact -/
  rxSeq   : Nat := 0xFFFF
  /-- the receiver discards until the next frame in order arrives (R340) -/
  nak     : Bool := false
  /-- the receive buffer, oldest first -/
  rx      : List RxFrame := []
  /-- credits granted since training, by channel, modulo 16,384 (R337) -/
  freed   : Table Nat := []
  /-- trainings begun (R341) -/
  trained : Nat := 0
  /-- the sub-link's own incarnation number -/
  inc     : Nat := 0
  /-- the peer's number is known -/
  met     : Bool := false
  /-- TRAINING is a field retraining (R347) -/
  retraining : Bool := false
deriving DecidableEq, Repr

/-- A DATA frame as it left on a sub-link with its header, resends included (R335, R340). -/
structure SentFrame where
  link   : Nat
  header : Nat
  frame  : TxFrame
deriving DecidableEq, Repr

/-- The kinds of a PCTL item (R455). -/
inductive PctlKind where
  | open | accept | refuse | seal | sealed | abort
deriving DecidableEq, Repr

/-- An item as CLX or SNP makes it (R369, R455): the six data kinds with their code, and the items whose payload the
manual lays out only in part. -/
inductive Msg where
  | item (kind : Nat) (i : Item)
  | sync (i : SyncItem)
  | abort (p : Path) (h : ItemHdr)
  | landed (p : Path) (h : ItemHdr) (denied badCell : Bool)
  | summary (i : SummaryItem)
  | page (channel : Nat) (i : PageItem)
  | pctl (k : PctlKind) (i : PctlItem) (h : Option BankHdr)
deriving DecidableEq, Repr

/-- An item sent on a sub-link. -/
structure SentItem where
  link : Nat
  msg  : Msg
deriving DecidableEq, Repr

/-- The L and R values of a statistics slot, as FP64 codes, and the packages that contribute (R393, R395). -/
structure Stat where
  sumL  : Nat := 0
  sumR  : Nat := 0
  count : Nat := 0
deriving DecidableEq, Repr

/-- The uncommitted values of a slot (R396, R397). -/
structure Estimate where
  slot  : Nat
  g2    : Nat
  sEma  : Nat
  noise : Nat
  valid : Bool
deriving DecidableEq, Repr

/-- A stage word with its DUE bit (R393, R473). -/
structure StageWord where
  word : Nat
  due  : Bool
deriving DecidableEq, Repr

/-- An item that waits for a sub-link to a rank, or for one of a group. -/
structure Unsent where
  rank  : Nat
  group : Option Nat
  owner : Option Nat
  msg   : Msg
deriving DecidableEq, Repr

/-- A region that arrives from a peer by PIPE or SEQ items (R389): the group that it arrives from, the step, tensor and
destination that its items name, the items so far (offset and payload), and the size once LAST has come. -/
structure Inbound where
  group : Nat
  key   : Nat × Nat × Nat
  parts : List (Nat × List Byte)
  units : Nat
  total : Option Nat
deriving DecidableEq, Repr

/-- A LANDED item that waits for held writes: their owner, the rank and the item, and the signal that goes before it
(R371, R389). -/
structure Answer where
  owner  : Nat
  rank   : Nat
  msg    : Msg
  signal : Option Signal
deriving DecidableEq, Repr

/-- What CLX keeps beside its registers. -/
structure Clx where
  /-- statistics that reductions of this step measured, by slot (R395) -/
  meas      : Table Stat := []
  /-- the slots measured since the last gate evaluation (R395) -/
  measured  : List Nat := []
  /-- the package word of the step has formed and its summary is not complete (R393, R398) -/
  summary   : Bool := false
  /-- what this package puts into the summary in progress -/
  own       : StageWord × List (Nat × Stat) := (⟨0, false⟩, [])
  /-- the accumulated summary, once this package has it -/
  sums      : Option (StageWord × List (Nat × Stat)) := none
  /-- stage words received or formed in this step, by stage (R394) -/
  words     : Table (Option StageWord) := []
  /-- uncommitted statistics of the step (R397) -/
  estimates : List Estimate := []
  /-- the held values of CLX_LAYOUT and CLX_POS (R399) -/
  layout    : Option Nat := none
  pos       : Option Nat := none
  /-- held writes of the peer table and of SNP_PARTNER (R433, R443) -/
  peers     : List (Nat × Nat) := []
  partner   : Option Nat := none
  /-- a gate evaluation has passed at which the held layout was due (R399) -/
  switchDue : Bool := false
  /-- a layout has applied since the last figure change (R434) -/
  newEpoch  : Bool := false
  /-- SEQ_PASS commands started since the layout applied (R390) -/
  seqPasses : Nat := 0
  /-- items that wait for a sub-link in service on channels 0 and 1 -/
  unsent    : List Unsent := []
  /-- regions that arrive, and the answers that wait for their writes -/
  inbound   : List Inbound := []
  /-- the commands of paths that have ended in this layout, by step and tensor, the newest first, with whether it was with OK; and the ABORTs that have come from one
  neighbour and not from the other: path, step, tensor, origin (R373) -/
  ended     : List ((Path × Nat × Nat) × Bool) := []
  aborted   : List (Path × Nat × Nat × Nat) := []
  answers   : List Answer := []
  /-- ABORTs for a command that is still to come, whose step and tensor an earlier one that ended with OK had: path, step, tensor,
  origin (R373) -/
  owed      : List (Path × Nat × Nat × Nat) := []
deriving DecidableEq, Repr

/-- What FIG keeps beside its registers. -/
structure Fig where
  /-- the FIGURE_CHANGE commands that have executed, in order of arrival, with slot and phase (R423, R438) -/
  waiting  : List (Nat × Nat × Nat) := []
  /-- the change that runs: its command, slot and phase -/
  running  : Option (Nat × Nat × Nat) := none
  /-- the sub-links that it drains (R420) -/
  drains   : List Nat := []
  /-- effective weights by sub-link (R415) -/
  weights  : Table Nat := []
  /-- items dealt by group and sub-link since the weights last changed -/
  dealt    : Table Nat := []
  /-- sub-links whose change of lanes waits for its re-weighting (R349, R415) -/
  due      : List Nat := []
  /-- a figure change has completed since start (R437) -/
  started  : Bool := false
deriving DecidableEq, Repr


/-- The promenade that this package runs (R453–R457): POSE_ID, keep bank, the pages of the state region as armed, the seal
cell, the next page to read, and whether the holder has accepted and SEAL has been sent. -/
structure Prom where
  pose     : Nat
  keep     : Nat
  pages    : List Nat
  cell     : Option Nat
  next     : Nat := 0
  accepted : Bool := false
  sealSent : Bool := false
  /-- SEALED has come -/
  answered : Bool := false
deriving DecidableEq, Repr

/-- A promenade that arrives (R456, R457): the rank of its source, POSE_ID, page count, the partner bank it fills, the
items landed (512 · page + item), and the SEAL that has come: its sub-link and the header. -/
structure InProm where
  origin : Nat
  pose   : Nat
  pages  : Nat
  bank   : Nat
  got    : List Nat := []
  sealed : Option (Nat × BankHdr) := none
deriving DecidableEq, Repr

/-- A refill that runs (R465–R469): its entry; whether the transfer is accepted; at a destination the source's rank, the
sub-link it came on, the banks that it fills with the rank whose state each holds, the items landed by bank, and the pages
verified. -/
structure Refill where
  entry    : Nat
  accepted : Bool := false
  peer     : Option Nat := none
  pages    : Nat := 0
  banks    : List (Nat × Nat) := []
  got      : List (Nat × Nat) := []
  checked  : List (Nat × Nat) := []
deriving DecidableEq, Repr

/-- What SNP keeps beside its registers. -/
structure Snp where
  /-- counters of R470 as they stood at the last seal, by BAR0 offset -/
  health   : Table Nat := []
  prom     : Option Prom := none
  inProm   : Option InProm := none
  /-- refills that run, outbound and inbound -/
  refills  : List Refill := []
  /-- POSE_ID of the pose armed last (R462) -/
  lastPose : Option Nat := none
deriving DecidableEq, Repr

/-- The fuses (R550). UDS, ROOT_HASH and SERIAL are programmed before the package is delivered: the first two hold free values
(log entry 4). -/
structure Fuses where
  uds      : List Byte := Config.uds
  rootHash : List Byte := Config.rootHash
  lc     : Nat := 2
  serial : Nat := 0
  svn    : Nat := 0
  revoke : Nat := 0
deriving DecidableEq, Repr

/-- A last-waltz record (R525): START_COUNT, firmware version and life cycle in force, what its elements found, the SHA3-512
digest over all of these, and the seal, a SEAL signature over the digest (R552). -/
structure LwRecord where
  count   : Nat
  version : Nat
  lc      : Nat
  found   : TestResult
  digest  : List Byte
  signature : List Byte
deriving DecidableEq, Repr

/-- What Perhal keeps beside its registers (R552, R564, R565, R583): the delivered regions with the lengths of their
IMG_DONE, the count of image bytes received, the key stores, those of the pairs as their seeds ξ, and the ports whose requests wait, in order
of GO. -/
structure Perhal where
  img      : Table Byte := []
  chain    : Table Byte := []
  imgLen   : Option Nat := none
  chainLen : Option Nat := none
  received : Nat := 0
  dik      : Option (List Byte) := none
  ak       : Option (List Byte) := none
  /-- the UDS read latch (R552): it holds UDS during a derivation -/
  latch    : List Byte := []
  /-- ports with SPDM session keys -/
  sessions : List Nat := []
  /-- IDE streams with keys, 4 · port + stream (0 the link stream, 1–3 selective), with the key set in use (R565) -/
  ide      : Table (Option Bool) := []
  /-- the test access port requests scan: no key loads until the next package reset (R563) -/
  noKeys   : Bool := false
  /-- every further request is answered NOT_READY (R561) -/
  closed   : Bool := false
  order    : List Nat := []
deriving DecidableEq, Repr

/-- What the I3C target keeps (R582, R583): the dynamic address that the bus has assigned, and STATUS and result of the last
command, which a private read returns. -/
structure I3cTarget where
  address : Option Nat := none
  last    : Nat × List Byte := (0, [])
deriving DecidableEq, Repr

/-- What PWR keeps of its sensors (R542, R645): the last readings by sensor (sensor k of stack n 2·n + k, the draw
32, sensor n of die d 64 + 8·n + d), the die sensors past their first threshold, whether a stack has been at 100 °C and not all are below 90 °C
since, and the throttle steps taken by die, those of the draw 4. -/
structure Thermal where
  reading : Table Nat := []
  hot     : List Nat := []
  stack   : Bool := false
  steps   : Table Nat := []
deriving DecidableEq, Repr

/-- The package. -/
structure State where
  /-- the commands that wait, first in, first out -/
  pending : List Instr := []
  /-- the registers by BAR0 offset; an unlisted word reads as at reset (R611) -/
  regs : Table Word := []
  /-- the bytes of the 52-bit device address space (R213), by physical address after retirement (R217) -/
  mem : Table Byte := []
  /-- poisoned 64-byte granules, by physical address (R229) -/
  poison : List Nat := []
  /-- fenced pseudo-channels, 64 · stack + pseudo-channel (R503) -/
  fencedPch : List Nat := []
  /-- staging quadrants fenced by a self-test (R538) -/
  fencedStg : List Nat := []
  /-- wide-buffer quadrants fenced by a self-test (R538) -/
  fencedWbf : List Nat := []
  /-- parts of memory whose bytes are undefined, by `partOf`: the draw of their bytes, plus one (R89, R240, R314; log entry 43) -/
  lostGen : Table Nat := []
  /-- granules of such a part written since then -/
  lostSet : List Nat := []
  /-- page state bits (R235) -/
  pages : Table Page := []
  /-- writes that wait for a page, in order of arrival; then those behind them (R233, R236–R238, R271) -/
  heldWrites : List HeldWrite := []
  /-- pages whose preserve copy runs (R236) -/
  preserving : List Nat := []
  /-- the retirement copy in progress (R233) -/
  retiring : Option Retiring := none
  /-- correctable-error counts of the pages that most recently erred, newest first (R232) -/
  ceCounts : List (Nat × Nat) := []
  /-- those of them whose count has made the page due (R232) -/
  ceFired : List Nat := []
  /-- sync cells, 16,384 · die + index (R261) -/
  cells : Table Nat := []
  /-- registered waits in order of registration (R262) -/
  waits : List Wait := []
  /-- what the callers keep of the queues, 64 · die + queue -/
  queues : Table Queue := []
  /-- arbitrations of the callers at which heads were first found eligible (R278) -/
  arrivals : Nat := 0
  /-- the queue whose head a caller has chosen and holds no credit for, plus one, by 8 · die + caller (R162) -/
  chosen : Table Nat := []
  /-- dispatched commands that have not completed, oldest first -/
  cmds : List Cmd := []
  /-- identifier of the next dispatched command (log entry 9) -/
  nextId : Nat := 0
  /-- identifiers of the grand claims that wait, in order of arrival (R111) -/
  claims : List Nat := []
  /-- the grand claim granted (R111) -/
  granted : Option Nat := none
  /-- open brackets and recorded causes, 2 · die + context -/
  jobs : Table Job := []
  /-- gates in progress, by context -/
  gates : Table Gate := []
  /-- completion records that wait for a host port (R581) -/
  cplWait : List CplWait := []
  /-- configuration space and MSI-X table of HP0 and HP1 (log entry 5) -/
  hostPorts : Table HostPort := []
  /-- the page that SNP transmits (R237) -/
  sending : Option Nat := none
  /-- compute dies declared absent whose absence is not learned yet (R309, steps 3 and 4) -/
  absentDue : List Nat := []
  /-- the DIE_ABSENT cause of the floor, by context: 1 of this step, 2 of the next (R197, R198) -/
  floorCause : Table Nat := []
  /-- containment actions by die (R508) -/
  actions : Table Actions := []
  /-- open recovery windows: domain type and index of R500 (R502) -/
  windows : List (Nat × Nat) := []
  /-- pages whose block a hardware fence holds (R505, R624) -/
  hwFences : List Nat := []
  /-- pages whose fence was made under R509 (R506) -/
  secondFences : List Nat := []
  /-- error records whose H column reads yes, since the last seal (R470) -/
  fieldEvents : Nat := 0
  /-- samplers by die (R602) -/
  samplers : Table Sampler := []
  /-- markers executed by each die since its reset (R604) -/
  markerSeq : Table Nat := []
  /-- marker tokens under way to the floor, with their die (R606) -/
  tokens : List (Nat × Token) := []
  /-- messages sent to the hosts, oldest first (log entry 6) -/
  hostOut : List HostMsg := []
  /-- free values drawn (log entry 7) -/
  free : Nat := 0
  /-- array row or column faults whose spare is mapped before the next operation: die, row, logical position (R118) -/
  spareDue : List (Nat × Bool × Nat) := []
  /-- spare rows and columns that cannot serve, 16 · die + table entry (R117) -/
  badSpares : List Nat := []
  /-- unit cores with their tile and scalar registers, 64 · die + unit (R129, R158) -/
  units : Table UnitCore := []
  /-- brackets from their first LAYER_OPEN to their outcome, oldest first (R182, R187) -/
  groups : List Group := []
  /-- identifier of the next bracket (log entry 9) -/
  nextGroup : Nat := 0
  /-- optical sub-links, entry 2 · port + sub-link -/
  links : Table Link := []
  /-- items sent, oldest first (log entry 6) -/
  sentItems : List SentItem := []
  /-- DATA frames sent, oldest first (log entry 6) -/
  sentFrames : List SentFrame := []
  /-- the collective engine -/
  clx : Clx := {}
  /-- the figure engine -/
  fig : Fig := {}
  /-- the snapshot engine -/
  snp : Snp := {}
  /-- ports whose lanes relock after a feed switch (R330) -/
  relocking : List Nat := []
  /-- lost wavelengths of the diagonal links: link, waveguide (20 each direction), wavelength (R316) -/
  diagLost : List (Nat × Nat × Nat) := []
  /-- the fuses (R550) -/
  fuses : Fuses := {}
  /-- FATAL_N is low: a FATAL error holds the package until its reset (R507) -/
  fatal : Bool := false
  /-- pages of blocks with fewer parts in service than at start (R506) -/
  degraded : List Nat := []
  /-- pages that wait for a retirement to end before theirs (R232, R508) -/
  retireDue : List RetireReq := []
  /-- the bundles of the compute dies, 1,024 · die + bundle (R296) -/
  bundles : Table Bundle := []
  /-- frames of fenced or moved bundles that are to be sent again, by `movedKey`: on others of their packet group, or on the
  bundle in their place in a stream group (R305, R306) -/
  moved : Table (List Kept) := []
  /-- the stream item that a bundle is in the middle of: its chunks of 512 bits so far, and their bits (R299) -/
  parts : Table (Nat × Nat) := []
  /-- the bits of the stream items that the floor has taken from a die and not passed on, in order: its partial sums under
  the die, its activations under 8 + die (R297) -/
  crossing : Table (List Nat) := []
  /-- START_COUNT of the start store (R521, R526) -/
  startCount : Nat := 0
  /-- the last-waltz record of the start store (R525) -/
  record : Option LwRecord := none
  /-- the record that the start in force has used (R526, R529) -/
  inForce : Option LwRecord := none
  /-- what the rows of the start, or the elements of the last waltz, have found so far (R528, R533) -/
  found : TestResult := {}
  /-- every unit that the elements of the last waltz have found failing, which FAILS counts (R546) -/
  tallied : TestResult := {}
  /-- the I3C target (R582, R583) -/
  i3c : I3cTarget := {}
  /-- Perhal (R549–R568) -/
  perhal : Perhal := {}
  /-- the sensors and throttle steps (R542, R645) -/
  thermal : Thermal := {}
  /-- BST waits for the package draw to fall (R536) -/
  paused : Bool := false
deriving DecidableEq, Repr

/-- The machine right after reset: PKG_RST_N low (R524, R529). Every register reads its reset word, memory lists
nothing, and every block holds nothing; the entries of the assumption log name the values that the manual does not
give. -/
def State.reset : State := {}

end Sys2Proof.Machine
end

