-- ==== Sys2Proof/Machine/Ops.lean ====
section
/-! DEFINITION. The named operations that every command shares: registers and their counters, interrupts, sync
cells, and device memory with its poison, its pages and its retirement. -/

namespace Sys2Proof.Machine

/-- The word an unlisted register reads as: its reset word. -/
def resetWord (a : Nat) : Word := BitVec.ofNat 64 (resetNat a)

/-- The stored word at a BAR0 offset. -/
def State.word (s : State) (a : Nat) : Nat := (Table.get resetWord s.regs a).toNat

/-- Store a word at a BAR0 offset. -/
def State.setWord (s : State) (a n : Nat) : State :=
  { s with regs := Table.set resetWord s.regs a (BitVec.ofNat 64 n) }

/-- A field of the page at `pg`. -/
def State.fld (s : State) (pg : Nat) (f : Fld) : Nat := bits (s.word (pg + f.off)) f.lsb f.width

/-- Set a field of the page at `pg`; its register's other bits stay. -/
def State.put (s : State) (pg : Nat) (f : Fld) (n : Nat) : State :=
  s.setWord (pg + f.off) (setBits (s.word (pg + f.off)) f.lsb f.width n)

/-- Whether a field is non-zero. -/
def State.on (s : State) (pg : Nat) (f : Fld) : Bool := s.fld pg f != 0

/-- Set a field to 1 or 0. -/
def State.flag (s : State) (pg : Nat) (f : Fld) (b : Bool) : State := s.put pg f (if b then 1 else 0)

/-- Fold a state change over a list, in its order. -/
def State.each {α : Type} (s : State) (l : List α) (f : State → α → State) : State := l.foldl f s

/-- Apply a change when a condition holds. -/
def State.when (s : State) (b : Bool) (f : State → State) : State := if b then f s else s

/-- The next free value's index, and the state that has drawn it (log entry 7). -/
def State.draw (s : State) : Nat × State := (s.free, { s with free := s.free + 1 })

/-- A stamp of an island (R27, R30; log entry 7). -/
def State.stamp (s : State) : Nat × State := ((Config.stamp s.free).toNat, { s with free := s.free + 1 })

/-- The next identifier is taken (log entry 9). -/
def State.useId (s : State) : State := { s with nextId := s.nextId + 1 }

/-- Send a message to a host (log entry 6). -/
def State.tell (s : State) (m : HostMsg) : State := { s with hostOut := s.hostOut ++ [m] }

/-! Dies and ports. -/

/-- STATE of a compute die's D2D_DIE_CTL (R318). -/
def State.dieState (s : State) (d : Nat) : Nat := s.fld (page 4 B.D2D) (R.D2D_DIE_CTL_STATE d)

/-- Whether a compute die is PRESENT. -/
def State.present (s : State) (d : Nat) : Bool := s.dieState d == 0

/-- The present compute dies, in increasing index. -/
def State.presentDies (s : State) : List Nat := [0, 1, 2, 3].filter s.present

/-- The page of host port `p` (R17). -/
def hifPage (p : Nat) : Nat := page 4 (B.HIF + p)

/-- Whether a host port's link is up (R586). -/
def State.linkUp (s : State) (p : Nat) : Bool := s.on (hifPage p) R.HIF_LINK_STS_LINK_UP

/-- Whether the package may send requests through a host port: its link is up and Bus Master Enable is set
(R581). -/
def State.hostReach (s : State) (p : Nat) : Bool :=
  s.linkUp p && (Table.get (fun _ => ({} : HostPort)) s.hostPorts p).busMaster

/-- Change the configuration state of a host port. -/
def State.setPort (s : State) (p : Nat) (h : HostPort) : State :=
  { s with hostPorts := Table.set (fun _ => {}) s.hostPorts p h }

/-- The configuration state of a host port. -/
def State.port (s : State) (p : Nat) : HostPort := Table.get (fun _ => {}) s.hostPorts p

/-! Counters (R591–R594). -/

/-- The index of the first counter of a page (R592). -/
def counterBase (die i : Nat) : Nat :=
  if die < 4 then
    match i with
    | 1 => 0 | 2 => 1 | 3 => 10 | 5 => 950 | 8 => 957 | 9 => 971 | 10 => 977 | 11 => 997 | 12 => 1006 | _ => 1012
  else if i < 0x10 then (match i with | 1 => 0 | 2 => 5 | 3 => 14 | _ => 18)
  else if i < 0x18 then
    (match i with | 0x10 => 29 | 0x11 => 50 | 0x12 => 62 | 0x13 => 69 | 0x14 => 82 | 0x15 => 97 | _ => 99)
  else if i < 0x20 then 106 + 11 * (i - 0x18)
  else if i < 0x30 then 128 + 9 * (i - 0x20)
  else 272 + 15 * (i - 0x30)

/-- Position of a counter among those of its page, by offset (R592, R599). -/
def counterPos (die i off : Nat) : Nat :=
  if die < 4 ∧ i = 3 ∧ 0x9E00 ≤ off then 936 + (off - 0x9E00) / 8 else (off - 0x8000) / 8

/-- Offset of the counter at a position of its page. -/
def counterOff (die i pos : Nat) : Nat :=
  if die < 4 ∧ i = 3 ∧ 936 ≤ pos then 0x9E00 + 8 * (pos - 936) else 0x8000 + 8 * pos

/-- The block indices that hold counters on a die. -/
def counterBlocks (die : Nat) : List Nat :=
  if die < 4 then [1, 2, 3, 5, 8, 9, 10, 11, 12, 14]
  else [1, 2, 3, 5, 0x10, 0x11, 0x12, 0x13, 0x14, 0x15, 0x16, 0x18, 0x19] ++
    (List.range 16).map (0x20 + ·) ++ (List.range 16).map (0x30 + ·)

/-- The BAR0 offset of the counter of an index of a die, if there is one. -/
def counterAddr (die index : Nat) : Option Nat :=
  (counterBlocks die).findSome? fun i =>
    let b := counterBase die i
    let n := counterCount die ((blockOf i).getD 0)
    if b ≤ index ∧ index < b + n then some (page die i + counterOff die i (index - b)) else none

/-- The index of the counter at a BAR0 offset. -/
def counterIndex (a : Nat) : Nat :=
  let die := a / 0x1000000
  let i := a / 0x10000 % 0x100
  counterBase die i + counterPos die i (a % 0x10000)

/-- CHAIN bit of a counter index (R610). -/
def State.chained (s : State) (die n : Nat) : Bool := bitOn (s.word (page die B.PMU + 0x1000 + 8 * (n / 64))) (n % 64)

/-- Raise vector 0 of each port whose BLOCK_INT_EN is 1 (R629); `send` sends a vector on a port. -/
def State.blockIntBy (send : State → Nat → Nat → State) (s : State) : State :=
  s.each [0, 1] fun s p => if s.on (hifPage p) R.HIF_INT_CTL_BLOCK_INT_EN then send s p 0 else s

/-- Whether a page has an interrupt pending (R629). -/
def State.intPending (s : State) (pg : Nat) : Bool :=
  (s.fld pg R.INT_STS_CAUSE &&& s.fld pg R.INT_EN_ENABLE) != 0

/-- Make a change of a page's INT_STS or INT_EN, and raise vector 0 when the page becomes pending (R629). -/
def State.intChangeBy (send : State → Nat → Nat → State) (s : State) (pg : Nat) (f : State → State) : State :=
  let t := f s
  if !s.intPending pg && t.intPending pg then t.blockIntBy send else t

/-- Set bit `b` of a page's INT_STS (R623, R628). -/
def State.intSetBy (send : State → Nat → Nat → State) (s : State) (pg b : Nat) : State :=
  s.intChangeBy send pg fun s => s.put pg R.INT_STS_CAUSE (s.fld pg R.INT_STS_CAUSE ||| 2 ^ b)

/-- Set the OVF bit of a counter index, and PMU's interrupt for it (R594, R605). -/
def State.setOvfBy (send : State → Nat → Nat → State) (s : State) (die n : Nat) : State :=
  let a := page die B.PMU + 0x1100 + 8 * (n / 64)
  (s.setWord a (s.word a ||| 2 ^ (n % 64))).intSetBy send (page die B.PMU) 1

/-- Add `k` to the counter at `a`; each wrap is an overflow, which a CHAIN bit carries into the next counter
(R593, R594). `fuel` bounds the length of a chain. -/
def State.countAtBy (send : State → Nat → Nat → State) (s : State) (a k : Nat) : Nat → State
  | 0 => s
  | fuel + 1 =>
    let die := a / 0x1000000
    let n := counterIndex a
    let v := s.word a % 2 ^ 48 + k
    let s := s.setWord a (v % 2 ^ 48)
    if v < 2 ^ 48 then s
    else
      let s := s.setOvfBy send die n
      if s.chained die n then
        match counterAddr die (n + 1) with
        | some b => s.countAtBy send b 1 fuel
        | none => s
      else s

/-- Count `k` events on a counter of a page. While the counter before it is chained, it does not count its own
events (R594). -/
def State.countBy (send : State → Nat → Nat → State) (s : State) (pg : Nat) (c : Fld) (k : Nat) : State :=
  let a := pg + c.off
  let die := a / 0x1000000
  let n := counterIndex a
  if k = 0 ∨ (0 < n ∧ s.chained die (n - 1)) then s else s.countAtBy send a k 1024

/-- Send vector `v` on port `p` (R576, R577): a write of 4 bytes, counted in TX_BYTES too (R590). A counter of the port that
overflows here raises an interrupt, and so a message, of its own; each wrap leaves a counter at zero, so `depth` such messages
within one another reach the end for as many counters. -/
def State.msixBy : Nat → State → Nat → Nat → State
  | 0, s, _, _ => s
  | depth + 1, s, p, v =>
    let h := s.port p
    let bump (s : State) (f : Fld) (k : Nat) : State := s.countBy (State.msixBy depth) (hifPage p) f k
    if !(s.linkUp p && h.msix) then bump s C.HIF_MSIX_DROPPED 1
    else if h.unmasked.contains v then
      let e := Table.get (fun _ => (0, 0)) h.vectors v
      bump (bump (s.tell (.msix p v e.1 e.2)) C.HIF_MSIX_SENT 1) C.HIF_TX_BYTES 4
    else s.setPort p { h with pendingV := setInsert v h.pendingV }

/-- Send vector `v` on port `p`: six counters of the ports can wrap (MSIX_SENT, MSIX_DROPPED and TX_BYTES of each). -/
def State.msix (s : State) (p v : Nat) : State := State.msixBy 7 s p v

/-- Raise vector 0 of each port whose BLOCK_INT_EN is 1 (R629). -/
def State.blockInt (s : State) : State := s.blockIntBy State.msix

/-- Make a change of a page's INT_STS or INT_EN, and raise vector 0 when the page becomes pending (R629). -/
def State.intChange (s : State) (pg : Nat) (f : State → State) : State := s.intChangeBy State.msix pg f

/-- Set bit `b` of a page's INT_STS (R623, R628). -/
def State.intSet (s : State) (pg b : Nat) : State := s.intSetBy State.msix pg b

/-- Set the OVF bit of a counter index, and PMU's interrupt for it (R594, R605). -/
def State.setOvf (s : State) (die n : Nat) : State := s.setOvfBy State.msix die n

/-- Count `k` events on a counter of a page (R591–R594). -/
def State.count (s : State) (pg : Nat) (c : Fld) (k : Nat) : State := s.countBy State.msix pg c k

/-! Sync cells (R255, R261–R268). -/

/-- The number of a cell (R261). -/
def cellNo (die index : Nat) : Nat := 16384 * die + index

/-- The value of a cell. -/
def State.cell (s : State) (c : Nat) : Nat := Table.get (fun _ => 0) s.cells c

/-- Write a cell, with no test. -/
def State.setCell (s : State) (c v : Nat) : State := { s with cells := Table.set (fun _ => 0) s.cells c (v % 2 ^ 32) }

/-- R255: whether value `v` satisfies threshold `h`. -/
def meets (v h : Nat) : Bool := decide ((v + 2 ^ 32 - h % 2 ^ 32) % 2 ^ 32 < 2 ^ 31)

/-- The state a queue's caller keeps. -/
def State.queue (s : State) (k : Nat) : Queue := Table.get (fun _ => {}) s.queues k

/-- Change the state a queue's caller keeps. -/
def State.setQueue (s : State) (k : Nat) (q : Queue) : State :=
  { s with queues := Table.set (fun _ => {}) s.queues k q }

/-- Test the watches of a cell against its value (R268). -/
def State.testWatches (s : State) (c : Nat) : State :=
  let pg := page (c / 16384) B.SYN
  s.each (List.range 32) fun s n =>
    if s.on pg (R.WATCH_TABLE_EN n) && !s.on pg (R.WATCH_TABLE_FIRED n)
        && s.fld pg (R.WATCH_TABLE_INDEX n) == c % 16384 && meets (s.cell c) (s.fld pg (R.WATCH_TABLE_THRESH n)) then
      ((s.put pg (R.WATCH_TABLE_FIRED n) 1).count pg C.SYN_WATCH_FIRES 1).msix
        (s.fld pg (R.WATCH_TABLE_HOST n)) (s.fld pg (R.WATCH_TABLE_VECTOR n))
    else s

/-- The counter of an update of a cell of die `d` by its origin (R292). -/
def originCounter (d : Nat) : Origin → Fld
  | .host => C.SYN_UPDATES_LOCAL
  | .caller e => if e.val = d then C.SYN_UPDATES_LOCAL else C.SYN_UPDATES_DIE
  | .floor e => if e.val = d then C.SYN_UPDATES_LOCAL else C.SYN_UPDATES_DIE
  | .remote => C.SYN_UPDATES_REMOTE

/-- An origin from a die index. -/
def fromDie (d : Nat) : Origin := .caller (Fin.ofNat 4 d)

/-- Test one wait of a cell; a consuming wait is an update of the cell (R255, R262, R292). -/
def State.testWait (s : State) (w : Wait) : State :=
  let pg := page (w.cell / 16384) B.SYN
  if meets (s.cell w.cell) w.thresh then
    let s := { s with waits := dropFirst (· == w) s.waits }
    let s := (s.setQueue w.queue { s.queue w.queue with wait := .satisfied }).count pg C.SYN_WAITS_SATISFIED 1
    if w.consume then
      let s := (s.setCell w.cell (s.cell w.cell + 2 ^ 32 - w.thresh % 2 ^ 32)).count pg C.SYN_CONSUMES 1
      (s.count pg (originCounter (w.cell / 16384) (fromDie (w.queue / 64))) 1).testWatches w.cell
    else s
  else s

/-- Give a cell a value and run the tests of R262: watches, then waits in order of registration. -/
def State.updateCell (s : State) (c v : Nat) : State :=
  let s := (s.setCell c v).testWatches c
  s.each (s.waits.filter fun w => w.cell == c) State.testWait

/-- Apply a signal to its cell (R256, R262). -/
def State.signal (s : State) (g : Signal) (src : Origin) : State :=
  let d := g.cell / 16384
  (s.updateCell g.cell (if g.set then g.value else s.cell g.cell + g.value)).count (page d B.SYN) (originCounter d src) 1

/-- Apply a signal unless its cell lies on a die that is not present, where it is dropped (R264). -/
def State.signalLive (s : State) (g : Signal) (src : Origin) : State :=
  if s.present (g.cell / 16384) then s.signal g src else s

/-- Whether a cell belongs to a context, by SYN_CUT_RANGE of the dispatching die (R265). -/
def State.cellOf (s : State) (d ctx index : Nat) : Bool :=
  let pg := page d B.SYN
  let b := s.fld pg R.SYN_CUT_RANGE_BASE
  let cut := decide (b ≤ index) && decide (index < b + s.fld pg R.SYN_CUT_RANGE_COUNT)
  if ctx = 0 then !cut else cut

/-! Device memory (R213–R240). -/

/-- 2 MiB, the size of a page of R217. -/
def pageBytes : Nat := 0x200000

/-- The first address after the DRAM window. -/
def dramEnd : Nat := 0x18000000000

/-- Base of the staging window. -/
def stgBase : Nat := 0x4000000000000

/-- Base of the wide-buffer window. -/
def wbfBase : Nat := 0x4000040000000

/-- Base of the ACC windows. -/
def accBase : Nat := 0x4000080000000

/-- The traffic of R279: sync-cell updates between dies and packages; completion records; retirement copies; the traffic of a
command, by its context and the CLASS of its queue; a preserve copy, by the class of the stalled write; a commit-add list, by
the context and the CLASS of its member's LAYER_OPEN queue; promenades, drains and refills; patrol scrub. -/
inductive Traffic where
  | sync | completion | retireCopy
  | command (context cls : Nat)
  | preserveCopy (writer : Nat)
  | commitAdd (context cls : Nat)
  | snapshot | scrub
deriving DecidableEq, Repr

/-- The class of traffic: 0 URGENT, 1 NORMAL, 2 LOW (R279). -/
def Traffic.cls : Traffic → Nat
  | .sync | .completion | .retireCopy => 0
  | .command context cls | .commitAdd context cls => if context = 1 then 2 else cls
  | .preserveCopy writer => writer
  | .snapshot | .scrub => 2

/-- The memories of R213. -/
inductive Region where
  | dram
  | staging (q : Nat)
  | wide (q : Nat)
  | acc (d : Nat)
deriving DecidableEq, Repr

/-- The memory that an address reaches, none for a reserved range (R213). -/
def regionOf (a : Nat) : Option Region :=
  if a < dramEnd then some .dram
  else if a < stgBase then none
  else if a < stgBase + 0x30000000 then some (.staging ((a - stgBase) / 0xC000000))
  else if a < wbfBase then none
  else if a < wbfBase + 0x10000000 then some (.wide ((a - wbfBase) / 0x4000000))
  else if a < accBase then none
  else if a < accBase + 0x10000000 then
    (if (a - accBase) % 0x4000000 < 0x3000000 then some (.acc ((a - accBase) / 0x4000000)) else none)
  else none

/-- The window of R213 that holds an address: an ACC window for each die. -/
def windowOf (a : Nat) : Option Nat :=
  match regionOf a with
  | some .dram => some 0
  | some (.staging _) => some 1
  | some (.wide _) => some 2
  | some (.acc d) => some (3 + d)
  | none => none

/-- Whether a range of bytes lies wholly within one window of R213; a range of no bytes does (R283). -/
def inMap (a len : Nat) : Bool :=
  len == 0 || ((windowOf a).isSome && windowOf (a + len - 1) == windowOf a)

/-- Whether a range lies wholly within the DRAM window or the staging window (R208, R609). -/
def inDramOrStaging (a len : Nat) : Bool :=
  inMap a len && (windowOf a == some 0 || windowOf a == some 1)

/-- The ACC window address of an ACC offset of a die. -/
def accAddr (d off : Nat) : Nat := accBase + d * 0x4000000 + off

/-- The compute die whose ACC window holds an address. -/
def accDie (a : Nat) : Option Nat :=
  match regionOf a with
  | some (.acc d) => some d
  | _ => none

/-- The offset of a context's partition table in the JCX page (R294). -/
def partBase (d ctx : Nat) : Nat := page d B.JCX + 256 * ctx

/-- The last unit of the valid entry of a context that holds a unit of 64 KiB (R283). -/
def State.partLimit (s : State) (d ctx unit : Nat) : Option Nat :=
  (List.range 16).findSome? fun n =>
    let pg := partBase d ctx
    let lim := s.fld pg (R.PARTITION_W1_LIMIT n)
    if s.on pg (R.PARTITION_W0_VALID n) && decide (s.fld pg (R.PARTITION_W0_BASE n) ≤ unit) && decide (unit ≤ lim)
    then some lim else none

/-- Whether the units from `u` to `last` lie in valid entries; each entry serves at most once. -/
def State.unitsIn (s : State) (d ctx : Nat) : Nat → Nat → Nat → Bool
  | 0, _, _ => false
  | fuel + 1, u, last =>
    match s.partLimit d ctx u with
    | none => false
    | some lim => decide (last ≤ lim) || s.unitsIn d ctx fuel (lim + 1) last

/-- R283: whether a range of bytes lies in the partitions of a context. -/
def State.inPartitions (s : State) (d ctx a len : Nat) : Bool :=
  len == 0 || s.unitsIn d ctx 17 (a / 65536) ((a + len - 1) / 65536)

/-- Whether a context may name a range of bytes (R213, R283). -/
def State.named (s : State) (d ctx a len : Nat) : Bool := inMap a len && s.inPartitions d ctx a len

/-- The spare of a retired page (R217, R244), found among the listed entries of MCT0's table. -/
def State.spareOf (s : State) (p : Nat) : Option Nat :=
  s.regs.findSome? fun e =>
    let base := page 4 B.MCT + 0x1000
    let w := e.2.toNat
    if base ≤ e.1 ∧ e.1 < base + 8192 ∧ bitOn w 63 ∧ bits w 0 20 = p then some (bits w 32 20) else none

/-- The address after retirement (R217, step 1). -/
def State.phys (s : State) (a : Nat) : Nat :=
  if a < dramEnd then
    match s.spareOf (a / pageBytes) with
    | some q => q * pageBytes + a % pageBytes
    | none => a
  else a

/-- The stack of an address after retirement (R217, step 2). -/
def stackOf (a : Nat) : Nat := bits a 9 4 ^^^ bits a 21 4

/-- The pseudo-channel of an address after retirement, 64 · stack + pseudo-channel (R217, step 3). -/
def pchOf (a : Nat) : Nat := 64 * stackOf a + bits a 13 6

/-- Whether a physical address lies in a fenced part (R503, R538). -/
def State.fencedAt (s : State) (a : Nat) : Bool :=
  match regionOf a with
  | some .dram => s.fencedPch.contains (pchOf a)
  | some (.staging q) => s.fencedStg.contains q
  | some (.wide q) => s.fencedWbf.contains q
  | _ => false

/-- Whether the granule that holds an address is poisoned or fenced as it stands (R229, R503). -/
def State.badAt (s : State) (a : Nat) : Bool :=
  let g := s.phys (a / 64 * 64)
  s.poison.contains g || s.fencedAt g

/-- The canonical form of memory: addresses strictly rising, and no byte listed that an unlisted one reads as. -/
abbrev Memory.wf (m : List Host.Cell) : Prop := Table.wf (fun _ => 0) m

/-- The part of memory that an address lies in: the quadrants of the wide buffer, the ACC of the dies, the quadrants of
staging, and DRAM. -/
def partOf (a : Nat) : Nat :=
  match regionOf a with
  | some (.wide q) => q
  | some (.acc d) => 4 + d
  | some (.staging q) => 8 + q
  | some .dram => 12
  | none => 13

/-- A stored byte at a physical address. An unlisted byte reads 0 (log entry 2); a byte of a part that an event has left
undefined since it was written reads a free value (log entry 43). -/
def State.rawByte (s : State) (a : Nat) : Byte :=
  if s.lostGen.isEmpty then Table.get (fun _ => 0) s.mem a
  else
    let g := Table.get (fun _ => 0) s.lostGen (partOf a)
    if g = 0 ∨ s.lostSet.contains (a / 64 * 64) then Table.get (fun _ => 0) s.mem a else Config.undefinedByte (g - 1) a

/-- The byte at a device address as memory stands. -/
def State.byteAt (s : State) (a : Nat) : Byte := if s.badAt a then 0 else s.rawByte (s.phys a)

/-- The state bits of a page (R235). -/
def State.pageSt (s : State) (p : Nat) : Page := Table.get (fun _ => {}) s.pages p

/-- Change the state bits of a page. -/
def State.setPageSt (s : State) (p : Nat) (x : Page) : State := { s with pages := Table.set (fun _ => {}) s.pages p x }

/-- Whether a page needs its content preserved before a write lands (R236). -/
def Page.guarded (x : Page) : Bool := x.armed && !x.sent && !x.preserved

/-- The mask of all 128 nibbles of a granule. -/
def fullMask : Nat := 2 ^ 128 - 1

/-- Byte `i` of a granule after a masked write: nibble 2i is its low half (R143). -/
def maskedByte (old new : Byte) (mask i : Nat) : Byte :=
  let lo := if bitOn mask (2 * i) then new.toNat % 16 else old.toNat % 16
  let hi := if bitOn mask (2 * i + 1) then new.toNat / 16 else old.toNat / 16
  BitVec.ofNat 8 (16 * hi + lo)

/-- A granule, as its poison and its 64 bytes as one number, after a write (R215, R229). -/
def HeldWrite.over (w : HeldWrite) (g : Bool × Nat) : Bool × Nat :=
  if w.mask = fullMask then (w.poison, w.data)
  else if g.1 then g
  else (false, leNat (tabulate (fun i =>
    maskedByte (BitVec.ofNat 8 (g.2 >>> (8 * i))) (BitVec.ofNat 8 (w.data >>> (8 * i))) w.mask i) 64))

/-- The writes that a read of a granule waits behind: those that arrived before it at a page that is being retired (R233).
A read of a page that waits for its preserve copy sees the page as it stands (R236). -/
def State.readBehind (s : State) (a : Nat) : List HeldWrite :=
  match s.retiring with
  | some r =>
    if decide (a < dramEnd) && a / pageBytes == r.page && !(s.pageSt r.page).guarded && !s.preserving.contains r.page
    then s.heldWrites.filter fun w => w.atPage && w.addr == a / 64 * 64
    else []
  | none => []

/-- A granule as it stands, with some writes made on it. -/
def State.granuleWith (s : State) (a : Nat) (l : List HeldWrite) : Bool × Nat :=
  let g := a / 64 * 64
  l.foldl (fun v w => w.over v) (s.badAt g, leNat (tabulate (fun i => s.byteAt (g + i)) 64))

/-- Whether a read of the granule that holds an address delivers zeros and MEM_POISON (R229, R503). -/
def State.bad (s : State) (a : Nat) : Bool :=
  match s.readBehind a with
  | [] => s.badAt a
  | l => s.fencedAt (s.phys (a / 64 * 64)) || (s.granuleWith a l).1

/-- The byte that a read of device address `a` delivers. -/
def State.byte (s : State) (a : Nat) : Byte :=
  match s.readBehind a with
  | [] => s.byteAt a
  | l => if s.bad a then 0 else BitVec.ofNat 8 ((s.granuleWith a l).2 >>> (8 * (a % 64)))

/-- Bytes from `a` on. -/
def State.bytes (s : State) (a len : Nat) : List Byte := tabulate (fun i => s.byte (a + i)) len

/-- The little-endian number of `k` bytes at `a` (R8). -/
def State.load (s : State) (a k : Nat) : Nat := leNat (s.bytes a k)

/-- The eight-byte words at `a`. -/
def State.words (s : State) (a n : Nat) : List Nat := tabulate (fun i => s.load (a + 8 * i) 8) n

/-- Whether a read of a range finds a poisoned or fenced granule. -/
def State.badRange (s : State) (a len : Nat) : Bool :=
  len != 0 && (List.range ((a + len - 1) / 64 + 1 - a / 64)).any fun i => s.bad ((a / 64 + i) * 64)

/-- Counter `i` after a counter of the same kind. -/
def nth (f : Fld) (i : Nat) : Fld := ⟨f.off + 8 * i, f.lsb, f.width⟩

/-- Count `n` bytes read or written at the granule `g` (R246, R595, R597). -/
def State.countBytes (s : State) (via : Via) (write : Bool) (g n : Nat) : State :=
  if via = .quiet then s else
  match regionOf g with
  | some .dram =>
    let pg := page 4 (B.MCT + stackOf g)
    let s := s.count pg (if write then C.MCT_WRITE_BYTES else C.MCT_READ_BYTES) n
    if !write && s.poison.contains g then s.count pg C.MCT_POISON_READS 1 else s
  | some (.staging q) => s.count (page 4 B.STG) (nth (if write then C.STG_WRITE_BYTES_0 else C.STG_READ_BYTES_0) q) n
  | some (.acc d) =>
    s.count (page d B.ACC) (match via with
      | .vector _ => if write then C.ACC_VECTOR_WRITE_BYTES else C.ACC_VECTOR_READ_BYTES
      | .array => C.ACC_ARRAY_WRITE_BYTES
      | _ => C.ACC_WINDOW_BYTES) n
  | _ => s

/-- Count a read of a range, granule by granule. -/
def State.countRead (s : State) (via : Via) (a len : Nat) : State :=
  if len = 0 then s else
  s.each (List.range ((a + len - 1) / 64 + 1 - a / 64)) fun s i =>
    let g := (a / 64 + i) * 64
    s.countBytes via false (s.phys g) (min (g + 64) (a + len) - max g a)

/-- The bytes that a nibble mask touches. -/
def maskBytes (mask : Nat) : Nat := ((List.range 64).filter fun i => bits mask (2 * i) 2 != 0).length

/-- Store the bytes of a masked granule at a physical address. -/
def State.storeGranule (s : State) (g data mask : Nat) : State :=
  { s with
    mem := forUpto (fun i m =>
      Table.set (fun _ => 0) m (g + i) (maskedByte (s.rawByte (g + i)) (BitVec.ofNat 8 (data >>> (8 * i))) mask i)) 64 s.mem
    lostSet := if s.lostGen.isEmpty then s.lostSet else setInsert g s.lostSet }

/-- The bytes of parts of memory become undefined: free values until a write. Array operations do so to a wide-buffer
quadrant (R89, R222), a rejoin to ACC (R314), marches to what they overwrite (R240, R533). Poison stays: the manual does not say whether
the accumulators of an operation, whose layout it does not give, clear the poison of wide-buffer granules, and the model keeps it
(DESIGN CHOICE, log entry 43). -/
def State.lost (s : State) (parts : List Nat) : State :=
  let t := s.draw.2
  { t with
    lostGen := parts.foldl (fun g p => Table.set (fun _ => 0) g p (s.draw.1 + 1)) s.lostGen
    lostSet := s.lostSet.filter fun g => !parts.contains (partOf g) }

/-- A written granule sets WRITTEN of the valid shard entries whose region holds a byte of it (R383), found among the
listed entries of CLX's table. -/
def State.markWritten (s : State) (a : Nat) : State :=
  let base := page 4 B.CLX + 0x1000
  let hit (e : Nat × Word) : Bool :=
    let w := e.2.toNat
    decide (base ≤ e.1) && decide (e.1 < base + 0x4000) && (e.1 - base) % 16 == 0 && bitOn w 63 && !bitOn w 62
      && decide (bits w 0 52 < a + 64) && decide (a < bits w 0 52 + 64 * bits (s.word (e.1 + 8)) 0 32)
  s.each ((s.regs.filter hit).map Prod.fst) fun s r => s.setWord r (setBits (s.word r) 62 1 1)

/-- Number of a queue of a die. -/
def queueNo (d q : Nat) : Nat := 64 * d + q

/-- A field of a queue-table entry. -/
def State.qf (s : State) (d q : Nat) (f : Nat → Fld) : Nat := s.fld (page d B.CAL) (f q)

/-- Set a field of a queue-table entry. -/
def State.qput (s : State) (d q : Nat) (f : Nat → Fld) (n : Nat) : State := s.put (page d B.CAL) (f q) n

/-- The dispatched commands of a queue that have not completed. -/
def State.queueCmds (s : State) (d q : Nat) : List Cmd := s.cmds.filter fun c => c.die == d && c.queue == q && !c.orphan

/-- The completion records of a queue that wait for their page. -/
def State.heldRecords (s : State) (k : Nat) : Nat := (s.heldWrites.filter fun w => w.cpl.map Prod.fst == some k).length

/-- OUTSTANDING of a queue follows its dispatched commands and its waiting records (R286). -/
def State.refreshOutstanding (s : State) (d q : Nat) : State :=
  s.qput d q R.QUEUE_W1_OUTSTANDING
    (if (s.queueCmds d q).isEmpty && !(s.cplWait.any fun x => x.queue == queueNo d q) && s.heldRecords (queueNo d q) == 0
      then 0 else 1)

/-- A granule write lands (R215, R229, R235, R383, R503): a fenced part drops it; a whole granule clears poison, or
carries the poison of what it was computed from; a part of a poisoned granule is discarded. -/
def State.land (s : State) (via : Via) (a data mask : Nat) (poison : Bool := false) : State :=
  let g := s.phys a
  if s.fencedAt g then s
  else
    let s := s.countBytes via true g (maskBytes mask)
    let s := if a < dramEnd then s.setPageSt (a / pageBytes) { s.pageSt (a / pageBytes) with dirty := true } else s
    if mask = fullMask then
      ({ s with poison := if poison then setInsert g s.poison else setErase g s.poison }.storeGranule g data mask).markWritten a
    else if s.poison.contains g then s
    else (s.storeGranule g data mask).markWritten a

/-- The number of preserve slots and the page index of the first (R239). -/
def State.slotCount (s : State) : Nat := s.fld (page 4 B.SNP) R.SNP_POOL_SIZE_SIZE

/-- Page index of a preserve slot. -/
def State.slotPage (s : State) (k : Nat) : Nat := s.fld (page 4 B.SNP) R.SNP_POOL_BASE_BASE + k

/-- The preserve slots in use: those of preserved pages and of running copies. -/
def State.usedSlots (s : State) : List Nat :=
  (s.pages.filter fun e => e.2.preserved || s.preserving.contains e.1).map fun e => e.2.slot

/-- The lowest free preserve slot; one beyond DRAM is no slot (R213). -/
def State.freeSlot (s : State) : Option Nat :=
  (List.range (s.usedSlots.length + 1)).find? fun k => decide (k < s.slotCount)
    && decide (s.slotPage k < dramEnd / pageBytes) && !s.usedSlots.contains k

/-- Claim a free slot for an ARMED page and start its copy (R236). -/
def State.claimSlot (s : State) (p : Nat) : State :=
  match s.freeSlot with
  | some k =>
    ({ s.setPageSt p { s.pageSt p with slot := k } with preserving := setInsert p s.preserving }).count
      (page 4 B.SNP) C.SNP_COW_COPIES 1
  | none => s

/-- Whether a page takes no write now (R233, R236, R237). -/
def State.pageShut (s : State) (p : Nat) : Bool :=
  (s.pageSt p).guarded || s.preserving.contains p || (s.retiring.map Retiring.page) == some p

/-- Whether a write that arrives at a page waits: the page takes none, or an earlier one waits there. -/
def State.pageHolds (s : State) (p : Nat) : Bool :=
  s.pageShut p || s.heldWrites.any fun w => w.atPage && decide (w.addr < dramEnd) && w.addr / pageBytes == p

/-- Two writes of one command, or two records of one queue. -/
def HeldWrite.follows (w v : HeldWrite) : Bool :=
  (w.owner.isSome && v.owner == w.owner) || (w.cpl.isSome && v.cpl.map Prod.fst == w.cpl.map Prod.fst)

/-- A write reaches a guarded page: it claims a preserve slot, or stalls for one, or waits for the page's transmission; each
stall and each wait counts once (R236–R238). -/
def State.reach (s : State) (w : HeldWrite) : HeldWrite × State :=
  let p := w.addr / pageBytes
  let snp := page 4 B.SNP
  let w := { w with atPage := true }
  if !(s.pageSt p).guarded || s.preserving.contains p then (w, s)
  else if s.sending = some p then ({ w with behind := true }, s.when (!w.behind) fun s => s.count snp C.SNP_SEND_WAITS 1)
  else if s.freeSlot.isSome then (w, s.claimSlot p)
  else ({ w with stalled := true }, s.when (!w.stalled) fun s => s.count snp C.SNP_COW_STALLS 1)

/-- The write of a completion record has landed: CPL_HEAD and OUTSTANDING follow it, then the vector (R270, R271, R286). -/
def State.recorded (s : State) (x : Nat × Bool) : State :=
  let d := x.1 / 64
  let q := x.1 % 64
  let s := (s.qput d q R.QUEUE_W4_CPL_HEAD (s.qf d q R.QUEUE_W4_CPL_HEAD + 1)).refreshOutstanding d q
  if x.2 then s.msix (s.qf d q R.QUEUE_W1_OWNER) (s.qf d q R.QUEUE_W1_VECTOR) else s

/-- A write arrives: it lands, or it waits behind its page in order of arrival. An engine makes a command's writes in turn,
so a later one arrives once the earlier one has landed; so do the records of a queue (R238, R271). -/
def State.arrive (s : State) (w : HeldWrite) : State :=
  if s.heldWrites.any w.follows then { s with heldWrites := s.heldWrites ++ [w] }
  else if w.addr < dramEnd ∧ s.pageHolds (w.addr / pageBytes) then
    let r := s.reach w
    { r.2 with heldWrites := r.2.heldWrites ++ [r.1] }
  else
    let s := s.land w.via w.addr w.data w.mask w.poison
    match w.cpl with
    | some x => s.recorded x
    | none => s

/-- Make the held writes that nothing holds any longer, in order of arrival, and those behind them. OUTSTANDING of a queue
follows the records that still wait after it (R286). -/
def State.drainHeld (s : State) : State :=
  let l := s.heldWrites
  let t := (({ s with heldWrites := [] } : State).each (l.filter HeldWrite.atPage) State.arrive).each
    (l.filter fun w => !w.atPage) State.arrive
  t.each (l.filterMap fun w => w.cpl.map Prod.fst) fun t k => t.refreshOutstanding (k / 64) (k % 64)

/-- A granule write of a command. -/
def State.writeGranule (s : State) (via : Via) (owner : Option Nat) (a data mask : Nat) (poison : Bool := false) : State :=
  s.arrive { owner := owner, via := via, addr := a, data := data, mask := mask, poison := poison }

/-- The mask of `n` bytes from byte `i` of a granule. -/
def byteMask (i n : Nat) : Nat := (2 ^ (2 * n) - 1) <<< (2 * i)

/-- Write bytes at `a`, granule by granule in increasing order; `fuel` is their number. -/
def State.writeFrom (s : State) (via : Via) (owner : Option Nat) (a : Nat) (l : List Byte) : Nat → State
  | 0 => s
  | fuel + 1 =>
    if l.isEmpty then s
    else
      let i := a % 64
      let n := min (64 - i) l.length
      (s.writeGranule via owner (a - i) (leNat (l.take n) <<< (8 * i)) (byteMask i n)).writeFrom via owner (a + n)
        (l.drop n) fuel

/-- Write bytes at `a`. -/
def State.write (s : State) (via : Via) (owner : Option Nat) (a : Nat) (l : List Byte) : State :=
  s.writeFrom via owner a l l.length

/-- Leave a range with undefined bytes: a draw of free values (log entry 7). -/
def State.undefine (s : State) (a len : Nat) : State :=
  let t := s.draw
  t.2.write .quiet none a (tabulate (Config.undefinedByte t.1) len)

/-- Poison the granule that holds an address (R229). -/
def State.poisonAt (s : State) (a : Nat) : State := { s with poison := setInsert (s.phys (a / 64 * 64)) s.poison }

/-- Copy a whole page with its poison (R229, R233, R236), by the physical addresses of both: the entries of the source replace
those of the destination. A fenced part takes no access: its granules arrive as poison, and those sent to it are dropped (R503). The copy reads and
writes 128 KiB of each stack less its fenced parts (R217, R246). -/
def State.copyPage (s : State) (a b : Nat) : State :=
  let inP (x k : Nat) : Bool := decide (x ≤ k) && decide (k < x + pageBytes)
  let kept (k : Nat) : Bool := !inP b k || s.fencedAt k
  let taken (k : Nat) : Bool := inP a k && !s.fencedAt k && !s.fencedAt (k - a + b)
  let new := (s.mem.filter fun e => taken e.1).map fun e => (e.1 - a + b, e.2)
  let lost := if s.fencedPch.isEmpty then []
    else ((List.range (pageBytes / 64)).map fun i => a + 64 * i).filter fun g => s.fencedAt g && !s.fencedAt (g - a + b)
  let pn := (s.poison.filter taken ++ lost).map fun g => g - a + b
  let counted (s : State) (n : Nat) : State :=
    let pg := page 4 (B.MCT + n)
    let k := 0x20000 - 0x800 * (s.fencedPch.filter fun p => p / 64 == n).length
    let found := s.poison.filter fun g => inP a g && stackOf g == n
    ((s.count pg C.MCT_READ_BYTES k).count pg C.MCT_WRITE_BYTES k).count pg C.MCT_POISON_READS found.length
  let t := s.each (List.range 16) counted
  { t with
    mem := new.foldl (fun m e => Table.set (fun _ => 0) m e.1 e.2) (s.mem.filter fun e => kept e.1)
    poison := pn.foldl (fun m g => setInsert g m) (s.poison.filter kept) }

/-- The granule at `a` as the command that writes it next reads it, with its poison: with its own writes that wait. -/
def State.granuleOf (s : State) (owner : Option Nat) (a : Nat) : Bool × Nat :=
  match s.heldWrites.filter fun w => w.owner == owner && w.addr == a / 64 * 64 with
  | [] => (s.bad a, s.load (a / 64 * 64) 64)
  | l =>
    let g := s.granuleWith a (s.readBehind a ++ l)
    if s.fencedAt (s.phys (a / 64 * 64)) || g.1 then (true, 0) else g

/-- The `n` bytes at `a` as a command that wrote before reads them, and whether one of them is poisoned or fenced. -/
def State.loadOf (s : State) (owner : Option Nat) (a n : Nat) : Bool × Nat :=
  if !(s.heldWrites.any fun w => w.owner == owner) then (s.badRange a n, s.load a n)
  else
    let first := a / 64 * 64
    let all := (List.range ((a % 64 + n + 63) / 64)).map fun i => s.granuleOf owner (first + 64 * i)
    (all.any Prod.fst, bits (all.foldr (fun g v => g.2 + 2 ^ 512 * v) 0) (8 * (a % 64)) (8 * n))

end Sys2Proof.Machine
end

