-- ==== Sys2Proof/Machine/Operands.lean ====
section
/-! DEFINITION. The forms of a command: opcodes, operand bits, header fields and the translation of legacy commands
(R254, R258–R260, R276, R277, R365, R418, R451, R579), the errors of R274, R374, R425 and R478, and the words of a
completion record (R272). -/

namespace Sys2Proof.Machine

/-! Opcodes (R258, R364). -/

abbrev Opc.NOP : Nat := 0x00
abbrev Opc.JUMP : Nat := 0x01
abbrev Opc.PROG_END : Nat := 0x02
abbrev Opc.SYNC_REMOTE : Nat := 0x03
abbrev Opc.MARKER : Nat := 0x04
abbrev Opc.ARRAY_OP : Nat := 0x08
abbrev Opc.VECTOR_OP : Nat := 0x09
abbrev Opc.MOVE_COPY : Nat := 0x10
abbrev Opc.MOVE_2D : Nat := 0x11
abbrev Opc.MOVE_FILL : Nat := 0x12
abbrev Opc.LAYER_OPEN : Nat := 0x18
abbrev Opc.LAYER_CLOSE : Nat := 0x19
abbrev Opc.STEP_GATE : Nat := 0x1A
abbrev Opc.GATHER : Nat := 0x20
abbrev Opc.REDUCE_SCATTER : Nat := 0x21
abbrev Opc.ALL_REDUCE : Nat := 0x22
abbrev Opc.PIPE_SEND : Nat := 0x23
abbrev Opc.SEQ_PASS : Nat := 0x24
abbrev Opc.DIE_REDUCE : Nat := 0x25
abbrev Opc.BUCKET_REDUCE : Nat := 0x26
abbrev Opc.FIGURE_CHANGE : Nat := 0x30
abbrev Opc.POSE : Nat := 0x31
abbrev Opc.TAKEOVER : Nat := 0x32

/-! Errors (R274, R374, R425, R478). -/

abbrev Err.CMD_INVALID : Nat := 0x0001
abbrev Err.DESC_INVALID : Nat := 0x0002
abbrev Err.FORMAT_INVALID : Nat := 0x0003
abbrev Err.PASSES_INVALID : Nat := 0x0004
abbrev Err.RND_INVALID : Nat := 0x0005
abbrev Err.SCALE_INVALID : Nat := 0x0006
abbrev Err.PARAM_INVALID : Nat := 0x0007
abbrev Err.REGION_ALIGN : Nat := 0x0008
abbrev Err.ADDR_INVALID : Nat := 0x0009
abbrev Err.SYNC_INVALID : Nat := 0x000A
abbrev Err.CONTEXT_DENIED : Nat := 0x000B
abbrev Err.GRAND_UNAVAILABLE : Nat := 0x0010
abbrev Err.ARRAY_UNUSABLE : Nat := 0x0011
abbrev Err.ARRAY_FAULT : Nat := 0x0012
abbrev Err.DIE_ABSENT : Nat := 0x0013
abbrev Err.UNITS_UNAVAILABLE : Nat := 0x0014
abbrev Err.UNIT_FAULT : Nat := 0x0015
abbrev Err.KERNEL_FAULT : Nat := 0x0016
abbrev Err.MEM_POISON : Nat := 0x0017
abbrev Err.PEER_UNREACHABLE : Nat := 0x0018
abbrev Err.BRACKET_INVALID : Nat := 0x0020
abbrev Err.GATE_CLOSED : Nat := 0x0021
abbrev Err.COLL_MISMATCH : Nat := 0x0100
abbrev Err.EPOCH_MISMATCH : Nat := 0x0101
abbrev Err.COLL_ABORTED : Nat := 0x0102
abbrev Err.LINK_ITEM_FAILED : Nat := 0x0103
abbrev Err.REMOTE_DENIED : Nat := 0x0104
abbrev Err.LAYOUT_INVALID : Nat := 0x0105
abbrev Err.STATS_INVALID : Nat := 0x0106
abbrev Err.BUCKET_INVALID : Nat := 0x0107
abbrev Err.FIG_INVALID : Nat := 0x0108
abbrev Err.FIG_DRAIN_TIMEOUT : Nat := 0x0109
abbrev Err.CUT_TOO_LARGE : Nat := 0x010A
abbrev Err.POSE_MISMATCH : Nat := 0x010B
abbrev Err.POSE_PHASE : Nat := 0x010C
abbrev Err.SNP_CONFIG : Nat := 0x010D
abbrev Err.POSE_BUSY : Nat := 0x010E
abbrev Err.POSE_NONFINITE : Nat := 0x010F
abbrev Err.BANK_HELD : Nat := 0x0110

/-! Statuses (R273). -/

abbrev Status.OK : Nat := 0
abbrev Status.ERROR : Nat := 1
abbrev Status.SKIPPED_GATE : Nat := 2
abbrev Status.SKIPPED_BRACKET : Nat := 3

/-- The mask of bits [hi:lo]. -/
def bitMask (hi lo : Nat) : Nat := (2 ^ (hi + 1 - lo) - 1) <<< lo

/-- Device-address operands have 52 bits. -/
def addrMask : Nat := 2 ^ 52 - 1

/-- The bits of words 2–7 that an opcode defines, none for a reserved opcode (R258, R259, R365, R418, R451, R579). -/
def operandMask : Nat → Option (List Nat)
  | 0x00 => some [0, 0, 0, 0, 0, 0]
  | 0x01 => some [bitMask 31 0, 0, 0, 0, 0, 0]
  | 0x02 => some [0, 0, 0, 0, 0, 0]
  | 0x03 => some [bitMask 32 0, bitMask 31 0, 0, 0, 0, 0]
  | 0x04 => some [bitMask 63 0, 0, 0, 0, 0, 0]
  | 0x08 => some [addrMask, 0, 0, 0, 0, 0]
  | 0x09 => some [addrMask, 0, 0, 0, 0, 0]
  | 0x10 => some [addrMask, addrMask, bitMask 47 0, 0, 0, 0]
  | 0x11 => some [addrMask, addrMask, bitMask 63 0, bitMask 63 0, 0, 0]
  | 0x12 => some [0, addrMask, bitMask 47 0, bitMask 63 0, 0, 0]
  | 0x18 => some [bitMask 63 36 + bitMask 32 0, bitMask 63 32 + bitMask 13 0, addrMask, bitMask 15 0, 0, 0]
  | 0x19 => some [0, 0, 0, 0, 0, 0]
  | 0x1A => some [bitMask 63 48 + bitMask 32 0, 0, 0, 0, 0, 0]
  | 0x20 => some [addrMask, addrMask, bitMask 63 48 + bitMask 41 32 + 1, 0, 0, 0]
  | 0x21 => some [addrMask, addrMask, bitMask 31 0, bitMask 63 48 + bitMask 45 40 + bitMask 32 0, 0, 0]
  | 0x22 => some [addrMask, addrMask, bitMask 31 0, bitMask 63 48 + bitMask 45 40 + bitMask 32 0, 0, 0]
  | 0x23 => some [addrMask, addrMask, bitMask 31 0, bitMask 63 48 + bitMask 32 16, bitMask 31 0, 0]
  | 0x24 => some [addrMask, addrMask, bitMask 31 0, bitMask 63 48 + bitMask 31 16, bitMask 31 0, 0]
  | 0x25 => some [addrMask, addrMask, addrMask, addrMask, addrMask, bitMask 31 0]
  | 0x26 => some [addrMask, 0, 0, 0, 0, 0]
  | 0x30 => some [bitMask 2 0, 0, 0, 0, 0, 0]
  | 0x31 => some [bitMask 63 30 + bitMask 15 0, 0, 0, 0, 0, 0]
  | 0x32 => some [bitMask 63 0, 1, 0, 0, 0, 0]
  | _ => none

/-- Word `i` of a command. -/
def wordAt (w : List Nat) (i : Nat) : Nat := w.getD i 0

/-- A field of a command: word, least significant bit, width. -/
def wf (w : List Nat) (i lsb width : Nat) : Nat := bits (wordAt w i) lsb width

/-! Header fields (R254). -/

def hOpc (w : List Nat) : Nat := wf w 0 0 8
def hWaitEn (w : List Nat) : Bool := wf w 0 9 1 == 1
def hSigEn (w : List Nat) : Bool := wf w 0 10 1 == 1
def hCr (w : List Nat) : Bool := wf w 0 11 1 == 1
def hIrq (w : List Nat) : Bool := wf w 0 12 1 == 1
def hFence (w : List Nat) : Bool := wf w 0 13 1 == 1
def hConsume (w : List Nat) : Bool := wf w 0 14 1 == 1
def hTag (w : List Nat) : Nat := wf w 0 16 16
def hWaitCell (w : List Nat) : Nat := cellNo (wf w 0 46 2) (wf w 0 32 14)
def hThresh (w : List Nat) : Nat := wf w 1 0 32

/-- The signal of a header. -/
def hSignal (w : List Nat) : Signal := ⟨cellNo (wf w 0 62 2) (wf w 0 48 14), wf w 0 15 1 == 1, wf w 1 32 32⟩

/-- Whether a command sets a reserved bit or carries a reserved opcode (R260). -/
def badForm (w : List Nat) : Bool :=
  match operandMask (hOpc w) with
  | none => true
  | some m => wf w 0 8 1 == 1 || (List.range 6).any fun i => wordAt w (2 + i) &&& m.getD i 0 != wordAt w (2 + i)

/-- A LAYER_OPEN that R260 refuses. -/
def badOpen (w : List Nat) : Bool :=
  decide (16384 < wf w 3 0 14 + wf w 2 56 8) || wf w 3 32 32 % 128 != 0 || wf w 4 0 52 % 64 != 0

/-- The v2 words of a v1 command of a queue on die `d`, none where R277 gives CMD_INVALID (R276, R277). A bit that
R276 reserves, or a LEN_4K of a command other than COPY, refuses the command as a reserved bit of R260 does. -/
def legacyWords (d : Nat) (v : List Nat) : Option (List Nat) :=
  let w0 := wordAt v 0
  let w1 := wordAt v 1
  let opc := bits w0 0 8
  let bad := bits w0 46 18 != 0 || bits w0 30 2 != 0 || bits w0 12 4 != 0 || bits (wordAt v 2) 52 12 != 0
    || (opc != 4 && bits w1 48 16 != 0)
  let head (o : Nat) : Nat := d * 2 ^ 62 + bits w0 32 14 * 2 ^ 48 + d * 2 ^ 46 + bits w0 16 14 * 2 ^ 32
    + bits w1 32 16 * 65536 + bits w0 9 1 * 4096 + bits w0 8 1 * 2048 + bits w0 11 1 * 1024 + bits w0 10 1 * 512 + o
  let h1 := bits w1 16 16 * 2 ^ 32 + bits w1 0 16
  let a := bits (wordAt v 2) 0 52
  let mk (o x y z : Nat) : Option (List Nat) := some [head o, h1, x, y, z, 0, 0, 0]
  if bad then none
  else match opc with
    | 1 => mk Opc.NOP 0 0 0
    | 2 => mk Opc.ARRAY_OP a 0 0
    | 3 => mk Opc.VECTOR_OP a 0 0
    | 4 => mk Opc.MOVE_COPY a (bits (wordAt v 3) 0 52) (bits w1 48 16 * 4096)
    | 5 => mk Opc.MARKER (wordAt v 3) 0 0
    | 6 => mk Opc.BUCKET_REDUCE a 0 0
    | _ => none

/-- A refused v1 command keeps its header in the record: TAG, CR, IRQ and opcode 0 (log entry 19). -/
def legacyHeader (v : List Nat) : List Nat :=
  [bits (wordAt v 1) 32 16 * 65536 + bits (wordAt v 0) 9 1 * 4096 + bits (wordAt v 0) 8 1 * 2048, 0, 0, 0, 0, 0, 0, 0]

/-- The words of a completion record (R272): TENSOR of an ARRAY_OP or VECTOR_OP alone. -/
def recordWords (c : Cmd) (status err detail stamp : Nat) : List Nat :=
  [ (if c.legacy then 2 ^ 60 else 0) + (if c.boundExceeded then 2 ^ 59 else 0) + c.die * 2 ^ 56 + c.queue * 2 ^ 50
      + c.context * 2 ^ 48 + hTag c.words * 2 ^ 32 + err * 65536 + status * 256 + hOpc c.words,
    c.step % 2 ^ 32 * 2 ^ 32 + c.number % 2 ^ 32,
    c.nonfinite % 2 ^ 32 * 2 ^ 32 + c.ovf % 2 ^ 32,
    stamp % 2 ^ 48 * 65536 + (c.die * 256 + 3),
    detail % 2 ^ 32 * 2 ^ 32 + c.level * 65536
      + (if hOpc c.words = Opc.ARRAY_OP ∨ hOpc c.words = Opc.VECTOR_OP then c.tensor else 0),
    0, 0, 0 ]

end Sys2Proof.Machine
end

