-- ==== Sys2Proof/Machine/Report.lean ====
section
/-! DEFINITION. What the blocks report: the non-finite flag and the step-clean causes (R196–R198), numeric event
records (R193–R195), performance records (R602–R606), error records and storms (R493–R501, R511), and
GRAND_AVAIL (R110). -/

namespace Sys2Proof.Machine

/-- Key of a job context on a die. -/
def jobKey (d ctx : Nat) : Nat := 2 * d + ctx

/-- A job context on a die. -/
def State.job (s : State) (d ctx : Nat) : Job := Table.get (fun _ => {}) s.jobs (jobKey d ctx)

/-- Change a job context on a die. -/
def State.setJob (s : State) (d ctx : Nat) (j : Job) : State :=
  { s with jobs := Table.set (fun _ => {}) s.jobs (jobKey d ctx) j }

/-- The gate of a context. -/
def State.gate (s : State) (ctx : Nat) : Gate := Table.get (fun _ => {}) s.gates ctx

/-- Change the gate of a context. -/
def State.setGate (s : State) (ctx : Nat) (g : Gate) : State :=
  { s with gates := Table.set (fun _ => {}) s.gates ctx g }

/-- The step number of a context on a die (R209). -/
def State.stepOf (s : State) (d ctx : Nat) : Nat := s.fld (page d B.JCX) (R.JCX_STEP_STEP ctx)

/-- The step number in the floor's records: that of the lowest present die, 0 when none is (R499). -/
def State.floorStep (s : State) : Nat :=
  match s.presentDies.head? with
  | some d => s.stepOf d 0
  | none => 0

/-- Write the words of a record at a device address. -/
def State.writeWords (s : State) (a : Nat) (w : List Nat) : State := s.write .engine none a (wordBytes w)

/-! Numeric event records. -/

/-- Write a numeric event record into the ring of a die, or drop it (R193). -/
def State.numRecord (s : State) (d : Nat) (w : List Nat) : State :=
  let pg := page d B.NUM
  let head := s.fld pg R.NUM_EVT_HEAD_HEAD
  let size := 2 ^ s.fld pg R.NUM_EVT_CTL_SIZE
  if !s.on pg R.NUM_EVT_CTL_EN then s
  else if (head + 2 ^ 32 - s.fld pg R.NUM_EVT_TAIL_TAIL) % 2 ^ 32 = size then s.count pg C.NUM_EVT_LOST 1
  else
    let s := s.writeWords (s.fld pg R.NUM_EVT_BASE_BASE + 64 * (head % size)) w
    ((s.put pg R.NUM_EVT_HEAD_HEAD (head + 1)).intSet pg 0).count pg C.NUM_EVT_RECORDS 1

/-- Word 0 of a numeric event record (R194). -/
def numWord0 (mb layer fto ffrom replays bwd ctx d kind : Nat) : Nat :=
  mb * 2 ^ 48 + layer * 2 ^ 32 + fto * 2 ^ 28 + ffrom * 2 ^ 24 + replays * 2 ^ 16 + bwd * 2 ^ 12 + ctx * 2 ^ 11
    + d * 2 ^ 8 + kind

/-- Words 3 and later of a numeric event record: the stamp, the error and the gate word. -/
def numTail (stamp d err gate : Nat) : List Nat :=
  [stamp % 2 ^ 48 * 65536 + (d * 256 + 3), err * 65536 + gate, 0, 0, 0]

/-- Write a record that names no tensor (R195). -/
def State.numEvent (s : State) (d ctx kind tensor mb layer bwd err gate : Nat) : State :=
  let t := s.stamp
  t.2.numRecord d
    ([numWord0 mb layer 0 0 0 bwd ctx d kind, tensor * 2 ^ 32 + s.stepOf d ctx, 0] ++ numTail t.1 d err gate)

/-! Flag and causes (R196–R198, R204). -/

/-- Bits of the gate word: 0 NONFINITE, 1 GATHER_MISMATCH, 2 BRACKET_FAILED, 3 DIE_ABSENT, 4 FORCED. -/
abbrev causeBit.nonfinite : Nat := 0
abbrev causeBit.gatherMismatch : Nat := 1
abbrev causeBit.bracketFailed : Nat := 2
abbrev causeBit.dieAbsent : Nat := 3
abbrev causeBit.forced : Nat := 4

/-- Whether the die's flag and causes are sampled and wait for their evaluation (R198). -/
def State.sampled (s : State) (d ctx : Nat) : Bool :=
  (s.gate ctx).word.isSome && !(s.gate ctx).done.contains d

/-- Put the flag and the causes into JCX_NUM_STS, with STEP_CLEAN and FORCE_SHUT as they follow (R210). -/
def State.putCauses (s : State) (d ctx bitsOf : Nat) : State :=
  let pg := page d B.JCX
  let s := s.put pg (R.JCX_NUM_STS_NONFINITE ctx) (bits bitsOf 0 1)
  let s := s.put pg (R.JCX_NUM_STS_GATHER_MISMATCH ctx) (bits bitsOf 1 1)
  let s := s.put pg (R.JCX_NUM_STS_BRACKET_FAILED ctx) (bits bitsOf 2 1)
  let s := s.put pg (R.JCX_NUM_STS_DIE_ABSENT ctx) (bits bitsOf 3 1)
  let s := s.put pg (R.JCX_NUM_STS_FORCED ctx) (bits bitsOf 4 1)
  let s := s.put pg (R.JCX_NUM_STS_FORCE_SHUT ctx) (bits bitsOf 4 1)
  s.flag pg (R.JCX_NUM_STS_STEP_CLEAN ctx) (bits bitsOf 1 4 == 0)

/-- The flag and causes of a die as the gate word takes them (R198). -/
def State.causes (s : State) (d ctx : Nat) : Nat :=
  let w := s.word (page d B.JCX + (R.JCX_NUM_STS ctx).off)
  bits w 8 5

/-- Set a cause or the flag: of this step, or apart for the next one once the gate word has formed (R198). -/
def State.setCause (s : State) (d ctx b : Nat) : State :=
  if s.sampled d ctx then
    let j := s.job d ctx
    s.setJob d ctx { j with next := j.next ||| 2 ^ b }
  else s.putCauses d ctx (s.causes d ctx ||| 2 ^ b)

/-- An event that sets the non-finite flag of a die (R196), with the record of R204 for the first one between an open gate
and the next LAYER_OPEN of the context (R195). -/
def State.nonfinite (s : State) (d ctx : Nat) : State :=
  let pg := page d B.JCX
  let now := if s.sampled d ctx then (s.job d ctx).next else s.causes d ctx
  let s1 := if bitOn now 0 then s else s.count (page d B.NUM) C.NUM_NONFINITE_SETS 1
  let s2 := s1.setCause d ctx causeBit.nonfinite
  if (s.job d ctx).afterOpen && !s.on pg (R.JCX_NUM_STS_NF_AFTER_GATE ctx) then
    (s2.put pg (R.JCX_NUM_STS_NF_AFTER_GATE ctx) 1).numEvent d ctx 5 0 0 0 0 0 0
  else s2

/-! Performance records. -/

/-- Write a record into the PMU ring of a die, or drop it (R605). Word 0 receives SEQ. -/
def State.pmuRecord (s : State) (d : Nat) (w : List Nat) : State :=
  let pg := page d B.PMU
  let head := s.fld pg R.PMU_BUF_HEAD_HEAD
  let size := 2 ^ s.fld pg R.PMU_BUF_CTL_SIZE
  let dropped := if d = 4 then C.PMU_F_RECORDS_DROPPED else C.PMU_RECORDS_DROPPED
  let written := if d = 4 then C.PMU_F_RECORDS_WRITTEN else C.PMU_RECORDS_WRITTEN
  if !s.on pg R.PMU_BUF_CTL_EN || (head + 2 ^ 32 - s.fld pg R.PMU_BUF_TAIL_TAIL) % 2 ^ 32 == size then
    s.count pg dropped 1
  else
    let s := s.writeWords (s.fld pg R.PMU_BUF_BASE_BASE + 256 * (head % size)) (match w with
      | [] => []
      | a :: t => (head * 2 ^ 32 + a % 2 ^ 32) :: t)
    ((s.put pg R.PMU_BUF_HEAD_HEAD (head + 1)).intSet pg 0).count pg written 1

/-- The 24 stamp words of a record, from the stamps collected (R604). -/
def stampWords (l : List (Nat × Nat)) : List Nat :=
  tabulate (fun k => ((l.find? fun e => e.1 == k).map Prod.snd).getD 0) 24

/-- VALID of a record: the stamp words written. -/
def stampValid (l : List (Nat × Nat)) : Nat := l.foldl (fun m e => m ||| 2 ^ e.1) 0

/-- A stamp word: an island and the draw of its counter (R604). -/
def State.stampWord (s : State) (island : Nat) : Nat × State := (s.stamp.1 * 65536 + island, s.stamp.2)

/-- Header words of a record of a command (R604). -/
def sampleHead (c : Cmd) (caller kind status err seq valid value : Nat) : List Nat :=
  [ hOpc c.words * 2 ^ 24 + c.queue * 65536 + caller * 4096 + c.context * 2048 + c.die * 256 + kind,
    c.step % 2 ^ 32 * 2 ^ 32 + hTag c.words * 65536 + c.tensor,
    c.number % 2 ^ 32 * 2 ^ 32 + err * 65536 + status * 256,
    seq % 2 ^ 32 * 2 ^ 32 + c.level * 2 ^ 24 + valid,
    value, 0, 0, 0 ]

/-- The sampler of a die. -/
def State.sampler (s : State) (d : Nat) : Sampler := Table.get (fun _ => {}) s.samplers d

/-- Change the sampler of a die. -/
def State.setSampler (s : State) (d : Nat) (x : Sampler) : State :=
  { s with samplers := Table.set (fun _ => {}) s.samplers d x }

/-- The countdown that follows a value of r (R602). -/
def countdownOf (r period : Nat) : Nat := 2 ^ (period - 1) + r % 2 ^ period

/-- The next value of r (R602, step 4). -/
def nextR (r : Nat) : Nat := (r / 2) ^^^ (if r % 2 = 1 then 0x80200003 else 0)

/-- Change the dispatched command of an identifier. -/
def State.mapCmd (s : State) (id : Nat) (f : Cmd → Cmd) : State :=
  { s with cmds := mapIf (fun c => c.id == id) (fun c => { f c with id := c.id }) s.cmds }

/-- Collect a stamp of a tagged operation, in place of an earlier one of its word; those of floor islands are relayed (R599,
R603). -/
def State.stampCmd (s : State) (c : Cmd) (word island : Nat) : State :=
  if (s.sampler c.die).tagged = some c.id then
    let t := s.stampWord island
    (t.2.count (page 4 B.PMU) C.PMU_STAMPS_RELAYED (if island / 256 = 4 then 1 else 0)).mapCmd c.id fun x =>
      { x with stamps := (x.stamps.filter fun e => e.1 != word) ++ [(word, t.1)] }
  else s

/-- The dispatch at which the countdown reached zero is tagged or skipped, as it was found then, and the countdown reloads
(R602, steps 3 and 4). -/
def State.resolveTag (s : State) (d : Nat) : State :=
  let x := s.sampler d
  match x.due with
  | none => s
  | some id =>
    let pg := page d B.PMU
    let r := nextR x.r
    let y := { x with due := none, skip := false, r := r, count := countdownOf r (s.fld pg R.PMU_SAMPLE_CTL_PERIOD) }
    if x.skip then (s.setSampler d y).count pg C.PMU_TAGS_SKIPPED 1
    else
      let s := (s.setSampler d { y with tagged := some id }).count pg C.PMU_TAGS 1
      match s.cmds.find? fun c => c.id == id with
      | some c => s.stampCmd c 0 (d * 256 + 3)
      | none => s

/-- A stamp of an engine of the floor: the tag that the operation's own dispatch may bring is taken first (R602, R603). -/
def State.stampFloor (s : State) (c : Cmd) (word island : Nat) : State :=
  (if (s.sampler c.die).due = some c.id then s.resolveTag c.die else s).stampCmd c word (0x400 + island)

/-- A dispatch of a kind that KINDS selects decrements the countdown (R602, step 2). -/
def State.sampleDispatch (s : State) (d kind id : Nat) : State :=
  let pg := page d B.PMU
  if s.on pg R.PMU_SAMPLE_CTL_EN && bitOn (s.fld pg R.PMU_SAMPLE_CTL_KINDS) kind then
    let s := s.resolveTag d
    let x := s.sampler d
    if x.count ≤ 1 then
      s.setSampler d { x with count := 0, due := some id, skip := x.tagged.isSome || !s.on pg R.PMU_BUF_CTL_EN }
    else s.setSampler d { x with count := x.count - 1 }
  else s

/-- A tagged operation writes its record when it completes (R604). -/
def State.sampleRecord (s : State) (c : Cmd) (caller status err : Nat) : State :=
  let s := if (s.sampler c.die).due = some c.id then s.resolveTag c.die else s
  if (s.sampler c.die).tagged = some c.id then
    let t := s.stampWord (c.die * 256 + 3)
    let own := ((s.cmds.find? fun x => x.id == c.id).map Cmd.stamps).getD c.stamps
    let all := own ++ [(21, t.1)]
    let value := if hOpc c.words = Opc.ARRAY_OP ∨ hOpc c.words = Opc.VECTOR_OP then c.descAddr else 0
    let s := t.2.setSampler c.die { t.2.sampler c.die with tagged := none }
    s.pmuRecord c.die (sampleHead c caller 1 status err (Table.get (fun _ => 0) s.markerSeq c.die) (stampValid all)
      value ++ stampWords all)
  else s

/-! The capability record and HEALTH (R506, R540, R545). -/

/-- Whether the start sequence has ended (R528). -/
def State.started (s : State) : Bool := s.fld (page 4 B.CAP) R.CAP_START_STEP == 15

/-- A field of the capability record of a die follows the package; a change after start sets CAP's interrupt. -/
def State.capPut (s : State) (d : Nat) (f : Fld) (v : Nat) : State :=
  if s.fld (page d B.CAP) f = v then s
  else
    let t := s.put (page d B.CAP) f v
    if s.started then t.intSet (page d B.CAP) 1 else t

/-- How many bits of a number below 2^64 are set. -/
def onesOf (n : Nat) : Nat := ((List.range 64).filter (bitOn n)).length

/-- VU_COUNT and ARRAY_USABLE of a compute die (R545). -/
def State.capDie (s : State) (d : Nat) : State :=
  (s.capPut d R.CAP_DIE_UNITS_VU_COUNT (onesOf (s.fld (page d B.VEC) R.VEC_UNIT_USABLE_USABLE))).capPut d
    R.CAP_DIE_UNITS_ARRAY_USABLE (s.fld (page d B.ARY) R.ARY_MODE_ARRAY_USABLE)

/-- Whether a compute die has lost the floor, and has stopped (R312). -/
def State.floorLost (s : State) (d : Nat) : Bool := s.on (page d B.D2D) R.D2D_LINK_STS_FLOOR_LOST

/-- A block has fewer parts in service than at start (R506). -/
def State.degrade (s : State) (pg : Nat) : State := { s with degraded := setInsert pg s.degraded }

/-- A hardware fence of a block (R502, R505), perhaps one of R509. -/
def State.hwFence (s : State) (pg : Nat) (second : Bool) : State :=
  { s with
    hwFences := setInsert pg s.hwFences
    secondFences := if second then setInsert pg s.secondFences else s.secondFences }

/-! Recovery windows and the end of actions (R502, R508). -/

/-- Key of a recovery window: the domain type, and the die with the index of R500. -/
def winKey (dom die index : Nat) : Nat × Nat := (dom, 65536 * die + index)

def State.winOpen (s : State) (w : Nat × Nat) : State :=
  if s.windows.contains w then s else { s with windows := s.windows ++ [w] }

def State.winClose (s : State) (w : Nat × Nat) : State := { s with windows := s.windows.filter fun x => x != w }

/-- The containment actions of a die. -/
def State.acts (s : State) (d : Nat) : Actions := Table.get (fun _ => {}) s.actions d

/-- Change the containment actions of a die; ERR_STS follows (R515). -/
def State.setActs (s : State) (d : Nat) (a : Actions) : State :=
  let t : State := { s with actions := Table.set (fun _ => {}) s.actions d a }
  (t.flag (page d B.ERR) R.ERR_STS_ACTION_BUSY a.running.isSome).put (page d B.ERR) R.ERR_STS_ACTION_DEPTH a.waiting.length

/-- The running action of a die ends, if it is the one meant. -/
def State.actionEnd (s : State) (d : Nat) (mine : ErrEvent → Bool) : State :=
  match (s.acts d).running with
  | some a => if mine a.event then s.setActs d { s.acts d with running := none } else s
  | none => s

/-! Grand mode (R110). -/

/-- Whether grand mode is available. -/
def State.grandOk (s : State) : Bool :=
  [0, 1, 2, 3].all fun d =>
    s.present d && s.on (page d B.ARY) R.ARY_MODE_GRAND_EN && s.on (page d B.ARY) R.ARY_MODE_ARRAY_USABLE
      && !s.on (page d B.ERR) R.ERR_STS_STORM_PKG

/-- Make GRAND_AVAIL of every compute die follow R110, with ARY's interrupt where it changes (R628). -/
def State.refreshGrand (s : State) : State :=
  s.each [0, 1, 2, 3] fun t d =>
    let pg := page d B.ARY
    if t.on pg R.ARY_MODE_GRAND_AVAIL == s.grandOk then t
    else (t.flag pg R.ARY_MODE_GRAND_AVAIL s.grandOk).intSet pg 2

/-! Error records. -/

/-- CODE of R501; the FATAL error has none. -/
def errCode : ErrKind → Nat
  | .eccCorrected => 0x0001 | .linkRetried => 0x0002 | .memUe => 0x0010 | .sramUe => 0x0011
  | .pageRetired => 0x0012 | .retireDenied => 0x0013 | .pchFenced => 0x0014 | .stackFenced => 0x0015
  | .banksLost => 0x0016 | .vuFault => 0x0020 | .arrayRowFault => 0x0021 | .arrayColFault => 0x0022
  | .arrayUnusable => 0x0023 | .bundleChanged => 0x0030 | .dieAbsent => 0x0031 | .dieFailed => 0x0032
  | .diagChanged => 0x0033 | .laneChanged => 0x0040 | .portFenced => 0x0041 | .portLoss => 0x0041
  | .stackRetrain => 0x0015 | .promenadeFailed => 0x0050 | .doubleFault => 0x0051 | .fatal => 0

/-- CLASS of R493, R501. -/
def errCls : ErrKind → Nat
  | .eccCorrected | .linkRetried => 0
  | .pageRetired | .retireDenied | .bundleChanged | .diagChanged | .laneChanged => 1
  | .fatal => 3
  | _ => 2

/-- The instance of a block (R18). -/
def blockInst (block : Nat) : Nat :=
  if 0x30 ≤ block then block - 0x30 else if 0x20 ≤ block then block - 0x20 else if 0x18 ≤ block then block - 0x18 else 0

/-- DOMAIN of R500; a LINK_RETRIED of an optical port has domain 9. -/
def errDomain (k : ErrKind) (block : Nat) : Nat :=
  match k with
  | .eccCorrected | .memUe | .sramUe => 0
  | .linkRetried => if 0x30 ≤ block then 9 else 8
  | .vuFault => 1
  | .arrayRowFault => 2
  | .arrayColFault => 3
  | .arrayUnusable => 4
  | .dieAbsent | .dieFailed => 5
  | .pageRetired | .retireDenied | .pchFenced => 6
  | .stackFenced | .stackRetrain => 7
  | .bundleChanged => 8
  | .laneChanged | .portFenced | .portLoss => 9
  | .diagChanged => 10
  | .banksLost | .promenadeFailed | .doubleFault => 11
  | .fatal => 12

/-- INDEX of a record (R500): none for a granule and the floor, the die for an array. -/
def errIndex (e : ErrEvent) : Nat :=
  match errDomain e.kind e.block with
  | 0 | 12 => 0
  | 4 => e.die.val
  | _ => e.index % 65536

/-- ADDRESS of a record (R499–R501): the granule of domain 0, SHARD_RANK of DOUBLE_FAULT; no other code uses it. -/
def errAddress (e : ErrEvent) : Nat :=
  if errDomain e.kind e.block = 0 then e.address / 64 * 64 else if e.kind = .doubleFault then e.address else 0

/-- DETAIL of a record, of the codes that use it (R501). -/
def errDetail (e : ErrEvent) : Nat :=
  match e.kind with
  | .bundleChanged | .dieAbsent | .laneChanged | .promenadeFailed | .doubleFault => e.detail % 2 ^ 32
  | _ => 0

/-- The H column of R501. -/
def errField : ErrKind → Bool
  | .memUe | .sramUe | .pageRetired | .pchFenced | .stackFenced | .vuFault | .arrayRowFault | .arrayColFault
  | .arrayUnusable | .bundleChanged | .diagChanged | .laneChanged | .portFenced => true
  | _ => false

/-- Begin a storm on a die, unless its STORM is set (R511). -/
def State.beginStorm (s : State) (d : Nat) : State :=
  let pg := page d B.ERR
  if s.on pg R.ERR_STS_STORM then s
  else
    let s := ((s.put pg R.ERR_STS_STORM 1).count pg C.ERR_STORMS 1).intSet pg 1
    (s.each [0, 1, 2, 3, 4] fun s e => s.put (page e B.ERR) R.ERR_STS_STORM_PKG 1).refreshGrand

/-- End the storm of the package when no die's STORM is set (R511). -/
def State.endStorm (s : State) : State :=
  if [0, 1, 2, 3, 4].any fun d => s.on (page d B.ERR) R.ERR_STS_STORM then s
  else (s.each [0, 1, 2, 3, 4] fun s e => s.put (page e B.ERR) R.ERR_STS_STORM_PKG 0).refreshGrand

/-- Write the words of a record into the registers from `a` on. -/
def State.putWords (s : State) (a : Nat) (w : List Nat) : State :=
  forUpto (fun i s => s.setWord (a + 8 * i) (wordAt w i)) w.length s

/-- Flags of an error record: FENCED, SECOND, QUEUED (R499). -/
structure ErrFlags where
  fenced : Bool := false
  second : Bool := false
  queued : Bool := false
deriving DecidableEq, Repr

/-- Write an error record, its unused fields zero (R499), into the ring of its die, with a compute die's copy in the floor's shadow ring, or count it
lost (R496, R498, R511). -/
def State.errRecord (s : State) (e : ErrEvent) (f : ErrFlags) : State :=
  let r := e.die.val
  let pg := page r B.ERR
  let head := s.fld pg R.ERR_HEAD_HEAD
  if (head + 2 ^ 32 - s.fld pg R.ERR_TAIL_TAIL) % 2 ^ 32 = 256 then (s.count pg C.ERR_LOST_RECORDS 1).beginStorm r
  else
    let t := s.stamp
    let step := if r = 4 then s.floorStep else s.stepOf r 0
    let w : List Nat :=
      [ errCode e.kind * 2 ^ 48 + e.block * 2 ^ 40 + blockInst e.block * 2 ^ 32 + errCls e.kind * 2 ^ 28
          + errDomain e.kind e.block * 2 ^ 24 + r * 2 ^ 21 + (if f.fenced then 2 ^ 20 else 0)
          + (if f.second then 2 ^ 19 else 0) + (if f.queued then 2 ^ 18 else 0) + errIndex e,
        t.1 * 65536 + (if r = 4 then 0x041B else r * 256 + 3),
        errAddress e, errDetail e * 2 ^ 32 + head, step * 2 ^ 32, 0, 0, 0 ]
    let s := t.2.putWords (pg + 0x1000 + 64 * (head % 256)) w
    let s := ((s.put pg R.ERR_HEAD_HEAD (head + 1)).intSet pg 0).count pg C.ERR_RECORDS 1
    if r < 4 ∧ s.present r then s.putWords (page 4 B.ERR + 0x5000 + 0x800 * r + 64 * (head % 32)) w else s

/-- A block detects an error: its class sets in ERR_SUM and counts, and its record is written unless masked
(R493–R496). The FATAL error leaves no record. -/
def State.report (s : State) (e : ErrEvent) (f : ErrFlags) : State :=
  let pg := page e.die.val e.block
  let err := page e.die.val B.ERR
  let c := errCls e.kind
  let masked := (c == 0 && s.on pg R.ERR_MASK_MASK_CORRECTED) || (c == 1 && s.on pg R.ERR_MASK_MASK_DEGRADED) || c == 3
  let s := s.put pg ⟨0x20, 0, 4⟩ (s.fld pg ⟨0x20, 0, 4⟩ ||| 2 ^ c)
  let s := match c with
    | 0 => s.count err C.ERR_DETECTED_CORRECTED 1
    | 1 => s.count err C.ERR_DETECTED_DEGRADED 1
    | 2 => s.count err C.ERR_DETECTED_CONTAINED 1
    | _ => s
  let s := if errField e.kind then { s with fieldEvents := s.fieldEvents + 1 } else s
  if masked then s else s.errRecord e f

end Sys2Proof.Machine
end

