-- ==== Sys2Proof/Machine/Link.lean ====
section
/-! DEFINITION. The layout and its paths (R361, R362, R412), the figure in force (R412–R415), and the sending end of the
optical sub-links: items, frames, credits and the replay buffer (R335, R338, R339, R369). -/

namespace Sys2Proof.Machine

/-! The layout. -/

def clxPage : Nat := page 4 B.CLX
def figPage : Nat := page 4 B.FIG
def snpPage : Nat := page 4 B.SNP

/-- The page of optical port `n`. -/
def opxPage (n : Nat) : Nat := page 4 (B.OPX + n)

def State.dataSize (s : State) : Nat := s.fld clxPage R.CLX_LAYOUT_DATA_SIZE
def State.seqSize (s : State) : Nat := s.fld clxPage R.CLX_LAYOUT_SEQ_SIZE
def State.stages (s : State) : Nat := s.fld clxPage R.CLX_LAYOUT_STAGES
def State.stage (s : State) : Nat := s.fld clxPage R.CLX_POS_STAGE
def State.seqPos (s : State) : Nat := s.fld clxPage R.CLX_POS_SEQ_POS
def State.dataPos (s : State) : Nat := s.fld clxPage R.CLX_POS_DATA_POS
def State.epoch (s : State) : Nat := s.fld clxPage R.CLX_EPOCH_STS_EPOCH

/-- P of R362. -/
def State.ringSize (s : State) : Nat := s.dataSize * s.seqSize

/-- The ring position p of R362. -/
def State.ringPos (s : State) : Nat := s.seqPos * s.dataSize + s.dataPos

/-- The rank of a ring position of a stage (R361). -/
def State.rankAt (s : State) (stage p : Nat) : Nat := stage * s.ringSize + p

/-- The rank of the package (R361). -/
def State.rank (s : State) : Nat := s.rankAt s.stage s.ringPos

/-- The rank of a sequence position of the package's sequence ring. -/
def State.seqRank (s : State) (q : Nat) : Nat := s.rankAt s.stage (q * s.dataSize + s.dataPos)

/-- Groups of R412. -/
abbrev Grp.ringNext : Nat := 0
abbrev Grp.ringPrev : Nat := 1
abbrev Grp.pipeNext : Nat := 2
abbrev Grp.pipePrev : Nat := 3
abbrev Grp.seqNext : Nat := 4
abbrev Grp.seqPrev : Nat := 5
abbrev Grp.partnerNext : Nat := 6
abbrev Grp.partnerPrev : Nat := 7

/-- The peer rank of a group, none where its path does not exist in the layout (R412, R443). -/
def State.groupPeer (s : State) (g : Nat) : Option Nat :=
  let p := s.ringSize
  let q := s.seqSize
  match g with
  | 0 => if 1 < p then some (s.rankAt s.stage ((s.ringPos + 1) % p)) else none
  | 1 => if 1 < p then some (s.rankAt s.stage ((s.ringPos + p - 1) % p)) else none
  | 2 => if s.stage + 1 < s.stages then some (s.rank + p) else none
  | 3 => if 0 < s.stage then some (s.rank - p) else none
  | 4 => if 1 < q then some (s.seqRank ((s.seqPos + 1) % q)) else none
  | 5 => if 1 < q then some (s.seqRank ((s.seqPos + q - 1) % q)) else none
  | 6 => if s.on snpPage R.SNP_PARTNER_NEXT_VALID then some (s.fld snpPage R.SNP_PARTNER_NEXT_RANK) else none
  | _ => if s.on snpPage R.SNP_PARTNER_PREV_VALID then some (s.fld snpPage R.SNP_PARTNER_PREV_RANK) else none

/-- The channels of a group (R412). -/
def groupChannels (g : Nat) : List Nat :=
  if g < 2 then [2, 3, 4] else if g < 4 then [5] else if g < 6 then [6] else [7, 8, 9, 10]

/-! Sub-links. -/

/-- States of a sub-link (R343, R353). -/
abbrev Sl.OFF : Nat := 0
abbrev Sl.TRAINING : Nat := 1
abbrev Sl.UP : Nat := 2
abbrev Sl.DOWN : Nat := 3

/-- SLk_STATE of the port of entry `e`. -/
def slField (e : Nat) : Fld := ⟨0x108, 24 + 4 * (e % 2), 4⟩

/-- The state of a sub-link. -/
def State.slState (s : State) (e : Nat) : Nat := s.fld (opxPage (e / 2)) (slField e)

/-- Whether a sub-link is in service; no engine runs after a FATAL error (R507). -/
def State.slUp (s : State) (e : Nat) : Bool := s.slState e == Sl.UP && !s.fatal

/-- What a sub-link keeps. -/
def State.link (s : State) (e : Nat) : Link := Table.get (fun _ => {}) s.links e

/-- Change what a sub-link keeps. -/
def State.setLink (s : State) (e : Nat) (l : Link) : State := { s with links := Table.set (fun _ => {}) s.links e l }

/-- The rank at the far end of a sub-link, where the peer table is VALID (R411). -/
def State.peerOf (s : State) (e : Nat) : Option Nat :=
  if s.on figPage (R.PEER_TABLE_VALID e) then some (s.fld figPage (R.PEER_TABLE_RANK e)) else none

/-- The slot of the figure in force. -/
def State.figure (s : State) : Nat := s.fld figPage R.FIG_STS_FIGURE

/-- The groups that an entry of a figure slot names. -/
def State.entryGroups (s : State) (f e : Nat) : List Nat :=
  (List.range 8).filter (bitOn (s.fld figPage (R.FIG_ENTRY_GROUPS f e)))

/-- The sub-links in service that serve a group (R411, R434). -/
def State.groupLinks (s : State) (g : Nat) : List Nat :=
  if s.on figPage R.FIG_STS_STALE then []
  else (List.range 32).filter fun e => (s.entryGroups s.figure e).contains g && s.slUp e && (s.peerOf e).isSome

/-- The sub-links in service to a rank, on which channels 0 and 1 run (R413, R417). -/
def State.rankLinks (s : State) (rank : Nat) : List Nat :=
  (List.range 32).filter fun e => s.slUp e && s.peerOf e == some rank

/-! Allocations (R414). -/

/-- The channels present in a list of groups, in increasing number. -/
def presentChannels (groups : List Nat) : List Nat :=
  ((List.range 9).map (· + 2)).filter fun n => groups.any fun g => (groupChannels g).contains n

/-- The weight of a channel in the weights word of a slot (R440). -/
def chWeight (chw n : Nat) : Nat := bits chw (4 * (n - 2)) 4

/-- The allocation of channel `n` of a sub-link with the channels `pres` present (R414). -/
def allocOf (pres : List Nat) (chw n : Nat) : Nat :=
  let w := (pres.map (chWeight chw)).foldl (· + ·) 0
  let share (m : Nat) : Nat := 7872 * chWeight chw m / w
  if n = 0 then 256
  else if n = 1 then 64
  else if pres.contains n then
    share n + (if pres.head? = some n then 7872 - (pres.map share).foldl (· + ·) 0 else 0)
  else 0

/-- The allocation in force of a channel of a sub-link (R359). -/
def State.alloc (s : State) (e n : Nat) : Nat := s.fld (opxPage (e / 2)) (R.CHANNEL_TABLE_ALLOC (32 * (e % 2) + n))

/-- FIG writes the channel table of a sub-link (R338, R359). -/
def State.writeAlloc (s : State) (e : Nat) (f : Nat → Nat) : State :=
  s.each (List.range 32) fun s n => s.put (opxPage (e / 2)) (R.CHANNEL_TABLE_ALLOC (32 * (e % 2) + n)) (f n)

/-- The sender of a sub-link sets its usable credits to the allocation in force (R421). -/
def State.resetCredits (s : State) (e : Nat) : State :=
  let table := (List.range 32).foldl (fun t n => Table.set (fun _ => 0) t n (s.alloc e n)) []
  s.setLink e { s.link e with credits := table }

/-! Sending. -/

/-- The words of an item header (R369). -/
def hdrWords (kind frames : Nat) (h : ItemHdr) : List Nat :=
  [ kind * 2 ^ 60 + h.epoch.toNat * 2 ^ 32 + h.step.toNat,
    h.tensor.toNat * 2 ^ 48 + h.origin.toNat * 2 ^ 35 + h.chunk.toNat * 2 ^ 22 + frames * 2 ^ 15,
    h.wgen.toNat * 2 ^ 32 + h.offset.toNat, h.remote.toNat,
    h.rsigDie.val * 2 ^ 30 + h.rsigIndex.val * 2 ^ 16 + (if h.last then 1 else 0), h.rsigValue.toNat, 0, 0 ]

/-- Payload frames of a list of bytes. -/
def payloadFrames (l : List Byte) : List Nat := (chunks 64 l.length l).map leNat

/-- The channel of a data item's kind (R368). -/
def kindChannel (kind : Nat) : Nat :=
  match kind with
  | 1 => 2
  | 2 | 3 => 3
  | 4 => 4
  | 5 => 5
  | 6 => 6
  | _ => 0

/-- The frames of a data item. -/
def itemFrames (kind : Nat) (i : Item) : List Nat :=
  let p := payloadFrames i.payload
  leNat (wordBytes (hdrWords kind p.length i.hdr)) :: p

/-- A payload that the manual lays out whole, and one that it leaves open. -/
def fullFrame (v : Nat) : FrameBits := ⟨v % 2 ^ 512, 2 ^ 512 - 1⟩
def openFrame : FrameBits := ⟨0, 0⟩

/-- Whether a payload has the bits that are known of it. -/
def FrameBits.fits (b : FrameBits) (v : Nat) : Bool := v &&& b.mask == b.value

/-- A frame of which the bits of some words are known. -/
def wordsFrame (words masks : List Nat) : FrameBits :=
  let m := leNat (wordBytes masks)
  ⟨leNat (wordBytes words) &&& m, m⟩

/-- The header frame of an item of CLX that carries no data (R369): KIND, EPOCH, STEP, TENSOR, ORIGIN, FRAMES and LAST, and what
is reserved for every kind. -/
def ctlHeader (kind frames : Nat) (h : ItemHdr) : FrameBits :=
  wordsFrame (hdrWords kind frames h)
    [2 ^ 64 - 1, bitMask 63 35 + bitMask 21 0, 0, bitMask 63 52, 1, 0, 2 ^ 64 - 1, 2 ^ 64 - 1]

/-- Word 0 of the header of an item of SNP: KIND, and the EPOCH and STEP of its sender (R369, R455). -/
def snpWord (kind epoch step : Nat) : Nat := kind * 2 ^ 60 + epoch % 65536 * 2 ^ 32 + step % 2 ^ 32

/-- The header frame of a PAGE item (R369, R455). -/
def pageHeader (frames : Nat) (i : PageItem) : FrameBits :=
  wordsFrame [snpWord 0xB i.epoch.toNat i.step.toNat, i.origin.toNat * 2 ^ 35 + frames * 2 ^ 15,
      i.poseId.toNat * 2 ^ 32 + i.offset % 2 ^ 32, i.pageNo % 2 ^ 32, 0, 0, 0, 0]
    [2 ^ 64 - 1, bitMask 47 35 + bitMask 21 0, 2 ^ 64 - 1, bitMask 63 52 + bitMask 31 0, 0, 0, 2 ^ 64 - 1, 2 ^ 64 - 1]

/-- The header frame of a PCTL item (R369, R455). -/
def pctlHeader (frames : Nat) (i : PctlItem) : FrameBits :=
  wordsFrame [snpWord 0xC i.epoch.toNat i.step.toNat, i.origin.toNat * 2 ^ 35 + frames * 2 ^ 15, i.cause.toNat * 2 ^ 48, 0, 0, 0, 0, 0]
    [2 ^ 64 - 1, bitMask 47 35 + bitMask 21 0, bitMask 55 48, 0, 0, 0, 2 ^ 64 - 1, 2 ^ 64 - 1]

/-- The channel and the frames of an item; what the manual does not lay out is open (log entry 23). -/
def msgFrames : Msg → Nat × List FrameBits
  | .item k i => (kindChannel k, (itemFrames k i).map fullFrame)
  | .sync i => (0, [ctlHeader 7 1 i.hdr, openFrame])
  | .abort _ h => (0, [ctlHeader 8 1 h, openFrame])
  | .landed _ h _ _ => (0, [ctlHeader 9 1 h, openFrame])
  | .summary i =>
    let n := max 1 i.sums.length
    (1, ctlHeader 10 n i.hdr :: List.replicate n openFrame)
  | .page ch i =>
    let p := payloadFrames i.payload ++ payloadFrames i.digest
    (ch, pageHeader p.length i :: p.map fullFrame)
  | .pctl _ i _ => (7, [pctlHeader 1 i, openFrame])

/-- Frames of a class with END on the last. -/
def markLast (channel : Nat) (owner : Option Nat) (cls : Nat) : List FrameBits → List TxFrame
  | [] => []
  | [x] => [{ channel := channel, last := true, payload := x, owner := owner, cls := cls }]
  | x :: t => { channel := channel, last := false, payload := x, owner := owner, cls := cls } :: markLast channel owner cls t

/-- The header of a DATA frame (R335). -/
def TxFrame.header (f : TxFrame) : Nat := (if f.last then 2 ^ 25 else 0) + f.channel % 32 * 2 ^ 20 + f.seq % 65536 * 2 ^ 4

/-- The class of a frame at the transmit arbiter after promotion (R280). -/
def TxFrame.rank (f : TxFrame) : Nat := if f.promoted then 0 else f.cls

/-- The frames that ask for a grant: the oldest of each channel that has a credit (R278, R338), `seen` the channels met. -/
def txRequests (credits : Table Nat) (seen : List Nat) : List TxFrame → List TxFrame
  | [] => []
  | f :: t =>
    if seen.contains f.channel then txRequests credits seen t
    else if 0 < Table.get (fun _ => 0) credits f.channel then f :: txRequests credits (f.channel :: seen) t
    else txRequests credits (f.channel :: seen) t

/-- The frame that the arbiter grants: of the best class, the oldest (R278). -/
def txPick (l : Link) : Option TxFrame :=
  let r := txRequests l.credits [] l.queue
  [0, 1, 2].findSome? fun k => r.find? fun f => f.rank == k

/-- The oldest frame of each of some channels, where it is LOW, has waited for `n` more grants. -/
def ageFrames (n : Nat) (chs : List Nat) : List TxFrame → List TxFrame
  | [] => []
  | f :: t =>
    if chs.contains f.channel then
      (if f.cls = 2 then { f with waited := f.waited + n } else f) :: ageFrames n (chs.filter fun c => c != f.channel) t
    else f :: ageFrames n chs t

/-- The LOW frames of a link that ask have waited for `n` more grants (R280). -/
def Link.aged (l : Link) (n : Nat) : Link :=
  { l with queue := ageFrames n ((txRequests l.credits [] l.queue).map TxFrame.channel) l.queue }

/-- Send up to `fuel` waiting frames that have a credit and room in the replay buffer (R278, R338, R339): the link, and
the frames sent. -/
def pumpQueue : Nat → Link → Link × List TxFrame
  | 0, l => (l, [])
  | fuel + 1, l =>
    if 8192 ≤ l.replay.length then (l, [])
    else match txPick l with
      | none => (l, [])
      | some f =>
        let seq := (l.txSeq + 1) % 65536
        let g := { f with seq := seq, waited := 0, promoted := false }
        let n := Table.get (fun _ => 0) l.credits f.channel
        let m := ({ l with queue := dropFirst (fun x => x.channel == f.channel) l.queue }).aged 1
        let r := pumpQueue fuel { m with
          txSeq := seq, replay := l.replay ++ [g], credits := Table.set (fun _ => 0) l.credits f.channel (n - 1) }
        (r.1, g :: r.2)

/-- Frames leave on a sub-link. -/
def State.transmit (s : State) (e : Nat) (l : List TxFrame) : State :=
  { s with sentFrames := s.sentFrames ++ l.map fun (f : TxFrame) => (⟨e, f.header, f⟩ : SentFrame) }.count (opxPage (e / 2))
    C.OPX_DATA_FRAMES_TX l.length

/-- A sub-link in service sends what it may; the frames of the port's other sub-link wait for those grants. -/
def State.pump (s : State) (e : Nat) : State :=
  if s.slUp e then
    let l := s.link e
    let r := pumpQueue l.queue.length l
    let other := 2 * (e / 2) + (1 - e % 2)
    let s := (s.setLink e r.1).transmit e r.2
    if r.2.isEmpty || (s.link other).queue.isEmpty then s else s.setLink other ((s.link other).aged r.2.length)
  else s

/-- The class of an item (R279): those of a command its class, the items of CLX that no command makes NORMAL (log
entry 41). -/
def State.msgClass (s : State) (owner : Option Nat) : Msg → Nat
  | .sync _ => Traffic.sync.cls
  | .landed p _ _ _ => if p = .sync then Traffic.sync.cls else 1
  | .page _ _ => Traffic.snapshot.cls
  | .pctl _ _ _ => Traffic.snapshot.cls
  | _ => ((s.cmds.find? fun c => some c.id == owner).map Cmd.cls).getD 1

/-- An item is dealt to a sub-link. -/
def State.sendOn (s : State) (e : Nat) (owner : Option Nat) (m : Msg) : State :=
  let f := msgFrames m
  let s := { s with sentItems := s.sentItems ++ [(⟨e, m⟩ : SentItem)] }
  let l := s.link e
  (s.setLink e { l with queue := l.queue ++ markLast f.1 owner (s.msgClass owner m) f.2 }).pump e

/-- The effective weight of a sub-link (R415). -/
def State.effWeight (s : State) (e : Nat) : Nat := max 1 (Table.get (fun _ => 0) s.fig.weights e)

/-- Where the items of a group dealt to a sub-link are counted. -/
def dealtKey (g e : Nat) : Nat := 32 * g + e

/-- The sub-link of a list that has had the least of the items of a group dealt, in proportion to its weight (R415). -/
def State.nextLink (s : State) (g : Nat) : List Nat → Option Nat
  | [] => none
  | e :: t =>
    match s.nextLink g t with
    | none => some e
    | some f =>
      let n (x : Nat) : Nat := Table.get (fun _ => 0) s.fig.dealt (dealtKey g x) + 1
      if n f * s.effWeight e < n e * s.effWeight f then some f else some e

/-- An item of a group goes out on a sub-link, and is counted there (R415). -/
def State.deal (s : State) (g e : Nat) (owner : Option Nat) (m : Msg) : State :=
  let k := dealtKey g e
  { s with fig := { s.fig with dealt := Table.set (fun _ => 0) s.fig.dealt k (Table.get (fun _ => 0) s.fig.dealt k + 1) } }.sendOn
    e owner m

/-- The group number under which the items of a refill entry go. -/
def refillGroup (n : Nat) : Nat := 8 + n

/-- The sub-links that take the items of a group, or of a refill entry: its named ones in service onto which SNP admits a
page (R420, step 2; R467). -/
def State.sendLinks (s : State) (g : Nat) : List Nat :=
  if g < 8 then s.groupLinks g
  else (List.range 32).filter fun e =>
    bitOn (s.fld snpPage (R.REFILL_W1_SUBLINKS (g - 8))) e && s.slUp e && !s.fig.drains.contains e

/-- Send an item over the sub-links of a group, or let it wait for one in service. -/
def State.sendGroup (s : State) (g : Nat) (owner : Option Nat) (m : Msg) : State :=
  match s.nextLink g (s.sendLinks g) with
  | none => { s with clx := { s.clx with unsent := s.clx.unsent ++ [(⟨(s.groupPeer g).getD 0, some g, owner, m⟩ : Unsent)] } }
  | some e => s.deal g e owner m

/-- The sub-link of an item to a rank: the lowest in service that reaches it; for a SYNC_REMOTE the one that an earlier
SYNC_REMOTE of its caller to that rank, not answered yet, has taken, so that the two apply in order (R266): none while that one
retrains. -/
def State.rankLink (s : State) (rank : Nat) (owner : Option Nat) : Option Nat :=
  let l := s.rankLinks rank
  let caller (c : Cmd) : Nat := s.qf c.die c.queue R.QUEUE_W1_CALLER
  let mates := match s.cmds.find? fun c => c.stage == Stage.syncRemote && some c.id == owner with
    | some c => (s.cmds.filter fun x => x.stage == Stage.syncRemote && x.id != c.id && x.die == c.die && caller x == caller c
        && wf x.words 2 0 16 == rank).filterMap Cmd.link
    | none => []
  match mates with
  | e :: _ => if l.contains e then some e else none
  | [] => l.head?

/-- Send an item of channel 0 or 1 to a rank over a sub-link in service that reaches it, or let it wait for one. -/
def State.sendRank (s : State) (rank : Nat) (owner : Option Nat) (m : Msg) : State :=
  match s.rankLink rank owner with
  | some e =>
    let t : State := { s with cmds := mapIf (fun c => some c.id == owner) (fun c => { c with link := some e }) s.cmds }
    t.sendOn e owner m
  | none => { s with clx := { s.clx with unsent := s.clx.unsent ++ [(⟨rank, none, owner, m⟩ : Unsent)] } }

/-- Send the items whose rank a sub-link now reaches. -/
def State.flushUnsent (s : State) : State :=
  let l := s.clx.unsent
  ({ s with clx := { s.clx with unsent := [] } }).each l fun s u =>
    match u.group with
    | some g => s.sendGroup g u.owner u.msg
    | none => s.sendRank u.rank u.owner u.msg

/-- A header of this package, with every other field zero (R369, R384, R398). LAST marks the one item of a command of the items
that carry no data. -/
def State.baseHdr (s : State) (tensor : Nat) : ItemHdr where
  epoch := BitVec.ofNat 16 s.epoch
  step := BitVec.ofNat 32 s.floorStep
  tensor := BitVec.ofNat 16 tensor
  origin := BitVec.ofNat 13 s.ringPos
  chunk := 0
  wgen := 0
  offset := 0
  remote := 0
  rsigDie := 0
  rsigIndex := 0
  last := false
  rsigValue := 0

/-- CLX counts an item sent (R407). -/
def State.countItem (s : State) : State := s.count clxPage C.CLX_ITEMS_TX 1

/-! Abort (R373). -/

/-- The path of a collective command, and the group of its peer. -/
def pathOf (w : List Nat) : Option (Path × Nat) :=
  match hOpc w with
  | 0x20 => some (.gather, Grp.ringNext)
  | 0x21 => some (.reduce, Grp.ringNext)
  | 0x22 => some (.reduce, Grp.ringNext)
  | 0x23 => if wf w 5 32 1 = 0 then some (.pipeNext, Grp.pipeNext) else some (.pipePrev, Grp.pipePrev)
  | 0x24 => some (.seqRing, Grp.seqNext)
  | 0x26 => some (.bucket, Grp.ringNext)
  | _ => none

/-- The TENSOR operand of a collective command; a BUCKET_REDUCE takes it from its descriptor (R365, R380). -/
def collTensor (w desc : List Nat) : Nat :=
  match hOpc w with
  | 0x20 => wf w 4 48 16
  | 0x25 => 0
  | 0x26 => wf desc 4 48 16
  | _ => wf w 5 48 16

/-- The groups of a command's peers: of the one that it sends to, and on a ring of the one that sends to it (R373). -/
def peerGroups (p : Path) (g : Nat) : List Nat := if p = .pipeNext ∨ p = .pipePrev then [g] else [g, g + 1]

/-- CLX sends ABORT for a collective command that failed or was skipped, to every peer of it (R373); where the failure is
that a peer is out of reach, on the paths that it still has (R417). -/
def State.sendAbort (s : State) (c : Cmd) (reached : Bool) : State :=
  match pathOf c.words with
  | none => s
  | some (p, g) =>
    let peers := (((peerGroups p g).filterMap s.groupPeer).eraseDups).filter fun r => reached || !(s.rankLinks r).isEmpty
    s.each peers fun s rank => (s.sendRank rank none (.abort p { s.baseHdr (collTensor c.words c.desc) with
      step := BitVec.ofNat 32 c.step, last := true })).countItem

/-- Path, step and tensor of a collective command. -/
def pathKey (c : Cmd) : Option (Path × Nat × Nat) :=
  (pathOf c.words).map fun x => (x.1, c.step % 2 ^ 32, collTensor c.words c.desc)

/-- The step and tensor of a collective command of a path are kept when it ends (R373). -/
def State.notePath (s : State) (c : Cmd) (ok : Bool) : State :=
  match pathKey c with
  | none => s
  | some k => { s with clx := { s.clx with ended := (k, ok) :: s.clx.ended.filter fun x => x.1 != k } }

/-- Whether an error or a skip of a command sends ABORT (R366, R373, R388): a misplaced command sends nothing, and
neither does a GATHER whose ring has completed in its bracket. -/
def State.aborts (s : State) (c : Cmd) (status err : Nat) : Bool :=
  let opc := hOpc c.words
  let done := c.attempt.any fun id => (((s.job c.die c.context).bracket).filter fun b => b.id == id).any fun b =>
    b.gathers.contains c.number
  decide (0x20 ≤ opc) && decide (opc ≤ 0x26)
    && ((status == Status.ERROR && err != Err.ADDR_INVALID && err != Err.CONTEXT_DENIED
          && err != Err.COLL_ABORTED)
        || (status == Status.SKIPPED_BRACKET && !done))

end Sys2Proof.Machine
end

