-- ==== Sys2Proof/Machine/Queue.lean ====
section
/-! DEFINITION. The queues and the callers: the head of a queue, its eligibility, its refusals and its dispatch
(R248–R265, R270, R275–R285, R648), and the completion of a command (R256, R264, R270–R275). -/

namespace Sys2Proof.Machine

/-- The caller of a queue. -/
def State.callerOf (s : State) (d q : Nat) : Nat := s.qf d q R.QUEUE_W1_CALLER

/-- The context of a queue. -/
def State.ctxOf (s : State) (d q : Nat) : Nat := s.qf d q R.QUEUE_W1_CONTEXT

/-- The bracket that a queue holds open (R182). -/
def State.bracketOf (s : State) (d q : Nat) : Option Bracket :=
  (s.job d (s.ctxOf d q)).bracket.filter fun b => b.queue == q

/-- Change the open bracket of a context on a die. -/
def State.mapBracket (s : State) (d ctx : Nat) (f : Bracket → Bracket) : State :=
  s.setJob d ctx { s.job d ctx with bracket := (s.job d ctx).bracket.map f }

/-- Number of the command at the head: HEAD, and the commands taken in an open bracket (R185, R250). -/
def State.headNo (s : State) (d q : Nat) : Nat :=
  (s.qf d q R.QUEUE_W2_HEAD + ((s.bracketOf d q).map Bracket.taken).getD 0) % 2 ^ 32

/-- A dispatched command that holds back its queue until its outcome (R169, state 0x06). -/
def Stage.holds : Stage → Bool
  | .close | .gate | .pose | .figure | .syncRemote => true
  | _ => false

/-- Whether a caller is halted (R516). -/
def State.halted (s : State) (d c : Nat) : Bool := bitOn (s.fld (page d B.CAL) R.CAL_RESUME_HALTED) c

/-- Whether dispatch of primary commands is stopped for a pose on a die (R453). -/
def State.poseStop (s : State) (d : Nat) : Bool := s.cmds.any fun c => c.die == d && c.stage == .pose

/-- Whether the absence of a die is known: from step 3 of R309 on, or while it has not rejoined. -/
def State.knownAbsent (s : State) (d : Nat) : Bool := !s.present d && !s.absentDue.contains d

/-- Whether a command is pending in a queue (R250, R252). -/
def State.headWaits (s : State) (d q : Nat) : Bool :=
  s.present d && s.qf d q R.QUEUE_W1_EN == 1
    && (if s.qf d q R.QUEUE_W1_PROGRAM = 1 then s.qf d q R.QUEUE_W1_RUN == 1
        else s.headNo d q != s.qf d q R.QUEUE_W2_TAIL)

/-- Whether the context of a queue dispatches (R284). -/
def State.ctxRuns (s : State) (d q : Nat) : Bool := s.ctxOf d q == 0 || s.on (page d B.JCX) R.JCX_CTX_CTL_CUT_EN

/-- Whether a queue has a command at its head that its caller may look at; none does once a last waltz is DONE (R534). -/
def State.hasHead (s : State) (d q : Nat) : Bool :=
  s.headWaits d q && s.ctxRuns d q && !((s.queueCmds d q).any fun c => c.stage.holds)
    && s.fld (page 4 B.PWR) R.PWR_LW_STS_STATE != 2

/-- Whether the caller of a queue dispatches at all (R275, R453, R511). -/
def State.callerRuns (s : State) (d q : Nat) : Bool :=
  !s.halted d (s.callerOf d q) && !s.on (page d B.ERR) R.ERR_STS_STORM_PKG && !(s.ctxOf d q == 0 && s.poseStop d)

/-- A head as fetched. -/
structure Head where
  poisoned : Bool
  legacy   : Bool
  /-- OPC of a v2 command, OPC_V1 of a legacy one -/
  opc      : Nat
  /-- the v2 words, none where R277 refuses the v1 command -/
  words    : Option (List Nat)
  header   : List Nat
deriving DecidableEq, Repr

/-- Bytes of a command slot (R248, R276). -/
def State.slotBytes (s : State) (d q : Nat) : Nat := if s.qf d q R.QUEUE_W1_LEGACY = 1 then 32 else 64

/-- Address of the slot of the head (R250, R252). -/
def State.slotAddr (s : State) (d q : Nat) : Nat :=
  let slot := if s.qf d q R.QUEUE_W1_PROGRAM = 1 then s.qf d q R.QUEUE_W5_FETCH
    else s.headNo d q % 2 ^ s.qf d q R.QUEUE_W1_SIZE
  s.qf d q R.QUEUE_W0_BASE * 64 + s.slotBytes d q * slot

/-- Words with a poison mark as a head. -/
def mkHead (d : Nat) (legacy poisoned : Bool) (w : List Nat) : Head :=
  if poisoned then ⟨true, legacy, 0, some [0, 0, 0, 0, 0, 0, 0, 0], [0]⟩
  else if legacy then ⟨false, true, bits (wordAt w 0) 0 8, legacyWords d w, legacyHeader w⟩
  else ⟨false, false, hOpc w, some w, w⟩

/-- The head of a queue. A queue in host memory is fetched through its port while the port reaches its host (R581);
`ext` is what that fetch answers, unless the caller holds the head already. -/
def State.headOf (s : State) (d q : Nat) (ext : HostSlot) : Option Head :=
  let legacy := s.qf d q R.QUEUE_W1_LEGACY == 1
  let n := s.slotBytes d q / 8
  if s.qf d q R.QUEUE_W1_SPACE = 0 then
    let a := s.slotAddr d q
    some (mkHead d legacy (s.badRange a (8 * n)) (s.words a n))
  else
    let slot (x : HostSlot) : Head := mkHead d legacy x.poisoned (tabulate (fun i => (x.words.getD i 0).toNat) n)
    match (s.queue (queueNo d q)).fetched with
    | some x => some (slot x)
    | none => if s.hostReach (s.qf d q R.QUEUE_W1_SPACE - 1) then some (slot ext) else none

/-- The head that a caller holds: one in device memory, or one fetched from host memory. -/
def State.headHeld (s : State) (d q : Nat) : Option Head :=
  if s.qf d q R.QUEUE_W1_SPACE = 0 ∨ (s.queue (queueNo d q)).fetched.isSome then s.headOf d q {} else none

/-- The v2 words of a head, or the header of a refused v1 command. -/
def Head.cmdWords (h : Head) : List Nat := h.words.getD h.header

/-! Refusals (R260, R284, R265, R648 orders 1–4). -/

/-- The cells a command names that R265 checks, in the order of its words. -/
def namedCells (w : List Nat) : List Nat :=
  (if hWaitEn w then [wf w 0 32 14] else []) ++ (if hSigEn w then [wf w 0 48 14] else []) ++
  (if hOpc w = Opc.LAYER_OPEN then wf w 2 42 14 :: (List.range (wf w 2 56 8)).map (wf w 3 0 14 + ·) else []) ++
  (if hOpc w = Opc.STEP_GATE then (wf w 2 0 14) :: (if wf w 2 32 1 = 1 then [wf w 2 16 14] else []) else []) ++
  (if hOpc w = Opc.POSE ∧ wf w 2 30 1 = 1 then [wf w 2 0 14] else [])

/-- Opcodes that the cut-in context may not use (R284). -/
def cutDenied (opc : Nat) : Bool :=
  opc == Opc.SYNC_REMOTE || (decide (0x20 ≤ opc) && decide (opc ≤ 0x2F)) || opc == Opc.FIGURE_CHANGE
    || opc == Opc.POSE || opc == Opc.TAKEOVER

/-- R260 for the words of a command in a queue of the given kind; a FIGURE_CHANGE of a reserved phase is refused
with it (log entry 20). -/
def State.invalid (s : State) (d q : Nat) (w : List Nat) : Bool :=
  let opc := hOpc w
  let prog := s.qf d q R.QUEUE_W1_PROGRAM == 1
  badForm w || ((opc == Opc.JUMP || opc == Opc.PROG_END) && !prog)
    || (opc == Opc.JUMP && decide (2 ^ s.qf d q R.QUEUE_W1_SIZE ≤ wf w 2 0 32))
    || (opc == Opc.STEP_GATE && hSigEn w) || (opc == Opc.LAYER_OPEN && badOpen w)
    || (opc == Opc.FIGURE_CHANGE && decide (5 ≤ wf w 2 0 3))

/-- The first of the refusals of orders 1 to 4 of R648 that a head meets: error and detail. -/
def State.refusal (s : State) (d q : Nat) (h : Head) : Option (Nat × Nat) :=
  if h.poisoned then some (Err.MEM_POISON, 0)
  else match h.words with
    | none => some (Err.CMD_INVALID, 0)
    | some w =>
      if s.invalid d q w then some (Err.CMD_INVALID, 0)
      else if s.ctxOf d q = 1 ∧ cutDenied (hOpc w) then some (Err.CONTEXT_DENIED, 0)
      else match (namedCells w).find? fun c => !s.cellOf d (s.ctxOf d q) c with
        | some c => some (Err.SYNC_INVALID, c)
        | none => none

/-- Commands that a bracket admits (R183); an ADAMW is refused by its own meaning. -/
def bracketAdmits (opc : Nat) : Bool :=
  [Opc.NOP, Opc.MARKER, Opc.ARRAY_OP, Opc.VECTOR_OP, Opc.MOVE_COPY, Opc.MOVE_2D, Opc.MOVE_FILL, Opc.GATHER,
    Opc.DIE_REDUCE, Opc.LAYER_CLOSE].contains opc

/-- An outcome fixed before dispatch: status, error, detail. A head after a shut gate is consumed (R202), one after a
failed command of its attempt is skipped up to LAYER_CLOSE (R275); otherwise the refusals above, and a LAYER_CLOSE
outside a bracket (R182). -/
def State.fixedOutcome (s : State) (d q : Nat) (h : Head) : Option (Nat × Nat × Nat) :=
  let k := s.queue (queueNo d q)
  let b := s.bracketOf d q
  let close := !h.poisoned && hOpc h.cmdWords == Opc.LAYER_CLOSE && h.words.isSome
  if 0 < k.skip then some (Status.SKIPPED_GATE, 0, 0)
  else if (b.map Bracket.failing).getD false && !close then some (Status.SKIPPED_BRACKET, 0, 0)
  else match s.refusal d q h with
    | some (e, x) => some (Status.ERROR, e, x)
    | none => if close && b.isNone then some (Status.ERROR, Err.BRACKET_INVALID, 0) else none

/-! Eligibility (R253, R270) and arbitration (R278–R281). -/

/-- Completion slots of a queue in use (R270). -/
def State.slotsUsed (s : State) (d q : Nat) : Nat :=
  (s.qf d q R.QUEUE_W4_CPL_HEAD + 2 ^ 32 - s.qf d q R.QUEUE_W5_CPL_TAIL) % 2 ^ 32 + (s.queueCmds d q).length
    + (s.cplWait.filter fun x => x.queue == queueNo d q).length + s.heldRecords (queueNo d q)

/-- Whether a caller can hold a completion slot for a queue (R270). -/
def State.slotFree (s : State) (d q : Nat) : Bool := decide (s.slotsUsed d q < 2 ^ s.qf d q R.QUEUE_W4_CPL_SIZE)

/-- The class of a queue's commands: LOW in the cut-in context (R279). -/
def State.classOf (s : State) (d q : Nat) : Nat := (Traffic.command (s.ctxOf d q) (s.qf d q R.QUEUE_W1_CLASS)).cls

/-- The class of a queue's head at the caller arbiter, after promotion (R280). -/
def State.headClass (s : State) (d q : Nat) : Nat := if (s.queue (queueNo d q)).promoted then 0 else s.classOf d q

/-- Whether a head's wait is met (R253). -/
def State.waitMet (s : State) (d q : Nat) (h : Head) : Bool :=
  (s.fixedOutcome d q h).isSome || !hWaitEn h.cmdWords
    || (s.queue (queueNo d q)).wait == .satisfied || (s.queue (queueNo d q)).wait == .absent

/-- Whether a head's FENCE condition is met; it is not awaited after a shut gate (R202). -/
def State.fenceMet (s : State) (d q : Nat) (h : Head) : Bool :=
  !hFence h.cmdWords || (s.queueCmds d q).isEmpty || decide (0 < (s.queue (queueNo d q)).skip)

/-- A LAYER_OPEN waits while its context has a bracket open on the die (R182). One in the queue that holds that bracket does not:
R182 lets it wait for the bracket that it would itself keep from closing, and R183 fails the bracket; the model takes R183 (log
entry 22). -/
def State.openMet (s : State) (d q : Nat) (h : Head) : Bool :=
  hOpc h.cmdWords != Opc.LAYER_OPEN || (s.fixedOutcome d q h).isSome || (s.job d (s.ctxOf d q)).bracket.isNone
    || (s.bracketOf d q).isSome

/-- Whether a head is eligible (R253). -/
def State.eligible (s : State) (d q : Nat) (h : Head) : Bool :=
  s.waitMet d q h && s.fenceMet d q h && s.openMet d q h && s.slotFree d q

/-- Whether a queue of a caller has an eligible head (R278). -/
def State.contends (s : State) (d c r : Nat) : Bool :=
  s.hasHead d r && s.callerOf d r == c
    && (match s.headHeld d r with
        | some h => s.eligible d r h
        | none => false)

/-- The other queues of a die whose eligible heads contend with queue `q` at its caller (R278). -/
def State.rivals (s : State) (d q : Nat) : List Nat :=
  (List.range 64).filter fun r => r != q && s.contends d (s.callerOf d q) r

/-- An arbitration of a caller finds heads that have become eligible: they arrived after those found before (R278). -/
def State.noteHeads (s : State) (d c : Nat) : State :=
  let new := (List.range 64).filter fun r => s.contends d c r && (s.queue (queueNo d r)).since == 0
  if new.isEmpty then s
  else
    let t : State := { s with arrivals := s.arrivals + 1 }
    t.each new fun t r => t.setQueue (queueNo d r) { t.queue (queueNo d r) with since := s.arrivals + 1 }

/-- Whether a rival is granted first: one of a higher class, or an older one of the same class; of heads that one arbitration,
this one or an earlier, found together, the one of the lowest queue (R278; log entry 41). -/
def State.outranked (s : State) (d q : Nat) : Bool :=
  let age (r : Nat) : Nat := match (s.queue (queueNo d r)).since with
    | 0 => s.arrivals + 1
    | n + 1 => n + 1
  (s.rivals d q).any fun r =>
    decide (s.headClass d r < s.headClass d q)
      || (s.headClass d r == s.headClass d q && (decide (age r < age q) || (age r == age q && decide (r < q))))

/-- A grant of the caller arbiter lengthens the wait of the other LOW heads (R280). -/
def State.ageRivals (s : State) (d q : Nat) : State :=
  s.each ((s.rivals d q).filter fun r => s.classOf d r == 2) fun s r =>
    s.setQueue (queueNo d r) { s.queue (queueNo d r) with waited := (s.queue (queueNo d r)).waited + 1 }

/-- The queue whose head a caller has chosen, and stalls on for a credit (R162). -/
def State.chosenOf (s : State) (d c : Nat) : Option Nat :=
  match Table.get (fun _ => 0) s.chosen (8 * d + c) with
  | 0 => none
  | q + 1 => if s.hasHead d q && s.callerOf d q == c then some q else none

/-- A caller chooses a head, or none. -/
def State.choose (s : State) (d c : Nat) (q : Option Nat) : State :=
  { s with chosen := Table.set (fun _ => 0) s.chosen (8 * d + c) ((q.map (· + 1)).getD 0) }

/-- The dispatch buffer entries in use at an engine of a die (R162). -/
def State.bufferUsed (s : State) (d opc : Nat) : Nat :=
  (s.cmds.filter fun c => c.die == d && !c.orphan && (if opc = Opc.ARRAY_OP then c.stage == .arrayWait
    else if opc = Opc.VECTOR_OP then c.stage == .vectorWait
    else c.stage == .collHeld || (c.stage == .collRun && !c.begun))).length

/-- Whether the engine of an opcode has a free entry (R162). A move starts when it is dispatched, and frees its entry. -/
def State.credit (s : State) (d opc : Nat) : Bool :=
  if opc = Opc.ARRAY_OP ∨ opc = Opc.VECTOR_OP then decide (s.bufferUsed d opc < 8)
  else if 0x20 ≤ opc ∧ opc ≤ 0x26 then decide (s.bufferUsed d opc < 32)
  else true

/-! Waits. -/

/-- Register the wait of a head, and test it at once (R255, R262, R264). -/
def State.registerWait (s : State) (d q : Nat) (w : List Nat) : State :=
  let k := queueNo d q
  let c := hWaitCell w
  let e := c / 16384
  if s.knownAbsent e then s.setQueue k { s.queue k with wait := .absent }
  else
    let x : Wait := ⟨k, c, hThresh w, hConsume w⟩
    let s := { s with waits := s.waits ++ [x] }
    let s := s.setQueue k { s.queue k with wait := .registered }
    if s.present e then s.testWait x else s

/-! Completion. -/

/-- Halt a caller (R275): HALTED, CAL's interrupt as it enters the state (R628), and the brackets of its queues that have not reached their close
(R187). -/
def State.halt (s : State) (d c : Nat) : State :=
  let pg := page d B.CAL
  let was := s.halted d c
  let s := s.put pg R.CAL_RESUME_HALTED (s.fld pg R.CAL_RESUME_HALTED ||| 2 ^ c)
  let s := (if was then s else s.intSet pg 0).choose d c none
  s.each [0, 1] fun s ctx =>
    s.mapBracket d ctx fun b =>
      if s.callerOf d b.queue == c && !((s.queueCmds d b.queue).any fun x => x.stage == .close)
      then { b with halted := true } else b

/-- Write a completion record, or let it wait for its host port or its page; then raise the queue's vector (R270, R271,
R581). -/
def State.cplRecord (s : State) (d q : Nat) (data : List Byte) (irq : Bool) : State :=
  let k := queueNo d q
  let head := s.qf d q R.QUEUE_W4_CPL_HEAD + s.heldRecords k
  let a := s.qf d q R.QUEUE_W3_CPL_BASE * 64 + 64 * (head % 2 ^ s.qf d q R.QUEUE_W4_CPL_SIZE)
  let space := s.qf d q R.QUEUE_W3_CPL_SPACE
  if space = 0 then s.arrive { owner := none, addr := a, data := leNat data, mask := fullMask, cpl := some (k, irq) }
  else if s.hostReach (space - 1) then
    ((s.tell (.write (space - 1) a data)).count (hifPage (space - 1)) C.HIF_TX_BYTES 64).recorded (k, irq)
  else { s with cplWait := s.cplWait ++ [⟨k, data, irq⟩] }

/-- Whether a cell is bracket-local for a bracket of die `d` (R184). -/
def State.localCell (s : State) (d ctx : Nat) (b : Bracket) (c : Nat) : Bool :=
  let e := c / 16384
  let w := (((s.job e ctx).bracket.filter fun x => x.id == b.id).map Bracket.words).getD b.words
  let base := wf (if e = d then b.words else w) 3 0 14
  let n := wf (if e = d then b.words else w) 2 56 8
  bitOn (wf b.words 2 36 4) e && decide (base ≤ c % 16384) && decide (c % 16384 < base + n)

/-- The signal of a completing command takes effect, is held or is dropped; the answer is the error that replaces
its status (R184, R256, R264). -/
def State.cmdSignal (s : State) (c : Cmd) : State × Option (Nat × Nat) :=
  let g := hSignal c.words
  let src := fromDie c.die
  let e := g.cell / 16384
  let direct (s : State) : State × Option (Nat × Nat) :=
    -- the floor sends nothing to an absent die; its absence tells from step 3 of R309 on
    if s.present e then (s.signal g src, none) else (s, if s.knownAbsent e then some (Err.DIE_ABSENT, e) else none)
  match c.attempt with
  | none => direct s
  | some id =>
    match ((s.job c.die c.context).bracket).filter fun b => b.id == id with
    | none => (s, none)
    | some b =>
      if s.localCell c.die c.context b g.cell then direct s
      else if 256 ≤ b.held.length then (s, some (Err.BRACKET_INVALID, 0))
      else (s.mapBracket c.die c.context fun b => { b with held := b.held ++ [⟨c.number, g⟩] }, none)

/-- An error of a command: it fails its attempt, or halts its caller (R275); a STEP_GATE whose cell lies on an absent die
halts it only after its OPT_COUNT commands (R264). -/
def State.cmdError (s : State) (c : Cmd) (err detail : Nat) : State :=
  match c.attempt with
  | none =>
    if c.stage == .gate && (s.queue (queueNo c.die c.queue)).haltAfter then s else s.halt c.die (s.callerOf c.die c.queue)
  | some id =>
    s.mapBracket c.die c.context fun b =>
      if b.id = id then { b with failing := true, errors := b.errors ++ [(c.number, err, detail)] } else b

/-- A RESUME that is written applies once its halted caller has no dispatched command outstanding and no storm is in
progress (R513, R516). -/
def State.resumeMaybe (s : State) (d : Nat) : State :=
  let pg := page d B.CAL
  s.each (List.range 8) fun s c =>
    let busy := s.cmds.any fun x => x.die == d && s.callerOf d x.queue == c && !x.orphan
    if bitOn (s.fld pg R.CAL_RESUME_RESUME) c && !busy && !s.on (page d B.ERR) R.ERR_STS_STORM_PKG then
      (s.put pg R.CAL_RESUME_RESUME (setBits (s.fld pg R.CAL_RESUME_RESUME) c 1 0)).put pg R.CAL_RESUME_HALTED
        (setBits (s.fld pg R.CAL_RESUME_HALTED) c 1 0)
    else s

/-- A command completes with a status (R256, R270–R275). -/
def State.complete (s : State) (c : Cmd) (status err detail : Nat) : State :=
  let d := c.die
  let q := c.queue
  let r := if status = Status.OK ∧ hSigEn c.words then s.cmdSignal c else (s, none)
  let o : Nat × Nat × Nat := match r.2 with
    | some (e, x) => (Status.ERROR, e, x)
    | none => (status, err, detail)
  let s := r.1
  let cal := page d B.CAL
  let s := match o.1 with
    | 0 => s
    | 1 => (s.count cal C.CAL_CMDS_FAILED 1).cmdError c o.2.1 o.2.2
    | n => let s := s.count cal C.CAL_CMDS_SKIPPED 1
      if n = Status.SKIPPED_GATE then s.count (page d B.NUM) C.NUM_OPT_SKIPPED 1 else s
  let s := if o.1 = Status.ERROR && !c.desc.isEmpty then
      (if hOpc c.words = Opc.ARRAY_OP then s.count (page d B.ARY) C.ARY_OPS_FAILED 1
       else if hOpc c.words = Opc.VECTOR_OP then s.count (page d B.VEC) C.VEC_OPS_FAILED 1 else s)
    else s
  let s := if s.aborts c o.1 o.2.1 then s.sendAbort c (o.2.1 != Err.PEER_UNREACHABLE) else s
  let s := s.notePath c (o.1 == Status.OK)
  let s := s.sampleRecord c (s.callerOf d q) o.1 o.2.1
  let s := { s with cmds := s.cmds.filter fun x => x.id != c.id }
  let fail := o.1 == Status.ERROR
  let s := if hCr c.words || fail then
      let t := s.stamp
      t.2.cplRecord d q (wordBytes (recordWords c o.1 o.2.1 o.2.2 t.1)) (hIrq c.words || fail)
    else if hIrq c.words then s.msix (s.qf d q R.QUEUE_W1_OWNER) (s.qf d q R.QUEUE_W1_VECTOR)
    else s
  (s.refreshOutstanding d q).resumeMaybe d

/-- A command completes with OK. -/
def State.done (s : State) (c : Cmd) : State := s.complete c Status.OK 0 0

/-- A command completes with an error. -/
def State.fail (s : State) (c : Cmd) (err detail : Nat) : State := s.complete c Status.ERROR err detail

/-- The command of an identifier as it stands now. -/
def State.cmdOf (s : State) (id : Nat) : Option Cmd := s.cmds.find? fun c => c.id == id

/-- A command ends without a completion: on an absent die (R309), or a LAYER_CLOSE whose bracket replays (R189). -/
def State.dropCmd (s : State) (c : Cmd) : State :=
  let s := if (s.sampler c.die).due = some c.id then s.resolveTag c.die else s
  let s := { s with cmds := s.cmds.filter fun x => x.id != c.id }
  let x := s.sampler c.die
  ((s.setSampler c.die { x with tagged := x.tagged.filter fun id => id != c.id }).refreshOutstanding c.die c.queue).resumeMaybe c.die

/-! Dispatch. -/

/-- The kind of a command for the sampler: 0 array, 1 vector, 2 move, 3 collective, 4 control (R608). -/
def sampleKind (opc : Nat) : Nat :=
  if opc = Opc.ARRAY_OP then 0 else if opc = Opc.VECTOR_OP then 1
  else if opc = Opc.MOVE_COPY ∨ opc = Opc.MOVE_2D ∨ opc = Opc.MOVE_FILL then 2
  else if 0x20 ≤ opc ∧ opc ≤ 0x26 then 3 else 4

/-- The head leaves its queue: FETCH advances, and HEAD, or the count of a bracket's commands (R185, R252). -/
def State.consume (s : State) (d q : Nat) : State :=
  let s' := if s.qf d q R.QUEUE_W1_PROGRAM = 1 then
      s.qput d q R.QUEUE_W5_FETCH ((s.qf d q R.QUEUE_W5_FETCH + 1) % 2 ^ s.qf d q R.QUEUE_W1_SIZE) else s
  if (s.bracketOf d q).isSome then s'.mapBracket d (s.ctxOf d q) fun b => { b with taken := b.taken + 1 }
  else s'.qput d q R.QUEUE_W2_HEAD (s.qf d q R.QUEUE_W2_HEAD + 1)

/-- The command that a head becomes. -/
def State.mkCmd (s : State) (d q : Nat) (h : Head) : Cmd :=
  let ctx := s.ctxOf d q
  { id := s.nextId, die := d, queue := q, context := ctx, number := s.headNo d q, words := h.cmdWords,
    legacy := h.legacy, step := s.stepOf d ctx, level := ((s.bracketOf d q).map Bracket.level).getD 0,
    attempt := if hOpc h.cmdWords = Opc.LAYER_CLOSE then none else (s.bracketOf d q).map Bracket.id,
    inLayer := (s.job d ctx).bracket.isSome,
    opt := decide (0 < (s.queue (queueNo d q)).opt), cls := s.classOf d q }

/-- A head leaves: what its caller kept of it goes, its wait withdrawn where it is still registered, and the window of OPT_COUNT
commands after a gate loses one; the answer is whether the caller halts with its last
command (R201, R202, R264). -/
def State.closeWindow (s : State) (d q : Nat) : State × Bool :=
  let k := s.queue (queueNo d q)
  let last := k.skip + k.opt == 1
  let s : State := { s with waits := s.waits.filter fun w => w.queue != queueNo d q }
  (s.setQueue (queueNo d q) { k with
      skip := k.skip - 1, opt := k.opt - 1, wait := .idle, waited := 0, promoted := false, fetched := none, since := 0
      haltAfter := k.haltAfter && !last }, k.haltAfter && last)

/-- The checks a command meets after its wait (R648, orders 5 and 6, and R203, R430): the command with what the
checks read, and the error and detail of the first that fails. -/
abbrev Prep : Type := State → Cmd → Cmd × Option (Nat × Nat)

/-- The checks of a command that has none. -/
def noPrep : Prep := fun _ c => (c, none)

/-- The outcome of a head that is not dispatched, with the command as far as it was read. -/
def State.outcome (s : State) (d q : Nat) (h : Head) (prep : Prep) : Cmd × Option (Nat × Nat × Nat) :=
  let c := s.mkCmd d q h
  let w := h.cmdWords
  match s.fixedOutcome d q h with
  | some o => (c, some o)
  | none =>
    if (s.queue (queueNo d q)).wait = .absent then (c, some (Status.ERROR, Err.DIE_ABSENT, hWaitCell w / 16384))
    else if (s.bracketOf d q).isSome && !bracketAdmits (hOpc w) then (c, some (Status.ERROR, Err.BRACKET_INVALID, 0))
    else
      let r := prep s c
      (r.1, r.2.map fun e => (Status.ERROR, e.1, e.2))

/-- A command joins the dispatched ones under the next identifier. -/
def State.enlist (s : State) (c : Cmd) : State :=
  { s with nextId := s.nextId + 1, cmds := s.cmds ++ [{ c with id := s.nextId }] }

/-- A caller takes an eligible head and completes it at once, or dispatches it with `run` (R161, R253, R288). -/
def State.take (s : State) (d q : Nat) (h : Head) (prep : Prep) (run : State → Cmd → State) : State :=
  let o := s.outcome d q h prep
  let c := o.1
  let fixed := o.2
  -- bytes of the slot, the descriptor and the scale-table entries as they were read (R246, R248, R590)
  let space := s.qf d q R.QUEUE_W1_SPACE
  let t := if space = 0 then s.countRead .engine (s.slotAddr d q) (s.slotBytes d q)
    else s.count (hifPage (space - 1)) C.HIF_RX_BYTES (s.slotBytes d q)
  let t := if c.desc.isEmpty then t else t.countRead .engine c.descAddr (8 * c.desc.length)
  let t := t.each c.reads fun t r => t.countRead .num r.1 r.2
  let c0 := s.callerOf d q
  let t := if s.chosenOf d c0 = some q then t else t.ageRivals d q
  let s := (t.choose d c0 none).consume d q
  let r := s.closeWindow d q
  let s := r.1.enlist c
  let s := s.qput d q R.QUEUE_W1_OUTSTANDING 1
  let s := match fixed with
    | some (st, e, x) => s.complete c st e x
    | none =>
      let s := s.count (page d B.CAL) C.CAL_CMDS_DISPATCHED 1
      let s := if h.legacy then s.count (page d B.CAL) C.CAL_LEGACY_CMDS 1 else s
      let s := s.count (page d B.PMU) (C.PMU_CALLER_DISPATCHED (s.callerOf d q)) 1
      run (s.sampleDispatch d (sampleKind (hOpc h.cmdWords)) c.id) c
  if r.2 then s.halt d (s.callerOf d q) else s

/-- The head of a queue that leaves a failed bracket is consumed, up to the LAYER_CLOSE (R513). -/
def State.drainHead (s : State) (d q : Nat) (h : Head) : State :=
  let close := !h.poisoned && h.words.isSome && hOpc h.cmdWords == Opc.LAYER_CLOSE
  let s : State := { s with waits := s.waits.filter fun w => w.queue != queueNo d q }
  (s.consume d q).setQueue (queueNo d q) { s.queue (queueNo d q) with
    drain := !close, wait := .idle, waited := 0, promoted := false, fetched := none, since := 0 }

/-- The row of a command in a queue: when the head of the queue is that command, its wait is registered, and once it
is eligible and granted its caller takes it, or stalls on it for a credit. In every other state the row does not occur (log
entry 21). -/
def State.dispatch (s : State) (d q : Nat) (ext : HostSlot) (legacy : Bool) (isRow : Head → Bool)
    (prep : Prep) (run : State → Cmd → State) : State :=
  if s.hasHead d q && (s.callerRuns d q || (s.queue (queueNo d q)).drain) then
    match s.headOf d q ext with
    | none => s
    | some h =>
      if h.legacy == legacy && isRow h then
        if (s.queue (queueNo d q)).drain then s.drainHead d q h
        else
        let c := s.callerOf d q
        let s := if s.qf d q R.QUEUE_W1_SPACE = 0 ∨ (s.queue (queueNo d q)).fetched.isSome then s
          else s.setQueue (queueNo d q) { s.queue (queueNo d q) with fetched := some ext }
        let s := if (s.fixedOutcome d q h).isNone && hWaitEn h.cmdWords && (s.queue (queueNo d q)).wait == .idle
          then s.registerWait d q h.cmdWords else s
        let granted := match s.chosenOf d c with
          | some r => r == q
          | none => !s.outranked d q
        let s := s.noteHeads d c
        if s.eligible d q h && granted then
          if (s.outcome d q h prep).2.isSome || s.credit d (hOpc h.cmdWords) then s.take d q h prep run
          else if (s.chosenOf d c).isSome then s
          else (s.ageRivals d q).choose d c (some q)
        else s
      else s
  else s

/-- The row of a v2 opcode. -/
def rowOf (opc : Nat) (h : Head) : Bool := !h.poisoned && h.opc == opc

/-- A v2 command of an opcode is taken from a queue. -/
def State.v2 (s : State) (d : Fin 4) (q : Fin 64) (ext : HostSlot) (opc : Nat) (prep : Prep) (run : State → Cmd → State) :
    State :=
  s.dispatch d.val q.val ext false (rowOf opc) prep run

/-- A v1 command of an OPC_V1 is taken from a legacy queue. -/
def State.v1 (s : State) (d : Fin 4) (q : Fin 64) (ext : HostSlot) (opc : Nat) (prep : Prep) (run : State → Cmd → State) :
    State :=
  s.dispatch d.val q.val ext true (rowOf opc) prep run

end Sys2Proof.Machine
end

