-- ==== Sys2Proof/Machine/Command.lean ====
section
/-! DEFINITION. The control commands that a caller executes itself: NOP, JUMP, PROG_END, MARKER, and their legacy
forms (R252, R257, R258, R277, R606). -/

namespace Sys2Proof.Machine

/-- Whether a head is a NOP of its queue's format, or one that no opcode's row takes: a slot that arrived poisoned or
a reserved opcode, which R648 and R260 complete with an error. -/
def nopRow (legacy : Bool) (h : Head) : Bool :=
  h.poisoned || (if legacy then !([2, 3, 4, 5, 6].contains h.opc) else h.opc == Opc.NOP || (operandMask h.opc).isNone)

/-- R258: a NOP does nothing beyond its wait, its signal and its record. -/
def execNop (d : Fin 4) (q : Fin 64) (ext : HostSlot) (s : State) : Host.Outcome State Fault Refusal :=
  .next (s.dispatch d.val q.val ext false (nopRow false) noPrep State.done)

/-- R252: FETCH takes TARGET. -/
def State.jump (s : State) (c : Cmd) : State := (s.qput c.die c.queue R.QUEUE_W5_FETCH (wf c.words 2 0 32)).done c

/-- JUMP in a program queue (R252). -/
def execJump (d : Fin 4) (q : Fin 64) (ext : HostSlot) (s : State) : Host.Outcome State Fault Refusal :=
  .next (s.v2 d q ext Opc.JUMP noPrep State.jump)

/-- R252: PROG_END clears RUN. -/
def State.progEnd (s : State) (c : Cmd) : State := (s.qput c.die c.queue R.QUEUE_W1_RUN 0).done c

/-- PROG_END in a program queue (R252). -/
def execProgEnd (d : Fin 4) (q : Fin 64) (ext : HostSlot) (s : State) : Host.Outcome State Fault Refusal :=
  .next (s.v2 d q ext Opc.PROG_END noPrep State.progEnd)

/-- Stamps of islands `base`, `base` + 1, … into the stamp words from 0 on (R606). -/
def State.stampIslands (s : State) (base : Nat) : Nat → List (Nat × Nat) × State
  | 0 => ([], s)
  | n + 1 =>
    let r := s.stampIslands base n
    let t := r.2.stampWord (base + n)
    (r.1 ++ [(n, t.1)], t.2)

/-- R606: a MARKER writes its die's record while the buffer is enabled, sends its token to the floor PMU, and completes. -/
def State.marker (s : State) (c : Cmd) : State :=
  let d := c.die
  let pg := page d B.PMU
  let seq := (Table.get (fun _ => 0) s.markerSeq d + 1) % 2 ^ 32
  let s := { s with markerSeq := Table.set (fun _ => 0) s.markerSeq d seq }
  let caller := s.callerOf d c.queue
  let value := wordAt c.words 2
  let s :=
    if s.on pg R.PMU_BUF_CTL_EN then
      let t := s.stampIslands (d * 256) 5
      t.2.pmuRecord d (sampleHead c caller 2 0 0 seq (stampValid t.1) value ++ stampWords t.1)
    else s
  let s := { s with tokens := s.tokens ++ [(d, (⟨sampleHead c caller 3 0 0 seq 0 value, seq, value⟩ : Token))] }
  s.done c

/-- MARKER (R606). -/
def execMarker (d : Fin 4) (q : Fin 64) (ext : HostSlot) (s : State) : Host.Outcome State Fault Refusal :=
  .next (s.v2 d q ext Opc.MARKER noPrep State.marker)

/-- A legacy NOP (R276, R277). -/
def execV1Nop (d : Fin 4) (q : Fin 64) (ext : HostSlot) (s : State) : Host.Outcome State Fault Refusal :=
  .next (s.dispatch d.val q.val ext true (nopRow true) noPrep State.done)

/-- A legacy MARKER (R277). -/
def execV1Marker (d : Fin 4) (q : Fin 64) (ext : HostSlot) (s : State) : Host.Outcome State Fault Refusal :=
  .next (s.v1 d q ext 5 noPrep State.marker)

end Sys2Proof.Machine
end

