-- ==== Sys2Proof/Machine/Float.lean ====
section
/-! DEFINITION. The seven number formats, exact values, the roundings, and IEEE 754 arithmetic on codes
(02_number_formats.md R35–R60, 03 R80, 05 R132–R133). -/

namespace Sys2Proof.Machine

/-- The layout of a format (R36): exponent and mantissa widths, bias, and the largest finite code. -/
structure Layout where
  expBits : Nat
  manBits : Nat
  bias    : Nat
  maxCode : Nat
deriving DecidableEq, Repr

/-- R36. -/
def layout : Fmt → Layout
  | .fp64 => ⟨11, 52, 1023, 0x7FEFFFFFFFFFFFFF⟩
  | .fp32 => ⟨8, 23, 127, 0x7F7FFFFF⟩
  | .bf16 => ⟨8, 7, 127, 0x7F7F⟩
  | .e4m3 => ⟨4, 3, 7, 0x7E⟩
  | .e5m2 => ⟨5, 2, 15, 0x7B⟩
  | .e3m2 => ⟨3, 2, 3, 0x1F⟩
  | .e2m1 => ⟨2, 1, 1, 0x7⟩

/-- The element width in bits (R35). -/
def fmtWidth (f : Fmt) : Nat := 1 + (layout f).expBits + (layout f).manBits

/-- The format of a 4-bit code, none for a reserved one (R35). -/
def fmtOfCode : Nat → Option Fmt
  | 0 => some .fp32
  | 1 => some .bf16
  | 2 => some .e4m3
  | 3 => some .e5m2
  | 4 => some .e3m2
  | 5 => some .e2m1
  | 6 => some .fp64
  | _ => none

/-- The code of a format (R35). -/
def fmtCode : Fmt → Nat
  | .fp32 => 0
  | .bf16 => 1
  | .e4m3 => 2
  | .e5m2 => 3
  | .e3m2 => 4
  | .e2m1 => 5
  | .fp64 => 6

/-- Narrow means the four scaled formats (R35). -/
def isNarrow : Fmt → Bool
  | .e4m3 | .e5m2 | .e3m2 | .e2m1 => true
  | _ => false

/-- A decoded code: NaN, an infinity, or the exact value (−1)^neg · m · 2^e, zero keeping its sign. -/
inductive Val where
  | nan
  | inf (neg : Bool)
  | fin (neg : Bool) (m : Nat) (e : Int)
deriving DecidableEq, Repr

/-- Magnitude code of +∞, for the formats that have one (R38). -/
def infCode : Fmt → Option Nat
  | .fp64 => some 0x7FF0000000000000
  | .fp32 => some 0x7F800000
  | .bf16 => some 0x7F80
  | .e5m2 => some 0x7C
  | _ => none

/-- The canonical NaN, for the formats that have one (R38). -/
def nanCode : Fmt → Option Nat
  | .fp64 => some 0x7FF8000000000000
  | .fp32 => some 0x7FC00000
  | .bf16 => some 0x7FC0
  | .e4m3 => some 0x7F
  | .e5m2 => some 0x7E
  | _ => none

/-- The sign bit of a format as a number. -/
def signBit (f : Fmt) : Nat := 2 ^ (fmtWidth f - 1)

/-- A magnitude code with a sign. -/
def withSign (f : Fmt) (neg : Bool) (mag : Nat) : Nat := if neg then signBit f + mag else mag

/-- R37, R38: the value of a code. -/
def decode (f : Fmt) (code : Nat) : Val :=
  let l := layout f
  let c := code % 2 ^ fmtWidth f
  let neg := signBit f ≤ c
  let mag := c % signBit f
  if mag ≤ l.maxCode then
    let e := mag / 2 ^ l.manBits
    let m := mag % 2 ^ l.manBits
    if e = 0 then .fin neg m (1 - (l.bias : Int) - l.manBits)
    else .fin neg (2 ^ l.manBits + m) ((e : Int) - l.bias - l.manBits)
  else if infCode f = some mag then .inf neg
  else .nan

/-- m · 2^e as a fraction. -/
def toFrac (m : Nat) (e : Int) : Nat × Nat :=
  if 0 ≤ e then (m <<< e.toNat, 1) else (m, 1 <<< (-e).toNat)

/-- ⌊log₂ (num / den)⌋ for a positive fraction. -/
def floorLog2 (num den : Nat) : Int :=
  let l : Int := (Nat.log2 num : Int) - Nat.log2 den
  let ok := if 0 ≤ l then den <<< l.toNat ≤ num else den ≤ num <<< (-l).toNat
  if ok then l else l - 1

/-- The threshold T of R55 is at most num / den. -/
def overflows (f : Fmt) (num den : Nat) : Bool :=
  let l := layout f
  match decode f l.maxCode with
  | .fin _ m e =>
    let t := toFrac (2 * m + 1) (e - 1)
    decide (t.1 * den ≤ num * t.2)
  | _ => false

/-- How a value is rounded: to nearest even (R54), or stochastically with a 16-bit draw (R60). -/
inductive Rounding where
  | nearest
  | stochastic (u : Nat)
deriving DecidableEq, Repr

/-- The rounded magnitude code of num / den, `none` on overflow (R54, R55, R60). Codes of adjacent magnitudes
are adjacent numbers, so one step up is one code up. -/
def roundMag (f : Fmt) (r : Rounding) (num den : Nat) : Option Nat :=
  if num = 0 then some 0
  else if overflows f num den then none
  else
    let l := layout f
    let emin : Int := 1 - (l.bias : Int)
    let e := max (floorLog2 num den) emin
    let u := e - l.manBits
    let n := if 0 ≤ u then num else num <<< (-u).toNat
    let d := if 0 ≤ u then den <<< u.toNat else den
    let q := n / d
    let rem := n % d
    let up := match r with
      | .nearest => decide (d < 2 * rem) || (decide (2 * rem = d) && decide (q % 2 = 1))
      | .stochastic w => decide (w * d < rem * 65536)
    let code := ((e - emin).toNat <<< l.manBits) + q + (if up then 1 else 0)
    some (min code l.maxCode)

/-- The code of a NaN result: the canonical NaN (R40), or +0 where the format has none (R57). -/
def nanOf (f : Fmt) : Nat := (nanCode f).getD 0

/-- A rounded result of a wide conversion or operation: ±∞ on overflow (R58). For a format without an infinity
the largest finite code stands in its place (R57). -/
def packRound (f : Fmt) (r : Rounding) (neg : Bool) (num den : Nat) : Nat :=
  match roundMag f r num den with
  | some c => withSign f neg c
  | none => withSign f neg ((infCode f).getD (layout f).maxCode)

/-- The code of an exact value, rounded once. -/
def packVal (f : Fmt) (r : Rounding) : Val → Nat
  | .nan => nanOf f
  | .inf neg => withSign f neg ((infCode f).getD (layout f).maxCode)
  | .fin neg m e => packRound f r neg (toFrac m e).1 (toFrac m e).2

/-- A signed integer times 2^e, as a value; an exact zero takes the sign `zneg`. -/
def valOfInt (n : Int) (e : Int) (zneg : Bool) : Val :=
  if n = 0 then .fin zneg 0 e else .fin (decide (n < 0)) n.natAbs e

/-- The signed mantissa of a finite value at exponent `e0` (at most its own). -/
def alignTo (neg : Bool) (m : Nat) (e e0 : Int) : Int :=
  let k : Nat := m <<< (e - e0).toNat
  if neg then -(k : Int) else (k : Int)

/-- Exact sum of two values under IEEE 754 (R132): exact zero of opposite signs is +0. -/
def vadd : Val → Val → Val
  | .nan, _ => .nan
  | _, .nan => .nan
  | .inf a, .inf b => if a = b then .inf a else .nan
  | .inf a, .fin _ _ _ => .inf a
  | .fin _ _ _, .inf b => .inf b
  | .fin s m e, .fin t n g =>
    let e0 := min e g
    valOfInt (alignTo s m e e0 + alignTo t n g e0) e0 (s && t && decide (m = 0) && decide (n = 0))

/-- The value with its sign turned. -/
def vneg : Val → Val
  | .nan => .nan
  | .inf a => .inf (!a)
  | .fin s m e => .fin (!s) m e

/-- The magnitude of a value. -/
def vabs : Val → Val
  | .nan => .nan
  | .inf _ => .inf false
  | .fin _ m e => .fin false m e

/-- Exact product under IEEE 754 (R80, R132): ∞ · 0 is NaN. -/
def vmul : Val → Val → Val
  | .nan, _ => .nan
  | _, .nan => .nan
  | .inf a, .inf b => .inf (a != b)
  | .inf a, .fin t n _ => if n = 0 then .nan else .inf (a != t)
  | .fin s m _, .inf b => if m = 0 then .nan else .inf (s != b)
  | .fin s m e, .fin t n g => .fin (s != t) (m * n) (e + g)

/-- Whether a value is a zero of either sign. -/
def vzero : Val → Bool
  | .fin _ m _ => m == 0
  | _ => false

/-- Whether a value is finite. -/
def vfinite : Val → Bool
  | .fin _ _ _ => true
  | _ => false

/-- Whether a value is NaN. -/
def vnan : Val → Bool
  | .nan => true
  | _ => false

/-- Exact comparison x < y of two values that are not NaN. -/
def vlt : Val → Val → Bool
  | .inf a, .inf b => a && !b
  | .inf a, .fin _ _ _ => a
  | .fin _ _ _, .inf b => !b
  | .fin s m e, .fin t n g => let e0 := min e g; decide (alignTo s m e e0 < alignTo t n g e0)
  | _, _ => false

/-- Round-to-nearest-even addition of codes (R132). -/
def fadd (f : Fmt) (a b : Nat) : Nat := packVal f .nearest (vadd (decode f a) (decode f b))

/-- The code with its sign bit turned; a NaN stays the canonical NaN (R40). -/
def fneg (f : Fmt) (a : Nat) : Nat := packVal f .nearest (vneg (decode f a))

/-- Subtraction (R132). -/
def fsub (f : Fmt) (a b : Nat) : Nat := packVal f .nearest (vadd (decode f a) (vneg (decode f b)))

/-- Multiplication (R132). -/
def fmul (f : Fmt) (a b : Nat) : Nat := packVal f .nearest (vmul (decode f a) (decode f b))

/-- Fused multiply–add a · b + c, one rounding (R132). -/
def ffma (f : Fmt) (a b c : Nat) : Nat :=
  packVal f .nearest (vadd (vmul (decode f a) (decode f b)) (decode f c))

/-- Division under IEEE 754 (R132). -/
def fdiv (f : Fmt) (a b : Nat) : Nat :=
  match decode f a, decode f b with
  | .nan, _ => nanOf f
  | _, .nan => nanOf f
  | .inf _, .inf _ => nanOf f
  | .inf s, .fin t _ _ => packVal f .nearest (.inf (s != t))
  | .fin s _ _, .inf t => withSign f (s != t) 0
  | .fin s m e, .fin t n g =>
    if n = 0 then (if m = 0 then nanOf f else packVal f .nearest (.inf (s != t)))
    else
      let x := toFrac m e
      let y := toFrac n g
      packRound f .nearest (s != t) (x.1 * y.2) (x.2 * y.1)

/-- ⌊√n⌋ by `k` binary digits from the top: the largest r < 2^k with r² ≤ n. -/
def isqrt (n : Nat) : Nat → Nat
  | 0 => 0
  | k + 1 =>
    let r := isqrt (n / 4) k
    let c := 2 * r + 1
    if c * c ≤ n then c else 2 * r

/-- The nearest-even rounding of √(m · 2^e) is that of (2r + sticky) · 2^g, with r the root to enough bits. -/
def sqrtVal (m : Nat) (e : Int) : Val :=
  let sh : Nat := 256 + (if e % 2 = 0 then 0 else 1)
  let n := m <<< sh
  let r := isqrt n (Nat.log2 n / 2 + 1)
  let sticky := if r * r = n then 0 else 1
  .fin false (2 * r + sticky) ((e - sh) / 2 - 1)

/-- Square root (R132, R134). -/
def fsqrt (f : Fmt) (a : Nat) : Nat :=
  match decode f a with
  | .nan => nanOf f
  | .inf true => nanOf f
  | .inf false => packVal f .nearest (.inf false)
  | .fin s m e =>
    if m = 0 then withSign f s 0
    else if s then nanOf f
    else packVal f .nearest (sqrtVal m e)

/-- MAX of R133: NaN if either is NaN, and +0 above −0. -/
def fmax (f : Fmt) (a b : Nat) : Nat :=
  match decode f a, decode f b with
  | .nan, _ => nanOf f
  | _, .nan => nanOf f
  | .fin s 0 _, .fin t 0 _ => withSign f (s && t) 0
  | x, y => if vlt x y then b % 2 ^ fmtWidth f else a % 2 ^ fmtWidth f

/-- MIN of R133. -/
def fmin (f : Fmt) (a b : Nat) : Nat :=
  match decode f a, decode f b with
  | .nan, _ => nanOf f
  | _, .nan => nanOf f
  | .fin s 0 _, .fin t 0 _ => withSign f (s || t) 0
  | x, y => if vlt y x then b % 2 ^ fmtWidth f else a % 2 ^ fmtWidth f

/-- Conversion of a code between formats with one rounding (R51, R52, R58). -/
def convert (src dst : Fmt) (r : Rounding) (a : Nat) : Nat := packVal dst r (decode src a)

/-- Whether a code is an infinity or a NaN of a wide format, or a NaN code of a narrow one (R144). -/
def nonFiniteStore (f : Fmt) (a : Nat) : Bool :=
  match decode f a with
  | .nan => true
  | .inf _ => !isNarrow f
  | .fin _ _ _ => false

/-- rne32 of the array (R79–R81): as FP32 addition, every zero +0. -/
def arrayZero (f : Fmt) (code : Nat) : Nat := if code % 2 ^ fmtWidth f = signBit f then 0 else code

/-- p := rne32(p + v), with the special values of R80 and every zero +0 (R81). -/
def arrayAdd (f : Fmt) (p : Nat) (v : Val) : Nat := arrayZero f (packVal f .nearest (vadd (decode f p) v))

/-- The split of an FP32 value into BF16 parts hi and lo (R68). -/
def splitHiLo (x : Nat) : Nat × Nat :=
  match decode .fp32 x with
  | .nan => (nanOf .bf16, 0)
  | .inf s => (withSign .bf16 s 0x7F80, 0)
  | .fin s m e =>
    if m = 0 then (withSign .bf16 s 0, 0)
    else
      let hi := match roundMag .bf16 .nearest (toFrac m e).1 (toFrac m e).2 with
        | some c => withSign .bf16 s c
        | none => withSign .bf16 s 0x7F7F
      (hi, packVal .bf16 .nearest (vadd (.fin s m e) (vneg (decode .bf16 hi))))

/-- mix64 of R62. -/
def mix64 (z : Nat) : Nat :=
  let m := 2 ^ 64
  let z := z ^^^ (z >>> 30)
  let z := (z * 0xBF58476D1CE4E5B9) % m
  let z := z ^^^ (z >>> 27)
  let z := (z * 0x94D049BB133111EB) % m
  z ^^^ (z >>> 31)

/-- The draw of R62. -/
def srDraw (salt step tensor tile e : Nat) : Nat :=
  let a := mix64 (((salt <<< 32) + step) % 2 ^ 64)
  let b := mix64 (a ^^^ ((tensor <<< 48) % 2 ^ 64))
  let c := mix64 (b ^^^ ((tile * 1024 + e) % 2 ^ 64))
  c >>> 48

/-- The tile index and the index within the tile of an element (R61). -/
def tileOf (n r c : Nat) : Nat × Nat :=
  ((r / 32) * ceilDiv n 32 + c / 32, (r % 32) * 32 + c % 32)

/-- The candidate x · 2^f / C of R52 as a signed fraction; C is positive. -/
def scaled (m : Nat) (e : Int) (f : Nat) (cm : Nat) (ce : Int) : Nat × Nat :=
  let x := toFrac m (e + f)
  let c := toFrac cm ce
  (x.1 * c.2, x.2 * c.1)

/-- One quantised element (R52, R57): the code, whether it counts as an overflow, and as a non-finite input. -/
def quantElem (dst : Fmt) (r : Rounding) (x : Val) (f : Nat) (c : Val) : Nat × Bool × Bool :=
  match x, c with
  | .nan, _ => (nanOf dst, false, true)
  | .inf s, _ => (withSign dst s (layout dst).maxCode, true, true)
  | .fin s m e, .fin _ cm ce =>
    let y := scaled m e f cm ce
    match roundMag dst r y.1 y.2 with
    | some k => (withSign dst s k, false, false)
    | none => (withSign dst s (layout dst).maxCode, true, false)
  | .fin s _ _, _ => (withSign dst s 0, false, false)

/-- The larger of two finite magnitudes. -/
def magMax (a b : Val) : Val := if vlt (vabs a) (vabs b) then vabs b else vabs a

/-- The largest |x| over the finite elements, +0 if there is none (R56, R59). -/
def amaxOf (xs : List Val) : Val :=
  xs.foldl (fun a x => if vfinite x then magMax a x else a) (.fin false 0 0)

/-- The largest f of 0–15 that passes, searched downward; none if no value passes (R56). -/
def topShift (p : Nat → Bool) : Nat → Option Nat
  | 0 => if p 0 then some 0 else none
  | k + 1 => if p (k + 1) then some (k + 1) else topShift p k

/-- The fine shift of a block (R56). -/
def fineShift (dst : Fmt) (xs : List Val) (c : Val) : Nat :=
  match amaxOf xs, c with
  | .fin _ m e, .fin _ cm ce =>
    if m = 0 then 15
    else (topShift (fun f => let y := scaled m e f cm ce; !overflows dst y.1 y.2) 15).getD 0
  | _, _ => 15

/-- Dequantisation of R53: the FP32 value nearest to decode(q) · C · 2^−f. -/
def dequant (src : Fmt) (q f : Nat) (c : Val) : Nat :=
  packVal .fp32 .nearest (vmul (vmul (decode src q) c) (.fin false 1 (-(f : Int))))

/-- Whether an FP32 code is a positive, normal, finite value (R46). -/
def scaleValid (c : Nat) : Bool := decide (0x00800000 ≤ c) && decide (c ≤ 0x7F7FFFFF)

/-- Whether an FP32 code is finite. -/
def finite32 (c : Nat) : Bool := vfinite (decode .fp32 c)

end Sys2Proof.Machine
end

