-- ==== Sys2Proof/Machine/Func.lean ====
section
/-! DEFINITION. The functions of R134 on FP32 codes, correctly rounded: each is enclosed between two exact fractions at
a working precision of 512 bits, and the value is the code to which both round. Where the two round apart the value is
the free one of log entry 17. -/

namespace Sys2Proof.Machine

/-- The working precision in bits: a number n stands for n / 2^512. -/
abbrev prec : Nat := 512

/-- One at the working precision. -/
abbrev one : Nat := 2 ^ prec

/-- An enclosure: a fraction at most, and one at least, the exact magnitude. -/
structure Range where
  lo : Nat × Nat
  hi : Nat × Nat
deriving DecidableEq, Repr

/-- The FP32 code of a value of the sign `neg` within an enclosure; `fn` and `x` name the case where it is open. -/
def roundRange (fn x : Nat) (neg : Bool) (r : Range) : Nat :=
  let a := packRound .fp32 .nearest neg r.lo.1 r.lo.2
  let b := packRound .fp32 .nearest neg r.hi.1 r.hi.2
  if a = b then a else Config.hardCase fn 0 x

/-- A finite magnitude m · 2^e with e at least −512, at the working precision. -/
def fixed (m : Nat) (e : Int) : Nat := m <<< (e + 512).toNat

/-- The sum of the first 101 terms of the exponential series, each rounded down. -/
def expSeries (t : Nat) : Nat :=
  (forUpto (fun i (p : Nat × Nat) => let n := p.1 * t / ((i + 1) * one); (n, p.2 + n)) 100 (one, one)).2

/-- e^y for y below 256: the series at y / 512, squared nine times. -/
def expRange (y : Nat) : Nat × Nat :=
  let t := y / 512
  forUpto (fun _ (p : Nat × Nat) => (p.1 * p.1 / one, p.2 * p.2 / one + 1)) 9 (expSeries t, expSeries (t + 1) + 208)

/-- artanh z for z at most 1/3, from a z rounded down by less than one unit. -/
def artanhRange (z : Nat) : Nat × Nat :=
  let w := z * z / one
  let s := (forUpto (fun i (p : Nat × Nat) => (p.1 * w / one, p.2 + p.1 / (2 * i + 1))) 180 (z, 0)).2
  (s, s + 1024)

/-- ln 2. -/
def ln2Range : Nat × Nat := let p := artanhRange (one / 3); (2 * p.1, 2 * p.2)

/-- The fraction part of m as a number in 1 to 2: its logarithm. -/
def lnMant (m : Nat) : Nat × Nat :=
  let k := 2 ^ Nat.log2 m
  if m = k then (0, 0)
  else let p := artanhRange ((m - k) * one / (m + k)); (2 * p.1, 2 * p.2)

/-- Σ ±2^512 / ((2i + 1) q^(2i + 1)): arctan (1 / q), within 1,024 units. -/
def arctanInv (q : Nat) : Int :=
  forUpto (fun i (s : Int) =>
    let t : Int := ((one / ((2 * i + 1) * q ^ (2 * i + 1)) : Nat) : Int)
    if i % 2 = 0 then s + t else s - t) 240 0

/-- π. -/
def piRange : Nat × Nat :=
  let p := (16 * arctanInv 5 - 4 * arctanInv 239).toNat
  (p - 20480, p + 20480)

/-- √(n / π): n = 4 for the factor of ERF; 1/√(2π) is its half-root below. -/
def rootOverPi (num den : Nat) : Nat × Nat :=
  let r (p : Nat) : Nat := let n := one * (num * one * one / (den * p)); isqrt n (Nat.log2 n / 2 + 1)
  (r piRange.2, r piRange.1 + 2)

/-- Σ x · c^n / (2n + 1)!!, with both bounds. -/
def oddSeries (x c : Nat) : Nat × Nat :=
  let p := forUpto (fun n (p : (Nat × Nat) × (Nat × Nat)) =>
    let a := p.1.1 * c / ((2 * n + 3) * one)
    let b := p.2.1 * c / ((2 * n + 3) * one) + 1
    ((a, p.1.2 + a), (b, p.2.2 + b))) 700 ((x, x), (x, x))
  (p.1.2, p.2.2 + p.2.1 + 1)

/-- factor · e^(−c / 2) · Σ x · c^n / (2n + 1)!!: ERF and the distribution function about its middle. -/
def gauss (factor : Nat × Nat) (x c : Nat) : Nat × Nat :=
  let s := oddSeries x c
  let e := expRange (c / 2)
  (factor.1 * s.1 / e.2, factor.2 * s.2 / e.1 + 1)

/-- The exact magnitude of an FP32 value as an enclosure of one point. -/
def point (m : Nat) (e : Int) : Range := ⟨toFrac m e, toFrac m e⟩

/-- A magnitude at the working precision, capped at `cap`. -/
def capped (m : Nat) (e : Int) (cap : Nat) : Nat := min (fixed m e) (cap * one)

/-- EXP of ±m · 2^e; beyond 128 the result overflows or rounds to zero as it does at 128. -/
def expOf (neg : Bool) (m : Nat) (e : Int) : Range :=
  let p := expRange (capped m e 128)
  if neg then ⟨(one, p.2), (one, p.1)⟩ else ⟨(p.1, one), (p.2, one)⟩

/-- EXP2 of ±m · 2^e: an integer power is exact; beyond 256 as at 256. -/
def exp2Of (neg : Bool) (m : Nat) (e : Int) : Range :=
  let y := capped m e 256
  let n := if neg then (y + one - 1) / one else y / one
  let f := if neg then n * one - y else y - n * one
  let scale (p : Nat × Nat) : Nat × Nat := if neg then (p.1, p.2 * 2 ^ n) else (p.1 * 2 ^ n, p.2)
  if f = 0 then ⟨scale (1, 1), scale (1, 1)⟩
  else
    let l := ln2Range
    let lo := expRange (f * l.1 / one)
    let hi := expRange (f * l.2 / one + 1)
    ⟨scale (lo.1, one), scale (hi.2, one)⟩

/-- The natural logarithm of a positive m · 2^e, as a sign and an enclosure of its magnitude. -/
def lnOf (m : Nat) (e : Int) : Bool × Nat × Nat :=
  let k : Int := e + Nat.log2 m
  let f := lnMant m
  let l := ln2Range
  let lo : Int := if 0 ≤ k then k * l.1 + f.1 else k * l.2 + f.1
  let hi : Int := if 0 ≤ k then k * l.2 + f.2 else k * l.1 + f.2
  if 0 ≤ lo then (false, lo.toNat, hi.toNat) else (true, (-hi).toNat, (-lo).toNat)

/-- LOG of a positive value. -/
def logOf (x m : Nat) (e : Int) : Nat :=
  let p := lnOf m e
  roundRange 2 x p.1 ⟨(p.2.1, one), (p.2.2, one)⟩

/-- LOG2 of a positive value: exact at a power of two. -/
def log2Of (x m : Nat) (e : Int) : Nat :=
  let k : Int := e + Nat.log2 m
  if m = 2 ^ Nat.log2 m then packVal .fp32 .nearest (valOfInt k 0 false)
  else
    let p := lnOf m e
    let l := ln2Range
    roundRange 3 x p.1 ⟨(p.2.1, l.2), (p.2.2, l.1)⟩

/-- RSQRT of a positive m · 2^e: the root of 2^(2k) / m′ with a sticky bit, m′ · 2^(2h) the value. -/
def rsqrtOf (m : Nat) (e : Int) : Nat :=
  let m' := if e % 2 = 0 then m else 2 * m
  let h : Int := if e % 2 = 0 then e / 2 else (e - 1) / 2
  let n := 2 ^ 640 / m'
  let r := isqrt n (Nat.log2 n / 2 + 1)
  let sticky := if r * r * m' = 2 ^ 640 then 0 else 1
  packVal .fp32 .nearest (.fin false (2 * r + sticky) (-321 - h))

/-- SIGMOID of ±m · 2^e. -/
def sigmoidOf (neg : Bool) (m : Nat) (e : Int) : Range :=
  let p := expRange (capped m e 128)
  if neg then ⟨(one, one + p.2), (one, one + p.1)⟩ else ⟨(p.1, one + p.1), (p.2, one + p.2)⟩

/-- TANH of a magnitude. -/
def tanhOf (m : Nat) (e : Int) : Range :=
  let p := expRange (capped m (e + 1) 128)
  ⟨(p.1 - one, p.1 + one), (p.2 - one, p.2 + one)⟩

/-- ERF of a magnitude. -/
def erfOf (m : Nat) (e : Int) : Range :=
  let x := capped m e 8
  let p := gauss (rootOverPi 4 1) x (2 * (x * x / one))
  ⟨(p.1, one), (min p.2 one, one)⟩

/-- The standard normal distribution function at ±m · 2^e. -/
def phiOf (neg : Bool) (m : Nat) (e : Int) : Nat × Nat :=
  let x := capped m e 16
  let p := gauss (rootOverPi 1 2) x (x * x / one)
  if neg then (one / 2 - p.2, one / 2 - p.1) else (one / 2 + p.1, min one (one / 2 + p.2))

/-- A positive factor times an enclosure. -/
def timesRange (m : Nat) (e : Int) (r : Range) : Range :=
  let f := toFrac m e
  ⟨(f.1 * r.lo.1, f.2 * r.lo.2), (f.1 * r.hi.1, f.2 * r.hi.2)⟩

/-- |x| at least 2^k. -/
def atLeast (m : Nat) (e : Int) (k : Nat) : Bool := decide (2 ^ k * one ≤ fixed m e)

/-- The number of a function in the free values. -/
def fnCode : Fn → Nat
  | .exp => 0 | .exp2 => 1 | .log => 2 | .log2 => 3 | .recip => 4 | .rsqrt => 5 | .sqrt => 6 | .tanh => 7
  | .sigmoid => 8 | .erf => 9 | .gelu => 10 | .silu => 11 | .div => 12

/-- A function of R134 on a finite, non-zero FP32 value. -/
def fnFinite (fn : Fn) (x : Nat) (neg : Bool) (m : Nat) (e : Int) : Nat :=
  let k := fnCode fn
  match fn with
  | .exp => roundRange k x false (expOf neg m e)
  | .exp2 => roundRange k x false (exp2Of neg m e)
  | .log => if neg then nanOf .fp32 else logOf x m e
  | .log2 => if neg then nanOf .fp32 else log2Of x m e
  | .recip => fdiv .fp32 0x3F800000 x
  | .rsqrt => if neg then nanOf .fp32 else rsqrtOf m e
  | .sqrt => fsqrt .fp32 x
  | .tanh => roundRange k x neg (tanhOf m e)
  | .sigmoid => roundRange k x false (sigmoidOf neg m e)
  | .erf => roundRange k x neg (erfOf m e)
  | .gelu =>
    if atLeast m e 4 then (if neg then 0x80000000 else x)
    else
      let p := phiOf neg m e
      roundRange k x neg (timesRange m e ⟨(p.1, one), (p.2, one)⟩)
  | .silu =>
    if atLeast m e 7 then (if neg then 0x80000000 else x)
    else roundRange k x neg (timesRange m e (sigmoidOf neg m e))
  | .div => 0

/-- A function of R134 on an FP32 code, special cases included. -/
def fnEval (fn : Fn) (x : Nat) : Nat :=
  let one32 := 0x3F800000
  let inf := 0x7F800000
  let sgn (neg : Bool) (c : Nat) : Nat := withSign .fp32 neg c
  match decode .fp32 x with
  | .nan => nanOf .fp32
  | .inf neg =>
    match fn with
    | .exp | .exp2 => if neg then 0 else inf
    | .log | .log2 => if neg then nanOf .fp32 else inf
    | .recip => sgn neg 0
    | .rsqrt => if neg then nanOf .fp32 else 0
    | .sqrt => if neg then nanOf .fp32 else inf
    | .tanh | .erf => sgn neg one32
    | .sigmoid => if neg then 0 else one32
    | .gelu | .silu => if neg then 0x80000000 else inf
    | .div => 0
  | .fin neg 0 _ =>
    match fn with
    | .exp | .exp2 => one32
    | .log | .log2 => sgn true inf
    | .recip | .rsqrt => sgn neg inf
    | .sqrt | .tanh | .erf | .gelu | .silu => sgn neg 0
    | .sigmoid => 0x3F000000
    | .div => 0
  | .fin neg m e => fnFinite fn (x % 2 ^ 32) neg m e

end Sys2Proof.Machine
end

