-- ==== Sys2Proof/Machine/Tensor.lean ====
section
/-! DEFINITION. Tensors in memory (R42, R43, R48), descriptors (R100, R145, R179), and the scale tables of NUM
(R171–R178). -/

namespace Sys2Proof.Machine

/-- Bytes of a row of `n` elements of width `w` (R43). -/
def rowBytes (w n : Nat) : Nat := ceilDiv (w * n) 8

/-- Element (r, c) of a tensor of width `w` (R42, R43). -/
def State.elem (s : State) (base pitch w r c : Nat) : Nat :=
  let bit := w * c
  bits (s.load (base + r * pitch + bit / 8) ((bit % 8 + w + 7) / 8)) (bit % 8) w

/-- Bytes from the first row of a region to the end of its last. -/
def regionLen (pitch rows nb : Nat) : Nat := if rows = 0 ∨ nb = 0 then 0 else (rows - 1) * pitch + nb

/-- Whether a row of a region holds a poisoned or fenced granule (R229). -/
def State.badRows (s : State) (base pitch rows nb : Nat) : Bool :=
  (List.range rows).any fun r => s.badRange (base + r * pitch) nb

/-- Count the reads of a region's rows. -/
def State.countRows (s : State) (via : Via) (base pitch rows nb : Nat) : State :=
  s.each (List.range rows) fun s r => s.countRead via (base + r * pitch) nb

/-- The number that a list of bits of width `w` spells (R42). -/
def packElems (w : Nat) : List Nat → Nat
  | [] => 0
  | x :: t => x % 2 ^ w + packElems w t * 2 ^ w

/-- The bytes of a row of elements, unused bits zero. -/
def elemBytes (w : Nat) (l : List Nat) : List Byte := leBytes (rowBytes w l.length) (packElems w l)

/-! Descriptors. -/

/-- Address of a command's descriptor: inside a bracket, DESC + L · LEVEL_STRIDE (R179). -/
def State.descAt (s : State) (c : Cmd) : Nat :=
  let stride := ((s.bracketOf c.die c.queue).map fun b => wf b.words 3 32 32).getD 0
  wf c.words 2 0 52 + (if c.attempt.isSome then c.level * stride else 0)

/-- Read a descriptor and check it (R100, R145, R229, R648 orders 5 and 6). `out` is where OUT_TENSOR stands. -/
def prepDesc (out : List Nat → Nat) (check : State → Cmd → Cmd × Option (Nat × Nat)) : Prep := fun s c =>
  let a := s.descAt c
  let c := { c with descAddr := a }
  if a % 64 ≠ 0 || !inDramOrStaging a 128 || !s.inPartitions c.die c.context a 128 then (c, some (Err.ADDR_INVALID, 0))
  else
    let d := s.words a 16
    let c := { c with desc := d, tensor := out d }
    if s.badRange a 128 then (c, some (Err.MEM_POISON, 0)) else check s c

/-- Whether a descriptor sets a bit outside the masks of its words. -/
def badBits (masks d : List Nat) : Bool := (List.range 16).any fun i => wordAt d i &&& masks.getD i 0 != wordAt d i

/-! Scale tables. -/

/-- Address of the scale-table entry of a tensor, none where the entry is misplaced (R171). -/
def State.entryAddr (s : State) (d ctx t : Nat) : Option Nat :=
  let a := s.fld (page d B.NUM) (R.NUM_TABLE_BASE ctx) + 128 * t
  if s.named d ctx a 128 then some a else none

/-- The eight-byte word at `a` as NUM sees it after its own writes, landed or waiting for their page; of other writes those
that have landed (R236). -/
def State.wordNow (s : State) (a : Nat) : Nat :=
  s.heldWrites.foldl (fun v w =>
    if w.via = .num ∧ w.addr = a / 64 * 64 ∧ bits w.mask (2 * (a % 64)) 16 = 0xFFFF then bits w.data (8 * (a % 64)) 64 else v)
    (s.load a 8)

/-- NUM rewrites a field of an entry: it reads the word and writes it. -/
def State.putEntry (s : State) (a word lsb width v : Nat) : State :=
  (s.countRead .num (a + 8 * word) 8).write .num none (a + 8 * word) (leBytes 8 (setBits (s.wordNow (a + 8 * word)) lsb width v))

/-- A field of an entry (R172). -/
def State.entry (s : State) (a word lsb width : Nat) : Nat := bits (s.wordNow (a + 8 * word)) lsb width

/-- History slot `n` of an entry. -/
def State.hist (s : State) (a n : Nat) : Nat := s.entry a (3 + n / 2) (32 * (n % 2)) 32

/-- The format of a tensor of a BASE_FMT at a replay level (R177). -/
def ladder (base : Fmt) (level : Nat) : Fmt :=
  match base, level with
  | .e2m1, 0 => .e2m1
  | .e2m1, 1 => .e3m2
  | .e2m1, 2 => .e4m3
  | .e2m1, _ => .bf16
  | .e3m2, 0 => .e3m2
  | .e3m2, 1 => .e4m3
  | .e3m2, _ => .bf16
  | .e4m3, 0 => .e4m3
  | .e4m3, _ => .bf16
  | .e5m2, 0 => .e5m2
  | .e5m2, _ => .bf16
  | f, _ => f

/-- The format of a tensor at a level, or the error of reading its entry (R171, R177, R229); `order` is the check that
reads it. -/
def State.fmtAt (s : State) (d ctx t level order : Nat) : Except (Nat × Nat) Fmt :=
  match s.entryAddr d ctx t with
  | none => .error (Err.ADDR_INVALID, 0)
  | some a =>
    if s.bad a then .error (Err.MEM_POISON, 0)
    else match fmtOfCode (s.entry a 1 32 4) with
    | none => .error (Err.FORMAT_INVALID, order)
    | some f => .ok (ladder f level)

/-- The values that the coarse scale of an entry is formed from (R174). -/
def State.window (s : State) (a depth : Nat) : List Nat :=
  let count := min 16 (s.entry a 0 32 5)
  if count = 0 then [s.entry a 0 0 32]
  else tabulate (fun i => s.hist a ((s.entry a 0 40 4 + 16 - i) % 16)) (min depth count)

/-- Smallest E with 2^E ≥ num / den, for a positive fraction. -/
def ceilLog2 (num den : Nat) : Int :=
  let l := floorLog2 num den
  let exact := if 0 ≤ l then den <<< l.toNat == num else den == num <<< (-l).toNat
  if exact then l else l + 1

/-- The coarse scale 2^max(−126, min(127, E)) as an FP32 code (R174). -/
def coarseCode (hmax : Val) (margin : Nat) (f : Fmt) : Nat :=
  match hmax, decode f (layout f).maxCode with
  | .fin _ m e, .fin _ mm me =>
    let x := toFrac m (e + margin)
    let y := toFrac mm me
    let k : Int := if m = 0 then -126 else ceilLog2 (x.1 * y.2) (x.2 * y.1)
    (max (-126) (min 127 k) + 127).toNat * 2 ^ 23
  | _, _ => 0x3F800000

/-- The coarse scale of a tensor at dispatch, or the error (R174, R229): the entry is read whole (log entry 30). -/
def State.coarse (s : State) (d ctx t level order : Nat) : Except (Nat × Nat) Nat :=
  match s.fmtAt d ctx t level order, s.entryAddr d ctx t with
  | .error e, _ => .error e
  | .ok _, none => .error (Err.ADDR_INVALID, 0)
  | .ok f, some a =>
    if !isNarrow f then .ok 0x3F800000
    else
      let num := page d B.NUM
      let h := s.fld num (if ctx = 0 then R.NUM_HIST_DEPTH_DEPTH_PRI else R.NUM_HIST_DEPTH_DEPTH_CUT)
      let margin := s.fld num (if ctx = 0 then R.NUM_HIST_DEPTH_MARGIN_PRI else R.NUM_HIST_DEPTH_MARGIN_CUT)
      let vs := s.window a h
      -- the second granule of an entry holds its history from slot 10 on
      if s.bad (a + 64) then .error (Err.MEM_POISON, 0)
      else if vs.any fun v => !finite32 v || (decide (2 ^ 31 < v)) then .error (Err.SCALE_INVALID, t)
      else .ok (coarseCode (amaxOf (vs.map (decode .fp32))) margin f)

/-- What NUM reads for a tensor at dispatch: its entry. -/
def State.entryReads (s : State) (d ctx t : Nat) : List (Nat × Nat) :=
  match s.entryAddr d ctx t with
  | some a => [(a, 128)]
  | none => []

/-- The salt of a context (R65). -/
def State.saltOf (s : State) (d ctx : Nat) : Nat :=
  s.fld (page d B.NUM) (if ctx = 0 then R.NUM_SR_SALT_SALT_PRI else R.NUM_SR_SALT_SALT_CUT)

/-- The MAX of two FP32 amax codes (R133, R175, R176). -/
def amaxMax (a b : Nat) : Nat := fmax .fp32 a b

/-- An amax report: merged into BRACKET_AMAX inside the open bracket, counted outside one (R175, R212). That of a bracket
that has failed meanwhile is discarded with it (R190). -/
def State.amaxReport (s : State) (d ctx t amax : Nat) (attempt : Option Nat) : State :=
  let num := page d B.NUM
  if attempt.isNone then s.count num C.NUM_AMAX_UNBRACKETED 1
  else if (s.job d ctx).bracket.map Bracket.id ≠ attempt then s
  else match s.entryAddr d ctx t with
    | none => s
    | some a =>
      let s := s.putEntry a 2 32 32 (amaxMax (s.entry a 2 32 32) amax)
      let s := s.mapBracket d ctx fun b => { b with reported := setInsert t b.reported }
      s.count num C.NUM_AMAX_REPORTS 1

/-- Tensors of a scale table whose STEP_AMAX is not +0, among the bytes that memory lists and those that wait for their
page. -/
def State.stepTensors (s : State) (d ctx : Nat) : List Nat :=
  let base := s.fld (page d B.NUM) (R.NUM_TABLE_BASE ctx)
  let inPage (i a : Nat) : Option Nat :=
    let p := s.phys (base + i * pageBytes)
    if p ≤ a ∧ a < p + pageBytes then some (i * 16384 + (a - p) / 128) else none
  let held := s.heldWrites.filterMap fun w =>
    if base ≤ w.addr ∧ w.addr < base + 4 * pageBytes then some ((w.addr - base) / 128) else none
  let listed := (s.mem.filterMap fun e => [0, 1, 2, 3].findSome? fun i => inPage i e.1) ++ held
  (listed.foldl (fun l t => setInsert t l) []).filter fun t =>
    match s.entryAddr d ctx t with
    | some a => s.entry a 2 0 32 != 0
    | none => false

end Sys2Proof.Machine
end

