-- ==== Sys2Proof/Machine/Array.lean ====
section
/-! DEFINITION. The array: the checks of a descriptor (R101–R106), the dot product (R71–R94), claims and starts
(R110–R112), completion (R91, R92, R97, R99, R105, R106), slots (R121–R123) and spares (R118). -/

namespace Sys2Proof.Machine

/-! Descriptor fields (R101). -/

def aryGrand (d : List Nat) : Bool := wf d 0 8 2 == 0
def aryDie (d : List Nat) : Nat := wf d 0 12 2
def aryPasses (d : List Nat) : Nat := wf d 0 28 2
def aryMirror (d : List Nat) : Bool := wf d 0 36 1 == 1
def aryM (d : List Nat) : Nat := wf d 1 32 32
def aryK (d : List Nat) : Nat := wf d 1 0 32
def aryN (d : List Nat) : Nat := wf d 2 0 32
def aryOutTensor (d : List Nat) : Nat := wf d 3 48 16

/-- Rows of a row group: 0 selects 2,048. -/
def aryRowGrp (d : List Nat) : Nat := if wf d 3 32 12 = 0 then 2048 else wf d 3 32 12

/-- The spill interval: 0 selects 16 (R88). -/
def arySpill (d : List Nat) : Nat := if wf d 0 32 4 = 0 then 16 else wf d 0 32 4

/-- The wide-buffer quadrants of an operation (R222). -/
def aryWide (d : List Nat) : List Nat := if aryGrand d then [2, 3] else [aryDie d]

/-- Width of an output element in bytes. -/
def aryElem (d : List Nat) : Nat := if wf d 0 24 4 = 6 then 8 else 4

/-- The MACs per cell per cycle and the span length of an operand pair (R72). -/
def aryPair (a w : Fmt) (passes : Nat) : Option (Nat × Nat) :=
  match a, w, passes with
  | .bf16, .bf16, 1 => some (1, 1280)
  | .fp32, .bf16, 2 => some (1, 1280)
  | .fp32, .fp32, 3 => some (1, 1280)
  | .e2m1, .e2m1, 1 => some (4, 5120)
  | .e2m1, _, _ => none
  | _, .e2m1, _ => none
  | a, w, 1 => if isNarrow a && isNarrow w then some (2, 2560) else none
  | _, _, _ => none

/-- The formats of a checked descriptor. -/
def aryFmts (d : List Nat) : Fmt × Fmt := ((fmtOfCode (wf d 0 16 4)).getD .bf16, (fmtOfCode (wf d 0 20 4)).getD .bf16)

/-- c and G of a checked descriptor. -/
def aryCG (d : List Nat) : Nat × Nat := (aryPair (aryFmts d).1 (aryFmts d).2 (aryPasses d)).getD (1, 1280)

/-- The number of segments m (R88). -/
def arySegments (d : List Nat) : Nat := ceilDiv (ceilDiv (aryK d) (aryCG d).2) (arySpill d)

/-- Bits that the descriptor defines (R101). -/
def aryMasks : List Nat :=
  [bitMask 39 38 + bitMask 36 32 + bitMask 29 16 + bitMask 13 12 + bitMask 9 0, bitMask 63 0, bitMask 63 0,
   bitMask 63 48 + bitMask 43 32, addrMask, addrMask, addrMask, addrMask, bitMask 63 0, bitMask 63 0,
   bitMask 63 32 + bitMask 25 0, 0, 0, 0, 0, 0]

/-- The operand regions (R43, R48, R104): base, pitch, rows, bytes of a row. -/
def aryOperands (d : List Nat) : List (Nat × Nat × Nat × Nat) :=
  let f := aryFmts d
  let nb := ceilDiv (aryK d) 32
  [(wf d 4 0 52, wf d 8 0 32, aryM d, rowBytes (fmtWidth f.1) (aryK d)),
   (wf d 5 0 52, wf d 8 32 32, aryK d, rowBytes (fmtWidth f.2) (aryN d))]
  ++ (if isNarrow f.1 then [(wf d 6 0 52, wf d 9 0 32, aryM d, rowBytes 4 nb)] else [])
  ++ (if isNarrow f.2 then [(wf d 7 0 52, wf d 9 32 32, nb, rowBytes 4 (aryN d))] else [])

/-- The dies whose ACC receives the output (R105, R106). -/
def aryOutDies (d : List Nat) : List Nat :=
  if aryGrand d then (if aryMirror d then [2, 3, 0, 1] else [2, 3]) else [aryDie d]

/-- Output bytes of a row on a die: the columns that R105 places there. -/
def aryOutCols (d : List Nat) (die : Nat) : Nat :=
  if aryGrand d then
    let full := aryN d / 1280
    let rest := aryN d % 1280
    full * 640 + (if die % 2 = 0 then min rest 640 else rest - 640)
  else aryN d

/-- Check 4 of R102: placement of operands and output (R104–R106, R283). The output is taken as M · OUT_PITCH bytes on each
die that may receive elements (log entry 44). -/
def State.aryPlaced (s : State) (die ctx : Nat) (d : List Nat) : Bool :=
  let operand (o : Nat × Nat × Nat × Nat) : Bool :=
    let len := regionLen o.2.1 o.2.2.1 o.2.2.2
    o.1 % 64 == 0 && o.2.1 % 64 == 0
      && (len == 0 || (decide (o.2.2.2 ≤ o.2.1) && inMap o.1 len && windowOf o.1 == some 1 && s.inPartitions die ctx o.1 len))
  let off := wf d 10 0 26
  let pitch := wf d 10 32 32
  let need := if aryGrand d then ceilDiv (aryN d) 1280 * 640 * aryElem d else aryN d * aryElem d
  (aryOperands d).all operand && off % 64 == 0 && pitch % 64 == 0
    && (aryM d == 0 || aryN d == 0
        || (decide (need ≤ pitch) && decide (off + aryM d * pitch ≤ 0x3000000)
            && (aryOutDies d).all fun x => s.inPartitions die ctx (accAddr x off) (aryM d * pitch)))

/-- Checks 5 and 6 of R102, made at dispatch and again at the array. -/
def State.aryUsable (s : State) (die : Nat) (d : List Nat) : Option (Nat × Nat) :=
  if aryGrand d then
    (if s.on (page die B.ARY) R.ARY_MODE_GRAND_AVAIL then none else some (Err.GRAND_UNAVAILABLE, 0))
  else if s.present (aryDie d) && s.on (page (aryDie d) B.ARY) R.ARY_MODE_ARRAY_USABLE then none
  else some (Err.ARRAY_UNUSABLE, aryDie d)

/-- Σ f(rows of g) over the row groups. -/
def overGroups (m grp : Nat) (f : Nat → Nat) : Nat :=
  m / grp * f grp + (if m % grp = 0 then 0 else f (m % grp))

/-- The nominal length of R430. -/
def aryNominal (d : List Nat) : Nat :=
  ceilDiv (aryN d) 640 * aryPasses d * ceilDiv (aryK d) (640 * (aryCG d).1) * overGroups (aryM d) (aryRowGrp d) (max · 640)

/-- The refusals of an ARRAY_OP whose descriptor was read (R284, R102, R430, in the order of R648). -/
def State.aryCheck (s : State) (c : Cmd) : Cmd × Option (Nat × Nat) :=
  let d := c.desc
  let fa := fmtOfCode (wf d 0 16 4)
  let fw := fmtOfCode (wf d 0 20 4)
  let wide (f : Option Fmt) : Bool := (f.map fun x => !isNarrow x).getD false
  let narrow (f : Option Fmt) : Bool := (f.map isNarrow).getD false
  let pair := match fa, fw with
    | some a, some w => (aryPair a w (aryPasses d)).isSome
    | _, _ => false
  (c,
    if c.context = 1 ∧ aryGrand d then some (Err.CONTEXT_DENIED, 0)
    else if wf d 0 0 8 ≠ 2 || badBits aryMasks d || decide (2 ≤ wf d 0 8 2) || decide (2048 < wf d 3 32 12)
        || (aryGrand d && aryDie d != 0) || (!aryGrand d && aryMirror d)
        || (wide fa && (wf d 6 0 52 != 0 || wf d 9 0 32 != 0)) || (wide fw && (wf d 7 0 52 != 0 || wf d 9 32 32 != 0))
      then some (Err.DESC_INVALID, 1)
    else if aryPasses d = 0 then some (Err.PASSES_INVALID, 2)
    else if !pair || (wf d 0 24 4 != 0 && wf d 0 24 4 != 6) || (narrow fa && wf d 0 38 1 != 0)
        || (narrow fw && wf d 0 39 1 != 1) then some (Err.FORMAT_INVALID, 3)
    else if !s.aryPlaced c.die c.context d then some (Err.ADDR_INVALID, 4)
    else match s.aryUsable c.die d with
      | some e => some e
      | none =>
        if c.context = 1 ∧ s.fld (page c.die B.JCX) R.JCX_CUT_LIMIT_ARY_CYCLES < aryNominal d
        then some (Err.CUT_TOO_LARGE, 1) else none)

/-! The dot product. -/

/-- One product set of a span with one MAC per cell: p := rne32(p + x(k) · y(k)) in increasing k (R79, R80). -/
def setChain (x y : Nat → Val) (first n p : Nat) : Nat :=
  forFrom (fun k p => arrayAdd .fp32 p (vmul (x k) (y k))) first n p

/-- The block sum of R82–R84: the exact sum of the products of a block. -/
def blockSum (x y : Nat → Val) (first n : Nat) : Val :=
  forFrom (fun k e => vadd e (vmul (x k) (y k))) first n (.fin false 0 0)

/-- The FP64 accumulator of R94: segments of `spill` spans, each a chain from +0. -/
def accumulate (span : Nat → Nat → Nat) (nspans spill : Nat) : Nat :=
  forUpto (fun t acc =>
    arrayAdd .fp64 acc (decode .fp32 (forFrom span (t * spill) (min (t * spill + spill) nspans - t * spill) 0)))
    (ceilDiv nspans spill) 0

/-- The factor pairs of R86, in order. -/
def productSets (passes : Nat) (a w : Nat → Nat) (fa fw : Fmt) : List ((Nat → Val) × (Nat → Val)) :=
  let hi (x : Nat → Nat) (k : Nat) : Val := decode .bf16 (splitHiLo (x k)).1
  let lo (x : Nat → Nat) (k : Nat) : Val := decode .bf16 (splitHiLo (x k)).2
  match passes with
  | 2 => [(lo a, fun k => decode fw (w k)), (hi a, fun k => decode fw (w k))]
  | 3 => [(lo a, hi w), (hi a, lo w), (hi a, hi w)]
  | _ => [(fun k => decode fa (a k), fun k => decode fw (w k))]

/-- The accumulator of an output element from the codes of its row and column and their fine shifts (R94). -/
def dotAcc (d : List Nat) (a w fa fw : Nat → Nat) : Nat :=
  let f := aryFmts d
  let k := aryK d
  let g := (aryCG d).2
  let sets := productSets (aryPasses d) a w f.1 f.2
  let span (sp p : Nat) : Nat :=
    let first := sp * g
    let n := min (first + g) k - first
    if (aryCG d).1 = 1 then sets.foldl (fun p xy => setChain xy.1 xy.2 first n p) p
    else
      forFrom (fun b p =>
        let e := blockSum (fun i => decode f.1 (a i)) (fun i => decode f.2 (w i)) (32 * b) (min 32 (k - 32 * b))
        arrayAdd .fp32 p (vmul e (.fin false 1 (-((fa b + fw b : Nat) : Int))))) (first / 32) (ceilDiv n 32) p
  accumulate span (ceilDiv k g) (arySpill d)

/-- The accumulator of output element (i, j). -/
def State.aryAcc (s : State) (d : List Nat) (i j : Nat) : Nat :=
  let f := aryFmts d
  dotAcc d
    (fun k => s.elem (wf d 4 0 52) (wf d 8 0 32) (fmtWidth f.1) i k)
    (fun k => s.elem (wf d 5 0 52) (wf d 8 32 32) (fmtWidth f.2) k j)
    (fun b => s.elem (wf d 6 0 52) (wf d 9 0 32) 4 i b)
    (fun b => s.elem (wf d 7 0 52) (wf d 9 32 32) 4 b j)

/-- The result of an accumulator (R91). -/
def aryResult (d : List Nat) (acc : Nat) : Nat :=
  if wf d 0 24 4 = 6 then acc else arrayZero .fp32 (convert .fp64 .fp32 .nearest acc)

/-! Dispatch and start. -/

/-- The die whose ARY counts an operation (R128): the leader of a grand one, and the array of a quad one. -/
def aryLed (c : Cmd) : Nat := if aryGrand c.desc then c.die else aryDie c.desc

/-- An ARRAY_OP enters its arbiter; a grand one sends its claim (R111, R281). -/
def State.arrayOp (s : State) (c : Cmd) : State :=
  let s := s.mapCmd c.id fun x => { x with stage := .arrayWait }
  if aryGrand c.desc then
    let s := { s with claims := s.claims ++ [c.id] }
    s.each [0, 1, 2, 3] fun s d => s.put (page d B.ARY) R.ARY_MODE_GRAND_PENDING 1
  else if c.context = 0 then
    -- a primary request withdraws the waiting cut-in requests of its arbiter
    let gone (x : Cmd) : Bool := x.stage == .arrayWait && x.context == 1 && aryDie x.desc == aryDie c.desc
    { s with cmds := mapIf gone (fun x => { x with waited := 0, promoted := false }) s.cmds }
  else s

/-- ARRAY_OP (R100, R102). -/
def execArrayOp (d : Fin 4) (q : Fin 64) (ext : HostSlot) (s : State) : Host.Outcome State Fault Refusal :=
  .next (s.v2 d q ext Opc.ARRAY_OP (prepDesc aryOutTensor State.aryCheck) State.arrayOp)

/-- A legacy ARRAY (R277). -/
def execV1Array (d : Fin 4) (q : Fin 64) (ext : HostSlot) (s : State) : Host.Outcome State Fault Refusal :=
  .next (s.v1 d q ext 2 (prepDesc aryOutTensor State.aryCheck) State.arrayOp)

/-- Whether no operation occupies the array of a die. -/
def State.arrayFree (s : State) (d : Nat) : Bool := !(s.cmds.any fun c => c.stage == .arrayRun && c.arrays.contains d)

/-- The floor grants the oldest claim once all four arrays have finished (R111). -/
def State.grandClaim (s : State) : State :=
  match s.claims with
  | [] => s
  | id :: t =>
    if s.granted.isSome || !([0, 1, 2, 3].all s.arrayFree) then s
    else
      let s := { s with claims := t, granted := some id }
      s.each [0, 1, 2, 3] fun s d => s.flag (page d B.ARY) R.ARY_MODE_GRAND_PENDING (!t.isEmpty)

/-- GRAND_CLAIM (R111). -/
def execGrandClaim (s : State) : Host.Outcome State Fault Refusal := .next s.grandClaim

/-- The class of a request at an arbiter, after promotion (R280). -/
def reqClass (c : Cmd) : Nat := if c.promoted then 0 else c.cls

/-- The first request of the highest class, in order of arrival (R278). -/
def firstByClass (l : List Cmd) : Option Cmd :=
  [0, 1, 2].findSome? fun k => l.find? fun c => reqClass c == k

/-- The quad requests that stand at the arbiter of a die's array: cut-in ones only while no primary one does
(R281). -/
def State.arrayRequests (s : State) (d : Nat) : List Cmd :=
  let all := s.cmds.filter fun c => c.stage == .arrayWait && !aryGrand c.desc && aryDie c.desc == d
  if all.any fun c => c.context == 0 then all.filter fun c => c.context == 0 else all

/-- Whether a waiting or granted claim holds back a quad operation (R111). -/
def State.claimHolds (s : State) (c : Cmd) : Bool :=
  s.granted.isSome || s.claims.any fun id => (s.cmdOf id).any fun x => decide (reqClass x ≤ reqClass c)

/-- Whether the action of an array row or column fault of a die has not asked for its spare yet (R118, R508). -/
def State.spareAsked (s : State) (d : Nat) : Bool :=
  let fault (a : Action) : Bool := a.event.kind == .arrayRowFault || a.event.kind == .arrayColFault
  (s.acts d).waiting.any fault || (s.acts d).running.any fault

/-- Whether an array takes an operation now: it is free, its die has not lost the floor (R312), and no action that waits has
still to ask for a spare there (R118). -/
def State.arrayTakes (s : State) (d : Nat) : Bool := s.arrayFree d && !s.floorLost d && !s.spareAsked d

/-- The operation that the array of die `d` takes next (R111, R112). -/
def State.arrayNext (s : State) (d : Nat) : Option Cmd :=
  match s.granted.bind s.cmdOf with
  | some c => if c.die = d ∧ [0, 1, 2, 3].all s.arrayTakes then some c else none
  | none =>
    if s.arrayTakes d then firstByClass ((s.arrayRequests d).filter fun c => !s.claimHolds c) else none

/-! Spares (R118). -/

/-- The table entries of the spare rows, or of the spare columns. -/
def spareEntries (row : Bool) : List Nat := if row then (List.range 8) else (List.range 8).map (8 + ·)

/-- ROWS_USED and COLS_USED follow the spare table (R125). -/
def State.spareCounts (s : State) (d : Nat) : State :=
  let pg := page d B.ARY
  let used (row : Bool) : Nat := ((spareEntries row).filter fun n => s.on pg (R.SPARE_TABLE_VALID n)).length
  (s.put pg R.ARY_SPARE_STS_ROWS_USED (used true)).put pg R.ARY_SPARE_STS_COLS_USED (used false)

/-- The array of a die becomes unusable in the field (R118, R119, R502), perhaps under R509. -/
def State.arrayUnusable (s : State) (d : Nat) (second : Bool := false) : State :=
  let pg := page d B.ARY
  if s.hwFences.contains pg then s
  else
    let s := s.hwFence pg second
    let s := if s.on pg R.ARY_MODE_ARRAY_USABLE then (s.put pg R.ARY_MODE_ARRAY_USABLE 0).intSet pg 1 else s
    ((s.report ⟨.arrayUnusable, Fin.ofNat 5 d, B.ARY, 0, d, 0, 0⟩ { fenced := true, second := second }).capDie d).refreshGrand

/-- The recovery window of a faulty row or column closes (R502). -/
def State.spareSettled (s : State) (d : Nat) (row : Bool) (pos : Nat) : State :=
  let s : State := { s with spareDue := s.spareDue.filter fun x => x != (d, row, pos) }
  s.winClose (winKey (if row then 2 else 3) d pos)

/-- ARY maps a free spare into a faulty logical row or column, or marks the array unusable; a spare that served there
serves no longer (R118). -/
def State.mapSpare (s : State) (d : Nat) (row : Bool) (pos : Nat) : State :=
  let pg := page d B.ARY
  let serving := (spareEntries row).filter fun n =>
    s.on pg (R.SPARE_TABLE_VALID n) && s.fld pg (R.SPARE_TABLE_POSITION n) == pos
  let s := s.each serving fun s n =>
    { s.setWord (pg + (R.SPARE_TABLE_VALID n).off) 0 with badSpares := setInsert (16 * d + n) s.badSpares }
  let s := match (spareEntries row).find? fun n => !s.on pg (R.SPARE_TABLE_VALID n) && !s.badSpares.contains (16 * d + n) with
    | none => (s.spareCounts d).arrayUnusable d
    | some n =>
      let s := ((s.put pg (R.SPARE_TABLE_VALID n) 1).put pg (R.SPARE_TABLE_FIELD n) 1).put pg (R.SPARE_TABLE_POSITION n) pos
      ((s.spareCounts d).count pg C.ARY_SPARE_FIELD_MAPS 1).intSet pg 0
  s.spareSettled d row pos

/-- The mappings that are due before the next operation on the array of a die (R118; log entry 29). -/
def State.mapDue (s : State) (d : Nat) : State :=
  if s.hwFences.contains (page d B.ARY) then s
  else s.each (s.spareDue.filter fun x => x.1 == d) fun s x => s.mapSpare d x.2.1 x.2.2

/-- An operation takes its arrays: checks 5 and 6 again, the operands, the segments (R89, R102, R107, R229). -/
def State.arrayStart (s : State) (d : Nat) : State :=
  match s.arrayNext d with
  | none => s
  | some c =>
    -- the other LOW requests of the arbiter wait through one more grant (R280)
    let aged := (s.arrayRequests d).filterMap fun x => if x.cls = 2 ∧ x.id ≠ c.id then some x.id else none
    let s := { s with cmds := mapIf (fun x => aged.contains x.id) (fun x => { x with waited := x.waited + 1 }) s.cmds }
    let s := if aryGrand c.desc then { s with granted := none } else s
    let dies := if aryGrand c.desc then [0, 1, 2, 3] else [aryDie c.desc]
    let s := s.each dies State.mapDue
    match s.aryUsable c.die c.desc with
    | some e => if c.orphan then s.dropCmd c else s.fail c e.1 e.2
    | none =>
      let desc := c.desc
      let empty := aryM desc == 0 || aryN desc == 0
      let lost := dies.find? fun x => !s.present x
      let poison := !empty && (aryOperands desc).any fun o => s.badRows o.1 o.2.1 o.2.2.1 o.2.2.2
      let s := if empty then s else
        s.each (aryOperands desc) fun s o => s.countRows .array o.1 o.2.1 o.2.2.1 o.2.2.2
      let n := aryN desc
      let acc := if empty || poison then [] else
        tabulate (fun k => s.aryAcc desc (k / n) (k % n)) (aryM desc * n)
      let spans := arySegments desc
      let s := if spans ≤ 1 || empty || poison then s else
        s.each (aryWide desc) fun s x =>
          s.count (page 4 B.WBF) (nth C.WBF_SEGMENT_ADDS_0 x) (aryM desc * aryOutCols desc x * spans)
      -- the accumulators of the segments stand in the wide buffer (R89, R222)
      let s := if spans ≤ 1 || empty then s else s.lost (aryWide desc)
      let s := s.mapCmd c.id fun x =>
        { x with stage := .arrayRun, arrays := dies, acc := acc, error :=
            match lost with
            | some l => some (Err.DIE_ABSENT, l)
            | none => if poison then some (Err.MEM_POISON, 0) else x.error }
      let s := s.each dies fun s x => s.put (page x B.ARY) R.ARY_MODE_ARRAY_BUSY 1
      -- activations enter every array of an operation that has an element (R603)
      s.each dies fun s x =>
        (s.stampCmd c (1 + x) (x * 256)).when (!(empty || poison || aryK desc == 0)) fun s => s.stampCmd c (5 + x) (x * 256)

/-- ARRAY_OP_START (R107). -/
def execArrayOpStart (d : Fin 4) (s : State) : Host.Outcome State Fault Refusal := .next (s.arrayStart d.val)

/-! Completion. -/

/-- Slots of an operation on one die: all those of its traversals, and those with k < K and j < N in one product set
(R121, R122). -/
def arySlots (d : List Nat) (die : Nat) : Nat × Nat :=
  let c := (aryCG d).1
  let half := 640 * c
  let width := if aryGrand d then 1280 else 640
  let len := if aryGrand d then 2 * half else half
  let k := aryK d
  let ks := if aryGrand d then
      k / len * half + (if die < 2 then min half (k % len) else k % len - half)
    else k
  let all := 409600 * c * aryPasses d * ceilDiv k len * ceilDiv (aryN d) width * aryM d
  let cols := if aryGrand d then
      aryN d / 1280 * 640 + (if die % 2 = 0 then min (aryN d % 1280) 640 else aryN d % 1280 - 640)
    else aryN d
  (all, aryM d * ks * cols)

/-- The pending slot count of a context on a die (R126). -/
def pendingFld (ctx : Nat) : Fld := nth ⟨0x110, 0, 48⟩ ctx

/-- Count the slots of an operation (R122, R123): those of one that ends with an error as those of one that completes,
where its arrays ran it to the end (log entry 44). -/
def State.countSlots (s : State) (c : Cmd) : State :=
  s.each c.arrays fun s x =>
    let pg := page x B.ARY
    let n := arySlots c.desc x
    let p := aryPasses c.desc
    let s := s.count pg C.ARY_SLOT_WASTED_PAD (n.1 - p * n.2)
    let s := s.count pg C.ARY_SLOT_WASTED_PASS ((p - 1) * n.2)
    if c.inLayer then s.put pg (pendingFld c.context) (s.fld pg (pendingFld c.context) + n.2)
    else s.count pg C.ARY_SLOT_RETIRED n.2

/-- The position of an output element: the die of its primary copy and the byte offset in ACC (R105). -/
def aryPlace (d : List Nat) (i j : Nat) : Nat × Nat :=
  let off := wf d 10 0 26 + i * wf d 10 32 32
  if aryGrand d then
    let u := j % 1280
    (if u < 640 then 2 else 3, off + (j / 1280 * 640 + u % 640) * aryElem d)
  else (aryDie d, off + j * aryElem d)

/-- Write one row of results into the ACC of its dies and set their non-finite flags (R91, R92, R105, R106). -/
def State.aryRow (s : State) (c : Cmd) (i : Nat) : State :=
  let d := c.desc
  let n := aryN d
  let f : Fmt := if aryElem d = 8 then .fp64 else .fp32
  let codes := tabulate (fun j => aryResult d (c.acc.getD (i * n + j) 0)) n
  s.each (aryOutDies d) fun s x =>
    let primary := if aryGrand d then 2 + x % 2 else x
    let mine := (List.range n).filter fun j => (aryPlace d i j).1 == primary
    match mine with
    | [] => s
    | j0 :: _ =>
      let data := mine.flatMap fun j => leBytes (aryElem d) (codes.getD j 0)
      let s := s.write .array none (accAddr x (aryPlace d i j0).2) data
      if mine.any fun j => !vfinite (decode f (codes.getD j 0)) then s.nonfinite x c.context else s

/-- Leave the output of a failed operation undefined (R97). -/
def State.aryUndefined (s : State) (c : Cmd) : State :=
  let d := c.desc
  s.each ((aryOutDies d).filter s.present) fun s x =>
    s.each (List.range (aryM d)) fun s i =>
      s.undefine (accAddr x (wf d 10 0 26 + i * wf d 10 32 32)) (aryOutCols d x * aryElem d)

/-- The operation leaves its arrays; its streams end (R297). -/
def State.arrayRelease (s : State) (c : Cmd) : State :=
  let s : State := { s with crossing := s.crossing.filter fun e => !c.arrays.contains (e.1 % 8) }
  s.each c.arrays fun s x => s.put (page x B.ARY) R.ARY_MODE_ARRAY_BUSY 0

/-- The running operation of an array ends (R91, R92, R97, R99, R105, R106, R118, R128). One that ends with an error
leaves its destination undefined and sets no non-finite flag for results that reached ACC before it, also where the error is that of its signal (R184, R264); BOUND_EXCEEDED is that of
operations that end without a fault of their own (log entry 44). -/
def State.arrayEnd (s : State) (c : Cmd) : State :=
  let s := s.arrayRelease c
  let s := s.countSlots c
  let s := s.count (page (aryLed c) B.ARY) (if aryGrand c.desc then C.ARY_OPS_GRAND else C.ARY_OPS_QUAD) 1
  let s := if arySegments c.desc ≤ 1 || aryM c.desc == 0 || aryN c.desc == 0 then s
    else s.lost (aryWide c.desc)
  let s := match c.error with
    | some e => if c.orphan then (s.aryUndefined c).dropCmd c else (s.aryUndefined c).fail c e.1 e.2
    | none =>
      let s := if c.acc.isEmpty then s else s.each (List.range (aryM c.desc)) fun s i => s.aryRow c i
      if c.orphan then s.dropCmd c else
      let bound := decide (2 ^ 26 < aryK c.desc)
      let s := if bound then s.count (page c.die B.ARY) C.ARY_BOUND_EXCEEDED 1 else s
      let out := aryOutDies c.desc
      let any := !(aryM c.desc == 0 || aryN c.desc == 0)
      let s := s.each (c.arrays.filter fun _ => any && aryK c.desc != 0) fun s x => s.stampCmd c (9 + x) (x * 256)
      let s := s.each (out.filter fun x => any && aryOutCols c.desc x != 0) fun s x =>
        (s.stampCmd c (13 + x) (x * 256 + 2)).stampCmd c (17 + x) (x * 256 + 2)
      let s := if hSigEn c.words && (s.cmdSignal c).2.isSome then s.aryUndefined c else s
      s.done { c with boundExceeded := bound }
  s

/-- The operation that runs on the array of a die ends. -/
def State.arrayComplete (s : State) (d : Nat) : State :=
  match s.cmds.find? fun c => c.stage == .arrayRun && c.arrays.contains d with
  | some c => if c.arrays.any s.floorLost then s else s.arrayEnd c
  | none => s

/-- ARRAY_OP_COMPLETE (R91). -/
def execArrayOpComplete (d : Fin 4) (s : State) : Host.Outcome State Fault Refusal := .next (s.arrayComplete d.val)

end Sys2Proof.Machine
end

