-- ==== Sys2Proof/Machine/Move.lean ====
section
/-! DEFINITION. The move engines (R224, R225) and SYNC_REMOTE at its caller (R266). -/

namespace Sys2Proof.Machine

/-- A segment of a move: where its bytes come from, if anywhere, where they go, and how many. -/
structure MoveSeg where
  src : Option Nat
  dst : Nat
  len : Nat
deriving DecidableEq, Repr

/-- The segments of a move (R224, R259); a move of no bytes has none. -/
def moveSegs (w : List Nat) : List MoveSeg :=
  let src := wf w 2 0 52
  let dst := wf w 3 0 52
  if hOpc w = Opc.MOVE_2D then
    let n := wf w 4 32 32
    if n = 0 then []
    else (List.range (wf w 4 0 32)).map fun r => ⟨some (src + r * wf w 5 0 32), dst + r * wf w 5 32 32, n⟩
  else if wf w 4 0 48 = 0 then []
  else [⟨if hOpc w = Opc.MOVE_FILL then none else some src, dst, wf w 4 0 48⟩]

/-- Whether every address, length and pitch of a move is a multiple of 64 (R224). -/
def moveAligned (w : List Nat) : Bool :=
  let opc := hOpc w
  (opc == Opc.MOVE_FILL || wf w 2 0 52 % 64 == 0) && wf w 3 0 52 % 64 == 0
    && (if opc = Opc.MOVE_2D then wf w 4 32 32 % 64 == 0 && wf w 5 0 32 % 64 == 0 && wf w 5 32 32 % 64 == 0
        else wf w 4 0 48 % 64 == 0)

/-- The checks of a move (R213, R214, R224, R283, R648 order 5). -/
def moveCheck : Prep := fun s c =>
  let placed (a n : Nat) : Bool := s.named c.die c.context a n
  let ok (g : MoveSeg) : Bool := placed g.dst g.len && (match g.src with
    | some a => placed a g.len
    | none => true)
  (c, if moveAligned c.words && (moveSegs c.words).all ok then none else some (Err.ADDR_INVALID, 0))

/-- The die that is not present and whose ACC window holds an address (R216). -/
def State.absentAt (s : State) (a : Nat) : Option Nat := (accDie a).filter fun d => !s.present d

/-- Copy granules, with the poison of each source granule (R225, R229). -/
def State.copyGranules (s : State) (owner : Option Nat) (src dst n : Nat) : State :=
  s.each (List.range n) fun s i =>
    s.writeGranule .engine owner (dst + 64 * i) (s.load (src + 64 * i) 64) fullMask (s.bad (src + 64 * i))

/-- 64 bytes of a repeated pattern (R224). -/
def patternGranule (p : Nat) : Nat := forUpto (fun i n => n + p * 2 ^ (64 * i)) 8 0

/-- The move engine of the die's quadrant runs a segment. -/
def State.moveSeg (s : State) (c : Cmd) (g : MoveSeg) : State :=
  let s := match g.src with
    | some a => (s.countRead .engine a g.len).copyGranules (some c.id) a g.dst (g.len / 64)
    | none => s.each (List.range (g.len / 64)) fun s i =>
        s.writeGranule .engine (some c.id) (g.dst + 64 * i) (patternGranule (wordAt c.words 5)) fullMask
  s.count (page 4 B.STG) (nth C.STG_MOVE_BYTES_0 c.die) g.len

/-- A move starts: it stops at an ACC window of an absent die once the absence is learned (R216, R309, R310), else it writes its granules, and a poisoned source
fails it when it completes (R224, R225, R229). -/
def State.moveRun (s : State) (c : Cmd) : State :=
  let l := moveSegs c.words
  let absent (g : MoveSeg) : Option Nat := (g.src.bind s.absentAt).or (s.absentAt g.dst)
  match l.findSome? absent with
  | some d =>
    if s.absentDue.contains d then s.mapCmd c.id fun x => { x with stage := .moving, error := some (Err.DIE_ABSENT, d) }
    else s.fail c Err.DIE_ABSENT d
  | none =>
    let poison := l.any fun g => (g.src.map fun a => s.badRange a g.len).getD false
    let s := s.mapCmd c.id fun x =>
      { x with stage := .moving, error := if poison then some (Err.MEM_POISON, 0) else none }
    let s := s.stampFloor c 1 (0x10 + c.die)
    let s := if l.isEmpty then s else s.stampFloor c 2 (0x10 + c.die)
    s.each l fun s g => s.moveSeg c g

/-- MOVE_COPY (R224). -/
def execMoveCopy (d : Fin 4) (q : Fin 64) (ext : HostSlot) (s : State) : Host.Outcome State Fault Refusal :=
  .next (s.v2 d q ext Opc.MOVE_COPY moveCheck State.moveRun)

/-- MOVE_2D (R224). -/
def execMove2d (d : Fin 4) (q : Fin 64) (ext : HostSlot) (s : State) : Host.Outcome State Fault Refusal :=
  .next (s.v2 d q ext Opc.MOVE_2D moveCheck State.moveRun)

/-- MOVE_FILL (R224). -/
def execMoveFill (d : Fin 4) (q : Fin 64) (ext : HostSlot) (s : State) : Host.Outcome State Fault Refusal :=
  .next (s.v2 d q ext Opc.MOVE_FILL moveCheck State.moveRun)

/-- A legacy COPY becomes a MOVE_COPY of LEN_4K · 4,096 bytes (R277). -/
def execV1Copy (d : Fin 4) (q : Fin 64) (ext : HostSlot) (s : State) : Host.Outcome State Fault Refusal :=
  .next (s.v1 d q ext 4 moveCheck State.moveRun)

/-- A move that waits for an absence to be learned (R309). -/
def State.moveUnlearned (s : State) (c : Cmd) : Bool :=
  c.error.any fun e => e.1 == Err.DIE_ABSENT && s.absentDue.contains e.2

/-- The oldest move of a die whose granules have all landed (R225). -/
def State.moveReady (s : State) (d : Nat) : Option Cmd :=
  s.cmds.find? fun c => c.die == d && c.stage == .moving && !s.moveUnlearned c
    && !(s.heldWrites.any fun w => w.owner == some c.id)

/-- A move completes (R225). -/
def State.moveEnd (s : State) (d : Nat) : State :=
  match s.moveReady d with
  | some c =>
    let s := if (moveSegs c.words).isEmpty then s else s.stampFloor c 3 (0x10 + d)
    match c.error with
    | some e => s.fail c e.1 e.2
    | none => s.done c
  | none => s

/-- MOVE_COMPLETE (R225). -/
def execMoveComplete (d : Fin 4) (s : State) : Host.Outcome State Fault Refusal := .next (s.moveEnd d.val)

end Sys2Proof.Machine
end

