-- ==== Sys2Proof/Machine/Bracket.lean ====
section
/-! DEFINITION. Layer brackets: LAYER_OPEN and LAYER_CLOSE (R181–R185), the outcome (R187–R190) and the commit-add lists
(R191, R192). -/

namespace Sys2Proof.Machine

/-! LAYER_OPEN (R181, R182, R184). -/

/-- The operands that every member carries alike (R182). -/
def openShared (w : List Nat) : List Nat := [wf w 2 0 33, wf w 2 36 28, wf w 3 0 14]

/-- The member dies of a bracket, in increasing index. -/
def openDies (w : List Nat) : List Nat := [0, 1, 2, 3].filter fun d => bitOn (wf w 2 36 4) d

/-- Show the open bracket of a context in JCX_NUM_STS (R210). -/
def State.showBracket (s : State) (d ctx : Nat) : State :=
  let pg := page d B.JCX
  let b := (s.job d ctx).bracket
  let s := s.flag pg (R.JCX_NUM_STS_BRACKET_OPEN ctx) b.isSome
  let s := s.put pg (R.JCX_NUM_STS_LEVEL ctx) ((b.map Bracket.level).getD 0)
  s.put pg (R.JCX_NUM_STS_BRACKET_LAYER ctx) ((b.map fun x => wf x.words 2 0 16).getD 0)

/-- Set the bracket-local cells of a member to zero: updates behind its own LAYER_OPEN (R184, R292). -/
def State.resetLocal (s : State) (d : Nat) (w : List Nat) : State :=
  s.each (List.range (wf w 2 56 8)) fun s i => s.signal ⟨cellNo d (wf w 3 0 14 + i), true, 0⟩ (fromDie d)

/-- The bracket that a LAYER_OPEN of a die joins: the oldest of its context that names the die and that the die has
neither opened nor left (DEDUCED, log entry 22). -/
def State.joins (s : State) (d ctx : Nat) : Option Group :=
  s.groups.find? fun g => g.ctx == ctx && (openDies g.words).contains d && !g.gone.contains d

/-- A LAYER_OPEN executes (R181, R182, R184, R187, R200). -/
def State.layerOpen (s : State) (c : Cmd) : State :=
  let d := c.die
  if !(openDies c.words).contains d then s.fail c Err.BRACKET_INVALID 0
  else
    let j := s.joins d c.context
    let id := (j.map Group.id).getD s.nextGroup
    let s := match j with
      | some _ => s
      | none => { s with
          groups := s.groups ++ [(⟨id, c.context, c.words, (openDies c.words).filter fun e => !s.present e, []⟩ : Group)]
          nextGroup := s.nextGroup + 1 }
    let b : Bracket := {
      id := id, queue := c.queue, words := c.words, number := c.number, fetch := s.qf d c.queue R.QUEUE_W5_FETCH
      step := c.step }
    let s := s.setJob d c.context { s.job d c.context with bracket := some b, afterOpen := false }
    let s := (s.put (page d B.JCX) (R.JCX_NUM_STS_GATE_DONE c.context) 0).showBracket d c.context
    (s.resetLocal d c.words).done c

/-- LAYER_OPEN (R182). -/
def execLayerOpen (d : Fin 4) (q : Fin 64) (ext : HostSlot) (s : State) : Host.Outcome State Fault Refusal :=
  .next (s.v2 d q ext Opc.LAYER_OPEN noPrep State.layerOpen)

/-- LAYER_CLOSE waits for the outcome of its bracket (R187). -/
def execLayerClose (d : Fin 4) (q : Fin 64) (ext : HostSlot) (s : State) : Host.Outcome State Fault Refusal :=
  .next (s.v2 d q ext Opc.LAYER_CLOSE noPrep fun s c => s.mapCmd c.id fun x => { x with stage := .close })

/-! Commit-add lists. -/

/-- A member's commit-add list: base and entries; none where CADD_BASE or CADD_COUNT is zero (R181, R192). -/
def caddList (w : List Nat) : Option (Nat × Nat) :=
  if wf w 4 0 52 = 0 ∨ wf w 5 0 16 = 0 then none else some (wf w 4 0 52, wf w 5 0 16)

/-- The device address of an entry's source (R191). -/
def caddSrc (e : List Nat) : Nat := if wf e 0 55 1 = 1 then accAddr (wf e 0 53 2) (wf e 0 0 52) else wf e 0 0 52

/-- The error of one entry, none where the check of R192 passes. -/
def State.caddEntryError (s : State) (d ctx : Nat) (e : List Nat) : Option Nat :=
  let n := 4 * wf e 2 0 32
  let place (a : Nat) : Bool := s.named d ctx a n
  if wf e 0 56 8 ≠ 0 ∨ wf e 0 52 1 ≠ 0 ∨ wf e 1 52 12 ≠ 0 ∨ wf e 2 33 31 ≠ 0 ∨ wordAt e 3 ≠ 0 ∨ wf e 2 0 32 % 16 ≠ 0 then some Err.BRACKET_INVALID
  else if wf e 0 0 52 % 64 ≠ 0 ∨ wf e 1 0 52 % 64 ≠ 0 then some Err.ADDR_INVALID
  else if wf e 0 55 1 = 1 ∧ n ≠ 0 ∧ 0x3000000 < wf e 0 0 52 + n then some Err.ADDR_INVALID
  else if place (caddSrc e) && place (wf e 1 0 52) then none else some Err.ADDR_INVALID

/-- The error of a member's list, none where the check of R192 passes; a poisoned granule of the list fails its
reader (R229). -/
def State.caddError (s : State) (d ctx : Nat) (w : List Nat) : Option Nat :=
  match caddList w with
  | none => none
  | some (base, n) =>
    if !s.named d ctx base (32 * n) then some Err.ADDR_INVALID
    else if s.badRange base (32 * n) then some Err.MEM_POISON
    else (List.range n).findSome? fun i => s.caddEntryError d ctx (s.words (base + 32 * i) 4)

/-- The sixteen FP32 codes of a granule. -/
def codes16 (g : Nat) : List Nat := tabulate (fun i => bits g (32 * i) 32) 16

/-- One granule of an entry: dst := src, or dst := rne32(dst + src) (R132, R192, R229). -/
def State.caddGranule (s : State) (d ctx owner : Nat) (store : Bool) (src dst : Nat) : State :=
  let a := s.granuleOf (some owner) src
  let b := s.granuleOf (some owner) dst
  let x := codes16 a.2
  let y := if store then x else List.zipWith (fadd .fp32) (codes16 b.2) x
  let poison := a.1 || (!store && b.1)
  let s := s.writeGranule .engine (some owner) dst (packElems 32 y) fullMask poison
  if y.any fun c => !finite32 c then s.nonfinite d ctx else s

/-- One entry of a list (R191, R192): a source in the ACC of an absent die leaves the destination undefined, and a destination
there is not written and fails the command that the list belongs to (R216). -/
def State.caddEntry (s : State) (d ctx owner : Nat) (e : List Nat) : State :=
  let n := wf e 2 0 32
  let src := caddSrc e
  let dst := wf e 1 0 52
  if n = 0 then s
  else match s.absentAt dst with
  | some x => s.mapCmd owner fun c => { c with error := some (Err.DIE_ABSENT, x) }
  | none =>
  if (s.absentAt src).isSome then s.undefine dst (4 * n)
  else
    let s := s.countRead .engine src (4 * n)
    let s := if wf e 2 32 1 = 1 then s else s.countRead .engine dst (4 * n)
    let s := s.each (List.range (n / 16)) fun s i =>
      s.caddGranule d ctx owner (wf e 2 32 1 == 1) (src + 64 * i) (dst + 64 * i)
    (s.count (page d B.NUM) C.NUM_COMMIT_ADD_ELEMENTS n).count (page 4 B.STG) (nth C.STG_MOVE_BYTES_0 d) (4 * n)

/-- A list runs, in entry order (R192). -/
def State.caddRun (s : State) (d ctx owner : Nat) (w : List Nat) : State :=
  match caddList w with
  | none => s
  | some (base, n) =>
    (s.countRead .engine base (32 * n)).each (tabulate (fun i => s.words (base + 32 * i) 4) n) fun s e =>
      s.caddEntry d ctx owner e

/-! The outcome (R187). -/

/-- The bracket of a group on a member die. -/
def State.memberOf (s : State) (g : Group) (d : Nat) : Option Bracket :=
  (s.job d g.ctx).bracket.filter fun b => b.id == g.id

/-- The members that have opened the bracket and whose absence is not learned, in increasing index. -/
def State.openMembers (s : State) (g : Group) : List (Nat × Bracket) :=
  ((openDies g.words).filter fun d => !g.gone.contains d).filterMap fun d => (s.memberOf g d).map fun b => (d, b)

/-- The members that take the outcome: those present. -/
def State.members (s : State) (g : Group) : List (Nat × Bracket) := (s.openMembers g).filter fun x => s.present x.1

/-- The LAYER_CLOSE of a member that waits for the outcome. -/
def State.closeOf (s : State) (d : Nat) (b : Bracket) : Option Cmd :=
  s.cmds.find? fun c => c.die == d && c.queue == b.queue && c.stage == .close

/-- Whether a member has reached the point of R187. -/
def State.reached (s : State) (g : Group) (d : Nat) : Bool :=
  g.gone.contains d || (match s.memberOf g d with
    | none => false
    | some b => b.halted || ((s.closeOf d b).isSome && !(s.cmds.any fun c => c.die == d && c.attempt == some b.id)))

/-- The first failing command of a member's attempt in program order, the failed check of its list last: its error
(R190, R192). -/
def firstError (b : Bracket) (list : Option Nat) : Option Nat :=
  let order (n : Nat) : Nat := (n + 2 ^ 32 - b.number % 2 ^ 32) % 2 ^ 32
  let first := b.errors.foldl (fun o e => match o with
    | none => some e
    | some x => if order e.1 < order x.1 then some e else some x) (none : Option (Nat × Nat × Nat))
  match first with
  | some e => some e.2.1
  | none => list

/-- The failed check of the list of a member that has reached the point of R187, by its close or by its halt (R192). -/
def State.listError (s : State) (ctx d : Nat) (b : Bracket) : Option Nat :=
  if (s.closeOf d b).isSome || b.halted then s.caddError d ctx b.words else none

/-- What each member made of the attempt, those declared absent included, in increasing index: die, bracket, and the failed
check of its list. -/
def State.results (s : State) (g : Group) : List (Nat × Bracket × Option Nat) :=
  [0, 1, 2, 3].flatMap fun d =>
    (g.lost.filter fun x => x.1 == d)
      ++ ((s.openMembers g).filter fun x => x.1 == d).map fun x => (x.1, x.2, s.listError g.ctx x.1 x.2)

/-- The outcomes of R187. -/
inductive Outcome where
  | commit
  | replay
  | failed (err : Nat)
deriving DecidableEq, Repr

/-- The outcome of a bracket whose members have all reached their close (R187, R190). -/
def State.outcomeOf (s : State) (g : Group) : Outcome :=
  let m := s.results g
  let differ := m.any fun x => openShared x.2.1.words != openShared g.words
  if differ then .failed Err.BRACKET_INVALID
  else match m.findSome? fun x => firstError x.2.1 x.2.2 with
    | some e => .failed e
    | none =>
      if !g.gone.isEmpty || m.any fun x => x.2.1.halted then .failed Err.DIE_ABSENT
      else if m.any fun x => x.2.1.overflow.any fun o => o.2 != 0 then .replay else .commit

/-- The dies whose pending slot counts follow the outcome: the members, and dies whose context has no open bracket
(R123). -/
def State.slotDies (s : State) (g : Group) : List Nat :=
  s.presentDies.filter fun d => (s.memberOf g d).isSome || (s.job d g.ctx).bracket.isNone

/-- ARY moves the pending slot counts of a context into a category and clears them (R123, R188–R190). -/
def State.moveSlots (s : State) (g : Group) (f : Fld) : State :=
  s.each (s.slotDies g) fun s d =>
    let pg := page d B.ARY
    (s.count pg f (s.fld pg (pendingFld g.ctx))).put pg (pendingFld g.ctx) 0

/-- The bracket of a member closes; its queue has consumed every command of it (R185, R513). -/
def State.closeMember (s : State) (g : Group) (d : Nat) (b : Bracket) : State :=
  let s := s.setJob d g.ctx { s.job d g.ctx with bracket := none }
  (s.qput d b.queue R.QUEUE_W2_HEAD (s.qf d b.queue R.QUEUE_W2_HEAD + b.taken)).showBracket d g.ctx

/-- The bracket leaves the floor. -/
def State.endGroup (s : State) (g : Group) : State := { s with groups := s.groups.filter fun x => x.id != g.id }

/-- BRACKET_AMAX of each reported tensor merges into STEP_AMAX, or is discarded, and clears (R188, R190). -/
def State.mergeAmax (s : State) (g : Group) (d : Nat) (b : Bracket) (keep : Bool) : State :=
  s.each b.reported fun s t =>
    match s.entryAddr d g.ctx t with
    | none => s
    | some a =>
      let s := if keep then s.putEntry a 2 0 32 (amaxMax (s.entry a 2 0 32) (s.entry a 2 32 32)) else s
      s.putEntry a 2 32 32 0

/-- Insert a held signal into a list in program order, after those of its own number. -/
def insertHeld (first : Nat) (h : Held) : List Held → List Held
  | [] => [h]
  | x :: t =>
    if (h.number + 2 ^ 32 - first % 2 ^ 32) % 2 ^ 32 < (x.number + 2 ^ 32 - first % 2 ^ 32) % 2 ^ 32 then h :: x :: t
    else x :: insertHeld first h t

/-- The held signals of a member in program order (R184). -/
def heldOrder (b : Bracket) : List Held := b.held.foldl (fun l h => insertHeld b.number h l) []

/-- Steps 2 to 6 of a commit (R188). -/
def State.commitFinish (s : State) (g : Group) : State :=
  let m := s.members g
  let s := s.moveSlots g C.ARY_SLOT_RETIRED
  let s := s.each m fun s x => s.mergeAmax g x.1 x.2 true
  let s := s.each m fun s x => s.each (heldOrder x.2) fun s h => s.signalLive h.signal (fromDie x.1)
  let s := match m.head? with
    | some (d, _) =>
      (s.count (page d B.NUM) C.NUM_BRACKETS_COMMITTED 1).signalLive
        ⟨cellNo (wf g.words 2 40 2) (wf g.words 2 42 14), false, 1⟩ (fromDie d)
    | none => s
  (s.each m fun s x =>
    let close := s.closeOf x.1 x.2
    let s := s.closeMember g x.1 x.2
    match close with
    | some c => match (s.cmdOf c.id).bind Cmd.error with
      | some e => s.fail c e.1 e.2
      | none => s.done c
    | none => s).endGroup g

/-- The commit finishes once every present member's list has run (R188). -/
def State.commitMaybe (s : State) (g : Group) : State :=
  if (s.members g).all fun x => x.2.added then s.commitFinish g else s

/-- COMMIT: the lists of the members run (R188, step 1). -/
def State.commitStart (s : State) (g : Group) : State :=
  let s := s.each (s.members g) fun s x =>
    let s := s.mapBracket x.1 g.ctx fun b => { b with adding := true, added := (caddList b.words).isNone }
    match s.closeOf x.1 x.2 with
    | some c => s.caddRun x.1 g.ctx c.id x.2.words
    | none => s
  s.commitMaybe g

/-- The record and the count of a replay (R189, R194): the first tensor, its overflows and the largest magnitude over the
members. -/
def State.replayRecord (s : State) (g : Group) (m : List (Nat × Bracket)) (d : Nat) (b : Bracket) (t n tensors : Nat) :
    State :=
  let amaxOn (a : Nat) (x : Nat × Bracket) : Nat := match s.entryAddr x.1 g.ctx t with
    | some e => amaxMax a (s.entry e 2 32 32)
    | none => a
  let amax := m.foldl amaxOn 0
  let fmt (level : Nat) : Nat := match s.fmtAt d g.ctx t level 0 with
    | .ok f => fmtCode f
    | .error _ => 0
  let w := g.words
  let st := s.stamp
  let s := st.2.numRecord d
    ([numWord0 (wf w 2 16 16) (wf w 2 0 16) (fmt (b.level + 1)) (fmt b.level) (min 3 (b.level + 1)) (wf w 2 32 1) g.ctx d 1,
      min tensors 0xFFFF * 2 ^ 48 + t * 2 ^ 32 + s.stepOf d g.ctx, n % 2 ^ 32 * 2 ^ 32 + amax] ++ numTail st.1 d 0 0)
  s.count (page d B.NUM) C.NUM_REPLAYS 1

/-- REPLAY (R189, R194). -/
def State.replayBracket (s : State) (g : Group) : State :=
  let m := s.members g
  let s := s.moveSlots g C.ARY_SLOT_WASTED_REPLAY
  let add (t : Table Nat) (o : Nat × Nat) : Table Nat := Table.set (fun _ => 0) t o.1 (Table.get (fun _ => 0) t o.1 + o.2)
  let total := m.foldl (fun t x => x.2.overflow.foldl add t) ([] : Table Nat)
  let s := match m.head?, total.head? with
    | some (d, b), some (t, n) => s.replayRecord g m d b t n total.length
    | _, _ => s
  s.each m fun s x =>
    let s := match s.closeOf x.1 x.2 with
      | some c => s.dropCmd c
      | none => s
    let s := s.mapBracket x.1 g.ctx fun b =>
      { b with level := min 3 (b.level + 1), taken := 0, failing := false, errors := [], held := [], overflow := [] }
    let s := s.qput x.1 x.2.queue R.QUEUE_W5_FETCH x.2.fetch
    (s.showBracket x.1 g.ctx).resetLocal x.1 x.2.words

/-- Consume the commands of a failed bracket that its halted caller has not taken (R513); `fuel` bounds the search by
the queue's slots. -/
def State.drainQueue (s : State) (d q : Nat) : Nat → State
  | 0 => s
  | fuel + 1 =>
    if s.qf d q R.QUEUE_W1_SPACE == 0 && (s.queue (queueNo d q)).drain && s.hasHead d q then
      match s.headOf d q {} with
      | some h => (s.drainHead d q h).drainQueue d q fuel
      | none => s
    else s

/-- FAILED (R190): the close completes with the error and halts its caller; a member whose close is not taken has its caller
halted and its rest drained. -/
def State.failBracket (s : State) (g : Group) (err : Nat) : State :=
  let m := s.members g
  let s := s.moveSlots g C.ARY_SLOT_WASTED_REPLAY
  let s := s.each m fun s x => s.mergeAmax g x.1 x.2 false
  let s := s.each m fun s x =>
    (s.setCause x.1 g.ctx causeBit.bracketFailed).count (page x.1 B.NUM) C.NUM_BRACKETS_FAILED 1
  let s := match m.head? with
    | some (d, _) => s.numEvent d g.ctx 2 0 (wf g.words 2 16 16) (wf g.words 2 0 16) (wf g.words 2 32 1) err 0
    | none => s
  (s.each m fun s x =>
    let close := s.closeOf x.1 x.2
    let s := s.closeMember g x.1 x.2
    match close with
    | some c => s.fail c err 0
    | none =>
      let s := s.halt x.1 (s.callerOf x.1 x.2.queue)
      let s := s.setQueue (queueNo x.1 x.2.queue) { s.queue (queueNo x.1 x.2.queue) with drain := true }
      s.drainQueue x.1 x.2.queue (2 ^ s.qf x.1 x.2.queue R.QUEUE_W1_SIZE)).endGroup g

/-- The bracket that a die has open in a context. -/
def State.groupOf (s : State) (d ctx : Nat) : Option Group :=
  match (s.job d ctx).bracket with
  | some b => s.groups.find? fun g => g.id == b.id
  | none => none

/-- The floor combines the members of the bracket that a die has open, once all have reached their close (R187). -/
def State.bracketOutcome (s : State) (d ctx : Nat) : State :=
  match s.groupOf d ctx with
  | none => s
  | some g =>
    if ((openDies g.words).all (s.reached g)) && !((s.members g).any fun x => x.2.adding) then
      match s.outcomeOf g with
      | .commit => s.commitStart g
      | .replay => s.replayBracket g
      | .failed e => s.failBracket g e
    else s

/-- The number of a context. -/
def ctxNo : Ctx → Nat
  | .primary => 0
  | .cutIn => 1

/-- BRACKET_OUTCOME (R187). -/
def execBracketOutcome (d : Fin 4) (c : Ctx) (s : State) : Host.Outcome State Fault Refusal :=
  .next (s.bracketOutcome d.val (ctxNo c))

/-- A member's list stops while it runs: the destinations of the entries with a granule still to land are undefined, and its
held granules are not written (R188, R310). -/
def State.caddStop (s : State) (owner : Nat) (w : List Nat) : State :=
  let left := s.heldWrites.filter fun x => x.owner == some owner
  let s : State := { s with heldWrites := s.heldWrites.filter fun x => x.owner != some owner }
  match caddList w with
  | none => s
  | some (base, n) =>
    s.each (tabulate (fun i => s.words (base + 32 * i) 4) n) fun s e =>
      let dst := wf e 1 0 52
      let len := 4 * wf e 2 0 32
      if left.any fun x => decide (dst < x.addr + 64) && decide (x.addr < dst + len) then s.undefine dst len else s

/-- The commit-add list of a member is done when its last granule has landed; the commit finishes with the last list
(R188, R192). -/
def State.commitAddDone (s : State) (d ctx : Nat) : State :=
  match s.groupOf d ctx, (s.job d ctx).bracket with
  | some g, some b =>
    let waits := match s.closeOf d b with
      | some c => s.heldWrites.any fun w => w.owner == some c.id
      | none => false
    if b.adding && !b.added && !waits then
      (s.mapBracket d ctx fun b => { b with added := true }).commitMaybe g
    else s
  | _, _ => s

/-- COMMIT_ADD_DONE (R192). -/
def execCommitAddDone (d : Fin 4) (c : Ctx) (s : State) : Host.Outcome State Fault Refusal :=
  .next (s.commitAddDone d.val (ctxNo c))

end Sys2Proof.Machine
end

