-- ==== Sys2Proof/Machine/Vector.lean ====
section
/-! DEFINITION. Vector operations: the checks of a descriptor (R145–R147), arbitration and units (R148, R149, R163),
the row operations (R151–R157), and completion (R150). -/

namespace Sys2Proof.Machine

/-! Descriptor fields (R145). -/

def vKind (d : List Nat) : Nat := wf d 0 8 8
def vRows (d : List Nat) : Nat := wf d 2 32 32
def vCols (d : List Nat) : Nat := wf d 2 0 32
def vMask (d : List Nat) : Nat := wordAt d 1
def vRnd (d : List Nat) : Nat := wf d 0 28 2
def vInFmt (d : List Nat) : Fmt := (fmtOfCode (wf d 0 20 4)).getD .fp32
def vOutFmt (d : List Nat) : Fmt := (fmtOfCode (wf d 0 24 4)).getD .fp32
def vAux (d : List Nat) (i : Nat) : Nat := wf d (6 + i) 0 52
def vAuxPitch (d : List Nat) : Nat := wf d 13 32 32
def vTensorN (d : List Nat) : Nat := wf d 13 0 32
def vOutTensor (d : List Nat) : Nat := wf d 12 48 16

/-- Parameter Pn. -/
def vParam (d : List Nat) (n : Nat) : Nat := wf d (if n < 6 then 9 + n / 2 else 15) (32 * (n % 2)) 32

abbrev OpKind.KERNEL : Nat := 0
abbrev OpKind.EPILOGUE : Nat := 1
abbrev OpKind.SOFTMAX : Nat := 2
abbrev OpKind.RMSNORM : Nat := 3
abbrev OpKind.LAYERNORM : Nat := 4
abbrev OpKind.QUANT : Nat := 5
abbrev OpKind.ADAMW : Nat := 6
abbrev OpKind.ATTN_MERGE : Nat := 7
abbrev OpKind.XENT : Nat := 8

/-- Bits that the descriptor defines. -/
def vecMasks : List Nat :=
  [bitMask 39 20 + bitMask 15 0, bitMask 63 0, bitMask 63 0, addrMask, addrMask, bitMask 63 0, addrMask, addrMask,
   addrMask, bitMask 63 0, bitMask 63 0, bitMask 63 0, bitMask 63 16, bitMask 63 0, bitMask 63 0, bitMask 63 0]

/-- How an operation uses an auxiliary base (R146): absent, optional, required. -/
inductive AuxUse where
  | none | optional | required
deriving DecidableEq, Repr

/-- R146, with the bitmask of SOFTMAX required under MASK_KIND 2. -/
def auxUse (d : List Nat) (i : Nat) : AuxUse :=
  match vKind d, i with
  | 0, 0 => .required
  | 1, 0 => .optional
  | 2, 0 => if wf d 0 36 2 = 2 then .required else .optional
  | 2, 1 => .optional
  | 3, 0 => .optional
  | 3, 1 => .optional
  | 4, _ => .optional
  | 5, 0 => .required
  | 6, 0 => .required
  | 6, 1 => .required
  | 6, 2 => .optional
  | 7, 0 => .required
  | 7, 1 => .required
  | 8, 0 => .required
  | 8, 1 => .optional
  | _, _ => .none

/-- Whether an operation accepts its formats (R146); a reserved code is accepted by none (R35). -/
def fmtsOk (d : List Nat) : Bool :=
  let i := fmtOfCode (wf d 0 20 4)
  let o := fmtOfCode (wf d 0 24 4)
  match vKind d with
  | 0 => i.isSome && o.isSome
  | 1 => (i == some .fp32 || i == some .fp64) && (o == some .fp32 || o == some .bf16)
  | 2 | 3 | 4 => i == some .fp32 && (o == some .fp32 || o == some .bf16)
  | 5 => (i == some .fp32 || i == some .bf16) && (o.map isNarrow).getD false
  | _ => i == some .fp32 && o == some .fp32

/-- A region of an operation: its base, whether that is an ACC offset, its pitch, rows, bytes of a row, and whether
the operation writes it. -/
structure VecRegion where
  base    : Nat
  acc     : Bool
  pitch   : Nat
  rows    : Nat
  bytes   : Nat
  written : Bool
  /-- bytes from the base to the first element -/
  skip    : Nat
deriving DecidableEq, Repr

/-- The shift entries of a QUANT: rows and bytes of a row (R48). -/
def shiftShape (d : List Nat) : Nat × Nat :=
  if wf d 0 38 1 = 1 then (ceilDiv (vRows d) 32, rowBytes 4 (vCols d)) else (vRows d, rowBytes 4 (ceilDiv (vCols d) 32))

/-- Row and column of the region in its tensor (R145). -/
def vRow0 (d : List Nat) : Nat := wf d 14 32 32
def vCol0 (d : List Nat) : Nat := wf d 14 0 32

/-- Whether the region ends the rows of its tensor. -/
def endsRow (d : List Nat) : Bool := vCol0 d + vCols d == vTensorN d

/-- Bytes from the base of a QUANT's codes to the region's first (R43, R154). DEDUCED: of R70, by which regions share a
granule, the base is the tensor's (log entry 46). -/
def codeSkip (d : List Nat) : Nat := vRow0 d * wf d 5 32 32 + vCol0 d * fmtWidth (vOutFmt d) / 8

/-- Bytes from the base of the shift array to the entry of the region's first block (R48). -/
def shiftSkip (d : List Nat) : Nat :=
  if wf d 0 38 1 = 1 then vRow0 d / 32 * vAuxPitch d + vCol0 d / 2 else vRow0 d * vAuxPitch d + vCol0 d / 32 / 2

/-- The input region. Bits [51:26] of an ACC offset stand for nothing (DEDUCED, log entry 46). A KERNEL's IN_BASE is its code
address (R146), a device address whatever IN_SPACE says (DESIGN CHOICE, log entry 46). -/
def vIn (d : List Nat) : VecRegion :=
  if vKind d = OpKind.KERNEL then ⟨wf d 3 0 52, false, 0, 1, 8, false, 0⟩
  else ⟨if wf d 0 30 1 = 0 then wf d 3 0 26 else wf d 3 0 52, wf d 0 30 1 == 0, wf d 5 0 32, vRows d,
    rowBytes (fmtWidth (vInFmt d)) (vCols d), false, 0⟩

/-- The output region; one FP32 per row for XENT. The base of a QUANT is that of its tensor, any other that of the
region's first element (log entry 46). -/
def vOut (d : List Nat) : VecRegion :=
  let acc := wf d 0 31 1 == 0
  let base := if acc then wf d 4 0 26 else wf d 4 0 52
  if vKind d = OpKind.XENT then ⟨base, acc, 0, 1, 4 * vRows d, true, 0⟩
  else ⟨base, acc, wf d 5 32 32, vRows d, rowBytes (fmtWidth (vOutFmt d)) (vCols d), true,
    if vKind d = OpKind.QUANT then codeSkip d else 0⟩

/-- The auxiliary region of a base that is present and used (R146). -/
def vAuxRegion (d : List Nat) (i : Nat) : Option VecRegion :=
  let row : VecRegion := ⟨vAux d i, false, 0, 1, 4 * vCols d, false, 0⟩
  let per (n : Nat) (w : Bool) : VecRegion := ⟨vAux d i, false, 0, 1, n * vRows d, w, 0⟩
  let grid (n : Nat) : VecRegion := ⟨vAux d i, false, vAuxPitch d, vRows d, n * vCols d, true, 0⟩
  if vAux d i = 0 then none
  else match vKind d, i with
    | 0, 0 => some ⟨vAux d 0, false, 0, 1, 8, false, 0⟩
    | 1, 0 => some row
    | 2, 0 => if wf d 0 36 2 = 2 then some ⟨vAux d 0, false, vAuxPitch d, vRows d, rowBytes 1 (vCols d), false, 0⟩ else none
    | 2, 1 => some (per 4 true)
    | 3, 0 => some row
    | 3, 1 => some (per 4 true)
    | 4, 0 => some row
    | 4, 1 => some (per 8 true)
    | 4, 2 => some row
    | 5, 0 => some ⟨vAux d 0, false, vAuxPitch d, (shiftShape d).1, (shiftShape d).2, true, shiftSkip d⟩
    | 6, 0 => some (grid 4)
    | 6, 1 => some (grid 4)
    | 6, 2 => some (grid 2)
    | 7, 0 => some (per 4 true)
    | 7, 1 => some (per 4 false)
    | 8, 0 => some (per 4 false)
    | 8, 1 => some (per 4 true)
    | _, _ => none

/-- Every region of an operation. -/
def vecRegions (d : List Nat) : List VecRegion :=
  (if vKind d = OpKind.KERNEL then [vIn d] else [vIn d, vOut d])
    ++ (List.range 3).filterMap (vAuxRegion d)

/-- The device address of a region for a die. -/
def VecRegion.addr (r : VecRegion) (die : Nat) : Nat := (if r.acc then accAddr die r.base else r.base) + r.skip

/-- Check 6 of R147 on every base and pitch of the descriptor. -/
def vecBases (d : List Nat) : Bool :=
  [wf d 3 0 52, wf d 4 0 52, vAux d 0, vAux d 1, vAux d 2, wf d 5 0 32, wf d 5 32 32, vAuxPitch d].all fun a => a % 64 == 0

/-- Check 6 of R147 for one region (R140, R283). -/
def State.vecPlaced (s : State) (die ctx : Nat) (r : VecRegion) : Bool :=
  let len := regionLen r.pitch r.rows r.bytes
  let a := r.addr die
  len == 0
    || (!(r.acc && decide (0x3000000 < r.base + len)) && inMap a len && s.inPartitions die ctx a len
        && (match accDie a with
            | some x => x == die
            | none => true))

/-- Usable units of a die. -/
def State.unitsUsable (s : State) (d : Nat) : Nat := s.fld (page d B.VEC) R.VEC_UNIT_USABLE_USABLE

/-- Busy units of a die. -/
def State.unitsBusy (s : State) (d : Nat) : Nat := s.fld (page d B.VEC) R.VEC_UNIT_BUSY_BUSY

/-- Check 3 of R147 (R51, R63). R51 gives no stochastic rounding into FP32, so a row operation with FP32 output refuses
RND = 1; a KERNEL names no tensor region, and takes it whatever ROW0, ROWS and TENSOR_N hold (DESIGN CHOICE, log entry 46). -/
def rndOk (d : List Nat) : Bool :=
  let k := vKind d
  let sr := k == OpKind.QUANT || (decide (1 ≤ k) && decide (k ≤ 4) && vOutFmt d == .bf16)
  let tiles := ceilDiv (wf d 14 32 32 + vRows d) 32 * ceilDiv (vTensorN d) 32
  vRnd d == 0 || (vRnd d == 1 && (k == OpKind.KERNEL || (sr && decide (tiles < 2 ^ 38))))

/-- Check 4 of R147. ε is the parameter that R146 names: P6 of ADAMW need only be finite (DEDUCED, log entry 46). -/
def paramsOk (d : List Nat) : Bool :=
  match vKind d with
  | 1 => wf d 0 39 1 == 1 || (scaleValid (vParam d 0) && scaleValid (vParam d 1))
  | 2 | 3 | 4 => scaleValid (vParam d 0)
  | 6 => (List.range 8).all fun n => finite32 (vParam d n)
  | _ => true

/-- The coarse scales that an operation reads at dispatch: Ca and Cw of an EPILOGUE, C of a QUANT (R47, R151, R154). -/
def State.vecScales (s : State) (c : Cmd) : Except (Nat × Nat) (List Nat) :=
  let d := c.desc
  match vKind d with
  | 1 =>
    if wf d 0 39 1 = 0 then .ok [vParam d 0, vParam d 1]
    else match s.coarse c.die c.context (wf d 12 16 16) c.level 5, s.coarse c.die c.context (wf d 12 32 16) c.level 5 with
      | .error e, _ => .error e
      | _, .error e => .error e
      | .ok a, .ok b => .ok [a, b]
  | 5 => (s.coarse c.die c.context (vOutTensor d) c.level 2).map fun x => [x]
  | _ => .ok []

/-- R178: OUT_FMT of a QUANT is the narrow format of its tensor at the level. -/
def State.quantFmt (s : State) (c : Cmd) : Option (Nat × Nat) :=
  if vKind c.desc ≠ OpKind.QUANT then none
  else match s.fmtAt c.die c.context (vOutTensor c.desc) c.level 2 with
    | .error e => some e
    | .ok f => if isNarrow f && f == vOutFmt c.desc then none else some (Err.FORMAT_INVALID, 2)

/-- Check 7 of R147 (R69). -/
def regionAligned (d : List Nat) : Bool :=
  let c1 := wf d 14 0 32 + vCols d
  vKind d != OpKind.QUANT
    || (wf d 14 32 32 % 64 == 0 && wf d 14 0 32 % 64 == 0 && (c1 % 64 == 0 || c1 == vTensorN d))

/-- What a VECTOR_OP reads of the scale tables at dispatch. -/
def State.vecEntries (s : State) (c : Cmd) : List (Nat × Nat) :=
  let d := c.desc
  if vKind d = OpKind.QUANT then s.entryReads c.die c.context (vOutTensor d)
  else if vKind d = OpKind.EPILOGUE ∧ wf d 0 39 1 = 1 then
    s.entryReads c.die c.context (wf d 12 16 16) ++ s.entryReads c.die c.context (wf d 12 32 16)
  else []

/-- The refusals of a VECTOR_OP whose descriptor was read (R183, R203, R147, R430). No rule orders BRACKET_INVALID and
GATE_CLOSED of an ADAMW among the checks of R147: they stand before check 1 (DESIGN CHOICE, log entry 46). -/
def State.vecCheck (s : State) (c : Cmd) : Cmd × Option (Nat × Nat) :=
  let d := c.desc
  let k := vKind d
  let usable := s.unitsUsable c.die
  let mask := vMask d
  let c := { c with salt := s.saltOf c.die c.context }
  let auxBad := (List.range 3).any fun i =>
    (auxUse d i == .none && vAux d i != 0) || (auxUse d i == .required && vAux d i == 0)
  if k = OpKind.ADAMW ∧ c.attempt.isSome then (c, some (Err.BRACKET_INVALID, 0))
  else if k = OpKind.ADAMW ∧ !c.opt then (c, some (Err.GATE_CLOSED, 0))
  else if wf d 0 0 8 ≠ 2 || badBits vecMasks d || decide (9 ≤ k) || decide (6 ≤ wf d 0 32 4) || wf d 0 36 2 == 3
      || mask == 0 || decide (2 ^ 24 < vCols d) || auxBad || (k == OpKind.QUANT && wf d 0 31 1 == 0) then
    (c, some (Err.DESC_INVALID, 1))
  else if !fmtsOk d then (c, some (Err.FORMAT_INVALID, 2))
  else
  let c := { c with reads := s.vecEntries c }
  match s.quantFmt c with
    | some e => (c, some e)
    | none =>
      if !rndOk d then (c, some (Err.RND_INVALID, 3))
      else if !paramsOk d then (c, some (Err.PARAM_INVALID, 4))
      else match s.vecScales c with
        | .error e => (c, some e)
        | .ok l =>
          let c := { c with scales := l }
          if !(vecBases d && (vecRegions d).all (s.vecPlaced c.die c.context)) then (c, some (Err.ADDR_INVALID, 6))
          else if !regionAligned d then (c, some (Err.REGION_ALIGN, 7))
          else if usable &&& mask = 0 ∨ (k = OpKind.KERNEL ∧ usable &&& mask ≠ mask) then
            (c, some (Err.UNITS_UNAVAILABLE, 0))
          else if c.context = 1 ∧ k ≠ OpKind.KERNEL
              ∧ s.fld (page c.die B.JCX) R.JCX_CUT_LIMIT_VEC_KELEMS * 1024 < vRows d * vCols d then
            (c, some (Err.CUT_TOO_LARGE, 2))
          else if c.context = 1 ∧ k = OpKind.KERNEL ∧ !s.on (page c.die B.JCX) R.JCX_CUT_LIMIT_KERNEL_EN then
            (c, some (Err.CUT_TOO_LARGE, 3))
          else (c, none)

/-! Dispatch and arbitration. -/

/-- A VECTOR_OP enters its arbiter; a primary request withdraws the waiting cut-in ones (R281). -/
def State.vectorOp (s : State) (c : Cmd) : State :=
  let s := s.mapCmd c.id fun x => { x with stage := .vectorWait }
  if c.context = 0 then
    let gone (x : Cmd) : Bool := x.stage == .vectorWait && x.context == 1 && x.die == c.die
    { s with cmds := mapIf gone (fun x => { x with waited := 0, promoted := false }) s.cmds }
  else s

/-- VECTOR_OP (R145, R147). -/
def execVectorOp (d : Fin 4) (q : Fin 64) (ext : HostSlot) (s : State) : Host.Outcome State Fault Refusal :=
  .next (s.v2 d q ext Opc.VECTOR_OP (prepDesc vOutTensor State.vecCheck) State.vectorOp)

/-- A legacy VECTOR (R277). -/
def execV1Vector (d : Fin 4) (q : Fin 64) (ext : HostSlot) (s : State) : Host.Outcome State Fault Refusal :=
  .next (s.v1 d q ext 3 (prepDesc vOutTensor State.vecCheck) State.vectorOp)

/-- The requests at the vector dispatch arbiter of a die, in order of arrival (R281). -/
def State.vectorRequests (s : State) (d : Nat) : List Cmd :=
  let all := s.cmds.filter fun c => c.stage == .vectorWait && c.die == d
  if all.any fun c => c.context == 0 then all.filter fun c => c.context == 0 else all

/-- The class of a request after promotion (R280). -/
def vecClass (c : Cmd) : Nat := if c.promoted then 0 else c.cls

/-- Whether a request can start: its usable units are free, and no earlier request of its class or a higher one waits
for one of them (R149). -/
def State.vectorReady (s : State) (d : Nat) (c : Cmd) : Bool :=
  (vMask c.desc &&& s.unitsUsable d &&& s.unitsBusy d) == 0
    && !((s.vectorRequests d).any fun x =>
          decide (x.id < c.id) && decide (vecClass x ≤ vecClass c)
            && (vMask x.desc &&& vMask c.desc &&& s.unitsUsable d) != 0)

/-- The operation that the vector dispatch arbiter grants next (R278); none once the die has lost the floor (R312). -/
def State.vectorNext (s : State) (d : Nat) : Option Cmd :=
  let l := (s.vectorRequests d).filter fun c => !s.floorLost d && s.vectorReady d c
  [0, 1, 2].findSome? fun k => l.find? fun c => vecClass c == k

/-- The units of a mask, in increasing index. -/
def unitList (mask : Nat) : List Nat := (List.range 64).filter (bitOn mask)

/-- The granted operation takes its usable units. -/
def State.takeUnits (s : State) (c : Cmd) : State :=
  let d := c.die
  let units := vMask c.desc &&& s.unitsUsable d
  let aged := (s.vectorRequests d).filterMap fun x => if x.cls = 2 ∧ x.id ≠ c.id then some x.id else none
  let s := { s with cmds := mapIf (fun x => aged.contains x.id) (fun x => { x with waited := x.waited + 1 }) s.cmds }
  let s := s.put (page d B.VEC) R.VEC_UNIT_BUSY_BUSY (s.unitsBusy d ||| units)
  (s.mapCmd c.id fun x => { x with stage := .vectorRun, units := unitList units }).stampCmd c 1 (d * 256 + 1)

/-! Row operations on FP32 codes. -/

/-- One level of R138: pairs of neighbours. -/
def pairUp (f : Nat → Nat → Nat) : List Nat → List Nat
  | a :: b :: t => f a b :: pairUp f t
  | l => l

/-- The tree of R138 over 32 lanes, lanes beyond the list holding `pad`. -/
def tree32 (f : Nat → Nat → Nat) (pad : Nat) (l : List Nat) : Nat :=
  ((forUpto (fun _ l => pairUp f l) 5 (tabulate (fun i => l.getD i pad) 32)).head?).getD pad

/-- A list in pieces of 32. -/
def lanes32 (l : List Nat) : List (List Nat) := chunks 32 (l.length / 32 + 1) l

/-- The ordered sum of R139. -/
def orderedSum (l : List Nat) : Nat := (lanes32 l).foldl (fun a c => fadd .fp32 a (tree32 (fadd .fp32) 0 c)) 0

/-- The ordered MAX of R139, R152: MAX in place of addition, from −∞. -/
def orderedMax (l : List Nat) : Nat :=
  (lanes32 l).foldl (fun a c => fmax .fp32 a (tree32 (fmax .fp32) 0xFF800000 c)) 0xFF800000

/-- Canonical FP32 NaN, ±∞ and 1. -/
abbrev nan32 : Nat := 0x7FC00000
abbrev inf32 : Nat := 0x7F800000
abbrev ninf32 : Nat := 0xFF800000
abbrev one32 : Nat := 0x3F800000

/-- Whether an FP32 code is a NaN. -/
def isNan32 (c : Nat) : Bool := vnan (decode .fp32 c)

/-- The FP32 code of a natural number. -/
def nat32 (n : Nat) : Nat := packRound .fp32 .nearest false n 1

/-- What one row of an operation gives: the FP32 row, its statistics, the branch of R152 (1 masked, 2 infinite,
3 NaN), and the counts of FMAs and function elements. -/
structure RowOut where
  y    : List Nat
  stat : List Nat := []
  mark : Nat := 0
  fma  : Nat := 0
  func : Nat := 0
deriving DecidableEq, Repr

/-- The procedure of R152 on the products z; `none` marks a masked column. The +∞ branch evaluates one division for the
row (DESIGN CHOICE, log entry 46). -/
def softRow (z : List (Option Nat)) : RowOut :=
  let v := z.filterMap id
  let k := (v.filter fun c => c == inf32).length
  if v.any isNan32 then ⟨z.map fun _ => nan32, [nan32], 3, 0, 0⟩
  else if 0 < k then
    ⟨z.map fun c => if c = some inf32 then fdiv .fp32 one32 (nat32 k) else 0, [inf32], 2, 0, 1⟩
  else if v.all fun c => c == ninf32 then ⟨z.map fun _ => 0, [ninf32], 1, 0, 0⟩
  else
    let m := orderedMax (z.map fun c => c.getD ninf32)
    let e := z.map fun c => match c with
      | some x => fnEval .exp (fsub .fp32 x m)
      | none => 0
    let sum := orderedSum e
    ⟨e.map fun x => fdiv .fp32 x sum, [fadd .fp32 m (fnEval .log sum)], 0, 0, v.length + z.length + 1⟩

/-- RMSNORM of a row (R153). -/
def rmsRow (x : List Nat) (gain : Option (List Nat)) (eps : Nat) : RowOut :=
  if x.any fun c => !finite32 c then ⟨x.map fun _ => nan32, [nan32], 0, 0, 0⟩
  else
    let ss := orderedSum (x.map fun c => fmul .fp32 c c)
    let r := fnEval .rsqrt (fadd .fp32 (fdiv .fp32 ss (nat32 x.length)) eps)
    let y := x.map fun c => fmul .fp32 c r
    ⟨match gain with
      | some g => List.zipWith (fmul .fp32) y g
      | none => y, [r], 0, 0, 2⟩

/-- LAYERNORM of a row (R153). -/
def layerRow (x : List Nat) (gain bias : Option (List Nat)) (eps : Nat) : RowOut :=
  if x.any fun c => !finite32 c then ⟨x.map fun _ => nan32, [nan32, nan32], 0, 0, 0⟩
  else
    let n := nat32 x.length
    let mu := fdiv .fp32 (orderedSum x) n
    let d := x.map fun c => fsub .fp32 c mu
    let va := fdiv .fp32 (orderedSum (d.map fun c => fmul .fp32 c c)) n
    let r := fnEval .rsqrt (fadd .fp32 va eps)
    let y := d.map fun c => fmul .fp32 c r
    let out := match gain, bias with
      | some g, some b => List.zipWith (fun (p : Nat × Nat) c => ffma .fp32 p.1 p.2 c) (y.zip g) b
      | some g, none => List.zipWith (fmul .fp32) y g
      | none, some b => List.zipWith (fadd .fp32) y b
      | none, none => y
    ⟨out, [mu, r], 0, if gain.isSome && bias.isSome then x.length else 0, 3⟩

/-- ACT of R151 on a value already rounded to FP32; RELU of a NaN is the canonical NaN, of a value not above zero
+0. -/
def actOf (act v : Nat) : Nat :=
  match act with
  | 1 => if isNan32 v then nan32 else if vlt (.fin false 0 0) (decode .fp32 v) then v else 0
  | 2 => fnEval .gelu v
  | 3 => fnEval .silu v
  | 4 => fnEval .tanh v
  | 5 => fnEval .sigmoid v
  | _ => v

/-- EPILOGUE of a row (R151): v is x · κ + bias rounded once. With a bias and FP32 input that is an FP32 FMA. -/
def epilogueRow (f : Fmt) (x : List Val) (kappa : Nat) (bias : Option (List Nat)) (act : Nat) : RowOut :=
  let k := decode .fp32 kappa
  let v := match bias with
    | some b => List.zipWith (fun a c => packVal .fp32 .nearest (vadd (vmul a k) (decode .fp32 c))) x b
    | none => x.map fun a => packVal .fp32 .nearest (vmul a k)
  ⟨v.map (actOf act), [], 0, if bias.isSome && f == .fp32 then x.length else 0, if 2 ≤ act then x.length else 0⟩

/-- ADAMW of one element (R155): m', v', w'. -/
def adamwElem (p : Nat → Nat) (g w m v : Nat) : Nat × Nat × Nat :=
  let m' := ffma .fp32 (p 0) m (fmul .fp32 (p 1) g)
  let v' := ffma .fp32 (p 2) v (fmul .fp32 (p 3) (fmul .fp32 g g))
  let q := fadd .fp32 (fnEval .sqrt (fmul .fp32 v' (p 5))) (p 6)
  let u := fdiv .fp32 (fmul .fp32 (p 4) m') q
  (m', v', fsub .fp32 (ffma .fp32 (fneg .fp32 (p 7)) w w) u)

/-- The merge of a row (R156): the new O and ℓ, none where rule 3 leaves the row unchanged. -/
def mergeRow (o1 o2 : List Nat) (l1 l2 : Nat) : Option RowOut :=
  let one (f : Nat) (l : Nat) : Option RowOut := some ⟨o1.map fun _ => f, [l], 0, 0, 0⟩
  if isNan32 l1 || isNan32 l2 || (l1 == inf32 && l2 == inf32) then one nan32 nan32
  else if l1 = ninf32 ∧ l2 = ninf32 then one 0 ninf32
  else if l2 = ninf32 ∨ l1 = inf32 then none
  else if l1 = ninf32 ∨ l2 = inf32 then some ⟨o2, [l2], 0, 0, 0⟩
  else
    let m := fmax .fp32 l1 l2
    let sum := fadd .fp32 (fnEval .exp (fsub .fp32 l1 m)) (fnEval .exp (fsub .fp32 l2 m))
    let l := fadd .fp32 m (fnEval .log sum)
    let a1 := fnEval .exp (fsub .fp32 l1 l)
    let a2 := fnEval .exp (fsub .fp32 l2 l)
    some ⟨List.zipWith (fun x y => ffma .fp32 x a1 (fmul .fp32 y a2)) o1 o2, [l], 0, o1.length, 5⟩

/-! Row operations on memory. -/

/-- The codes of a row of a region. -/
def State.rowCodes (s : State) (a w n : Nat) : List Nat := tabulate (fun c => s.elem a 0 w 0 c) n

/-- An optional row vector of FP32. -/
def State.rowVector (s : State) (d : List Nat) (i : Nat) : Option (List Nat) :=
  if vAux d i = 0 then none else some (s.rowCodes (vAux d i) 32 (vCols d))

/-- The draw of an element of the region for tensor OUT_TENSOR (R61, R62); free in a tensor whose true row extent reaches
the limit of R63 (log entry 13). -/
def vecDraw (c : Cmd) (row col : Nat) : Nat :=
  let d := c.desc
  let t := tileOf (vTensorN d) (vRow0 d + row) (vCol0 d + col)
  if Config.hugeTensor c.context (vOutTensor d) c.step then Config.bigTensorDraw c.id (1024 * t.1 + t.2) % 65536
  else srDraw c.salt (c.step % 2 ^ 32) (vOutTensor d) t.1 t.2

/-- The rounding of an element of the region. -/
def vecRound (c : Cmd) (row col : Nat) : Rounding :=
  if vRnd c.desc = 1 then .stochastic (vecDraw c row col) else .nearest

/-- The codes of a final output row (R51, R58). -/
def outCodes (c : Cmd) (row : Nat) (y : List Nat) : List Nat :=
  if vOutFmt c.desc = .bf16 then
    tabulate (fun k => convert .fp32 .bf16 (vecRound c row k) (y.getD k 0)) y.length
  else y

/-- A row as its length and whole granules: the bytes beyond it are written as zero (R43, R142). -/
def wholeGranules (l : List Byte) : Nat × List Byte := (l.length, l ++ List.replicate ((64 - l.length % 64) % 64) 0)

/-- Bytes that start `first` bytes into a row, with the padding that follows up to the pitch where the region ends its
tensor's rows (R43; log entry 46). -/
def padRow (d : List Nat) (first pitch : Nat) (b : List Byte) : List Byte :=
  if endsRow d then b ++ List.replicate (pitch - first - b.length) 0 else b

/-- A row of whole granules of elements of width `w`, and its padding. -/
def wideRow (d : List Nat) (w pitch : Nat) (b : List Byte) : Nat × List Byte :=
  (b.length, padRow d (vCol0 d * w / 8) pitch (wholeGranules b).2)

/-- What an operation writes and counts. -/
structure VecEffect where
  /-- address, bytes before the padding, bytes written -/
  stores  : List (Nat × Nat × List Byte) := []
  /-- a store that R144 or R57 counts as non-finite -/
  bad     : Bool := false
  masked  : Nat := 0
  infs    : Nat := 0
  nans    : Nat := 0
  ignored : Nat := 0
  invalid : Nat := 0
  ovf     : Nat := 0
  nonfin  : Nat := 0
  /-- FMAs and function elements by row -/
  fma     : List Nat := []
  func    : List Nat := []
deriving DecidableEq, Repr

/-- Add a row of codes of a format to an effect; `exempt` is the −∞ of R144 that sets nothing. -/
def VecEffect.store (x : VecEffect) (a : Nat) (f : Fmt) (codes : List Nat) (exempt : Bool) : VecEffect :=
  { x with
    stores := x.stores ++ [(a, wholeGranules (elemBytes (fmtWidth f) codes))]
    bad := x.bad || codes.any fun c => nonFiniteStore f c && !(exempt && c == ninf32) }

/-- Add a row of a two-dimensional array of a pitch to an effect, with its padding. -/
def VecEffect.storeRow (x : VecEffect) (d : List Nat) (a pitch : Nat) (f : Fmt) (codes : List Nat) : VecEffect :=
  { x with
    stores := x.stores ++ [(a, wideRow d (fmtWidth f) pitch (elemBytes (fmtWidth f) codes))]
    bad := x.bad || codes.any (nonFiniteStore f) }

/-- Count the branch and the work of a row. -/
def VecEffect.row (x : VecEffect) (r : RowOut) : VecEffect :=
  { x with
    masked := x.masked + (if r.mark = 1 then 1 else 0), infs := x.infs + (if r.mark = 2 then 1 else 0)
    nans := x.nans + (if r.mark = 3 then 1 else 0), fma := x.fma ++ [r.fma], func := x.func ++ [r.func] }

/-- Address of row `r` of a region. -/
def VecRegion.rowAddr (g : VecRegion) (die r : Nat) : Nat := g.addr die + r * g.pitch

/-- The FP32 codes of an input row. -/
def State.inRow (s : State) (c : Cmd) (r : Nat) : List Nat :=
  s.rowCodes ((vIn c.desc).rowAddr c.die r) (fmtWidth (vInFmt c.desc)) (vCols c.desc)

/-- An operation that maps each row to one output row and per-row statistics. -/
def State.rowsEffect (c : Cmd) (f : Nat → RowOut) (stats : Bool) (exempt : Bool) : VecEffect :=
  let d := c.desc
  let outs := tabulate f (vRows d)
  let x := forUpto (fun r (x : VecEffect) =>
    let o := outs.getD r ⟨[], [], 0, 0, 0⟩
    (x.row o).storeRow d ((vOut d).rowAddr c.die r) (vOut d).pitch (vOutFmt d) (outCodes c r o.y)) (vRows d) {}
  if stats ∧ vAux d 1 ≠ 0 then x.store (vAux d 1) .fp32 (outs.flatMap RowOut.stat) exempt else x

/-- The columns of a row that SOFTMAX keeps (R152). -/
def State.keeps (s : State) (d : List Nat) (r col : Nat) : Bool :=
  match wf d 0 36 2 with
  | 1 => decide ((col : Int) ≤ (r : Int) + signed 32 (vParam d 1))
  | 2 => s.elem (vAux d 0) (vAuxPitch d) 1 r col == 1
  | _ => true

/-- SOFTMAX (R152). -/
def State.softmaxEffect (s : State) (c : Cmd) : VecEffect :=
  let d := c.desc
  State.rowsEffect c (fun r =>
    let x := s.inRow c r
    softRow (tabulate (fun k => if s.keeps d r k then some (fmul .fp32 (x.getD k 0) (vParam d 0)) else none) (vCols d)))
    true true

/-- RMSNORM (R153). -/
def State.rmsnormEffect (s : State) (c : Cmd) : VecEffect :=
  State.rowsEffect c (fun r => rmsRow (s.inRow c r) (s.rowVector c.desc 0) (vParam c.desc 0)) true false

/-- LAYERNORM (R153). -/
def State.layernormEffect (s : State) (c : Cmd) : VecEffect :=
  State.rowsEffect c (fun r => layerRow (s.inRow c r) (s.rowVector c.desc 0) (s.rowVector c.desc 2) (vParam c.desc 0))
    true false

/-- EPILOGUE (R151). -/
def State.epilogueEffect (s : State) (c : Cmd) : VecEffect :=
  let d := c.desc
  let kappa := fmul .fp32 (c.scales.getD 0 one32) (c.scales.getD 1 one32)
  State.rowsEffect c (fun r =>
    epilogueRow (vInFmt d) ((s.inRow c r).map (decode (vInFmt d))) kappa (s.rowVector d 0) (wf d 0 32 4)) false false

/-- XENT (R157). It evaluates the log-sum-exp of R152 and none of its y. -/
def State.xentEffect (s : State) (c : Cmd) : VecEffect :=
  let d := c.desc
  let n := vCols d
  let rows := tabulate (fun r =>
    let x := s.inRow c r
    let o := softRow (x.map fun v => some (fmul .fp32 v one32))
    let lse := o.stat.getD 0 0
    let label := s.load (vAux d 0 + 4 * r) 4
    let loss := if label = 0xFFFFFFFF then 0 else if n ≤ label then nan32 else fsub .fp32 lse (x.getD label 0)
    (o, lse, label, loss)) (vRows d)
  let x := rows.foldl (fun (x : VecEffect) r =>
    let x := x.row { r.1 with func := if r.1.mark = 0 then n + 1 else 0 }
    { x with
      ignored := x.ignored + (if r.2.2.1 = 0xFFFFFFFF then 1 else 0)
      invalid := x.invalid + (if r.2.2.1 ≠ 0xFFFFFFFF ∧ n ≤ r.2.2.1 then 1 else 0) }) {}
  let x := x.store ((vOut d).addr c.die) .fp32 (rows.map fun r => r.2.2.2) false
  if vAux d 1 ≠ 0 then x.store (vAux d 1) .fp32 (rows.map fun r => r.2.1) false else x

/-- ADAMW (R155). -/
def State.adamwEffect (s : State) (c : Cmd) : VecEffect :=
  let d := c.desc
  forUpto (fun r (x : VecEffect) =>
    let g := s.inRow c r
    let w := s.rowCodes ((vOut d).rowAddr c.die r) 32 (vCols d)
    let m := s.rowCodes (vAux d 0 + r * vAuxPitch d) 32 (vCols d)
    let v := s.rowCodes (vAux d 1 + r * vAuxPitch d) 32 (vCols d)
    let out := tabulate (fun k => adamwElem (vParam d) (g.getD k 0) (w.getD k 0) (m.getD k 0) (v.getD k 0)) (vCols d)
    let x := x.row ⟨[], [], 0, 3 * vCols d, 2 * vCols d⟩
    let x := x.storeRow d (vAux d 0 + r * vAuxPitch d) (vAuxPitch d) .fp32 (out.map Prod.fst)
    let x := x.storeRow d (vAux d 1 + r * vAuxPitch d) (vAuxPitch d) .fp32 (out.map fun o => o.2.1)
    let x := x.storeRow d ((vOut d).rowAddr c.die r) (vOut d).pitch .fp32 (out.map fun o => o.2.2)
    if vAux d 2 = 0 then x
    else x.storeRow d (vAux d 2 + r * vAuxPitch d) (vAuxPitch d) .bf16
      (out.map fun o => convert .fp32 .bf16 .nearest o.2.2))
    (vRows d) {}

/-- ATTN_MERGE (R156). -/
def State.mergeEffect (s : State) (c : Cmd) : VecEffect :=
  let d := c.desc
  let rows := tabulate (fun r =>
    let l1 := s.load (vAux d 0 + 4 * r) 4
    (l1, mergeRow (s.rowCodes ((vOut d).rowAddr c.die r) 32 (vCols d)) (s.inRow c r) l1 (s.load (vAux d 1 + 4 * r) 4)))
    (vRows d)
  let x := forUpto (fun r (x : VecEffect) =>
    match (rows.getD r (0, none)).2 with
    | none => x.row ⟨[], [], 0, 0, 0⟩
    | some o =>
      let x := (x.row o).storeRow d ((vOut d).rowAddr c.die r) (vOut d).pitch .fp32 o.y
      { x with bad := x.bad || o.stat.any fun l => nonFiniteStore .fp32 l && l != ninf32 }) (vRows d) {}
  let ls := rows.map fun r => (r.2.map fun o => o.stat.getD 0 0).getD r.1
  if rows.all fun r => r.2.isNone then x
  else { x with stores := x.stores ++ [(vAux d 0, wholeGranules (elemBytes 32 ls))] }

/-! QUANT (R154). -/

/-- The blocks of a region by rows and columns: the fine shift of the block that holds an element (R44, R56). -/
def quantShift (d : List Nat) (cs : Val) (x : Nat → Nat → Val) (r col : Nat) : Nat :=
  let block := if wf d 0 38 1 = 1 then
      (List.range (min 32 (vRows d - r / 32 * 32))).map fun i => x (r / 32 * 32 + i) col
    else (List.range (min 32 (vCols d - col / 32 * 32))).map fun i => x r (col / 32 * 32 + i)
  fineShift (vOutFmt d) block cs

/-- The codes, shifts and counts of a QUANT, and the region's amax. -/
def State.quantEffect (s : State) (c : Cmd) : VecEffect × Nat :=
  let d := c.desc
  let f := vOutFmt d
  let w := fmtWidth f
  let cs := decode .fp32 (c.scales.getD 0 one32)
  let xs := tabulate (fun r => (s.inRow c r).map (decode (vInFmt d))) (vRows d)
  let x (r col : Nat) : Val := (xs.getD r []).getD col (.fin false 0 0)
  let q := tabulate (fun r =>
    tabulate (fun k => quantElem f (vecRound c r k) (x r k) (quantShift d cs x r k) cs) (vCols d)) (vRows d)
  let shape := shiftShape d
  let shifts := tabulate (fun i =>
    if wf d 0 38 1 = 1 then tabulate (fun k => quantShift d cs x (32 * i) k) (vCols d)
    else tabulate (fun j => quantShift d cs x i (32 * j)) (ceilDiv (vCols d) 32)) shape.1
  let row (a first pitch : Nat) (b : List Byte) : Nat × Nat × List Byte := (a, b.length, padRow d first pitch b)
  let first := if wf d 0 38 1 = 1 then vCol0 d / 2 else vCol0 d / 64
  let stores := tabulate (fun r => row ((vOut d).rowAddr c.die r) (vCol0 d * w / 8) (vOut d).pitch
      (elemBytes w ((q.getD r []).map Prod.fst))) (vRows d)
  let sstores := tabulate (fun i => row (vAux d 0 + shiftSkip d + i * vAuxPitch d) first (vAuxPitch d)
      (elemBytes 4 (shifts.getD i []))) shape.1
  let all := q.flatMap id
  let nonfin := (all.filter fun e => e.2.2).length
  ({ stores := stores ++ sstores, bad := nonfin != 0, ovf := (all.filter fun e => e.2.1).length, nonfin := nonfin },
    packVal .fp32 .nearest (amaxOf (xs.flatMap id)))

/-- Add the overflows of a QUANT to its attempt (R187). -/
def State.attemptOverflow (s : State) (c : Cmd) (n : Nat) : State :=
  match c.attempt with
  | none => s
  | some id =>
    if n = 0 then s
    else s.mapBracket c.die c.context fun b =>
      if b.id = id then
        { b with overflow := Table.set (fun _ => 0) b.overflow c.tensor (Table.get (fun _ => 0) b.overflow c.tensor + n) }
      else b

/-! Running and completing. -/

/-- Whether an operand of a row operation holds a poisoned granule; a masked element is never read (R152, R229). -/
def State.vecPoison (s : State) (c : Cmd) : Bool :=
  let d := c.desc
  let k := vKind d
  let inBad := if k = OpKind.SOFTMAX ∧ wf d 0 36 2 ≠ 0 then
      (List.range (vRows d)).any fun r => (List.range (vCols d)).any fun col =>
        s.keeps d r col && s.badRange ((vIn d).rowAddr c.die r + 4 * col) 4
    else s.badRows ((vIn d).addr c.die) (vIn d).pitch (vIn d).rows (vIn d).bytes
  let region (r : VecRegion) : Bool := s.badRows (r.addr c.die) r.pitch r.rows r.bytes
  let rewritten := k == OpKind.ADAMW || k == OpKind.ATTN_MERGE
  inBad || (rewritten && s.badRows ((vOut d).addr c.die) (vOut d).pitch (vOut d).rows (vOut d).bytes)
    || (List.range 3).any fun i =>
        match vAuxRegion d i with
        | some r => (!r.written || (rewritten && !(k == OpKind.ADAMW && i == 2))) && region r
        | none => false

/-- Count the reads of a row operation. -/
def State.vecReads (s : State) (c : Cmd) : State :=
  let d := c.desc
  let k := vKind d
  let rewritten := k == OpKind.ADAMW || k == OpKind.ATTN_MERGE
  let regions := [vIn d] ++ (if rewritten then [vOut d] else [])
    ++ (List.range 3).filterMap fun i => (vAuxRegion d i).filter fun r =>
        !r.written || (rewritten && !(k == OpKind.ADAMW && i == 2))
  s.each regions fun s r => s.countRows (.vector c.die) (r.addr c.die) r.pitch r.rows r.bytes

/-- The unit of an element: by row block or by tile (R148). -/
def unitOf (c : Cmd) (units : List Nat) (r col : Nat) : Nat :=
  let k := vKind c.desc
  let i := if k = 2 ∨ k = 3 ∨ k = 4 ∨ k = 8 then r / 32 else r / 32 * ceilDiv (vCols c.desc) 32 + col / 32
  units.getD (i % units.length) 0

/-- The units that hold a tile of a row. -/
def rowHolders (c : Cmd) (units : List Nat) (r : Nat) : List Nat :=
  ((List.range (ceilDiv (vCols c.desc) 32)).map fun t => unitOf c units r (32 * t)).foldl (fun l u => setInsert u l) []

/-- Count the FMAs and function elements of a row operation, by unit and for the die (R170, R599). A row's count is
dealt over its columns; what does not divide stands with the first tile. Each unit that holds a tile of a merged row
computes its ℓ (R156). -/
def State.vecWork (s : State) (c : Cmd) (units : List Nat) (x : VecEffect) : State :=
  let d := c.desc
  let vec := page c.die B.VEC
  let pmu := page c.die B.PMU
  let n := vCols d
  let deal (s : State) (f : Nat → Fld) (r total : Nat) : State :=
    let tiles := ceilDiv n 32
    let each := if n = 0 then 0 else total / n
    s.each (List.range tiles) fun s t =>
      let k := each * min 32 (n - 32 * t) + (if t = 0 then total - each * n else 0)
      s.count pmu (f (unitOf c units r (32 * t))) k
  let s := s.count vec C.VEC_FMA_FP32 x.fma.sum
  let merge := vKind d == OpKind.ATTN_MERGE
  s.each (List.range (vRows d)) fun s r =>
    let s := deal s C.PMU_UNIT_FMA_FP32 r (x.fma.getD r 0)
    let k := x.func.getD r 0
    if merge then
      let l := rowHolders c units r
      s.each l fun s u => (s.count vec C.VEC_FUNC_ELEMENTS k).count pmu (C.PMU_UNIT_FUNC_ELEMENTS u) k
    else (deal s C.PMU_UNIT_FUNC_ELEMENTS r k).count vec C.VEC_FUNC_ELEMENTS k

/-- Count the bytes of a unit's load or store (R599). -/
def State.unitBytes (s : State) (d u : Nat) (a n : Nat) (write : Bool) : State :=
  s.count (page d B.PMU) (if (accDie a).isSome then
      (if write then C.PMU_UNIT_ACC_WRITE_BYTES u else C.PMU_UNIT_ACC_READ_BYTES u)
    else C.PMU_UNIT_MEM_BYTES u) n

/-- Bytes that an auxiliary region holds for each row of the operation, 0 where its rows are laid out otherwise (R146). -/
def auxPer (k i : Nat) : Nat :=
  match k, i with
  | 4, 1 => 8
  | 2, 1 | 3, 1 | 7, 0 | 7, 1 | 8, 0 | 8, 1 => 4
  | _, _ => 0

/-- The regions of a row operation, each with those bytes, and whether the operation reads it. -/
def vecMoves (d : List Nat) : List (VecRegion × Nat × Bool) :=
  let k := vKind d
  let rewritten := k == OpKind.ADAMW || k == OpKind.ATTN_MERGE
  [(vIn d, 0, true), (vOut d, if k = OpKind.XENT then 4 else 0, rewritten)]
    ++ (List.range 3).filterMap fun i => (vAuxRegion d i).map fun r =>
        (r, auxPer k i, !r.written || (rewritten && !(k == OpKind.ADAMW && i == 2)))

/-- Deal the `bytes` bytes of elements of row `row` at `a`, `total` with what follows them, to the units that hold the tiles of
the row (R148, R599). -/
def State.dealBytes (s : State) (c : Cmd) (units : List Nat) (row a bytes total : Nat) (write : Bool) : State :=
  let n := vCols c.desc
  let tiles := ceilDiv n 32
  let cut (t : Nat) : Nat := bytes * min (32 * t) n / n
  s.each (List.range tiles) fun s t =>
    s.unitBytes c.die (unitOf c units row (32 * t)) a ((if t + 1 = tiles then total else cut (t + 1)) - cut t) write

/-- Count the bytes of a region by unit; `total` gives the bytes of a row of it as they are moved. Values of a row go to the
unit of its first tile, a vector shared by all rows to the units of row 0, and shifts of 32 rows to those of the first of
them (log entry 46). -/
def State.regionBytes (s : State) (c : Cmd) (units : List Nat) (r : VecRegion) (per : Nat) (total : Nat → Nat → Nat)
    (write : Bool) : State :=
  let rows := vRows c.desc
  if per = 0 then
    s.each (List.range r.rows) fun s i =>
      let a := r.rowAddr c.die i
      s.dealBytes c units (if r.rows = rows then i else 32 * i) a r.bytes (total a r.bytes) write
  else
    let a := r.addr c.die
    s.each (List.range rows) fun s i =>
      let pad := if i + 1 = rows then total a r.bytes - r.bytes else 0
      s.unitBytes c.die (unitOf c units i 0) (a + per * i) (per + pad) write

/-- The bytes of a store as they are written: padding that leaves the partitions or the store's ACC is written only to
the end of its granule (log entry 46). -/
def State.fitted (s : State) (c : Cmd) (a n : Nat) (b : List Byte) : List Byte :=
  if s.named c.die c.context a b.length && accDie a == accDie (a + b.length - 1) then b
  else b.take ((a + n + 63) / 64 * 64 - a)

/-- Count what the units of a row operation move (R599): the operands that it reads, and its stores with their padding. -/
def State.vecMoved (s : State) (c : Cmd) (units : List Nat) (x : Option VecEffect) : State :=
  let stored (x : VecEffect) (a _ : Nat) : Nat :=
    ((x.stores.find? fun p => p.1 == a).map fun p => (s.fitted c p.1 p.2.1 p.2.2).length).getD 0
  s.each (vecMoves c.desc) fun s m =>
    let s := if m.2.2 then s.regionBytes c units m.1 m.2.1 (fun _ n => n) false else s
    match x with
    | some x => if m.1.written then s.regionBytes c units m.1 m.2.1 (stored x) true else s
    | none => s

/-- The regions that a failed operation leaves undefined (R150). -/
def State.vecUndefined (s : State) (c : Cmd) : State :=
  s.each ((vecRegions c.desc).filter VecRegion.written) fun s r =>
    s.each (List.range r.rows) fun s i => s.undefine (r.rowAddr c.die i) r.bytes

/-- A row operation runs on its units: it reads its operands, stores, and counts. -/
def State.vectorRun (s : State) (c : Cmd) : State :=
  let s := s.vecReads c
  let units := unitList (vMask c.desc &&& s.unitsUsable c.die)
  let finish (s : State) (err : Option (Nat × Nat)) (ovf nonfin : Nat) : State :=
    s.mapCmd c.id fun x => { x with stage := .vectorDone, error := err, ovf := ovf, nonfinite := nonfin }
  if s.vecPoison c then finish ((s.vecMoved c units none).vecUndefined c) (some (Err.MEM_POISON, 0)) 0 0
  else
    let k := vKind c.desc
    let quant := s.quantEffect c
    let x := match k with
      | 1 => s.epilogueEffect c
      | 2 => s.softmaxEffect c
      | 3 => s.rmsnormEffect c
      | 4 => s.layernormEffect c
      | 5 => quant.1
      | 6 => s.adamwEffect c
      | 7 => s.mergeEffect c
      | _ => s.xentEffect c
    let vec := page c.die B.VEC
    let s := s.each x.stores fun t p => t.write (.vector c.die) (some c.id) p.1 (s.fitted c p.1 p.2.1 p.2.2)
    let s := s.vecMoved c units (some x)
    let s := (s.stampCmd c 2 (c.die * 256 + 1)).stampCmd c 3 (c.die * 256 + 1)
    let s := if x.bad then s.nonfinite c.die c.context else s
    let s := s.count vec C.VEC_MASKED_ROWS x.masked
    let s := s.count vec C.VEC_INF_ROWS x.infs
    let s := s.count vec C.VEC_NAN_ROWS x.nans
    let s := s.count vec C.VEC_IGNORED_LABELS x.ignored
    let s := s.count vec C.VEC_LABEL_INVALID x.invalid
    let s := s.count vec C.VEC_QUANT_OVERFLOW x.ovf
    let s := s.count vec C.VEC_QUANT_NONFINITE x.nonfin
    let s := s.vecWork c units x
    let s := if k = OpKind.QUANT then
        (s.amaxReport c.die c.context c.tensor quant.2 c.attempt).attemptOverflow c x.ovf
      else s
    finish s none x.ovf x.nonfin

/-- The row of an operation kind: the arbiter's granted operation, if it is of that kind, takes its units and runs. A
mask whose units were all fenced since dispatch fails check 8 of R147. -/
def State.vectorRow (s : State) (d kind : Nat) (run : State → Cmd → State) : State :=
  match s.vectorNext d with
  | none => s
  | some c =>
    if vKind c.desc ≠ kind then s
    else
      let usable := vMask c.desc &&& s.unitsUsable d
      if usable = 0 ∨ (kind = OpKind.KERNEL ∧ usable ≠ vMask c.desc) then s.fail c Err.UNITS_UNAVAILABLE 0
      else
        let c := { c with units := unitList usable }
        run (s.takeUnits c) c

/-- EPILOGUE (R151). -/
def execEpilogue (d : Fin 4) (s : State) : Host.Outcome State Fault Refusal :=
  .next (s.vectorRow d.val OpKind.EPILOGUE State.vectorRun)

/-- SOFTMAX (R152). -/
def execSoftmax (d : Fin 4) (s : State) : Host.Outcome State Fault Refusal :=
  .next (s.vectorRow d.val OpKind.SOFTMAX State.vectorRun)

/-- RMSNORM (R153). -/
def execRmsnorm (d : Fin 4) (s : State) : Host.Outcome State Fault Refusal :=
  .next (s.vectorRow d.val OpKind.RMSNORM State.vectorRun)

/-- LAYERNORM (R153). -/
def execLayernorm (d : Fin 4) (s : State) : Host.Outcome State Fault Refusal :=
  .next (s.vectorRow d.val OpKind.LAYERNORM State.vectorRun)

/-- QUANT (R154). -/
def execQuant (d : Fin 4) (s : State) : Host.Outcome State Fault Refusal :=
  .next (s.vectorRow d.val OpKind.QUANT State.vectorRun)

/-- ADAMW (R155). -/
def execAdamw (d : Fin 4) (s : State) : Host.Outcome State Fault Refusal :=
  .next (s.vectorRow d.val OpKind.ADAMW State.vectorRun)

/-- ATTN_MERGE (R156). -/
def execAttnMerge (d : Fin 4) (s : State) : Host.Outcome State Fault Refusal :=
  .next (s.vectorRow d.val OpKind.ATTN_MERGE State.vectorRun)

/-- XENT (R157). -/
def execXent (d : Fin 4) (s : State) : Host.Outcome State Fault Refusal :=
  .next (s.vectorRow d.val OpKind.XENT State.vectorRun)

/-- An operation leaves its units. -/
def State.freeUnits (s : State) (c : Cmd) : State :=
  let mask := c.units.foldl (fun m u => m ||| 2 ^ u) 0
  let busy := s.unitsBusy c.die
  let s := s.put (page c.die B.VEC) R.VEC_UNIT_BUSY_BUSY (busy - (busy &&& mask))
  s.each c.units fun s u =>
    let k := 64 * c.die + u
    let x := Table.get (fun _ => ({} : UnitCore)) s.units k
    { s with units := Table.set (fun _ => {}) s.units k { x with op := none, mode := .idle } }

/-- An operation ends (R150): with its error, or with OK once its stores have reached their destination. OPS_ROW and OPS_KERNEL
count it however it ends, as ARY's counters do (R128, R170; log entry 30). -/
def State.vectorEnd (s : State) (c : Cmd) : State :=
  let s := (s.freeUnits c).count (page c.die B.VEC) (if vKind c.desc = OpKind.KERNEL then C.VEC_OPS_KERNEL else C.VEC_OPS_ROW) 1
  match c.error with
  | some e => s.fail c e.1 e.2
  | none => s.done c

/-- The operation that holds a unit completes when every unit has finished and no store of it waits (R150). -/
def State.vectorComplete (s : State) (d u : Nat) : State :=
  match s.cmds.find? fun c => c.stage == .vectorDone && c.die == d && c.units.contains u with
  | none => s
  | some c => if s.floorLost d || s.heldWrites.any fun w => w.owner == some c.id then s else s.vectorEnd c

/-- VECTOR_OP_COMPLETE (R150). -/
def execVectorOpComplete (d : Fin 4) (vu : Fin 64) (s : State) : Host.Outcome State Fault Refusal :=
  .next (s.vectorComplete d.val vu.val)

end Sys2Proof.Machine
end

