-- ==== Sys2Proof/Machine/Collective.lean ====
section
/-! DEFINITION. The collective commands at CLX (R363–R392, R395) and SYNC_REMOTE at its caller (R266): checks, starts,
the regions they send, and completion. -/

namespace Sys2Proof.Machine

/-! Operands (R365, R380). -/

/-- A reduction: source, result, chunk size in units, scale, whether every chunk is wanted, tensor, statistics. -/
structure Reduction where
  src    : Nat
  dst    : Nat
  chunk  : Nat
  scale  : Nat
  all    : Bool
  tensor : Nat
  stats  : Option Nat
deriving DecidableEq, Repr

/-- The reduction of a REDUCE_SCATTER, an ALL_REDUCE, or a BUCKET_REDUCE whose descriptor was read (R381). -/
def State.reductionOf (s : State) (c : Cmd) : Reduction :=
  let w := c.words
  if hOpc w = Opc.BUCKET_REDUCE then
    let d := c.desc
    ⟨wf d 1 0 52, wf d 2 0 52, wf d 3 0 32 / s.ringSize, wf d 4 0 32, wf d 0 8 1 == 1, wf d 4 48 16, none⟩
  else
    ⟨wf w 2 0 52, wf w 3 0 52, wf w 4 0 32, wf w 5 0 32, hOpc w == Opc.ALL_REDUCE, wf w 5 48 16,
      if wf w 5 32 1 = 1 ∧ 1 < s.ringSize then some (wf w 5 40 6) else none⟩

/-- Whether a command is a reduction on the ring. -/
def isReduction (w : List Nat) : Bool :=
  [Opc.REDUCE_SCATTER, Opc.ALL_REDUCE, Opc.BUCKET_REDUCE].contains (hOpc w)

/-- The shard-table entry of a GATHER: base and units (R383). -/
def State.shardOf (s : State) (c : Cmd) : Nat × Nat :=
  let n := wf c.words 4 32 10
  (s.fld clxPage (R.SHARD_W0_BASE n), s.fld clxPage (R.SHARD_W1_UNITS n))

/-- The channel of a collective command (R368). -/
def collChannel (w : List Nat) : Nat :=
  match hOpc w with
  | 0x20 => 2
  | 0x21 | 0x22 => 3
  | 0x26 => 4
  | 0x23 => 5
  | 0x24 => 6
  | _ => 0

/-- Units that a command receives from its predecessor. -/
def State.unitsIn? (s : State) (c : Cmd) : Nat :=
  let p := s.ringSize
  if hOpc c.words = Opc.GATHER then (p - 1) * (s.shardOf c).2
  else if isReduction c.words then
    let r := s.reductionOf c
    (if r.all then 2 else 1) * (p - 1) * r.chunk
  else if hOpc c.words = Opc.SEQ_PASS then wf c.words 4 0 32
  else 0

/-- Units that a command sends. -/
def State.unitsOut (s : State) (c : Cmd) : Nat :=
  if hOpc c.words = Opc.PIPE_SEND then wf c.words 4 0 32 else s.unitsIn? c

/-- The regions that a command writes on its own package: base and bytes. -/
def State.collDst (s : State) (c : Cmd) : List (Nat × Nat) :=
  let w := c.words
  let p := s.ringSize
  if hOpc w = Opc.GATHER then [(wf w 2 0 52, p * (s.shardOf c).2 * 64)]
  else if isReduction w then
    let r := s.reductionOf c
    [(r.dst, (if r.all then p else 1) * r.chunk * 64)]
  else if hOpc w = Opc.DIE_REDUCE then [(wf w 6 0 52, wf w 7 0 32 * 64)]
  else []

/-- The regions that R366 checks: base and bytes. REMOTE_DST is checked for alignment here, and for its place by the
peer (R389); a shard-table entry that is not VALID gives no size (R385). -/
def State.collRegions (s : State) (c : Cmd) : List (Nat × Nat) :=
  let w := c.words
  let p := s.ringSize
  let valid := s.on clxPage (R.SHARD_W0_VALID (wf w 4 32 10))
  (if hOpc w = Opc.GATHER ∧ valid = false then [(wf w 2 0 52, 0)] else s.collDst c) ++
    (match hOpc w with
      | 0x20 => (wf w 3 0 52, 16 * p) :: (if valid then [((s.shardOf c).1, (s.shardOf c).2 * 64)] else [])
      | 0x23 | 0x24 => [(wf w 2 0 52, wf w 4 0 32 * 64), (wf w 3 0 52, 0)]
      | 0x25 => (List.range 4).map fun i => (wf w (2 + i) 0 52, wf w 7 0 32 * 64)
      | _ => if isReduction w then [((s.reductionOf c).src, p * (s.reductionOf c).chunk * 64)] else [])

/-- Whether the addresses of a collective command are placed (R366); its context is the primary one. -/
def State.collPlaced (s : State) (c : Cmd) : Bool :=
  (s.collRegions c).all fun r => r.1 % 64 == 0 && s.named c.die 0 r.1 r.2

/-- A BUCKET_REDUCE reads its descriptor (R366, R380). -/
def State.readBucket (s : State) (c : Cmd) : Cmd × Option (Nat × Nat) :=
  let a := wf c.words 2 0 52
  let c := { c with descAddr := a }
  if a % 64 ≠ 0 || !s.named c.die 0 a 64 then (c, some (Err.ADDR_INVALID, 0))
  else
    let d := s.words a 8
    let c := { c with desc := d, tensor := wf d 4 48 16 }
    let units := wf d 3 0 32
    if s.badRange a 64 then (c, some (Err.MEM_POISON, 0))
    else if units = 0 then (c, some (Err.LAYOUT_INVALID, 0))
    else if wf d 0 0 8 ≠ 2 || wf d 0 9 55 != 0 || wf d 1 52 12 != 0 || wf d 2 52 12 != 0 || wf d 3 32 32 != 0
        || wf d 4 32 16 != 0 || (List.range 3).any (fun i => wordAt d (5 + i) != 0)
        || units * 64 < 2 ^ 20 || decide (2 ^ 28 < units * 64) || units % s.ringSize != 0 then
      (c, some (Err.BUCKET_INVALID, 0))
    else (c, if s.collPlaced c then none else some (Err.ADDR_INVALID, 0))

/-- The checks of a collective command (R366, R648 order 5). -/
def State.collChecked (s : State) (c : Cmd) : Cmd × Option (Nat × Nat) :=
  let c := { c with tensor := collTensor c.words [] }
  if hOpc c.words = Opc.BUCKET_REDUCE then s.readBucket c
  else (c, if s.collPlaced c then none else some (Err.ADDR_INVALID, 0))

/-- Whether CLX holds collective commands back (R399, R420, R434). -/
def State.clxHolds (s : State) : Bool := s.fig.running.isSome || s.clx.switchDue || s.clx.newEpoch

/-- The checks at a caller: a command that CLX is to hold is checked as it is released, in the layout that it runs in (R399). -/
def collCheck : Prep := fun s c =>
  if s.clxHolds then ({ c with tensor := collTensor c.words [] }, none) else s.collChecked c

/-! Sending a region. -/

/-- Send units `first` to `first + n` of a chunk, in items of up to 127 frames; `fuel` bounds their number. `last` marks
the item that ends the command towards the peer (R369). -/
def State.sendChunk (s : State) (g : Nat) (c : Cmd) (kind : Nat) (h : ItemHdr) (data : List Byte) (first : Nat)
    (last : Bool) : Nat → State
  | 0 => s
  | fuel + 1 =>
    if data.isEmpty then s
    else
      let part := data.take (127 * 64)
      let rest := data.drop (127 * 64)
      let hdr := { h with offset := BitVec.ofNat 32 first, last := last && rest.isEmpty }
      ((s.sendGroup g (some c.id) (.item kind ⟨hdr, part⟩)).countItem).sendChunk g c kind h rest (first + 127) last fuel

/-- A command sends a region of a chunk, and counts its units. -/
def State.sendUnits (s : State) (g : Nat) (c : Cmd) (kind : Nat) (h : ItemHdr) (data : List Byte) (first : Nat) : State :=
  let n := data.length / 64
  let old := ((s.cmdOf c.id).map Cmd.sent).getD 0
  let now := old + n
  let s := if old = 0 ∧ 0 < n then s.stampFloor c 2 0x18 else s
  let s := s.mapCmd c.id fun x => { x with sent := x.sent + n }
  s.sendChunk g c kind h data first (now == s.unitsOut c) (n + 1)

/-! Completion. -/

/-- Whether a command has received everything. -/
def State.allIn (s : State) (c : Cmd) : Bool := decide (s.unitsIn? c ≤ c.rcv)

/-- Whether a command has sent everything. -/
def State.allOut (s : State) (c : Cmd) : Bool := decide (s.unitsOut c ≤ c.sent)

/-- Whether every write of an owner has landed. -/
def State.landedAll (s : State) (id : Nat) : Bool := !(s.heldWrites.any fun w => w.owner == some id)

/-- The collective commands that run: INFLIGHT of R398, with a summary in progress. -/
def State.inflight (s : State) : Nat :=
  (s.cmds.filter fun c => c.stage == .collRun).length + (if s.clx.summary then 1 else 0)

/-- LANDED goes back to the predecessor once a command has received everything and written it (R371); the command carries it
(R373). -/
def State.answer (s : State) (c : Cmd) : State :=
  match pathOf c.words with
  | none => s
  | some (p, g) =>
    match s.groupPeer (g + 1) with
    | none => s
    | some rank =>
      if c.begun && !c.answered && decide (0 < s.unitsIn? c) && s.allIn c && s.landedAll c.id && p != .pipeNext && p != .pipePrev
          && p != .seqRing then
        ((s.sendRank rank (some c.id) (.landed p { s.baseHdr (collTensor c.words c.desc) with
          step := BitVec.ofNat 32 c.step, last := true } false false)).countItem).mapCmd c.id
          fun x => { x with answered := true }
      else s

/-- Answers whose writes have landed go out, each after its signal (R371, R389). -/
def State.clxLanded (s : State) : State :=
  let ready := s.clx.answers.filter fun a => s.landedAll a.owner
  let s := { s with clx := { s.clx with answers := s.clx.answers.filter fun a => !s.landedAll a.owner } }
  let s := s.each ready fun s a =>
    let s := match a.signal with
      | some g => s.signalLive g .remote
      | none => s
    (s.sendRank a.rank none a.msg).countItem
  s.each (s.cmds.filter fun c => c.stage == .collRun) fun s c => s.answer c

/-- FP64 squared norm of a list of FP32 codes in 64 lanes (R395). -/
def sumsq64 (x : List Nat) : Nat :=
  let lane (l : Nat) : Nat :=
    forUpto (fun i t => let v := decode .fp32 (x.getD (64 * i + l) 0); packVal .fp64 .nearest (vadd (decode .fp64 t) (vmul v v)))
      ((x.length + 63 - l) / 64) 0
  ((forUpto (fun _ l => pairUp (fadd .fp64) l) 6 (tabulate lane 64)).head?).getD 0

/-- FP32 codes of a region. -/
def State.codesAt (s : State) (a units : Nat) : List Nat :=
  (List.range units).flatMap fun i => codes16 (s.load (a + 64 * i) 64)

/-- L of R395 over the chunks of SRC. -/
def State.localNorm (s : State) (r : Reduction) : Nat :=
  forUpto (fun k t => fadd .fp64 t (sumsq64 (s.codesAt (r.src + k * r.chunk * 64) r.chunk))) s.ringSize 0

/-- Change what CLX has measured for a slot. -/
def State.measure (s : State) (slot : Nat) (x : Stat) : State :=
  { s with clx := { s.clx with meas := Table.set (fun _ => {}) s.clx.meas slot x, measured := setInsert slot s.clx.measured } }

/-- Write FP32 codes at a granule for a command, and set the flag of its die for ±∞ or NaN (R376). -/
def State.putCodes (s : State) (c : Cmd) (a : Nat) (y : List Nat) : State :=
  let s := s.write .engine (some c.id) a (leBytes (4 * y.length) (packElems 32 y))
  if y.any fun v => !finite32 v then s.nonfinite c.die 0 else s

/-- A command that names the ACC window of a die declared absent waits until the absence is learned (R309). -/
def State.collUnlearned (s : State) (c : Cmd) : Bool :=
  (s.collRegions c).any fun r => r.2 != 0 && (accDie r.1).any s.absentDue.contains

/-- Start the commands that are at the head of their order: a ring command once every earlier one of its channel has
received and sent everything and has LANDED, so that no item of it overtakes one of theirs (R367, R370); a PIPE_SEND after
every earlier one has completed. -/
def State.mayBegin (s : State) (c : Cmd) : Bool :=
  c.stage == .collRun && !c.begun && !s.collUnlearned c && !(s.cmds.any fun x =>
    x.stage == .collRun && decide (x.id < c.id) && collChannel x.words == collChannel c.words
      && hOpc x.words != Opc.DIE_REDUCE && hOpc c.words != Opc.DIE_REDUCE
      && (!x.begun || hOpc x.words == Opc.PIPE_SEND || !s.allIn x || !s.allOut x || !(x.landed || s.unitsOut x == 0)))

/-! Starts. -/

/-- The error of a group that has no sub-link in service (R417). -/
def State.unreachable (s : State) (g : Nat) : Option (Nat × Nat) :=
  match s.groupPeer g with
  | none => none
  | some rank => if (s.groupLinks g).isEmpty then some (Err.PEER_UNREACHABLE, rank) else none

/-- DIE_ABSENT of a command that reads or writes the ACC window of a die that is not present (R216). -/
def State.collAbsent (s : State) (c : Cmd) : Option (Nat × Nat) :=
  (((s.collRegions c).filter fun r => r.2 != 0).findSome? fun r => s.absentAt r.1).map fun d => (Err.DIE_ABSENT, d)

/-- The source that a collective reads as it starts: address and length. -/
def State.collSource (s : State) (c : Cmd) : Nat × Nat :=
  match hOpc c.words with
  | 0x20 => ((s.shardOf c).1, (s.shardOf c).2 * 64)
  | 0x23 | 0x24 => (wf c.words 2 0 52, wf c.words 4 0 32 * 64)
  | _ => ((s.reductionOf c).src, s.ringSize * (s.reductionOf c).chunk * 64)

/-- The checks of a start (R216, R363, R366, R376, R385, R395, R417), and the reads of its sources (R229). -/
def State.startError (s : State) (c : Cmd) : Option (Nat × Nat) :=
  let w := c.words
  let ring : Option (Nat × Nat) := (s.unreachable Grp.ringNext).or (s.unreachable Grp.ringPrev)
  let poison : Option (Nat × Nat) :=
    (s.collAbsent c).or (if s.badRange (s.collSource c).1 (s.collSource c).2 then some (Err.MEM_POISON, 0) else none)
  let layout (bad : Bool) : Option (Nat × Nat) := if bad then some (Err.LAYOUT_INVALID, 0) else none
  match hOpc w with
  | 0x20 =>
    ((layout (s.on clxPage R.CLX_LAYOUT_MODE || !s.on clxPage (R.SHARD_W0_VALID (wf w 4 32 10)) || (s.shardOf c).2 == 0)).or ring).or
      poison
  | 0x23 =>
    let g := if wf w 5 32 1 = 0 then Grp.pipeNext else Grp.pipePrev
    ((layout (s.groupPeer g).isNone).or (s.unreachable g)).or poison
  | 0x24 =>
    ((layout (s.seqSize ≤ 1)).or ((s.unreachable Grp.seqNext).or (s.unreachable Grp.seqPrev))).or poison
  | 0x25 => none
  | _ =>
    let r := s.reductionOf c
    let stats := match r.stats with
      | some slot => if s.clx.measured.contains slot then some (Err.STATS_INVALID, slot) else none
      | none => none
    ((((layout (r.chunk == 0)).or (if finite32 r.scale then none else some (Err.PARAM_INVALID, 0))).or stats).or ring).or poison

/-- Compare or record the tag of the shard of position `q` (R386, R387); a poisoned tag is not compared, and fails its reader
(R229). -/
def State.tagEntry (s : State) (c : Cmd) (q epoch step wgen : Nat) : State :=
  let a := wf c.words 3 0 52 + 16 * q
  let w0 := epoch * 2 ^ 32 + step
  let w1 := 2 ^ 63 + wgen
  if wf c.words 4 0 1 = 0 then s.write .engine (some c.id) a (wordBytes [w0, w1])
  else
    let v := s.loadOf (some c.id) a 16
    let s := s.countRead .engine a 16
    let e := bits v.2 0 64
    let f := bits v.2 64 64
    let same := bits e 0 48 == w0 && bitOn f 63 && bits f 0 32 == wgen
    let first := !(((s.cmdOf c.id).map Cmd.mismatch).getD false)
    if v.1 then s.mapCmd c.id fun x => { x with error := some (Err.MEM_POISON, 0) }
    else if same || !first then s
    else
      let s := (s.mapCmd c.id fun x => { x with mismatch := true }).setCause c.die 0 causeBit.gatherMismatch
      (s.numEvent c.die 0 3 (wf c.words 4 48 16) 0 0 0 0 0).count clxPage C.CLX_TAG_MISMATCHES 1 |>.intSet clxPage 2

/-- A GATHER starts: it forms its tag, writes its own shard and sends it (R384–R386). -/
def State.gatherBegin (s : State) (c : Cmd) : State :=
  let n := wf c.words 4 32 10
  let e := s.shardOf c
  let p := s.ringPos
  let s := if s.on clxPage (R.SHARD_W0_WRITTEN n) then
      (s.put clxPage (R.SHARD_W1_WGEN n) (s.fld clxPage (R.SHARD_W1_WGEN n) + 1)).put clxPage (R.SHARD_W0_WRITTEN n) 0
    else s
  let wgen := s.fld clxPage (R.SHARD_W1_WGEN n)
  let data := s.bytes e.1 (e.2 * 64)
  let s := (s.countRead .engine e.1 (e.2 * 64)).copyGranules (some c.id) e.1 (wf c.words 2 0 52 + p * e.2 * 64) e.2
  let s := s.tagEntry c p s.epoch c.step wgen
  if s.ringSize ≤ 1 then s
  else
    let h := { s.baseHdr (wf c.words 4 48 16) with
      step := BitVec.ofNat 32 c.step, chunk := BitVec.ofNat 13 p, wgen := BitVec.ofNat 32 wgen }
    s.sendUnits Grp.ringNext c 1 h data 0

/-- A reduction starts: it measures L and sends its part of the chunk before its own; alone, it scales (R375, R379,
R395). -/
def State.reduceBegin (s : State) (c : Cmd) : State :=
  let r := s.reductionOf c
  let n := s.ringSize
  let p := s.ringPos
  let s := match r.stats with
    | some slot => s.measure slot { sumL := s.localNorm r, sumR := 0, count := 1 }
    | none => s
  let s := s.countRead .engine r.src (n * r.chunk * 64)
  if n ≤ 1 then s.putCodes c r.dst ((s.codesAt r.src r.chunk).map fun x => fmul .fp32 x r.scale)
  else
    let k := (p + n - 1) % n
    let h := { s.baseHdr r.tensor with step := BitVec.ofNat 32 c.step, chunk := BitVec.ofNat 13 k }
    s.sendUnits Grp.ringNext c (if hOpc c.words = Opc.BUCKET_REDUCE then 4 else 2) h (s.bytes (r.src + k * r.chunk * 64)
      (r.chunk * 64)) 0

/-- A PIPE_SEND or SEQ_PASS starts: it sends its region (R389, R390). -/
def State.passBegin (s : State) (c : Cmd) : State :=
  let w := c.words
  let seq := hOpc w == Opc.SEQ_PASS
  let pass := s.clx.seqPasses % (s.seqSize - 1) + 1
  let s := if seq then
      ({ s with clx := { s.clx with seqPasses := s.clx.seqPasses + 1 } }).mapCmd c.id fun x => { x with pass := pass }
    else s
  let n := wf w 4 0 32
  let data := s.bytes (wf w 2 0 52) (n * 64)
  let h := { s.baseHdr (wf w 5 48 16) with
    step := BitVec.ofNat 32 c.step, remote := BitVec.ofNat 52 (wf w 3 0 52), rsigDie := Fin.ofNat 4 (wf w 5 30 2)
    rsigIndex := Fin.ofNat 16384 (wf w 5 16 14), rsigValue := BitVec.ofNat 32 (wf w 6 0 32)
    origin := BitVec.ofNat 13 (if seq then (s.seqPos + s.seqSize - (pass - 1) % s.seqSize) % s.seqSize else s.rank) }
  let g := if seq then Grp.seqNext else if wf w 5 32 1 = 0 then Grp.pipeNext else Grp.pipePrev
  (s.countRead .engine (wf w 2 0 52) (n * 64)).sendUnits g c (if seq then 6 else 5) h data 0

/-- A DIE_REDUCE runs (R392): granule by granule, with the poison of its sources. -/
def State.dieReduceRun (s : State) (c : Cmd) : State :=
  let src (i : Nat) : Nat := wf c.words (2 + i) 0 52
  let dst := wf c.words 6 0 52
  let n := wf c.words 7 0 32
  match ([src 0, src 1, src 2, src 3, dst].findSome? s.absentAt).filter fun _ => n != 0 with
  | some d => s.fail c Err.DIE_ABSENT d
  | none =>
    let s := s.each [0, 1, 2, 3] fun s i => s.countRead .engine (src i) (64 * n)
    let s := s.each (List.range n) fun s i =>
      let g (k : Nat) : Bool × Nat := s.granuleOf (some c.id) (src k + 64 * i)
      let x (k : Nat) : List Nat := codes16 (g k).2
      let y := List.zipWith (fadd .fp32) (List.zipWith (fadd .fp32) (List.zipWith (fadd .fp32) (x 0) (x 1)) (x 2)) (x 3)
      let bad := [0, 1, 2, 3].any fun k => (g k).1
      let s := s.writeGranule .engine (some c.id) (dst + 64 * i) (packElems 32 y) fullMask bad
      let s := if bad then s.mapCmd c.id fun x => { x with error := some (Err.MEM_POISON, 0) } else s
      if !bad && y.any fun v => !finite32 v then s.nonfinite c.die 0 else s
    s.count clxPage C.CLX_REDUCED_ELEMENTS (3 * 16 * n)

/-- A GATHER that a replayed attempt meets again after its ring completed (R388). -/
def State.gatheredBefore (s : State) (c : Cmd) : Bool :=
  hOpc c.words == Opc.GATHER && c.attempt.any fun id =>
    (((s.job c.die c.context).bracket).filter fun b => b.id == id).any fun b => b.gathers.contains c.number

/-- A command leaves CLX with OK: its counters, and the mark that spares a replay its ring (R388, R407). -/
def State.collDone (s : State) (c : Cmd) : State :=
  let opc := hOpc c.words
  let s := if opc = Opc.GATHER then
      let s := s.count clxPage C.CLX_GATHERS 1
      let s := if wf c.words 4 0 1 = 1 then s.count clxPage C.CLX_REGATHERS 1 else s
      if c.attempt.isSome then s.mapBracket c.die c.context fun b => { b with gathers := setInsert c.number b.gathers } else s
    else if opc = Opc.BUCKET_REDUCE then s.count clxPage C.CLX_BUCKET_OPS 1
    else s
  s.done c

/-- A command that is at the head of its order starts. -/
def State.collStart (s : State) (c : Cmd) : State :=
  if s.gatheredBefore c then s.collDone c
  else match s.startError c with
    | some e =>
      let s := if e.1 = Err.PEER_UNREACHABLE then s.count figPage C.FIG_UNREACHABLE 1 else s
      -- the read that fails is a read (R246)
      let s := if e.1 = Err.MEM_POISON then s.countRead .engine (s.collSource c).1 (s.collSource c).2 else s
      s.fail c e.1 e.2
    | none =>
      let s := (s.mapCmd c.id fun x => { x with begun := true }).stampFloor c 1 0x18
      match hOpc c.words with
      | 0x20 => s.gatherBegin c
      | 0x23 | 0x24 => s.passBegin c
      | 0x25 => s.dieReduceRun c
      | _ => s.reduceBegin c

/-- CLX starts what may start, in order of dispatch; a failure can let the next command start. `fuel` is the number of
commands. -/
def State.collBegin (s : State) : Nat → State
  | 0 => s
  | fuel + 1 =>
    match s.cmds.find? s.mayBegin with
    | some c => (s.collStart c).collBegin fuel
    | none => s

/-- Start what may start, and answer what has landed. -/
def State.clxNext (s : State) : State := (s.collBegin s.cmds.length).clxLanded

/-- The ABORT that waits for a command, if one does (R373). -/
def State.owedTo (s : State) (c : Cmd) : Option (Path × Nat × Nat × Nat) :=
  s.clx.owed.find? fun x => pathKey c == some (x.1, x.2.1, x.2.2.1)

/-- A command takes the ABORT that waits for it. -/
def State.takeOwed (s : State) (c : Cmd) : State :=
  match s.owedTo c with
  | none => s
  | some x =>
    let s : State := { s with clx := { s.clx with owed := s.clx.owed.filter fun y => y != x } }
    let s := s.each (s.collDst c) fun s r => s.undefine r.1 r.2
    (s.count clxPage C.CLX_COLL_ABORTS 1).fail c Err.COLL_ABORTED x.2.2.2

/-- A held command leaves its hold: it is checked in the layout that it runs in (R366, R380, R399), and takes the ABORT that waits
for it. -/
def State.collRelease (s : State) (c : Cmd) : State :=
  match s.collChecked c with
  | (_, some e) => s.fail c e.1 e.2
  | (d, none) =>
    let s := if c.desc.isEmpty && !d.desc.isEmpty then s.countRead .engine d.descAddr (8 * d.desc.length) else s
    let s := s.mapCmd c.id fun x => { x with stage := .collRun, desc := d.desc, descAddr := d.descAddr, tensor := d.tensor }
    match s.cmdOf c.id with
    | some now => s.takeOwed now
    | none => s

/-- CLX releases the commands it held, in their order of dispatch (R420). -/
def State.clxRelease (s : State) : State :=
  if s.clxHolds then s
  else (s.each (s.cmds.filter fun c => c.stage == .collHeld) State.collRelease).clxNext

/-- A collective command reaches CLX (R162, R399, R420). -/
def State.collDispatch (s : State) (c : Cmd) : State :=
  (s.mapCmd c.id fun x => { x with stage := .collHeld }).clxRelease

/-- A transfer from a group's peer ends before it is whole: what has come is dropped, and its destination is undefined
(R373). -/
def State.dropInbound (s : State) (g : Nat) : State :=
  let die := s.presentDies.head?.getD 0
  let gone := s.clx.inbound.filter fun x => x.group == g
  let s : State := { s with clx := { s.clx with inbound := s.clx.inbound.filter fun x => x.group != g } }
  s.each gone fun s x => s.each x.parts fun s p =>
    let a := x.key.2.2 + 64 * p.1
    if s.named die 0 a p.2.length then s.undefine a p.2.length else s

/-- A running command completes with an error, and the next one may start. -/
def State.collFail (s : State) (c : Cmd) (err detail : Nat) : State :=
  let s := if hOpc c.words = Opc.SEQ_PASS then s.dropInbound Grp.seqPrev else s
  (s.fail c err detail).clxNext

/-- GATHER (R384–R388). -/
def execGather (d : Fin 4) (q : Fin 64) (ext : HostSlot) (s : State) : Host.Outcome State Fault Refusal :=
  .next (s.v2 d q ext Opc.GATHER collCheck State.collDispatch)

/-- REDUCE_SCATTER (R375). -/
def execReduceScatter (d : Fin 4) (q : Fin 64) (ext : HostSlot) (s : State) : Host.Outcome State Fault Refusal :=
  .next (s.v2 d q ext Opc.REDUCE_SCATTER collCheck State.collDispatch)

/-- ALL_REDUCE (R377). -/
def execAllReduce (d : Fin 4) (q : Fin 64) (ext : HostSlot) (s : State) : Host.Outcome State Fault Refusal :=
  .next (s.v2 d q ext Opc.ALL_REDUCE collCheck State.collDispatch)

/-- PIPE_SEND (R389). -/
def execPipeSend (d : Fin 4) (q : Fin 64) (ext : HostSlot) (s : State) : Host.Outcome State Fault Refusal :=
  .next (s.v2 d q ext Opc.PIPE_SEND collCheck State.collDispatch)

/-- SEQ_PASS (R389, R390). -/
def execSeqPass (d : Fin 4) (q : Fin 64) (ext : HostSlot) (s : State) : Host.Outcome State Fault Refusal :=
  .next (s.v2 d q ext Opc.SEQ_PASS collCheck State.collDispatch)

/-- DIE_REDUCE (R392). -/
def execDieReduce (d : Fin 4) (q : Fin 64) (ext : HostSlot) (s : State) : Host.Outcome State Fault Refusal :=
  .next (s.v2 d q ext Opc.DIE_REDUCE collCheck State.collDispatch)

/-- BUCKET_REDUCE (R380, R381). -/
def execBucketReduce (d : Fin 4) (q : Fin 64) (ext : HostSlot) (s : State) : Host.Outcome State Fault Refusal :=
  .next (s.v2 d q ext Opc.BUCKET_REDUCE collCheck State.collDispatch)

/-- A legacy BUCKET_REDUCE with its descriptor at ADDR (R277, R380). -/
def execV1BucketReduce (d : Fin 4) (q : Fin 64) (ext : HostSlot) (s : State) : Host.Outcome State Fault Refusal :=
  .next (s.v1 d q ext 6 collCheck State.collDispatch)

/-- Whether a group still has a sub-link: one in service, or one that retrains in the field and comes back (R347, R417). -/
def State.groupReached (s : State) (g : Nat) : Bool :=
  (List.range 32).any fun e => (s.entryGroups s.figure e).contains g && (s.peerOf e).isSome
    && (s.slUp e || (s.slState e == Sl.TRAINING && (s.link e).retraining))

/-- A sub-link has gone out of service: a collective command that runs and whose group has none left, and a SYNC_REMOTE to a rank
that none reaches, completes with PEER_UNREACHABLE (R266, R417). -/
def State.peersLost (s : State) : State :=
  let lost (s : State) (c : Cmd) : Option Nat :=
    if c.stage == .syncRemote then
      let rank := wf c.words 2 0 16
      if (List.range 32).any fun e => s.peerOf e == some rank
          && (s.slUp e || (s.slState e == Sl.TRAINING && (s.link e).retraining)) then none else some rank
    else if c.stage == .collRun && c.begun then
      match pathOf c.words with
      | some (p, g) => ((peerGroups p g).find? fun g => (s.groupPeer g).isSome && !s.groupReached g).bind s.groupPeer
      | none => none
    else none
  s.each (s.cmds.map Cmd.id) fun s id =>
    match s.cmdOf id with
    | some c =>
      match lost s c with
      | some rank =>
        let s := s.count figPage C.FIG_UNREACHABLE 1
        if c.stage == .syncRemote then s.fail c Err.PEER_UNREACHABLE rank else s.collFail c Err.PEER_UNREACHABLE rank
      | none => s
    | none => s

/-! COLLECTIVE_COMPLETE. -/

/-- Whether a running command is done (R371): everything received, sent and written, and LANDED returned. -/
def State.collReady (s : State) (c : Cmd) : Bool :=
  c.stage == .collRun && c.begun && s.allIn c && s.allOut c && s.landedAll c.id && (c.landed || s.unitsOut c == 0)

/-- R of R395, from the reduced chunk at its destination. -/
def State.measureDone (s : State) (c : Cmd) : State :=
  if isReduction c.words then
    let r := s.reductionOf c
    match r.stats with
    | some slot =>
      let a := r.dst + (if r.all then s.ringPos * r.chunk * 64 else 0)
      s.measure slot { Table.get (fun _ => {}) s.clx.meas slot with sumR := sumsq64 (s.codesAt a r.chunk) }
    | none => s
  else s

/-- A collective command completes. -/
def State.collEnd (s : State) (d q number : Nat) : State :=
  let s := s.clxLanded
  match s.cmds.find? fun c => c.die == d && c.queue == q && c.number == number && s.collReady c with
  | none => s
  | some c =>
    match c.error with
    | some e => s.collFail c e.1 e.2
    | none => ((s.measureDone c).collDone c).clxNext

/-- COLLECTIVE_COMPLETE (R371). -/
def execCollectiveComplete (d : Fin 4) (q : Fin 64) (number : BitVec 32) (s : State) : Host.Outcome State Fault Refusal :=
  .next (s.collEnd d.val q.val number.toNat)

/-! SYNC_REMOTE (R266, R417). -/

/-- A SYNC_REMOTE executes: it needs a sub-link in service to its rank, and then waits for LANDED. -/
def State.syncRemote (s : State) (c : Cmd) : State :=
  let w := c.words
  let rank := wf w 2 0 16
  if (s.rankLinks rank).isEmpty then (s.count figPage C.FIG_UNREACHABLE 1).fail c Err.PEER_UNREACHABLE rank
  else
    let item : SyncItem := ⟨{ s.baseHdr 0 with step := BitVec.ofNat 32 c.step, last := true }, Fin.ofNat 4 (wf w 2 30 2),
      Fin.ofNat 16384 (wf w 2 16 14), wf w 2 32 1 == 1, BitVec.ofNat 32 (wf w 3 0 32)⟩
    ((s.mapCmd c.id fun x => { x with stage := .syncRemote }).sendRank rank (some c.id) (.sync item)).countItem

/-- SYNC_REMOTE (R266). -/
def execSyncRemote (d : Fin 4) (q : Fin 64) (ext : HostSlot) (s : State) : Host.Outcome State Fault Refusal :=
  .next (s.v2 d q ext Opc.SYNC_REMOTE noPrep State.syncRemote)

end Sys2Proof.Machine
end

