-- ==== Sys2Proof/Machine/Items.lean ====
section
/-! DEFINITION. Items that arrive from other packages for CLX (R367–R373, R384–R391, R398): they leave the receive buffer
of their sub-link, free its credits, and act on the command they match. An item whose command has not come waits
(R367). -/

namespace Sys2Proof.Machine

/-! Receiving. -/

/-- The oldest whole item of a channel in a receive buffer, and what remains (R335, R338). -/
def itemOf (ch : Nat) : List RxFrame → Option (List RxFrame × List RxFrame)
  | [] => none
  | f :: t =>
    if f.channel ≠ ch then (itemOf ch t).map fun r => (r.1, f :: r.2)
    else if f.last then some ([f], t)
    else (itemOf ch t).map fun r => (f :: r.1, r.2)

/-- Take the oldest item of a message's channel from a sub-link, if its frames are those of the message as far as the
manual lays them out; each frame freed grants a credit (R337, R338). -/
def State.takeItem (s : State) (e : Nat) (m : Msg) : Option State :=
  let w := msgFrames m
  let l := s.link e
  match itemOf w.1 l.rx with
  | none => none
  | some (f, rest) =>
    if f.length = w.2.length ∧ ((w.2.zip f).all fun x => x.1.fits x.2.payload) = true then
      let n := Table.get (fun _ => 0) l.freed w.1
      some (s.setLink e { l with rx := rest, freed := Table.set (fun _ => 0) l.freed w.1 ((n + f.length) % 16384) })
    else none

/-- An item of CLX is taken, and counted where its EPOCH is the current one and it is accepted (R398, R407). -/
def State.clxItem (s : State) (e : Nat) (h : ItemHdr) (m : Msg) : Option State :=
  (s.takeItem e m).map fun t => if h.epoch.toNat = t.epoch then t.count clxPage C.CLX_ITEMS_RX 1 else t

/-- The rank that sends on a sub-link. -/
def State.sender (s : State) (e : Nat) : Nat := (s.peerOf e).getD 0

/-- The command of a channel that takes the items that arrive (R367): the oldest that still receives. -/
def State.headColl (s : State) (ch : Nat) : Option Cmd :=
  s.cmds.find? fun c => c.stage == .collRun && c.begun && collChannel c.words == ch && !s.allIn c

/-- An item of another epoch is discarded, and the command it matches fails (R398). -/
def State.wrongEpoch (s : State) (e : Nat) (c : Option Cmd) : State :=
  let s := s.count clxPage C.CLX_EPOCH_DISCARDS 1
  match c with
  | some c => s.collFail c Err.EPOCH_MISMATCH (s.sender e)
  | none => s

/-- Whether an item has 1 to 127 payload frames within a size of `units`; a LAST item that can only end it, ends it (R367, R369). -/
def itemSized (i : Item) (units : Nat) (lastEnds : Bool) : Bool :=
  let n := i.payload.length / 64
  let stop := i.hdr.offset.toNat + n
  decide (1 ≤ n) && decide (n ≤ 127) && decide (stop ≤ units) && (stop == units || !(lastEnds && i.hdr.last))

/-- Whether an item lies within a chunk of `units` of a ring of `p` positions; with two positions and one chunk to send,
the LAST item ends it. -/
def itemInside (i : Item) (p units : Nat) (one : Bool) : Bool :=
  decide (i.hdr.chunk.toNat < p) && itemSized i units (one && p == 2)

/-- Whether a LAST item shows that its sender has another size: over the one sub-link from it the items come in order, so with the
LAST item the command has everything (R23, R367; log entry 23). -/
def State.cutShort (s : State) (e : Nat) (i : Item) (c : Cmd) : Bool :=
  i.hdr.last && s.rankLinks (s.sender e) == [e] && decide (c.rcv + i.payload.length / 64 < s.unitsIn? c)

/-- A data item of a ring arrives: it is discarded, waits, fails the command it does not match, or is handled by
`run` (R367, R398). -/
def State.ringItem (s : State) (e kind : Nat) (i : Item) (fits : State → Cmd → Bool) (run : State → Cmd → State) : State :=
  let ch := kindChannel kind
  match s.clxItem e i.hdr (.item kind i) with
  | none => s
  | some t =>
    let head := t.headColl ch
    if i.hdr.epoch.toNat ≠ t.epoch then t.wrongEpoch e head
    else match head with
      | none => s
      | some c =>
        if i.hdr.step.toNat = c.step % 2 ^ 32 && i.hdr.tensor.toNat == collTensor c.words c.desc && fits t c
            && !t.cutShort e i c then
          match t.collAbsent c with
          | some x => t.collFail c x.1 x.2
          | none => (run (t.mapCmd c.id fun x => { x with rcv := x.rcv + i.payload.length / 64 }) c).clxNext
        else t.collFail c Err.COLL_MISMATCH (t.sender e)

/-! GATHER items (R385–R387). -/

/-- Write a shard's payload, its tag, and pass it on unless the successor owns it. -/
def State.gatherRecv (s : State) (i : Item) (c : Cmd) : State :=
  let n := s.ringSize
  let q := i.hdr.chunk.toNat
  let units := (s.shardOf c).2
  let s := s.write .engine (some c.id) (wf c.words 2 0 52 + (q * units + i.hdr.offset.toNat) * 64) i.payload
  let s := if i.hdr.offset = 0 then s.tagEntry c q i.hdr.epoch.toNat i.hdr.step.toNat i.hdr.wgen.toNat else s
  if q = (s.ringPos + 1) % n then s
  else s.sendUnits Grp.ringNext c 1 i.hdr i.payload i.hdr.offset.toNat

/-- GATHER item. -/
def execGatherItem (e : Fin 32) (i : Item) (s : State) : Host.Outcome State Fault Refusal :=
  .next (s.ringItem e.val 1 i (fun t c => itemInside i t.ringSize (t.shardOf c).2 true && i.hdr.chunk.toNat != t.ringPos)
    fun t c => t.gatherRecv i c)

/-! Reduction items (R375–R377, R381). -/

/-- The FP32 codes of a payload. -/
def codesOf (l : List Byte) : List Nat := (chunks 4 l.length l).map leNat

/-- Codes as payload bytes. -/
def bytesOf (l : List Nat) : List Byte := leBytes (4 * l.length) (packElems 32 l)

/-- A reduced part of a chunk is written at its place (R376, R377). -/
def State.putReduced (s : State) (c : Cmd) (r : Reduction) (chunk first : Nat) (y : List Nat) : State :=
  s.putCodes c (r.dst + ((if r.all then chunk * r.chunk else 0) + first) * 64) y

/-- A partial sum arrives: the own element is added; the owner scales, writes, and passes the result on under R377, any
other position passes the sum on (R375). -/
def State.partialRecv (s : State) (i : Item) (c : Cmd) : State :=
  let r := s.reductionOf c
  let q := i.hdr.chunk.toNat
  let first := i.hdr.offset.toNat
  let units := i.payload.length / 64
  let a := r.src + (q * r.chunk + first) * 64
  if s.badRange a (units * 64) then s.fail c Err.MEM_POISON 0
  else
    let y := List.zipWith (fadd .fp32) (codesOf i.payload) (s.codesAt a units)
    let s := s.count clxPage C.CLX_REDUCED_ELEMENTS (16 * units)
    let bucket := hOpc c.words == Opc.BUCKET_REDUCE
    if q = s.ringPos then
      let z := y.map fun v => fmul .fp32 v r.scale
      let s := s.putReduced c r q first z
      if r.all then s.sendUnits Grp.ringNext c (if bucket then 4 else 3) { i.hdr with origin := BitVec.ofNat 13 q } (bytesOf z) first
      else s
    else s.sendUnits Grp.ringNext c (if bucket then 4 else 2) { i.hdr with origin := BitVec.ofNat 13 s.ringPos } (bytesOf y) first

/-- A reduced chunk arrives and is passed on unless the successor owns it (R377). -/
def State.resultRecv (s : State) (i : Item) (c : Cmd) : State :=
  let r := s.reductionOf c
  let q := i.hdr.chunk.toNat
  let s := s.putReduced c r q i.hdr.offset.toNat (codesOf i.payload)
  if q = (s.ringPos + 1) % s.ringSize then s
  else s.sendUnits Grp.ringNext c (if hOpc c.words = Opc.BUCKET_REDUCE then 4 else 3) i.hdr i.payload i.hdr.offset.toNat

/-- The position before the package's own on the reduction ring. -/
def State.prevPos (s : State) : Nat := (s.ringPos + s.ringSize - 1) % s.ringSize

/-- REDUCE item. -/
def execReduce (e : Fin 32) (i : Item) (s : State) : Host.Outcome State Fault Refusal :=
  .next (s.ringItem e.val 2 i
    (fun t c => itemInside i t.ringSize (t.reductionOf c).chunk (!(t.reductionOf c).all) && i.hdr.chunk.toNat != t.prevPos)
    fun t c => t.partialRecv i c)

/-- RESULT item. -/
def execResult (e : Fin 32) (i : Item) (s : State) : Host.Outcome State Fault Refusal :=
  .next (s.ringItem e.val 3 i
    (fun t c => (t.reductionOf c).all && itemInside i t.ringSize (t.reductionOf c).chunk false && i.hdr.chunk.toNat != t.ringPos)
    fun t c => t.resultRecv i c)

/-- A BUCKET item is a partial sum the first time that its part of a chunk arrives, unless the package itself started
that chunk, and a result after that (R381). -/
def State.bucketRecv (s : State) (i : Item) (c : Cmd) : State :=
  let key := i.hdr.chunk.toNat * 2 ^ 32 + i.hdr.offset.toNat
  if c.got.contains key ∨ i.hdr.chunk.toNat = s.prevPos then s.resultRecv i c
  else (s.mapCmd c.id fun x => { x with got := key :: x.got }).partialRecv i c

/-- BUCKET item. -/
def execBucket (e : Fin 32) (i : Item) (s : State) : Host.Outcome State Fault Refusal :=
  .next (s.ringItem e.val 4 i
    (fun t c => itemInside i t.ringSize (t.reductionOf c).chunk (!(t.reductionOf c).all)
      && ((t.reductionOf c).all || i.hdr.chunk.toNat != t.prevPos))
    fun t c => t.bucketRecv i c)

/-! PIPE and SEQ items (R389–R391). -/

/-- A region that has arrived whole is checked against the primary partitions and written; LANDED follows the last
granule and the signal (R371, R389). A region in the ACC window of a die that is not present is denied (R216; log
entry 23). -/
def State.landRegion (s : State) (e : Nat) (path : Path) (h : ItemHdr) (x : Inbound) : State :=
  let die := s.presentDies.head?.getD 0
  let n := (x.total.getD 0) * 64
  let base := h.remote.toNat
  let ok := base % 64 == 0 && s.named die 0 base n && (s.absentAt base).isNone
  let cellOk := s.cellOf h.rsigDie.val 0 h.rsigIndex.val
  let id := s.nextId
  let s := s.useId
  let s := if ok then s.each x.parts fun s p => s.write .engine (some id) (base + p.1 * 64) p.2 else s
  let sig : Option Signal := if ok && cellOk then some ⟨cellNo h.rsigDie.val h.rsigIndex.val, false, h.rsigValue.toNat⟩ else none
  let a : Answer := ⟨id, s.sender e, .landed path { s.baseHdr h.tensor.toNat with step := h.step, last := true } (!ok)
    (ok && !cellOk), sig⟩
  { s with clx := { s.clx with answers := s.clx.answers ++ [a] } }.clxLanded

/-- An item of a region arrives from a group's peer. Items of another transfer that never came whole give way, and so does what
an earlier, failed transfer of the same step, tensor and destination left of the same part (log entry 23). -/
def State.addInbound (s : State) (e g : Nat) (path : Path) (i : Item) : State :=
  let key := (i.hdr.step.toNat, i.hdr.tensor.toNat, i.hdr.remote.toNat)
  let old := (s.clx.inbound.find? fun x => x.group == g && x.key == key).getD ⟨g, key, [], 0, none⟩
  let n := i.payload.length / 64
  let first := i.hdr.offset.toNat
  let apart (p : Nat × List Byte) : Bool := decide (p.1 + p.2.length / 64 ≤ first) || decide (first + n ≤ p.1)
  let parts := old.parts.filter apart ++ [(first, i.payload)]
  let x : Inbound := { old with
    parts := parts, units := parts.foldl (fun m p => m + p.2.length / 64) 0
    total := if i.hdr.last then some (first + n) else old.total }
  let rest := s.clx.inbound.filter fun y => y.group != g
  if x.total = some x.units then { s with clx := { s.clx with inbound := rest } }.landRegion e path i.hdr x
  else { s with clx := { s.clx with inbound := rest ++ [x] } }

/-- The pipeline group whose peer sends on a sub-link, and the path of its command. -/
def State.pipeFrom (s : State) (e : Nat) : Nat × Path :=
  if s.groupPeer Grp.pipePrev = s.peerOf e ∧ (s.peerOf e).isSome then (Grp.pipePrev, Path.pipeNext) else (Grp.pipeNext, Path.pipePrev)

/-- PIPE item (R389): no command of this package is needed. -/
def State.pipeItem (s : State) (e : Nat) (i : Item) : State :=
  match s.clxItem e i.hdr (.item 5 i) with
  | none => s
  | some t =>
    let g := t.pipeFrom e
    if i.hdr.epoch.toNat ≠ t.epoch then (t.wrongEpoch e none).dropInbound g.1 else t.addInbound e g.1 g.2 i

/-- PIPE item. -/
def execPipe (e : Fin 32) (i : Item) (s : State) : Host.Outcome State Fault Refusal := .next (s.pipeItem e.val i)

/-- SEQ item: it matches the local SEQ_PASS, whose pass number gives its ORIGIN (R390, R391). -/
def execSeq (e : Fin 32) (i : Item) (s : State) : Host.Outcome State Fault Refusal :=
  .next (s.ringItem e.val 6 i
    (fun t c => itemSized i (wf c.words 4 0 32) true
      && i.hdr.origin.toNat == (t.seqPos + t.seqSize - c.pass % t.seqSize) % t.seqSize)
    fun t _ => t.addInbound e.val Grp.seqPrev .seqRing i)

/-! SYNC items (R266). -/

/-- A SYNC item updates a primary cell and LANDED returns. -/
def State.syncItem (s : State) (e : Nat) (i : SyncItem) : State :=
  match s.clxItem e i.hdr (.sync i) with
  | none => s
  | some t =>
    if i.hdr.epoch.toNat ≠ t.epoch then t.wrongEpoch e none
    else
      let ok := t.cellOf i.die.val 0 i.index.val
      let t := if ok then t.signalLive ⟨cellNo i.die.val i.index.val, i.set, i.value.toNat⟩ .remote else t
      (t.sendRank (t.sender e) none (.landed .sync { t.baseHdr 0 with step := i.hdr.step, last := true } false (!ok))).countItem

/-- SYNC item. -/
def execSync (e : Fin 32) (i : SyncItem) (s : State) : Host.Outcome State Fault Refusal := .next (s.syncItem e.val i)

/-! ABORT items (R373). -/

/-- The command of a path that a header names: the oldest with its step and tensor. -/
def State.pathCmd (s : State) (p : Path) (h : ItemHdr) : Option Cmd :=
  s.cmds.find? fun c => (c.stage == .collRun || c.stage == .collHeld) && (pathOf c.words).map Prod.fst == some p
    && collTensor c.words c.desc == h.tensor.toNat && c.step % 2 ^ 32 == h.step.toNat

/-- The group that a path sends to. -/
def pathGroup : Path → Nat
  | .gather | .reduce | .bucket => Grp.ringNext
  | .pipeNext => Grp.pipeNext
  | .pipePrev => Grp.pipePrev
  | .seqRing => Grp.seqNext
  | .sync => Grp.ringNext

/-- An ABORT goes on along its path, away from the sub-link it came on, until it would return to its origin or the chain
ends (R373; log entry 23). -/
def State.forwardAbort (s : State) (e : Nat) (p : Path) (h : ItemHdr) : State :=
  let g := pathGroup p
  let chain := p == .pipeNext || p == .pipePrev
  let next := if chain || s.groupPeer (g + 1) == s.peerOf e then s.groupPeer g else s.groupPeer (g + 1)
  match next with
  | some rank => if !chain && rank == s.rankAt s.stage h.origin.toNat then s else (s.sendRank rank none (.abort p h)).countItem
  | none => s

/-- An ABORT ends its command, leaves its destination undefined, drops what has come of a transfer of its path, and goes
on along the path. One whose command has ended with an error only goes on, and so does the second of the two that a ring
brings. One whose command has not come waits; where a command of its step and tensor has ended with OK it goes on, and the next
such command takes it (log entry 23). -/
def State.abortItem (s : State) (e : Nat) (p : Path) (h : ItemHdr) : State :=
  match s.clxItem e h (.abort p h) with
  | none => s
  | some t =>
    let m := t.pathCmd p h
    let key := (h.step.toNat, h.tensor.toNat)
    let seen := (p, key.1, key.2, h.origin.toNat)
    let chain := p == .pipeNext || p == .pipePrev
    if h.epoch.toNat ≠ t.epoch then t.wrongEpoch e m
    else if t.clx.aborted.contains seen then
      ({ t with clx := { t.clx with aborted := t.clx.aborted.filter fun x => x != seen } }).forwardAbort e p h
    else if m.isNone && !chain && !(t.clx.ended.any fun x => x.1 == (p, key)) then s
    else
      let t : State := if m.isNone && !chain && (t.clx.ended.find? fun x => x.1 == (p, key)).any Prod.snd then
        { t with clx := { t.clx with owed := seen :: t.clx.owed } } else t
      let two := !chain && (t.groupPeer (pathGroup p) != t.groupPeer (pathGroup p + 1))
      let t : State := if two then { t with clx := { t.clx with aborted := seen :: t.clx.aborted } } else t
      let t := t.forwardAbort e p h
      let t := if chain then t.dropInbound (t.pipeFrom e).1 else if p = .seqRing then t.dropInbound Grp.seqPrev else t
      match m with
      | none => t
      | some c =>
        let t := t.each (t.collDst c) fun t r => t.undefine r.1 r.2
        (t.count clxPage C.CLX_COLL_ABORTS 1).collFail c Err.COLL_ABORTED h.origin.toNat

/-- ABORT item. -/
def execAbort (e : Fin 32) (p : Path) (h : ItemHdr) (s : State) : Host.Outcome State Fault Refusal :=
  .next (s.abortItem e.val p h)

/-! LANDED items (R266, R371, R389). -/

/-- The command that a LANDED item answers: the oldest of its path, step and tensor that has sent everything and has no
answer. -/
def State.landedCmd (s : State) (e : Nat) (p : Path) (h : ItemHdr) : Option Cmd :=
  s.cmds.find? fun c =>
    c.step % 2 ^ 32 == h.step.toNat
      && (if p = .sync then c.stage == .syncRemote && some (wf c.words 2 0 16) == s.peerOf e
          else c.stage == .collRun && c.begun && (pathOf c.words).map Prod.fst == some p && s.allOut c && !c.landed
            && collTensor c.words c.desc == h.tensor.toNat)

/-- A LANDED item: the command has landed at its peer, or was denied there. -/
def State.landedItem (s : State) (e : Nat) (p : Path) (h : ItemHdr) (denied badCell : Bool) : State :=
  match s.clxItem e h (.landed p h denied badCell) with
  | none => s
  | some t =>
    let m := t.landedCmd e p h
    if h.epoch.toNat ≠ t.epoch then t.wrongEpoch e m
    else match m with
      | none => t
      | some c =>
        if p = .sync then
          if badCell then t.fail c Err.SYNC_INVALID (wf c.words 2 16 14) else t.done c
        else if denied then t.collFail c Err.REMOTE_DENIED (t.sender e)
        else if badCell then t.collFail c Err.SYNC_INVALID (wf c.words 5 16 14)
        else (t.stampFloor c 3 0x18).mapCmd c.id fun x => { x with landed := true }

/-- LANDED item. -/
def execLanded (e : Fin 32) (p : Path) (h : ItemHdr) (denied badCell : Bool) (s : State) :
    Host.Outcome State Fault Refusal :=
  .next (s.landedItem e.val p h denied badCell)

end Sys2Proof.Machine
end

