-- ==== Sys2Proof/Machine/Summary.lean ====
section
/-! DEFINITION. The step summary of the job (R393, R394), the gradient-noise statistics (R396, R397), the governor of
poses (R470–R473), and the application of a held layout (R399–R401, R433, R434). -/

namespace Sys2Proof.Machine

/-! Gradient-noise statistics. -/

/-- A natural number as an FP64 code. -/
def nat64 (n : Nat) : Nat := packRound .fp64 .nearest false n 1

/-- 2^(−k) as an FP64 code. -/
def pow64 (k : Nat) : Nat := packRound .fp64 .nearest false 1 (2 ^ k)

/-- Whether an FP64 code is above zero. -/
def positive64 (x : Nat) : Bool := vlt (.fin false 0 0) (decode .fp64 x)

/-- The values of R396 for a slot whose count equals P. -/
def State.estimate (s : State) (slot : Nat) (x : Stat) : Estimate :=
  let p := nat64 s.ringSize
  let p1 := nat64 (s.ringSize - 1)
  let b := nat64 (s.fld clxPage R.CLX_STAT_CTL_BATCH)
  let k := pow64 (s.fld clxPage R.CLX_STAT_CTL_K)
  let gs2 := fdiv .fp64 x.sumL p
  let g2 := fdiv .fp64 (fsub .fp64 (fmul .fp64 p x.sumR) gs2) p1
  let sv := fdiv .fp64 (fmul .fp64 (fmul .fp64 b p) (fsub .fp64 gs2 x.sumR)) p1
  let fresh := s.fld clxPage (R.STAT_W3_COUNT slot) == 0
  let avg (new old : Nat) : Nat := if fresh then new else ffma .fp64 k (fsub .fp64 new old) old
  let g := avg g2 (s.fld clxPage (R.STAT_W0_G2_EMA slot))
  let e := avg sv (s.fld clxPage (R.STAT_W1_S_EMA slot))
  let ok := positive64 g && positive64 e
  ⟨slot, g, e, if ok then fdiv .fp64 e g else 0, ok⟩

/-- CLX_NOISE_TOTAL over the valid slots, in increasing slot (R396). -/
def State.noiseTotal (s : State) : State :=
  let l := (List.range 64).filter fun n => s.on clxPage (R.STAT_W3_VALID n) && s.on clxPage (R.STAT_W3_EST_VALID n)
  let sum (f : Nat → Fld) : Nat := l.foldl (fun a n => fadd .fp64 a (s.fld clxPage (f n))) 0
  let g := sum R.STAT_W0_G2_EMA
  s.put clxPage R.CLX_NOISE_TOTAL_BNOISE_TOTAL (if positive64 g then fdiv .fp64 (sum R.STAT_W1_S_EMA) g else 0)

/-- CLX commits the uncommitted values of step `t`, or discards them (R397). -/
def State.statsGate (s : State) (opens : Bool) (t : Nat) : State :=
  let l := s.clx.estimates
  let s : State := { s with clx := { s.clx with estimates := [] } }
  if opens && s.on clxPage R.CLX_STAT_CTL_EN && !l.isEmpty then
    (s.each l fun s e =>
      let s := s.put clxPage (R.STAT_W0_G2_EMA e.slot) e.g2
      let s := s.put clxPage (R.STAT_W1_S_EMA e.slot) e.sEma
      let s := s.put clxPage (R.STAT_W2_BNOISE e.slot) e.noise
      let s := s.put clxPage (R.STAT_W3_STEP e.slot) t
      let s := s.put clxPage (R.STAT_W3_VALID e.slot) 1
      let s := s.flag clxPage (R.STAT_W3_EST_VALID e.slot) e.valid
      s.put clxPage (R.STAT_W3_COUNT e.slot) (min 65535 (s.fld clxPage (R.STAT_W3_COUNT e.slot) + 1))).noiseTotal
  else s

/-! The governor. -/

/-- The counters of each scaled term of R470, by BAR0 offset. -/
def healthMem : List Nat :=
  (List.range 16).flatMap fun n => [page 4 (B.MCT + n) + C.MCT_CE_CORRECTED.off, page 4 (B.MCT + n) + C.MCT_SCRUB_CORRECTED.off]
def healthLane : List Nat := (List.range 16).map fun n => page 4 (B.OPX + n) + C.OPX_FEC_SYMBOLS_CORRECTED.off
def healthReplay : List Nat :=
  ((List.range 5).map fun d => page d B.D2D + C.D2D_CRC_RESENDS.off)
    ++ (List.range 16).map fun n => page 4 (B.OPX + n) + C.OPX_RESENDS.off
/-- The floor's counter counts the excursions of all five dies (R542). -/
def healthThermal : List Nat := [page 4 B.PWR + C.PWR_THERMAL_EXCURSIONS.off]

/-- Every counter that R470 names. -/
def healthAll : List Nat := healthMem ++ healthLane ++ healthReplay ++ healthThermal

/-- Increments of counters since the last seal. -/
def State.increments (s : State) (l : List Nat) : Nat :=
  (l.map fun a => (s.word a % 2 ^ 48 + 2 ^ 48 - Table.get (fun _ => 0) s.snp.health a % 2 ^ 48) % 2 ^ 48).foldl (· + ·) 0

/-- HEALTH as R470 computes it. -/
def State.healthScore (s : State) : Nat :=
  let term (l : List Nat) (f : Fld) : Nat := s.increments l >>> s.fld snpPage f
  min 1023 (term healthMem R.SNP_GOV_WEIGHTS_SHIFT_MEM + term healthLane R.SNP_GOV_WEIGHTS_SHIFT_LANE
    + term healthReplay R.SNP_GOV_WEIGHTS_SHIFT_REPLAY + term healthThermal R.SNP_GOV_WEIGHTS_SHIFT_THERMAL
    + 256 * s.fieldEvents)

/-- A seal sets HEALTH to 0 and starts its counts anew (R457, R470). -/
def State.healthSeal (s : State) : State :=
  let base := healthAll.foldl (fun t a => Table.set (fun _ => 0) t a (s.word a % 2 ^ 48)) []
  ({ s with fieldEvents := 0, snp := { s.snp with health := base } }).put snpPage R.SNP_GOV_STS_HEALTH 0

/-- A counter takes a value that is no increment: the counts of R470 stay as they are. -/
def State.rebase (s : State) (a new : Nat) : State :=
  if healthAll.contains a then
    let base := (Table.get (fun _ => 0) s.snp.health a + new % 2 ^ 48 + 2 ^ 48 - s.word a % 2 ^ 48) % 2 ^ 48
    { s with snp := { s.snp with health := Table.set (fun _ => 0) s.snp.health a base } }
  else s

/-- States of a bank (R447). -/
abbrev Bank.EMPTY : Nat := 0
abbrev Bank.FILLING : Nat := 1
abbrev Bank.SEALED : Nat := 2
abbrev Bank.VERIFYING : Nat := 3

/-- The state of a bank, 0 and 1 the keep banks, 2 and 3 the partner banks (R483). -/
def bankField (b : Nat) : Fld := ⟨0x148, 12 + 3 * b, 3⟩

def State.bankState (s : State) (b : Nat) : Nat := s.fld snpPage (bankField b)

/-- First page of a bank: its header (R446). -/
def State.bankPage (s : State) (b : Nat) : Nat := s.fld snpPage (R.SNP_BANK_BASE b)

/-- STEP of a bank, as its header holds it (R448). -/
def State.bankStep (s : State) (b : Nat) : Nat := s.load (s.bankPage b * pageBytes + 4) 4

/-- STEPS_SINCE at a primary step number (R471). -/
def State.stepsSince (s : State) (t : Nat) : Nat :=
  match (([0, 1].filter fun b => s.bankState b == Bank.SEALED).map s.bankStep).max? with
  | some m => min 65535 ((t + 2 ^ 32 - m % 2 ^ 32) % 2 ^ 32)
  | none => 65535

/-- The least integer not below a finite FP64 code that is not negative. -/
def ceil64 (x : Nat) : Option Nat :=
  match decode .fp64 x with
  | .fin _ m e => some (ceilDiv (toFrac m e).1 (toFrac m e).2)
  | _ => none

/-- INTERVAL in rate mode (R472). -/
def State.poseInterval (s : State) : Nat :=
  let npkg := nat64 (s.dataSize * s.seqSize * s.stages)
  let fixed (n : Nat) : Nat := packRound .fp64 .nearest false n 65536
  let rate := fixed (s.fld snpPage R.SNP_GOV_RATE_RATE)
  let cost := fixed (s.fld snpPage R.SNP_GOV_RATE_COST)
  let lam := fdiv .fp64 (fmul .fp64 rate npkg) (nat64 1000000)
  let most := s.fld snpPage R.SNP_GOV_CTL_MAX_INTERVAL
  if !positive64 lam then most
  else match ceil64 (fsqrt .fp64 (fdiv .fp64 (fmul .fp64 (nat64 2) cost) lam)) with
    | some n => min most (max (s.fld snpPage R.SNP_GOV_CTL_MIN_INTERVAL) n)
    | none => most

/-- SNP at a gate evaluation of the primary context, at primary step `t` (R470–R472). STEPS_SINCE follows the banks and
the step, and has no state of its own. -/
def State.governor (s : State) (t : Nat) : State :=
  let ctl (f : Fld) : Nat := s.fld snpPage f
  let mode := ctl R.SNP_CTL_GOV_MODE
  let s := s.put snpPage R.SNP_GOV_STS_HEALTH s.healthScore
  let since := s.stepsSince t
  let s := if mode = 2 then s.put snpPage R.SNP_GOV_STS_INTERVAL s.poseInterval else s
  match mode with
  | 0 => s.flag snpPage R.SNP_GOV_STS_DUE false
  | 1 => s.flag snpPage R.SNP_GOV_STS_DUE
      ((decide (ctl R.SNP_GOV_CTL_RISK_THRESH ≤ s.fld snpPage R.SNP_GOV_STS_HEALTH)
          && decide (ctl R.SNP_GOV_CTL_MIN_SPACING ≤ since)) || decide (ctl R.SNP_GOV_CTL_MAX_INTERVAL ≤ since))
  | 2 => s.flag snpPage R.SNP_GOV_STS_DUE (decide (s.fld snpPage R.SNP_GOV_STS_INTERVAL ≤ since))
  | _ =>
    let t := s.draw
    t.2.flag snpPage R.SNP_GOV_STS_DUE (Config.reservedDue t.1)

/-! The step summary. -/

/-- The sums of a list with those of another slot by slot, each addition rounded once (R393). -/
def addStats (acc own : List (Nat × Stat)) : List (Nat × Stat) :=
  own.foldl (fun t e =>
    let x := Table.get (fun _ => {}) t e.1
    Table.set (fun _ => {}) t e.1 ⟨fadd .fp64 x.sumL e.2.sumL, fadd .fp64 x.sumR e.2.sumR, x.count + e.2.count⟩) acc

/-- A summary item of this package. -/
def State.summaryItem (s : State) (leg : SummaryLeg) (stage : Nat) (w : StageWord) (sums : List (Nat × Stat)) : SummaryItem :=
  ⟨{ s.baseHdr 0 with last := true }, leg, stage, BitVec.ofNat 16 w.word, w.due,
    sums.map fun e => ⟨Fin.ofNat 64 e.1, BitVec.ofNat 64 e.2.sumL, BitVec.ofNat 64 e.2.sumR, e.2.count⟩⟩

/-- Send a summary item to the peer of a group. -/
def State.sendSummary (s : State) (g : Nat) (i : SummaryItem) : State :=
  match s.groupPeer g with
  | some rank => (s.sendRank rank none (.summary i)).countItem
  | none => s

/-- Stage words known, by stage. -/
def State.stageWord (s : State) (k : Nat) : Option StageWord := Table.get (fun _ => none) s.clx.words k

/-- Record a stage word. -/
def State.setStageWord (s : State) (k : Nat) (w : StageWord) : State :=
  { s with clx := { s.clx with words := Table.set (fun _ => none) s.clx.words k (some w) } }

/-- With the word of every stage the job gate word and JOB_DUE are known (R199, R394, R473). -/
def State.jobWordMaybe (s : State) : State :=
  let l := tabulate s.stageWord s.stages
  if s.clx.summary && s.clx.sums.isSome && l.all Option.isSome then
    let w := l.filterMap id
    let s : State := { s with clx := { s.clx with summary := false } }
    s.setGate 0 { s.gate 0 with
      job := some (w.foldl (fun a x => a ||| x.word) 0), jobDue := w.any StageWord.due }
  else s

/-- The summary of the stage has come back: estimates form, each of the 64 slots whose count is not P counts as dropped,
and the stage word goes to both pipeline neighbours (R393, R394, R396). -/
def State.stageDone (s : State) (w : StageWord) (sums : List (Nat × Stat)) : State :=
  let p := s.ringSize
  let good := sums.filter fun e => e.2.count == p
  let est := good.map fun e => s.estimate e.1 e.2
  let s := (s.count clxPage C.CLX_SUMMARIES 1).count clxPage C.CLX_STATS_DROPPED (64 - good.length)
  let s : State := { s with clx := { s.clx with sums := some (w, sums), estimates := est } }
  let s := s.setStageWord s.stage w
  let s := s.sendSummary Grp.pipeNext (s.summaryItem .chainFromPrev s.stage w [])
  let s := s.sendSummary Grp.pipePrev (s.summaryItem .chainFromNext s.stage w [])
  s.jobWordMaybe

/-- The package adds its own part to the sums of the positions before it; the last position has the result and passes it
back around the ring (R393). -/
def State.addOwn (s : State) (w : StageWord) (sums : List (Nat × Stat)) : State :=
  let own := s.clx.own
  let w : StageWord := ⟨w.word ||| own.1.word, w.due || own.1.due⟩
  let sums := addStats sums own.2
  if s.ringPos + 1 < s.ringSize then s.sendSummary Grp.ringNext (s.summaryItem .accumulate s.stage w sums)
  else (s.sendSummary Grp.ringNext (s.summaryItem .passBack s.stage w sums)).stageDone w sums

/-- CLX starts the summary of a step (R393): position 0 sends first. -/
def State.summaryStart (s : State) (word : Nat) : State :=
  let own : StageWord × List (Nat × Stat) := (⟨word, s.on snpPage R.SNP_GOV_STS_DUE⟩, s.clx.meas)
  let s : State := { s with clx := { s.clx with summary := true, own := own, meas := [], sums := none } }
  if s.ringPos = 0 then s.addOwn ⟨0, false⟩ [] else s

/-- Whether this package can take a summary item now: the accumulating and the returning legs once its own word has
formed, a chain word while the word of its stage is not known. -/
def State.summaryFits (s : State) (i : SummaryItem) : Bool :=
  i.hdr.step.toNat == s.floorStep % 2 ^ 32 && (match i.leg with
    | .accumulate => s.clx.summary && s.clx.sums.isNone && s.ringPos != 0
    | .passBack => s.clx.summary && s.clx.sums.isNone && s.ringPos + 1 != s.ringSize
    | _ => decide (i.stage < s.stages) && (s.stageWord i.stage).isNone)

/-- A step-summary item arrives; one of another epoch is discarded, and one that comes too early waits. -/
def State.summaryItemIn (s : State) (e : Nat) (i : SummaryItem) : State :=
  match s.clxItem e i.hdr (.summary i) with
  | none => s
  | some t =>
    if i.hdr.epoch.toNat ≠ t.epoch then t.wrongEpoch e none
    else if !t.summaryFits i then s
    else
      let w : StageWord := ⟨i.word.toNat, i.due⟩
      let sums := i.sums.foldl (fun l (x : SlotSum) =>
        Table.set (fun _ => ({} : Stat)) l x.slot.val ⟨x.sumL.toNat, x.sumR.toNat, x.count⟩) []
      match i.leg with
      | .accumulate => t.addOwn w sums
      | .passBack =>
        let t := if (t.ringPos + 2) % t.ringSize = 0 then t else t.sendSummary Grp.ringNext i
        t.stageDone w sums
      | .chainFromPrev => ((t.setStageWord i.stage w).sendSummary Grp.pipeNext i).jobWordMaybe
      | .chainFromNext => ((t.setStageWord i.stage w).sendSummary Grp.pipePrev i).jobWordMaybe

/-- SUMMARY (R393, R394, R396). -/
def execSummary (e : Fin 32) (i : SummaryItem) (s : State) : Host.Outcome State Fault Refusal :=
  .next (s.summaryItemIn e.val i)

/-! LAYOUT_APPLY. -/

/-- Whether CLX refuses a held layout and position (R400, R401). -/
def badLayout (l p : Nat) : Bool :=
  let data := bits l 0 14
  let sq := bits l 16 7
  let st := bits l 32 9
  data == 0 || decide (8192 < data) || sq == 0 || decide (64 < sq) || st == 0 || decide (256 < st)
    || decide (8192 < data * sq * st) || (bitOn l 63 && decide (1 < st))
    || decide (data ≤ bits p 0 13) || decide (sq ≤ bits p 16 7) || decide (st ≤ bits p 32 9)

/-- The held layout and peers apply, or the layout is refused (R399, R400, R433, R434, R443). -/
def State.layoutApply (s : State) : State :=
  if !s.clx.switchDue || s.inflight != 0 then s
  else
    let l := s.clx.layout.getD (s.word (clxPage + R.CLX_LAYOUT.off))
    let p := s.clx.pos.getD (s.word (clxPage + R.CLX_POS.off))
    let peers := s.clx.peers
    let partner := s.clx.partner
    let s := s.put clxPage R.CLX_EPOCH_STS_SWITCH_PENDING 0
    let s : State := { s with clx := { s.clx with layout := none, pos := none, switchDue := false } }
    if badLayout l p then
      ((s.put clxPage R.CLX_EPOCH_STS_LAYOUT_REFUSED 1).intSet clxPage 1).clxRelease
    else
      let s : State := { s with
        clx := { s.clx with
          peers := [], partner := none, newEpoch := true, seqPasses := 0, inbound := [], ended := [], aborted := [],
          owed := [] } }
      let s := (s.setWord (clxPage + R.CLX_LAYOUT.off) l).setWord (clxPage + R.CLX_POS.off) p
      let s := s.put clxPage R.CLX_POS_RANK s.rank
      let s := s.put clxPage R.CLX_EPOCH_STS_EPOCH (s.epoch + 1)
      let s := s.each peers fun s e => s.setWord (figPage + (R.PEER_TABLE e.1).off) e.2
      let s := match partner with
        | some w => s.setWord (snpPage + R.SNP_PARTNER.off) w
        | none => s
      let s := if s.on figPage R.FIG_STS_STALE then s else (s.put figPage R.FIG_STS_STALE 1).intSet figPage 1
      (s.count clxPage C.CLX_EPOCH_SWITCHES 1).intSet clxPage 0

end Sys2Proof.Machine
end

