-- ==== Sys2Proof/Machine/Figure.lean ====
section
/-! DEFINITION. Figures: FIGURE_CHANGE, its swap and its time-out, the effective weights (R408–R423), and LAYOUT_APPLY. -/

namespace Sys2Proof.Machine

/-! The check of R416. -/

/-- Whether a slot's entry is refused (R416). -/
def State.badEntry (s : State) (f e : Nat) : Bool :=
  let g := s.entryGroups f e
  let w := s.fld figPage (R.FIG_ENTRY_WEIGHT f e)
  (g.isEmpty && w != 0) || (!g.isEmpty && w == 0)
    || g.any fun x => (s.groupPeer x).isNone || s.groupPeer x != s.peerOf e

/-- The channels present in a figure slot. -/
def State.slotChannels (s : State) (f : Nat) : List Nat :=
  presentChannels ((List.range 32).flatMap (s.entryGroups f))

/-- DETAIL of FIG_INVALID for a slot, none where the slot passes (R416). -/
def State.figureError (s : State) (f : Nat) : Option Nat :=
  match (List.range 32).find? (s.badEntry f) with
  | some e => some e
  | none =>
    if (s.slotChannels f).any fun n => chWeight (s.fld figPage (R.FIG_WEIGHTS_CHW f)) n == 0 then some 32 else none

/-! Allocations of a change. -/

/-- The allocation that a slot gives a channel of a sub-link (R414). -/
def State.slotAlloc (s : State) (f e n : Nat) : Nat :=
  allocOf (presentChannels (s.entryGroups f e)) (s.fld figPage (R.FIG_WEIGHTS_CHW f)) n

/-- The allocation of the figure in force, before the first one that of a sub-link with no group. -/
def State.oldAlloc (s : State) (e n : Nat) : Nat :=
  if s.fig.started then s.slotAlloc s.figure e n else allocOf [] 0 n

/-- Whether a change to a slot changes the allocations of a sub-link (R419). -/
def State.allocChanges (s : State) (f e : Nat) : Bool := (List.range 11).any fun n => s.oldAlloc e n != s.slotAlloc f e n

/-- The refill that runs and names a sub-link (R467). -/
def State.refillOn (s : State) (e : Nat) : Option Nat :=
  (s.snp.refills.map Refill.entry).find? fun n => bitOn (s.fld snpPage (R.REFILL_W1_SUBLINKS n)) e

/-- The allocation of a sub-link that serves no group: its unallocated payloads go to a refill that names it (R414,
R467). -/
def State.freeAlloc (s : State) (e n : Nat) : Nat :=
  match s.refillOn e with
  | none => allocOf [] 0 n
  | some r =>
    let both := s.fld snpPage (R.REFILL_W0_KIND r) == 3
    if n = 7 then 256
    else if n = 9 then (if both then 3808 else 7616)
    else if n = 10 then (if both then 3808 else 0)
    else allocOf [] 0 n

/-- Whether a sub-link that drains has reached step 4 of R420. -/
def State.drained (s : State) (e : Nat) : Bool :=
  let l := s.link e
  (s.slState e == Sl.OFF || s.slState e == Sl.DOWN || (s.slState e == Sl.TRAINING && !l.retraining))
    || (s.slUp e && l.replay.isEmpty
        && (List.range 32).all fun n => Table.get (fun _ => 0) l.credits n == s.alloc e n)

/-- The sub-links that drain in a change to a slot: in service, or retraining in the field, and with other allocations. -/
def State.draining (s : State) (f : Nat) : List Nat :=
  (List.range 32).filter fun e => (s.slUp e || (s.slState e == Sl.TRAINING && (s.link e).retraining)) && s.allocChanges f e

/-! FIGURE_CHANGE. -/

/-- FIG takes the next figure change in order of arrival, once no held layout waits (R416, R420, R423); `fuel` is the
number that wait. -/
def State.figNext (s : State) : Nat → State
  | 0 => s
  | fuel + 1 =>
    if s.fig.running.isSome || s.on clxPage R.CLX_EPOCH_STS_SWITCH_PENDING then s
    else match s.fig.waiting with
      | [] => s
      | x :: rest =>
        let s : State := { s with fig := { s.fig with waiting := rest } }
        match s.cmdOf x.1 with
        | none => s.figNext fuel
        | some c =>
          match s.figureError x.2.1 with
          | some e =>
            (((s.count figPage C.FIG_FIG_REFUSED 1).intSet figPage 0).fail c Err.FIG_INVALID e).figNext fuel
          | none =>
            ({ s with fig := { s.fig with running := some x, drains := s.draining x.2.1 } }).put figPage R.FIG_STS_CHANGING 1

/-- FIG goes on with what waits. -/
def State.figGo (s : State) : State := s.figNext s.fig.waiting.length

/-- The slot that FIG_PHASE_MAP gives for a phase (R418, R438). -/
def State.phaseSlot (s : State) (phase : Nat) : Nat := bits (s.word (figPage + R.FIG_PHASE_MAP.off)) (3 * phase) 3

/-- A FIGURE_CHANGE executes (R418, R423). -/
def State.figureChange (s : State) (c : Cmd) : State :=
  let phase := wf c.words 2 0 3
  let s := s.mapCmd c.id fun x => { x with stage := .figure }
  ({ s with fig := { s.fig with waiting := s.fig.waiting ++ [(c.id, s.phaseSlot phase, phase)] } }).figGo

/-- FIGURE_CHANGE. -/
def execFigureChange (d : Fin 4) (q : Fin 64) (ext : HostSlot) (s : State) : Host.Outcome State Fault Refusal :=
  .next (s.v2 d q ext Opc.FIGURE_CHANGE noPrep State.figureChange)

/-! The swap. -/

/-- Lanes of a sub-link in service for sending (R354). -/
def State.txLanes (s : State) (e : Nat) : Nat := s.fld (opxPage (e / 2)) (R.OPX_SL_STS_TX_LANES (e % 2))

/-- FIG computes the effective weight of a sub-link (R415). -/
def State.weigh (s : State) (e : Nat) : State :=
  let w := s.fld figPage (R.FIG_ENTRY_WEIGHT s.figure e) * s.txLanes e
  { s with fig := { s.fig with weights := Table.set (fun _ => 0) s.fig.weights e w, dealt := [] } }

/-- Steps 5 and 6 of R420, with R421: a sub-link that went DOWN or OFF meanwhile has drained too. -/
def State.swap (s : State) (x : Nat × Nat × Nat) : State :=
  let f := x.2.1
  let changed := (List.range 32).filter (s.allocChanges f)
  let s := s.each changed fun s e =>
    s.writeAlloc e (if (s.entryGroups f e).isEmpty then s.freeAlloc e else s.slotAlloc f e)
  let s := s.each changed State.resetCredits
  let drained := s.fig.drains
  let s := s.put figPage R.FIG_STS_FIGURE f
  let s := s.put figPage R.FIG_STS_PHASE x.2.2
  let s := s.put figPage R.FIG_STS_STEP s.floorStep
  let s := s.put figPage R.FIG_STS_STALE 0
  let s := s.put figPage R.FIG_STS_CHANGING 0
  let s : State := { s with
    fig := { s.fig with running := none, started := true, drains := [] }, clx := { s.clx with newEpoch := false } }
  let s := s.each (List.range 32) State.weigh
  let s := (s.count figPage C.FIG_FIGURE_CHANGES 1).count figPage C.FIG_SUBLINKS_DRAINED drained.length
  let s := (s.clxRelease).intSet figPage 0
  let s := match s.cmdOf x.1 with
    | some c => s.done c
    | none => s
  ((s.flushUnsent).each (List.range 32) State.pump).figGo

/-- FIGURE_SWAP occurs once every draining sub-link has drained and INFLIGHT is zero (R420). -/
def State.figureSwap (s : State) : State :=
  match s.fig.running with
  | none => s
  | some x => if s.inflight = 0 ∧ (s.fig.drains.all s.drained) = true then s.swap x else s

/-- FIGURE_SWAP. -/
def execFigureSwap (s : State) : Host.Outcome State Fault Refusal := .next s.figureSwap

/-- DRAIN_LIMIT expires before step 4 (R422). -/
def State.figTimeout (s : State) : State :=
  match s.fig.running with
  | none => s
  | some x =>
    let left := s.fig.drains.find? fun e => !s.drained e
    match (if s.inflight ≠ 0 then some 32 else left) with
    | none => s
    | some e =>
      let s : State := { s with fig := { s.fig with running := none, drains := [] } }
      let s := ((s.put figPage R.FIG_STS_CHANGING 0).count figPage C.FIG_DRAIN_TIMEOUTS 1).intSet figPage 0
      let s := s.clxRelease
      let s := match s.cmdOf x.1 with
        | some c => s.fail c Err.FIG_DRAIN_TIMEOUT e
        | none => s
      -- SNP resumes on the old figure
      ((s.flushUnsent).each (List.range 32) State.pump).figGo

/-- FIG_DRAIN_TIMEOUT. -/
def execFigDrainTimeout (s : State) : Host.Outcome State Fault Refusal := .next s.figTimeout

/-- REWEIGHT occurs for a sub-link whose lanes have changed (R349, R415). -/
def execReweight (e : Fin 32) (s : State) : Host.Outcome State Fault Refusal :=
  .next (if s.fig.due.contains e.val then
    (({ s with fig := { s.fig with due := setErase e.val s.fig.due } }).weigh e.val).count figPage C.FIG_REWEIGHTS 1
  else s)

/-- A layout has applied while a figure change ran: the change is checked against the new layout and peers, and drains anew, as
the one that clears STALE does (R434; log entry 37). -/
def State.figAgain (s : State) : State :=
  match s.fig.running with
  | none => s
  | some x =>
    ({ s with fig := { s.fig with running := none, drains := [], waiting := x :: s.fig.waiting } } : State).put
      figPage R.FIG_STS_CHANGING 0

/-- LAYOUT_APPLY (R399); a figure change that waits for it goes on (R423). -/
def execLayoutApply (s : State) : Host.Outcome State Fault Refusal :=
  let t := s.layoutApply
  .next (if t.epoch = s.epoch then t.figGo else t.figAgain.figGo)

end Sys2Proof.Machine
end

