-- ==== Sys2Proof/Machine/Gate.lean ====
section
/-! DEFINITION. STEP_GATE, the package gate word and the gate's evaluation (R197–R204, R176, R264). -/

namespace Sys2Proof.Machine

/-- A STEP_GATE takes the outcome of its gate: its open or shut cell, and the OPT_COUNT commands that follow it
(R201, R202, R264). -/
def State.gateTake (s : State) (c : Cmd) (opens : Bool) : State :=
  let w := c.words
  let n := wf w 2 48 16
  let k := queueNo c.die c.queue
  let cell : Option Nat :=
    if opens then some (cellNo (wf w 2 14 2) (wf w 2 0 14))
    else if wf w 2 32 1 = 1 then some (cellNo (wf w 2 30 2) (wf w 2 16 14)) else none
  let lost := (cell.map fun x => x / 16384).filter fun d => !s.present d
  let s := match cell with
    | some x => s.signalLive ⟨x, false, 1⟩ (fromDie c.die)
    | none => s
  let s := s.setQueue k { s.queue k with
    opt := if opens then n else 0, skip := if opens then 0 else n, haltAfter := lost.isSome && n != 0 }
  match lost with
  | some d => s.fail { c with stage := .gate } Err.DIE_ABSENT d
  | none => s.done c

/-- A STEP_GATE reaches execution (R200). -/
def State.stepGate (s : State) (c : Cmd) : State :=
  let pg := page c.die B.JCX
  if s.on pg (R.JCX_NUM_STS_GATE_DONE c.context) then s.gateTake c (s.on pg (R.JCX_GATE_OPEN c.context))
  else (s.mapCmd c.id fun x => { x with stage := .gate }).put pg (R.JCX_NUM_STS_GATE_WAIT c.context) 1

/-- STEP_GATE. -/
def execStepGate (d : Fin 4) (q : Fin 64) (ext : HostSlot) (s : State) : Host.Outcome State Fault Refusal :=
  .next (s.v2 d q ext Opc.STEP_GATE noPrep State.stepGate)

/-- The STEP_GATE commands that wait on a die for the gate of a context. -/
def State.gateCmds (s : State) (d ctx : Nat) : List Cmd :=
  s.cmds.filter fun c => c.die == d && c.context == ctx && c.stage == .gate

/-- The floor forms the package gate word of a step (R198), which is the job gate word of the cut-in context (R199). -/
def State.gateWordForm (s : State) (ctx : Nat) : State :=
  let dies := s.presentDies
  if (s.gate ctx).word.isNone && !dies.isEmpty && dies.all fun d => !(s.gateCmds d ctx).isEmpty then
    let word := dies.foldl (fun w d => w ||| s.causes d ctx) 0
    if ctx = 0 then (s.setGate 0 { s.gate 0 with word := some word }).summaryStart word
    else s.setGate ctx { s.gate ctx with word := some word, job := some word }
  else s

/-- GATE_WORD_FORM. -/
def execGateWordForm (c : Ctx) (s : State) : Host.Outcome State Fault Refusal := .next (s.gateWordForm (ctxNo c))

/-! GATE_EVALUATION. -/

/-- STEP_AMAX of the tensors reported on a present die, with their package amax (R176). -/
def State.packageAmax (s : State) (ctx : Nat) : List (Nat × Nat) :=
  let dies := s.presentDies
  let tensors := dies.foldl (fun l d => (s.stepTensors d ctx).foldl (fun l t => setInsert t l) l) []
  tensors.map fun t => (t, dies.foldl (fun a d => match s.entryAddr d ctx t with
    | some e => amaxMax a (s.entry e 2 0 32)
    | none => a) 0)

/-- The history of a die takes the package amax (R176). -/
def State.historyUpdate (s : State) (d ctx : Nat) (l : List (Nat × Nat)) : State :=
  s.each l fun s e =>
    match s.entryAddr d ctx e.1 with
    | none => s
    | some a =>
      let n := (s.entry a 0 40 4 + 1) % 16
      let s := s.putEntry a (3 + n / 2) (32 * (n % 2)) 32 e.2
      let s := s.putEntry a 0 40 4 n
      let s := s.putEntry a 0 32 5 (min 16 (s.entry a 0 32 5 + 1))
      s.putEntry a 2 0 32 0

/-- A shut gate discards STEP_AMAX (R202). -/
def State.discardAmax (s : State) (d ctx : Nat) : State :=
  s.each (s.stepTensors d ctx) fun s t =>
    match s.entryAddr d ctx t with
    | some a => s.putEntry a 2 0 32 0
    | none => s

/-- What the first evaluation of a step of the primary context does once for the package (R395, R397, R399, R470–R473):
`t` is the step evaluated. -/
def State.firstEvaluation (s : State) (opens : Bool) (t : Nat) : State :=
  let s := s.statsGate opens t
  let s : State := { s with clx := { s.clx with measured := [] } }
  let s := s.governor (if opens then t + 1 else t)
  let s := s.flag snpPage R.SNP_GOV_STS_JOB_DUE (s.gate 0).jobDue
  if s.on clxPage R.CLX_EPOCH_STS_SWITCH_PENDING then { s with clx := { s.clx with switchDue := true } } else s

/-- A gate whose present dies have all evaluated is ready for the next step; the floor's sampled cause clears (R197, R198). -/
def State.gateSettle (s : State) (ctx : Nat) : State :=
  let g := s.gate ctx
  if g.job.isSome && s.presentDies.all g.done.contains then
    let left := Table.get (fun _ => 0) s.floorCause ctx / 2
    let s : State := { s.setGate ctx {} with floorCause := Table.set (fun _ => 0) s.floorCause ctx left }
    if ctx = 0 then { s with clx := { s.clx with sums := none, words := [] } } else s
  else s

/-- The gate of a die evaluates the job gate word (R201, R202). -/
def State.evaluate (s : State) (d ctx word : Nat) : State :=
  let pg := page d B.JCX
  let opens := word == 0
  let t := s.stepOf d ctx
  let g := s.gate ctx
  let first := g.done.isEmpty
  let s := if first then s.setGate ctx { g with amax := if opens then s.packageAmax ctx else [] } else s
  let s :=
    if opens then
      let s := s.historyUpdate d ctx (s.gate ctx).amax
      (s.put pg (R.JCX_STEP_STEP ctx) (t + 1)).count (page d B.NUM) C.NUM_STEPS_COMMITTED 1
    else
      let s := (s.discardAmax d ctx).count (page d B.NUM) C.NUM_STEPS_SHUT 1
      let s := if s.presentDies.head? = some d ∧ !(s.gate ctx).shutRec then
          (s.setGate ctx { s.gate ctx with shutRec := true }).numEvent d ctx 4 0 0 0 0 0 word
        else s
      s.intSet (page d B.NUM) 1
  let next := (s.job d ctx).next
  let s := (s.setJob d ctx { s.job d ctx with next := 0, afterOpen := opens }).putCauses d ctx next
  let s := s.put pg (R.JCX_NUM_STS_NF_AFTER_GATE ctx) 0
  let s := s.put pg (R.JCX_GATE_STEP ctx) t
  let s := s.put pg (R.JCX_GATE_VALID ctx) 1
  let s := s.flag pg (R.JCX_GATE_OPEN ctx) opens
  let s := s.put pg (R.JCX_GATE_WORD ctx) word
  let s := s.put pg (R.JCX_NUM_STS_GATE_DONE ctx) 1
  let s := (s.put pg (R.JCX_NUM_STS_GATE_WAIT ctx) 0).intSet pg ctx
  let s := s.setGate ctx { s.gate ctx with done := setInsert d (s.gate ctx).done }
  let s := if first ∧ ctx = 0 then s.firstEvaluation opens t else s
  (s.each (s.gateCmds d ctx) fun s c => s.gateTake c opens).gateSettle ctx

/-- GATE_EVALUATION occurs on a die whose STEP_GATE waits, once the job gate word is available and no bracket of the
context is open on a present die (R200). -/
def State.gateEvaluation (s : State) (d ctx : Nat) : State :=
  let g := s.gate ctx
  match g.job with
  | none => s
  | some word =>
    if s.present d && !g.done.contains d && !(s.gateCmds d ctx).isEmpty
        && !(s.presentDies.any fun e => (s.job e ctx).bracket.isSome) then s.evaluate d ctx word
    else s

/-- GATE_EVALUATION. -/
def execGateEvaluation (d : Fin 4) (c : Ctx) (s : State) : Host.Outcome State Fault Refusal :=
  .next (s.gateEvaluation d.val (ctxNo c))

end Sys2Proof.Machine
end

