-- ==== Sys2Proof/Machine/Sha3.lean ====
section
/-! DEFINITION. SHA3-256 and SHA3-512 of FIPS 202, which R450 and R549 name, and the SHAKE functions that ML-DSA-87 uses. -/

namespace Sys2Proof.Machine

/-- A 64-bit word turned left. -/
def rotl64 (x n : Nat) : Nat := (x <<< (n % 64) ||| x >>> (64 - n % 64)) % 2 ^ 64

/-- Rotation of lane x + 5·y in ρ. -/
def keccakRho : List Nat :=
  [0, 1, 62, 28, 27, 36, 44, 6, 55, 20, 3, 10, 43, 25, 39, 41, 45, 15, 21, 8, 18, 2, 61, 56, 14]

/-- The round constants of ι. -/
def keccakRc : List Nat :=
  [0x0000000000000001, 0x0000000000008082, 0x800000000000808A, 0x8000000080008000, 0x000000000000808B,
   0x0000000080000001, 0x8000000080008081, 0x8000000000008009, 0x000000000000008A, 0x0000000000000088,
   0x0000000080008009, 0x000000008000000A] ++
  [0x000000008000808B, 0x800000000000008B, 0x8000000000008089, 0x8000000000008003, 0x8000000000008002,
   0x8000000000000080, 0x000000000000800A, 0x800000008000000A, 0x8000000080008081, 0x8000000000008080,
   0x0000000080000001, 0x8000000080008008]

/-- One round of Keccak-f[1600] on 25 lanes: θ, ρ, π, χ and ι. -/
def keccakRound (a : List Nat) (rc : Nat) : List Nat :=
  let l (v : List Nat) (x y : Nat) : Nat := v.getD (x % 5 + 5 * (y % 5)) 0
  let c := tabulate (fun x => l a x 0 ^^^ l a x 1 ^^^ l a x 2 ^^^ l a x 3 ^^^ l a x 4) 5
  let d := tabulate (fun x => c.getD ((x + 4) % 5) 0 ^^^ rotl64 (c.getD ((x + 1) % 5) 0) 1) 5
  let t := tabulate (fun i => a.getD i 0 ^^^ d.getD (i % 5) 0) 25
  -- lane (x, y) moves to (y, 2x + 3y)
  let b := tabulate (fun i =>
    let x := (i % 5 + 3 * (i / 5)) % 5
    let y := i % 5
    rotl64 (l t x y) (keccakRho.getD (x + 5 * y) 0)) 25
  let e := tabulate (fun i => l b (i % 5) (i / 5) ^^^ ((2 ^ 64 - 1 - l b (i % 5 + 1) (i / 5)) &&& l b (i % 5 + 2) (i / 5))) 25
  match e with
  | x :: r => (x ^^^ rc) :: r
  | [] => []

/-- Keccak-f[1600]. -/
def keccakF (a : List Nat) : List Nat := keccakRc.foldl keccakRound a

/-- A block of the rate enters the state. -/
def absorb (a : List Nat) (block : List Byte) : List Nat :=
  keccakF (tabulate (fun i => a.getD i 0 ^^^ leNat ((block.drop (8 * i)).take 8)) 25)

/-- The padded message of a rate in bytes: the suffix and first padding bit, zeros, and the last bit. -/
def pad3 (suffix rate : Nat) (m : List Byte) : List Byte :=
  let n := rate - m.length % rate
  m ++ (if n = 1 then [BitVec.ofNat 8 (suffix + 0x80)] else BitVec.ofNat 8 suffix :: (List.replicate (n - 2) 0 ++ [0x80]))

/-- The state of the sponge after a message. -/
def sponge (suffix rate : Nat) (m : List Byte) : List Nat :=
  let p := pad3 suffix rate m
  (chunks rate p.length p).foldl absorb (List.replicate 25 0)

/-- The bytes of the rate in a state of the sponge. -/
def rateBytes (rate : Nat) (a : List Nat) : List Byte := (a.flatMap (leBytes 8)).take rate

/-- The next blocks that the sponge gives. -/
def squeeze (rate : Nat) : Nat → List Nat → List Byte
  | 0, _ => []
  | n + 1, a => rateBytes rate a ++ squeeze rate n (keccakF a)

/-- SHA3-256. -/
def sha3_256 (m : List Byte) : List Byte := rateBytes 32 (sponge 0x06 136 m)

/-- SHA3-512. -/
def sha3_512 (m : List Byte) : List Byte := rateBytes 64 (sponge 0x06 72 m)

/-- The first `n` bytes of SHAKE128. -/
def shake128 (n : Nat) (m : List Byte) : List Byte := (squeeze 168 (ceilDiv n 168) (sponge 0x1F 168 m)).take n

/-- The first `n` bytes of SHAKE256. -/
def shake256 (n : Nat) (m : List Byte) : List Byte := (squeeze 136 (ceilDiv n 136) (sponge 0x1F 136 m)).take n

end Sys2Proof.Machine
end

