-- ==== Sys2Proof/Machine/Snapshot.lean ====
section
/-! DEFINITION. Poses, promenades and refills (R443–R475): the pose of the state region, the pages sent to the partner,
the banks, and the transfers that give a copy back. -/

namespace Sys2Proof.Machine

/-! Causes of R479. -/

abbrev Cause.NONE : Nat := 0
abbrev Cause.LINK : Nat := 1
abbrev Cause.DOMAIN : Nat := 2
abbrev Cause.PEER_BUSY : Nat := 3
abbrev Cause.PEER_ABORT : Nat := 4
abbrev Cause.HOST_ABORT : Nat := 5
abbrev Cause.CONFIG : Nat := 6
abbrev Cause.DIGEST : Nat := 7

/-! The state region and the banks. -/

/-- Page indices of the state region, in page number (R445). -/
def State.extentPages (s : State) : List Nat :=
  (List.range 16).flatMap fun n =>
    if s.on snpPage (R.EXTENT_TABLE_VALID n) then
      (List.range (s.fld snpPage (R.EXTENT_TABLE_COUNT n))).map (s.fld snpPage (R.EXTENT_TABLE_FIRST_PAGE n) + ·)
    else []

/-- NPAGES (R445). -/
def State.npages (s : State) : Nat :=
  ((List.range 16).map fun n =>
    if s.on snpPage (R.EXTENT_TABLE_VALID n) then s.fld snpPage (R.EXTENT_TABLE_COUNT n) else 0).foldl (· + ·) 0

/-- The domain ID of the package (R444). -/
def State.domain (s : State) : Nat := s.fld snpPage R.SNP_CTL_DOMAIN_ID

/-- POSE_ID of a bank (R484). -/
def poseField (b : Nat) : Fld := if b < 2 then ⟨0x150, 32 * b, 32⟩ else ⟨0x158, 32 * (b - 2), 32⟩

def State.bankPose (s : State) (b : Nat) : Nat := s.fld snpPage (poseField b)

/-- Put a bank into a state. -/
def State.setBank (s : State) (b st : Nat) : State := s.put snpPage (bankField b) st

/-- A bank starts to fill with a pose (R447). -/
def State.fillBank (s : State) (b pose : Nat) : State := (s.setBank b Bank.FILLING).put snpPage (poseField b) pose

/-- A bank is EMPTY (R447, R484). -/
def State.emptyBank (s : State) (b : Nat) : State := (s.setBank b Bank.EMPTY).put snpPage (poseField b) 0

/-- The bank of a pair that a transfer takes (R447). -/
def State.chooseBank (s : State) (pair : List Nat) : Option Nat :=
  let free := pair.filter fun b => !bitOn (s.fld snpPage R.SNP_HOLD_HOLD) b
  match free.find? fun b => s.bankState b == Bank.EMPTY with
  | some b => some b
  | none => (free.filter fun b => s.bankState b == Bank.SEALED).foldl (fun o b => match o with
    | none => some b
    | some x => if s.bankStep b < s.bankStep x then some b else some x) none

abbrev keepBanks : List Nat := [0, 1]
abbrev partnerBanks : List Nat := [2, 3]

/-- Pages of the DRAM window (R213). -/
def dramPages : Nat := dramEnd / pageBytes

/-- The digest page of a bank with `pages` data pages: the last of the NPAGES + 2 pages of a keep bank and of the
PBANK_PAGES + 2 pages of a partner bank (R446). -/
def State.digestPage (s : State) (b pages : Nat) : Nat :=
  s.bankPage b + 1 + (if b < 2 then pages else s.fld snpPage R.SNP_PBANK_PAGES_PAGES)

/-- Whether a bank with `pages` data pages lies in DRAM (R213, R446). -/
def State.bankIn (s : State) (b pages : Nat) : Bool := decide (s.digestPage b pages < dramPages)

/-- Whether the state region lies in DRAM (R213, R445). -/
def State.regionIn (s : State) : Bool :=
  (List.range 16).all fun n => !s.on snpPage (R.EXTENT_TABLE_VALID n)
    || decide (s.fld snpPage (R.EXTENT_TABLE_FIRST_PAGE n) + s.fld snpPage (R.EXTENT_TABLE_COUNT n) ≤ dramPages)

/-- The bytes of a page as a read delivers them. -/
def State.pageBytesOf (s : State) (p : Nat) : List Byte := s.bytes (p * pageBytes) pageBytes

/-- SNP writes a page. -/
def State.writePage (s : State) (p : Nat) (l : List Byte) : State := s.write .engine none (p * pageBytes) l

/-- The statistics table as words (R406). -/
def State.statWords (s : State) : List Nat := tabulate (fun i => s.word (clxPage + 0x5000 + 8 * i)) 256

/-- The bytes of a header page (R448). -/
def headerBytes (pose step epoch rank domain npages : Nat) (stats : List Nat) (done : Bool) : List Byte :=
  let l := leBytes 4 pose ++ leBytes 4 step ++ leBytes 2 epoch ++ leBytes 2 rank ++ leBytes 2 domain ++ leBytes 2 npages
    ++ (wordBytes (stats ++ List.replicate (256 - stats.length) 0)).take 2048 ++ leBytes 8 (if done then 1 else 0)
  l ++ List.replicate (pageBytes - l.length) 0

/-- A field of a bank's header (R448). -/
def State.hdrField (s : State) (b off k : Nat) : Nat := s.load (s.bankPage b * pageBytes + off) k

def State.hdrEpoch (s : State) (b : Nat) : Nat := s.hdrField b 8 2
def State.hdrRank (s : State) (b : Nat) : Nat := s.hdrField b 10 2
def State.hdrDomain (s : State) (b : Nat) : Nat := s.hdrField b 12 2
def State.hdrPages (s : State) (b : Nat) : Nat := s.hdrField b 14 2
def State.hdrStats (s : State) (b : Nat) : List Nat := s.words (s.bankPage b * pageBytes + 16) 256

/-- The header of a bank as it travels. -/
def State.bankHdr (s : State) (b : Nat) : BankHdr where
  poseId := BitVec.ofNat 32 (s.hdrField b 0 4)
  step := BitVec.ofNat 32 (s.bankStep b)
  epoch := BitVec.ofNat 16 (s.hdrEpoch b)
  rank := BitVec.ofNat 13 (s.hdrRank b)
  domain := BitVec.ofNat 16 (s.hdrDomain b)
  npages := s.hdrPages b
  stats := (s.hdrStats b).map (BitVec.ofNat 64)

/-- A bank whose transfer fails returns to EMPTY while it is FILLING or VERIFYING (R447). -/
def State.dropBank (s : State) (b : Nat) : State :=
  if s.bankState b = Bank.FILLING ∨ s.bankState b = Bank.VERIFYING then s.emptyBank b else s

/-- Whether no write to a bank with `pages` data pages waits. -/
def State.bankLanded (s : State) (b pages : Nat) : Bool :=
  !(s.heldWrites.any fun w => decide (s.bankPage b * pageBytes ≤ w.addr)
    && decide (w.addr < (s.digestPage b pages + 1) * pageBytes))

/-- A bank holds a complete copy: SEALED, and the header says so (R447, R448). -/
def State.sealBank (s : State) (b : Nat) : State :=
  (s.setBank b Bank.SEALED).write .engine none (s.bankPage b * pageBytes + 2064) (leBytes 8 1)

/-- Address of the digest entry of data page `n` of a bank with `pages` data pages (R446, R449). -/
def State.entryOf (s : State) (b pages n : Nat) : Nat := s.digestPage b pages * pageBytes + 64 * n

/-- The digest of a page (R450). -/
def pageDigest (pose step epoch rank n : Nat) (l : List Byte) : List Byte :=
  sha3_256 (wordBytes [pose % 2 ^ 32 + step % 2 ^ 32 * 2 ^ 32, n % 2 ^ 32 + epoch % 2 ^ 16 * 2 ^ 32 + rank % 2 ^ 13 * 2 ^ 48,
    0, 0, 0, 0, 0, 0] ++ l)

/-- DGA hashes a page: the prefix of 64 bytes and the page (R450, R598; log entry 25). -/
def State.hashed (s : State) : State :=
  (s.count (page 4 B.DGA) C.DGA_PAGES_HASHED 1).count (page 4 B.DGA) C.DGA_BYTES_HASHED (pageBytes + 64)

/-- A digest entry (R449). -/
def digestEntry (digest : List Byte) (pose n : Nat) (poison : Bool) : List Byte :=
  digest ++ wordBytes [pose % 2 ^ 32 * 2 ^ 32 + n % 2 ^ 32, (if poison then 2 else 0) + 1, 0, 0]

/-- Whether data page `n` of a bank verifies under its header (R450, R463). -/
def State.verifies (s : State) (b pages n : Nat) : Bool :=
  let a := s.entryOf b pages n
  let l := s.pageBytesOf (s.bankPage b + 1 + n)
  s.bytes a 32 == pageDigest (s.hdrField b 0 4) (s.bankStep b) (s.hdrEpoch b) (s.hdrRank b) n l
    && !bitOn (s.load (a + 40) 8) 1

/-! Transfers: links, items. -/

/-- The sub-links of group PARTNER_NEXT onto which SNP admits a page (R420, step 2; R454). -/
def State.promLinks (s : State) : List Nat := (s.groupLinks Grp.partnerNext).filter fun e => !s.fig.drains.contains e

/-- The 512 items of a page (R369, R455), with EPOCH and STEP of the sender; the last carries the digest entry. -/
def State.pageItems (s : State) (origin pose n : Nat) (data entry : List Byte) : List PageItem :=
  tabulate (fun k => (⟨BitVec.ofNat 16 s.epoch, BitVec.ofNat 32 s.floorStep, BitVec.ofNat 13 origin, BitVec.ofNat 32 pose, n, 64 * k, (data.drop (4096 * k)).take 4096,
    if k = 511 then entry else []⟩ : PageItem)) 512

/-- Deal an item of SNP to one of a list of sub-links of a group. -/
def State.dealTo (s : State) (links : List Nat) (g : Nat) (m : Msg) : State :=
  match s.nextLink g links with
  | none => s
  | some e => s.deal g e none m

/-- A PCTL item of this package (R455). -/
def State.pctl (s : State) (origin cause pose pages kind : Nat) : PctlItem :=
  ⟨BitVec.ofNat 16 s.epoch, BitVec.ofNat 32 s.floorStep, BitVec.ofNat 13 origin, BitVec.ofNat 8 cause, BitVec.ofNat 32 pose, pages, kind, BitVec.ofNat 16 s.domain⟩

/-- A field of a refill entry. -/
def State.refillKind (s : State) (n : Nat) : Nat := s.fld snpPage (R.REFILL_W0_KIND n)
def State.refillPose (s : State) (n : Nat) : Nat := s.fld snpPage (R.REFILL_W0_POSE_ID n)

/-- Whether an entry counts as inbound (R466). -/
def State.inbound (s : State) (n : Nat) : Bool := s.on snpPage (R.REFILL_W0_ROLE n) || decide (4 ≤ s.refillKind n)

/-- The named sub-links of an entry (R467). -/
def State.refillLinks (s : State) (n : Nat) : List Nat :=
  (List.range 32).filter (bitOn (s.fld snpPage (R.REFILL_W1_SUBLINKS n)))

/-- The running refill of an entry. -/
def State.refill (s : State) (n : Nat) : Option Refill := s.snp.refills.find? fun r => r.entry == n

/-- Change the running refill of an entry. -/
def State.mapRefill (s : State) (n : Nat) (f : Refill → Refill) : State :=
  { s with snp := { s.snp with refills := mapIf (fun r => r.entry == n) f s.snp.refills } }

/-- Send a PCTL item over the sub-links that an entry names. -/
def State.sendRefill (s : State) (n : Nat) (k : PctlKind) (i : PctlItem) : State :=
  s.dealTo ((s.refillLinks n).filter s.slUp) (refillGroup n) (.pctl k i none)

/-- Whether a sub-link serves no group of the figure in force. -/
def State.groupless (s : State) (e : Nat) : Bool := !s.fig.started || (s.entryGroups s.figure e).isEmpty

/-- Give the unallocated payloads of the sub-links that serve no group to the refill that names them, or take them back
once its frames are acknowledged (R467). -/
def State.refillAllocs (s : State) : State :=
  s.each (List.range 32) fun s e =>
    let l := s.link e
    let busy := (l.replay ++ l.queue).any fun f => decide (7 ≤ f.channel)
    let differs := [7, 9, 10].any fun n => s.alloc e n != s.freeAlloc e n
    if s.groupless e && differs && ((s.refillOn e).isSome || !busy) then
      let s := s.writeAlloc e (s.freeAlloc e)
      s.setLink e { s.link e with
        credits := [7, 9, 10].foldl (fun t n => Table.set (fun _ => 0) t n (s.freeAlloc e n)) (s.link e).credits }
    else s

/-! Failures. -/

/-- A promenade fails (R460); its holder learns it by ABORT where the failure is this package's own. -/
def State.promFail (s : State) (cause : Nat) : State :=
  match s.snp.prom with
  | none => s
  | some x =>
    let armed := (s.pages.filter fun e => e.2.armed || e.2.preserved).map Prod.fst
    let s := s.each armed fun s p => s.setPageSt p { s.pageSt p with armed := false, preserved := false, slot := 0 }
    let s : State := { s with preserving := [], sending := none, snp := { s.snp with prom := none } }
    let s := (s.drainHeld.dropBank x.keep).put snpPage R.SNP_STS_PROM_STATE 4
    let s := s.put snpPage R.SNP_STS_CAUSE cause
    let s := (s.count snpPage C.SNP_PROMENADES_FAILED 1).report ⟨.promenadeFailed, 4, B.SNP, 0, 8, 0, cause⟩ {}
    let s := if cause = Cause.LINK ∨ cause = Cause.CONFIG then
        s.sendGroup Grp.partnerNext none (.pctl .abort (s.pctl s.rank cause x.pose x.pages.length 0) none)
      else s
    (s.intSet snpPage 0).clxLanded

/-- The holder's end of a promenade ends (R460); `cause` is that of the ABORT by which the source learns a failure that is
the holder's own. -/
def State.inPromEnd (s : State) (cause : Option Nat) : State :=
  match s.snp.inProm with
  | none => s
  | some x =>
    let s := ({ s with snp := { s.snp with inProm := none } }).dropBank x.bank
    match cause with
    | some k => s.sendGroup Grp.partnerPrev none (.pctl .abort (s.pctl x.origin k x.pose x.pages 0) none)
    | none => s

/-- An entry reaches DONE or ABORTED (R466, R467). -/
def State.refillEnd (s : State) (n st result : Nat) : State :=
  let s : State := { s with
    snp := { s.snp with refills := s.snp.refills.filter fun r => r.entry != n }
    clx := { s.clx with unsent := s.clx.unsent.filter fun u => u.group != some (refillGroup n) } }
  let s := s.put snpPage (R.REFILL_W0_STATE n) st
  let s := s.put snpPage (R.REFILL_W0_RESULT n) result
  let s := s.count snpPage (if st = 2 then C.SNP_REFILLS_DONE else C.SNP_REFILLS_ABORTED) 1
  (s.refillAllocs).intSet snpPage 1

/-- A destination of a RESTORE or REPLICATE has lost its source (R469). -/
def State.doubleFault (s : State) (n : Nat) (r : Refill) : State :=
  let d := s.draw
  let shard := ((r.banks.head?).map Prod.snd).getD (Config.openField d.1 % 2 ^ 13)
  let src := r.peer.getD (((s.refillLinks n).findSome? s.peerOf).getD (Config.openField d.1 % 2 ^ 13))
  let s := d.2.put snpPage R.SNP_DF_SHARD_RANK shard
  let s := s.put snpPage R.SNP_DF_SOURCE_RANK src
  let s := (s.put snpPage R.SNP_DF_VALID 1).count snpPage C.SNP_DOUBLE_FAULTS 1
  (s.report ⟨.doubleFault, 4, B.SNP, 0, n, shard, src⟩ {}).intSet snpPage 2

/-- A refill that runs aborts with a cause (R469). A destination has lost its source where an item failed or no sub-link is
in service, which is cause LINK. `tell` sends ABORT to the peer. -/
def State.refillAborts (s : State) (n cause : Nat) (tell : Bool) : State :=
  match s.refill n with
  | none => s
  | some r =>
    let kind := s.refillKind n
    let dest := s.on snpPage (R.REFILL_W0_ROLE n) && decide (kind ≤ 3)
    let origin := ((r.banks.head?).map Prod.snd).getD s.rank
    let s := if tell && decide (kind ≤ 3) then s.sendRefill n .abort (s.pctl origin cause (s.refillPose n) r.pages kind) else s
    let s := if dest || decide (4 ≤ kind) then s.each r.banks fun s b => s.dropBank b.1 else s
    let s := if ((dest && (kind == 1 || kind == 3) && r.accepted) || kind == 4) then
        s.each s.extentPages fun s p => s.undefine (p * pageBytes) pageBytes
      else s
    let s := if dest && cause == Cause.LINK && (kind == 1 || kind == 2) then s.doubleFault n r else s
    s.refillEnd n 3 cause

/-! POSE (R451–R453). -/

/-- A POSE executes: dispatch of primary commands stops on its die, or it meets a known absence (R452). -/
def State.pose (s : State) (c : Cmd) : State :=
  match [0, 1, 2, 3].find? s.knownAbsent with
  | some d => s.fail c Err.DIE_ABSENT d
  | none => s.mapCmd c.id fun x => { x with stage := .pose }

/-- POSE. -/
def execPose (d : Fin 4) (q : Fin 64) (ext : HostSlot) (s : State) : Host.Outcome State Fault Refusal :=
  .next (s.v2 d q ext Opc.POSE noPrep State.pose)

/-- The POSE that has executed on a die. -/
def State.poseOf (s : State) (d : Nat) : Option Cmd := s.cmds.find? fun c => c.die == d && c.stage == .pose

/-- Whether POSE has reached all four dies and their primary commands have completed (R453, steps 1 and 2). -/
def State.poseReady (s : State) : Bool :=
  [0, 1, 2, 3].all fun d => s.present d && (s.poseOf d).isSome
    && !(s.cmds.any fun c => c.die == d && c.context == 0 && c.stage != .pose)

/-- Whether two of the four banks overlap (R452). -/
def State.banksOverlap (s : State) : Bool :=
  let span (b : Nat) : Nat := (if b < 2 then s.npages else s.fld snpPage R.SNP_PBANK_PAGES_PAGES) + 2
  (List.range 4).any fun a => (List.range a).any fun b =>
    decide (s.bankPage a < s.bankPage b + span b) && decide (s.bankPage b < s.bankPage a + span a)

/-- The checks of R452 after the operands agree and the pose is wanted, with R504, and the map of R213 for what the pose
reads and writes: error and DETAIL. -/
def State.poseError (s : State) : Option (Nat × Nat) :=
  if s.fld figPage R.FIG_STS_PHASE ≠ 4 then some (Err.POSE_PHASE, 0)
  else if s.fencedPch.isEmpty = false ∨ s.domain = 0 ∨ s.npages = 0 ∨ 16384 < s.npages ∨ s.banksOverlap = true ∨ s.on snpPage R.SNP_PARTNER_NEXT_VALID = false
  then some (Err.SNP_CONFIG, 0)
  else if s.snp.prom.isSome || !s.snp.refills.isEmpty || s.on snpPage R.SNP_DRAIN_REQ || s.on snpPage R.SNP_DRAIN_STATE
  then some (Err.POSE_BUSY, 0)
  else match [0, 1, 2, 3].find? fun d => s.on (page d B.JCX) (R.JCX_NUM_STS_NONFINITE 0)
      || s.on (page d B.JCX) (R.JCX_NUM_STS_NF_AFTER_GATE 0) with
    | some d => some (Err.POSE_NONFINITE, d)
    | none => match s.chooseBank keepBanks with
      | none => some (Err.BANK_HELD, 0)
      | some b => if s.bankIn b s.npages && s.regionIn then none else some (Err.ADDR_INVALID, 0)

/-- SNP arms the state region (R448, R453, steps 4 and 5) and opens the promenade (R444). -/
def State.arm (s : State) (w : List Nat) (b : Nat) : State :=
  let pose := wf w 2 32 32
  let l := s.extentPages
  let cell : Option Nat := if wf w 2 30 1 = 1 then some (cellNo (wf w 2 14 2) (wf w 2 0 14)) else none
  let s := (s.fillBank b pose).writePage (s.bankPage b)
    (headerBytes pose s.floorStep s.epoch s.rank s.domain l.length s.statWords false)
  let s := s.each l fun s p => s.setPageSt p { armed := true }
  let s := (s.count snpPage C.SNP_POSES 1).put snpPage R.SNP_STS_PROM_STATE 2
  let s := s.put snpPage R.SNP_STS_PAGES_SENT 0
  let s : State := { s with snp := { s.snp with lastPose := some pose, prom := some { pose := pose, keep := b, pages := l, cell := cell } } }
  s.sendGroup Grp.partnerNext none (.pctl .open (s.pctl s.rank 0 pose l.length 0) none)

/-- SNP checks the pose, arms the state region and releases the callers (R452, R453). -/
def State.poseArm (s : State) : State :=
  if !s.poseReady then s
  else
    let cmds := [0, 1, 2, 3].filterMap s.poseOf
    let all (s : State) (f : State → Cmd → State) : State := s.each cmds f
    let w0 := ((cmds.head?).map Cmd.words).getD []
    match cmds.find? fun c => wordAt c.words 2 != wordAt w0 2 with
    | some c => all s fun s x => s.fail x Err.POSE_MISMATCH c.die
    | none =>
      if wf w0 2 31 1 = 1 ∧ s.on snpPage R.SNP_GOV_STS_JOB_DUE = false then
        all s fun s x => (s.count snpPage C.SNP_POSES_SKIPPED 1).done x
      else match s.poseError with
        | some e => all s fun s x => s.fail x e.1 e.2
        | none => all (s.arm w0 ((s.chooseBank keepBanks).getD 0)) State.done

/-- POSE_ARM. -/
def execPoseArm (s : State) : Host.Outcome State Fault Refusal := .next s.poseArm

/-! The promenade at its source (R454, R457). -/

/-- SNP starts to send a page that is not PRESERVED: the writes that stand at it wait until it is SENT (R237, R247). -/
def State.sendHolds (s : State) (p : Nat) : State :=
  let mine (w : HeldWrite) : Bool := w.atPage && decide (w.addr < dramEnd) && w.addr / pageBytes == p && !w.behind
  { s with heldWrites := mapIf mine (fun w => { w with behind := true }) s.heldWrites }.count snpPage C.SNP_SEND_WAITS
    (s.heldWrites.filter mine).length

/-- SNP reads the next page of the state region and feeds DGA, the keep bank and the partner (R454, R459). -/
def State.promenadePage (s : State) : State :=
  match s.snp.prom with
  | none => s
  | some x =>
    match x.pages[x.next]? with
    | none => s
    | some p =>
      let links := s.promLinks
      if !x.accepted || s.sending.isSome || s.preserving.contains p || links.isEmpty then s
      else
        let src := if (s.pageSt p).preserved then s.slotPage (s.pageSt p).slot else p
        let data := s.pageBytesOf src
        let poison := s.badRange (src * pageBytes) pageBytes
        let b := x.keep
        let entry := digestEntry (pageDigest x.pose (s.bankStep b) (s.hdrEpoch b) (s.hdrRank b) x.next data) x.pose x.next poison
        let s := (s.countRead .engine (src * pageBytes) pageBytes).hashed
        let s := s.writePage (s.bankPage b + 1 + x.next) data
        let s := s.write .engine none (s.entryOf b x.pages.length x.next) entry
        let s : State := { s with sending := some p, snp := { s.snp with prom := some { x with next := x.next + 1 } } }
        let s := if (s.pageSt p).preserved then s else s.sendHolds p
        s.each (s.pageItems (s.hdrRank b) x.pose x.next data entry) fun s i => s.dealTo links Grp.partnerNext (.page 8 i)

/-- PROMENADE_PAGE. -/
def execPromenadePage (s : State) : Host.Outcome State Fault Refusal := .next s.promenadePage

/-- The last byte of a page has left (R235, R237, R238, R457). -/
def State.pageSent (s : State) : State :=
  match s.snp.prom, s.sending with
  | some x, some p =>
    if (List.range 32).any fun e => (s.link e).queue.any fun f => f.channel == 8 then s
    else
      let s : State := { s with sending := none }
      let s := s.setPageSt p { s.pageSt p with armed := false, sent := true, preserved := false, slot := 0 }
      let s := s.drainHeld.count snpPage C.SNP_PAGES_SENT 1
      let s := s.put snpPage R.SNP_STS_PAGES_SENT (s.fld snpPage R.SNP_STS_PAGES_SENT + 1)
      let s := if x.next < x.pages.length then s
        else
          let s : State := { s with snp := { s.snp with prom := some { x with sealSent := true } } }
          (s.put snpPage R.SNP_STS_PROM_STATE 3).sendGroup Grp.partnerNext none
            (.pctl .seal (s.pctl s.rank 0 x.pose x.pages.length 0) (some (s.bankHdr x.keep)))
      s.clxLanded
  | _, _ => s

/-- PAGE_SENT. -/
def execPageSent (s : State) : Host.Outcome State Fault Refusal := .next s.pageSent

/-! Items of SNP. -/

/-- Answer a PCTL item on the sub-link it came on. -/
def State.reply (s : State) (e : Nat) (k : PctlKind) (i : PctlItem) (cause : Nat) : State :=
  s.sendOn e none (.pctl k (s.pctl i.origin.toNat cause i.poseId.toNat i.pages i.kind) none)

/-- Why any OPEN is refused, whatever transfer it opens: an equal domain (R444), a package that drains (R474). -/
def State.openRefuses (s : State) (i : PctlItem) : Option Nat :=
  if i.domain.toNat = s.domain then some Cause.DOMAIN
  else if s.on snpPage R.SNP_DRAIN_STATE then some Cause.PEER_BUSY
  else none

/-- Why the holder refuses a promenade, none where it accepts (R456, R474). -/
def State.holderRefuses (s : State) (i : PctlItem) : Option Nat :=
  let writesPartner := s.snp.refills.any fun r => s.on snpPage (R.REFILL_W0_ROLE r.entry)
    && (s.refillKind r.entry == 2 || s.refillKind r.entry == 3)
  (s.openRefuses i).or
    (if writesPartner then some Cause.PEER_BUSY
    else if s.fld snpPage R.SNP_PBANK_PAGES_PAGES < i.pages ∨ ((s.chooseBank partnerBanks).all fun b => !s.bankIn b i.pages) = true then
      some Cause.CONFIG
    else none)

/-- The banks that a refill fills at its destination, none where one of them cannot be chosen (R465). -/
def State.refillBanks (s : State) (kind : Nat) : Option (List Nat) :=
  let k := s.chooseBank keepBanks
  let p := s.chooseBank partnerBanks
  match kind with
  | 1 => k.map fun b => [b]
  | 2 => p.map fun b => [b]
  | _ => match k, p with
    | some a, some b => some [a, b]
    | _, _ => none

/-- Why a destination refuses a refill (R444, R468, R474). The one page count of a HANDOVER is that of both banks (log
entry 25). -/
def State.destRefuses (s : State) (i : PctlItem) : Option Nat :=
  let partner := s.fld snpPage R.SNP_PBANK_PAGES_PAGES
  let fits := (i.kind == 2 || i.pages == s.npages) && (i.kind == 1 || i.pages == partner)
  let placed := ((s.refillBanks i.kind).any fun l => l.all fun b => s.bankIn b i.pages) && (i.kind == 2 || s.regionIn)
  (s.openRefuses i).or (if fits && placed then none else some Cause.CONFIG)

/-- The running refill that an item belongs to. -/
def State.refillOf (s : State) (role : Bool) (kind pose : Nat) : Option Refill :=
  s.snp.refills.find? fun r => s.on snpPage (R.REFILL_W0_ROLE r.entry) == role && s.refillKind r.entry == kind
    && s.refillPose r.entry == pose

/-- OPEN arrives (R444, R456, R468). -/
def State.openIn (s : State) (e : Nat) (i : PctlItem) : State :=
  match s.takeItem e (.pctl .open i none) with
  | none => s
  | some s =>
    let refuse (s : State) (cause : Nat) : State :=
      let s := if cause = Cause.DOMAIN then s.count snpPage C.SNP_DOMAIN_REFUSALS 1 else s
      s.reply e .refuse i cause
    if i.kind = 0 then
      let s := s.inPromEnd none
      match s.holderRefuses i with
      | some cause => refuse s cause
      | none =>
        let b := (s.chooseBank partnerBanks).getD 2
        let s := s.fillBank b i.poseId.toNat
        let s : State := { s with snp := { s.snp with inProm := some { origin := i.origin.toNat, pose := i.poseId.toNat, pages := i.pages, bank := b } } }
        s.reply e .accept i 0
    else match s.refillOf true i.kind i.poseId.toNat with
      | none => refuse s ((s.openRefuses i).getD Cause.CONFIG)
      | some r =>
        if r.accepted then s
        else match s.destRefuses i with
          | some cause => (refuse s cause).refillEnd r.entry 3 cause
          | none =>
            let l := (s.refillBanks i.kind).getD []
            let s := s.each l fun s b => s.fillBank b i.poseId.toNat
            let s := s.mapRefill r.entry fun r =>
              { r with accepted := true, peer := some (s.sender e), pages := i.pages, banks := l.map fun b => (b, i.origin.toNat) }
            s.reply e .accept i 0

/-- OPEN. -/
def execOpenItem (e : Fin 32) (i : PctlItem) (s : State) : Host.Outcome State Fault Refusal := .next (s.openIn e.val i)

/-- The banks that a source sends, with their channels; none where a bank is not SEALED with the pose, or the two of a
HANDOVER have not one page count (R465, R467). -/
def State.sourceBanks (s : State) (n : Nat) : Option (List (Nat × Nat)) :=
  let sealed (b : Nat) : Bool := s.bankState b == Bank.SEALED && s.bankPose b == s.refillPose n
    && s.bankIn b (s.hdrPages b)
  let k := keepBanks.find? sealed
  let p := partnerBanks.find? sealed
  match s.refillKind n with
  | 1 => p.map fun b => [(b, 9)]
  | 2 => k.map fun b => [(b, 9)]
  | _ => match k, p with
    | some a, some b => if s.hdrPages a = s.hdrPages b then some [(a, 9), (b, 10)] else none
    | _, _ => none

/-- A source sends a bank: its header page, numbered after the data pages (log entry 25), and its data pages with their
digest entries. -/
def State.sendBank (s : State) (n : Nat) (b channel : Nat) : State :=
  let pages := s.hdrPages b
  let pose := s.refillPose n
  let rank := s.hdrRank b
  let send (s : State) (l : List PageItem) : State :=
    s.each l fun s i => s.sendGroup (refillGroup n) none (.page channel i)
  let s := send s (s.pageItems rank pose pages (s.pageBytesOf (s.bankPage b)) [])
  s.each (List.range pages) fun s k =>
    let a := (s.bankPage b + 1 + k) * pageBytes
    send (s.countRead .engine a pageBytes)
      (s.pageItems rank pose k (s.pageBytesOf (s.bankPage b + 1 + k)) (s.bytes (s.entryOf b pages k) 64))

/-- ACCEPT arrives: the source starts sending pages (R456, R466). -/
def State.acceptIn (s : State) (e : Nat) (i : PctlItem) : State :=
  match s.takeItem e (.pctl .accept i none) with
  | none => s
  | some s =>
    if i.kind = 0 then
      match s.snp.prom with
      | some x =>
        if x.pose = i.poseId.toNat then { s with snp := { s.snp with prom := some { x with accepted := true } } } else s
      | none => s
    else match s.refillOf false i.kind i.poseId.toNat with
      | some r =>
        if r.accepted then s
        else
          let s := s.mapRefill r.entry fun r => { r with accepted := true }
          s.each ((s.sourceBanks r.entry).getD []) fun s b => s.sendBank r.entry b.1 b.2
      | none => s

/-- ACCEPT. -/
def execAccept (e : Fin 32) (i : PctlItem) (s : State) : Host.Outcome State Fault Refusal := .next (s.acceptIn e.val i)

/-- REFUSE arrives: the transfer fails with its cause (R444, R456, R460). -/
def State.refuseIn (s : State) (e : Nat) (i : PctlItem) : State :=
  match s.takeItem e (.pctl .refuse i none) with
  | none => s
  | some s =>
    if i.kind = 0 then
      (match s.snp.prom with
        | some x => if x.pose = i.poseId.toNat then s.promFail (i.cause.toNat % 16) else s
        | none => s)
    else match s.refillOf false i.kind i.poseId.toNat with
      | some r => s.refillAborts r.entry (i.cause.toNat % 16) false
      | none => s

/-- REFUSE. -/
def execRefuse (e : Fin 32) (i : PctlItem) (s : State) : Host.Outcome State Fault Refusal := .next (s.refuseIn e.val i)

/-- The holder seals its partner bank once every page and SEAL have come (R457). -/
def State.sealMaybe (s : State) : State :=
  match s.snp.inProm with
  | none => s
  | some x =>
    match x.sealed with
    | none => s
    | some (e, h) =>
      if x.got.length < 512 * x.pages || !s.bankLanded x.bank x.pages then s
      else
        let s := s.writePage (s.bankPage x.bank)
          (headerBytes x.pose h.step.toNat h.epoch.toNat x.origin h.domain.toNat x.pages (h.stats.map BitVec.toNat) true)
        let s := s.setBank x.bank Bank.SEALED
        let s : State := { s with snp := { s.snp with inProm := none } }
        s.sendOn e none (.pctl .sealed (s.pctl x.origin 0 x.pose x.pages 0) none)

/-- SEAL arrives. -/
def State.sealIn (s : State) (e : Nat) (i : PctlItem) (h : BankHdr) : State :=
  match s.takeItem e (.pctl .seal i (some h)) with
  | none => s
  | some s =>
    match s.snp.inProm with
    | some x =>
      if x.pose = i.poseId.toNat ∧ x.origin = i.origin.toNat then
        ({ s with snp := { s.snp with inProm := some { x with sealed := some (e, h) } } }).sealMaybe
      else s
    | none => s

/-- SEAL. -/
def execSeal (e : Fin 32) (i : PctlItem) (h : BankHdr) (s : State) : Host.Outcome State Fault Refusal :=
  .next (s.sealIn e.val i h)

/-- The source seals its keep bank once SEALED has come and every write of the bank has landed (R457). -/
def State.sealKeep (s : State) : State :=
  match s.snp.prom with
  | none => s
  | some x =>
    if !x.answered || !s.bankLanded x.keep x.pages.length then s
    else
      let s := s.sealBank x.keep
      let s : State := { s with snp := { s.snp with prom := none } }
      let s := match x.cell with
        | some c => s.signalLive ⟨c, false, 1⟩ (.floor 0)
        | none => s
      let s := (s.healthSeal).put snpPage R.SNP_STS_PROM_STATE 0
      (s.count snpPage C.SNP_PROMENADES_SEALED 1).intSet snpPage 0

/-- Writes have landed: what a seal waits for may be there. -/
def State.snpLanded (s : State) : State := s.sealMaybe.sealKeep

/-- SEALED arrives (R457). -/
def State.sealedIn (s : State) (e : Nat) (i : PctlItem) : State :=
  match s.takeItem e (.pctl .sealed i none) with
  | none => s
  | some s =>
    match s.snp.prom with
    | some x =>
      if x.pose = i.poseId.toNat ∧ x.sealSent = true then
        ({ s with snp := { s.snp with prom := some { x with answered := true } } }).sealKeep
      else s
    | none => s

/-- SEALED. -/
def execSealed (e : Fin 32) (i : PctlItem) (s : State) : Host.Outcome State Fault Refusal := .next (s.sealedIn e.val i)

/-- ABORT arrives: the transfer that its ORIGIN, POSE_ID and kind name ends (R460, R469). -/
def State.pctlAbortIn (s : State) (e : Nat) (i : PctlItem) : State :=
  match s.takeItem e (.pctl .abort i none) with
  | none => s
  | some s =>
    let pose := i.poseId.toNat
    if i.kind = 0 then
      if (s.snp.prom.any fun x => x.pose == pose) && i.origin.toNat == s.rank then s.promFail Cause.PEER_ABORT
      else if s.snp.inProm.any fun x => x.pose == pose && x.origin == i.origin.toNat then s.inPromEnd none
      else s
    else match (s.refillOf true i.kind pose).or (s.refillOf false i.kind pose) with
      | some r => s.refillAborts r.entry Cause.PEER_ABORT false
      | none => s

/-- PCTL ABORT. -/
def execPctlAbort (e : Fin 32) (i : PctlItem) (s : State) : Host.Outcome State Fault Refusal :=
  .next (s.pctlAbortIn e.val i)

/-! PAGE items. -/

/-- Whether an item of a page is well formed for a bank of `pages` pages. -/
def pageFits (i : PageItem) (pages : Nat) : Bool :=
  i.payload.length == 4096 && decide (i.pageNo < pages) && i.offset % 64 == 0 && decide (i.offset < 32768)

/-- An item lands in a bank: data, and the digest entry that ends a page. -/
def State.landPage (s : State) (b pages : Nat) (i : PageItem) : State :=
  let s := s.write .engine none ((s.bankPage b + 1 + i.pageNo) * pageBytes + 64 * i.offset) i.payload
  if i.digest.isEmpty then s else s.write .engine none (s.entryOf b pages i.pageNo) (i.digest.take 64)

/-- A page fails its verification (R463, R491). -/
def State.badPage (s : State) (n k : Nat) : State :=
  let a := snpPage + 0x2000 + 8 * (k / 64)
  let s := s.setWord a (s.word a ||| 2 ^ (k % 64))
  (s.put snpPage (R.REFILL_W1_BAD_PAGES n) (s.fld snpPage (R.REFILL_W1_BAD_PAGES n) + 1)).count snpPage C.SNP_DIGEST_FAILS 1

/-- A page of a bank that a refill fills is verified, and written to the state region where the refill writes it
(R463, R465, R468). -/
def State.checkPage (s : State) (n b pages k : Nat) : State :=
  let region := decide (b < 2) && (s.refillKind n == 1 || s.refillKind n == 3 || s.refillKind n == 4)
  let t := (s.countRead .engine ((s.bankPage b + 1 + k) * pageBytes) pageBytes).hashed
  if s.verifies b pages k then
    match s.extentPages[k]? with
    | some p => if region then t.writePage p (s.pageBytesOf (s.bankPage b + 1 + k)) else t
    | none => t
  else t.badPage n k

/-- Keys of the items of page `k` that have landed in a bank. -/
def Refill.whole (r : Refill) (b k : Nat) : Bool :=
  (List.range 512).all fun j => r.got.contains (b, 512 * k + j)

/-- Verify the pages of a bank that have landed whole with the header and are not verified. -/
def State.checkLanded (s : State) (n b : Nat) : State :=
  match s.refill n with
  | none => s
  | some r =>
    let pages := r.pages
    if !r.whole b pages then s
    else s.each ((List.range pages).filter fun k => r.whole b k && !r.checked.contains (b, k)) fun s k =>
      (s.checkPage n b pages k).mapRefill n fun r => { r with checked := (b, k) :: r.checked }

/-- Bytes of a header page from byte `at'` with its SEALED field zero (R448). -/
def unsealed (at' : Nat) (l : List Byte) : List Byte :=
  l.mapIdx fun k x => if 2064 ≤ at' + k ∧ at' + k < 2072 then 0 else x

/-- A PAGE item of a refill lands; page number `pages` is the header page (log entry 25), whose SEALED is 0 until the bank
is SEALED. -/
def State.refillItem (s : State) (r : Refill) (b : Nat) (i : PageItem) : State :=
  let pages := r.pages
  if !pageFits i (pages + 1) then s
  else
    let s := if i.pageNo = pages then
        s.write .engine none (s.bankPage b * pageBytes + 64 * i.offset) (unsealed (64 * i.offset) i.payload)
      else s.landPage b pages i
    let key := (b, 512 * i.pageNo + i.offset / 64)
    (s.mapRefill r.entry fun r => { r with got := if r.got.contains key then r.got else key :: r.got }).checkLanded r.entry b

/-- A PAGE item arrives (R455, R467): on channel 8 for the promenade whose holder this package is, on 9 or 10 for the
refill that runs; an item of no transfer is dropped. -/
def State.pageIn (s : State) (e : Nat) (i : PageItem) : State :=
  let prom := s.snp.inProm.filter fun x => x.pose == i.poseId.toNat && x.origin == i.origin.toNat
  let ref := s.snp.refills.find? fun r => s.on snpPage (R.REFILL_W0_ROLE r.entry) && decide (s.refillKind r.entry ≤ 3)
    && s.refillPose r.entry == i.poseId.toNat && r.accepted
  match prom, s.takeItem e (.page 8 i) with
  | some x, some t =>
    if pageFits i x.pages then
      let t := t.landPage x.bank x.pages i
      let t : State := { t with snp := { t.snp with inProm := some { x with got := setInsert (512 * i.pageNo + i.offset / 64) x.got } } }
      t.sealMaybe
    else t
  | _, o8 =>
    match ref, s.takeItem e (.page 9 i), s.takeItem e (.page 10 i) with
    | some r, some t, _ =>
      match r.banks.head? with
      | some b => t.refillItem r b.1 i
      | none => t
    | some r, none, some t =>
      match r.banks.getLast? with
      | some b => t.refillItem r b.1 i
      | none => t
    | none, some t, _ => t
    | none, none, some t => t
    | _, none, none => o8.getD s

/-- PAGE. -/
def execPage (e : Fin 32) (i : PageItem) (s : State) : Host.Outcome State Fault Refusal := .next (s.pageIn e.val i)

/-! Refills (R462–R469). -/

/-- Whether a queued entry is the next of its direction to start, on a floor that is not stopped (R466, R507). -/
def State.refillNext (s : State) (n kind : Nat) : Bool :=
  let queued (m : Nat) : Bool := s.on snpPage (R.REFILL_W0_VALID m) && s.fld snpPage (R.REFILL_W0_STATE m) == 0
    && decide (1 ≤ s.refillKind m) && decide (s.refillKind m ≤ 5)
  queued n && s.refillKind n == kind && !s.fatal
    && !(s.snp.refills.any fun r => s.inbound r.entry == s.inbound n)
    && !((List.range n).any fun m => queued m && s.inbound m == s.inbound n)

/-- Whether a named sub-link may carry a refill (R467). -/
def State.refillLinkOk (s : State) (e : Nat) : Bool :=
  s.slUp e && (s.groupless e || (s.entryGroups s.figure e).any fun g => g == Grp.partnerNext || g == Grp.partnerPrev)

/-- An entry starts to run. -/
def State.refillRun (s : State) (n : Nat) (r : Refill) : State :=
  let s : State := { s with snp := { s.snp with refills := s.snp.refills ++ [r] } }
  let s := s.put snpPage (R.REFILL_W0_STATE n) 1
  let s := s.put snpPage (R.REFILL_W1_BAD_PAGES n) 0
  let s := if s.inbound n then s.each (List.range 256) fun s w => s.setWord (snpPage + 0x2000 + 8 * w) 0 else s
  s.refillAllocs

/-- A RESTORE, REPLICATE or HANDOVER starts (R465–R467): at a source, OPEN leaves. The command stands for the moment at
which the destination's matching entry runs (log entry 25). -/
def State.refillStart (s : State) (n kind : Nat) : State :=
  if !s.refillNext n kind then s
  else if s.fld snpPage R.SNP_DRAIN_STATE = 2 ∨ !((s.refillLinks n).all s.refillLinkOk) then s.refillEnd n 3 Cause.CONFIG
  else if s.on snpPage (R.REFILL_W0_ROLE n) then s.refillRun n { entry := n }
  else match s.sourceBanks n with
    | none => s.refillEnd n 3 Cause.CONFIG
    | some l =>
      let b := ((l.head?).map Prod.fst).getD 0
      let pages := s.hdrPages b
      let s := s.refillRun n { entry := n, pages := pages, banks := l.map fun x => (x.1, s.hdrRank x.1) }
      s.sendRefill n .open (s.pctl (s.hdrRank b) 0 (s.refillPose n) pages kind)

/-- RESTORE. -/
def execRestore (n : Fin 8) (s : State) : Host.Outcome State Fault Refusal := .next (s.refillStart n.val 1)

/-- REPLICATE. -/
def execReplicate (n : Fin 8) (s : State) : Host.Outcome State Fault Refusal := .next (s.refillStart n.val 2)

/-- HANDOVER. -/
def execHandover (n : Fin 8) (s : State) : Host.Outcome State Fault Refusal := .next (s.refillStart n.val 3)

/-- Whether a primary command is dispatched or waits on a die (R462). -/
def State.primaryBusy (s : State) : Bool :=
  (s.cmds.any fun c => c.context == 0)
    || [0, 1, 2, 3].any fun d => (List.range 64).any fun q => s.ctxOf d q == 0 && s.hasHead d q

/-- A ROLLBACK starts, and copies the pages that are DIRTY since the pose armed last, or every page (R462, R463). -/
def State.rollback (s : State) (n : Nat) : State :=
  if !s.refillNext n 4 then s
  else
    let pose := s.refillPose n
    let bank := keepBanks.find? fun b => s.bankState b == Bank.SEALED && s.bankPose b == pose
    match bank with
    | none => s.refillEnd n 3 Cause.CONFIG
    | some b =>
      if s.primaryBusy || s.hdrPages b != s.npages || !s.bankIn b s.npages || !s.regionIn || s.fld snpPage R.SNP_DRAIN_STATE == 2 then s.refillEnd n 3 Cause.CONFIG
      else
        let all := s.snp.lastPose != some pose
        let pages := s.npages
        let mine := (List.range pages).filter fun k => all || ((s.extentPages[k]?).any fun p => (s.pageSt p).dirty)
        let s := s.refillRun n { entry := n, accepted := true, pages := pages }
        s.each mine fun s k => s.checkPage n b pages k

/-- ROLLBACK. -/
def execRollback (n : Fin 8) (s : State) : Host.Outcome State Fault Refusal := .next (s.rollback n.val)

/-- A VERIFY starts, and checks the digests of the bank of its pose: one that waits for it, or a SEALED one, which no check
changes (R447, R465, R468). -/
def State.verify (s : State) (n : Nat) : State :=
  if !s.refillNext n 5 then s
  else
    let of (st : Nat) : Option Nat := [0, 1, 2, 3].find? fun b =>
      s.bankState b == st && s.bankPose b == s.refillPose n && s.bankIn b (s.hdrPages b)
    match (of Bank.VERIFYING).or (of Bank.SEALED) with
    | none => s.refillEnd n 3 Cause.CONFIG
    | some b =>
      if s.fld snpPage R.SNP_DRAIN_STATE = 2 then s.refillEnd n 3 Cause.CONFIG
      else
        let pages := s.hdrPages b
        let s := s.refillRun n { entry := n, accepted := true, pages := pages, banks := [(b, s.hdrRank b)] }
        s.each (List.range pages) fun s k => s.checkPage n b pages k

/-- VERIFY. -/
def execVerify (n : Fin 8) (s : State) : Host.Outcome State Fault Refusal := .next (s.verify n.val)

/-- Whether everything of a running refill has happened. -/
def State.refillReady (s : State) (n : Nat) (r : Refill) : Bool :=
  if 4 ≤ s.refillKind n then true
  else if r.banks.any (fun b => !s.bankLanded b.1 r.pages) && s.on snpPage (R.REFILL_W0_ROLE n) then false
  else if s.on snpPage (R.REFILL_W0_ROLE n) then
    r.accepted && r.banks.all fun b => (List.range r.pages).all fun k => r.checked.contains (b.1, k)
  else r.accepted && (s.refillLinks n).all fun e =>
    !(((s.link e).queue ++ (s.link e).replay).any fun f => decide (7 ≤ f.channel) && f.channel != 8)

/-- A ROLLBACK or RESTORE that ends DONE sets the step and the statistics from the header (R464). -/
def State.restoreStep (s : State) (b : Nat) : State :=
  let t := s.bankStep b
  let w := s.hdrStats b
  let s := s.each s.presentDies fun s d =>
    (s.put (page d B.JCX) (R.JCX_STEP_STEP 0) t).put (page d B.JCX) (R.JCX_NUM_STS_GATE_DONE 0) 0
  (s.putWords (clxPage + 0x5000) w).noiseTotal

/-- A refill ends DONE (R463, R464, R468, R474). -/
def State.refillComplete (s : State) (n : Nat) : State :=
  match s.refill n with
  | none => s
  | some r =>
    if !s.refillReady n r then s
    else
      let kind := s.refillKind n
      let bad := s.on snpPage (R.REFILL_W1_BAD_PAGES n)
      let fills := s.inbound n && kind != 4
      let fill (s : State) (b : Nat) : State :=
        if s.bankState b = Bank.SEALED then s else if bad then s.setBank b Bank.VERIFYING else s.sealBank b
      let s := if fills then s.each r.banks fun s b => fill s b.1 else s
      let src := if kind = 4 then keepBanks.find? fun b => s.bankPose b == s.refillPose n && s.bankState b == Bank.SEALED
        else if kind == 1 && s.inbound n then (r.banks.head?).map Prod.fst else none
      let s := match src with
        | some b => s.restoreStep b
        | none => s
      let s := if kind == 3 && !s.inbound n && s.fld snpPage R.SNP_DRAIN_STATE == 1 then
          (s.put snpPage R.SNP_DRAIN_STATE 2).intSet snpPage 3 else s
      s.refillEnd n 2 (if bad then Cause.DIGEST else Cause.NONE)

/-- REFILL_COMPLETE. -/
def execRefillComplete (n : Fin 8) (s : State) : Host.Outcome State Fault Refusal := .next (s.refillComplete n.val)

/-- LOSS_LIMIT cycles without a sub-link in service end a promenade, at its source and at its holder, or a refill (R460,
R469). -/
def State.lossLimit (s : State) : Option (Fin 8) → State
  | none =>
    let s := if (s.groupLinks Grp.partnerNext).isEmpty then s.promFail Cause.LINK else s
    if (s.groupLinks Grp.partnerPrev).isEmpty then s.inPromEnd (some Cause.LINK) else s
  | some n => if (s.refillLinks n.val).any s.slUp || decide (4 ≤ s.refillKind n.val) then s else s.refillAborts n.val Cause.LINK true

/-- LOSS_LIMIT_EXPIRY. -/
def execLossLimitExpiry (refill : Option (Fin 8)) (s : State) : Host.Outcome State Fault Refusal :=
  .next (s.lossLimit refill)

/-- Items of SNP that a sub-link has failed: those of a promenade at either end, and of the refills that name it (R341,
R345, R460, R469). -/
def State.snpLinkFail (s : State) (e : Nat) (channels : List Nat) : State :=
  let partner (g : Nat) : Bool := s.fig.started && (s.entryGroups s.figure e).contains g
  let s := if channels.contains 8 || (channels.contains 7 && partner Grp.partnerNext) then s.promFail Cause.LINK else s
  let s := if channels.contains 7 && partner Grp.partnerPrev then s.inPromEnd (some Cause.LINK) else s
  let mine := (s.snp.refills.map Refill.entry).filter fun n => (s.refillLinks n).contains e && decide (s.refillKind n ≤ 3)
  if channels.any fun c => c == 7 || c == 9 || c == 10 then s.each mine fun s n => s.refillAborts n Cause.LINK true else s

/-- A pseudo-channel or stack is fenced: the banks are EMPTY, what runs ends with CONFIG, and the floor records it
(R504). -/
def State.banksLost (s : State) : State :=
  let s := (s.promFail Cause.CONFIG).inPromEnd (some Cause.CONFIG)
  let s := s.each (s.snp.refills.map Refill.entry) fun s n => s.refillAborts n Cause.CONFIG true
  let s := s.each (List.range 4) State.emptyBank
  s.report ⟨.banksLost, 4, B.SNP, 0, 0, 0, 0⟩ {}

end Sys2Proof.Machine
end

