-- ==== Sys2Proof/Machine/Optical.lean ====
section
/-! DEFINITION. The optical ports: laser feeds (R328–R331) and the diagonal links (R315, R316), frames and retry
(R335–R341), training and lanes (R343–R349), and reflectometry (R350, R351). The readings are in log entry 26. -/

namespace Sys2Proof.Machine

/-! Laser feeds. -/

/-- The lit wavelengths of an input of a port. -/
def litField (feed : Nat) : Fld := ⟨0x108, 9 * feed, 9⟩

/-- How many wavelengths of an input are lit. -/
def State.litCount (s : State) (n feed : Nat) : Nat :=
  ((List.range 9).filter (bitOn (s.fld (opxPage n) (litField feed)))).length

/-- The selected input of a port. -/
def State.feed (s : State) (n : Nat) : Nat := s.fld (opxPage n) R.OPX_PORT_STS_FEED_SEL

/-- Reflectometry of a port ends (R350, R357). -/
def State.otdrEnd (s : State) (n result events : Nat) : State :=
  let pg := opxPage n
  let s := (s.put pg R.OPX_OTDR_STS_BUSY 0).put pg R.OPX_OTDR_STS_RESULT result
  let s := (s.put pg R.OPX_OTDR_STS_EVENTS events).put pg R.OPX_OTDR_STS_DONE 1
  (s.count pg C.OPX_OTDR_RUNS 1).intSet pg 3

/-- A port selects an input (R628). -/
def State.selectFeed (s : State) (n feed : Nat) : State :=
  if s.feed n = feed then s else (s.put (opxPage n) R.OPX_PORT_STS_FEED_SEL feed).intSet (opxPage n) 2

/-- After training, a port switches to the other input when that one has more lit wavelengths (R329, R330); while the lanes
of a switch relock, it does not switch again. -/
def State.feedCheck (s : State) (n : Nat) : State :=
  let pg := opxPage n
  let other := 1 - s.feed n
  let trained := [2 * n, 2 * n + 1].any fun e => s.slState e != Sl.OFF || (s.link e).trained != 0
  if trained && !s.relocking.contains n && decide (s.litCount n (s.feed n) < s.litCount n other) then
    let t : State := { s with relocking := setInsert n s.relocking }
    let s := (t.selectFeed n other).count pg C.OPX_FEED_SWITCHES 1
    if s.on pg R.OPX_OTDR_STS_BUSY then s.otdrEnd n 2 0 else s
  else s

/-! The diagonal links. -/

/-- The inputs of a diagonal link in the order of R331: port and input. -/
def diagInputs (k : Nat) : List (Nat × Nat) :=
  if k = 0 then [(2, 0), (2, 1), (10, 0), (10, 1)] else [(6, 0), (6, 1), (14, 0), (14, 1)]

/-- The port whose status shows the source of a diagonal link. -/
def diagPort (k : Nat) : Nat := if k = 0 then 2 else 6

/-- UP, REROUTED and LANES_LOST of a diagonal link (R320). -/
def diagUp (k : Nat) : Fld := ⟨0x128, 15 + 16 * k, 1⟩
def diagRerouted (k : Nat) : Fld := ⟨0x128, 14 + 16 * k, 1⟩
def diagLanes (k : Nat) : Fld := ⟨0x128, 16 * k, 8⟩

def d2dFloor : Nat := page 4 B.D2D

/-- Wavelengths lost in a waveguide of a diagonal link. -/
def State.guideLost (s : State) (k g : Nat) : Nat := (s.diagLost.filter fun x => x.1 == k && x.2.1 == g).length

/-- Whether a direction of a diagonal link has a lane left. -/
def State.diagLit (s : State) (k dir : Nat) : Bool := (List.range 20).any fun g => decide (s.guideLost k (20 * dir + g) < 9)

/-- Whether a diagonal link can run, light apart: it has started (R528, row 13), passes (R538), and has lanes both ways. -/
def State.diagUsable (s : State) (k : Nat) : Bool :=
  decide (13 < s.fld (page 4 B.CAP) R.CAP_START_STEP) && bitOn (s.fld (page 4 B.CAP) R.CAP_FLOOR_UNITS_DIAG_OK) k
    && s.diagLit k 0 && s.diagLit k 1

/-- The source that a diagonal link chooses, counted from 1; 0 while it cannot run (R331, R353). -/
def State.diagChoice (s : State) (k : Nat) : Nat :=
  let lit := (diagInputs k).map fun x => s.litCount x.1 x.2
  let best := lit.foldl max 0
  let now := s.fld (opxPage (diagPort k)) R.OPX_PORT_STS_DIAG_SRC
  if !s.diagUsable k || best == 0 then 0
  else if 0 < now ∧ lit.getD (now - 1) 0 = best then now
  else ((findPos (fun n => n == best) lit 1).map Prod.fst).getD 0

/-- DIAG_CHANGED of a diagonal link (R316, R501). -/
def State.diagRecord (s : State) (k : Nat) : State :=
  s.report ⟨.diagChanged, 4, B.D2D, 0, k, 0, 0⟩ {}

/-- A diagonal link follows its light and its lanes: source, UP, and the rerouting of its packets (R316, R331). A change in
the field is recorded. -/
def State.diagRefresh (s : State) (k : Nat) (field : Bool := true) : State :=
  if s.fld (page 4 B.CAP) R.CAP_START_STEP ≤ 13 then s
  else
    let src := s.diagChoice k
    let up := s.on d2dFloor (diagUp k)
    let s := s.put (opxPage (diagPort k)) R.OPX_PORT_STS_DIAG_SRC src
    if 0 < src then
      if up then s
      else (((s.put d2dFloor (diagUp k) 1).put d2dFloor (diagRerouted k) 0)).intSet d2dFloor 2
    else if s.on d2dFloor (diagRerouted k) then s
    else
      let s := ((s.put d2dFloor (diagUp k) 0).put d2dFloor (diagRerouted k) 1).count d2dFloor C.D2D_DIAG_REROUTES 1
      let s := s.intSet d2dFloor 2
      if field then s.diagRecord k else s

/-- LANES_LOST of a diagonal link: the active lanes beyond the spares of its waveguides (R320). Its eight bits do not hold
every number: one beyond them is open. -/
def State.diagLanesLost (s : State) (k : Nat) : State :=
  let n := ((List.range 40).map fun g => s.guideLost k g - 1).foldl (· + ·) 0
  if n < 256 then s.put d2dFloor (diagLanes k) n
  else
    let t := s.draw
    t.2.put d2dFloor (diagLanes k) (Config.openField t.1)

/-- DIAG_OK of a diagonal link that has no lane left in a direction falls (R538, R540). -/
def State.capDiag (s : State) (k : Nat) : State :=
  let ok := s.fld (page 4 B.CAP) R.CAP_FLOOR_UNITS_DIAG_OK
  if s.diagLit k 0 && s.diagLit k 1 then s else s.capPut 4 R.CAP_FLOOR_UNITS_DIAG_OK (ok - (ok &&& 2 ^ k))

/-- A wavelength of a waveguide of a diagonal link fails (R316). -/
def State.diagLoss (s : State) (k g w : Nat) : State :=
  if s.diagLost.contains (k, g, w) || s.fatal then s
  else
    let s : State := { s with diagLost := s.diagLost ++ [(k, g, w)] }
    let s := if 1 < s.guideLost k g then s.degrade d2dFloor else s
    let s := ((s.count d2dFloor C.D2D_DIAG_LANE_LOSSES 1).diagLanesLost k).diagRecord k
    (s.diagRefresh k).capDiag k

/-- DIAG_LANE_LOSS. -/
def execDiagLaneLoss (link : Fin 2) (guide : Fin 40) (wave : Fin 9) (s : State) : Host.Outcome State Fault Refusal :=
  .next (s.diagLoss link.val guide.val wave.val)

/-- A wavelength of an input becomes lit or unlit; the port and the diagonal links follow (R328, R329, R331), unless a
FATAL error has stopped the floor (R507). -/
def State.setLit (s : State) (n feed wave : Nat) (lit : Bool) : State :=
  let now := s.fld (opxPage n) (litField feed)
  if bitOn now wave = lit ∨ s.fatal = true then s
  else
    let s := s.put (opxPage n) (litField feed) (setBits now wave 1 (if lit then 1 else 0))
    ((s.feedCheck n).diagRefresh 0).diagRefresh 1

/-- WAVELENGTH_LIT. -/
def execWavelengthLit (n : Fin 16) (feed : Fin 2) (wave : Fin 9) (s : State) : Host.Outcome State Fault Refusal :=
  .next (s.setLit n.val feed.val wave.val true)

/-- LANES_RELOCKED ends a feed switch (R330). -/
def execLanesRelocked (n : Fin 16) (s : State) : Host.Outcome State Fault Refusal :=
  .next (if s.relocking.contains n.val && !s.fatal then { s with relocking := setErase n.val s.relocking }.feedCheck n.val else s)

/-! Receiving frames (R335–R340). -/

/-- The fields of a frame's header (R335). -/
def frameType (h : BitVec 28) : Nat := bits h.toNat 26 2
def frameEnd (h : BitVec 28) : Bool := bitOn h.toNat 25
def frameChannel (h : BitVec 28) : Nat := bits h.toNat 20 5
def frameSeq (h : BitVec 28) : Nat := bits h.toNat 4 16

/-- The TYPE codes of R335; 3 is reserved. -/
abbrev FrameType.DATA : Nat := 0
abbrev FrameType.CONTROL : Nat := 1
abbrev FrameType.IDLE : Nat := 2

/-- The fields of a CONTROL payload (R337). -/
def ctlCredit (p n : Nat) : Nat := bits p (64 + 14 * n) 14
def ctlAck (p : Nat) : Nat := bits p 48 16
def ctlNak (p : Nat) : Bool := bitOn p 47

/-- The payload of the CONTROL frames that a sub-link direction sends (R337). -/
def State.controlOf (s : State) (e : Nat) : Nat :=
  let l := s.link e
  forUpto (fun n p => setBits p (64 + 14 * n) 14 (Table.get (fun _ => 0) l.freed n)) 32
    (l.rxSeq % 65536 * 2 ^ 48 + (if l.nak then 2 ^ 47 else 0) + l.inc % 2 ^ 32)

/-- A frame arrives on a sub-link in service: the decoder counts, a frame with a bit in an uncorrectable codeword is
discarded and asks for a resend, and one of the type that the command names is handled by `run` (R335, R340, R360). -/
def State.frameIn (s : State) (e type : Nat) (f : OptFrame) (run : State → State) : State :=
  let pg := opxPage (e / 2)
  if !s.slUp e || s.fatal then s
  else
    let s := (s.count pg C.OPX_FEC_SYMBOLS_CORRECTED f.corrected).count pg C.OPX_FEC_UNCORRECTABLE f.bad
    let l := s.link e
    if !f.decoded then (s.setLink e { l with nak := true }).count pg C.OPX_NAKS (if l.nak then 0 else 1)
    else if frameType f.header = type then run s
    else s

/-- An intact DATA frame: it is accepted in order, or discarded (R340). -/
def State.dataIn (s : State) (e : Nat) (f : OptFrame) : State :=
  let pg := opxPage (e / 2)
  let l := s.link e
  let seq := frameSeq f.header
  let ahead := (seq + 65536 - l.rxSeq) % 65536
  if ahead = 1 then
    let x : RxFrame := ⟨frameChannel f.header, frameEnd f.header, f.payload.toNat⟩
    (s.setLink e { l with rxSeq := seq, nak := false, rx := l.rx ++ [x] }).count pg C.OPX_DATA_FRAMES_RX 1
  else if 1 < ahead ∧ ahead < 32768 ∧ l.nak = false then (s.setLink e { l with nak := true }).count pg C.OPX_NAKS 1
  else s

/-- DATA frame. -/
def execDataFrame (e : Fin 32) (f : OptFrame) (s : State) : Host.Outcome State Fault Refusal :=
  .next (s.frameIn e.val FrameType.DATA f fun s => s.dataIn e.val f)

/-- IDLE frame: it carries nothing and consumes nothing (R336). -/
def execIdleFrame (e : IdleFrame) (s : State) : Host.Outcome State Fault Refusal :=
  .next (s.frameIn e.link.val FrameType.IDLE e.frame fun s => s)

/-- The replay buffer after an acknowledgement, if it covers a frame there (R339). -/
def ackDrop (ack : Nat) : List TxFrame → Option (List TxFrame)
  | [] => none
  | f :: t => if f.seq = ack then some t else ackDrop ack t

/-- Resend the frames of a replay buffer, with the record of the retry (R340, R501). -/
def State.resend (s : State) (e : Nat) : State :=
  let n := e / 2
  let l := (s.link e).replay
  if l.isEmpty then s
  else
    ((s.count (opxPage n) C.OPX_RESENDS l.length).transmit e l).report ⟨.linkRetried, 4, B.OPX + n, n, e, 0, 0⟩ {}

/-- The usable credits after a CONTROL payload: the growth of each count since the last one (R337). -/
def creditGrowth (l : Link) (p : Nat) : Link :=
  forUpto (fun n l =>
    let now := ctlCredit p n
    let old := Table.get (fun _ => 0) l.grants n
    let more := (now + 16384 - old) % 16384
    { l with
      credits := Table.set (fun _ => 0) l.credits n (Table.get (fun _ => 0) l.credits n + more)
      grants := Table.set (fun _ => 0) l.grants n now }) 32 l

/-- An intact CONTROL frame: credits, acknowledgement, and the first NAK of an acknowledgement (R337, R339, R340). -/
def State.controlIn (s : State) (e : Nat) (p : Nat) : State :=
  let ack := ctlAck p
  let l := creditGrowth (s.link e) p
  let old := l.nakAt == some ack
  let l := { l with
    replay := (ackDrop ack l.replay).getD l.replay
    nakAt := if ctlNak p || old then some ack else none }
  let s := s.setLink e l
  let s := if ctlNak p && !old then s.resend e else s
  (s.pump e).refillAllocs

/-- CONTROL frame. -/
def execControlFrame (e : Fin 32) (f : OptFrame) (s : State) : Host.Outcome State Fault Refusal :=
  .next (s.frameIn e.val FrameType.CONTROL f fun s => s.controlIn e.val f.payload.toNat)

/-- RESEND_TIMEOUT: the oldest frame has waited for its acknowledgement (R340). -/
def execResendTimeout (e : Fin 32) (s : State) : Host.Outcome State Fault Refusal :=
  .next (if s.slUp e.val && !s.fatal then s.resend e.val else s)

/-! The states of a sub-link (R343, R345). -/

/-- A sub-link changes state (R628). -/
def State.slChange (s : State) (e st : Nat) : State :=
  if s.slState e = st then s else (s.put (opxPage (e / 2)) (slField e) st).intSet (opxPage (e / 2)) 0

/-- Frames of whole items. -/
def wholeItems : List RxFrame → List RxFrame
  | [] => []
  | f :: t => if f.last || t.any (fun g => g.channel == f.channel && g.last) then f :: wholeItems t else wholeItems t

/-- An item of a collective command fails on a sub-link (R341, R373). -/
def State.itemFailed (s : State) (e id : Nat) : State :=
  match s.cmdOf id with
  | none => s
  | some c => (s.count clxPage C.CLX_ITEMS_FAILED 1).collFail c Err.LINK_ITEM_FAILED ((s.peerOf e).getD 0)

/-- Every item of a sub-link that is not acknowledged fails, and partial items are discarded (R341, R345). -/
def State.failLink (s : State) (e : Nat) : State :=
  let l := s.link e
  let lost := l.replay ++ l.queue
  let s := s.count (opxPage (e / 2)) C.OPX_ITEMS_FAILED (lost.filter TxFrame.last).length
  let s := s.setLink e { l with replay := [], queue := [], rx := wholeItems l.rx }
  let s := s.each (lost.filterMap TxFrame.owner).eraseDups fun s id => s.itemFailed e id
  s.snpLinkFail e (lost.map TxFrame.channel).eraseDups

/-- The input that a port selects at training; on a tie FEED_PREF decides, but a tie moves no port whose other sub-link is
UP (R329). -/
def State.trainFeed (s : State) (e : Nat) : State :=
  let n := e / 2
  let a := s.litCount n 0
  let b := s.litCount n 1
  let other := 2 * n + (1 - e % 2)
  if b < a then s.selectFeed n 0
  else if a < b then s.selectFeed n 1
  else if s.slUp other then s
  else s.selectFeed n (s.fld (opxPage n) R.OPX_PORT_CTL_FEED_PREF)

/-- A sub-link starts to train (R343, R360). A training begins with the choice of the feed (R344, step 1) and a new
incarnation number (R341); a field retraining begins with the test of the lanes and keeps the number (R347). -/
def State.slTrain (s : State) (e : Nat) (field : Bool) : State :=
  let l := s.link e
  let inc := (Config.incarnation (l.trained + 1) (BitVec.ofNat 64 s.fuses.serial)).toNat
  let s := if field then s.setLink e { l with retraining := true }
    else (s.setLink e { l with retraining := false, trained := l.trained + 1, inc := inc }).trainFeed e
  (s.slChange e Sl.TRAINING).count (opxPage (e / 2)) C.OPX_TRAININGS 1

/-- A sub-link enters DOWN (R345). -/
def State.slDown (s : State) (e : Nat) : State :=
  let s := s.setLink e { s.link e with retraining := false }
  (((s.slChange e Sl.DOWN).count (opxPage (e / 2)) C.OPX_SUBLINK_DOWN 1).failLink e).peersLost

/-- SLn_EN of a sub-link. -/
def slEnField (e : Nat) : Fld := ⟨0x100, e % 2, 1⟩

/-- Whether a port is fenced by hardware: by start, or for a second fault (R509, R538). -/
def State.portFenced (s : State) (n : Nat) : Bool := s.hwFences.contains (opxPage n)

/-- Whether a port is out of service: fenced by hardware or by the host (R505). -/
def State.portOut (s : State) (n : Nat) : Bool := s.portFenced n || s.on (opxPage n) R.FENCE_HOST_FENCE

/-- SLn_EN set to 1 (R343); in a port that the host has fenced the sub-link is DOWN. -/
def State.subOn (s : State) (e : Nat) : State :=
  if s.slState e ≠ Sl.OFF ∨ s.portFenced (e / 2) = true then s
  else if s.portOut (e / 2) then s.slDown e
  else s.slTrain e false

/-- SLn_EN cleared: the sub-link goes OFF at once (R343, R345). -/
def State.subOff (s : State) (e : Nat) : State :=
  if s.slState e = Sl.OFF then s
  else
    let s := s.setLink e { s.link e with retraining := false }
    ((s.slChange e Sl.OFF).failLink e).peersLost

/-- DOWN_RETRY: every 100 ms while SLn_EN is 1 (R343). -/
def execDownRetry (e : Fin 32) (s : State) : Host.Outcome State Fault Refusal :=
  .next (if s.slState e.val == Sl.DOWN && s.on (opxPage (e.val / 2)) (slEnField e.val) && !s.portOut (e.val / 2)
      && !s.fatal then s.slTrain e.val false else s)

/-- LANE_FAULT: a faulty lane returns the sub-link to TRAINING (R347). -/
def execLaneFault (e : Fin 32) (s : State) : Host.Outcome State Fault Refusal :=
  .next (if s.slUp e.val && !s.fatal then s.slTrain e.val true else s)

/-! Training (R344). -/

/-- The lane map of a fibre as its register's number: SPARE_USED, FIELD, LOST and WAVE (R358). -/
structure Lanes where
  spare : Bool
  field : Bool
  lost  : Nat
  wave  : Nat
deriving DecidableEq, Repr

/-- Lanes in service (R354). -/
def Lanes.count (x : Lanes) : Nat := ((List.range 8).filter fun l => !bitOn x.lost l).length

/-- The lanes in service, in increasing logical lane (R336). -/
def Lanes.inService (x : Lanes) : List Nat := (List.range 8).filter fun l => !bitOn x.lost l

/-- The positions modulo 300 at which the lanes in service send their CONTROL frames (R336). -/
def Lanes.controlPositions (x : Lanes) : List (Nat × Nat) :=
  x.inService.mapIdx fun i l => (l, 300 * i / x.inService.length)

/-- The lanes that take DATA and IDLE frames at a frame position, in the order in which frames are dealt to them
(R336). -/
def Lanes.dealt (x : Lanes) (position : Nat) : List Nat :=
  (x.controlPositions.filter fun p => p.2 != position % 300).map Prod.fst

/-- The entry of a fibre: TX of sub-link `k` is `k`, RX is 2 + `k` (R358). -/
def State.lanes (s : State) (n f : Nat) : Lanes :=
  let pg := opxPage n
  ⟨s.on pg (R.OPX_LANE_MAP_SPARE_USED f), s.on pg (R.OPX_LANE_MAP_FIELD f), s.fld pg (R.OPX_LANE_MAP_LOST f),
    s.fld pg (R.OPX_LANE_MAP_WAVE f)⟩

/-- Write the entry of a fibre. -/
def State.putLanes (s : State) (n f : Nat) (x : Lanes) : State :=
  let pg := opxPage n
  let s := (s.flag pg (R.OPX_LANE_MAP_SPARE_USED f) x.spare).flag pg (R.OPX_LANE_MAP_FIELD f) x.field
  (s.put pg (R.OPX_LANE_MAP_LOST f) x.lost).put pg (R.OPX_LANE_MAP_WAVE f) x.wave

/-- Take a lane out of service, or give it the spare (R344, R348). -/
def Lanes.fix (x : Lanes) (spareOk : Bool) (l : Nat) : Lanes :=
  if spareOk && !x.spare then { x with spare := true, wave := setBits x.wave (4 * l) 4 8 }
  else { x with lost := setBits x.lost l 1 1, spare := x.spare && bits x.wave (4 * l) 4 != 8 }

/-- The lane map that training finds (R344, step 3). -/
def trainLanes (fails : List (Fin 9)) (gen1 field : Bool) : Lanes :=
  (List.range 8).foldl (fun x l =>
    if fails.contains (Fin.ofNat 9 l) then x.fix (!gen1 && !fails.contains 8) l else x) ⟨false, field, 0, 0x76543210⟩

/-- Write what a training finds in both fibres of a sub-link: the lane maps and the lanes in service, with the port's
interrupt and FIG's notice where they change (R349, R354, R628). -/
def State.trained (s : State) (e : Nat) (tx rx : Lanes) : State :=
  let n := e / 2
  let k := e % 2
  let pg := opxPage n
  let same := s.lanes n k == tx && s.lanes n (2 + k) == rx
    && s.fld pg (R.OPX_SL_STS_TX_LANES k) == tx.count && s.fld pg (R.OPX_SL_STS_RX_LANES k) == rx.count
  if same then s
  else
    let s := (s.putLanes n k tx).putLanes n (2 + k) rx
    let s := (s.put pg (R.OPX_SL_STS_TX_LANES k) tx.count).put pg (R.OPX_SL_STS_RX_LANES k) rx.count
    -- the port is whole again once every fibre has its eight lanes (R506)
    let s : State := if (List.range 4).all fun f => (s.lanes n f).count == 8 then { s with degraded := setErase pg s.degraded } else s
    { s with fig := { s.fig with due := setInsert e s.fig.due } }.intSet pg 1

/-- The ends exchange incarnation numbers (R341). At the first training, and where the peer's number has changed, sequence
numbers and credits start anew; where it has changed, what is unacknowledged fails. -/
def State.meet (s : State) (e : Nat) (peer : Nat) : State :=
  let n := e / 2
  let l := s.link e
  let s := s.setLink e { l with met := true }
  let known := s.fld (opxPage n) (R.OPX_SL_STS_PEER_INC (e % 2))
  let s := s.put (opxPage n) (R.OPX_SL_STS_PEER_INC (e % 2)) peer
  if l.met && known == peer then s
  else
    let s := if l.met then (s.count (opxPage n) C.OPX_INCARNATION_CHANGES 1).failLink e else s
    let s := s.writeAlloc e (if s.groupless e then s.freeAlloc e else s.slotAlloc s.figure e)
    let l := s.link e
    (s.setLink e { l with
      txSeq := 0xFFFF, rxSeq := 0xFFFF, nakAt := none, nak := false, grants := [], freed := [] }).resetCredits e

/-- A sub-link comes into service while a figure change runs that changes its allocations: it drains as well (R419, R420). -/
def State.joinDrain (s : State) (e : Nat) : State :=
  match s.fig.running with
  | some x => if s.allocChanges x.2.1 e then { s with fig := { s.fig with drains := setInsert e s.fig.drains } } else s
  | none => s

/-- Training ends (R344). -/
def State.trainEnd (s : State) (e : Nat) (t : TrainResult) : State :=
  if s.slState e ≠ Sl.TRAINING ∨ (s.link e).retraining = true ∨ s.fatal = true then s
  else
    let n := e / 2
    let k := e % 2
    let pg := opxPage n
    let tx := trainLanes t.txFail t.peerGen1 (s.lanes n k).field
    let rx := trainLanes t.rxFail t.peerGen1 (s.lanes n (2 + k)).field
    let s := s.trained e tx rx
    if tx.count < 2 || rx.count < 2 || (t.peerGen1 && !s.on pg R.OPX_PORT_CTL_GEN1_ALLOW) then s.slDown e
    else
      let s := s.flag pg ⟨0x108, 22 + k, 1⟩ t.peerGen1
      let s := (s.meet e t.peerInc.toNat).put pg (R.OPX_SL_STS_LOOP k) t.loop.toNat
      (((s.slChange e Sl.UP).joinDrain e).flushUnsent).pump e

/-- TRAINING_COMPLETE. -/
def execTrainingComplete (e : Fin 32) (t : TrainResult) (s : State) : Host.Outcome State Fault Refusal :=
  .next (s.trainEnd e.val t)

/-! Field retraining (R347, R348). -/

/-- LANE_CHANGED of a sub-link, with the row of R348 (R501). -/
def State.laneRecord (s : State) (e row : Nat) : State :=
  s.report ⟨.laneChanged, 4, B.OPX + e / 2, e / 2, e, 0, row⟩ {}

/-- One faulty lane of a fibre: the spare takes it, or it goes out of service (R348). -/
def State.fieldLane (s : State) (e f : Nat) (spareOk : Bool) (l : Nat) : State :=
  let n := e / 2
  let x := s.lanes n f
  let y := x.fix spareOk l
  let spare := y.lost == x.lost
  let s := (s.putLanes n f { y with field := true }).intSet (opxPage n) 1
  let s := if spare then s else s.degrade (opxPage n)
  (s.count (opxPage n) (if spare then C.OPX_FIELD_SPARES else C.OPX_LANES_LOST) 1).laneRecord e (if spare then 1 else 2)

/-- The faulty lanes of a fibre: those in service whose wavelength fails. -/
def State.fieldFibre (s : State) (e f : Nat) (fails : List (Fin 9)) (gen1 : Bool) : State :=
  let x := s.lanes (e / 2) f
  let bad := (List.range 8).filter fun l => !bitOn x.lost l && fails.contains (Fin.ofNat 9 (bits x.wave (4 * l) 4))
  s.each bad fun s l => s.fieldLane e f (!gen1 && !fails.contains 8) l

/-- A field retraining ends: UP with the lanes that remain, or DOWN (R348, R349). -/
def State.fieldEnd (s : State) (e : Nat) (t : TrainResult) : State :=
  if s.slState e ≠ Sl.TRAINING ∨ (s.link e).retraining = false ∨ s.fatal = true then s
  else
    let n := e / 2
    let k := e % 2
    let gen1 := s.on (opxPage n) ⟨0x108, 22 + k, 1⟩
    let s := (s.fieldFibre e k t.txFail gen1).fieldFibre e (2 + k) t.rxFail gen1
    let tx := s.lanes n k
    let rx := s.lanes n (2 + k)
    let s := s.trained e tx rx
    if tx.count < 2 || rx.count < 2 then (s.laneRecord e 3).slDown e
    else
      let s := s.setLink e { s.link e with retraining := false }
      ((s.slChange e Sl.UP).flushUnsent).pump e

/-- FIELD_RETRAINING_DONE. -/
def execFieldRetrainingDone (e : Fin 32) (t : TrainResult) (s : State) : Host.Outcome State Fault Refusal :=
  .next (s.fieldEnd e.val t)

/-! Reflectometry (R350, R351). -/

/-- START of OPX_OTDR_CTL, its fields already written: refused, or the measurement runs. -/
def State.otdrBegin (s : State) (n : Nat) : State :=
  let pg := opxPage n
  let wave := s.fld pg R.OPX_OTDR_CTL_WAVE
  let st := s.slState (2 * n + s.fld pg R.OPX_OTDR_CTL_FIBRE)
  if (st == Sl.OFF || st == Sl.DOWN) && decide (wave ≤ 8) && bitOn (s.fld pg (litField (s.feed n))) wave then
    s.put pg R.OPX_OTDR_STS_BUSY 1
  else s.put pg R.OPX_OTDR_STS_RESULT 1

/-- An event inserted by its RAW, after those of the same. -/
def insertEvent (x : Nat × Nat) : List (Nat × Nat) → List (Nat × Nat)
  | [] => [x]
  | y :: t => if x.1 < y.1 then x :: y :: t else y :: insertEvent x t

/-- DIST of an event as a fraction, in units of 5 cm (R351). -/
def otdrDist (raw ng : Nat) : Nat × Nat := (raw * 299792458 * 16384, ng * 11200000000)

/-- Whether an event is reported: its reflectance, and its distance of 0.5 m to 100 m (R351). -/
def otdrKeeps (reflMin ng : Nat) (x : Nat × Nat) : Bool :=
  let d := otdrDist x.1 ng
  decide (signed 8 reflMin ≤ signed 8 x.2) && (ng == 0 || (decide (10 * d.2 ≤ d.1) && decide (d.1 ≤ 2000 * d.2)))

/-- OTDR_DONE: the events found, with round trip and reflectance. A group index of zero has no distance: DIST is open. -/
def State.otdrFinish (s : State) (n : Nat) (events : List (Nat × Nat)) : State :=
  let pg := opxPage n
  if !s.on pg R.OPX_OTDR_STS_BUSY || s.fatal then s
  else
    let ng := s.fld pg R.OPX_OTDR_CTL_NG
    let kept := events.filter (otdrKeeps (s.fld pg R.OPX_OTDR_CTL_REFL_MIN) ng)
    let l := (kept.foldl (fun l x => insertEvent x l) []).take 16
    let s := forUpto (fun i s =>
      let x := l.getD i (0, 0)
      let d := otdrDist x.1 ng
      let t : Nat × State := if ng = 0 then (Config.openField s.draw.1, s.draw.2) else ((2 * d.1 + d.2) / (2 * d.2), s)
      let s := (t.2.put pg (R.OTDR_EVENT_RAW i) x.1).put pg (R.OTDR_EVENT_DIST i) t.1
      s.put pg (R.OTDR_EVENT_REFL i) x.2) l.length s
    s.otdrEnd n 0 l.length

/-- OTDR_DONE. -/
def execOtdrDone (n : Fin 16) (events : List (BitVec 20 × BitVec 8)) (s : State) : Host.Outcome State Fault Refusal :=
  .next (s.otdrFinish n.val (events.map fun x => (x.1.toNat, x.2.toNat)))

end Sys2Proof.Machine
end

