-- ==== Sys2Proof/Machine/UnitCore.lean ====
section
/-! DEFINITION. The unit cores: KERNEL operations and the tile instructions (R129–R144, R158–R160). The manual gives
opcode ranges and no opcodes: which operation of a class an instruction is, and the scalar registers it names, are the
command's operands (log entry 12). -/

namespace Sys2Proof.Machine

/-- A unit core. -/
def State.unit (s : State) (d u : Nat) : UnitCore := Table.get (fun _ => {}) s.units (64 * d + u)

/-- Change a unit core. -/
def State.setUnit (s : State) (d u : Nat) (x : UnitCore) : State :=
  { s with units := Table.set (fun _ => {}) s.units (64 * d + u) x }

/-- The undefined row `k` of the tile registers of a draw (R131). -/
def freeRow (gen k : Nat) : Nat := leNat (tabulate (fun i => Config.undefinedByte gen (128 * k + i)) 128)

/-- Row `r` of tile `t` as 1,024 bits. -/
def UnitCore.row (x : UnitCore) (t r : Nat) : Nat :=
  (Table.get (fun _ => none) x.tiles (32 * t + r)).getD (freeRow x.gen (32 * t + r))

/-- Write row `r` of tile `t`. -/
def UnitCore.setRow (x : UnitCore) (t r v : Nat) : UnitCore :=
  { x with tiles := Table.set (fun _ => none) x.tiles (32 * t + r) (some (v % 2 ^ 1024)) }

/-- Write a tile row by row. -/
def UnitCore.setTile (x : UnitCore) (t : Nat) (f : Nat → Nat) : UnitCore := forUpto (fun r x => x.setRow t r (f r)) 32 x

/-- Scalar register `i`. -/
def UnitCore.scalar (x : UnitCore) (i : Nat) : Word :=
  (Table.get (fun _ => none) x.scalars i).getD
    (BitVec.ofNat 64 (leNat (tabulate (fun k => Config.undefinedByte x.gen (262144 + 8 * i + k)) 8)))

/-- Write scalar register `i`. -/
def UnitCore.setScalar (x : UnitCore) (i : Nat) (v : Word) : UnitCore :=
  { x with scalars := Table.set (fun _ => none) x.scalars i (some v) }

/-- Width of an element in the view of a format: 32 bits for narrow codes (R130). -/
def viewWidth (f : Fmt) : Nat := if isNarrow f then 32 else fmtWidth f

/-- Elements per row in the view of a format. -/
def viewCols (f : Fmt) : Nat := 1024 / viewWidth f

/-- Element (r, c) of a tile in a view; a narrow code is the low bits of its element. -/
def UnitCore.elem (x : UnitCore) (t : Nat) (f : Fmt) (r c : Nat) : Nat :=
  bits (x.row t r) (viewWidth f * c) (fmtWidth f)

/-- Write a tile in a view. -/
def UnitCore.setElems (x : UnitCore) (t : Nat) (f : Fmt) (g : Nat → Nat → Nat) : UnitCore :=
  x.setTile t fun r => packElems (viewWidth f) (tabulate (g r) (viewCols f))

/-! KERNEL (R159). -/

/-- Every unit of a KERNEL starts at the code address with S0, S1 and S2; its other registers are undefined. -/
def State.kernelStart (s : State) (c : Cmd) : State :=
  let n := c.units.length
  s.each (List.range n) fun s i =>
    let g := s.draw
    let x : UnitCore := { op := some c.id, mode := .running, pc := wf c.desc 3 0 52, gen := g.1 }
    let x := x.setScalar 0 (BitVec.ofNat 64 (vAux c.desc 0))
    let x := x.setScalar 1 (BitVec.ofNat 64 i)
    g.2.setUnit c.die (c.units.getD i 0) (x.setScalar 2 (BitVec.ofNat 64 n))

/-- KERNEL (R159). -/
def execKernel (d : Fin 4) (s : State) : Host.Outcome State Fault Refusal :=
  .next (s.vectorRow d.val OpKind.KERNEL State.kernelStart)

/-! Instructions (R135). -/

def iOpc (w : Nat) : Nat := bits w 56 8
def iTd (w : Nat) : Nat := bits w 50 6
def iTa (w : Nat) : Nat := bits w 44 6
def iTb (w : Nat) : Nat := bits w 38 6
def iTc (w : Nat) : Nat := bits w 32 6
def iFmt (w : Nat) : Option Fmt := fmtOfCode (bits w 28 4)
def iRnd (w : Nat) : Nat := bits w 26 2
def iBc (w : Nat) : Nat := bits w 24 2
def iSb (w : Nat) : Nat := bits w 19 5
def iAccum (w : Nat) : Bool := bits w 18 1 == 1
def iSpace (w : Nat) : Nat := bits w 16 2
def iImm (w : Nat) : Int := signed 16 w

/-- The kernel faults (R137). -/
abbrev KFault.instr : Nat := 0
abbrev KFault.addr : Nat := 1
abbrev KFault.align : Nat := 2

/-- The units of an operation stop and it ends with an error (R150). -/
def State.kernelStop (s : State) (c : Cmd) (err detail : Nat) : State :=
  let s := s.each c.units fun s u => s.setUnit c.die u { s.unit c.die u with mode := .halted }
  s.mapCmd c.id fun x => { x with stage := .vectorDone, error := some (err, detail) }

/-- A kernel fault of a unit (R137, R150). -/
def State.kernelFault (s : State) (c : Cmd) (u f : Nat) : State :=
  (s.kernelStop c Err.KERNEL_FAULT (f * 256 + u)).count (page c.die B.VEC) C.VEC_KERNEL_FAULTS 1

/-- What an instruction does: the next state with its registers written, or a fault. -/
inductive Issue where
  | ok (s : State)
  | fault (f : Nat)
  /-- the operation ends with an error of R648 -/
  | stop (err : Nat)

/-- A unit issues its next instruction from memory as it stands, its cache never holding an older word (DESIGN CHOICE,
log entry 46), when it runs, its die has the floor, and the instruction is of the class: opcodes `lo` to `hi`. An
instruction of the reserved range faults in whichever row it is offered. The program counter advances before `run`,
which sees the state and the word. -/
def State.issue (s : State) (d u lo hi : Nat) (run : State → Cmd → Nat → Issue) : State :=
  let x := s.unit d u
  match x.op.bind s.cmdOf with
  | none => s
  | some c =>
    if x.mode ≠ .running ∨ s.floorLost d = true then s
    else if !(s.named d c.context x.pc 8) then s.kernelFault c u KFault.addr
    else if s.badRange x.pc 8 then (s.countRead .engine x.pc 8).kernelStop c Err.MEM_POISON 0
    else
      let w := s.load x.pc 8
      let r := s.countRead .engine x.pc 8
      if 0x68 ≤ iOpc w then r.kernelFault c u KFault.instr
      else if iOpc w < lo ∨ hi < iOpc w then s
      else
        let t := (r.setUnit d u { x with pc := x.pc + 8 }).count (page d B.PMU) (C.PMU_UNIT_INSTRUCTIONS u) 1
        match run t c w with
        | .ok t => t
        | .fault f => r.kernelFault c u f
        | .stop e => r.kernelStop c e 0

/-- Write a unit's registers. -/
def State.regs' (s : State) (d u : Nat) (f : UnitCore → UnitCore) : Issue := .ok (s.setUnit d u (f (s.unit d u)))

/-! Scalar classes. -/

/-- A comparison result (log entry 12). -/
def cmpCode (b : Bool) : Word := if b then Config.cmpTrue else Config.cmpFalse

/-- Scalar integer operations on 64-bit registers; a shift by 64 or more is free (log entry 12). -/
def scalarInt (op : ScalarInt) (a b : Word) (imm : Int) : Word :=
  let wide := decide (64 ≤ b.toNat)
  match op with
  | .add => a + b
  | .sub => a - b
  | .mul => a * b
  | .and => a &&& b
  | .or => a ||| b
  | .xor => a ^^^ b
  | .shl => if wide then Config.wideShift a b else a <<< b.toNat
  | .shrLogical => if wide then Config.wideShift a b else a >>> b.toNat
  | .shrArith => if wide then Config.wideShift a b else a.sshiftRight b.toNat
  | .minS => if a.toInt < b.toInt then a else b
  | .maxS => if a.toInt < b.toInt then b else a
  | .minU => if a.toNat < b.toNat then a else b
  | .maxU => if a.toNat < b.toNat then b else a
  | .cmpEq => cmpCode (decide (a = b))
  | .cmpLtS => cmpCode (decide (a.toInt < b.toInt))
  | .cmpLtU => cmpCode (decide (a.toNat < b.toNat))
  | .moveImm => BitVec.ofInt 64 imm

/-- SCALAR_INTEGER_OP (R136). -/
def execScalarIntegerOp (d : Fin 4) (vu : Fin 64) (op : ScalarInt) (rd ra rb : Fin 32) (s : State) :
    Host.Outcome State Fault Refusal :=
  .next (s.issue d.val vu.val 0x00 0x0F fun s _ w =>
    s.regs' d.val vu.val fun x => x.setScalar rd.val (scalarInt op (x.scalar ra.val) (x.scalar rb.val) (iImm w)))

/-- Exact comparison of two values that are equal as numbers. -/
def veq (a b : Val) : Bool := !vnan a && !vnan b && !vlt a b && !vlt b a

/-- A comparison of values; one with a NaN is false. -/
def compareVal (c : Cmp) (a b : Val) : Bool :=
  match c with
  | .eq => veq a b
  | .lt => !vnan a && !vnan b && vlt a b
  | .le => veq a b || (!vnan a && !vnan b && vlt a b)

/-- The conversion of an FP32 code to a signed integer, free where it is not an exact one in range (log entry 12). -/
def fpToInt (a : Nat) : Word :=
  match decode .fp32 a with
  | .fin neg m e =>
    let x := toFrac m e
    if x.1 % x.2 = 0 ∧ x.1 / x.2 < 2 ^ 63 then
      BitVec.ofInt 64 (if neg then -((x.1 / x.2 : Nat) : Int) else ((x.1 / x.2 : Nat) : Int))
    else Config.toInteger (BitVec.ofNat 32 a)
  | _ => Config.toInteger (BitVec.ofNat 32 a)

/-- Scalar FP32 operations on the low halves of registers (R132, R133, R158). -/
def scalarFp (op : ScalarFp) (a b c : Word) : Word :=
  let x := a.toNat % 2 ^ 32
  let y := b.toNat % 2 ^ 32
  let z := c.toNat % 2 ^ 32
  let w (n : Nat) : Word := BitVec.ofNat 64 n
  match op with
  | .add => w (fadd .fp32 x y)
  | .mul => w (fmul .fp32 x y)
  | .fma => w (ffma .fp32 x y z)
  | .min => w (fmin .fp32 x y)
  | .max => w (fmax .fp32 x y)
  | .cmpEq => cmpCode (compareVal .eq (decode .fp32 x) (decode .fp32 y))
  | .cmpLt => cmpCode (compareVal .lt (decode .fp32 x) (decode .fp32 y))
  | .cmpLe => cmpCode (compareVal .le (decode .fp32 x) (decode .fp32 y))
  | .toInt => fpToInt x
  | .fromInt => w (packVal .fp32 .nearest (valOfInt a.toInt 0 false))

/-- SCALAR_FP32_OP (R136). -/
def execScalarFp32Op (d : Fin 4) (vu : Fin 64) (op : ScalarFp) (rd ra rb rc : Fin 32) (s : State) :
    Host.Outcome State Fault Refusal :=
  .next (s.issue d.val vu.val 0x10 0x17 fun s _ _ =>
    s.regs' d.val vu.val fun x =>
      x.setScalar rd.val (scalarFp op (x.scalar ra.val) (x.scalar rb.val) (x.scalar rc.val)))

/-! Control class. -/

/-- The free target of a control instruction (log entry 12). `x` has the program counter after the instruction. -/
def targetOf (x : UnitCore) (w : Nat) : Nat :=
  (Config.branchTarget (BitVec.ofNat 64 w) (BitVec.ofNat 64 (x.pc - 8)) (x.scalar (iSb w))).toNat

/-- BRANCH (R136). -/
def execBranch (d : Fin 4) (vu : Fin 64) (s : State) : Host.Outcome State Fault Refusal :=
  .next (s.issue d.val vu.val 0x18 0x1F fun s _ w => s.regs' d.val vu.val fun x => { x with pc := targetOf x w })

/-- CONDITIONAL_BRANCH (R136). -/
def execConditionalBranch (d : Fin 4) (vu : Fin 64) (s : State) : Host.Outcome State Fault Refusal :=
  .next (s.issue d.val vu.val 0x18 0x1F fun s _ w => s.regs' d.val vu.val fun x =>
    if Config.branchTaken (BitVec.ofNat 64 w) (x.scalar (iSb w)) then { x with pc := targetOf x w } else x)

/-- CALL (R136): the address of the next instruction is kept for the return. -/
def execCall (d : Fin 4) (vu : Fin 64) (s : State) : Host.Outcome State Fault Refusal :=
  .next (s.issue d.val vu.val 0x18 0x1F fun s _ w => s.regs' d.val vu.val fun x =>
    { x with pc := targetOf x w, calls := x.pc :: x.calls })

/-- RETURN (R136): to the newest address kept; without one, to a free target. -/
def execRet (d : Fin 4) (vu : Fin 64) (s : State) : Host.Outcome State Fault Refusal :=
  .next (s.issue d.val vu.val 0x18 0x1F fun s _ w => s.regs' d.val vu.val fun x =>
    match x.calls with
    | a :: t => { x with pc := a, calls := t }
    | [] => { x with pc := targetOf x w })

/-- When every unit of a KERNEL has halted, the operation has finished (R159). -/
def State.haltUnit (s : State) (d u : Nat) (c : Cmd) : State :=
  let s := s.setUnit d u { s.unit d u with mode := .halted }
  if c.units.all fun v => (s.unit d v).mode == .halted then s.mapCmd c.id fun x => { x with stage := .vectorDone } else s

/-- HALT (R159). -/
def execHalt (d : Fin 4) (vu : Fin 64) (s : State) : Host.Outcome State Fault Refusal :=
  .next (s.issue d.val vu.val 0x18 0x1F fun s c _ => .ok (s.haltUnit d.val vu.val c))

/-- UBAR (R160): the unit stands at the barrier. -/
def execUbar (d : Fin 4) (vu : Fin 64) (s : State) : Host.Outcome State Fault Refusal :=
  .next (s.issue d.val vu.val 0x18 0x1F fun s _ _ => s.regs' d.val vu.val fun x => { x with mode := .barrier })

/-- R160: once every unit of the operation stands at the barrier and the stores made before it have landed, all
continue. -/
def State.barrierRelease (s : State) (d u : Nat) : State :=
  match (s.unit d u).op.bind s.cmdOf with
  | none => s
  | some c =>
    if !s.floorLost d && (c.units.all fun v => (s.unit d v).mode == .barrier) && !(s.heldWrites.any fun w => w.owner == some c.id) then
      s.each c.units fun s v => s.setUnit d v { s.unit d v with mode := .running }
    else s

/-- UBAR_RELEASE (R160). -/
def execUbarRelease (d : Fin 4) (vu : Fin 64) (s : State) : Host.Outcome State Fault Refusal :=
  .next (s.barrierRelease d.val vu.val)

/-- NUM_REPORT (R59, R136, R171, R175): the amax in S[SB] for the tensor in S[SB + 1]. -/
def State.numReport (s : State) (d u : Nat) (c : Cmd) (w : Nat) : Issue :=
  let x := s.unit d u
  let t := (x.scalar (iSb w + 1)).toNat % 65536
  if iSb w = 31 then .fault KFault.instr
  else if (s.entryAddr d c.context t).isNone then .fault KFault.addr
  else .ok (s.amaxReport d c.context t ((x.scalar (iSb w)).toNat % 2 ^ 32) c.attempt)

/-- NUM_REPORT (R136). -/
def execNumReport (d : Fin 4) (vu : Fin 64) (s : State) : Host.Outcome State Fault Refusal :=
  .next (s.issue d.val vu.val 0x18 0x1F fun s c w => s.numReport d.val vu.val c w)

/-! Loads and stores. -/

/-- The rows that a load or store reaches: address of each, the bytes of one, or the fault (R135–R137). An address that
is both misaligned and outside gives ALIGN_INVALID (DESIGN CHOICE, log entry 46). -/
def State.tileAddrs (s : State) (d : Nat) (c : Cmd) (x : UnitCore) (w rows bytes : Nat) : Except Nat (Nat → Nat) :=
  let a := ((((x.scalar (iSb w)).toNat : Int) + 64 * iImm w) % ((2 ^ 64 : Nat) : Int)).toNat
  let pitch := (x.scalar (iSb w + 1)).toNat
  let at' (r : Nat) : Nat := if iSpace w = 0 then accAddr d (a + r * pitch) else a + r * pitch
  let inAcc := iSpace w != 0 || (List.range rows).all fun r => decide (a + r * pitch + bytes ≤ 0x3000000)
  let placed := (List.range rows).all fun r =>
    s.named d c.context (at' r) bytes && (match accDie (at' r) with
      | some e => e == d
      | none => true)
  if iSb w = 31 ∨ 2 ≤ iSpace w then .error KFault.instr
  else if a % 64 ≠ 0 ∨ pitch % 64 ≠ 0 then .error KFault.align
  else if !(inAcc && placed) then .error KFault.addr
  else .ok at'

/-- Load `rows` rows of `bytes` bytes as the operation's own stores left them (R137) and write the registers from their numbers; poison ends the operation (R229). -/
def State.loadRows (s : State) (d u : Nat) (c : Cmd) (w rows bytes : Nat) (f : UnitCore → (Nat → Nat) → UnitCore) :
    Issue :=
  match s.tileAddrs d c (s.unit d u) w rows bytes with
  | .error e => .fault e
  | .ok a =>
    if (List.range rows).any fun r => (s.loadOf (some c.id) (a r) bytes).1 then .stop Err.MEM_POISON
    else
      let t := s.each (List.range rows) fun t r =>
        (t.countRead (.vector d) (a r) bytes).unitBytes d u (a r) bytes false
      .ok (t.setUnit d u (f (t.unit d u) fun r => (s.loadOf (some c.id) (a r) bytes).2))

/-- Store rows of numbers, and set the non-finite flag when `bad` (R142, R144). -/
def State.storeRows (s : State) (d u : Nat) (c : Cmd) (w rows bytes : Nat) (row : Nat → Nat) (bad : Bool) : Issue :=
  match s.tileAddrs d c (s.unit d u) w rows bytes with
  | .error e => .fault e
  | .ok a =>
    let t := s.each (List.range rows) fun t r =>
      (t.write (.vector d) (some c.id) (a r) (leBytes bytes (row r))).unitBytes d u (a r) bytes true
    -- the first store of the operation, and its last so far (R603)
    let first := (t.cmdOf c.id).any fun x => x.stamps.all fun e => e.1 != 2
    let t := (t.when first fun t => t.stampCmd c 2 (d * 256 + 1)).stampCmd c 3 (d * 256 + 1)
    .ok (if bad then t.nonfinite d c.context else t)

/-- Whether a tile in a view holds a code that R144 counts. -/
def UnitCore.nonFinite (x : UnitCore) (t : Nat) (f : Fmt) : Bool :=
  (List.range 32).any fun r => (List.range (viewCols f)).any fun c => nonFiniteStore f (x.elem t f r c)

/-- TILE_LOAD (R136): a tile of a wide view, or the packed codes of a narrow one (R42; log entry 12). -/
def State.tileLoad (s : State) (d u : Nat) (c : Cmd) (w : Nat) : Issue :=
  match iFmt w with
  | none => .fault KFault.instr
  | some f =>
    if isNarrow f then
      s.loadRows d u c w 32 (4 * fmtWidth f) fun x g =>
        x.setElems (iTd w) f fun r k => bits (g r) (fmtWidth f * k) (fmtWidth f)
    else s.loadRows d u c w 32 128 fun x g => x.setTile (iTd w) g

/-- TILE_LOAD (R136). -/
def execTileLoad (d : Fin 4) (vu : Fin 64) (s : State) : Host.Outcome State Fault Refusal :=
  .next (s.issue d.val vu.val 0x20 0x27 fun s c w => s.tileLoad d.val vu.val c w)

/-- TILE_STORE (R136): the rows of the tile as they stand, so a narrow FMT stores its 32-bit elements unpacked, as a transposed
store does; packing is the packed-narrow store's (DESIGN CHOICE, log entry 12). -/
def State.tileStore (s : State) (d u : Nat) (c : Cmd) (w : Nat) : Issue :=
  match iFmt w with
  | none => .fault KFault.instr
  | some f =>
    let x := s.unit d u
    s.storeRows d u c w 32 128 (x.row (iTa w)) (x.nonFinite (iTa w) f)

/-- TILE_STORE (R136). -/
def execTileStore (d : Fin 4) (vu : Fin 64) (s : State) : Host.Outcome State Fault Refusal :=
  .next (s.issue d.val vu.val 0x20 0x27 fun s c w => s.tileStore d.val vu.val c w)

/-- TRANSPOSED_LOAD (R136): element (r, c) comes from element (c, r) in memory. -/
def State.transposedLoad (s : State) (d u : Nat) (c : Cmd) (w : Nat) : Issue :=
  match iFmt w with
  | none => .fault KFault.instr
  | some f =>
    let e := if isNarrow f then fmtWidth f else viewWidth f
    s.loadRows d u c w (viewCols f) (4 * e) fun x g => x.setElems (iTd w) f fun r k => bits (g k) (e * r) e

/-- TRANSPOSED_LOAD (R136). -/
def execTransposedLoad (d : Fin 4) (vu : Fin 64) (s : State) : Host.Outcome State Fault Refusal :=
  .next (s.issue d.val vu.val 0x20 0x27 fun s c w => s.transposedLoad d.val vu.val c w)

/-- TRANSPOSED_STORE (R136). -/
def State.transposedStore (s : State) (d u : Nat) (c : Cmd) (w : Nat) : Issue :=
  match iFmt w with
  | none => .fault KFault.instr
  | some f =>
    let x := s.unit d u
    let e := viewWidth f
    s.storeRows d u c w (viewCols f) (4 * e)
      (fun k => packElems e (tabulate (fun r => bits (x.row (iTa w) r) (e * k) e) 32)) (x.nonFinite (iTa w) f)

/-- TRANSPOSED_STORE (R136). -/
def execTransposedStore (d : Fin 4) (vu : Fin 64) (s : State) : Host.Outcome State Fault Refusal :=
  .next (s.issue d.val vu.val 0x20 0x27 fun s c w => s.transposedStore d.val vu.val c w)

/-- PACKED_NARROW_STORE (R136, R143): masked granules that hold the packed elements of each row. -/
def State.packedNarrowStore (s : State) (d u : Nat) (c : Cmd) (w : Nat) : Issue :=
  match iFmt w with
  | none => .fault KFault.instr
  | some f =>
    let x := s.unit d u
    s.storeRows d u c w 32 (viewCols f * fmtWidth f / 8)
      (fun r => packElems (fmtWidth f) (tabulate (fun k => x.elem (iTa w) f r k) (viewCols f))) (x.nonFinite (iTa w) f)

/-- PACKED_NARROW_STORE (R136). -/
def execPackedNarrowStore (d : Fin 4) (vu : Fin 64) (s : State) : Host.Outcome State Fault Refusal :=
  .next (s.issue d.val vu.val 0x20 0x27 fun s c w => s.packedNarrowStore d.val vu.val c w)

/-! Elementwise, functions, reductions. -/

/-- The second operand after BC (R135). -/
def UnitCore.operandB (x : UnitCore) (w : Nat) (f : Fmt) (r c : Nat) : Nat :=
  match iBc w with
  | 1 => x.elem (iTb w) f 0 c
  | 2 => x.elem (iTb w) f r 0
  | 3 => (x.scalar (iSb w)).toNat % 2 ^ fmtWidth f
  | _ => x.elem (iTb w) f r c

/-- An elementwise operation on codes (R132, R133); `m` is the third operand. -/
def tileOp (op : TileOp) (f : Fmt) (a b m : Nat) : Nat :=
  match op with
  | .add => fadd f a b
  | .sub => fsub f a b
  | .mul => fmul f a b
  | .fma => ffma f a b m
  | .min => fmin f a b
  | .max => fmax f a b
  | .abs => packVal f .nearest (vabs (decode f a))
  | .neg => fneg f a
  | .cmpMask c => if compareVal c (decode f a) (decode f b) then Config.maskTrue (fmtWidth f) else Config.maskFalse (fmtWidth f)
  | .selMask => if m % 2 ^ fmtWidth f = Config.maskTrue (fmtWidth f) % 2 ^ fmtWidth f then a else b
  | .move => a

/-- TILE_ELEMENTWISE (R136). -/
def State.tileElementwise (s : State) (d u : Nat) (op : TileOp) (w : Nat) : Issue :=
  match iFmt w with
  | none => .fault KFault.instr
  | some f =>
    if isNarrow f then .fault KFault.instr
    else
      let n := 32 * viewCols f
      let s := if op = .fma then
          (match f with
           | .bf16 => (s.count (page d B.VEC) C.VEC_FMA_BF16 n).count (page d B.PMU) (C.PMU_UNIT_FMA_BF16 u) n
           | .fp64 => s.count (page d B.PMU) (C.PMU_UNIT_FMA_FP64 u) n
           | _ => (s.count (page d B.VEC) C.VEC_FMA_FP32 n).count (page d B.PMU) (C.PMU_UNIT_FMA_FP32 u) n)
        else s
      s.regs' d u fun x => x.setElems (iTd w) f fun r c =>
        tileOp op f (x.elem (iTa w) f r c) (x.operandB w f r c) (x.elem (iTc w) f r c)

/-- TILE_ELEMENTWISE (R136). -/
def execTileElementwise (d : Fin 4) (vu : Fin 64) (op : TileOp) (s : State) : Host.Outcome State Fault Refusal :=
  .next (s.issue d.val vu.val 0x28 0x3F fun s _ w => s.tileElementwise d.val vu.val op w)

/-- TILE_FUNCTION (R134, R136): FP32 only. -/
def State.tileFunction (s : State) (d u : Nat) (fn : Fn) (w : Nat) : Issue :=
  if iFmt w ≠ some .fp32 then .fault KFault.instr
  else
    let s := (s.count (page d B.VEC) C.VEC_FUNC_ELEMENTS 1024).count (page d B.PMU) (C.PMU_UNIT_FUNC_ELEMENTS u) 1024
    s.regs' d u fun x => x.setElems (iTd w) .fp32 fun r c =>
      if fn = .div then fdiv .fp32 (x.elem (iTa w) .fp32 r c) (x.operandB w .fp32 r c)
      else fnEval fn (x.elem (iTa w) .fp32 r c)

/-- TILE_FUNCTION (R136). -/
def execTileFunction (d : Fin 4) (vu : Fin 64) (fn : Fn) (s : State) : Host.Outcome State Fault Refusal :=
  .next (s.issue d.val vu.val 0x40 0x4F fun s _ w => s.tileFunction d.val vu.val fn w)

/-- A reduction by rows or by columns (R138, R139): the results in column 0 or row 0, +0 elsewhere. With ACCUM the
reduction's own operation joins the vector in TD, so a MAX takes the MAX with it (DEDUCED, log entry 46). -/
def State.tileReduce (s : State) (d u w : Nat) (byRow : Bool) (f : Nat → Nat → Nat) (pad : Nat) : Issue :=
  if iFmt w ≠ some .fp32 then .fault KFault.instr
  else s.regs' d u fun x =>
    let line (i : Nat) : List Nat :=
      tabulate (fun k => if byRow then x.elem (iTa w) .fp32 i k else x.elem (iTa w) .fp32 k i) 32
    let res (i : Nat) : Nat :=
      let v := tree32 f pad (line i)
      if iAccum w then f (if byRow then x.elem (iTd w) .fp32 i 0 else x.elem (iTd w) .fp32 0 i) v else v
    x.setElems (iTd w) .fp32 fun r c =>
      if byRow then (if c = 0 then res r else 0) else (if r = 0 then res c else 0)

/-- ROW_SUM (R139). -/
def execRowSum (d : Fin 4) (vu : Fin 64) (s : State) : Host.Outcome State Fault Refusal :=
  .next (s.issue d.val vu.val 0x50 0x57 fun s _ w => s.tileReduce d.val vu.val w true (fadd .fp32) 0)

/-- COLUMN_SUM (R139). -/
def execColumnSum (d : Fin 4) (vu : Fin 64) (s : State) : Host.Outcome State Fault Refusal :=
  .next (s.issue d.val vu.val 0x50 0x57 fun s _ w => s.tileReduce d.val vu.val w false (fadd .fp32) 0)

/-- ROW_MAX (R138). -/
def execRowMax (d : Fin 4) (vu : Fin 64) (s : State) : Host.Outcome State Fault Refusal :=
  .next (s.issue d.val vu.val 0x50 0x57 fun s _ w => s.tileReduce d.val vu.val w true (fmax .fp32) ninf32)

/-- COLUMN_MAX (R138). -/
def execColumnMax (d : Fin 4) (vu : Fin 64) (s : State) : Host.Outcome State Fault Refusal :=
  .next (s.issue d.val vu.val 0x50 0x57 fun s _ w => s.tileReduce d.val vu.val w false (fmax .fp32) ninf32)

/-! Conversions. -/

/-- The rounding of a kernel conversion: a stochastic draw has no tensor and is free (log entry 13). -/
def kernelRound (gen w r c : Nat) : Rounding :=
  if iRnd w = 1 then .stochastic (Config.kernelDraw gen (32 * r + c) % 65536) else .nearest

/-- Whether R51 gives the vector engine a conversion between formats in a mode. -/
def convertible (src dst : Fmt) (rnd : Nat) : Bool :=
  match src, dst with
  | .bf16, .fp32 => rnd == 0
  | .fp32, .fp64 => rnd == 0
  | .fp64, .fp32 => rnd == 0
  | .fp32, .bf16 => decide (rnd ≤ 1)
  | .bf16, .bf16 => decide (rnd ≤ 1)
  | f, .fp32 => isNarrow f && rnd == 0
  | _, _ => false

/-- The fine shift of an element of a tile that is blocked along an axis, as QUANTISE leaves it in TC (R44, R136). -/
def UnitCore.shiftOf (x : UnitCore) (w : Nat) (axis : Axis) (r k : Nat) : Nat :=
  (match axis with
    | .columns => x.elem (iTc w) .fp32 r 0
    | .rows => x.elem (iTc w) .fp32 0 k) % 16

/-- TILE_CONVERSION (R51–R53): narrow codes use the shifts of TC by the tile's blocks and C of S[SB], which fails the
operation where R46 does not allow it. Where the views differ in width, the columns that both have are converted and the
others are free (log entry 12). -/
def State.tileConversion (s : State) (d u : Nat) (src : Fmt) (axis : Axis) (w : Nat) : Issue :=
  match iFmt w with
  | none => .fault KFault.instr
  | some dst =>
    if !convertible src dst (iRnd w) then .fault KFault.instr
    else if isNarrow src && !scaleValid (((s.unit d u).scalar (iSb w)).toNat % 2 ^ 32) then .stop Err.SCALE_INVALID
    else
      let g := s.draw
      g.2.regs' d u fun x =>
        let c := decode .fp32 ((x.scalar (iSb w)).toNat % 2 ^ 32)
        x.setElems (iTd w) dst fun r k =>
          if viewCols src ≤ k then bits (freeRow g.1 r) (viewWidth dst * k) (viewWidth dst)
          else if isNarrow src then dequant src (x.elem (iTa w) src r k) (x.shiftOf w axis r k) c
          else convert src dst (kernelRound g.1 w r k) (x.elem (iTa w) src r k)

/-- TILE_CONVERSION (R136). -/
def execTileConversion (d : Fin 4) (vu : Fin 64) (src : Blocked) (s : State) : Host.Outcome State Fault Refusal :=
  .next (s.issue d.val vu.val 0x58 0x5F fun s _ w => s.tileConversion d.val vu.val src.fmt src.axis w)

/-- The fine shift of block `i` of a 32 × 32 tile (R56). -/
def UnitCore.blockShift (x : UnitCore) (w : Nat) (src dst : Fmt) (axis : Axis) (c : Val) (i : Nat) : Nat :=
  fineShift dst (tabulate (fun k => decode src (match axis with
    | .columns => x.elem (iTa w) src i k
    | .rows => x.elem (iTa w) src k i)) 32) c

/-- QUANTISE (R52, R56, R57, R136): codes into TD, shifts into column 0 or row 0 of TC. Of a BF16 source, whose view has 64
columns, it takes columns 0–31 (DESIGN CHOICE, log entry 12). A C that R46 does not allow fails
the operation. -/
def State.quantise (s : State) (d u : Nat) (cmd : Cmd) (src : Fmt) (axis : Axis) (w : Nat) : Issue :=
  match iFmt w with
  | none => .fault KFault.instr
  | some dst =>
    if !isNarrow dst || !(src == .fp32 || src == .bf16) || decide (2 ≤ iRnd w) then .fault KFault.instr
    else if !scaleValid (((s.unit d u).scalar (iSb w)).toNat % 2 ^ 32) then .stop Err.SCALE_INVALID
    else
      let g := s.draw
      let s := g.2
      let x := s.unit d u
      let c := decode .fp32 ((x.scalar (iSb w)).toNat % 2 ^ 32)
      let shift (i : Nat) : Nat := x.blockShift w src dst axis c i
      let q (r k : Nat) : Nat × Bool × Bool :=
        quantElem dst (kernelRound g.1 w r k) (decode src (x.elem (iTa w) src r k))
          (shift (match axis with | .columns => r | .rows => k)) c
      let all := (List.range 32).flatMap fun r => tabulate (q r) 32
      let ovf := (all.filter fun e => e.2.1).length
      let nonfin := (all.filter fun e => e.2.2).length
      let y := x.setElems (iTd w) dst fun r k => (q r k).1
      let y := match axis with
        | .columns => forUpto (fun r y => y.setRow (iTc w) r (setBits (y.row (iTc w) r) 0 32 (shift r))) 32 y
        | .rows => y.setRow (iTc w) 0 (packElems 32 (tabulate shift 32))
      let s := s.setUnit d u y
      let s := s.count (page d B.VEC) C.VEC_QUANT_OVERFLOW ovf
      let s := s.count (page d B.VEC) C.VEC_QUANT_NONFINITE nonfin
      let s := if nonfin = 0 then s else s.nonfinite d cmd.context
      let s := s.attemptOverflow cmd ovf
      .ok (s.mapCmd cmd.id fun z => { z with ovf := z.ovf + ovf, nonfinite := z.nonfinite + nonfin })

/-- QUANTISE (R136). -/
def execQuantise (d : Fin 4) (vu : Fin 64) (src : Fmt) (axis : Axis) (s : State) : Host.Outcome State Fault Refusal :=
  .next (s.issue d.val vu.val 0x58 0x5F fun s c w => s.quantise d.val vu.val c src axis w)

/-- SPLIT (R68): hi into columns 0–31 of the BF16 view of TD, lo into columns 32–63 (log entry 12). Its destination
format is BF16 (R51, R136). It rounds to nearest whatever RND holds, for R51 gives it no mode (DESIGN CHOICE, log entry 12). -/
def State.split (s : State) (d u w : Nat) : Issue :=
  if iFmt w ≠ some .bf16 then .fault KFault.instr
  else s.regs' d u fun x => x.setElems (iTd w) .bf16 fun r k =>
    let p := splitHiLo (x.elem (iTa w) .fp32 r (k % 32))
    if k < 32 then p.1 else p.2

/-- SPLIT (R136). -/
def execSplit (d : Fin 4) (vu : Fin 64) (s : State) : Host.Outcome State Fault Refusal :=
  .next (s.issue d.val vu.val 0x58 0x5F fun s _ w => s.split d.val vu.val w)

/-! Movement. -/

/-- TRANSPOSE (R136): element (r, c) from (c, r); a position that the view does not have there is free. -/
def State.transpose (s : State) (d u w : Nat) : Issue :=
  match iFmt w with
  | none => .fault KFault.instr
  | some f =>
    let e := viewWidth f
    let g := s.draw
    g.2.regs' d u fun x => x.setTile (iTd w) fun r => packElems e (tabulate (fun k =>
      if r < viewCols f ∧ k < 32 then bits (x.row (iTa w) k) (e * r) e else bits (freeRow g.1 r) (e * k) e) (viewCols f))

/-- TRANSPOSE (R136). -/
def execTranspose (d : Fin 4) (vu : Fin 64) (s : State) : Host.Outcome State Fault Refusal :=
  .next (s.issue d.val vu.val 0x60 0x67 fun s _ w => s.transpose d.val vu.val w)

/-- The position that a rotate by IMM reads for position `i` of `n`; the direction is free (log entry 12). -/
def rotated (w i n : Nat) : Nat :=
  ((if Config.rotateUp then (i : Int) - iImm w else (i : Int) + iImm w) % (n : Int)).toNat

/-- LANE_ROTATE (R136): the elements of every row. -/
def State.laneRotate (s : State) (d u w : Nat) : Issue :=
  match iFmt w with
  | none => .fault KFault.instr
  | some f =>
    let e := viewWidth f
    s.regs' d u fun x => x.setTile (iTd w) fun r =>
      packElems e (tabulate (fun k => bits (x.row (iTa w) r) (e * rotated w k (viewCols f)) e) (viewCols f))

/-- LANE_ROTATE (R136). -/
def execLaneRotate (d : Fin 4) (vu : Fin 64) (s : State) : Host.Outcome State Fault Refusal :=
  .next (s.issue d.val vu.val 0x60 0x67 fun s _ w => s.laneRotate d.val vu.val w)

/-- ROW_ROTATE (R136): the rows of the tile. -/
def State.rowRotate (s : State) (d u w : Nat) : Issue :=
  match iFmt w with
  | none => .fault KFault.instr
  | some _ => s.regs' d u fun x => x.setTile (iTd w) fun r => x.row (iTa w) (rotated w r 32)

/-- ROW_ROTATE (R136). -/
def execRowRotate (d : Fin 4) (vu : Fin 64) (s : State) : Host.Outcome State Fault Refusal :=
  .next (s.issue d.val vu.val 0x60 0x67 fun s _ w => s.rowRotate d.val vu.val w)

end Sys2Proof.Machine
end

