-- ==== Sys2Proof/Machine/Bundle.lean ====
section
/-! DEFINITION. The bundles (R296–R307), and the absence, reset and rejoin of a compute die (R308–R314, R537). The
readings are in log entries 27 and 28. -/

namespace Sys2Proof.Machine

/-! Bundles. -/

/-- Key of a bundle. -/
def bundleKey (d b : Nat) : Nat := 1024 * d + b

def State.bundle (s : State) (d b : Nat) : Bundle := Table.get (fun _ => {}) s.bundles (bundleKey d b)

def State.setBundle (s : State) (d b : Nat) (x : Bundle) : State :=
  { s with bundles := Table.set (fun _ => {}) s.bundles (bundleKey d b) x }

def d2dPage (d : Nat) : Nat := page d B.D2D

/-- The group of a bundle (R296). -/
def bundleGroup (b : Nat) : Nat :=
  if b < 26 then 2 else if b < 78 then 5 else if b < 512 then 0 else if b < 538 then 3 else if b < 564 then 4
  else if b < 616 then 6 else 1

/-- STATE of a lane-map entry (R321). -/
abbrev Lane.FULL : Nat := 0
abbrev Lane.DEGRADED : Nat := 1
abbrev Lane.FENCED : Nat := 2

def State.bundleState (s : State) (d b : Nat) : Nat := s.fld (d2dPage d) (R.LANE_MAP_STATE b)

/-- The CRC-16 of R299 over bits in the order sent. -/
def crc16 (l : List Bool) : Nat :=
  l.foldl (fun c b => (c * 2) % 65536 ^^^ (if (c / 32768 == 1) != b then 0x1021 else 0)) 0xFFFF

/-- The low `k` bits of a number, bit 0 first. -/
def bitList (k n : Nat) : List Bool := tabulate (bitOn n) k

/-- Whether a data frame passes both checks (R298, R299). -/
def frameIntact (f : BundleFrame) : Bool :=
  f.crcData.toNat == crc16 (bitList 4096 f.data.toNat)
    && f.crcStrobe.toNat == crc16 (bitList 32 (f.seq.toNat + 256 * f.itemStart.toNat))

/-- Whether a handshake frame passes its check. -/
def handIntact (f : HandshakeFrame) : Bool :=
  f.crc.toNat == crc16 (f.toggle :: (bitList 16 f.credits.toNat ++ bitList 8 f.ackSeq.toNat ++ [f.nak] ++ bitList 22 0))

/-- Whether a bundle carries traffic: its die is accepted (R309, R311), it is in service, and no retrain runs. -/
def State.bundleRuns (s : State) (d b : Nat) : Bool :=
  s.present d && s.bundleState d b != Lane.FENCED && !(s.bundle d b).retrain && !s.fatal

/-- Count an event on a die's D2D page and on the floor's, which counts over all dies (R322). -/
def State.countD2d (s : State) (d : Nat) (c : Fld) (k : Nat) : State := (s.count (d2dPage d) c k).count d2dFloor c k

/-- A data frame with the checks of its strobe (R298, R299). -/
def strobed (seq itemStart : BitVec 8) (data : BitVec 4096) (carries : Carried) : BundleFrame :=
  { carries := carries, seq := seq, itemStart := itemStart, data := data
    crcStrobe := BitVec.ofNat 16 (crc16 (bitList 32 (seq.toNat + 256 * itemStart.toNat)))
    crcData := BitVec.ofNat 16 (crc16 (bitList 4096 data.toNat)) }

/-- The handshake frame that the receiving end of a bundle sends next (R298, R300): TOGGLE inverted, its ACK_SEQ and NAK, and
the credits returned since the last. The first frame has no frame before it; its TOGGLE is 1 here (log entry 27). -/
def State.handshakeOf (s : State) (d b credits : Nat) : HandshakeFrame :=
  let x := s.bundle d b
  let ack := BitVec.ofNat 8 x.rxSeq
  let n := BitVec.ofNat 16 credits
  let toggle := !(x.toggle.getD false)
  { toggle := toggle, credits := n, ackSeq := ack, nak := x.nak
    crc := BitVec.ofNat 16 (crc16 (toggle :: (bitList 16 n.toNat ++ bitList 8 ack.toNat ++ [x.nak] ++ bitList 22 0))) }

/-! Streams and packets (R296, R297). -/

/-- The group that a bundle serves: its own, or the stream group that it was moved into (R306). -/
def State.groupNow (s : State) (d b : Nat) : Nat := s.fld (d2dPage d) (R.LANE_MAP_GROUP b)

/-- Where the floor takes the items of a stream that leaves a die: the group of another die, or a loop buffer, by the
operation's mode (R297). -/
inductive StreamEnd where
  | idle
  | staging
  | die (d : Nat)
  | loop (q : Nat)
deriving DecidableEq, Repr

/-- The far end of the stream of a group of a die (R297): ACT_OUT 2, ACT_IN 3, WGT_IN 4, PSUM_OUT 5, PSUM_IN 6. -/
def streamEnd (grand : Bool) (d group : Nat) : StreamEnd :=
  match grand, group with
  | true, 2 => if d % 2 = 0 then .die (d + 1) else .idle
  | true, 3 => if d % 2 = 0 then .staging else .die (d - 1)
  | _, 4 => .staging
  | true, 5 => if d < 2 then .die (d + 2) else .loop d
  | true, 6 => if d < 2 then .loop (d + 2) else .die (d - 2)
  | false, 3 => .staging
  | false, 5 => .loop d
  | false, 6 => .loop d
  | _, _ => .idle

/-- The far end of a stream now: that of the operation that runs on the die's array; idle while none does. -/
def State.streamNow (s : State) (d group : Nat) : StreamEnd :=
  match s.cmds.find? fun c => c.stage == .arrayRun && c.arrays.contains d with
  | some c => streamEnd (aryGrand c.desc) d group
  | none => .idle

/-- The items that wait at the floor for a stream that enters a die, by where they come from: partial sums of a die or its
loop buffer, or activations of a die; none where staging sends them. -/
def crossingOf (group : Nat) : StreamEnd → Option Nat
  | .die e => some (if group = 2 ∨ group = 3 then 8 + e else e)
  | .loop q => some q
  | _ => none

/-- Whether a bundle's group takes a new frame of what it carries: packets on a packet group only, a stream on a stream group
in use only (R296, R297). -/
def State.groupTakes (s : State) (d b : Nat) (f : BundleFrame) : Bool :=
  let g := s.groupNow d b
  match f.carries with
  | .idle => true
  | .packets => decide (g ≤ 1)
  | .stream => decide (1 < g) && s.streamNow d g != .idle

/-- Chunks of 512 bits of an item of a stream group: 640 FP32 partial sums, or 10,240 bits (R115, R299). -/
def itemChunks (g : Nat) : Nat := if g = 5 ∨ g = 6 then 40 else 20

/-- One chunk of a stream frame: it starts an item, goes on with the one in progress, or belongs to none. An item that is not
complete admits no start. -/
def streamChunk (size : Nat) (f : BundleFrame) (i : Nat) (r : (Nat × Nat) × List Nat) : Option ((Nat × Nat) × List Nat) :=
  let starts := bitOn f.itemStart.toNat i
  if r.1.1 = 0 ∧ starts = false then some r
  else if r.1.1 ≠ 0 ∧ starts = true then none
  else
    let v := r.1.2 + bits f.data.toNat (512 * i) 512 * 2 ^ (512 * r.1.1)
    if r.1.1 + 1 = size then some ((0, 0), r.2 ++ [v]) else some ((r.1.1 + 1, v), r.2)

/-- The items that a stream frame completes, and the one that it leaves in progress (R298, R299). -/
def streamItems (size : Nat) (f : BundleFrame) (p : Nat × Nat) : Option ((Nat × Nat) × List Nat) :=
  (List.range 8).foldl (fun r i => r.bind (streamChunk size f i)) (some (p, []))

/-- The stream item that a bundle is in the middle of. -/
def State.part (s : State) (d b : Nat) : Nat × Nat := Table.get (fun _ => (0, 0)) s.parts (bundleKey d b)

def State.setPart (s : State) (d b : Nat) (p : Nat × Nat) : State :=
  { s with parts := Table.set (fun _ => (0, 0)) s.parts (bundleKey d b) p }

/-- The stream items that wait at the floor for where they go. -/
def State.crossed (s : State) (k : Nat) : List Nat := Table.get (fun _ => []) s.crossing k

def State.setCrossed (s : State) (k : Nat) (l : List Nat) : State :=
  { s with crossing := Table.set (fun _ => []) s.crossing k l }

/-- Whether items, and the one in progress, are among those that wait, and what waits after them. -/
def passOn (waiting items : List Nat) (p : Nat × Nat) : Option (List Nat) :=
  match items with
  | v :: t => if waiting.contains v then passOn (waiting.erase v) t p else none
  | [] => if p.1 = 0 || waiting.any fun v => v % 2 ^ (512 * p.1) == p.2 then some waiting else none

/-- A frame that a bundle accepts passes the floor (R297): the items that arrive from a die wait there with all their bits, and
those that leave for one are of those that wait, bit for bit. None where no frame of the stream has these bits. -/
def State.relay (s : State) (d b : Nat) (f : BundleFrame) : Option State :=
  if f.carries ≠ .stream then some s
  else
    let g := s.groupNow d b
    match streamItems (itemChunks g) f (s.part d b) with
    | none => none
    | some (p, items) =>
      let s := s.setPart d b p
      if g = 2 then some (s.setCrossed (8 + d) (s.crossed (8 + d) ++ items))
      else if g = 5 then some (s.setCrossed d (s.crossed d ++ items))
      else match crossingOf g (s.streamNow d g) with
        | none => some s
        | some k => (passOn (s.crossed k) items p).map (s.setCrossed k)

/-- Where the frames that a bundle is to send again wait: a packet group of a die has one place, and a bundle of a stream group
its own (R305, R306). -/
def State.movedKey (s : State) (d b : Nat) : Nat := if s.groupNow d b ≤ 1 then 2 * d + b / 512 else 8 + bundleKey d b

/-- The die of such a place. -/
def movedDie (k : Nat) : Nat := if k < 8 then k / 2 else (k - 8) / 1024

/-- Frames that wait to be sent again (R305). -/
def State.movedOf (s : State) (k : Nat) : List Kept := Table.get (fun _ => []) s.moved k

def State.setMoved (s : State) (k : Nat) (l : List Kept) : State :=
  { s with moved := Table.set (fun _ => []) s.moved k l }

/-! Frames. -/

/-- The credits that the sending end of a bundle holds, and what a frame takes of them (R24). -/
def State.bundleCredit (s : State) (d b n : Nat) : Bool :=
  let x := s.bundle d b
  decide (n + x.spent ≤ x.credits) || decide (n + x.spent ≤ x.credits + Config.bundleEntries d b)

/-- The frames kept once a frame has been sent, or has shown its bits. -/
def keep (l : List Kept) (n : Nat) (f : Option BundleFrame) : List Kept :=
  if l.any fun k => k.seq == n then l.map fun k => if k.seq = n ∧ f.isSome then { k with frame := f } else k
  else l ++ [⟨n, f⟩]

/-- Whether two frames carry the same bits. -/
def sameBits (f g : BundleFrame) : Bool := f.carries == g.carries && f.itemStart == g.itemStart && f.data == g.data

/-- A frame at the receiving end: its SEQ, whether it is the next one sent rather than a resend, the frame that the sending end
is known to send there, and what is known of it once it has arrived. -/
structure Arriving where
  seq   : Nat
  new   : Bool
  held  : Option BundleFrame
  shown : Option BundleFrame
  /-- the items that it starts are seen for the first time -/
  first : Bool
deriving DecidableEq, Repr

/-- What a data frame is, by the view of the sending end. A new frame is the first of those that wait to be sent again, where
any does (R305). -/
def State.arriving (s : State) (d b : Nat) (f : BundleFrame) : Arriving :=
  let x := s.bundle d b
  let ok := frameIntact f
  let n := if ok then f.seq.toNat else x.next
  let new := (n + 255 - x.ack) % 256 == (x.sent + 256 - x.ack) % 256
  let kept := (x.kept.find? fun k => k.seq == n).bind Kept.frame
  let held := if new then ((s.movedOf (s.movedKey d b)).head?).bind Kept.frame else kept
  let shown := if ok then some f else held
  { seq := n, new := new, held := held, shown := shown, first := shown.isSome && (new || kept.isNone) }

/-- Whether a data frame can arrive: it is the next one sent or among the eight that may be unacknowledged, it has the bits
that its sender keeps, and items seen for the first time have their group and their credits (R24, R25, R300). -/
def State.canArrive (s : State) (d b : Nat) (f : BundleFrame) : Bool :=
  let x := s.bundle d b
  let a := s.arriving d b f
  let window := (x.sent + 256 - x.ack) % 256
  let place := (a.seq + 255 - x.ack) % 256
  decide (place ≤ window) && decide (place < 8)
    && (!frameIntact f || a.held.all (sameBits f))
    && (!a.first || a.shown.all fun g => s.groupTakes d b g && s.bundleCredit d b (onesOf g.itemStart.toNat))

/-- The sending end's view after a data frame, and the receiving end's where that one takes it (R300). -/
def Bundle.after (x : Bundle) (a : Arriving) (ok awaited : Bool) : Bundle :=
  let starts := (a.shown.map fun g => onesOf g.itemStart.toNat).getD 0
  let x := { x with
    sent := if a.new then a.seq else x.sent, next := (a.seq + 1) % 256, kept := keep x.kept a.seq a.shown
    spent := x.spent + (if a.first then starts else 0)
    fails := if awaited then (if ok || a.new then 0 else x.fails + 1) else x.fails }
  if !ok then { x with nak := true }
  else if awaited then { x with rxSeq := a.seq, nak := false, taken := x.taken + starts }
  else x

/-- A frame arrives at the receiving end (R299, R300). An idle frame carries nothing, takes the SEQ of the next data frame and
is not kept. The sender's view follows a data frame: it is the next one sent, for which it holds credits, or a resend with the
bits that it keeps. What no sender sends cannot arrive, and changes nothing. -/
def State.bundleData (s : State) (d b : Nat) (f : BundleFrame) : State :=
  if !s.bundleRuns d b then s
  else
    let x := s.bundle d b
    let ok := frameIntact f
    if f.carries = .idle then s.setBundle d b (if ok then x else { x with nak := true })
    else if !s.canArrive d b f then s
    else
      let a := s.arriving d b f
      let awaited := decide (a.seq = (x.rxSeq + 1) % 256)
      match if ok && awaited then s.relay d b f else some s with
      | none => s
      | some t =>
        let k := t.movedKey d b
        (t.when a.new fun t => t.setMoved k (t.movedOf k).tail).setBundle d b (x.after a ok awaited)

/-- BUNDLE_DATA_FRAME. -/
def execBundleDataFrame (d : Fin 4) (b : Fin 1024) (f : BundleFrame) (s : State) : Host.Outcome State Fault Refusal :=
  .next (s.bundleData d.val b.val f)

/-- The ring that holds a bundle's errors: the floor's for bundles from the floor, where it is the sending end, else the
die's (R496; log entry 27). -/
def bundleRing (d b : Nat) : Fin 5 := if b < 512 then Fin.ofNat 5 d else 4

/-- A handshake frame arrives at the sending end: credits, acknowledgement, and on NAK the frames kept are sent again
(R298, R300). Every frame inverts TOGGLE, one that fails CRC_HS too; one that does not, or that returns more credits than
entries have been taken (R24), cannot arrive. -/
def State.bundleHandshake (s : State) (d b : Nat) (f : HandshakeFrame) : State :=
  if !s.bundleRuns d b then s
  else
    let x := s.bundle d b
    if !handIntact f then (s.setBundle d b { x with toggle := x.toggle.map (!·) }).countD2d d C.D2D_HS_CRC_FAILS 1
    else if x.toggle = some f.toggle ∨ x.taken < x.credits + f.credits.toNat then s
    else
      let a := f.ackSeq.toNat
      let window := (x.sent + 256 - x.ack) % 256
      let ack := if (a + 256 - x.ack) % 256 ≤ window then a else x.ack
      let left := (x.sent + 256 - ack) % 256
      let x := { x with
        ack := ack, credits := x.credits + f.credits.toNat, toggle := some f.toggle
        kept := x.kept.filter fun k => decide ((x.sent + 256 - k.seq) % 256 < left) }
      if f.nak && left != 0 then
        ((s.setBundle d b { x with next := (ack + 1) % 256 }).countD2d d C.D2D_CRC_RESENDS left).report
          ⟨.linkRetried, bundleRing d b, B.D2D, 0, bundleKey d b, 0, 0⟩ {}
      else s.setBundle d b x

/-- BUNDLE_HANDSHAKE_FRAME. -/
def execBundleHandshakeFrame (d : Fin 4) (b : Fin 1024) (f : HandshakeFrame) (s : State) : Host.Outcome State Fault Refusal :=
  .next (s.bundleHandshake d b f)

/-! Lane maps. -/

/-- The counts of D2D_LINK_STS by direction: bundles that are DEGRADED or FENCED (R317). -/
def linkCount (b st : Nat) : Fld := ⟨0x100, 21 + (if b < 512 then 0 else 20) + (if st = Lane.FENCED then 10 else 0), 10⟩

/-- The number of BORROWED bundles (R317). -/
def linkBorrowed : Fld := ⟨0x100, 11, 10⟩

/-- Write the word of a lane-map entry; D2D_LINK_STS follows. -/
def State.setLane (s : State) (d b w : Nat) : State :=
  let pg := d2dPage d
  let a := pg + (R.LANE_MAP b).off
  let step (s : State) (f : Fld) (up : Bool) : State := s.put pg f (if up then s.fld pg f + 1 else s.fld pg f - 1)
  let tally (s : State) (w : Nat) (up : Bool) : State :=
    let st := bits w 62 2
    let s := if st = Lane.DEGRADED ∨ st = Lane.FENCED then step s (linkCount b st) up else s
    if bitOn w 60 then step s linkBorrowed up else s
  (tally (tally s (s.word a) false) w true).setWord a w

/-- The word of a lane-map entry. -/
def laneWord (st : Nat) (field borrowed : Bool) (group : Nat) (spares : List Nat) : Nat :=
  st * 2 ^ 62 + (if field then 2 ^ 61 else 0) + (if borrowed then 2 ^ 60 else 0) + group * 2 ^ 52
    + forUpto (fun i n => n + spares.getD i 0 * 2 ^ (7 * i)) 4 0

/-- The four SPARE fields of a lane-map entry. -/
def State.spares (s : State) (d b : Nat) : List Nat :=
  tabulate (fun i => bits (s.word (d2dPage d + (R.LANE_MAP b).off)) (7 * i) 7) 4

/-- The wires that pass, in increasing number. -/
def goodWires (failing : List Nat) : List Nat := (List.range 68).filter fun w => !failing.contains w

/-- The spares that stand for wires: the i-th wire takes the i-th spare. -/
def assign : List Nat → List Nat → List Nat → List Nat
  | old, w :: ws, p :: ps => assign (old.set (p - 64) (64 + w)) ws ps
  | old, _, _ => old

/-- The spares of a DEGRADED bundle: those among its 48 lowest good wires, with their logical wires (R303). -/
def degradedSpares (failing : List Nat) : List Nat :=
  tabulate (fun i => match findPos (fun w => w == 64 + i) ((goodWires failing).take 48) 0 with
    | some (l, _) => 64 + l
    | none => 0) 4

/-- State and spares of a bundle after the test of a start (R302). -/
def startLane (t : BundleTest) : Nat × List Nat :=
  let failing := t.failing.map Fin.val
  let good := goodWires failing
  let bad := (List.range 64).filter failing.contains
  let free := [64, 65, 66, 67].filter fun w => !failing.contains w
  if t.ctlFails || decide (good.length < 48) then (Lane.FENCED, [0, 0, 0, 0])
  else if free.length < bad.length then (Lane.DEGRADED, degradedSpares failing)
  else (Lane.FULL, assign [0, 0, 0, 0] bad free)

/-- Whether a bundle serves its packet group: in service and not moved. -/
def State.packetBundle (s : State) (d b : Nat) : Bool :=
  bundleGroup b ≤ 1 && s.bundleState d b != Lane.FENCED && !s.on (d2dPage d) (R.LANE_MAP_BORROWED b)

/-- The packet bundles in service of a direction: 0 out, 1 in (R307). -/
def State.packetCount (s : State) (d dir : Nat) : Nat :=
  ((List.range 512).filter fun i => s.packetBundle d (512 * dir + i)).length

/-- A lane-map entry takes a word in the field, with the interrupt of both pages where STATE, FIELD or BORROWED changes
(R628). -/
def State.laneTo (s : State) (d b w : Nat) : State :=
  let old := s.word (d2dPage d + (R.LANE_MAP b).off)
  let s := s.setLane d b w
  if bits old 60 4 = bits w 60 4 then s else (s.intSet (d2dPage d) 0).intSet d2dFloor 0

/-- The record of a change of a bundle in the field (R304, R499, R501). `flags` are those of R509 and R510. -/
def State.bundleRecord (s : State) (d b : Nat) (flags : ErrFlags := {}) : State :=
  let st := s.bundleState d b
  s.report ⟨.bundleChanged, bundleRing d b, B.D2D, 0, bundleKey d b, 0, st⟩ { flags with fenced := st == Lane.FENCED }

/-- The frames of a bundle in flight, those kept after the newest accepted, wait to be sent again; the bundle itself goes on
after the newest accepted, with the credits that they had taken (R305, R306). -/
def State.moveTraffic (s : State) (d b : Nat) : State :=
  let x := s.bundle d b
  let k := s.movedKey d b
  let after := x.kept.filter fun f => decide ((x.sent + 256 - f.seq) % 256 < (x.sent + 256 - x.rxSeq) % 256)
  let starts := after.foldl (fun n f => n + (f.frame.map fun g => onesOf g.itemStart.toNat).getD 0) 0
  (s.setMoved k (after ++ s.movedOf k)).setBundle d b { x with
    kept := [], sent := x.rxSeq, ack := x.rxSeq, next := (x.rxSeq + 1) % 256, nak := false, spent := x.spent - starts }

/-- The floor moves the highest FULL packet bundle of the direction into the place of a fenced stream bundle: it takes over the
item in progress and the frames to be sent again (R306). Where no packet bundle is FULL they wait (log entry 27). -/
def State.borrow (s : State) (d b : Nat) (field : Bool) : State :=
  let g := s.groupNow d b
  if g ≤ 1 then s
  else
    let dir := b / 512
    match ((List.range 512).map fun i => 512 * dir + 511 - i).find? fun x =>
        s.packetBundle d x && s.bundleState d x == Lane.FULL with
    | none => s
    | some x =>
      let w := s.word (d2dPage d + (R.LANE_MAP x).off)
      let s := ((s.moveTraffic d x).laneTo d x (setBits (setBits w 60 1 1) 52 4 g)).countD2d d C.D2D_BORROWS 1
      let k := 8 + bundleKey d b
      let s := ((s.setMoved (8 + bundleKey d x) (s.movedOf k)).setMoved k []).setPart d x (s.part d b)
      let s := s.setPart d b (0, 0)
      if field then s.bundleRecord d x else s

/-- The ends of a die's bundles start afresh: what they held is discarded. -/
def State.dropBundles (s : State) (d : Nat) : State :=
  { s with
    bundles := s.bundles.filter fun e => e.1 / 1024 != d
    moved := s.moved.filter fun e => movedDie e.1 != d
    parts := s.parts.filter fun e => e.1 / 1024 != d }

/-- The lane maps of a die after the bundle tests of a start or a rejoin (R302); a bundle without a test passes. -/
def State.trainBundles (s : State) (d : Nat) (tests : List BundleTest) : State :=
  let s := s.dropBundles d
  let s := s.each (List.range 1024) fun s b =>
    s.setLane d b (laneWord Lane.FULL false false (bundleGroup b) [0, 0, 0, 0])
  let s := s.each tests fun s t =>
    let b := t.bundle.val
    let r := startLane t
    (s.setLane d b (laneWord r.1 false false (bundleGroup b) r.2)).setBundle d b { failing := t.failing.map Fin.val }
  let s := s.each ((List.range 1024).filter fun b => s.bundleState d b == Lane.FENCED) fun s b => s.borrow d b false
  -- an entry that is not as at reset has changed (R628)
  if (List.range 1024).any fun b => bits (s.word (d2dPage d + (R.LANE_MAP b).off)) 60 4 != 0 then
    (s.intSet (d2dPage d) 0).intSet d2dFloor 0
  else s

/-- Whether the training of a die fails (R307). -/
def State.bundlesFail (s : State) (d : Nat) : Bool := s.packetCount d 0 < 64 || s.packetCount d 1 < 64

/-- A bundle changes in the field: its entry with FIELD, its counter and its record; the traffic of a fenced one moves, or it
is replaced in a stream group (R304–R306). -/
def State.bundleTo (s : State) (d b st : Nat) (spares : List Nat) (mapped : Nat) (flags : ErrFlags := {}) : State :=
  let pg := d2dPage d
  let s := s.laneTo d b (laneWord st true (s.on pg (R.LANE_MAP_BORROWED b)) (s.fld pg (R.LANE_MAP_GROUP b)) spares)
  let s := s.countD2d d C.D2D_FIELD_SPARES mapped
  let s := if st = Lane.DEGRADED then s.countD2d d C.D2D_DEGRADES 1
    else if st = Lane.FENCED then s.countD2d d C.D2D_FENCES 1 else s
  let s := s.bundleRecord d b flags
  if st = Lane.FULL then s
  else
    let s := s.degrade pg
    if st = Lane.FENCED then (s.moveTraffic d b).borrow d b true else s

/-- What a retrain finds (R304): nothing new, or the new state, spares and number of spares mapped. -/
def State.retrainFound (s : State) (d b : Nat) (t : BundleTest) : Option (Nat × List Nat × Nat) :=
  let old := (s.bundle d b).failing
  let spares := s.spares d b
  let failing := t.failing.map Fin.val
  let fenced : Option (Nat × List Nat × Nat) := some (Lane.FENCED, [0, 0, 0, 0], 0)
  if t.ctlFails then fenced
  else if s.bundleState d b = Lane.DEGRADED then
    (if ((goodWires old).take 48).any failing.contains then fenced else none)
  else
    -- logical wires served by a spare, and those whose wire fails now
    let served (l : Nat) : Option Nat := (findPos (fun x => x == 64 + l) spares 64).map Prod.fst
    let need := (List.range 64).filter fun l => match served l with
      | some p => failing.contains p
      | none => failing.contains l
    let free := [64, 65, 66, 67].filter fun p => spares.getD (p - 64) 0 == 0 && !failing.contains p
    let cleared := tabulate (fun i => if failing.contains (64 + i) then 0 else spares.getD i 0) 4
    if need.isEmpty then none
    else if need.length ≤ free.length then some (Lane.FULL, assign cleared need free, need.length)
    else if 48 ≤ (goodWires failing).length then some (Lane.DEGRADED, degradedSpares failing, 0)
    else fenced

/-- The action of a bundle's retrain, which the retrain belongs to (R508). -/
def retrainOf (d b : Nat) (e : ErrEvent) : Bool := e.kind == .bundleChanged && e.index == bundleKey d b

/-- The retrain of a bundle is over: its window closes and its action ends (R502, R508). -/
def State.retrainOver (s : State) (d b : Nat) : State :=
  (s.winClose (winKey 8 4 (bundleKey d b))).actionEnd (bundleRing d b).val (retrainOf d b)

/-- BUNDLE_RETRAIN_DONE, once the action of the retrain runs: traffic resumes with the frame after ACK_SEQ (R301, R304). -/
def State.retrainDone (s : State) (d : Nat) (t : BundleTest) : State :=
  let b := t.bundle.val
  let x := s.bundle d b
  let runs := (s.acts (bundleRing d b).val).running.any fun a => retrainOf d b a.event
  if !(x.retrain && runs && s.present d && !s.fatal) then s
  else
    let r := s.retrainFound d b t
    let failing := if r.isNone && s.bundleState d b == Lane.DEGRADED then x.failing else t.failing.map Fin.val
    let s := (s.setBundle d b { x with retrain := false, failing := failing, next := (x.ack + 1) % 256 }).retrainOver d b
    match r with
    | none => s
    | some (st, spares, n) => s.bundleTo d b st spares n

/-- BUNDLE_RETRAIN_DONE. -/
def execBundleRetrainDone (d : Fin 4) (t : BundleTest) (s : State) : Host.Outcome State Fault Refusal :=
  .next (s.retrainDone d.val t)

/-- A fault in the retrain of a bundle fences it (R509), as an overflow of the action queue does (R510). -/
def State.bundleFence (s : State) (d b : Nat) (second : Bool) : State :=
  if s.bundleState d b = Lane.FENCED then s
  else
    let s := (s.setBundle d b { s.bundle d b with retrain := false }).retrainOver d b
    let s : State := if second then { s with secondFences := setInsert (d2dPage d) s.secondFences } else s
    s.bundleTo d b Lane.FENCED [0, 0, 0, 0] 0 { second := second }

/-! The state of a die (R313, R318). -/

/-- States of D2D_DIE_CTL. -/
abbrev Die.PRESENT : Nat := 0
abbrev Die.ABSENT : Nat := 1
abbrev Die.RESET : Nat := 2
abbrev Die.TRAINING : Nat := 3
abbrev Die.SELFTEST : Nat := 4
abbrev Die.FAILED : Nat := 5

/-- STATE changes (R628). -/
def State.dieTo (s : State) (d st : Nat) : State :=
  if s.dieState d = st then s else (s.put d2dFloor (R.D2D_DIE_CTL_STATE d) st).intSet d2dFloor 1

/-- The work that an absent die leaves on the floor ends without signal or completion, its destinations undefined (R310). -/
def State.stopFloorWork (s : State) (c : Cmd) : State :=
  let s := match s.bracketOf c.die c.queue with
    | some b => if c.stage == Stage.close then s.caddStop c.id b.words else s
    | none => s
  let s : State := { s with heldWrites := s.heldWrites.filter fun w => w.owner != some c.id }
  let s := if c.stage == .moving then
      s.each (moveSegs c.words) fun s g => s.undefine g.dst (g.len)
    else if c.stage == .collRun then s.each (s.collDst c) fun s r => s.undefine r.1 r.2
    else s
  (s.dropCmd c).drainHeld

/-- Claims of commands that are gone leave the floor (R111). -/
def State.dropClaims (s : State) (gone : List Cmd) : State :=
  let t : State := { s with
    claims := s.claims.filter fun id => gone.all fun c => c.id != id
    granted := s.granted.filter fun id => gone.all fun c => c.id != id }
  t.each [0, 1, 2, 3] fun u d => u.flag (page d B.ARY) R.ARY_MODE_GRAND_PENDING (!t.claims.isEmpty)

/-- Whether a command of a die runs on the floor (R310): moves, collectives, SYNC_REMOTE, figure changes, poses, and the close
of a bracket whose commit-add list runs. -/
def State.onFloor (s : State) (c : Cmd) : Bool :=
  c.stage == .moving || c.stage == .collHeld || c.stage == .collRun || c.stage == .syncRemote
    || c.stage == .figure || c.stage == .pose
    || (c.stage == .close && (s.bracketOf c.die c.queue).any Bracket.adding)

/-- Whether a command of a die is a quad operation at the array of another die, where it goes on (R310). -/
def onOtherArray (c : Cmd) : Bool :=
  (c.stage == .arrayWait || c.stage == .arrayRun) && !aryGrand c.desc && aryDie c.desc != c.die

/-- The retrains of a die's bundles end with its traffic: their windows close, and their actions leave the floor's queue
(R309, R502). -/
def State.dropRetrains (s : State) (d : Nat) : State :=
  let mine (a : Action) : Bool := a.event.kind == .bundleChanged && a.event.index / 1024 == d
  let q := s.acts 4
  let s : State := { s with windows := s.windows.filter fun w => !(w.1 == 8 && w.2 % 65536 / 1024 == d) }
  s.setActs 4 { waiting := q.waiting.filter fun a => !mine a, running := q.running.filter fun a => !mine a }

/-- The floor declares a die absent (R309, steps 1 and 2, in one command: log entry 28): it accepts nothing more from it, so
what the die itself runs has no further effect, and a running grand operation ends with DIE_ABSENT (R114). -/
def State.declareAbsent (s : State) (d cause : Nat) : State :=
  let s := s.dieTo d Die.ABSENT
  let s := (s.put d2dFloor (R.D2D_DIE_CTL_CAUSE d) cause).count d2dFloor C.D2D_DIE_ABSENT_EVENTS 1
  let s := s.winOpen (winKey 5 4 d)
  let grand (c : Cmd) : Bool := c.stage == .arrayRun && c.arrays.contains d && decide (1 < c.arrays.length)
  let own := s.cmds.filter fun c => c.die == d && !s.onFloor c && !onOtherArray c && !grand c
  let s := s.each (own.filter fun c => c.stage == .arrayRun) State.arrayRelease
  let s := ((s.each own State.dropCmd).dropClaims own).dropRetrains d
  let cmds := mapIf grand (fun c => { c with error := some (Err.DIE_ABSENT, d) }) s.cmds
  let cmds := mapIf (fun c => c.die == d && onOtherArray c) (fun c => { c with orphan := true }) cmds
  let s : State := { s with cmds := cmds }
  { s with
    absentDue := setInsert d s.absentDue
    tokens := s.tokens.filter fun t => t.1 != d
    cplWait := s.cplWait.filter fun x => x.queue / 64 != d }

/-- The logic of a die resets: everything that it holds goes (R33, R314, R502, R512). The throttle's steps are the floor's
(R645). -/
def State.clearDie (s : State) (d : Nat) : State :=
  let s := s.rebase (d2dPage d + C.D2D_CRC_RESENDS.off) 0
  let mine (p : Nat) : Bool := p / 0x1000000 == d
  let s : State := { s with
    regs := s.regs.filter fun e => !mine e.1
    heldWrites := s.heldWrites.map fun w => { w with cpl := w.cpl.filter fun x => x.1 / 64 != d }
    chosen := s.chosen.filter fun e => e.1 / 8 != d
    cells := s.cells.filter fun e => e.1 / 16384 != d
    queues := s.queues.filter fun e => e.1 / 64 != d
    jobs := s.jobs.filter fun e => e.1 / 2 != d
    units := s.units.filter fun e => e.1 / 64 != d
    samplers := s.samplers.filter fun e => e.1 != d
    thermal := { s.thermal with hot := s.thermal.hot.filter fun k => !(decide (64 ≤ k) && k % 8 == d) }
    markerSeq := s.markerSeq.filter fun e => e.1 != d
    actions := s.actions.filter fun e => e.1 != d
    spareDue := s.spareDue.filter fun x => x.1 != d
    badSpares := s.badSpares.filter fun n => n / 16 != d
    crossing := s.crossing.filter fun e => e.1 % 8 != d
    hwFences := s.hwFences.filter fun p => !mine p
    secondFences := s.secondFences.filter fun p => !mine p
    degraded := s.degraded.filter fun p => !mine p
    windows := s.windows.filter fun w => w.1 == 5 || w.2 / 65536 != d }
  s.dropBundles d

/-- A die enters RESET (R313). -/
def State.enterReset (s : State) (d : Nat) : State :=
  ((s.clearDie d).dieTo d Die.RESET).endStorm.each [0, 1, 2, 3] State.resumeMaybe

/-- Absence ends at step 4 of R309; a reset that waited begins (R313). -/
def State.resetMaybe (s : State) (d : Nat) : State :=
  if s.on d2dFloor (R.D2D_DIE_CTL_RESET_REQ d) && !s.absentDue.contains d then s.enterReset d else s

/-- The present dies and the floor learn of an absence: its cause in both contexts (R197, R309). That of the floor counts
for the step whose gate word has not formed (R198); log entry 45. -/
def State.causeAbsent (s : State) : State :=
  let s := s.each s.presentDies fun s d => s.each [0, 1] fun s ctx => s.setCause d ctx causeBit.dieAbsent
  s.each [0, 1] fun s ctx =>
    let cause : Nat := Table.get (fun _ => 0) s.floorCause ctx ||| (if (s.gate ctx).word.isSome then 2 else 1)
    { s with floorCause := Table.set (fun _ => 0) s.floorCause ctx cause }

/-- The effects of R310, and step 4 of R309. -/
def State.learn (s : State) (d : Nat) : State :=
  let s : State := { s with absentDue := setErase d s.absentDue }
  let s := s.refreshGrand
  -- stream items in flight to or from the die
  let s : State := { s with crossing := s.crossing.filter fun e => e.1 % 8 != d }
  let s := s.dropBundles d
  -- running grand operations, and those that the die itself dispatched
  let grand := s.cmds.filter fun c => c.stage == .arrayRun && c.arrays.contains d
  -- what the die made of its open brackets, and the failed checks of their lists (R187, R192)
  let groups := s.groups.map fun g =>
    match s.memberOf g d with
    | some b => { g with lost := g.lost ++ [(d, b, s.caddError d g.ctx b.words)] }
    | none => g
  let s : State := { s with groups := groups }
  let s := s.each grand fun s c =>
    let s := (s.arrayRelease c).aryUndefined c
    if c.die = d then s.dropCmd c
    else
      let counter := if aryGrand c.desc then C.ARY_OPS_GRAND else C.ARY_OPS_QUAD
      (if s.present (aryLed c) then s.count (page (aryLed c) B.ARY) counter 1 else s).fail c Err.DIE_ABSENT d
  let s := s.each (s.cmds.filter fun c => c.die == d && !c.orphan) State.stopFloorWork
  -- waits on the die's cells, and waits of its queues
  let s : State := { s with
    queues := (s.waits.filter fun w => w.cell / 16384 == d).foldl (fun q w =>
      Table.set (fun _ => {}) q w.queue { Table.get (fun _ => {}) q w.queue with wait := WaitSt.absent }) s.queues
    waits := s.waits.filter fun w => w.cell / 16384 != d && w.queue / 64 != d }
  -- brackets with the die as member
  let s : State := { s with
    groups := s.groups.map fun g => if (openDies g.words).contains d then { g with gone := setInsert d g.gone } else g
    jobs := s.jobs.filter fun e => e.1 / 2 != d }
  let s := s.each s.groups fun s g => if (s.members g).any fun x => x.2.adding then s.commitMaybe g
    else if (s.members g).isEmpty && (openDies g.words).all g.gone.contains then
      (s.moveSlots g C.ARY_SLOT_WASTED_REPLAY).endGroup g else s
  let s := s.each (s.cmds.filter fun c => c.stage == .pose) fun s c => s.fail c Err.DIE_ABSENT d
  let s := s.causeAbsent
  let s := s.capPut 4 R.CAP_FLOOR_UNITS_DIE_OK (s.fld (page 4 B.CAP) R.CAP_FLOOR_UNITS_DIE_OK &&& (15 - 2 ^ d))
  let s := s.report ⟨.dieAbsent, 4, B.D2D, 0, d, 0, s.fld d2dFloor (R.D2D_DIE_CTL_CAUSE d)⟩ {}
  let s := s.actionEnd 4 fun e => e.kind == .dieAbsent && e.index == d
  (((s.gateSettle 0).gateSettle 1).clxNext).resetMaybe d

/-- ABSENCE_LEARNED (R309, steps 3 and 4). -/
def execAbsenceLearned (d : Fin 4) (s : State) : Host.Outcome State Fault Refusal :=
  .next (if s.absentDue.contains d.val && !s.fatal then s.learn d.val else s)

/-- A compute die declares the floor lost: its callers halt, and its array and vector units stop where they stand (R312). -/
def State.loseFloor (s : State) (d : Nat) : State :=
  (s.each (List.range 8) fun s c => s.halt d c).put (d2dPage d) R.D2D_LINK_STS_FLOOR_LOST 1

/-- FLOOR_LOST. -/
def execFloorLost (d : Fin 4) (s : State) : Host.Outcome State Fault Refusal :=
  .next (if s.present d.val && !s.floorLost d.val then s.loseFloor d.val else s)

/-- RESET_REQ is written 1 (R313). -/
def State.resetRequest (s : State) (d : Nat) : State :=
  let st := s.dieState d
  if st = Die.PRESENT ∨ st = Die.ABSENT ∨ st = Die.FAILED then
    let s := s.put d2dFloor (R.D2D_DIE_CTL_RESET_REQ d) 1
    (if st = Die.PRESENT then s.declareAbsent d 3 else s).resetMaybe d
  else s

/-- DIE_RESET_HOLD_END (R313, row 1). -/
def execDieResetHoldEnd (d : Fin 4) (s : State) : Host.Outcome State Fault Refusal :=
  .next (if s.dieState d.val == Die.RESET && s.on d2dFloor (R.D2D_DIE_CTL_RESET_REQ d.val) && !s.fatal then
    (s.dieTo d.val Die.TRAINING).put d2dFloor (R.D2D_DIE_CTL_RESET_REQ d.val) 0 else s)

/-- A die fails and stays isolated (R311, R313, R509). -/
def State.dieFailed (s : State) (d : Nat) (second : Bool) : State :=
  (((s.dieTo d Die.FAILED).winClose (winKey 5 4 d)).report ⟨.dieFailed, 4, B.D2D, 0, d, 0, 0⟩ { second := second })

/-- The rejoin of a die: its bundles train (R302, R313, row 2). -/
def State.dieTrained (s : State) (d : Nat) (tests : List BundleTest) : State :=
  if s.dieState d ≠ Die.TRAINING ∨ s.started = false ∨ s.fatal = true then s
  else
    let s := s.trainBundles d tests
    if s.bundlesFail d then s.dieFailed d false else s.dieTo d Die.SELFTEST

/-- DIE_TRAINING_DONE. -/
def execDieTrainingDone (d : Fin 4) (tests : List BundleTest) (s : State) : Host.Outcome State Fault Refusal :=
  .next (s.dieTrained d.val tests)

/-! The test of a die (R117, R537, R538). -/

/-- A cover of failing cells by at most `r` rows and `k` columns: each cell in turn takes a row where that succeeds, else a
column (R117 asks for some cover; log entry 28). -/
def cover : List (Nat × Nat) → Nat → Nat → List Nat → List Nat → Option (List Nat × List Nat)
  | [], _, _, rows, cols => some (rows, cols)
  | (i, j) :: t, r, k, rows, cols =>
    if rows.contains i || cols.contains j then cover t r k rows cols
    else
      let byRow := if 0 < r then cover t (r - 1) k (rows ++ [i]) cols else none
      match byRow with
      | some x => some x
      | none => if 0 < k then cover t r (k - 1) rows (cols ++ [j]) else none

/-- The same after the rows and columns that every cover holds: those with more failing cells than the other kind has
spares. -/
def spareCover (cells : List (Nat × Nat)) (r k : Nat) : Option (List Nat × List Nat) :=
  let l := cells.eraseDups
  let rows := ((l.map Prod.fst).filter fun i => decide (k < (l.filter fun c => c.1 == i).length)).foldl (fun m i => setInsert i m) []
  let cols := ((l.map Prod.snd).filter fun j => decide (r < (l.filter fun c => c.2 == j).length)).foldl (fun m j => setInsert j m) []
  if r < rows.length ∨ k < cols.length then none else cover l (r - rows.length) (k - cols.length) rows cols

/-- The tests of a die together: a unit fails when any of them finds it failing. -/
def joinTest (a b : DieTest) : DieTest where
  cells := a.cells ++ b.cells
  badRows := a.badRows ++ b.badRows
  badCols := a.badCols ++ b.badCols
  arrayScan := a.arrayScan || b.arrayScan
  units := a.units ++ b.units
  dieFails := a.dieFails || b.dieFails

/-- What a test result says of a die. -/
def testOf (r : TestResult) (d : Nat) : DieTest :=
  (r.dies.filter fun x => x.1.val == d).foldl (fun t x => joinTest t x.2) {}

/-- What the record in force marks failing on a die by its logic scans: those stay unusable without a retest (R529, R537). -/
def State.recordDie (s : State) (d : Nat) : DieTest :=
  match s.inForce with
  | some r => { units := (testOf r.found d).units, arrayScan := (testOf r.found d).arrayScan, dieFails := (testOf r.found d).dieFails }
  | none => {}

/-- ARY selects its spares and a die's units become usable as its test found them (R117, R119, R167, R538). -/
def State.applyDieTest (s : State) (d : Nat) (t : DieTest) : State :=
  let pg := page d B.ARY
  let rows := (List.range 8).filter fun n => !(t.badRows.any fun x => x.val == n)
  let cols := (List.range 8).filter fun n => !(t.badCols.any fun x => x.val == n)
  let found := spareCover (t.cells.map fun x => (x.1.val, x.2.val)) rows.length cols.length
  let bad := ((List.range 8).filter fun n => !rows.contains n) ++ ((List.range 8).filter fun n => !cols.contains n).map (8 + ·)
  let s : State := { s with badSpares := (s.badSpares.filter fun n => n / 16 != d) ++ bad.map (16 * d + ·) }
  let s := s.each (List.range 16) fun s n => s.setWord (pg + (R.SPARE_TABLE_VALID n).off) 0
  let map (s : State) (slots lines : List Nat) (base : Nat) : State :=
    forUpto (fun i s => s.setWord (pg + (R.SPARE_TABLE_VALID (base + slots.getD i 0)).off) (2 ^ 63 + lines.getD i 0)) lines.length s
  let s := match found with
    | some (r, c) => map (map s rows r 0) cols c 8
    | none => s
  let usable := found.isSome && !t.arrayScan && !s.fencedWbf.contains d
  let s := (s.spareCounts d).flag pg R.ARY_MODE_ARRAY_USABLE usable
  let units := (List.range 64).foldl (fun m u => if t.units.any fun x => x.val == u then m else m + 2 ^ u) 0
  let s := s.put (page d B.VEC) R.VEC_UNIT_USABLE_USABLE units
  let s : State := if usable then s else { s with hwFences := setInsert pg s.hwFences }
  s.capDie d

/-! The throttle's step of a die (R645). -/

/-- The last reading of a sensor, 0 before its first. -/
def State.reading (s : State) (k : Nat) : Nat := Table.get (fun _ => 0) s.thermal.reading k

/-- Steps below 1,200 MHz that a trigger asks for: of a die, or of the draw (4). -/
def State.steps (s : State) (d : Nat) : Nat := Table.get (fun _ => 0) s.thermal.steps d

/-- The frequency of a step. -/
def stepMhz (n : Nat) : Nat := [1200, 1050, 900, 750, 600].getD n 600

/-- CAP_ISLAND of a compute die's array and vector islands follows the lowest step asked for (R630, R645). -/
def State.showStep (s : State) (d : Nat) : State :=
  let n := max (s.steps d) (s.steps 4)
  s.each [0, 1] fun s i =>
    s.setWord (page d B.CAP + 0x2000 + 8 * i) (2 ^ 63 + (if n = 0 then 0 else 2 ^ 62) + 1200 * 65536 + stepMhz n)

/-- The step of a die as it becomes present: the triggers that hold on all four dies hold on it, and T2 (R645). -/
def State.stepsBegin (s : State) (d : Nat) : State :=
  let low := s.thermal.stack || s.thermal.reading.any fun e => decide (64 ≤ e.1) && e.1 % 8 == d && decide (100 ≤ e.2)
  let steps := Table.set (fun _ => 0) s.thermal.steps d (if low then 4 else s.steps d)
  ({ s with thermal := { s.thermal with steps := steps } } : State).showStep d

/-- The end of the quick self-test: the die rejoins, its ACC undefined, or fails (R313, R314, R537). -/
def State.dieTested (s : State) (d : Nat) (t : DieTest) : State :=
  if s.dieState d ≠ Die.SELFTEST ∨ s.fatal = true then s
  else if t.dieFails || (s.recordDie d).dieFails then s.dieFailed d false
  else
    let s := (s.lost [4 + d]).applyDieTest d (joinTest t (s.recordDie d))
    let s := (s.dieTo d Die.PRESENT).count d2dFloor C.D2D_REJOINS 1
    let s := (s.winClose (winKey 5 4 d)).capPut 4 R.CAP_FLOOR_UNITS_DIE_OK
      (s.fld (page 4 B.CAP) R.CAP_FLOOR_UNITS_DIE_OK ||| 2 ^ d)
    let s := forUpto (fun i s => if pageExists d i then s.put (page d i) R.STS_READY 1 else s) 16 s
    let s := s.put (page d B.ERR) R.ERR_STS_STORM_PKG (s.fld (page 4 B.ERR) R.ERR_STS_STORM_PKG)
    -- a claim that still waits shows on every compute die (R111)
    ((s.flag (page d B.ARY) R.ARY_MODE_GRAND_PENDING (!s.claims.isEmpty)).stepsBegin d).refreshGrand

/-- DIE_SELFTEST_DONE. -/
def execDieSelftestDone (d : Fin 4) (t : DieTest) (s : State) : Host.Outcome State Fault Refusal :=
  .next (s.dieTested d.val t)

end Sys2Proof.Machine
end

