-- ==== Sys2Proof/Machine/Errors.lean ====
section
/-! DEFINITION. Errors and containment (R229, R493–R512): what a detection does at once, the action queues, fences and
recovery windows; and the retirement of DRAM pages with the patrol scrub (R230–R234). Log entry 29 has the readings. -/

namespace Sys2Proof.Machine

def mctPage (n : Nat) : Nat := page 4 (B.MCT + n)

/-! Fences of DRAM (R503, R504). -/

/-- The pseudo-channel table entry of a stack (R545). -/
def pchField (n : Nat) : Fld := ⟨0x1000 + 8 * n, 0, 64⟩

/-- The pseudo-channels of a stack that are fenced, as a mask. -/
def State.pchMask (s : State) (n : Nat) : Nat :=
  (List.range 64).foldl (fun m p => if s.fencedPch.contains (64 * n + p) then m + 2 ^ p else m) 0

/-- The capability record follows the fences of a stack. -/
def State.capStack (s : State) (n : Nat) : State :=
  (s.capPut 4 (pchField n) (s.pchMask n)).capPut 4 R.CAP_FLOOR_UNITS_DRAM_OK (if s.fencedPch.isEmpty then 1 else 0)

/-- A stack is fenced: all its pseudo-channels take no access (R503), and its windows and theirs close. -/
def State.fenceStack (s : State) (n : Nat) (second : Bool) : State :=
  let pg := mctPage n
  if s.hwFences.contains pg then s
  else
    let s := s.hwFence pg second
    let s : State := { s with fencedPch := (List.range 64).foldl (fun l p => setInsert (64 * n + p) l) s.fencedPch }
    let ok := s.fld (page 4 B.CAP) R.CAP_FLOOR_UNITS_STACK_OK
    let s := (s.capStack n).capPut 4 R.CAP_FLOOR_UNITS_STACK_OK (ok - (ok &&& 2 ^ n))
    let s : State := { s with
      windows := s.windows.filter fun w => !((w.1 == 6 && w.2 % 65536 / 64 == n) || w == winKey 7 4 n) }
    ((s.intSet pg 2).report ⟨.stackFenced, 4, B.MCT + n, n, n, 0, 0⟩ { fenced := true, second := second }).banksLost

/-- A pseudo-channel is fenced (R503, R509), and its window closes; more than four fence their stack (R502). -/
def State.fencePch (s : State) (p : Nat) (second : Bool) : State :=
  if s.fencedPch.contains p then s
  else
    let n := p / 64
    let pg := mctPage n
    let s : State := { s.winClose (winKey 6 4 p) with fencedPch := setInsert p s.fencedPch }
    let s := if second then { s with secondFences := setInsert pg s.secondFences } else s
    let s := ((s.capStack n).degrade pg).intSet pg 2
    let s := s.report ⟨.pchFenced, 4, B.MCT + n, n, p, 0, 0⟩ { fenced := true, second := second }
    if 4 < onesOf (s.pchMask n) then s.fenceStack n second else s.banksLost

/-! Retirement of DRAM pages (R231–R234). -/

/-- The entry of the retire table that retires a page, and the lowest free one that no request of host software names. -/
def State.retireEntry (s : State) (p : Nat) : Option Nat :=
  (List.range 1024).find? fun n => s.on (mctPage 0) (R.RETIRE_TABLE_VALID n) && s.fld (mctPage 0) (R.RETIRE_TABLE_FAULT_PAGE n) == p

def State.retireFree (s : State) : Option Nat :=
  (List.range 1024).find? fun n =>
    !s.on (mctPage 0) (R.RETIRE_TABLE_VALID n) && !s.retireDue.any fun x => x.host == some n

/-- The retirement of a page is over: the action that it belongs to ends, with the window of the pseudo-channel whose error
made the page due, as found at its detection (R502, R508). -/
def State.retireSettled (s : State) (page : Nat) : State :=
  match (s.acts 4).running with
  | some a =>
    if a.event.kind == .memUe && a.event.address / pageBytes == page then
      (s.winClose (winKey 6 4 a.event.index)).setActs 4 { s.acts 4 with running := none }
    else s
  | none => s

/-- A due page stays in service (R233). -/
def State.retireDenied (s : State) (r : RetireReq) : State :=
  let s := (s.count (mctPage r.stack) C.MCT_RETIRE_DENIED 1).intSet (mctPage r.stack) 1
  (s.report ⟨.retireDenied, 4, B.MCT + r.stack, r.stack, r.pch, 0, 0⟩ {}).retireSettled r.page

/-- A page is due: MCT starts its copy, or leaves it in service where the reserve is empty or the table full (R233); a reserve
page beyond DRAM is none (R213). A request whose entry has become valid meanwhile is ignored, as a write of a valid entry is
(R234; log entry 29). Once a pseudo-channel is fenced every page holds a fenced part, and none is retired (R217, R503). -/
def State.retireStart (s : State) (r : RetireReq) : State :=
  let pg := mctPage 0
  if !s.fencedPch.isEmpty then s.retireSettled r.page else
  let used := s.fld pg R.MCT_RETIRE_STS_USED
  let spare := s.fld pg R.MCT_RETIRE_CTL_POOL_PAGE + used
  let entry := match s.retireEntry r.page with
    | some n => some n
    | none => if r.host.isSome then r.host else s.retireFree
  match entry with
  | some n =>
    if (s.retireEntry r.page).isNone && s.on pg (R.RETIRE_TABLE_VALID n) then s.retireSettled r.page
    else if used < s.fld pg R.MCT_RETIRE_CTL_POOL_COUNT ∧ spare < dramEnd / pageBytes then
      let x : Retiring := ⟨r.page, n, spare, r.host.isSome, r.stack, r.pch⟩
      let t : State := { s with retiring := some x }
      t.put pg R.MCT_RETIRE_STS_USED (used + 1)
    else s.retireDenied r
  | none => s.retireDenied r

/-- MCT takes up what waits, one retirement at a time; `fuel` is the number that wait. -/
def State.retireNext (s : State) : Nat → State
  | 0 => s
  | fuel + 1 =>
    if s.retiring.isSome then s
    else match s.retireDue with
      | [] => s
      | r :: t => ({ s with retireDue := t }.retireStart r).retireNext fuel

/-- A page becomes due; one whose retirement runs or waits is due already. -/
def State.retire (s : State) (r : RetireReq) : State :=
  let same := (s.retiring.map Retiring.page) == some r.page || s.retireDue.any fun x => x.page == r.page
  if same then s
  else
    let t : State := { s with retireDue := s.retireDue ++ [r] }
    t.retireNext t.retireDue.length

/-- The pseudo-channel that the record of a page names where no error names one: the manual does not say which of the
page's, so it is open. -/
def State.openPch (s : State) (stack : Nat) : Nat × State :=
  let d := s.draw
  (64 * stack + Config.openField d.1 % 64, d.2)

/-- RETIRE_COPY_DONE: the entry is written, and the held accesses go to the spare (R233, R628). -/
def State.retireDone (s : State) : State :=
  match s.retiring with
  | none => s
  | some r =>
    let pg := mctPage r.stack
    let s := s.copyPage (s.phys (r.page * pageBytes)) (r.spare * pageBytes)
    let s := s.setWord (mctPage 0 + (R.RETIRE_TABLE_VALID r.entry).off)
      (2 ^ 63 + (if r.byHost then 2 ^ 62 else 0) + r.spare * 2 ^ 32 + r.page)
    let s := s.count pg C.MCT_PAGES_RETIRED (if r.byHost then 0 else 1)
    let s := (s.intSet pg 0).report ⟨.pageRetired, 4, B.MCT + r.stack, r.stack, r.pch, 0, 0⟩ {}
    let s : State := { s with retiring := none }
    let s := (s.drainHeld.clxLanded.snpLanded).retireSettled r.page
    s.retireNext s.retireDue.length

/-- RETIRE_COPY_DONE. -/
def execRetireCopyDone (s : State) : Host.Outcome State Fault Refusal := .next s.retireDone

/-- The correctable count of a page (R232). -/
def State.ceCount (s : State) (p : Nat) : Nat := ((s.ceCounts.find? fun x => x.1 == p).map Prod.snd).getD 0

/-- A correctable error in a page: the 4,096 pages that most recently erred keep a count (R232). -/
def State.ceSeen (s : State) (p : Nat) : State :=
  let l := ((p, s.ceCount p + 1) :: s.ceCounts.filter fun x => x.1 != p).take 4096
  { s with ceCounts := l, ceFired := s.ceFired.filter fun q => l.any fun x => x.1 == q }

/-- CE_THRESHOLD_REACHED: the correctable errors of a page reach CE_THRESH, once since start or since its count restarted
(R232); `stack` holds the error that did. -/
def State.ceReached (s : State) (p stack : Nat) : State :=
  let n := s.fld (mctPage 0) R.MCT_RETIRE_CTL_CE_THRESH
  if n = 0 ∨ s.ceCount p < n ∨ s.ceFired.contains p = true ∨ s.hwFences.contains (mctPage stack) = true ∨ s.fatal = true then s
  else
    let s : State := { s with ceFired := setInsert p s.ceFired }
    let d := s.openPch stack
    d.2.retire ⟨p, none, stack, d.1⟩

/-- CE_THRESHOLD_REACHED. -/
def execCeThresholdReached (pageNo : Fin 786432) (stack : Fin 16) (s : State) : Host.Outcome State Fault Refusal :=
  .next (s.ceReached pageNo.val stack.val)

/-! Fences of ports and units (R502, R505, R509). -/

/-- Both sub-links of a port go DOWN (R502). -/
def State.portDown (s : State) (n : Nat) : State :=
  s.each [2 * n, 2 * n + 1] fun s e =>
    if s.slState e = Sl.UP ∨ s.slState e = Sl.TRAINING then s.slDown e else s

/-- PORT_OK of a port follows its fences (R540). -/
def State.capPort (s : State) (n : Nat) : State :=
  let ok := s.fld (page 4 B.CAP) R.CAP_FLOOR_UNITS_PORT_OK
  s.capPut 4 R.CAP_FLOOR_UNITS_PORT_OK (if s.portOut n then ok - (ok &&& 2 ^ n) else ok ||| 2 ^ n)

/-- A second fault fences a port: both sub-links OFF until the floor's reset (R509). -/
def State.fencePort (s : State) (n e : Nat) (second : Bool) : State :=
  if s.portFenced n then s
  else
    let s := (s.hwFence (opxPage n) second).each [2 * n, 2 * n + 1] State.subOff
    (s.capPort n).report ⟨.portFenced, 4, B.OPX + n, n, e, 0, 0⟩ { fenced := true, second := second }

/-- A vector unit is fenced: its USABLE bit clears (R167, R502). -/
def State.fenceUnit (s : State) (d u : Nat) : State :=
  let pg := page d B.VEC
  let m := s.fld pg R.VEC_UNIT_USABLE_USABLE
  if bitOn m u then (((s.put pg R.VEC_UNIT_USABLE_USABLE (m - 2 ^ u)).intSet pg 0).degrade pg).capDie d else s

/-! Detection. -/

/-- Recovery windows of a port: a field retraining or a feed switch (R502). -/
def State.portWindow (s : State) (n : Nat) : Bool :=
  s.relocking.contains n || [2 * n, 2 * n + 1].any fun e => s.slState e == Sl.TRAINING && (s.link e).retraining

/-- Whether an error lies inside a recovery window of its domain (R502, R509). A MEM_UE keeps what its detection found: the
pseudo-channel as its index, and the physical page as its detail. -/
def State.inWindow (s : State) (e : ErrEvent) : Bool :=
  let d := e.die.val
  match e.kind with
  | .memUe => s.windows.contains (winKey 6 4 e.index)
  | .arrayRowFault => s.windows.contains (winKey 2 d e.index)
  | .arrayColFault => s.windows.contains (winKey 3 d e.index)
  | .dieAbsent => s.windows.contains (winKey 5 4 e.index)
  | .stackRetrain => s.windows.contains (winKey 7 4 e.index)
  | .bundleChanged => s.windows.contains (winKey 8 4 e.index)
  | .portLoss => s.portWindow (e.index / 2)
  | _ => false

/-- The fence that an error takes at once when its die's queue is full (R510), or in its recovery window (R509). -/
def State.fenceFor (s : State) (e : ErrEvent) (second : Bool) : State :=
  let d := e.die.val
  match e.kind with
  | .vuFault => s.fenceUnit d e.index
  | .arrayRowFault => (s.arrayUnusable d second).spareSettled d true e.index
  | .arrayColFault => (s.arrayUnusable d second).spareSettled d false e.index
  | .arrayUnusable => s.arrayUnusable d second
  | .memUe => s.fencePch e.index second
  | .stackRetrain => s.fenceStack e.index second
  | .bundleChanged => s.bundleFence (e.index / 1024) (e.index % 1024) second
  | .portLoss => s.fencePort (e.index / 2) e.index second
  | .dieAbsent => s.dieFailed e.index second
  | _ => s

/-- The action of an error outside a recovery window; the answer is whether it still runs (R502, R508). -/
def State.act (s : State) (e : ErrEvent) : State × Bool :=
  let d := e.die.val
  match e.kind with
  | .vuFault => (s.fenceUnit d e.index, false)
  | .arrayUnusable => (s.arrayUnusable d, false)
  | .arrayRowFault | .arrayColFault => ({ s with spareDue := s.spareDue ++ [(d, e.kind == .arrayRowFault, e.index)] }, false)
  | .memUe =>
    -- its pseudo-channel is fenced, or its page has been retired since
    if s.fencedPch.contains e.index || s.phys e.address / pageBytes != e.detail then (s.winClose (winKey 6 4 e.index), false)
    else (s, true)
  | .stackRetrain =>
    if s.hwFences.contains (mctPage e.index) then (s, false) else (s.winOpen (winKey 7 4 e.index), true)
  | .bundleChanged => (s, (s.bundle (e.index / 1024) (e.index % 1024)).retrain)
  | .dieAbsent => (s, s.absentDue.contains e.index)
  | .portLoss => (s.portDown (e.index / 2), false)
  | _ => (s, false)

/-- The action at the front of a die's queue starts; `t` is what waits after it (R508, R509). -/
def State.beginAction (s : State) (d : Nat) (a : Action) (t : List Action) : State :=
  let e := a.event
  let s := s.setActs d { waiting := t, running := some a }
  if a.second then
    let s := (s.count (page d B.ERR) C.ERR_SECOND_FAULTS 1).fenceFor e true
    s.setActs d { s.acts d with running := none }
  else
    let r := s.act e
    if r.2 then
      if e.kind = .memUe then r.1.retire ⟨e.address / pageBytes, none, e.index / 64, e.index⟩
      else r.1
    else r.1.setActs d { r.1.acts d with running := none }

/-- CONTAINMENT_ACTION: ERR of a die starts its next action. -/
def State.contain (s : State) (d : Nat) : State :=
  match (s.acts d).running, (s.acts d).waiting with
  | none, a :: t => s.beginAction d a t
  | _, _ => s

/-- CONTAINMENT_ACTION. -/
def execContainmentAction (d : Fin 5) (s : State) : Host.Outcome State Fault Refusal := .next (s.contain d.val)

/-- An error of class 2 or with an action enters its die's queue, or takes its fence at once (R508, R510). `second` says that it
arrived in its recovery window; `told` is false for the losses that have no code in R501 or are recorded later. -/
def State.enqueueAs (s : State) (e : ErrEvent) (second told : Bool) : State :=
  let d := e.die.val
  let q := s.acts d
  let busy := q.running.isSome || !q.waiting.isEmpty
  let fences := e.kind == .vuFault || e.kind == .arrayUnusable
  let tell (s : State) (f : ErrFlags) : State := if told then s.report e f else s
  if 64 ≤ q.waiting.length then
    let s := ((tell s { fenced := true, second := second }).count (page d B.ERR) C.ERR_QUEUE_OVERFLOWS 1).beginStorm d
    s.fenceFor e second
  else
    let s := tell s { fenced := fences, second := second, queued := busy }
    let s := if busy then s.count (page d B.ERR) C.ERR_ACTIONS_QUEUED 1 else s
    s.setActs d { s.acts d with waiting := (s.acts d).waiting ++ [⟨e, second⟩] }

/-- An error enters its die's queue as its recovery window stands. -/
def State.enqueue (s : State) (e : ErrEvent) (told : Bool) : State := s.enqueueAs e (s.inWindow e) told

/-- BUNDLE_RETRAIN: both ends retrain a bundle, after four consecutive failed resends of one frame, or because its handshake
wire has stopped toggling while others of the die toggle (R301, R304). The retrain belongs to an action of its ring's die; a full
queue fences the bundle at once (R508, R510). -/
def State.retrain (s : State) (d b : Nat) (silent : Bool) : State :=
  let x := s.bundle d b
  if !s.bundleRuns d b || !(silent || decide (4 ≤ x.fails)) then s
  else
    let e : ErrEvent := ⟨.bundleChanged, bundleRing d b, B.D2D, 0, bundleKey d b, 0, 0⟩
    let t := s.enqueue e false
    if t.bundleState d b = Lane.FENCED then t
    else ((t.setBundle d b { x with retrain := true, fails := 0 }).countD2d d C.D2D_RETRAINS 1).winOpen (winKey 8 4 (bundleKey d b))

/-- BUNDLE_RETRAIN. -/
def execBundleRetrain (d : Fin 4) (b : RetrainAsk) (s : State) : Host.Outcome State Fault Refusal :=
  .next (s.retrain d.val b.bundle.val b.silent)

/-- The floor declares a die absent as an error of the domain: the steps of R309 belong to an action of the floor's queue
(R508); with a full queue the die is FAILED at once (R510). -/
def State.goAbsent (s : State) (d cause : Nat) : State :=
  let e : ErrEvent := ⟨.dieAbsent, 4, B.D2D, 0, d, 0, cause⟩
  (s.declareAbsent d cause).enqueueAs e (s.inWindow e) false

/-- DIE_ABSENT: by silence of its bundles, or by a loss of packet bundles (R307, R308). -/
def State.absence (s : State) (d : Nat) (bundleLoss : Bool) : State :=
  if s.present d && !s.fatal && (!bundleLoss || s.bundlesFail d) then s.goAbsent d (if bundleLoss then 2 else 1) else s

/-- DIE_ABSENT. -/
def execDieAbsent (d : Fin 4) (bundleLoss : Bool) (s : State) : Host.Outcome State Fault Refusal :=
  .next (s.absence d.val bundleLoss)

/-- The running operation that an error of an array or a vector unit hits fails (R118, R150). -/
def State.hitOperation (s : State) (e : ErrEvent) : State :=
  let d := e.die.val
  match e.kind with
  | .vuFault =>
    match s.cmds.find? fun c => c.die == d && (c.stage == .vectorRun || c.stage == .vectorDone) && c.units.contains e.index with
    | some c =>
      let s := ({ s with heldWrites := s.heldWrites.filter fun w => w.owner != some c.id } : State).drainHeld
      (s.vecUndefined c).kernelStop c Err.UNIT_FAULT e.index
    | none => s
  | .arrayRowFault | .arrayColFault | .arrayUnusable =>
    let hit (c : Cmd) : Bool := c.stage == .arrayRun && c.arrays.contains d
    let fail (c : Cmd) : Cmd := { c with error := some (Err.ARRAY_FAULT, d) }
    { s with cmds := mapIf hit fail s.cmds }
  | _ => s

/-- The page and counter of an ECC event at an address: corrected, or not (R228, R246, R595, R597). -/
def eccCounter (a : Nat) (ue : Bool) : Nat × Fld :=
  match regionOf a with
  | some (.staging q) => (page 4 B.STG, nth (if ue then C.STG_ECC_UE_0 else C.STG_ECC_CORRECTED_0) q)
  | some (.wide q) => (page 4 B.WBF, nth (if ue then C.WBF_ECC_UE_0 else C.WBF_ECC_CORRECTED_0) q)
  | some (.acc d) => (page d B.ACC, if ue then C.ACC_ECC_UE else C.ACC_ECC_CORRECTED)
  | _ => (mctPage (stackOf a), if ue then C.MCT_UE_DETECTED else C.MCT_CE_CORRECTED)

/-- An ECC error at a device address as its block detects it (R17, R229, R496, R500): the kind and the block follow the memory
that holds the physical granule `a`; the index and the detail are those that `inWindow` describes. -/
def eccEvent (k : ErrKind) (address a : Nat) : ErrEvent :=
  let c := (eccCounter a true).1
  let block := c / 0x10000 % 0x100
  { kind := k, die := Fin.ofNat 5 (c / 0x1000000), block := block, inst := blockInst block
    index := pchOf a, address := address / 64 * 64, detail := a / pageBytes }

/-- An uncorrectable error poisons its granule; the first detection is recorded (R229). `scrub` is the physical granule that
the scrubber read; the original location of a retired page belongs to no page, so none becomes due for it (R232, R234). -/
def State.uncorrectable (s : State) (address : Nat) (scrub : Option Nat) : State :=
  let a := scrub.getD (s.phys (address / 64 * 64))
  if (regionOf a).isNone || s.poison.contains a || s.fencedAt a then s
  else
    let c := eccCounter a true
    let e := eccEvent (if a < dramEnd then .memUe else .sramUe) address a
    let s := s.count c.1 (if scrub.isSome then C.MCT_SCRUB_UE else c.2) 1
    let s : State := { s with poison := setInsert a s.poison }
    let s := if a < dramEnd then s else s.intSet c.1 0
    if a < dramEnd ∧ s.phys (address / 64 * 64) = a then
      let t := s.enqueue e true
      if t.fencedPch.contains (pchOf a) then t else t.winOpen (winKey 6 4 (pchOf a))
    else s.report e {}

/-- FATAL: every floor engine stops, the hosts are told, and the compute dies lose the floor (R312, R507). -/
def State.fatalStop (s : State) (e : ErrEvent) : State :=
  let s := s.report e {}
  let s := s.each [0, 1] fun s p => if s.linkUp p then s.tell (.errFatal p) else s
  let s := s.each s.presentDies State.loseFloor
  { s with
    fatal := true, cmds := [], claims := [], granted := none, links := [], clx := {}, fig := {}, snp := { health := s.snp.health }
    heldWrites := [], preserving := [], retiring := none, retireDue := [], sending := none, gates := [], groups := []
    actions := [], tokens := [], cplWait := [], moved := [], parts := [], crossing := [], floorCause := [] }

/-- ERROR_DETECTED: what the detection of an error does (R495, R502). The results of actions are no detections. -/
def State.detect (s : State) (e : ErrEvent) : State :=
  let d := e.die.val
  if s.fatal || (d < 4 && !s.present d) then s
  else match e.kind with
    | .eccCorrected =>
      let a := s.phys (e.address / 64 * 64)
      let c := eccCounter a false
      if (regionOf a).isNone then s
      else
        let s := if a < dramEnd then s.ceSeen (e.address / pageBytes) else s
        (s.count c.1 c.2 1).report (eccEvent .eccCorrected e.address a) {}
    | .linkRetried => s
    | .memUe | .sramUe => s.uncorrectable e.address none
    | .vuFault | .arrayUnusable => (s.enqueue e true).hitOperation e
    | .arrayRowFault => ((s.enqueue e true).hitOperation e).winOpen (winKey 2 d e.index)
    | .arrayColFault => ((s.enqueue e true).hitOperation e).winOpen (winKey 3 d e.index)
    | .stackRetrain => s.enqueue e false
    | .bundleChanged => if s.inWindow e then s.enqueue e false else s
    | .dieAbsent => if s.inWindow e then s.enqueue e false else s
    | .portLoss => s.enqueue e false
    | .fatal => s.fatalStop e
    | .pageRetired | .retireDenied | .pchFenced | .stackFenced | .banksLost | .dieFailed | .diagChanged | .laneChanged
    | .portFenced | .promenadeFailed | .doubleFault => s

/-- ERROR_DETECTED. -/
def execErrorDetected (e : ErrEvent) (s : State) : Host.Outcome State Fault Refusal := .next (s.detect e)

/-- The loss of the last lit wavelength of both feeds is an error of the port (R328, R502). -/
def State.portDark (s : State) (n : Nat) : State :=
  if s.litCount n 0 = 0 ∧ s.litCount n 1 = 0 then s.detect ⟨.portLoss, 4, B.OPX + n, n, 2 * n, 0, 0⟩ else s

/-- WAVELENGTH_UNLIT. -/
def execWavelengthUnlit (n : Fin 16) (feed : Fin 2) (wave : Fin 9) (s : State) : Host.Outcome State Fault Refusal :=
  let was := bitOn (s.fld (opxPage n.val) (litField feed.val)) wave.val
  let t := s.setLit n.val feed.val wave.val false
  .next (if was then t.portDark n.val else t)

/-- STACK_RETRAIN_DONE: the window closes, or the failed retrain fences the stack (R502). -/
def State.stackRetrained (s : State) (n : Nat) (ok : Bool) : State :=
  if s.windows.contains (winKey 7 4 n) && !s.fatal then
    let s := (s.winClose (winKey 7 4 n)).actionEnd 4 fun e => e.kind == .stackRetrain && e.index == n
    if ok then s else s.fenceStack n false
  else s

/-- STACK_RETRAIN_DONE. -/
def execStackRetrainDone (n : Fin 16) (ok : Bool) (s : State) : Host.Outcome State Fault Refusal :=
  .next (s.stackRetrained n.val ok)

/-! Patrol scrub (R230). -/

/-- Codewords of a stack. -/
def stackWords : Nat := 1610612736

/-- The physical address of a codeword of a stack, in address order (R217). -/
def scrubAddr (n k : Nat) : Nat :=
  let block := k / 8 * 8192
  block + (n ^^^ bits block 21 4) * 512 + k % 8 * 64

/-- The device page whose location is a physical page (R217). -/
def State.logicalPage (s : State) (p : Nat) : Nat :=
  ((List.range 1024).findSome? fun n =>
    if s.on (mctPage 0) (R.RETIRE_TABLE_VALID n) && s.fld (mctPage 0) (R.RETIRE_TABLE_SPARE_PAGE n) == p then
      some (s.fld (mctPage 0) (R.RETIRE_TABLE_FAULT_PAGE n)) else none).getD p

/-- SCRUB_READ: MCT reads the next codeword of its stack, and rewrites a corrected one; fenced parts are skipped (R230, R246,
R503). -/
def State.scrub (s : State) (n : Nat) (found : Ecc) : State :=
  let pg := mctPage n
  if !s.on pg R.MCT_SCRUB_CTL_EN || s.fld (page 4 B.CAP) R.CAP_START_STEP < 10 || s.fatal then s
  else
    let k := s.fld pg R.MCT_SCRUB_STS_POSITION
    let next := (k + 1) % stackWords
    let t := s.put pg R.MCT_SCRUB_STS_POSITION next
    let t := if next = 0 then t.put pg R.MCT_SCRUB_STS_PASSES (s.fld pg R.MCT_SCRUB_STS_PASSES + 1) else t
    let a := scrubAddr n k
    if t.fencedAt a then t
    else
      let dev := t.logicalPage (a / pageBytes) * pageBytes + a % pageBytes
      let t := t.count pg C.MCT_READ_BYTES 64
      match found with
      | .clean => t
      | .corrected =>
        let t := (t.count pg C.MCT_SCRUB_CORRECTED 1).count pg C.MCT_WRITE_BYTES 64
        let t := if t.phys dev = a then t.ceSeen (dev / pageBytes) else t
        t.report (eccEvent .eccCorrected dev a) {}
      | .uncorrectable => t.uncorrectable dev (some a)

/-- SCRUB_READ. -/
def execScrubRead (n : Fin 16) (found : Ecc) (s : State) : Host.Outcome State Fault Refusal := .next (s.scrub n.val found)

/-! ERR_TAIL (R511, R515). -/

/-- A TAIL write; a storm of the die ends when its ring is empty and its queue below 64 entries. -/
def State.errTail (s : State) (d v : Nat) : State :=
  let pg := page d B.ERR
  let depth := (s.fld pg R.ERR_HEAD_HEAD + 2 ^ 32 - v % 2 ^ 32) % 2 ^ 32
  if 256 < depth then s
  else
    let s := s.put pg R.ERR_TAIL_TAIL v
    if depth = 0 && (s.acts d).waiting.length < 64 && s.on pg R.ERR_STS_STORM then
      (s.put pg R.ERR_STS_STORM 0).endStorm.each [0, 1, 2, 3] State.resumeMaybe
    else s

end Sys2Proof.Machine
end

