-- ==== Sys2Proof/Machine/MlDsa.lean ====
section
/-! DEFINITION. ML-DSA-87 of FIPS 204, pure form with the empty context string, which R549 names for all signatures.
R549 fixes the algorithm by its standard, whose text the manual does not hold; log entry 16 has what that rests on. -/

namespace Sys2Proof.Machine

/-! Parameters: k = 8, ℓ = 7, η = 2, τ = 60, d = 13, γ₁ = 2¹⁹, γ₂ = (q − 1) / 32, β = τη, ω = 75. -/

def MlDsa.q : Nat := 8380417
def MlDsa.gamma1 : Nat := 2 ^ 19
def MlDsa.gamma2 : Nat := 261888
def MlDsa.beta : Nat := 120

/-- A polynomial of 256 coefficients, each below q. -/
abbrev Poly := List Nat

namespace MlDsa

/-! Arithmetic modulo q. -/

/-- The residue of an integer. -/
def residue (x : Int) : Nat := (x % (q : Int)).toNat

/-- The representative nearest zero modulo `a`, the upper one of two. -/
def centred (x a : Nat) : Int := if a / 2 < x % a then ((x % a : Nat) : Int) - (a : Int) else ((x % a : Nat) : Int)

def addPoly (a b : Poly) : Poly := List.zipWith (fun x y => (x + y) % q) a b
def subPoly (a b : Poly) : Poly := List.zipWith (fun x y => (x + (q - y)) % q) a b
def mulPoly (a b : Poly) : Poly := List.zipWith (fun x y => x * y % q) a b

/-- The largest absolute value of a coefficient. -/
def normPoly (a : Poly) : Nat := a.foldl (fun m x => max m (min x (q - x))) 0

def normVec (v : List Poly) : Nat := v.foldl (fun m p => max m (normPoly p)) 0

/-- The powers of ζ = 1753, a 512th root of unity. -/
def powers : Nat → Nat → List Nat
  | 0, _ => []
  | n + 1, x => x :: powers n (x * 1753 % q)

/-- A number of 8 bits with their order reversed. -/
def rev8 (n : Nat) : Nat := (List.range 8).foldl (fun m i => 2 * m + bits n i 1) 0

/-- The zeta of a node of the transform: node m splits into 2m and 2m + 1. -/
def zetas : List Nat := let p := powers 256 1; tabulate (fun m => p.getD (rev8 m) 0) 256

/-- The inverses of the same: ζ⁻ᵉ = ζ⁵¹²⁻ᵉ. -/
def zetaInverses : List Nat := let p := powers 513 1; tabulate (fun m => p.getD (512 - rev8 m) 0) 256

/-- The transform below a node, over 2 ^ levels coefficients. -/
def nttFrom (zs : List Nat) : Nat → Nat → Poly → Poly
  | 0, _, w => w
  | n + 1, m, w =>
    let a := w.take (2 ^ n)
    let t := (w.drop (2 ^ n)).map fun x => x * zs.getD m 0 % q
    nttFrom zs n (2 * m) (addPoly a t) ++ nttFrom zs n (2 * m + 1) (subPoly a t)

/-- The inverse of the same, without the factor 2 ^ levels. -/
def inttFrom (zs : List Nat) : Nat → Nat → Poly → Poly
  | 0, _, w => w
  | n + 1, m, w =>
    let a := inttFrom zs n (2 * m) (w.take (2 ^ n))
    let b := inttFrom zs n (2 * m + 1) (w.drop (2 ^ n))
    addPoly a b ++ (subPoly a b).map fun x => x * zs.getD m 0 % q

def ntt (w : Poly) : Poly := nttFrom zetas 8 1 w

/-- The inverse transform; 8347681 is the inverse of 256. -/
def intt (w : Poly) : Poly := (inttFrom zetaInverses 8 1 w).map fun x => x * 8347681 % q

/-- A row of a matrix times a vector, both transformed. -/
def dot (a v : List Poly) : Poly := (List.zipWith mulPoly a v).foldl addPoly (List.replicate 256 0)

/-! Rounding. -/

/-- Power2Round: the high part, and the low 13 bits about zero as a residue. -/
def power2Round (x : Nat) : Nat × Nat :=
  let low := centred x 8192
  ((((x : Int) - low) / 8192).toNat, residue low)

/-- Decompose. -/
def decompose (x : Nat) : Nat × Int :=
  let low := centred x (2 * gamma2)
  if (x : Int) - low = (q : Int) - 1 then (0, low - 1) else ((((x : Int) - low) / ((2 * gamma2 : Nat) : Int)).toNat, low)

def highBits (x : Nat) : Nat := (decompose x).1

/-- The largest absolute value of the low bits. -/
def lowNorm (v : List Poly) : Nat := v.foldl (fun m p => p.foldl (fun m x => max m (decompose x).2.natAbs) m) 0

/-- UseHint. -/
def useHint (h : Bool) (x : Nat) : Nat :=
  let d := decompose x
  if h then (if 0 < d.2 then (d.1 + 1) % 16 else (d.1 + 15) % 16) else d.1

/-! Packing. -/

/-- Numbers of `b` bits each, one after another. -/
def packNat (b : Nat) : List Nat → Nat
  | [] => 0
  | x :: t => x % 2 ^ b + packNat b t <<< b

def packPoly (b : Nat) (p : Poly) : List Byte := leBytes (32 * b) (packNat b p)

/-- The numbers of `b` bits that bytes hold, 256 of them. -/
def unpackPoly (b : Nat) (l : List Byte) : List Nat := let n := leNat l; tabulate (fun i => bits n (b * i) b) 256

/-- γ₁ minus each coefficient, as z and the masks are packed; each map is its own inverse. -/
def mirror (p : Poly) : Poly := p.map fun x => (gamma1 + (q - x)) % q

/-- The hint: the places of its ones, and how many of them each polynomial ends. -/
def packHint (h : List (List Bool)) : List Byte :=
  let at_ := h.map fun p => (List.range 256).filter fun j => p.getD j false
  let places := at_.flatten
  let ends := tabulate (fun i => ((at_.take (i + 1)).map List.length).sum) 8
  ((places ++ List.replicate (75 - places.length) 0) ++ ends).map (BitVec.ofNat 8)

/-- Whether a list rises strictly. -/
def rises : List Nat → Bool
  | a :: b :: t => decide (a < b) && rises (b :: t)
  | _ => true

/-- The hint that bytes spell, where they are in the one form that packing gives. -/
def unpackHint (l : List Byte) : Option (List (List Bool)) :=
  let n := l.map BitVec.toNat
  let ends := n.drop 75
  let piece (i : Nat) : List Nat :=
    let start := if i = 0 then 0 else ends.getD (i - 1) 0
    (n.drop start).take (ends.getD i 0 - start)
  let ordered := (List.range 8).all fun i =>
    decide (ends.getD i 0 ≤ 75) && decide (i = 0 ∨ ends.getD (i - 1) 0 ≤ ends.getD i 0) && rises (piece i)
  if ordered && (((n.take 75).drop (ends.getD 7 0)).all fun x => x == 0) then
    some (tabulate (fun i => tabulate (fun j => (piece i).contains j) 256) 8)
  else none

/-! Sampling. The streams are cut at lengths that FIPS 204 allows a bound at: more is needed with a chance below 2⁻²⁵⁶. -/

/-- The coefficients below q among three bytes each, bit 23 cleared. -/
def below : Nat → List Byte → List Nat
  | 0, _ => []
  | n + 1, a :: b :: c :: t =>
    let z := a.toNat + 256 * b.toNat + 65536 * (c.toNat % 128)
    if z < q then z :: below n t else below n t
  | _, _ => []

/-- A uniform polynomial, transformed (RejNTTPoly). -/
def uniform (seed : List Byte) : Poly := (below 336 (shake128 1008 seed)).take 256

/-- A polynomial with coefficients from −2 to 2 (RejBoundedPoly). -/
def small (seed : List Byte) : Poly :=
  let half := (shake256 544 seed).flatMap fun b => [b.toNat % 16, b.toNat / 16]
  ((half.filter fun z => decide (z < 15)).map fun z => (q + 2 - z % 5) % q).take 256

/-- The matrix, transformed (ExpandA). -/
def expandA (rho : List Byte) : List (List Poly) :=
  tabulate (fun r => tabulate (fun c => uniform (rho ++ [BitVec.ofNat 8 c, BitVec.ofNat 8 r])) 7) 8

/-- The masks of an attempt (ExpandMask). -/
def mask (seed : List Byte) (kappa : Nat) : List Poly :=
  tabulate (fun r => mirror (unpackPoly 20 (shake256 640 (seed ++ leBytes 2 (kappa + r))))) 7

/-- The places and signs of the challenge (SampleInBall): position i takes the next byte that does not exceed it. -/
def ballFrom (signs : Nat) : Nat → Nat → List Byte → Poly → Poly
  | 0, _, _, p => p
  | n + 1, i, l, p =>
    match l.dropWhile fun b => decide (i < b.toNat) with
    | [] => p
    | b :: t =>
      let j := b.toNat
      let p := (p.set i (p.getD j 0)).set j (if bitOn signs (i - 196) then q - 1 else 1)
      ballFrom signs n (i + 1) t p

def challenge (c : List Byte) : Poly :=
  let l := shake256 816 c
  ballFrom (leNat (l.take 8)) 60 196 (l.drop 8) (List.replicate 256 0)

/-! Keys. -/

/-- A key pair in its parts: ρ, K, tr, the matrix, s₁, s₂, t₀, and the public key. -/
structure Keys where
  seed : List Byte
  tr : List Byte
  matrix : List (List Poly)
  s1 : List Poly
  s2 : List Poly
  t0 : List Poly
  pub : List Byte

/-- ML-DSA.KeyGen_internal of a seed ξ (R551). -/
def keyGen (xi : List Byte) : Keys :=
  let e := shake256 128 (xi ++ [8, 7])
  let rho := e.take 32
  let rhoS := (e.drop 32).take 64
  let a := expandA rho
  let s1 := tabulate (fun r => small (rhoS ++ leBytes 2 r)) 7
  let s2 := tabulate (fun r => small (rhoS ++ leBytes 2 (7 + r))) 8
  let n1 := s1.map ntt
  let t := List.zipWith (fun row s => (addPoly (intt (dot row n1)) s).map power2Round) a s2
  let pub := rho ++ t.flatMap fun p => packPoly 10 (p.map Prod.fst)
  { seed := e.drop 96, tr := shake256 64 pub, matrix := a, s1 := s1, s2 := s2, t0 := t.map fun p => p.map Prod.snd, pub := pub }

/-- The representative of a message (pure form, empty context string). -/
def representative (tr msg : List Byte) : List Byte := shake256 64 (tr ++ [0, 0] ++ msg)

/-- The challenge's hash of the representative and the high bits. -/
def commitment (mu : List Byte) (w1 : List Poly) : List Byte := shake256 64 (mu ++ w1.flatMap (packPoly 4))

/-- The attempts of a signature, with κ rising by ℓ; none when the bound on attempts is reached. -/
def attempts (k : Keys) (n1 n2 n0 : List Poly) (mu rho : List Byte) : Nat → Nat → Option (List Byte)
  | 0, _ => none
  | n + 1, kappa =>
    let y := mask rho kappa
    let ny := y.map ntt
    let w := k.matrix.map fun row => intt (dot row ny)
    let c := commitment mu (w.map fun p => p.map highBits)
    let nc := ntt (challenge c)
    let z := List.zipWith (fun m s => addPoly m (intt (mulPoly nc s))) y n1
    let r := List.zipWith (fun p s => subPoly p (intt (mulPoly nc s))) w n2
    if gamma1 - beta ≤ normVec z ∨ gamma2 - beta ≤ lowNorm r then attempts k n1 n2 n0 mu rho n (kappa + 7)
    else
      let t := n0.map fun s => intt (mulPoly nc s)
      let h := List.zipWith (fun p s => List.zipWith (fun x y => highBits ((x + y) % q) != highBits x) p s) r t
      if gamma2 ≤ normVec t ∨ 75 < (h.flatten.filter id).length then attempts k n1 n2 n0 mu rho n (kappa + 7)
      else some (c ++ (z.flatMap fun p => packPoly 20 (mirror p)) ++ packHint h)

/-- ML-DSA.Sign_internal of a message with 32 random bytes. The bound of 814 attempts is the least that FIPS 204 allows. -/
def signWith (xi msg rnd : List Byte) : Option (List Byte) :=
  let k := keyGen xi
  let mu := representative k.tr msg
  attempts k (k.s1.map ntt) (k.s2.map ntt) (k.t0.map ntt) mu (shake256 64 (k.seed ++ rnd ++ mu)) 814 0

/-- ML-DSA.Verify: public key, message, signature. -/
def verify (pub msg sig : List Byte) : Bool :=
  let c := sig.take 64
  let z := tabulate (fun i => mirror (unpackPoly 20 ((sig.drop (64 + 640 * i)).take 640))) 7
  let t1 := tabulate (fun i => unpackPoly 10 ((pub.drop (32 + 320 * i)).take 320)) 8
  match unpackHint (sig.drop 4544) with
  | none => false
  | some h =>
    let nc := ntt (challenge c)
    let nz := z.map ntt
    let w := List.zipWith (fun row t => intt (subPoly (dot row nz) (mulPoly nc (ntt (t.map fun x => x * 8192 % q)))))
      (expandA (pub.take 32)) t1
    let w1 := List.zipWith (fun p g => List.zipWith (fun x b => useHint b x) p g) w h
    decide (pub.length = 2592) && decide (sig.length = 4627) && decide (normVec z < gamma1 - beta)
      && c == commitment (representative (shake256 64 pub) msg) w1

end MlDsa

end Sys2Proof.Machine
end

