-- ==== Sys2Proof/Machine/Perhal.lean ====
section
/-! DEFINITION. Perhal (R549–R568): its key stores, the checks of the firmware image, the measurement registers, the
requests of the host ports, the life cycle, the test access port's scan request and the SPDM messages. Log entry 31 has
the readings, log entry 16 the algorithms outside the manual's text. -/

namespace Sys2Proof.Machine

def secPage : Nat := page 4 B.SEC
def capPage : Nat := page 4 B.CAP
def pwrPage : Nat := page 4 B.PWR

/-! Registers as bytes. -/

/-- `n` bytes of the registers from a word's address on. -/
def State.regBytes (s : State) (a n : Nat) : List Byte :=
  ((List.range (ceilDiv n 8)).flatMap fun i => leBytes 8 (s.word (a + 8 * i))).take n

/-- Write bytes to the registers from a word's address on; a last word takes as many bytes as there are. -/
def State.putRegBytes (s : State) (a : Nat) (l : List Byte) : State :=
  forUpto (fun i s =>
    let new := (l.drop (8 * i)).take 8
    s.setWord (a + 8 * i) (leNat (new ++ (leBytes 8 (s.word (a + 8 * i))).drop new.length))) (ceilDiv l.length 8) s

/-- A list cut or padded with zeros to `n` bytes. -/
def fit (n : Nat) (l : List Byte) : List Byte := (l ++ List.replicate n 0).take n

/-- The mailbox of a host port (R567). -/
def mailbox (hp : Nat) : Nat := secPage + 0x1000 + 0x3000 * hp

/-- Measurement register `n` (R557, R567). -/
def mrAddr (n : Nat) : Nat := secPage + 0x7000 + 64 * n

def State.mr (s : State) (n : Nat) : List Byte := s.regBytes (mrAddr n) 64

/-- MR := SHA3-512(MR ‖ D) (R557). -/
def State.extendMr (s : State) (n : Nat) (d : List Byte) : State := s.putRegBytes (mrAddr n) (sha3_512 (s.mr n ++ d))

/-! Key stores (R551, R552). -/

/-- The life cycle in force (R560). -/
def State.lifeCycle (s : State) : Nat := s.fld secPage R.SEC_LC_STATE

/-- ZEROISED follows the key stores. -/
def State.showZero (s : State) : State :=
  let p := s.perhal
  s.flag secPage R.SEC_FW_STS_ZEROISED
    (p.dik.isNone && p.ak.isNone && p.latch.isEmpty && p.sessions.isEmpty && p.ide.isEmpty)

/-- A derivation: UDS stands in the read latch while it runs, and only then (R550, R552). -/
def State.derive (s : State) (f : State → State) : State :=
  let t := f { s with perhal := { s.perhal with latch := fit 64 s.fuses.uds } }
  ({ t with perhal := { t.perhal with latch := [] } } : State).showZero

/-- The seed ξ of a key, from the UDS in the latch (R551); no key exists in BLANK or SCRAPPED. -/
def State.seed (s : State) (label : Nat) (ctx : List Byte) : Option (List Byte) :=
  let lc := s.lifeCycle
  let uds := s.perhal.latch
  if lc = 1 ∨ lc = 2 then some ((sha3_512 (uds ++ [BitVec.ofNat 8 label] ++ ctx)).take 32)
  else if lc = 3 then some ((sha3_512 (sha3_512 (uds ++ [0xFF]) ++ [BitVec.ofNat 8 label] ++ ctx)).take 32)
  else none

/-- MR0–MR6, the CONTEXT of the AK (R551). -/
def State.akContext (s : State) : List Byte := (List.range 7).flatMap s.mr

/-- DIK and AK load, unless a scan request keeps keys out (R552, R563). -/
def State.loadKeys (s : State) : State :=
  if s.perhal.noKeys then s
  else s.derive fun s =>
    let t : State := { s with perhal := { s.perhal with dik := s.seed 1 [], ak := s.seed 2 s.akContext } }
    t.count secPage C.SEC_KEY_LOADS (if t.perhal.dik.isSome then 2 else 0)

/-- SEAL loads for a use of its pair, and clears within the same event (R552); `f` takes the seed ξ of the pair, none where no
key may load. -/
def State.withSeal (s : State) (f : Option (List Byte) → State → State) : State :=
  if s.perhal.noKeys then f none s
  else s.derive fun s =>
    let k := s.seed 3 []
    f k (s.count secPage C.SEC_KEY_LOADS (if k.isSome then 1 else 0))

/-! Scan (R534, R563). -/

/-- Whether BST requests scan: at rows 4 and 8 of a full start, and at elements 5 and 6 of a last waltz. -/
def State.bstScans (s : State) : Bool :=
  let row := s.fld capPage R.CAP_START_STEP
  ((row == 4 || row == 8) && s.fld capPage R.CAP_START_RESULT != 3)
    || (s.fld pwrPage R.PWR_LW_STS_STATE == 1 && [5, 6].contains (s.fld pwrPage R.PWR_LW_STS_ELEMENT))

/-- Whether any scan request is asserted: no key loads then. -/
def State.scanAsked (s : State) : Bool := s.perhal.noKeys || s.bstScans

/-- The enable of every scan cell: a request, and ZEROISED. -/
def State.scanEnabled (s : State) : Bool := s.scanAsked && s.on secPage R.SEC_FW_STS_ZEROISED

/-- DIK and AK clear (R552). -/
def State.clearPairs (s : State) : State :=
  let t : State := { s with perhal := { s.perhal with dik := none, ak := none } }
  t.showZero

/-- The IDE and SPDM keys of a port clear (R552, R581). -/
def State.clearPort (s : State) (hp : Nat) : State :=
  let t : State := { s with
    perhal := { s.perhal with
      sessions := setErase hp s.perhal.sessions, ide := s.perhal.ide.filter fun e => e.1 / 4 != hp } }
  (t.put (hifPage hp) R.HIF_LINK_STS_IDE_SECURE 0).showZero

/-- Every key store clears (R552). -/
def State.zeroise (s : State) : State := (((s.clearPort 0).clearPort 1).clearPairs).count secPage C.SEC_ZEROISATIONS 1

/-! ML-DSA-87 (R549). -/

def publicKey (seed : List Byte) : List Byte := fit 2592 (MlDsa.keyGen seed).pub

/-- A signature over a SHA3-512 digest, with its draw of randomness. Past the bound on attempts, which no run is
expected to reach, the bytes are free (log entry 16). -/
def State.signDigest (s : State) (seed digest : List Byte) : List Byte × State :=
  let d := s.draw
  let sig := MlDsa.signWith seed digest (leBytes 32 (Config.signRandom d.1).toNat)
  (fit 4627 (sig.getD (leBytes 4627 (Config.openField d.1))), d.2)

/-- A signature over a message. -/
def State.sign (s : State) (seed msg : List Byte) : List Byte × State := s.signDigest seed (sha3_512 msg)

def sigOk (key msg sig : List Byte) : Bool := MlDsa.verify key (sha3_512 msg) sig

/-! The firmware image (R553–R555). -/

/-- Bytes of the delivered image. -/
def State.image (s : State) (a n : Nat) : List Byte := tabulate (fun i => Table.get (fun _ => 0) s.perhal.img (a + i)) n

def State.imageNat (s : State) (a n : Nat) : Nat := leNat (s.image a n)

/-- Offset of component entry `i`, and the entry that holds a type. -/
def compAt (i : Nat) : Nat := 9856 + 128 * i

def State.compOf (s : State) (type : Nat) : Option Nat := (List.range 8).find? fun i => s.imageNat (compAt i) 4 == type

/-- Whether bytes of the image are all zero. -/
def State.imageZero (s : State) (a n : Nat) : Bool := (s.image a n).all fun b => b == 0

/-- R553 and R554: LENGTH, the reserved bytes, the offsets and the component set. -/
def State.imageForm (s : State) : Bool :=
  let len := s.imageNat 8 4
  let entry (i : Nat) : Bool :=
    let ty := s.imageNat (compAt i) 4
    let off := s.imageNat (compAt i + 4) 4
    ty == 0 || (decide (ty ≤ 5) && off % 64 == 0 && decide (15552 ≤ off) && decide (off + s.imageNat (compAt i + 8) 4 ≤ len))
  s.perhal.imgLen == some len && decide (15552 ≤ len) && decide (len ≤ 0x400000)
    && s.imageZero 9827 1 && s.imageZero 9830 26 && s.imageZero 15507 45
    && (List.range 8).all (fun i => s.imageZero (compAt i + 12) 52)
    && (List.range 8).all entry
    && [1, 2, 3, 4, 5].all fun ty => ((List.range 8).filter fun i => s.imageNat (compAt i) 4 == ty).length == 1

/-- Whether the root key of the image signs a key index and signing key (R553, R562). -/
def State.rootSigns (s : State) (indexAndKey sig : List Byte) : Bool := sigOk (s.image 16 2592) indexAndKey sig

/-- The body of a component, and the digest of its entry. -/
def State.compBody (s : State) (i : Nat) : List Byte := s.image (s.imageNat (compAt i + 4) 4) (s.imageNat (compAt i + 8) 4)

def State.compDigest (s : State) (i : Nat) : List Byte := s.image (compAt i + 64) 64

/-- FW_RESULT of the checks at start row 5, 0 where every one passes (R555). -/
def State.firmwareCheck (s : State) : Nat :=
  let lc := s.lifeCycle
  if lc = 0 ∨ lc = 4 then 9
  else if s.perhal.imgLen.isNone then 1
  else if !s.imageForm then 2
  else if sha3_512 (s.image 16 2592) != fit 64 s.fuses.rootHash then 3
  else if bitOn s.fuses.revoke (s.imageNat 12 4) then 4
  else if !s.rootSigns (s.image 12 4 ++ s.image 2608 2592) (s.image 5200 4627) then 5
  else if !sigOk (s.image 2608 2592) (s.image 0 10880) (s.image 10880 4627) then 6
  else if s.imageNat 4 4 < s.fuses.svn then 7
  else if ((List.range 8).filter fun i => s.imageNat (compAt i) 4 != 0).any fun i =>
      sha3_512 (s.compBody i) != s.compDigest i then 8
  else 0

/-- The 64-byte block of MR6: LC, fused SVN and REVOKE, SERIAL, then zeros (R557); the widths are free (log entry 31). -/
def State.mr6Block (s : State) : List Byte :=
  fit 64 (leBytes (Config.mr6Width 0) s.lifeCycle ++ leBytes (Config.mr6Width 1) s.fuses.svn
    ++ leBytes (Config.mr6Width 2) s.fuses.revoke ++ leBytes (Config.mr6Width 3) s.fuses.serial)

/-- The image passes: its fields show, MR0–MR6 are extended, and DIK and AK load (R552, R557). -/
def State.runFirmware (s : State) : State :=
  let s := s.put secPage R.SEC_FW_STS_IMAGE_VER (s.imageNat 0 4)
  let s := s.put secPage R.SEC_FW_STS_IMAGE_SVN (s.imageNat 4 4)
  let s := s.put secPage R.SEC_FW_STS_KEY_INDEX (s.imageNat 12 4)
  let s := s.extendMr 0 (sha3_512 (s.image 0 10880))
  let s := s.each [1, 2, 3, 4, 5] fun s n => s.extendMr n (((s.compOf n).map s.compDigest).getD [])
  let s := s.extendMr 6 (sha3_512 s.mr6Block)
  s.loadKeys

/-- MR7 at start row 14 (R557). -/
def State.measureStart (s : State) : State :=
  s.extendMr 7 (sha3_512 (fit 64 (s.regBytes (capPage + R.CAP_START.off) 16)))

/-! Requests (R564, R567). -/

abbrev Res.OK : Nat := 0
abbrev Res.NOT_READY : Nat := 1
abbrev Res.BAD_OP : Nat := 2
abbrev Res.BAD_ARG : Nat := 3
abbrev Res.BAD_TOKEN : Nat := 4
abbrev Res.LC_REFUSED : Nat := 5
abbrev Res.FUSE_FAIL : Nat := 6

/-- A request reaches DONE. -/
def State.endRequest (s : State) (hp result : Nat) : State :=
  let s : State := { s with perhal := { s.perhal with order := s.perhal.order.filter fun p => p != hp } }
  let s := (s.put secPage (R.SEC_REQ_STATE hp) 3).put secPage (R.SEC_REQ_RESULT hp) result
  (s.count secPage C.SEC_REQ_REFUSED (if result = Res.OK then 0 else 1)).intSet secPage hp

/-- Requests whose OP names none end as they reach the front; `fuel` is the number that wait. -/
def State.dropBadOps (s : State) : Nat → State
  | 0 => s
  | fuel + 1 =>
    match s.perhal.order with
    | [] => s
    | hp :: _ =>
      let op := s.fld secPage (R.SEC_REQ_OP hp)
      if !s.started || (1 ≤ op && op ≤ 6) then s
      else (s.endRequest hp (if s.perhal.closed then Res.NOT_READY else Res.BAD_OP)).dropBadOps fuel

def State.settle (s : State) : State := s.dropBadOps s.perhal.order.length

/-- A write of GO submits the request of a port. -/
def State.submit (s : State) (hp : Nat) : State :=
  let s : State := { s with perhal := { s.perhal with order := s.perhal.order ++ [hp] } }
  ((s.put secPage (R.SEC_REQ_STATE hp) 1).put secPage (R.SEC_REQ_RESULT hp) 0).settle

/-- Perhal runs the request at the front of its order, when that is the given request of the given port. -/
def State.request (s : State) (hp op : Nat) (run : State → State × Nat) : State :=
  if s.started && !s.fatal && s.perhal.order.head? == some hp && s.fld secPage (R.SEC_REQ_OP hp) == op then
    let r := if s.perhal.closed then (s, Res.NOT_READY) else run s
    (r.1.endRequest hp r.2).settle
  else s

/-- EXTEND of MR8–MR15 (R557, R564). -/
def State.extend (s : State) (hp : Nat) : State × Nat :=
  let n := s.fld secPage (R.SEC_REQ_ARG hp)
  if n < 8 ∨ 15 < n then (s, Res.BAD_ARG)
  else ((s.extendMr n (s.regBytes (mailbox hp) 64)).count secPage C.SEC_EXTENDS 1, Res.OK)

/-- EXTEND. -/
def execExtend (hp : Fin 2) (s : State) : Host.Outcome State Fault Refusal := .next (s.request hp.val 1 fun s => s.extend hp.val)

/-- Bytes 0–31 of a quote (R558). -/
def State.quoteHead (s : State) (mask : Nat) : List Byte :=
  leBytes 4 1 ++ leBytes 4 s.lifeCycle ++ leBytes 8 s.fuses.serial ++ leBytes 4 (s.fld secPage R.SEC_FW_STS_IMAGE_SVN)
    ++ leBytes 4 s.fuses.svn ++ leBytes 4 (s.fld capPage R.CAP_START_START_COUNT) ++ leBytes 4 mask

/-- QUOTE (R558). -/
def State.quote (s : State) (hp : Nat) : State × Nat :=
  match s.perhal.ak with
  | none => (s, Res.NOT_READY)
  | some ak =>
    let mask := leNat (s.regBytes (mailbox hp + 64) 2)
    let body := s.quoteHead mask ++ s.regBytes (mailbox hp) 64 ++ ((List.range 16).filter (bitOn mask)).flatMap s.mr
    let r := s.sign ak body
    ((r.2.putRegBytes (mailbox hp) (body ++ r.1)).count secPage C.SEC_QUOTES 1, Res.OK)

/-- QUOTE. -/
def execQuote (hp : Fin 2) (s : State) : Host.Outcome State Fault Refusal := .next (s.request hp.val 2 fun s => s.quote hp.val)

/-- GET_DIK (R559). -/
def State.getDik (s : State) (hp : Nat) : State × Nat :=
  match s.perhal.dik with
  | none => (s, Res.NOT_READY)
  | some k => (s.putRegBytes (mailbox hp) (publicKey k), Res.OK)

/-- GET_DIK. -/
def execGetDik (hp : Fin 2) (s : State) : Host.Outcome State Fault Refusal := .next (s.request hp.val 3 fun s => s.getDik hp.val)

/-- The AK certificate (R559): its body, signed by the DIK. -/
def State.akCert (s : State) (dik ak : List Byte) : List Byte × State :=
  let body := s.quoteHead 0x7F ++ s.akContext ++ publicKey ak
  let r := s.sign dik body
  (body ++ r.1, r.2)

/-- GET_AK_CERT (R559). -/
def State.getAkCert (s : State) (hp : Nat) : State × Nat :=
  match s.perhal.dik, s.perhal.ak with
  | some dik, some ak =>
    let r := s.akCert dik ak
    (r.2.putRegBytes (mailbox hp) r.1, Res.OK)
  | _, _ => (s, Res.NOT_READY)

/-- GET_AK_CERT. -/
def execGetAkCert (hp : Fin 2) (s : State) : Host.Outcome State Fault Refusal :=
  .next (s.request hp.val 4 fun s => s.getAkCert hp.val)

/-- Blow fuses, or end with FUSE_FAIL. -/
def State.blow (s : State) (f : State → State) : State × Nat :=
  let d := s.draw
  if Config.fuseBlows d.1 then (f d.2, Res.OK) else (d.2, Res.FUSE_FAIL)

/-- SEC_LC and SEC_SERIAL show the fuses (R566). -/
def State.showFuses (s : State) : State :=
  ((s.put secPage R.SEC_LC_REVOKED s.fuses.revoke).put secPage R.SEC_LC_SVN_FUSED s.fuses.svn).put secPage R.SEC_SERIAL s.fuses.serial

/-- SVN_COMMIT (R556). -/
def State.svnCommit (s : State) : State × Nat :=
  let svn := min 64 (s.imageNat 4 4)
  let own := s.imageNat 12 4
  let new := s.imageNat 9828 2
  let keep := if bitOn new own then new - 2 ^ own else new
  if svn ≤ s.fuses.svn then (s, Res.OK)
  else s.blow fun s =>
    let t : State := { s with fuses := { s.fuses with svn := svn, revoke := s.fuses.revoke ||| keep } }
    t.showFuses

/-- SVN_COMMIT. -/
def execSvnCommit (hp : Fin 2) (s : State) : Host.Outcome State Fault Refusal := .next (s.request hp.val 5 State.svnCommit)

/-- Whether the token of a mailbox authorises a target (R562). -/
def State.tokenOk (s : State) (hp target : Nat) (dik : List Byte) : Bool :=
  let at' (a n : Nat) : List Byte := (s.regBytes (mailbox hp) (a + n)).drop a
  leNat (at' 0 4) == target && !bitOn s.fuses.revoke (leNat (at' 12 4))
    && s.rootSigns (at' 12 4 ++ at' 16 2592) (at' 2608 4627) && sigOk (at' 16 2592) (at' 0 7360) (at' 7360 4627)
    && leNat (at' 4 8) == s.fuses.serial && at' 7296 64 == sha3_512 (publicKey dik)

/-- The transitions that LC_TRANSITION may ask for (R561). -/
def lcAllowed (old new : Nat) : Bool :=
  (old == 1 && new == 2) || (old == 2 && new == 3) || (new == 4 && (old == 1 || old == 2 || old == 3))

/-- The fuse of an accepted transition is blown (R561). -/
def State.lcAccept (s : State) (new : Nat) : State × Nat :=
  s.blow fun s =>
    let s : State := { s with fuses := { s.fuses with lc := new } }
    let s := (s.put secPage R.SEC_LC_PENDING 1).put secPage R.SEC_LC_NEXT new
    if new = 3 ∨ new = 4 then
      let t : State := { s with perhal := { s.perhal with closed := true } }
      t.zeroise
    else s

/-- LC_TRANSITION (R561, R562, R564). -/
def State.lcTransition (s : State) (hp : Nat) : State × Nat :=
  let new := s.fld secPage (R.SEC_REQ_ARG hp)
  if 4 < new then (s, Res.BAD_ARG)
  else if !lcAllowed s.fuses.lc new then (s, Res.LC_REFUSED)
  else if new = 4 then s.lcAccept 4
  else match s.perhal.dik with
    | none => (s, Res.NOT_READY)
    | some k => if s.tokenOk hp new k then s.lcAccept new else (s, Res.BAD_TOKEN)

/-- LC_TRANSITION. -/
def execLcTransition (hp : Fin 2) (s : State) : Host.Outcome State Fault Refusal :=
  .next (s.request hp.val 6 fun s => s.lcTransition hp.val)

/-! The other events. -/

/-- SCAN_REQUEST: in BLANK, FACTORY and RETURN the test access port's request clears every key store, and no key loads
until the next package reset (R563). -/
def State.scanRequest (s : State) : State :=
  let lc := s.lifeCycle
  if s.fld capPage R.CAP_START_STEP ≠ 0 ∧ (lc = 0 ∨ lc = 1 ∨ lc = 3) then
    let t : State := { s with perhal := { s.perhal with noKeys := true } }
    t.zeroise
  else s

/-- SCAN_REQUEST. -/
def execScanRequest (s : State) : Host.Outcome State Fault Refusal := .next s.scanRequest

/-- A secured session is set up (R565): Perhal answers with the delivered chain, the leaf that it issues for the AK, and the AK's
signature over the transcript (R551). The leaf is the certificate of R559 (log entry 31). -/
def State.spdmSession (s : State) (hp : Nat) (transcript : List Byte) : State :=
  match s.perhal.dik, s.perhal.ak with
  | some dik, some ak =>
    let leaf := s.akCert dik ak
    let sig := leaf.2.sign ak transcript
    let p := s.perhal
    let chain := tabulate (fun i => Table.get (fun _ => 0) p.chain i) (p.chainLen.getD 0)
    let t := sig.2.tell (.spdm hp chain leaf.1 sig.1)
    let t : State := { t with perhal := { t.perhal with sessions := setInsert hp t.perhal.sessions } }
    (t.count secPage C.SEC_SPDM_SESSIONS 1).showZero
  | _, _ => s

/-- Keys are set for an IDE stream of a port (R565, R586). -/
def State.ideKeys (s : State) (hp stream : Nat) (set : Bool) : State :=
  let k := 4 * hp + stream
  let t : State := { s with perhal := { s.perhal with ide := Table.set (fun _ => none) s.perhal.ide k (some set) } }
  (t.flag (hifPage hp) R.HIF_LINK_STS_IDE_SECURE (t.perhal.ide.any fun e => e.1 == 4 * hp)).showZero

/-- SPDM_MESSAGE (R565): a session needs the AK and a link, and IDE keys need a session. -/
def State.spdm (s : State) (hp : Nat) : Spdm → State
  | .session l =>
    if s.linkUp hp && !s.scanAsked && !s.perhal.sessions.contains hp && !s.fatal then s.spdmSession hp l else s
  | .ideKeys stream set =>
    if s.linkUp hp && s.perhal.sessions.contains hp && !s.scanAsked && !s.fatal then s.ideKeys hp stream.val set else s

/-- SPDM_MESSAGE. -/
def execSpdmMessage (hp : Fin 2) (m : Spdm) (s : State) : Host.Outcome State Fault Refusal := .next (s.spdm hp.val m)

end Sys2Proof.Machine
end

