-- ==== Sys2Proof/Machine/Power.lean ====
section
/-! DEFINITION. Power, start and self-test (R521–R548), the throttle (R542, R645–R647): package reset, the rows of the
start sequence, the last waltz and its record, rails and sensors. Log entry 32 has the readings. -/

namespace Sys2Proof.Machine

def State.startStep (s : State) : Nat := s.fld capPage R.CAP_START_STEP
def State.startResult (s : State) : Nat := s.fld capPage R.CAP_START_RESULT
def State.quickStart (s : State) : Bool := s.fld capPage R.CAP_START_KIND == 1

/-- STATE of PWR_LW_STS: 1 RUNNING, 2 DONE, 3 REFUSED, 4 FAILED. -/
def State.lwState (s : State) : Nat := s.fld pwrPage R.PWR_LW_STS_STATE

def State.lwRuns (s : State) : Bool := s.lwState == 1

/-! Package reset and power (R34, R521, R524). -/

/-- Only the fuses and the start store survive; the commands that wait, the messages sent and the draws taken are the
model's own (log entries 6, 7). -/
def State.resetPackage (s : State) : State :=
  { fuses := s.fuses, startCount := s.startCount, record := s.record, pending := s.pending, free := s.free
    hostOut := s.hostOut, sentItems := s.sentItems, sentFrames := s.sentFrames }

/-- PACKAGE_RESET: PKG_RST_N is low (R524). -/
def execPackageReset (s : State) : Host.Outcome State Fault Refusal := .next s.resetPackage

/-- POWER_REMOVED (R521). -/
def execPowerRemoved (s : State) : Host.Outcome State Fault Refusal := .next s.resetPackage

/-- START: PKG_RST_N rises, row 1 begins, and the fuses show (R528, R566). -/
def State.start (s : State) : State :=
  if s.startStep ≠ 0 then s
  else
    -- the board raises PKG_RST_N with every rail in regulation (R519)
    let s := (s.put capPage R.CAP_START_STEP 1).put pwrPage R.PWR_RAIL_STS_VALID 0x3FF
    (s.put secPage R.SEC_LC_STATE s.fuses.lc).showFuses

/-- START. -/
def execStart (s : State) : Host.Outcome State Fault Refusal := .next s.start

/-! What tests find. -/

/-- Two results together. -/
def joinResult (a b : TestResult) : TestResult where
  ok := a.ok && b.ok
  dies := a.dies ++ b.dies
  bundles := a.bundles ++ b.bundles
  badPages := a.badPages ++ b.badPages
  pchs := a.pchs ++ b.pchs
  hbms := a.hbms ++ b.hbms
  staging := a.staging ++ b.staging
  wide := a.wide ++ b.wide
  ports := a.ports ++ b.ports
  diags := a.diags ++ b.diags
  hosts := a.hosts ++ b.hosts
  floor := a.floor || b.floor
  repairs := a.repairs ++ b.repairs

def State.find (s : State) (r : TestResult) : State := { s with found := joinResult s.found r }

/-- The logic-scan part of a die's results (R525). -/
def scanPart (r : TestResult) : TestResult :=
  { r with dies := r.dies.map fun x => (x.1, { units := x.2.units, arrayScan := x.2.arrayScan, dieFails := x.2.dieFails }) }

/-- How many units of R538 a result finds failing (R546). -/
def failCount (r : TestResult) : Nat :=
  let die (d : Nat) : Nat :=
    let t := testOf r d
    t.units.eraseDups.length + (if t.arrayScan || (spareCover (t.cells.map fun x => (x.1.val, x.2.val))
      (8 - t.badRows.eraseDups.length) (8 - t.badCols.eraseDups.length)).isNone then 1 else 0) + (if t.dieFails then 1 else 0)
  die 0 + die 1 + die 2 + die 3 + (r.bundles.filter fun x => (startLane x.2).1 != Lane.FULL).length
    + r.pchs.eraseDups.length + r.hbms.eraseDups.length + r.staging.eraseDups.length + r.wide.eraseDups.length
    + r.ports.eraseDups.length + r.diags.eraseDups.length + r.hosts.eraseDups.length + (if r.floor then 1 else 0)

/-! The start sequence (R528–R531, R538–R541). -/

/-- A start stops FAILED (R539). -/
def State.startFails (s : State) : State :=
  let s := (s.put capPage R.CAP_START_RESULT 3).intSet capPage 0
  s.tell (.i3cInterrupt 3)

/-- The SHA3-512 digest over the fields of a record (R525). -/
def recordDigest (count version lc : Nat) (found : TestResult) : List Byte :=
  sha3_512 (Config.recordBytes count version lc found)

/-- Whether the digest and the seal of a record verify, by the pair of a SEAL seed (R526, R552). -/
def LwRecord.verifies (r : LwRecord) (key : List Byte) : Bool :=
  r.digest == recordDigest r.count r.version r.lc r.found && MlDsa.verify (publicKey key) r.digest r.signature

/-- Row 2: the record is checked, KIND is set, and START_COUNT increments (R526, R529). -/
def State.rowRecord (s : State) : State :=
  let check (r : LwRecord) (key : Option (List Byte)) (s : State) : State :=
    let valid := key.any r.verifies && r.count == s.startCount && r.version == s.imageNat 0 4 && r.lc == s.fuses.lc
    { s with inForce := if valid then some r else none, found := if valid then r.found else {} }
  let s := match s.record with
    | some r => s.withSeal (check r)
    | none => { s with inForce := none, found := {} }
  let valid := s.inForce.isSome
  let s : State := { s with startCount := (s.startCount + 1) % 2 ^ 32 }
  let s := (s.put capPage R.CAP_START_START_COUNT s.startCount).put capPage R.CAP_START_KIND (if valid then 1 else 2)
  s.flag capPage R.CAP_START_LW_VALID valid

/-- The rail of a compute die (R518). -/
def State.dieRail (s : State) (d : Nat) : Bool := bitOn (s.fld pwrPage R.PWR_RAIL_STS_VALID) (6 + d)

/-- Row 7: the bundles of the compute dies train (R302, R307, R538). -/
def State.rowBundles (s : State) (r : TestResult) : State :=
  s.each [0, 1, 2, 3] fun s d =>
    let s := s.trainBundles d ((r.bundles.filter fun x => x.1.val == d).map Prod.snd)
    if s.dieState d ≠ Die.TRAINING then s
    else if !s.dieRail d || (testOf r d).dieFails || s.bundlesFail d then s.dieTo d Die.FAILED else s.dieTo d Die.SELFTEST

/-- What the marches and the training of the stacks leave fenced (R503, R538), with the interrupt of the stacks where something
is newly fenced (R628). -/
def State.markMemory (s : State) : State :=
  let f := s.found
  let before := s.fencedPch
  let s : State := { s with
    fencedPch := (f.pchs.map Fin.val).foldl (fun l p => setInsert p l) s.fencedPch
    fencedStg := (f.staging.map Fin.val).foldl (fun l q => setInsert q l) s.fencedStg
    fencedWbf := (f.wide.map Fin.val).foldl (fun l q => setInsert q l) s.fencedWbf }
  let s := s.each (List.range 16) fun s n =>
    if (f.hbms.map Fin.val).contains n || decide (4 < onesOf (s.pchMask n)) then
      { s.hwFence (mctPage n) false with
        fencedPch := (List.range 64).foldl (fun l p => setInsert (64 * n + p) l) s.fencedPch }
    else s
  s.each ((List.range 16).filter fun n => s.fencedPch.any fun p => p / 64 == n && !before.contains p) fun s n =>
    s.intSet (mctPage n) 2

/-- Row 12: array and vector tests, with the results in force applied (R117, R538). -/
def State.rowUnits (s : State) (r : TestResult) : State :=
  s.markMemory.each [0, 1, 2, 3] fun s d =>
    let t := joinTest (testOf r d) (testOf s.found d)
    if s.dieState d ≠ Die.SELFTEST then s
    else if t.dieFails then s.dieTo d Die.FAILED
    else ((s.applyDieTest d t).dieTo d Die.PRESENT).stepsBegin d

/-- Row 13: the loop-back fences ports and loses diagonal links; the other sub-links train (R344, R531, R538). -/
def State.rowOptics (s : State) (r : TestResult) : State :=
  let s := s.find r
  let bad := s.found.ports.map Fin.val
  let s := s.each (bad.eraseDups) fun s n => s.hwFence (opxPage n) false
  let s : State := { s with diagLost :=
    (s.found.diags.map Fin.val).eraseDups.flatMap fun k =>
      (List.range 40).flatMap fun g => (List.range 9).map fun w => (k, g, w) }
  let s := s.each (s.found.diags.map Fin.val).eraseDups fun s k => s.diagLanesLost k
  s.each (List.range 32) fun s e =>
    if s.portFenced (e / 2) || !s.on (opxPage (e / 2)) (slEnField e) then s else s.slTrain e false

/-- The units of the floor that are usable (R544). -/
def maskOf (n : Nat) (ok : Nat → Bool) : Nat := (List.range n).foldl (fun m i => if ok i then m + 2 ^ i else m) 0

/-- The capability record at row 14 (R540, R541, R544, R545). -/
def State.capability (s : State) : State :=
  let f := s.found
  let p (s : State) (x : Fld) (n : Nat) : State := s.put capPage x n
  let s := p s R.CAP_FLOOR_UNITS_DRAM_OK (if s.fencedPch.isEmpty then 1 else 0)
  let s := p s R.CAP_FLOOR_UNITS_DIE_OK (maskOf 4 s.present)
  let s := p s R.CAP_FLOOR_UNITS_STG_OK (maskOf 4 fun q => !s.fencedStg.contains q)
  let s := p s R.CAP_FLOOR_UNITS_WBF_OK (maskOf 4 fun q => !s.fencedWbf.contains q)
  let s := p s R.CAP_FLOOR_UNITS_HP_OK (maskOf 2 fun n => !(f.hosts.map Fin.val).contains n)
  let s := p s R.CAP_FLOOR_UNITS_DIAG_OK (maskOf 2 fun k => !(f.diags.map Fin.val).contains k && s.diagLit k 0 && s.diagLit k 1)
  let s := p s R.CAP_FLOOR_UNITS_PORT_OK (maskOf 16 fun n => !s.portFenced n)
  let s := p s R.CAP_FLOOR_UNITS_STACK_OK (maskOf 16 fun n => !s.hwFences.contains (mctPage n))
  let s := s.each (List.range 16) fun s n => p s (pchField n) (s.pchMask n)
  let pages := ((f.badPages.map Fin.val).foldl (fun l x => setInsert x l) []).take 256
  forUpto (fun i s => s.setWord (capPage + (R.BAD_PAGE_TABLE i).off) (2 ^ 63 + pages.getD i 0)) pages.length s

/-- Whether every unit of R538 is usable. -/
def State.allUnits (s : State) : Bool :=
  s.fencedPch.isEmpty && s.fencedStg.isEmpty && s.fencedWbf.isEmpty && s.found.hosts.isEmpty && s.found.diags.isEmpty
    && ((List.range 16).all fun n => !s.portFenced n)
    && [0, 1, 2, 3].all fun d => s.present d && s.on (page d B.ARY) R.ARY_MODE_ARRAY_USABLE
        && s.fld (page d B.VEC) R.VEC_UNIT_USABLE_USABLE == 2 ^ 64 - 1
        && (List.range 1024).all fun b => s.bundleState d b == Lane.FULL

/-- READY of the pages of the dies that are present, and of the floor (R620). -/
def State.ready (s : State) : State :=
  s.each (s.presentDies ++ [4]) fun s d =>
    s.each ((List.range 64).filter (pageExists d)) fun s i => s.put (page d i) R.STS_READY 1

/-- Row 14 ends: every page answers, and START ends (R528, R540, R557, R582). -/
def State.startEnds (s : State) : State :=
  let result := if s.allUnits then 1 else 2
  let s := s.capability.put capPage R.CAP_START_RESULT result
  let s := ((s.measureStart).put capPage R.CAP_START_STEP 15).ready.refreshGrand
  let s := s.each [0, 1] fun s k => s.diagRefresh k false
  ((s.intSet capPage 0).tell (.i3cInterrupt result)).settle

/-- The row after a row; a quick start leaves out rows 4, 8, 10 and 11 (R529). -/
def State.nextRow (s : State) (n : Nat) : Nat :=
  if s.quickStart then
    (if n = 3 then 5 else if n = 7 then 9 else if n = 9 then 12 else n + 1)
  else n + 1

/-- What happens when a row begins: the dies leave reset at row 7, and DIK and AK clear at row 8 (R528, R552). -/
def State.beginRow (s : State) (n : Nat) : State :=
  let s := s.put capPage R.CAP_START_STEP n
  if n = 7 then s.each [0, 1, 2, 3] fun s d => s.dieTo d Die.TRAINING
  else if n = 8 then s.clearPairs
  else s

/-- The work of a row as it ends, row 14 apart; a failing firmware check gives its FW_RESULT. -/
def State.rowWork (s : State) (n : Nat) (r : TestResult) : State :=
  match n with
  | 2 => s.rowRecord
  | 4 => s.find r
  | 5 => s.runFirmware
  | 6 => s.find r
  | 7 => s.rowBundles r
  | 8 => (s.find r).loadKeys
  | 9 => s.find r
  | 10 => s.find r
  | 11 => s.find r
  | 12 => s.rowUnits r
  | 13 => s.rowOptics r
  | _ => s

/-- Whether a row fails the start (R539): it cannot complete, or a scan fails outside the units that have a row of their own, now
or, in a quick start, by the record that takes the place of row 4 (R529, R538). -/
def State.rowFails (s : State) (n : Nat) (r : TestResult) : Bool :=
  !r.ok || (n == 4 && r.floor) || (n == 3 && s.quickStart && s.found.floor)

/-- START_ROW_DONE: the row in progress ends with what it found, and the next begins; or the start stops (R528, R539). A row
that scans ends only when scan was enabled (R534, R563). -/
def State.rowDone (s : State) (r : TestResult) : State :=
  let n := s.startStep
  if n = 0 ∨ 14 < n ∨ s.startResult = 3 ∨ s.paused = true ∨ s.fatal = true then s
  else if (n = 4 ∨ n = 8) ∧ s.scanEnabled = false then s
  else if n = 5 then
    let fw := s.firmwareCheck
    let s := s.put secPage R.SEC_FW_STS_FW_RESULT fw
    if fw ≠ 0 ∨ r.ok = false then s.startFails else (s.rowWork 5 r).beginRow 6
  else if s.rowFails n r then s.startFails
  else if n = 14 then s.startEnds
  else
    let s := s.rowWork n r
    s.beginRow (s.nextRow n)

/-- START_ROW_DONE. -/
def execStartRowDone (r : TestResult) (s : State) : Host.Outcome State Fault Refusal := .next (s.rowDone r)

/-! The last waltz (R525–R527, R532–R535, R546). -/

/-- Whether START is refused (R532). -/
def State.lwRefused (s : State) : Bool :=
  (s.presentDies.any fun d => (List.range 64).any fun q => s.qf d q R.QUEUE_W1_EN == 1)
    || s.snp.prom.isSome || s.snp.inProm.isSome || !s.snp.refills.isEmpty || s.on (page 4 B.ERR) R.ERR_STS_STORM_PKG

/-- Set STATE; its interrupt tells that it leaves RUNNING. -/
def State.lwTo (s : State) (st : Nat) : State :=
  let t := s.put pwrPage R.PWR_LW_STS_STATE st
  if s.lwRuns && st != 1 then t.intSet pwrPage 0 else t

/-- A last waltz begins: requests that wait end, and dies that are not present are reset first (R532, R564). -/
def State.lwBegin (s : State) : State :=
  let s := s.each s.perhal.order fun s hp => s.endRequest hp Res.NOT_READY
  let s := s.each [0, 1, 2, 3] fun s d =>
    if s.dieState d = Die.ABSENT ∨ s.dieState d = Die.FAILED then s.resetRequest d else s
  let s : State := { s with found := {}, tallied := {}, paused := false }
  ((s.lwTo 1).put pwrPage R.PWR_LW_STS_ELEMENT 1).put pwrPage R.PWR_LW_STS_FAILS 0

/-- A write of PWR_LW_CTL (R527, R532, R546); none is accepted after a last waltz is DONE, until the package reset (R534). -/
def State.lwWrite (s : State) (v : Nat) : State :=
  if bits v 48 16 ≠ 0x57A1 ∨ s.lwState = 2 ∨ s.fatal = true then s
  else
    let s : State := if bitOn v 1 then { s with record := none } else s
    if !bitOn v 0 || s.lwRuns || !s.started then s
    else if s.lwRefused then s.lwTo 3
    else s.lwBegin

/-- A last waltz ends FAILED (R535). -/
def State.lwFails (s : State) : State :=
  if s.lwRuns then
    let t : State := { s with found := {}, tallied := {}, paused := false }
    (t.lwTo 4).count pwrPage C.PWR_LW_FAILED 1
  else s

/-- A march overwrites parts of memory, and leaves them undefined (R240, R533). -/
def State.marched (s : State) (parts : List Nat) : State :=
  ({ s with poison := s.poison.filter fun a => !parts.contains (partOf a) } : State).lost parts

/-- A last waltz seals its record (R525, R552). -/
def State.lwSeal (s : State) : State :=
  let count := s.startCount
  let version := s.fld secPage R.SEC_FW_STS_IMAGE_VER
  let lc := s.lifeCycle
  let found := { s.found with badPages := s.found.badPages.take 256 }
  let digest := recordDigest count version lc found
  s.withSeal fun key s =>
    match key with
    | some k =>
      let r := s.signDigest k digest
      { r.2 with record := some ⟨count, version, lc, found, digest, r.1⟩ }
    | none => { s with record := none }

/-- The dies that a last waltz could not bring back are recorded as failed (R532). -/
def State.missing (s : State) : TestResult :=
  { dies := (([0, 1, 2, 3] : List (Fin 4)).filter fun d => !s.present d.val).map fun d => (d, { dieFails := true }) }

/-- BST resets the logic of the compute dies that it has scanned (R563). -/
def State.scannedDies (s : State) : State :=
  s.each [0, 1, 2, 3] fun s d => if s.present d then (s.clearDie d).dieTo d Die.RESET else s

/-- BST resets the floor islands that it has scanned, all but floor service and Perhal (R563). What they leave behind is what the
CAP, PWR and SEC pages, Perhal, the I3C target, the sensors and the memories hold. -/
def State.scannedFloor (s : State) : State :=
  let kept (a : Nat) : Bool := [capPage, pwrPage, secPage].contains (a / 0x10000 * 0x10000)
  { s.resetPackage with
    regs := s.regs.filter fun e => kept e.1
    mem := s.mem, poison := s.poison, lostGen := s.lostGen, lostSet := s.lostSet
    inForce := s.inForce, found := s.found, tallied := s.tallied, perhal := s.perhal, i3c := s.i3c
    thermal := s.thermal, nextId := s.nextId, nextGroup := s.nextGroup }

/-- The work of an element as it ends (R533). -/
def State.elementWork (s : State) (n : Nat) (r : TestResult) : State :=
  match n with
  | 1 => s.zeroise
  | 2 => (s.marched [12]).find r
  | 3 => (s.marched (List.range 12)).find r
  | 4 => s.each s.presentDies fun s d => s.applyDieTest d (testOf r d)
  | 5 => (s.find (joinResult (scanPart r) s.missing)).scannedDies
  | 6 => (s.find (scanPart r)).scannedFloor
  | _ => s

/-- LW_ELEMENT_DONE: the element in progress ends and the next begins; element 8 writes the record (R525, R533). FAILS counts
each unit found failing once (R546). An element that scans ends only when scan was enabled (R534). -/
def State.elementDone (s : State) (r : TestResult) : State :=
  let n := s.fld pwrPage R.PWR_LW_STS_ELEMENT
  if !s.lwRuns || s.paused || s.fatal then s
  else if (n = 5 ∨ n = 6) ∧ s.scanEnabled = false then s
  else if !r.ok then s.lwFails
  else
    let all := joinResult s.tallied (if n = 5 then joinResult r s.missing else r)
    let s : State := { s.elementWork n r with tallied := all }
    let s := s.put pwrPage R.PWR_LW_STS_FAILS (min 255 (failCount all))
    if 8 ≤ n then (s.lwSeal.lwTo 2).count pwrPage C.PWR_LW_RUNS 1
    else s.put pwrPage R.PWR_LW_STS_ELEMENT (n + 1)

/-- LW_ELEMENT_DONE. -/
def execLwElementDone (r : TestResult) (s : State) : Host.Outcome State Fault Refusal := .next (s.elementDone r)

/-! Rails and pauses (R535, R536, R547, R548). -/

/-- RAIL_EXCURSION: a rail leaves regulation, and a last waltz fails; VALID follows a rail both ways (R535, R547, R548). -/
def State.railTo (s : State) (rail : Nat) (valid : Bool) : State :=
  let v := s.fld pwrPage R.PWR_RAIL_STS_VALID
  if bitOn v rail = valid then s
  else if valid then s.put pwrPage R.PWR_RAIL_STS_VALID (v + 2 ^ rail)
  else
    (((s.put pwrPage R.PWR_RAIL_STS_VALID (v - 2 ^ rail)).count pwrPage C.PWR_RAIL_EXCURSIONS 1).intSet pwrPage 1).lwFails

/-- RAIL_EXCURSION. -/
def execRailExcursion (rail : RailChange) (s : State) : Host.Outcome State Fault Refusal :=
  .next (if s.startStep = 0 ∨ s.fatal = true then s else s.railTo rail.rail.val rail.valid)

/-- Whether the limit of R536 holds: in a full start from row 4 on, and in a last waltz. -/
def State.testing (s : State) : Bool :=
  s.lwRuns || (decide (3 < s.startStep) && decide (s.startStep < 14) && s.startResult != 3 && !s.quickStart)

/-- POWER_PAUSE: the draw is above 2,400 W, and BST waits (R536). -/
def execPowerPause (s : State) : Host.Outcome State Fault Refusal :=
  .next (if s.testing && !s.paused && !s.fatal && decide (2400 < s.reading 32) then
    ({ s with paused := true } : State).count pwrPage C.PWR_POWER_PAUSES 1 else s)

/-- POWER_PAUSE_END: the draw is below 2,200 W (R536). -/
def execPowerPauseEnd (s : State) : Host.Outcome State Fault Refusal :=
  .next (if s.reading 32 < 2200 ∧ s.fatal = false then { s with paused := false } else s)

/-! The throttle (R542, R645, R646). -/

/-- Key of a sensor among the readings. -/
def sensorKey : Sensor → Nat
  | .stack n k => 2 * n.val + k.val
  | .draw => 32
  | .die d n => 64 + 8 * n.val + d.val

/-- Whether every sensor of a die, or every stack sensor, reads below a value. -/
def State.dieBelow (s : State) (d t : Nat) : Bool :=
  s.thermal.reading.all fun e => !(decide (64 ≤ e.1) && e.1 % 8 == d) || decide (e.2 < t)

def State.stacksBelow (s : State) (t : Nat) : Bool :=
  s.thermal.reading.all fun e => !decide (e.1 < 32) || decide (e.2 < t)

def State.showSteps (s : State) : State := s.each s.presentDies State.showStep

/-- Change the steps that a trigger asks for. -/
def State.setSteps (s : State) (d n : Nat) : State :=
  let t : State := { s with thermal := { s.thermal with steps := Table.set (fun _ => 0) s.thermal.steps d n } }
  t.showSteps

/-- A thermal excursion of a die (R542, R628). -/
def State.excursion (s : State) (d : Nat) : State :=
  let s := if d < 4 then (s.count (page d B.PWR) C.PWR_THERMAL_EXCURSIONS 1).intSet (page d B.PWR) 2 else s
  (s.count pwrPage C.PWR_THERMAL_EXCURSIONS 1).intSet pwrPage 2

/-- SENSOR_THRESHOLD: a sensor has a new reading. Triggers T2 and Stack act at once. -/
def State.sense (s : State) (x : Sensor) (v : Nat) : State :=
  let k := sensorKey x
  let s : State := { s with thermal := { s.thermal with reading := Table.set (fun _ => 0) s.thermal.reading k v } }
  match x with
  | .die d _ =>
    if v < 90 then { s with thermal := { s.thermal with hot := setErase k s.thermal.hot } }
    else
      let counts := d.val = 4 || s.present d.val
      let s := if 95 ≤ v && counts && !s.thermal.hot.contains k then
          ({ s with thermal := { s.thermal with hot := setInsert k s.thermal.hot } } : State).excursion d.val else s
      if 100 ≤ v && decide (d.val < 4) then s.setSteps d.val 4 else s
  | .stack _ _ =>
    if 100 ≤ v then
      ({ s with thermal := { s.thermal with stack := true } } : State).each [0, 1, 2, 3] fun s d => s.setSteps d 4
    else { s with thermal := { s.thermal with stack := s.thermal.stack && !s.stacksBelow 90 } }
  | .draw => s

/-- SENSOR_THRESHOLD. -/
def execSensorThreshold (x : Sensor) (reading : Nat) (s : State) : Host.Outcome State Fault Refusal :=
  .next (if s.startStep = 0 ∨ s.fatal = true then s else s.sense x reading)

/-- THROTTLE_STEP_DOWN: a trigger holds for a further 1 ms (R645, T1 and Draw). PWR of the floor keeps the steps of a die, whether
it is present or not. -/
def State.stepDown (s : State) : Trigger → State
  | .die d => if !s.dieBelow d.val 95 then s.setSteps d.val (min 4 (s.steps d.val + 1)) else s
  | .draw => if 3600 < s.reading 32 then s.setSteps 4 (min 4 (s.steps 4 + 1)) else s

/-- THROTTLE_STEP_DOWN. -/
def execThrottleStepDown (t : Trigger) (s : State) : Host.Outcome State Fault Refusal := .next (if s.fatal then s else s.stepDown t)

/-- THROTTLE_STEP_UP: the release condition has held for a further 10 ms (R645). -/
def State.stepUp (s : State) : Trigger → State
  | .die d => if s.dieBelow d.val 90 && !s.thermal.stack then s.setSteps d.val (s.steps d.val - 1) else s
  | .draw => if s.reading 32 < 3400 then s.setSteps 4 (s.steps 4 - 1) else s

/-- THROTTLE_STEP_UP. -/
def execThrottleStepUp (t : Trigger) (s : State) : Host.Outcome State Fault Refusal := .next (if s.fatal then s else s.stepUp t)

/-- CLOCK_STOP: a logic-die sensor at 110 °C (R647). A compute die out of reset, one that trains, tests itself or has failed too,
is declared absent and runs again only after its reset (R21, R313). -/
def State.clockStop (s : State) (d : Nat) : State :=
  if s.fatal then s
  else if d = 4 then (if s.startStep = 0 then s else s.fatalStop ⟨.fatal, 4, B.PWR, 0, 0, 0, 0⟩)
  else if s.present d || [Die.TRAINING, Die.SELFTEST, Die.FAILED].contains (s.dieState d) then s.goAbsent d 1
  else s

/-- CLOCK_STOP. -/
def execClockStop (d : Fin 5) (s : State) : Host.Outcome State Fault Refusal := .next (s.clockStop d.val)

end Sys2Proof.Machine
end

