-- ==== Sys2Proof/Machine/Port.lean ====
section
/-! DEFINITION. The host ports and the I3C target (R569–R590): link training and loss, host-port reset, Bus Master Enable,
the drain engine, and the image delivery of I3C. Log entry 33 has the readings. -/

namespace Sys2Proof.Machine

/-! The drain engine (R584, R589). -/

abbrev Drain.RUNNING : Nat := 1
abbrev Drain.DONE : Nat := 2
abbrev Drain.ABORTED : Nat := 3

def State.drainState (s : State) (hp : Nat) : Nat := s.fld (hifPage hp) R.HIF_DRAIN_CTL_STATE

/-- The drain leaves RUNNING. -/
def State.drainEnd (s : State) (hp st result : Nat) : State :=
  ((s.put (hifPage hp) R.HIF_DRAIN_CTL_STATE st).put (hifPage hp) R.HIF_DRAIN_CTL_RESULT result).intSet (hifPage hp) 0

/-- Poisoned or fenced granules of a page. -/
def State.badGranules (s : State) (a : Nat) : Nat := ((List.range 32768).filter fun i => s.bad (a + 64 * i)).length

/-- Posted writes of consecutive bytes to a host, each of at most Max_Payload_Size (R571, R584). -/
def State.postWrites (s : State) (hp dst : Nat) (l : List Byte) : State :=
  let n := (s.port hp).payload
  forUpto (fun i s => s.tell (.write hp ((dst + n * i) % 2 ^ 64) ((l.drop (n * i)).take n))) (ceilDiv l.length n) s

/-- One page goes to the host; a poisoned granule goes as zeros. -/
def State.drainPage (s : State) (hp k : Nat) : State :=
  let pg := hifPage hp
  let a := s.fld pg R.HIF_DRAIN_SRC_SRC * pageBytes + k * pageBytes
  let dst := (s.fld pg R.HIF_DRAIN_DST_DST * 64 + k * pageBytes) % 2 ^ 64
  let bad := s.badGranules a
  let s := (s.countRead .engine a pageBytes).postWrites hp dst (s.bytes a pageBytes)
  let s := (s.count pg C.HIF_DRAIN_BYTES pageBytes).count pg C.HIF_TX_BYTES pageBytes
  let s := (s.count pg C.HIF_DRAIN_POISON_GRANULES bad).put pg R.HIF_DRAIN_CTL_PAGES_DONE (k + 1)
  if bad = 0 then s else s.put pg R.HIF_DRAIN_CTL_POISON 1

/-- The pages go in increasing order, and the flush read follows the last write. -/
def State.drainCopy (s : State) (hp : Nat) : State :=
  let pg := hifPage hp
  let n := s.fld pg R.HIF_DRAIN_CTL_PAGES
  let dst := s.fld pg R.HIF_DRAIN_DST_DST * 64
  (forUpto (fun k s => s.drainPage hp k) n s).tell (.flushRead hp dst)

/-- GO: the drain runs once the port reaches its host; its range must lie in the DRAM window. -/
def State.drainGo (s : State) (hp : Nat) : State :=
  let pg := hifPage hp
  let n := s.fld pg R.HIF_DRAIN_CTL_PAGES
  let src := s.fld pg R.HIF_DRAIN_SRC_SRC
  if s.drainState hp = Drain.RUNNING then s
  else
    let s := ((s.put pg R.HIF_DRAIN_CTL_STATE Drain.RUNNING).put pg R.HIF_DRAIN_CTL_RESULT 0).put pg R.HIF_DRAIN_CTL_POISON 0
    let s := s.put pg R.HIF_DRAIN_CTL_PAGES_DONE 0
    if n = 0 ∨ 16384 < n ∨ dramEnd / pageBytes < src + n then s.drainEnd hp Drain.ABORTED 2
    else if !s.linkUp hp then s.drainEnd hp Drain.ABORTED 1
    else if s.hostReach hp then s.drainCopy hp
    else s

/-- ABORT. -/
def State.drainAbort (s : State) (hp : Nat) : State :=
  if s.drainState hp = Drain.RUNNING then s.drainEnd hp Drain.ABORTED 3 else s

/-- DRAIN_FLUSH_COMPLETE: the flush read's completion arrives (R584). -/
def State.drainFlushed (s : State) (hp : Nat) : State :=
  let pg := hifPage hp
  if s.drainState hp = Drain.RUNNING ∧ s.fld pg R.HIF_DRAIN_CTL_PAGES_DONE = s.fld pg R.HIF_DRAIN_CTL_PAGES ∧ s.fatal = false then
    s.drainEnd hp Drain.DONE 0
  else s

/-- DRAIN_FLUSH_COMPLETE. -/
def execDrainFlushComplete (hp : Fin 2) (s : State) : Host.Outcome State Fault Refusal := .next (s.drainFlushed hp.val)

/-! Links, resets and Bus Master Enable (R524, R569, R581). -/

/-- Whether a port failed at start (R538): as the tests found until the start ends, then as the capability record has it. -/
def State.hostBad (s : State) (hp : Nat) : Bool :=
  if s.started then !bitOn (s.fld capPage R.CAP_FLOOR_UNITS_HP_OK) hp else (s.found.hosts.map Fin.val).contains hp

/-- HOST_LINK_UP: a port of a package whose start has reached row 6 trains to a generation and a width (R528, R569). -/
def State.hostUp (s : State) (hp gen width : Nat) : State :=
  let pg := hifPage hp
  if s.linkUp hp || s.startStep < 6 || s.startResult == 3 || s.fatal || s.hostBad hp
      || !([4, 5, 6].contains gen) || !([1, 2, 4, 8].contains width) then s
  else
    let s := ((s.put pg R.HIF_LINK_STS_LINK_UP 1).put pg R.HIF_LINK_STS_GEN gen).put pg R.HIF_LINK_STS_WIDTH width
    (s.put pg R.HIF_LINK_STS_FLIT (if gen = 6 then 1 else 0)).intSet pg 1

/-- HOST_LINK_UP. -/
def execHostLinkUp (hp : Fin 2) (gen width : Nat) (s : State) : Host.Outcome State Fault Refusal :=
  .next (s.hostUp hp.val gen width)

/-- What a host-port reset resets: the HIF page of the port but for SCRATCH, which only its die's reset clears (R619), its configuration space, MSI-X table and PBA, SYN_OP and
SYN_RESULT of the port on every compute die, its request and its keys (R552, R564, R581). -/
def State.resetPort (s : State) (hp : Nat) : State :=
  let pg := hifPage hp
  let s : State := { s with
    regs := s.regs.filter fun e => e.1 == pg + R.CTL_SCRATCH.off || !(decide (pg ≤ e.1) && decide (e.1 < pg + 0x10000)) }
  let s := s.setPort hp {}
  let s := s.each [0, 1, 2, 3] fun s d =>
    (s.setWord (page d B.SYN + (R.SYN_OP hp).off) 0).setWord (page d B.SYN + (R.SYN_RESULT hp).off) 0
  let s : State := { s with perhal := { s.perhal with order := s.perhal.order.filter fun p => p != hp } }
  let s := ((s.put secPage (R.SEC_REQ_STATE hp) 0).put secPage (R.SEC_REQ_RESULT hp) 0).clearPort hp
  let s := if s.started then s.put pg R.STS_READY 1 else s
  s.settle

/-- A host-port reset: a link that was up goes down, and a drain that ran ends (R581, R590, R628). -/
def State.portReset (s : State) (hp : Nat) : State :=
  let pg := hifPage hp
  let up := s.linkUp hp
  let ran := s.drainState hp == Drain.RUNNING
  let s := s.resetPort hp
  let s := if up then (s.count pg C.HIF_LINK_DOWNS 1).intSet pg 1 else s
  if ran then s.drainEnd hp Drain.ABORTED 1 else s

/-- HOST_LINK_DOWN. -/
def execHostLinkDown (hp : Fin 2) (s : State) : Host.Outcome State Fault Refusal :=
  .next (if s.linkUp hp.val then s.portReset hp.val else s)

/-- HOST_PORT_RESET. -/
def execHostPortReset (hp : Fin 2) (s : State) : Host.Outcome State Fault Refusal := .next (s.portReset hp.val)

/-- The completion records that wait for a port go to its host, oldest first (R581). -/
def State.flushRecords (s : State) (hp : Nat) : State :=
  let mine (x : CplWait) : Bool := s.qf (x.queue / 64) (x.queue % 64) R.QUEUE_W3_CPL_SPACE == hp + 1
  let out := s.cplWait.filter mine
  let s : State := { s with cplWait := s.cplWait.filter fun x => !mine x }
  s.each out fun s x =>
    (s.cplRecord (x.queue / 64) (x.queue % 64) x.data x.irq).refreshOutstanding (x.queue / 64) (x.queue % 64)

/-- Max_Payload_Size takes the sizes up to 512 bytes (R571). -/
def payloadOf (old new : Nat) : Nat := if [128, 256, 512].contains new then new else old

/-- Sizes of BAR0, BAR2 and BAR4, and whether each is prefetchable (R572). All are 64 bits wide. -/
def barSizes : List (Nat × Bool) := [(2 ^ 27, false), (2 ^ 36, true), (2 ^ 21, false)]

/-- A base address register keeps the bits above its size. -/
def barBase (i v : Nat) : Nat :=
  let n := (barSizes.getD i (1, false)).1
  v / n * n

/-- BUS_MASTER_ENABLE: host software writes the configuration space with Bus Master Enable set (R571, R572, R576, R581). -/
def State.busMaster (s : State) (hp : Nat) (c : PortConfig) : State :=
  if s.linkUp hp && !s.fatal then
    let waits := !s.hostReach hp && s.drainState hp == Drain.RUNNING
    let h := s.port hp
    let send := if c.msix && !h.msix then h.pendingV.filter fun v => h.unmasked.contains v else []
    let bars := c.bars.foldl (fun t b => Table.set (fun _ => 0) t b.1.val (barBase b.1.val b.2.toNat)) h.bars
    let s := s.setPort hp { h with
      busMaster := true, msix := c.msix, payload := payloadOf h.payload c.payload, bars := bars
      pendingV := h.pendingV.filter fun v => !send.contains v }
    let s := s.each send fun s v => s.msix hp v
    let s := s.flushRecords hp
    if waits then s.drainCopy hp else s
  else s

/-- BUS_MASTER_ENABLE. -/
def execBusMasterEnable (hp : Fin 2) (c : PortConfig) (s : State) : Host.Outcome State Fault Refusal :=
  .next (s.busMaster hp.val c)

/-! What a port presents (R570–R573, R575). Configuration reads, and reads of BAR0 and BAR4, have no row of the table: the
definitions say what they return (log entry 33). -/

/-- The capabilities of function 0 (R570). -/
inductive Capability where
  | pciExpress
  | msiX
  | advancedErrorReporting
  | deviceSerialNumber (serial : Nat)
  | dataObjectExchange
  | integrityAndDataEncryption
deriving DecidableEq, Repr

/-- What configuration space shows of function 0, the only one. -/
structure Function where
  vendor       : Nat
  device       : Nat
  classCode    : Nat
  capabilities : List Capability
  /-- base address, size, prefetchable -/
  bars         : List (Nat × Nat × Bool)
  payload      : Nat
  /-- largest read request in bytes, and bits of a tag -/
  readSize     : Nat
  tagBits      : Nat
  relaxed      : Bool
  noSnoop      : Bool
deriving DecidableEq, Repr

/-- Function 0 of a port (R570–R572). -/
def State.function (s : State) (hp : Nat) : Function where
  vendor := 0x1F2A
  device := 0xAD40
  classCode := 0x120000
  capabilities := [.pciExpress, .msiX, .advancedErrorReporting, .deviceSerialNumber s.fuses.serial, .dataObjectExchange,
    .integrityAndDataEncryption]
  bars := tabulate (fun i => (Table.get (fun _ => 0) (s.port hp).bars i, barSizes.getD i (0, false))) 3
  payload := (s.port hp).payload
  readSize := 4096
  tagBits := if s.on (hifPage hp) R.HIF_LINK_STS_FLIT then 14 else 10
  relaxed := false
  noSnoop := false

/-- The word at an aligned offset of BAR4, 8 bytes: an entry of the MSI-X table, the pending bits, or zero (R575). -/
def State.bar4Word (s : State) (hp off : Nat) : Nat :=
  let h := s.port hp
  if 0x100000 ≤ off ∧ off < 0x108000 then
    let v := (off - 0x100000) / 16
    let e := Table.get (fun _ => (0, 0)) h.vectors v
    if off % 16 = 0 then e.1 else e.2 + (if h.unmasked.contains v then 0 else 2 ^ 32)
  else if 0x180000 ≤ off ∧ off < 0x180100 then
    maskOf 64 fun i => h.pendingV.contains (64 * ((off - 0x180000) / 8) + i)
  else 0

/-! The I3C target's image delivery (R582, R583). -/

/-- Its static address for SETDASA (R582); the dynamic one that the bus assigns is in the state. -/
def i3cStatic : Nat := 0x3A

abbrev I3c.OK : Nat := 0
abbrev I3c.DENIED : Nat := 1
abbrev I3c.BUSY : Nat := 2
abbrev I3c.BAD_CMD : Nat := 3

/-- Whether the target answers: from row 1 on (R582), and no image command once a last waltz is DONE (R534). -/
def State.i3cUp (s : State) : Bool := s.startStep != 0

/-- Whether it takes commands: not once a last waltz is DONE (R534). -/
def State.i3cTakes (s : State) : Bool := s.lwState != 2

/-- STATUS and result of a command, which a private read returns until the next (R583). -/
def State.i3cAnswer (s : State) (status : Nat) (data : List Byte) : State :=
  { s with i3c := { s.i3c with last := (status, data) } }.tell (.i3c status data)

/-- A private read. -/
def State.i3cPrivateRead (s : State) : List Byte := BitVec.ofNat 8 s.i3c.last.1 :: s.i3c.last.2

/-- The command bytes of the table (R583). Each has a row; any other byte is answered BAD_CMD. -/
def State.i3cOther (s : State) (byte : Nat) : State :=
  if [0x01, 0x02, 0x10, 0x11, 0x12].contains byte then s else s.i3cAnswer I3c.BAD_CMD []

/-- IMG_WRITE: 256 bytes into a region. -/
def State.imgWrite (s : State) (region off : Nat) (data : List Byte) : State :=
  let p := s.perhal
  let put (t : Table Byte) : Table Byte :=
    forUpto (fun i t => Table.set (fun _ => 0) t (off + i) (data.getD i 0)) 256 t
  if !s.i3cUp then s
  else if 1 < region ∨ off % 256 ≠ 0 ∨ data.length ≠ 256 then s.i3cAnswer I3c.BAD_CMD []
  else if !s.i3cTakes then s.i3cAnswer I3c.DENIED []
  else if region = 0 then
    if p.imgLen.isSome || decide (0x400000 < off + 256) then s.i3cAnswer I3c.DENIED []
    else ({ s with perhal := { p with img := put p.img, received := p.received + 256 } } : State).i3cAnswer I3c.OK []
  else
    if p.chainLen.isSome || decide (0x4000 < off + 256) then s.i3cAnswer I3c.DENIED []
    else ({ s with perhal := { p with chain := put p.chain } } : State).i3cAnswer I3c.OK []

/-- IMG_WRITE. -/
def execImgWrite (region offset : Nat) (data : List Byte) (s : State) : Host.Outcome State Fault Refusal :=
  .next (s.imgWrite region offset data)

/-- IMG_DONE completes a region. -/
def State.imgDone (s : State) (region len : Nat) : State :=
  let p := s.perhal
  if !s.i3cUp then s
  else if 1 < region ∨ 2 ^ 32 ≤ len then s.i3cAnswer I3c.BAD_CMD []
  else if !s.i3cTakes then s.i3cAnswer I3c.DENIED []
  else if region = 0 then
    if p.imgLen.isSome || decide (0x400000 < len) then s.i3cAnswer I3c.DENIED []
    else ({ s with perhal := { p with imgLen := some len } } : State).i3cAnswer I3c.OK []
  else
    if p.chainLen.isSome || decide (0x4000 < len) then s.i3cAnswer I3c.DENIED []
    else ({ s with perhal := { p with chainLen := some len } } : State).i3cAnswer I3c.OK []

/-- IMG_DONE. -/
def execImgDone (region length : Nat) (s : State) : Host.Outcome State Fault Refusal := .next (s.imgDone region length)

/-- IMG_STATUS: FW_RESULT, then the count of image bytes received. -/
def State.imgStatus (s : State) : State :=
  if !s.i3cUp then s
  else if !s.i3cTakes then s.i3cAnswer I3c.DENIED []
  else s.i3cAnswer I3c.OK (leBytes 1 (s.fld secPage R.SEC_FW_STS_FW_RESULT) ++ leBytes 4 s.perhal.received)

/-- IMG_STATUS. -/
def execImgStatus (s : State) : Host.Outcome State Fault Refusal := .next s.imgStatus

end Sys2Proof.Machine
end

