-- ==== Sys2Proof/Machine/Perf.lean ====
section
/-! DEFINITION. Performance monitoring (R591–R610): the wrap of a counter, the tag of a sampled dispatch, the marker token at
the floor, and the writes of the monitoring registers. -/

namespace Sys2Proof.Machine

/-- COUNTER_OVERFLOW: a counter passes 2^48 − 1 (R593, R594). -/
def State.overflow (s : State) (d index : Nat) : State :=
  match counterAddr d index with
  | some a => if s.fatal || (d < 4 && !s.present d) then s else s.countAtBy State.msix a (2 ^ 48 - s.word a % 2 ^ 48) 1024
  | none => s

/-- COUNTER_OVERFLOW. -/
def execCounterOverflow (d : Fin 5) (index : Nat) (s : State) : Host.Outcome State Fault Refusal := .next (s.overflow d.val index)

/-- SAMPLE_TAG (R602, steps 3 and 4). -/
def execSampleTag (d : Fin 4) (s : State) : Host.Outcome State Fault Refusal := .next (s.resolveTag d.val)

/-- A FLOOR_MARKER record of a token (R604, R606). -/
def State.floorMarker (s : State) (t : Token) (part : Nat) : State :=
  let r := s.stampIslands (0x400 + 0x18 * part) 24
  let head := tabulate (fun i => wordAt t.head i + (if i = 2 then part else if i = 3 then stampValid r.1 else 0)) 8
  r.2.pmuRecord 4 (head ++ stampWords r.1)

/-- MARKER_TOKEN: the oldest token of a die reaches the floor PMU (R606). -/
def State.markerToken (s : State) (d : Nat) : State :=
  match s.tokens.find? fun x => x.1 == d with
  | none => s
  | some x =>
    let s : State := { s with tokens := dropFirst (fun y => y.1 == d) s.tokens }
    let s := s.count (page 4 B.PMU) C.PMU_MARKERS_RECEIVED 1
    if s.on (page 4 B.PMU) R.PMU_BUF_CTL_EN then (s.floorMarker x.2 0).floorMarker x.2 1 else s

/-- MARKER_TOKEN. -/
def execMarkerToken (d : Fin 4) (s : State) : Host.Outcome State Fault Refusal := .next (s.markerToken d.val)

/-- A write of a ring's control word: EN in bit 8 and SIZE in bits [4:0] (R208, R609). The ring of `rec`-byte records at the
base held in `base` must lie in the DRAM window or the staging window. -/
def State.ringCtl (s : State) (pg : Nat) (base : Fld) (off lo hi rec v : Nat) : State :=
  let old := s.word (pg + off)
  let en := bitOn old 8
  let want := bits v 0 5
  let size := if en || decide (want < lo) || decide (hi < want) then bits old 0 5 else want
  let on := bitOn v 8 && (en || inDramOrStaging (s.fld pg base) (2 ^ size * rec))
  s.setWord (pg + off) ((if on then 256 else 0) + size)

/-- A write of PMU_SAMPLE_CTL; EN set from 0 to 1 seeds the sampler (R602, step 1, R608). -/
def State.sampleCtl (s : State) (d v : Nat) : State :=
  let pg := page d B.PMU
  let was := s.on pg R.PMU_SAMPLE_CTL_EN
  let per := bits v 8 5
  let s := (s.put pg R.PMU_SAMPLE_CTL_SEED (bits v 32 32)).put pg R.PMU_SAMPLE_CTL_KINDS (bits v 16 5)
  let s := if 4 ≤ per ∧ per ≤ 24 then s.put pg R.PMU_SAMPLE_CTL_PERIOD per else s
  let s := s.put pg R.PMU_SAMPLE_CTL_EN (bits v 0 1)
  if !was && bitOn v 0 then
    let r := max 1 (bits v 32 32)
    s.setSampler d { s.sampler d with r := r, count := countdownOf r (s.fld pg R.PMU_SAMPLE_CTL_PERIOD), due := none }
  else s

end Sys2Proof.Machine
end

