-- ==== Sys2Proof/Machine/HostRegs.lean ====
section
/-! DEFINITION. The register port (R9, R19, R31, R530, R573, R611–R629): which pages answer, what a write does to each
register of the map, and what a read returns. Log entry 34 has the readings. -/

namespace Sys2Proof.Machine

/-! Pages (R19, R530, R534, R539, R560, R614). -/

/-- Whether a page answers reads. -/
def State.pageReads (s : State) (die i : Nat) : Bool :=
  let first := die == 4 && (i == B.CAP || i == B.PWR)
  pageExists die i && !s.fatal &&
    (if s.startResult = 3 ∨ s.lwState = 2 then first
     else if s.started then (die == 4 || s.present die)
     else decide (6 ≤ s.startStep) && die == 4 && (i == B.CAP || i == B.PWR || i == B.BST || i == B.SEC))

/-- Whether a page takes writes: after a last waltz that is DONE none does (R534). -/
def State.pageWrites (s : State) (die i : Nat) : Bool := s.pageReads die i && s.lwState != 2

/-- Whether the debug range answers (R560, R613). -/
def State.debugOpen (s : State) : Bool := [0, 1, 3].contains s.lifeCycle

/-- Whether a write reaches the debug range of a page while it answers. -/
def State.debugHit (s : State) (a : Nat) : Bool :=
  s.pageWrites (a / 0x1000000) (a / 0x10000 % 0x100) && s.debugOpen && decide (0xC000 ≤ a % 0x10000)

/-! Plain registers (R9). -/

/-- A write of the RW and W1C bits of a register. -/
def State.plain (s : State) (a v : Nat) : State :=
  let m := writeMasks (a / 0x1000000) ((blockOf (a / 0x10000 % 0x100)).getD 0) (a % 0x10000)
  let rw := BitVec.ofNat 64 m.1
  let w1c := BitVec.ofNat 64 m.2
  let o := BitVec.ofNat 64 (s.word a)
  let n := BitVec.ofNat 64 v
  s.setWord a ((o &&& ~~~rw &&& ~~~(w1c &&& n)) ||| (n &&& rw)).toNat

/-- A write that replaces a field only by a value in a range. -/
def State.ranged (s : State) (pg : Nat) (f : Fld) (lo hi v : Nat) : State :=
  if lo ≤ v ∧ v ≤ hi then s.put pg f v else s

/-! The common header (R505, R622–R624, R629). -/

/-- A write of INT_STS clears the bits written 1. -/
def State.intStsWrite (s : State) (pg v : Nat) : State :=
  s.intChange pg fun s => s.put pg R.INT_STS_CAUSE (s.fld pg R.INT_STS_CAUSE - (s.fld pg R.INT_STS_CAUSE &&& v))

/-- A write of INT_EN sets the bits that the page defines, and can make it pending. -/
def State.intEnable (s : State) (pg v : Nat) : State :=
  s.intChange pg fun s => s.put pg R.INT_EN_ENABLE (bits v 0 16 &&& bits (s.word (pg + 8)) 0 16)

/-- A host fence of an array (R119, R505), and its end. -/
def State.fenceArray (s : State) (d : Nat) (fence : Bool) : State :=
  let pg := page d B.ARY
  if fence then
    if s.on pg R.FENCE_HOST_FENCE then s
    else
      let e : ErrEvent := ⟨.arrayUnusable, Fin.ofNat 5 d, B.ARY, 0, d, 0, 0⟩
      let s := (s.put pg R.FENCE_HOST_FENCE 1).hitOperation e
      if s.hwFences.contains pg then s
      else
        let s := if s.on pg R.ARY_MODE_ARRAY_USABLE then (s.put pg R.ARY_MODE_ARRAY_USABLE 0).intSet pg 1 else s
        ((s.report e { fenced := true }).capDie d).refreshGrand
  else
    let s := s.put pg R.FENCE_HOST_FENCE 0
    if s.hwFences.contains pg then s else ((s.put pg R.ARY_MODE_ARRAY_USABLE 1).capDie d).refreshGrand

/-- A host fence of an optical port, and its end. -/
def State.fenceOptical (s : State) (n : Nat) (fence : Bool) : State :=
  let pg := opxPage n
  if fence then
    if s.on pg R.FENCE_HOST_FENCE then s
    else
      let s := s.put pg R.FENCE_HOST_FENCE 1
      if s.portFenced n then s
      else (((s.portDown n).capPort n).report ⟨.portFenced, 4, B.OPX + n, n, 2 * n, 0, 0⟩ { fenced := true })
  else (s.put pg R.FENCE_HOST_FENCE 0).capPort n

/-- A write of FENCE; pages without the bit ignore it (R624). -/
def State.fenceReg (s : State) (die i v : Nat) : State :=
  let fence := bitOn v 0
  if die < 4 ∧ i = B.ARY then s.fenceArray die fence
  else if die = 4 ∧ B.MCT ≤ i ∧ i < B.MCT + 16 then
    (if fence then (s.put (page 4 i) R.FENCE_HOST_FENCE 1).fenceStack (i - B.MCT) false else s)
  else if die = 4 ∧ B.OPX ≤ i ∧ i < B.OPX + 16 then s.fenceOptical (i - B.OPX) fence
  else s

/-! Queue table, arbiters and resumption (R249, R252, R286, R287, R513). -/

/-- Whether a write that sets EN is refused, by the entry's fields as written (R249). -/
def State.enableRefused (s : State) (d q : Nat) : Bool :=
  let f (x : Nat → Fld) : Nat := s.qf d q x
  let bytes := if f R.QUEUE_W1_LEGACY = 1 then 32 else 64
  ((List.range 64).any fun r => r != q && s.qf d r R.QUEUE_W1_EN == 1 && s.callerOf d r == s.callerOf d q
      && s.ctxOf d r != s.ctxOf d q)
    || (f R.QUEUE_W1_PROGRAM == 1 && f R.QUEUE_W1_LEGACY == 1)
    || (f R.QUEUE_W1_PROGRAM == 1 && f R.QUEUE_W1_SPACE != 0)
    || f R.QUEUE_W1_SPACE == 3 || f R.QUEUE_W3_CPL_SPACE == 3 || f R.QUEUE_W1_OUTSTANDING == 1
    || (f R.QUEUE_W1_SPACE == 0 && !s.named d (s.ctxOf d q) (f R.QUEUE_W0_BASE * 64) (2 ^ f R.QUEUE_W1_SIZE * bytes))
    || (f R.QUEUE_W3_CPL_SPACE == 0
        && !s.named d (s.ctxOf d q) (f R.QUEUE_W3_CPL_BASE * 64) (2 ^ f R.QUEUE_W4_CPL_SIZE * 64))

/-- What a caller keeps of a queue's head goes, a registered wait with it. -/
def State.forgetHead (s : State) (d q : Nat) : State :=
  let k := queueNo d q
  let s : State := { s with waits := s.waits.filter fun w => w.queue != k }
  s.setQueue k { s.queue k with wait := .idle, waited := 0, promoted := false, fetched := none, since := 0 }

/-- An accepted EN zeroes the pointers (R286), and the caller starts afresh with the queue; a bracket that the queue still holds
open counts its commands from here on (log entry 34). -/
def State.enable (s : State) (d q : Nat) : State :=
  let s := (s.qput d q R.QUEUE_W2_HEAD 0).qput d q R.QUEUE_W2_TAIL 0
  let s := ((s.qput d q R.QUEUE_W5_FETCH 0).qput d q R.QUEUE_W4_CPL_HEAD 0).qput d q R.QUEUE_W5_CPL_TAIL 0
  let s := s.mapBracket d (s.ctxOf d q) fun b => if b.queue = q then { b with taken := 0 } else b
  (s.setQueue (queueNo d q) {}).qput d q R.QUEUE_W1_EN 1

/-- Fetch stops: the registered wait of the head is withdrawn (log entry 34). -/
def State.disable (s : State) (d q : Nat) : State :=
  let s := if s.chosenOf d (s.callerOf d q) = some q then s.choose d (s.callerOf d q) none else s
  (s.forgetHead d q).qput d q R.QUEUE_W1_EN 0

/-- A write of word 1 of a queue-table entry. -/
def State.queueCtl (s : State) (d q v : Nat) : State :=
  let was := s.qf d q R.QUEUE_W1_EN == 1
  let locked := was || s.qf d q R.QUEUE_W1_OUTSTANDING == 1
  let s := if bitOn v 45 then s.qput d q R.QUEUE_W1_DB_OVERRUN 0 else s
  let s :=
    if locked then s
    else
      let s := (s.qput d q R.QUEUE_W1_PROGRAM (bits v 61 1)).qput d q R.QUEUE_W1_LEGACY (bits v 60 1)
      let s := (s.qput d q R.QUEUE_W1_CONTEXT (bits v 59 1)).qput d q R.QUEUE_W1_SPACE (bits v 57 2)
      let s := (s.qput d q R.QUEUE_W1_OWNER (bits v 56 1)).qput d q R.QUEUE_W1_CALLER (bits v 51 3)
      let s := if bits v 54 2 = 3 then s else s.qput d q R.QUEUE_W1_CLASS (bits v 54 2)
      (s.ranged (page d B.CAL) (R.QUEUE_W1_SIZE q) 4 16 (bits v 46 5)).qput d q R.QUEUE_W1_VECTOR (bits v 0 11)
  let ran := s.qf d q R.QUEUE_W1_RUN
  let s := s.qput d q R.QUEUE_W1_RUN (bits v 62 1)
  let s := if ran = 0 ∧ bitOn v 62 = true then (s.qput d q R.QUEUE_W5_FETCH 0).forgetHead d q else s
  let s := if ran = 1 ∧ bitOn v 62 = false ∧ s.qf d q R.QUEUE_W1_PROGRAM = 1 then s.forgetHead d q else s
  if bitOn v 63 then (if was || s.enableRefused d q then s else s.enable d q)
  else if was then s.disable d q else s

/-- A write of the queue table. -/
def State.queueWrite (s : State) (d q w v : Nat) : State :=
  let pg := page d B.CAL
  let locked := s.qf d q R.QUEUE_W1_EN == 1 || s.qf d q R.QUEUE_W1_OUTSTANDING == 1
  match w with
  | 0 => if locked then s else s.put pg (R.QUEUE_W0_BASE q) (bits v 6 58)
  | 1 => s.queueCtl d q v
  | 3 => if locked then s else (s.put pg (R.QUEUE_W3_CPL_BASE q) (bits v 6 58)).put pg (R.QUEUE_W3_CPL_SPACE q) (bits v 4 2)
  | 4 => if locked then s else s.ranged pg (R.QUEUE_W4_CPL_SIZE q) 4 16 (bits v 0 5)
  | 5 => s.put pg (R.QUEUE_W5_CPL_TAIL q) (bits v 0 32)
  | _ => s

/-- A write of CAL_RESUME: it is held for the halted callers it names (R513, R516). -/
def State.resume (s : State) (d v : Nat) : State :=
  let pg := page d B.CAL
  (s.put pg R.CAL_RESUME_RESUME (s.fld pg R.CAL_RESUME_RESUME ||| (bits v 0 8 &&& s.fld pg R.CAL_RESUME_HALTED))).resumeMaybe d

/-- A write to CAL. -/
def State.calWrite (s : State) (d off v : Nat) : State :=
  if 0x1000 ≤ off ∧ off < 0x2000 then s.queueWrite d ((off - 0x1000) / 64) (off % 64 / 8) v
  else if off = 0x108 then s.ranged (page d B.CAL) R.CAL_ARB_BOUND_BOUND 256 65536 (bits v 0 17)
  else if off = 0x110 then s.resume d v
  else s

/-! Sync cells (R268, R289–R291). -/

/-- A write of SYN_OP through its own port: the operation applies at once, and SYN_RESULT shows the value that it leaves;
OP 3 is ignored. -/
def State.synOp (s : State) (d p v : Nat) : State :=
  let pg := page d B.SYN
  let op := bits v 30 2
  let c := cellNo d (bits v 0 14)
  if op = 3 then s
  else
    let value := (if op = 0 then s.cell c else if op = 1 then bits v 32 32 else s.cell c + bits v 32 32) % 2 ^ 32
    let s := if op = 0 then s else s.signal ⟨c, op == 1, bits v 32 32⟩ .host
    (s.put pg (R.SYN_RESULT_VALUE p) value).put pg (R.SYN_RESULT_DONE p) 1

/-- A write to SYN. -/
def State.synWrite (s : State) (port d off v : Nat) : State :=
  let a := page d B.SYN + off
  if off = 0x100 ∨ off = 0x108 then (if (off - 0x100) / 8 = port then s.synOp d port v else s)
  else if off = 0x120 then (if 16384 < bits v 0 14 + bits v 32 15 then s else s.plain a v)
  else if 0x1000 ≤ off ∧ off < 0x1100 then (s.plain a v).testWatches (cellNo d (bits v 44 14))
  else s

/-! Job contexts (R209, R210, R283, R294). -/

/-- Whether a valid entry of a context's partition table overlaps an inclusive range of units. -/
def State.overlaps (s : State) (d ctx lo hi : Nat) : Bool :=
  let pg := partBase d ctx
  (List.range 16).any fun n =>
    s.on pg (R.PARTITION_W0_VALID n) && decide (max lo (s.fld pg (R.PARTITION_W0_BASE n)) ≤ min hi (s.fld pg (R.PARTITION_W1_LIMIT n)))

/-- A write of word 0 of a partition entry. -/
def State.partition (s : State) (d ctx n v : Nat) : State :=
  let pg := partBase d ctx
  let valid := s.on pg (R.PARTITION_W0_VALID n)
  if valid && bitOn v 63 then s
  else
    let s := (s.put pg (R.PARTITION_W0_BASE n) (bits v 0 36)).put pg (R.PARTITION_W0_VALID n) 0
    if !bitOn v 63 then s
    else if s.overlaps d (1 - ctx) (bits v 0 36) (s.fld pg (R.PARTITION_W1_LIMIT n)) then
      (s.put (page d B.JCX) (if ctx = 0 then R.JCX_CTX_CTL_OVERLAP_PRI else R.JCX_CTX_CTL_OVERLAP_CUT) 1).intSet (page d B.JCX) 2
    else s.put pg (R.PARTITION_W0_VALID n) 1

/-- A write of STEP: a new step has no gate evaluated (R209). -/
def State.stepWrite (s : State) (d ctx v : Nat) : State :=
  (s.put (page d B.JCX) (R.JCX_STEP_STEP ctx) (bits v 0 32)).put (page d B.JCX) (R.JCX_NUM_STS_GATE_DONE ctx) 0

/-- A write to JCX. -/
def State.jcxWrite (s : State) (d off v : Nat) : State :=
  let a := page d B.JCX + off
  if off = 0x100 ∨ off = 0x108 then s.stepWrite d ((off - 0x100) / 8) v
  else if off = 0x110 ∨ off = 0x118 then (if bitOn v 24 then s.setCause d ((off - 0x110) / 8) causeBit.forced else s)
  else if off = 0x130 ∨ off = 0x138 then s.plain a v
  else if 0x1000 ≤ off ∧ off < 0x1200 then
    let ctx := (off - 0x1000) / 0x100
    let n := (off - 0x1000) % 0x100 / 16
    if off % 16 = 0 then s.partition d ctx n v
    else if s.on (partBase d ctx) (R.PARTITION_W0_VALID n) then s else s.plain a v
  else s

/-! Numerics and monitoring (R206–R208, R608–R610). -/

/-- A write to NUM. -/
def State.numWrite (s : State) (d off v : Nat) : State :=
  let pg := page d B.NUM
  if off = 0x100 ∨ off = 0x108 then (if bits v 0 52 % pageBytes = 0 then s.plain (pg + off) v else s)
  else if off = 0x110 then
    let s := (s.put pg R.NUM_HIST_DEPTH_MARGIN_CUT (bits v 24 3)).put pg R.NUM_HIST_DEPTH_MARGIN_PRI (bits v 8 3)
    (s.ranged pg R.NUM_HIST_DEPTH_DEPTH_CUT 1 16 (bits v 16 5)).ranged pg R.NUM_HIST_DEPTH_DEPTH_PRI 1 16 (bits v 0 5)
  else if off = 0x120 then (if s.on pg R.NUM_EVT_CTL_EN then s else s.plain (pg + off) v)
  else if off = 0x128 then s.ringCtl pg R.NUM_EVT_BASE_BASE off 6 16 64 v
  else if off = 0x138 ∨ off = 0x180 then s.plain (pg + off) v
  else s

/-- A write to PMU. The floor has no sampler, and half the words of the chain and overflow tables. -/
def State.pmuWrite (s : State) (d off v : Nat) : State :=
  let pg := page d B.PMU
  let n := if d = 4 then 64 else 128
  if off = 0x100 then (if d = 4 then s else s.sampleCtl d v)
  else if off = 0x108 then (if s.on pg R.PMU_BUF_CTL_EN then s else s.plain (pg + off) v)
  else if off = 0x110 then s.ringCtl pg R.PMU_BUF_BASE_BASE off 4 16 256 v
  else if off = 0x120 then s.plain (pg + off) v
  else if (0x1000 ≤ off ∧ off < 0x1000 + n) ∨ (0x1100 ≤ off ∧ off < 0x1100 + n) then s.plain (pg + off) v
  else s

/-! Memory, optical ports and dies (R234, R241–R244, R313, R343, R352–R357). -/

/-- A write of a retire-table entry that is not in force: VALID = 1 requests the retirement of a DRAM page (R234). -/
def State.retireWrite (s : State) (n v : Nat) : State :=
  if s.on (mctPage 0) (R.RETIRE_TABLE_VALID n) then s
  else
    let s := s.put (mctPage 0) (R.RETIRE_TABLE_FAULT_PAGE n) (bits v 0 20)
    if bitOn v 63 && decide (bits v 0 20 < dramEnd / pageBytes) then
      let t := s.openPch 0
      t.2.retire ⟨bits v 0 20, some n, 0, t.1⟩
    else s

/-- A write to the page of MCT `n`. -/
def State.mctWrite (s : State) (n off v : Nat) : State :=
  if off = 0x100 then s.plain (mctPage n + off) v
  else if n ≠ 0 then s
  else if off = 0x110 then
    (if (List.range 1024).any fun k => s.on (mctPage 0) (R.RETIRE_TABLE_VALID k) then s else s.plain (mctPage 0 + off) v)
  else if 0x1000 ≤ off ∧ off < 0x3000 then s.retireWrite ((off - 0x1000) / 8) v
  else s

/-- A write of OPX_PORT_CTL: an enable that changes moves its sub-link; in a port fenced for a second fault a 1 is ignored
(R343, R345, R509). -/
def State.portCtl (s : State) (n v : Nat) : State :=
  let pg := opxPage n
  let old := s.fld pg ⟨0x100, 0, 2⟩
  let new := if s.portFenced n then bits v 0 2 &&& old else bits v 0 2
  let s := ((s.put pg R.OPX_PORT_CTL_FEED_PREF (bits v 5 1)).put pg R.OPX_PORT_CTL_GEN1_ALLOW (bits v 4 1)).put pg ⟨0x100, 0, 2⟩ new
  s.each [0, 1] fun s k =>
    if bitOn new k && !bitOn old k then s.subOn (2 * n + k)
    else if bitOn old k && !bitOn new k then s.subOff (2 * n + k) else s

/-- A write to the page of optical port `n`. -/
def State.opxWrite (s : State) (n off v : Nat) : State :=
  let pg := opxPage n
  if off = 0x100 then s.portCtl n v
  else if off = 0x120 ∨ off = 0x130 then s.plain (pg + off) v
  else if off = 0x128 then
    if s.on pg R.OPX_OTDR_STS_BUSY then s
    else
      let s := s.plain (pg + off) v
      if bitOn v 31 then s.otdrBegin n else s
  else s

/-- A write to the floor's D2D page. -/
def State.d2dWrite (s : State) (off v : Nat) : State :=
  if 0x100 ≤ off ∧ off < 0x120 then (if bitOn v 1 then s.resetRequest ((off - 0x100) / 8) else s)
  else if off = 0x120 then s.plain (d2dFloor + off) v
  else s

/-! Collectives, figures and snapshots (R383, R399–R406, R433, R440, R443, R466, R469, R474, R488–R490). -/

/-- The bits of a register that a plain write sets. -/
def rwBits (a v : Nat) : Nat :=
  v &&& (writeMasks (a / 0x1000000) ((blockOf (a / 0x10000 % 0x100)).getD 0) (a % 0x10000)).1

/-- CLEAR zeroes every statistics entry (R402). -/
def State.clearStats (s : State) : State := (forUpto (fun i s => s.setWord (clxPage + 0x5000 + 8 * i) 0) 256 s).noiseTotal

/-- A write to CLX. -/
def State.clxWrite (s : State) (off v : Nat) : State :=
  let a := clxPage + off
  if off = 0x100 then
    ({ s with clx := { s.clx with layout := some (rwBits a v) } } : State).put clxPage R.CLX_EPOCH_STS_SWITCH_PENDING 1
  else if off = 0x108 then
    ({ s with clx := { s.clx with pos := some (rwBits a v) } } : State).put clxPage R.CLX_EPOCH_STS_SWITCH_PENDING 1
  else if off = 0x110 then (if bitOn v 9 then (s.plain a v).clearStats else s.plain a v)
  else if off = 0x120 then s.plain a v
  else if 0x1000 ≤ off ∧ off < 0x5000 then
    let n := (off - 0x1000) / 16
    let valid := s.on clxPage (R.SHARD_W0_VALID n)
    if off % 16 = 8 then (if valid then s else s.plain a v)
    else if valid then (if bitOn v 63 then s else s.put clxPage (R.SHARD_W0_VALID n) 0)
    else if bitOn v 63 then ((s.plain a v).put clxPage (R.SHARD_W0_WRITTEN n) 0).put clxPage (R.SHARD_W1_WGEN n) 0
    else s.plain a v
  else s

/-- A write to FIG. -/
def State.figWrite (s : State) (off v : Nat) : State :=
  let a := figPage + off
  if off = 0x100 ∨ off = 0x110 then s.plain a v
  else if 0x1000 ≤ off ∧ off < 0x1100 then
    let e := (off - 0x1000) / 8
    let t : State := { s with clx := { s.clx with peers := (s.clx.peers.filter fun x => x.1 != e) ++ [(e, rwBits a v)] } }
    t.put figPage (R.PEER_TABLE_PENDING e) 1
  else if 0x2000 ≤ off ∧ off < 0x3000 then
    (if s.fig.started && s.figure == (off - 0x2000) / 0x200 then s else s.plain a v)
  else s

/-- A write of word 0 of a refill entry: ABORT is set by a 1 (R9), and an entry that leaves the table leaves it 0 (DESIGN
CHOICE, log entry 24). -/
def State.refillWrite (s : State) (n v : Nat) : State :=
  let st := s.fld snpPage (R.REFILL_W0_STATE n)
  let s := if bitOn v 62 then s.put snpPage (R.REFILL_W0_ABORT n) 1 else s
  if s.on snpPage (R.REFILL_W0_VALID n) then
    if bitOn v 62 && st == 0 then s.refillEnd n 3 Cause.HOST_ABORT
    else if bitOn v 62 && st == 1 then s.refillAborts n Cause.HOST_ABORT true
    else if !bitOn v 63 && (st == 2 || st == 3) then
      (s.put snpPage (R.REFILL_W0_VALID n) 0).put snpPage (R.REFILL_W0_ABORT n) 0
    else s
  else
    let s := s.plain (snpPage + (R.REFILL_W0 n).off) v
    if bitOn v 63 then
      let s := ((s.put snpPage (R.REFILL_W0_STATE n) 0).put snpPage (R.REFILL_W0_RESULT n) 0).put snpPage (R.REFILL_W1_BAD_PAGES n) 0
      if s.on snpPage (R.REFILL_W0_ABORT n) then s.refillEnd n 3 Cause.HOST_ABORT else s
    else s

/-- A write to SNP. While a promenade, at its source or its holder, or a refill runs, writes of SNP_CTL, the banks,
SNP_PBANK_PAGES and the extent table are ignored. -/
def State.snpWrite (s : State) (off v : Nat) : State :=
  let a := snpPage + off
  let runs := s.snp.prom.isSome || s.snp.inProm.isSome || !s.snp.refills.isEmpty
  if runs ∧ (off = 0x110 ∨ (0x120 ≤ off ∧ off ≤ 0x140) ∨ (0x1000 ≤ off ∧ off < 0x1080)) then s
  else if off = 0x100 ∨ off = 0x108 then (if s.pages.any fun e => e.2.armed then s else s.plain a v)
  else if off = 0x118 then
    ({ s with clx := { s.clx with partner := some (rwBits a v) } } : State).put snpPage R.SNP_PARTNER_PENDING 1
  else if off = 0x188 then
    if bitOn v 0 then
      let s := s.put snpPage R.SNP_DRAIN_REQ 1
      if s.fld snpPage R.SNP_DRAIN_STATE = 0 then s.put snpPage R.SNP_DRAIN_STATE 1 else s
    else s
  else if 0x1100 ≤ off ∧ off < 0x1180 then
    let n := (off - 0x1100) / 16
    if off % 16 = 0 then s.refillWrite n v
    else if s.on snpPage (R.REFILL_W0_VALID n) then s else s.plain a v
  else s.plain a v

/-! Perhal and the host ports (R564, R567, R587–R589). -/

/-- Whether a port's request is QUEUED or RUNNING. -/
def State.requestBusy (s : State) (p : Nat) : Bool :=
  s.fld secPage (R.SEC_REQ_STATE p) == 1 || s.fld secPage (R.SEC_REQ_STATE p) == 2

/-- A write to SEC: request and mailbox of a port through that port only. -/
def State.secWrite (s : State) (port off v : Nat) : State :=
  if off = 0x118 then s.plain (secPage + off) v
  else if off = 0x120 ∨ off = 0x128 then
    let p := (off - 0x120) / 8
    if p ≠ port ∨ s.requestBusy p = true then s
    else
      let s := (s.put secPage (R.SEC_REQ_ARG p) (bits v 8 8)).put secPage (R.SEC_REQ_OP p) (bits v 0 8)
      if bitOn v 32 then s.submit p else s
  else if 0x1000 ≤ off ∧ off < 0x7000 then
    (if (off - 0x1000) / 0x3000 = port && !s.requestBusy port then s.setWord (secPage + off) v else s)
  else s

/-- A write to the HIF page of a port. -/
def State.hifWrite (s : State) (hp off v : Nat) : State :=
  let pg := hifPage hp
  let runs := s.drainState hp == Drain.RUNNING
  if off = 0x108 ∨ off = 0x138 then s.plain (pg + off) v
  else if off = 0x140 ∨ off = 0x148 then (if runs then s else s.plain (pg + off) v)
  else if off = 0x150 then
    if runs then (if bitOn v 62 then s.drainAbort hp else s)
    else
      let s := s.put pg R.HIF_DRAIN_CTL_PAGES (bits v 0 15)
      if bitOn v 63 then s.drainGo hp else s
  else s

/-! Every register. -/

/-- A write of a block's own registers, offsets 0x100–0x7FFF. -/
def State.blockWrite (s : State) (port die i off v : Nat) : State :=
  let a := page die i + off
  match (blockOf i).getD 0 with
  | 0x01 => if die = 4 ∧ off = 0x100 then s.lwWrite v else s
  | 0x02 => if off = 0x108 then s.errTail die (bits v 0 32) else s
  | 0x03 => s.pmuWrite die off v
  | 0x05 => if die = 4 then s.d2dWrite off v else s
  | 0x08 => if off = 0x100 then (s.plain a v).refreshGrand else s
  | 0x0B => s.calWrite die off v
  | 0x0C => s.synWrite port die off v
  | 0x0D => s.jcxWrite die off v
  | 0x0E => s.numWrite die off v
  | 0x10 => if off = 0x100 then s.ranged (page 4 B.STG) R.STG_ARB_BOUND_BOUND 256 65536 (bits v 0 17) else s
  | 0x12 => s.figWrite off v
  | 0x13 => s.clxWrite off v
  | 0x14 => s.snpWrite off v
  | 0x16 => s.secWrite port off v
  | 0x18 => s.hifWrite (i - B.HIF) off v
  | 0x20 => s.mctWrite (i - B.MCT) off v
  | 0x30 => s.opxWrite (i - B.OPX) off v
  | _ => s

/-- A write of a counter sets its low 48 bits (R593). -/
def State.counterSet (s : State) (a v : Nat) : State :=
  if counterAddr (a / 0x1000000) (counterIndex a) = some a then (s.rebase a (v % 2 ^ 48)).setWord a (v % 2 ^ 48) else s

/-- An aligned 8-byte write of BAR0 through a port. -/
def State.writeReg (s : State) (port a v : Nat) : State :=
  let die := a / 0x1000000
  let i := a / 0x10000 % 0x100
  let off := a % 0x10000
  let pg := page die i
  if !s.pageWrites die i then s
  else if off = 0x10 ∨ off = 0x20 ∨ off = 0x28 then s.plain a v
  else if off = 0x30 then s.intStsWrite pg v
  else if off = 0x38 then s.intEnable pg v
  else if off = 0x40 then s.fenceReg die i v
  else if off < 0x100 then s
  else if off < 0x8000 then s.blockWrite port die i off v
  else if off < 0xC000 then s.counterSet a v
  else s

/-! What a read returns. -/

/-- Whether a window of R502 is open in a page's block (R506). -/
def State.recovering (s : State) (die i : Nat) : Bool :=
  (s.windows.any fun w =>
    (decide (w.1 = 2 ∨ w.1 = 3) && i == B.ARY && w.2 / 65536 == die)
      || (w.1 == 5 && die == 4 && i == B.D2D)
      || (w.1 == 6 && die == 4 && i == B.MCT + w.2 % 65536 / 64)
      || (w.1 == 7 && die == 4 && i == B.MCT + w.2 % 65536)
      || (w.1 == 8 && i == B.D2D && w.2 % 65536 / 1024 == die))
    || (die == 4 && (blockOf i) == some B.OPX && s.portWindow (i - B.OPX))

/-- Whether a sub-link of a port that has been in service is DOWN (R345, R506). -/
def State.portReduced (s : State) (n : Nat) : Bool :=
  [2 * n, 2 * n + 1].any fun e => s.slState e == Sl.DOWN && (s.link e).met

/-- HEALTH of a page (R506, R627). -/
def State.health (s : State) (die i : Nat) : Nat :=
  let pg := page die i
  (if s.secondFences.contains pg then 8 else 0)
    + (if s.hwFences.contains pg || s.on pg R.FENCE_HOST_FENCE then 3
       else if s.recovering die i then 2
       else if s.degraded.contains pg || (die == 4 && (blockOf i) == some B.OPX && s.portReduced (i - B.OPX)) || (die == 4 && i == B.D2D && [0, 1, 2, 3].any fun d => s.degraded.contains (d2dPage d)) then 1
       else 0)

/-- The checks of orders 5 and 6 of R648 by the opcode of a head. -/
def prepOf (opc : Nat) : Prep :=
  if opc = Opc.ARRAY_OP then prepDesc aryOutTensor State.aryCheck
  else if opc = Opc.VECTOR_OP then prepDesc vOutTensor State.vecCheck
  else if opc = Opc.MOVE_COPY ∨ opc = Opc.MOVE_2D ∨ opc = Opc.MOVE_FILL then moveCheck
  else if 0x20 ≤ opc ∧ opc ≤ 0x26 then collCheck
  else noPrep

/-- The state code that a queue gives its caller (R169). No code of the table fits a head that a pose or a storm stops, or one of
a cut-in context without CUT_EN: it shows as a head held back, 0x07 (log entry 34). -/
def State.queueState (s : State) (d q : Nat) : Nat :=
  let k := s.queue (queueNo d q)
  if (s.queueCmds d q).any fun c => c.stage.holds then 6
  else if !s.headWaits d q then 0
  else if k.wait = .registered then 2
  else if !s.ctxRuns d q || !(s.callerRuns d q || k.drain) then 7
  else match s.headHeld d q with
    | none => 1
    | some h =>
      if k.drain then 1
      else if !s.openMet d q h then 6
      else if !s.waitMet d q h then 1
      else if !s.fenceMet d q h || !s.slotFree d q then 7
      else if (s.chosenOf d (s.callerOf d q)).isSome then 3
      else if (s.outcome d q h (prepOf (hOpc h.cmdWords))).2.isSome || s.credit d (hOpc h.cmdWords) then 1
      else 3

/-- The state code of a caller (R169). -/
def State.callerState (s : State) (d c : Nat) : Nat :=
  let codes := ((List.range 64).filter fun q => s.callerOf d q == c).map (s.queueState d)
  if s.halted d c then 5 else ([1, 3, 6, 2, 7].find? fun n => codes.contains n).getD 0

/-- Whether a test, march or scan of a die runs (R528, R533, R626). -/
def State.bstRuns (s : State) (die : Nat) : Bool :=
  let row (l : List Nat) : Bool := l.contains s.startStep && s.startResult != 3
  let element (l : List Nat) : Bool := s.lwRuns && l.contains (s.fld pwrPage R.PWR_LW_STS_ELEMENT)
  if die = 4 then row [3, 4, 9, 10, 11, 13] || element [2, 3, 6, 7]
  else s.dieState die == Die.SELFTEST || row [8, 11, 12] || element [3, 4, 5]

/-- Whether an access to the ACC of a die is outstanding: one of an operation that runs there (log entry 34), or a write that
waits. -/
def State.accUsed (s : State) (die : Nat) : Bool :=
  (s.cmds.any fun c => (c.stage == .arrayRun && c.arrays.contains die)
      || (c.die == die && (c.stage == .vectorRun || c.stage == .vectorDone)))
    || s.heldWrites.any fun w => regionOf w.addr == some (.acc die)

/-- BUSY of a page (R626). -/
def State.busy (s : State) (die i : Nat) : Bool :=
  let pg := page die i
  match (blockOf i).getD 0 with
  | 0x01 => die == 4 && s.lwRuns
  | 0x02 => s.on pg R.ERR_STS_ACTION_BUSY || s.on pg R.ERR_STS_ACTION_DEPTH
  | 0x03 => if die = 4 then !s.tokens.isEmpty else (s.sampler die).tagged.isSome
  | 0x04 => s.bstRuns die
  | 0x05 =>
    if die = 4 then ([0, 1, 2, 3].any fun d => [2, 3, 4].contains (s.dieState d)) || s.bundles.any fun b => b.2.retrain
    else s.bundles.any fun b => b.1 / 1024 == die && b.2.retrain
  | 0x09 => s.accUsed die
  | 0x08 => s.on pg R.ARY_MODE_ARRAY_BUSY || s.on pg R.ARY_MODE_GRAND_PENDING
  | 0x0A => s.on pg R.VEC_UNIT_BUSY_BUSY
  | 0x0B => (List.range 8).any fun c => s.callerState die c != 0
  | 0x0C => s.waits.any fun w => w.cell / 16384 == die
  | 0x0D => [0, 1].any fun c => s.on pg (R.JCX_NUM_STS_BRACKET_OPEN c) || s.on pg (R.JCX_NUM_STS_GATE_WAIT c)
  | 0x10 => s.cmds.any fun c => c.stage == .moving || (c.stage == .close && (s.bracketOf c.die c.queue).any Bracket.adding)
  | 0x11 => s.cmds.any fun c => c.stage == .arrayRun && decide (1 < arySegments c.desc)
  | 0x12 => s.on pg R.FIG_STS_CHANGING
  | 0x13 => s.inflight != 0
  | 0x14 => [1, 2, 3].contains (s.fld pg R.SNP_STS_PROM_STATE) || (s.cmds.any fun c => c.stage == .pose) || !s.snp.refills.isEmpty
  | 0x16 => s.requestBusy 0 || s.requestBusy 1
  | 0x18 => s.drainState (i - B.HIF) == Drain.RUNNING
  | 0x20 => (s.retiring.map Retiring.stack) == some (i - B.MCT)
  | 0x30 => s.slState (2 * (i - B.OPX)) == Sl.TRAINING || s.slState (2 * (i - B.OPX) + 1) == Sl.TRAINING
      || s.on pg R.OPX_OTDR_STS_BUSY
  | _ => false

/-- The word that a register of an answering page holds, with the fields that follow other state. -/
def State.regValue (s : State) (a : Nat) : Nat :=
  let die := a / 0x1000000
  let i := a / 0x10000 % 0x100
  let off := a % 0x10000
  let w := s.word a
  let b := (blockOf i).getD 0
  if off = 0x08 then setBits w 18 1 (if s.debugOpen then 1 else 0)
  else if off = 0x18 then setBits w 1 1 (if s.busy die i then 1 else 0)
  else if off = 0x48 then s.health die i
  else if 0xC000 ≤ off then (if s.debugOpen then (Config.debugWord a).toNat else 0)
  else if b = B.CAL ∧ off = 0x100 then
    leNat ((List.range 8).map fun c => BitVec.ofNat 8 (s.callerState die c))
  else if die = 4 ∧ b = B.D2D ∧ 0x1000 ≤ off ∧ off < 0x3000 then
    s.word (d2dPage (s.fld d2dFloor R.D2D_MAP_SEL_DIE) + off)
  else if b = B.CLX ∧ off = 0x120 then setBits w 0 32 s.inflight
  else if b = B.SNP ∧ off = 0x148 then
    let w := setBits w 34 15 s.npages
    if bits w 0 3 = 0 ∧ (s.cmds.any fun c => c.stage == .pose) = true then setBits w 0 3 1 else w
  else if b = B.SNP ∧ off = 0x180 then setBits w 32 16 (s.stepsSince s.floorStep)
  else if b = B.HIF ∧ 0x110 ≤ off ∧ off < 0x138 then
    maskOf 64 fun k => pageExists ((off - 0x110) / 8) k && s.intPending (page ((off - 0x110) / 8) k)
  else if b = B.MCT ∧ i ≠ B.MCT ∧ (off = 0x110 ∨ off = 0x118 ∨ (0x1000 ≤ off ∧ off < 0x3000)) then 0
  else if die = 4 ∧ b = B.PMU ∧ off = 0x100 then 0
  else w

/-- What a read of BAR0 returns: zero from a page that does not answer (R19, R530, R614). -/
def State.readReg (s : State) (a : Nat) : Nat :=
  if s.pageReads (a / 0x1000000) (a / 0x10000 % 0x100) then s.regValue a else 0

end Sys2Proof.Machine
end

