-- ==== Sys2Proof/Machine/Access.lean ====
section
/-! DEFINITION. What a host does through its BARs and what a management controller does over I3C (R31, R250, R267, R565,
R573–R575, R583): each row is one access, and its effect is that of the register or the memory it reaches. Log entry 34 has
the readings. -/

namespace Sys2Proof.Machine

/-! Memory requests of a host (R565, R573, R590). -/

/-- Whether a request of a port must come in a Secure stream, and does not (R565). -/
def State.ideRefuses (s : State) (x : Access) : Bool :=
  s.on secPage (if x.port = 0 then R.SEC_IDE_CTL_REQUIRE_HP0 else R.SEC_IDE_CTL_REQUIRE_HP1)
    && !(x.stream.any fun k => s.perhal.ide.any fun e => e.1 == 4 * x.port.val + k.val)

/-- A memory request with `n` payload bytes arrives at a port: nothing comes over a link that is down; a request outside a
required Secure stream is refused. -/
def State.admitted (s : State) (x : Access) (n : Nat) : Bool × State :=
  if !s.linkUp x.port.val || s.fatal then (false, s)
  else
    let s := s.count (hifPage x.port.val) C.HIF_RX_BYTES n
    if s.ideRefuses x then (false, (s.count secPage C.SEC_IDE_DROPS 1).tell (.unsupported x.port.val)) else (true, s)

/-- A write of BAR0 at an offset, of 8 bytes aligned (R573). A write that reaches the debug range while it answers stops
(R613). -/
def State.hostWrite (s : State) (x : Access) (off v : Nat) : Host.Outcome State Fault Refusal :=
  let r := s.admitted x x.size
  if !r.1 then .next r.2
  else if x.size ≠ 8 ∨ off % 8 ≠ 0 ∨ 0x8000000 ≤ off then .next (r.2.tell (.unsupported x.port.val))
  else if r.2.debugHit off then .fault .debugWrite
  else .next (r.2.writeReg x.port.val off v)

/-- A read of BAR0 or BAR4, whose completion carries the word (R573, R575, R590). Reads have no row of the table: this is what one
does (log entry 33). -/
def State.hostRead (s : State) (x : Access) (bar4 : Bool) (off : Nat) : State :=
  let p := x.port.val
  let r := s.admitted x 0
  if !r.1 then r.2
  else if x.size ≠ 8 ∨ off % 8 ≠ 0 ∨ (if bar4 then 2 ^ 21 else 2 ^ 27) ≤ off then r.2.tell (.unsupported p)
  else
    let v := if bar4 then r.2.bar4Word p off else r.2.readReg off
    (r.2.count (hifPage p) C.HIF_TX_BYTES 8).tell (.read p (leBytes 8 v) false)

/-- REGISTER_WRITE (R9, R573). -/
def execRegisterWrite (x : Access) (offset : Nat) (value : Word) (s : State) : Host.Outcome State Fault Refusal :=
  s.hostWrite x offset value.toNat

/-! The common header (R505, R623). -/

/-- FENCE_WRITE: FENCE of the page of a page number, the offset divided by 64 KiB. -/
def execFenceWrite (x : Access) (pageNo : Nat) (value : Word) (s : State) : Host.Outcome State Fault Refusal :=
  s.hostWrite x (0x10000 * pageNo + R.FENCE.off) value.toNat

/-- INT_EN_WRITE. -/
def execIntEnWrite (x : Access) (pageNo : Nat) (value : Word) (s : State) : Host.Outcome State Fault Refusal :=
  s.hostWrite x (0x10000 * pageNo + R.INT_EN.off) value.toNat

/-! Queues (R249, R250, R252, R513, R579). -/

/-- The checks of a doorbell, and TAIL (R250). -/
def State.ring (s : State) (port d q tail : Nat) : State :=
  let cal := page d B.CAL
  if s.qf d q R.QUEUE_W1_EN ≠ 1 ∨ s.qf d q R.QUEUE_W1_PROGRAM = 1 then s
  else if s.qf d q R.QUEUE_W1_OWNER ≠ port then s.count cal C.CAL_DB_FOREIGN 1
  else if 2 ^ s.qf d q R.QUEUE_W1_SIZE < (tail + 2 ^ 32 - s.qf d q R.QUEUE_W2_HEAD) % 2 ^ 32 then
    (s.qput d q R.QUEUE_W1_DB_OVERRUN 1).intSet cal 1
  else s.qput d q R.QUEUE_W2_TAIL tail

/-- A doorbell through a port; a die that is not PRESENT keeps nothing of it (R575). -/
def State.doorbell (s : State) (x : Access) (wide : Bool) (d q tail : Nat) : State :=
  let r := s.admitted x (if wide then 8 else 4)
  if !r.1 then r.2
  else
    let s := r.2.count (hifPage x.port.val) C.HIF_DOORBELLS 1
    if s.started && s.present d && s.lwState != 2 then s.ring x.port.val d q tail else s

/-- DOORBELL. -/
def execDoorbell (x : Access) (wide : Bool) (d : Fin 4) (q : Fin 64) (tail : BitVec 32) (s : State) :
    Host.Outcome State Fault Refusal :=
  .next (s.doorbell x wide d.val q.val tail.toNat)

/-- The BAR0 offset of word 1 of a queue-table entry. -/
def queueCtlAt (d : Fin 4) (q : Fin 64) : Nat := page d.val B.CAL + (R.QUEUE_W1 q.val).off

/-- QUEUE_ENABLE: a write of word 1 with EN set. -/
def execQueueEnable (x : Access) (d : Fin 4) (q : Fin 64) (value : Word) (s : State) : Host.Outcome State Fault Refusal :=
  s.hostWrite x (queueCtlAt d q) (setBits value.toNat 63 1 1)

/-- QUEUE_DISABLE: a write of word 1 with EN clear. -/
def execQueueDisable (x : Access) (d : Fin 4) (q : Fin 64) (value : Word) (s : State) : Host.Outcome State Fault Refusal :=
  s.hostWrite x (queueCtlAt d q) (setBits value.toNat 63 1 0)

/-- PROGRAM_RUN: a write of word 1 with RUN set. -/
def execProgramRun (x : Access) (d : Fin 4) (q : Fin 64) (value : Word) (s : State) : Host.Outcome State Fault Refusal :=
  s.hostWrite x (queueCtlAt d q) (setBits value.toNat 62 1 1)

/-- RESUME: a write of CAL_RESUME (R513). -/
def execResume (x : Access) (d : Fin 4) (value : Word) (s : State) : Host.Outcome State Fault Refusal :=
  s.hostWrite x (page d.val B.CAL + R.CAL_RESUME.off) value.toNat

/-- The effects of a TAKEOVER on the die of its caller (R579). -/
def State.takeover (s : State) (c : Cmd) : State :=
  let d := c.die
  let owner := s.qf d c.queue R.QUEUE_W1_OWNER
  let gained := (List.range 64).filter fun q => bitOn (wordAt c.words 2) q && s.qf d q R.QUEUE_W1_OWNER != owner
  let s := s.each gained fun s q => s.qput d q R.QUEUE_W1_OWNER owner
  let s := if wf c.words 3 0 1 = 1 then
      s.each (List.range 32) fun s n => s.put (page d B.SYN) (R.WATCH_TABLE_HOST n) owner
    else s
  (if gained.isEmpty then s else s.count (hifPage owner) C.HIF_TAKEOVERS 1).done c

/-- TAKEOVER. -/
def execTakeover (d : Fin 4) (q : Fin 64) (ext : HostSlot) (s : State) : Host.Outcome State Fault Refusal :=
  .next (s.v2 d q ext Opc.TAKEOVER noPrep State.takeover)

/-! Sync cells and arbiters (R262, R267, R280, R289). -/

/-- A write of the SYN_OP register of the port that it comes through. -/
def State.synAccess (s : State) (x : Access) (d op : Nat) (index : Fin 16384) (v : Nat) : Host.Outcome State Fault Refusal :=
  s.hostWrite x (page d B.SYN + (R.SYN_OP x.port.val).off) (v * 2 ^ 32 + op * 2 ^ 30 + index.val)

/-- SYN_OP_READ. -/
def execSynOpRead (x : Access) (d : Fin 4) (index : Fin 16384) (s : State) : Host.Outcome State Fault Refusal :=
  s.synAccess x d.val 0 index 0

/-- SYN_OP_SET. -/
def execSynOpSet (x : Access) (d : Fin 4) (index : Fin 16384) (value : BitVec 32) (s : State) :
    Host.Outcome State Fault Refusal :=
  s.synAccess x d.val 1 index value.toNat

/-- SYN_OP_ADD. -/
def execSynOpAdd (x : Access) (d : Fin 4) (index : Fin 16384) (value : BitVec 32) (s : State) :
    Host.Outcome State Fault Refusal :=
  s.synAccess x d.val 2 index value.toNat

/-- Whether the floor accepts an update: nothing of an absent die's callers, and of its work on the floor until its absence
is learned (R309, R311). -/
def State.accepts (s : State) (d : Nat) : Origin → Bool
  | .caller e => e.val == d || s.present e.val
  | .floor e => s.present e.val || s.absentDue.contains e.val
  | _ => true

/-- SYNC_UPDATE: a cell update reaches its die (R261, R262). -/
def execSyncUpdate (d : Fin 4) (index : Fin 16384) (set : Bool) (value : BitVec 32) (src : Origin) (s : State) :
    Host.Outcome State Fault Refusal :=
  .next (if s.accepts d.val src then s.signalLive ⟨cellNo d.val index.val, set, value.toNat⟩ src else s)

/-- BOUND of a compute die's arbiters. -/
def State.bound (s : State) (d : Nat) : Nat := s.fld (page d B.CAL) R.CAL_ARB_BOUND_BOUND

/-- The head of a queue of a caller that is due for promotion (R280). -/
def State.dueHead (s : State) (d c q : Nat) : Bool :=
  let k := s.queue (queueNo d q)
  s.callerOf d q == c && s.hasHead d q && s.classOf d q == 2 && !k.promoted && decide (s.bound d < k.waited)

/-- A LOW request of a dispatch arbiter of die `d` is promoted. -/
def State.promoteCmd (s : State) (d : Nat) (l : List Cmd) : State :=
  match l.find? fun c => c.cls == 2 && !c.promoted && decide (s.bound d < c.waited) with
  | some c => (s.mapCmd c.id fun c => { c with promoted := true, waited := 0 }).count (page d B.CAL) C.CAL_LOW_PROMOTIONS 1
  | none => s

/-- A granule of class LOW that has waited at a memory arbiter is promoted. -/
def State.promoteFloor (s : State) (waited : Nat) : State :=
  if s.fld (page 4 B.STG) R.STG_ARB_BOUND_BOUND < waited ∧ s.fatal = false then
    s.count (page 4 B.STG) C.STG_LOW_PROMOTIONS 1
  else s

/-- The requests of the move engine of a quadrant: the moves of its die, and the commit-add list that runs there, with the class
of its traffic (R192, R278, R279). -/
def State.moveRequests (s : State) (q : Nat) : List Cmd :=
  s.cmds.filter fun c => c.die == q && (c.stage == .moving
    || (c.stage == .close && ((s.job q c.context).bracket.any fun b => b.adding && !b.added)))

/-- The next grant of a LOW move or commit-add list is promoted; its count then restarts (R280). -/
def State.promoteMove (s : State) (q waited : Nat) : State :=
  match (s.moveRequests q).find? fun c => c.cls == 2 with
  | some c =>
    if s.fld (page 4 B.STG) R.STG_ARB_BOUND_BOUND < waited then
      (s.mapCmd c.id fun c => { c with promoted := true, waited := 0 }).count (page 4 B.STG) C.STG_LOW_PROMOTIONS 1
    else s
  | none => s

/-- The frames of a queue with the oldest LOW one that has waited beyond the bound promoted, if there is one. -/
def promoteTx (bound : Nat) : List TxFrame → Option (List TxFrame)
  | [] => none
  | f :: t =>
    if f.cls = 2 ∧ f.promoted = false ∧ bound < f.waited then some ({ f with promoted := true, waited := 0 } :: t)
    else (promoteTx bound t).map fun l => f :: l

/-- A LOW frame at the transmit arbiter of a port is promoted. -/
def State.promoteFrame (s : State) (n : Nat) : State :=
  let try' (e : Nat) : Option (Nat × List TxFrame) :=
    (promoteTx (s.fld (page 4 B.STG) R.STG_ARB_BOUND_BOUND) (s.link e).queue).map fun l => (e, l)
  match (try' (2 * n)).or (try' (2 * n + 1)) with
  | some (e, l) => (s.setLink e { s.link e with queue := l }).count (page 4 B.STG) C.STG_LOW_PROMOTIONS 1
  | none => s

/-- A LOW request that has waited for more than BOUND grants is promoted to URGENT (R280). -/
def State.promote (s : State) : Arbiter → State
  | .caller d c =>
    match (List.range 64).find? (s.dueHead d.val c.val) with
    | some q =>
      (s.setQueue (queueNo d.val q) { s.queue (queueNo d.val q) with promoted := true, waited := 0 }).count
        (page d.val B.CAL) C.CAL_LOW_PROMOTIONS 1
    | none => s
  | .array d => s.promoteCmd d.val (s.arrayRequests d.val)
  | .vector d => s.promoteCmd d.val (s.cmds.filter fun c => c.die == d.val && c.stage == .vectorWait)
  | .move q w => s.promoteMove q.val w
  | .memory _ w => s.promoteFloor w
  | .optical n => s.promoteFrame n.val

/-- LOW_PROMOTION. -/
def execLowPromotion (a : Arbiter) (s : State) : Host.Outcome State Fault Refusal := .next (s.promote a)

/-! Job contexts and numerics (R201, R208, R209, R283, R294). -/

/-- PARTITION_WRITE: word 0 of an entry with VALID set. -/
def execPartitionWrite (x : Access) (d : Fin 4) (c : Ctx) (n : Fin 16) (value : Word) (s : State) :
    Host.Outcome State Fault Refusal :=
  s.hostWrite x (partBase d.val (ctxNo c) + (R.PARTITION_W0 n.val).off) (setBits value.toNat 63 1 1)

/-- FORCE_SHUT: a write of JCX_NUM_STS with FORCE_SHUT set. -/
def execForceShut (x : Access) (d : Fin 4) (c : Ctx) (s : State) : Host.Outcome State Fault Refusal :=
  s.hostWrite x (page d.val B.JCX + (R.JCX_NUM_STS (ctxNo c)).off) (2 ^ 24)

/-- JCX_STEP_WRITE. -/
def execJcxStepWrite (x : Access) (d : Fin 4) (c : Ctx) (value : Word) (s : State) : Host.Outcome State Fault Refusal :=
  s.hostWrite x (page d.val B.JCX + (R.JCX_STEP (ctxNo c)).off) value.toNat

/-- NUM_EVT_ENABLE: a write of NUM_EVT_CTL with EN set. -/
def execNumEvtEnable (x : Access) (d : Fin 4) (value : Word) (s : State) : Host.Outcome State Fault Refusal :=
  s.hostWrite x (page d.val B.NUM + R.NUM_EVT_CTL.off) (setBits value.toNat 8 1 1)

/-! Memory (R234, R236, R574). -/

/-- RETIRE_REQUEST: an entry of the retire table with VALID set. -/
def execRetireRequest (x : Access) (n : Fin 1024) (value : Word) (s : State) : Host.Outcome State Fault Refusal :=
  s.hostWrite x (mctPage 0 + (R.RETIRE_TABLE n.val).off) (setBits value.toNat 63 1 1)

/-- The copy of a page into its preserve slot ends, and the writes that waited land (R236). -/
def State.preserved (s : State) (p : Nat) : State :=
  if s.preserving.contains p then
    let s := s.copyPage (s.phys (p * pageBytes)) (s.phys (s.slotPage (s.pageSt p).slot * pageBytes))
    let s := s.setPageSt p { s.pageSt p with preserved := true }
    let s : State := { s with preserving := setErase p s.preserving }
    s.drainHeld.clxLanded.snpLanded
  else s

/-- PRESERVE_COPY_DONE. -/
def execPreserveCopyDone (page : Fin 786432) (s : State) : Host.Outcome State Fault Refusal := .next (s.preserved page.val)

/-- The device address of a BAR2 offset of a port. -/
def State.aperture (s : State) (p off : Nat) : Nat := s.fld (hifPage p) R.HIF_APERTURE_BASE * pageBytes + off

/-- Whether an access of BAR2 reaches memory as a whole (R574). -/
def State.apertureOk (s : State) (p off len : Nat) : Bool :=
  let a := s.aperture p off
  decide (off + len ≤ 2 ^ 36) && inMap a len && (s.absentAt a).isNone && s.started && s.lwState != 2

/-- An access of BAR2 is refused. -/
def State.apertureRefuse (s : State) (p : Nat) : State :=
  (s.count (hifPage p) C.HIF_APERTURE_ERRORS 1).tell (.unsupported p)

/-- A read of BAR2: its completion carries EP when it finds a poisoned granule (R571). -/
def State.bar2Read (s : State) (x : Access) (off len : Nat) : State :=
  let p := x.port.val
  let r := s.admitted x 0
  if !r.1 then r.2
  else if !r.2.apertureOk p off len then r.2.apertureRefuse p
  else
    let a := r.2.aperture p off
    let bad := r.2.badRange a len
    let s := (r.2.countRead .engine a len).count (hifPage p) C.HIF_TX_BYTES len
    let s := if bad then s.count (hifPage p) C.HIF_POISONED_READS 1 else s
    s.tell (.read p (s.bytes a len) bad)

/-- BAR2_READ. -/
def execBar2Read (x : Access) (offset len : Nat) (s : State) : Host.Outcome State Fault Refusal :=
  .next (s.bar2Read x offset len)

/-- A write of BAR2: the bytes merge granule by granule, as the writes of one request (R238). -/
def State.bar2Write (s : State) (x : Access) (off : Nat) (data : List Byte) : State :=
  let p := x.port.val
  let r := s.admitted x data.length
  if !r.1 then r.2
  else if !r.2.apertureOk p off data.length then r.2.apertureRefuse p
  else r.2.useId.write .engine (some r.2.nextId) (r.2.aperture p off) data

/-- BAR2_WRITE. -/
def execBar2Write (x : Access) (offset : Nat) (data : List Byte) (s : State) : Host.Outcome State Fault Refusal :=
  .next (s.bar2Write x offset data)

/-! Dies and optical ports (R313, R343, R353). -/

/-- DIE_RESET_REQUEST: a write of D2D_DIE_CTL with RESET set. -/
def execDieResetRequest (x : Access) (d : Fin 4) (s : State) : Host.Outcome State Fault Refusal :=
  s.hostWrite x (d2dFloor + (R.D2D_DIE_CTL d.val).off) 2

/-- A write of OPX_PORT_CTL that changes the enable of one sub-link. -/
def State.sublinkWrite (s : State) (x : Access) (e : Nat) (v : Nat) : Host.Outcome State Fault Refusal :=
  let a := opxPage (e / 2) + R.OPX_PORT_CTL.off
  s.hostWrite x a (setBits (s.word a) (e % 2) 1 v)

/-- SUBLINK_ENABLE. -/
def execSublinkEnable (x : Access) (e : Fin 32) (s : State) : Host.Outcome State Fault Refusal := s.sublinkWrite x e.val 1

/-- SUBLINK_DISABLE. -/
def execSublinkDisable (x : Access) (e : Fin 32) (s : State) : Host.Outcome State Fault Refusal := s.sublinkWrite x e.val 0

/-- OTDR_START: a write of OPX_OTDR_CTL with START set. -/
def execOtdrStart (x : Access) (n : Fin 16) (value : Word) (s : State) : Host.Outcome State Fault Refusal :=
  s.hostWrite x (opxPage n.val + R.OPX_OTDR_CTL.off) (setBits value.toNat 31 1 1)

/-! Layout, shards and statistics (R399–R402). -/

/-- LAYOUT_WRITE: CLX_LAYOUT, or CLX_POS. -/
def execLayoutWrite (x : Access) (pos : Bool) (value : Word) (s : State) : Host.Outcome State Fault Refusal :=
  s.hostWrite x (clxPage + (if pos then R.CLX_POS.off else R.CLX_LAYOUT.off)) value.toNat

/-- PEER_TABLE_WRITE: an entry of the peer table, or SNP_PARTNER. -/
def execPeerTableWrite (x : Access) (partner : Bool) (e : Fin 32) (value : Word) (s : State) :
    Host.Outcome State Fault Refusal :=
  s.hostWrite x (if partner then snpPage + R.SNP_PARTNER.off else figPage + (R.PEER_TABLE e.val).off) value.toNat

/-- SHARD_VALID_SET: word 0 of a shard entry with VALID set. -/
def execShardValidSet (x : Access) (n : Fin 1024) (value : Word) (s : State) : Host.Outcome State Fault Refusal :=
  s.hostWrite x (clxPage + (R.SHARD_W0 n.val).off) (setBits value.toNat 63 1 1)

/-- STATS_CLEAR: a write of CLX_STAT_CTL with CLEAR set. -/
def execStatsClear (x : Access) (value : Word) (s : State) : Host.Outcome State Fault Refusal :=
  s.hostWrite x (clxPage + R.CLX_STAT_CTL.off) (setBits value.toNat 9 1 1)

/-! Snapshots (R466, R469, R490). -/

/-- REFILL_QUEUE: word 0 of a refill entry with VALID set and ABORT clear. -/
def execRefillQueue (x : Access) (n : Fin 8) (value : Word) (s : State) : Host.Outcome State Fault Refusal :=
  s.hostWrite x (snpPage + (R.REFILL_W0 n.val).off) (setBits (setBits value.toNat 63 1 1) 62 1 0)

/-- REFILL_ABORT: a write of word 0 with VALID and ABORT set. -/
def execRefillAbort (x : Access) (n : Fin 8) (s : State) : Host.Outcome State Fault Refusal :=
  s.hostWrite x (snpPage + (R.REFILL_W0 n.val).off) (setBits (setBits (s.word (snpPage + (R.REFILL_W0 n.val).off)) 63 1 1) 62 1 1)

/-- DRAIN_REQUEST: a write of SNP_DRAIN with REQ set. -/
def execDrainRequest (x : Access) (s : State) : Host.Outcome State Fault Refusal :=
  s.hostWrite x (snpPage + R.SNP_DRAIN.off) 1

/-! Errors, power, ports and monitoring (R511, R515, R546, R584, R593, R608–R610). -/

/-- ERR_TAIL_WRITE. -/
def execErrTailWrite (x : Access) (d : Fin 5) (value : Word) (s : State) : Host.Outcome State Fault Refusal :=
  s.hostWrite x (page d.val B.ERR + R.ERR_TAIL.off) value.toNat

/-- LW_START: a write of PWR_LW_CTL with START set. -/
def execLwStart (x : Access) (value : Word) (s : State) : Host.Outcome State Fault Refusal :=
  s.hostWrite x (pwrPage + R.PWR_LW_CTL.off) (setBits value.toNat 0 1 1)

/-- LW_INVALIDATE: a write of PWR_LW_CTL with INVALIDATE set. -/
def execLwInvalidate (x : Access) (value : Word) (s : State) : Host.Outcome State Fault Refusal :=
  s.hostWrite x (pwrPage + R.PWR_LW_CTL.off) (setBits value.toNat 1 1 1)

/-- DRAIN_GO: a write of HIF_DRAIN_CTL with GO set and ABORT clear. -/
def execDrainGo (x : Access) (hp : Fin 2) (value : Word) (s : State) : Host.Outcome State Fault Refusal :=
  s.hostWrite x (hifPage hp.val + R.HIF_DRAIN_CTL.off) (setBits (setBits value.toNat 63 1 1) 62 1 0)

/-- DRAIN_ABORT: a write of HIF_DRAIN_CTL with ABORT set and PAGES as it stands. -/
def execDrainAbort (x : Access) (hp : Fin 2) (s : State) : Host.Outcome State Fault Refusal :=
  s.hostWrite x (hifPage hp.val + R.HIF_DRAIN_CTL.off) (2 ^ 62 + s.fld (hifPage hp.val) R.HIF_DRAIN_CTL_PAGES)

/-- COUNTER_WRITE: a write at the offset of a counter. -/
def execCounterWrite (x : Access) (offset : Nat) (value : Word) (s : State) : Host.Outcome State Fault Refusal :=
  s.hostWrite x offset value.toNat

/-- SAMPLER_ENABLE: a write of PMU_SAMPLE_CTL with EN set. -/
def execSamplerEnable (x : Access) (d : Fin 4) (value : Word) (s : State) : Host.Outcome State Fault Refusal :=
  s.hostWrite x (page d.val B.PMU + R.PMU_SAMPLE_CTL.off) (setBits value.toNat 0 1 1)

/-- PMU_BUF_ENABLE: a write of PMU_BUF_CTL with EN set. -/
def execPmuBufEnable (x : Access) (d : Fin 5) (value : Word) (s : State) : Host.Outcome State Fault Refusal :=
  s.hostWrite x (page d.val B.PMU + R.PMU_BUF_CTL.off) (setBits value.toNat 8 1 1)

/-- A write of an entry of the MSI-X table: address, data and mask; a vector that is pending goes out once it is unmasked (R575,
R576). -/
def State.vectorWrite (s : State) (x : Access) (e : VectorWrite) : State :=
  let p := x.port.val
  let v := e.vector.val
  let r := s.admitted x 16
  if !r.1 then r.2
  else
    let h := r.2.port p
    let h := { h with vectors := Table.set (fun _ => (0, 0)) h.vectors v (e.addr.toNat, e.data.toNat) }
    if e.masked then r.2.setPort p { h with unmasked := setErase v h.unmasked }
    else
      let send := h.pendingV.contains v && h.msix
      let s := r.2.setPort p { h with
        unmasked := setInsert v h.unmasked, pendingV := if send then setErase v h.pendingV else h.pendingV }
      if send then s.msix p v else s

/-- MSIX_VECTOR_UNMASK. -/
def execMsixVectorUnmask (x : Access) (e : VectorWrite) (s : State) : Host.Outcome State Fault Refusal :=
  .next (s.vectorWrite x e)

/-! The I3C target (R534, R583). -/

/-- A REG_READ of I3C: the floor's CAP, PWR and SEC pages only; after a last waltz that is DONE, CAP and PWR. -/
def State.i3cRead (s : State) (off : Nat) : State :=
  let pg := off / 0x10000 * 0x10000
  if !s.i3cUp then s
  else if off % 8 ≠ 0 ∨ (pg ≠ capPage ∧ pg ≠ pwrPage ∧ (pg ≠ secPage ∨ s.i3cTakes = false)) then s.i3cAnswer I3c.DENIED []
  else s.i3cAnswer I3c.OK (leBytes 8 (s.regValue off))

/-- REG_READ. -/
def execRegRead (offset : Nat) (s : State) : Host.Outcome State Fault Refusal := .next (s.i3cRead offset)

/-- A REG_WRITE of I3C: PWR_LW_CTL only. -/
def State.i3cWrite (s : State) (off v : Nat) : State :=
  if !s.i3cUp then s
  else if off = pwrPage + R.PWR_LW_CTL.off ∧ s.i3cTakes = true then (s.lwWrite v).i3cAnswer I3c.OK []
  else s.i3cAnswer I3c.DENIED []

/-- REG_WRITE. -/
def execRegWrite (offset : Nat) (value : Word) (s : State) : Host.Outcome State Fault Refusal :=
  .next (s.i3cWrite offset value.toNat)

end Sys2Proof.Machine
end

