-- ==== Sys2Proof/Machine/Dispatch.lean ====
section
/-! DEFINITION. What each command does, one arm per row of the table. -/

namespace Sys2Proof.Machine

/-- The effect of a command on everything but the queue of commands. -/
def exec (i : Instr) (s : State) : Host.Outcome State Fault Refusal :=
  match i with
  | .nop d q ext => Sys2Proof.Machine.execNop d q ext s
  | .jump d q ext => Sys2Proof.Machine.execJump d q ext s
  | .progEnd d q ext => Sys2Proof.Machine.execProgEnd d q ext s
  | .syncRemote d q ext => Sys2Proof.Machine.execSyncRemote d q ext s
  | .marker d q ext => Sys2Proof.Machine.execMarker d q ext s
  | .arrayOp d q ext => Sys2Proof.Machine.execArrayOp d q ext s
  | .grandClaim => Sys2Proof.Machine.execGrandClaim s
  | .arrayOpStart d => Sys2Proof.Machine.execArrayOpStart d s
  | .arrayOpComplete d => Sys2Proof.Machine.execArrayOpComplete d s
  | .vectorOp d q ext => Sys2Proof.Machine.execVectorOp d q ext s
  | .kernel d => Sys2Proof.Machine.execKernel d s
  | .epilogue d => Sys2Proof.Machine.execEpilogue d s
  | .softmax d => Sys2Proof.Machine.execSoftmax d s
  | .rmsnorm d => Sys2Proof.Machine.execRmsnorm d s
  | .layernorm d => Sys2Proof.Machine.execLayernorm d s
  | .quant d => Sys2Proof.Machine.execQuant d s
  | .adamw d => Sys2Proof.Machine.execAdamw d s
  | .attnMerge d => Sys2Proof.Machine.execAttnMerge d s
  | .xent d => Sys2Proof.Machine.execXent d s
  | .vectorOpComplete d vu => Sys2Proof.Machine.execVectorOpComplete d vu s
  | .scalarIntegerOp d vu op rd ra rb => Sys2Proof.Machine.execScalarIntegerOp d vu op rd ra rb s
  | .scalarFp32Op d vu op rd ra rb rc => Sys2Proof.Machine.execScalarFp32Op d vu op rd ra rb rc s
  | .branch d vu => Sys2Proof.Machine.execBranch d vu s
  | .conditionalBranch d vu => Sys2Proof.Machine.execConditionalBranch d vu s
  | .call d vu => Sys2Proof.Machine.execCall d vu s
  | .ret d vu => Sys2Proof.Machine.execRet d vu s
  | .halt d vu => Sys2Proof.Machine.execHalt d vu s
  | .ubar d vu => Sys2Proof.Machine.execUbar d vu s
  | .ubarRelease d vu => Sys2Proof.Machine.execUbarRelease d vu s
  | .numReport d vu => Sys2Proof.Machine.execNumReport d vu s
  | .tileLoad d vu => Sys2Proof.Machine.execTileLoad d vu s
  | .tileStore d vu => Sys2Proof.Machine.execTileStore d vu s
  | .transposedLoad d vu => Sys2Proof.Machine.execTransposedLoad d vu s
  | .transposedStore d vu => Sys2Proof.Machine.execTransposedStore d vu s
  | .packedNarrowStore d vu => Sys2Proof.Machine.execPackedNarrowStore d vu s
  | .tileElementwise d vu op => Sys2Proof.Machine.execTileElementwise d vu op s
  | .tileFunction d vu fn => Sys2Proof.Machine.execTileFunction d vu fn s
  | .rowSum d vu => Sys2Proof.Machine.execRowSum d vu s
  | .columnSum d vu => Sys2Proof.Machine.execColumnSum d vu s
  | .rowMax d vu => Sys2Proof.Machine.execRowMax d vu s
  | .columnMax d vu => Sys2Proof.Machine.execColumnMax d vu s
  | .tileConversion d vu src => Sys2Proof.Machine.execTileConversion d vu src s
  | .quantise d vu src axis => Sys2Proof.Machine.execQuantise d vu src axis s
  | .split d vu => Sys2Proof.Machine.execSplit d vu s
  | .transpose d vu => Sys2Proof.Machine.execTranspose d vu s
  | .laneRotate d vu => Sys2Proof.Machine.execLaneRotate d vu s
  | .rowRotate d vu => Sys2Proof.Machine.execRowRotate d vu s
  | .moveCopy d q ext => Sys2Proof.Machine.execMoveCopy d q ext s
  | .move2d d q ext => Sys2Proof.Machine.execMove2d d q ext s
  | .moveFill d q ext => Sys2Proof.Machine.execMoveFill d q ext s
  | .moveComplete d => Sys2Proof.Machine.execMoveComplete d s
  | .layerOpen d q ext => Sys2Proof.Machine.execLayerOpen d q ext s
  | .layerClose d q ext => Sys2Proof.Machine.execLayerClose d q ext s
  | .bracketOutcome d c => Sys2Proof.Machine.execBracketOutcome d c s
  | .commitAddDone d c => Sys2Proof.Machine.execCommitAddDone d c s
  | .stepGate d q ext => Sys2Proof.Machine.execStepGate d q ext s
  | .gateWordForm c => Sys2Proof.Machine.execGateWordForm c s
  | .gateEvaluation d c => Sys2Proof.Machine.execGateEvaluation d c s
  | .gather d q ext => Sys2Proof.Machine.execGather d q ext s
  | .reduceScatter d q ext => Sys2Proof.Machine.execReduceScatter d q ext s
  | .allReduce d q ext => Sys2Proof.Machine.execAllReduce d q ext s
  | .pipeSend d q ext => Sys2Proof.Machine.execPipeSend d q ext s
  | .seqPass d q ext => Sys2Proof.Machine.execSeqPass d q ext s
  | .dieReduce d q ext => Sys2Proof.Machine.execDieReduce d q ext s
  | .bucketReduce d q ext => Sys2Proof.Machine.execBucketReduce d q ext s
  | .collectiveComplete d q number => Sys2Proof.Machine.execCollectiveComplete d q number s
  | .figureChange d q ext => Sys2Proof.Machine.execFigureChange d q ext s
  | .figureSwap => Sys2Proof.Machine.execFigureSwap s
  | .figDrainTimeout => Sys2Proof.Machine.execFigDrainTimeout s
  | .reweight e => Sys2Proof.Machine.execReweight e s
  | .pose d q ext => Sys2Proof.Machine.execPose d q ext s
  | .poseArm => Sys2Proof.Machine.execPoseArm s
  | .takeover d q ext => Sys2Proof.Machine.execTakeover d q ext s
  | .v1Nop d q ext => Sys2Proof.Machine.execV1Nop d q ext s
  | .v1Array d q ext => Sys2Proof.Machine.execV1Array d q ext s
  | .v1Vector d q ext => Sys2Proof.Machine.execV1Vector d q ext s
  | .v1Copy d q ext => Sys2Proof.Machine.execV1Copy d q ext s
  | .v1Marker d q ext => Sys2Proof.Machine.execV1Marker d q ext s
  | .v1BucketReduce d q ext => Sys2Proof.Machine.execV1BucketReduce d q ext s
  | .doorbell x wide d q tail => Sys2Proof.Machine.execDoorbell x wide d q tail s
  | .queueEnable x d q value => Sys2Proof.Machine.execQueueEnable x d q value s
  | .queueDisable x d q value => Sys2Proof.Machine.execQueueDisable x d q value s
  | .programRun x d q value => Sys2Proof.Machine.execProgramRun x d q value s
  | .resume x d value => Sys2Proof.Machine.execResume x d value s
  | .synOpRead x d index => Sys2Proof.Machine.execSynOpRead x d index s
  | .synOpSet x d index value => Sys2Proof.Machine.execSynOpSet x d index value s
  | .synOpAdd x d index value => Sys2Proof.Machine.execSynOpAdd x d index value s
  | .syncUpdate d index set value src => Sys2Proof.Machine.execSyncUpdate d index set value src s
  | .lowPromotion a => Sys2Proof.Machine.execLowPromotion a s
  | .partitionWrite x d c n value => Sys2Proof.Machine.execPartitionWrite x d c n value s
  | .forceShut x d c => Sys2Proof.Machine.execForceShut x d c s
  | .jcxStepWrite x d c value => Sys2Proof.Machine.execJcxStepWrite x d c value s
  | .numEvtEnable x d value => Sys2Proof.Machine.execNumEvtEnable x d value s
  | .scrubRead n found => Sys2Proof.Machine.execScrubRead n found s
  | .ceThresholdReached page stack => Sys2Proof.Machine.execCeThresholdReached page stack s
  | .retireRequest x n value => Sys2Proof.Machine.execRetireRequest x n value s
  | .retireCopyDone => Sys2Proof.Machine.execRetireCopyDone s
  | .preserveCopyDone page => Sys2Proof.Machine.execPreserveCopyDone page s
  | .bar2Read x offset len => Sys2Proof.Machine.execBar2Read x offset len s
  | .bar2Write x offset data => Sys2Proof.Machine.execBar2Write x offset data s
  | .registerWrite x offset value => Sys2Proof.Machine.execRegisterWrite x offset value s
  | .fenceWrite x pageNo value => Sys2Proof.Machine.execFenceWrite x pageNo value s
  | .intEnWrite x pageNo value => Sys2Proof.Machine.execIntEnWrite x pageNo value s
  | .bundleDataFrame d b f => Sys2Proof.Machine.execBundleDataFrame d b f s
  | .bundleHandshakeFrame d b f => Sys2Proof.Machine.execBundleHandshakeFrame d b f s
  | .bundleRetrain d b => Sys2Proof.Machine.execBundleRetrain d b s
  | .bundleRetrainDone d t => Sys2Proof.Machine.execBundleRetrainDone d t s
  | .dieAbsent d bundleLoss => Sys2Proof.Machine.execDieAbsent d bundleLoss s
  | .absenceLearned d => Sys2Proof.Machine.execAbsenceLearned d s
  | .floorLost d => Sys2Proof.Machine.execFloorLost d s
  | .dieResetRequest x d => Sys2Proof.Machine.execDieResetRequest x d s
  | .dieResetHoldEnd d => Sys2Proof.Machine.execDieResetHoldEnd d s
  | .dieTrainingDone d tests => Sys2Proof.Machine.execDieTrainingDone d tests s
  | .dieSelftestDone d t => Sys2Proof.Machine.execDieSelftestDone d t s
  | .diagLaneLoss link guide wave => Sys2Proof.Machine.execDiagLaneLoss link guide wave s
  | .wavelengthLit n feed wave => Sys2Proof.Machine.execWavelengthLit n feed wave s
  | .wavelengthUnlit n feed wave => Sys2Proof.Machine.execWavelengthUnlit n feed wave s
  | .lanesRelocked n => Sys2Proof.Machine.execLanesRelocked n s
  | .dataFrame e f => Sys2Proof.Machine.execDataFrame e f s
  | .controlFrame e f => Sys2Proof.Machine.execControlFrame e f s
  | .idleFrame e => Sys2Proof.Machine.execIdleFrame e s
  | .resendTimeout e => Sys2Proof.Machine.execResendTimeout e s
  | .sublinkEnable x e => Sys2Proof.Machine.execSublinkEnable x e s
  | .sublinkDisable x e => Sys2Proof.Machine.execSublinkDisable x e s
  | .trainingComplete e t => Sys2Proof.Machine.execTrainingComplete e t s
  | .downRetry e => Sys2Proof.Machine.execDownRetry e s
  | .laneFault e => Sys2Proof.Machine.execLaneFault e s
  | .fieldRetrainingDone e t => Sys2Proof.Machine.execFieldRetrainingDone e t s
  | .otdrStart x n value => Sys2Proof.Machine.execOtdrStart x n value s
  | .otdrDone n events => Sys2Proof.Machine.execOtdrDone n events s
  | .gatherItem e x => Sys2Proof.Machine.execGatherItem e x s
  | .reduce e x => Sys2Proof.Machine.execReduce e x s
  | .result e x => Sys2Proof.Machine.execResult e x s
  | .bucket e x => Sys2Proof.Machine.execBucket e x s
  | .pipe e x => Sys2Proof.Machine.execPipe e x s
  | .seq e x => Sys2Proof.Machine.execSeq e x s
  | .sync e x => Sys2Proof.Machine.execSync e x s
  | .abort e p h => Sys2Proof.Machine.execAbort e p h s
  | .landed e p h denied badCell => Sys2Proof.Machine.execLanded e p h denied badCell s
  | .summary e x => Sys2Proof.Machine.execSummary e x s
  | .layoutWrite x pos value => Sys2Proof.Machine.execLayoutWrite x pos value s
  | .peerTableWrite x partner e value => Sys2Proof.Machine.execPeerTableWrite x partner e value s
  | .layoutApply => Sys2Proof.Machine.execLayoutApply s
  | .shardValidSet x n value => Sys2Proof.Machine.execShardValidSet x n value s
  | .statsClear x value => Sys2Proof.Machine.execStatsClear x value s
  | .promenadePage => Sys2Proof.Machine.execPromenadePage s
  | .pageSent => Sys2Proof.Machine.execPageSent s
  | .page e x => Sys2Proof.Machine.execPage e x s
  | .openItem e x => Sys2Proof.Machine.execOpenItem e x s
  | .accept e x => Sys2Proof.Machine.execAccept e x s
  | .refuse e x => Sys2Proof.Machine.execRefuse e x s
  | .seal e x h => Sys2Proof.Machine.execSeal e x h s
  | .sealed e x => Sys2Proof.Machine.execSealed e x s
  | .pctlAbort e x => Sys2Proof.Machine.execPctlAbort e x s
  | .lossLimitExpiry refill => Sys2Proof.Machine.execLossLimitExpiry refill s
  | .refillQueue x n value => Sys2Proof.Machine.execRefillQueue x n value s
  | .restore n => Sys2Proof.Machine.execRestore n s
  | .replicate n => Sys2Proof.Machine.execReplicate n s
  | .handover n => Sys2Proof.Machine.execHandover n s
  | .rollback n => Sys2Proof.Machine.execRollback n s
  | .verify n => Sys2Proof.Machine.execVerify n s
  | .refillComplete n => Sys2Proof.Machine.execRefillComplete n s
  | .refillAbort x n => Sys2Proof.Machine.execRefillAbort x n s
  | .drainRequest x => Sys2Proof.Machine.execDrainRequest x s
  | .errorDetected e => Sys2Proof.Machine.execErrorDetected e s
  | .containmentAction d => Sys2Proof.Machine.execContainmentAction d s
  | .errTailWrite x d value => Sys2Proof.Machine.execErrTailWrite x d value s
  | .packageReset => Sys2Proof.Machine.execPackageReset s
  | .start => Sys2Proof.Machine.execStart s
  | .startRowDone r => Sys2Proof.Machine.execStartRowDone r s
  | .powerRemoved => Sys2Proof.Machine.execPowerRemoved s
  | .railExcursion rail => Sys2Proof.Machine.execRailExcursion rail s
  | .lwStart x value => Sys2Proof.Machine.execLwStart x value s
  | .lwInvalidate x value => Sys2Proof.Machine.execLwInvalidate x value s
  | .lwElementDone r => Sys2Proof.Machine.execLwElementDone r s
  | .powerPause => Sys2Proof.Machine.execPowerPause s
  | .powerPauseEnd => Sys2Proof.Machine.execPowerPauseEnd s
  | .sensorThreshold x reading => Sys2Proof.Machine.execSensorThreshold x reading s
  | .throttleStepDown t => Sys2Proof.Machine.execThrottleStepDown t s
  | .throttleStepUp t => Sys2Proof.Machine.execThrottleStepUp t s
  | .clockStop d => Sys2Proof.Machine.execClockStop d s
  | .extend hp => Sys2Proof.Machine.execExtend hp s
  | .quote hp => Sys2Proof.Machine.execQuote hp s
  | .getDik hp => Sys2Proof.Machine.execGetDik hp s
  | .getAkCert hp => Sys2Proof.Machine.execGetAkCert hp s
  | .svnCommit hp => Sys2Proof.Machine.execSvnCommit hp s
  | .lcTransition hp => Sys2Proof.Machine.execLcTransition hp s
  | .scanRequest => Sys2Proof.Machine.execScanRequest s
  | .spdmMessage hp m => Sys2Proof.Machine.execSpdmMessage hp m s
  | .hostLinkUp hp gen width => Sys2Proof.Machine.execHostLinkUp hp gen width s
  | .hostLinkDown hp => Sys2Proof.Machine.execHostLinkDown hp s
  | .hostPortReset hp => Sys2Proof.Machine.execHostPortReset hp s
  | .regRead offset => Sys2Proof.Machine.execRegRead offset s
  | .regWrite offset value => Sys2Proof.Machine.execRegWrite offset value s
  | .imgWrite region offset data => Sys2Proof.Machine.execImgWrite region offset data s
  | .imgDone region length => Sys2Proof.Machine.execImgDone region length s
  | .imgStatus => Sys2Proof.Machine.execImgStatus s
  | .drainGo x hp value => Sys2Proof.Machine.execDrainGo x hp value s
  | .drainAbort x hp => Sys2Proof.Machine.execDrainAbort x hp s
  | .drainFlushComplete hp => Sys2Proof.Machine.execDrainFlushComplete hp s
  | .counterWrite x offset value => Sys2Proof.Machine.execCounterWrite x offset value s
  | .counterOverflow d index => Sys2Proof.Machine.execCounterOverflow d index s
  | .samplerEnable x d value => Sys2Proof.Machine.execSamplerEnable x d value s
  | .sampleTag d => Sys2Proof.Machine.execSampleTag d s
  | .pmuBufEnable x d value => Sys2Proof.Machine.execPmuBufEnable x d value s
  | .markerToken d => Sys2Proof.Machine.execMarkerToken d s
  | .busMasterEnable hp msix => Sys2Proof.Machine.execBusMasterEnable hp msix s
  | .msixVectorUnmask x vector => Sys2Proof.Machine.execMsixVectorUnmask x vector s
  | .stackRetrainDone n ok => Sys2Proof.Machine.execStackRetrainDone n ok s

end Sys2Proof.Machine
end

