-- ==== Sys2Proof/Safety.lean ====
section
/-! DEFINITION. The terms in which claims are made: that a command answers a next state, which words of the register
space count and flag events, what a statement says is left unchanged, when a queue's head is taken, and the canonical
form of the state. -/

namespace Sys2Proof.Machine

/-- The command answers a next state, and it has property `P`. -/
abbrev Answers (i : Instr) (s : State) (P : State → Prop) : Prop := ∃ t, exec i s = .next t ∧ P t

/-- The words that count and flag what happens: counters and saturating words from 0x8000 on (R592), INT_STS of every page
(R620), and the overflow words of PMU (R594). An event of a command may change these beside what it is said to change. -/
def accounting (a : Nat) : Bool :=
  let off := a % 0x10000
  decide (0x8000 ≤ off) || off == R.INT_STS.off
    || (a / 0x10000 % 0x100 == B.PMU && decide (0x1100 ≤ off) && decide (off < 0x1200))

/-- Every word outside `w` and outside the accounting words reads as before. -/
def WordsKept (s t : State) (w : Nat → Bool) : Prop := ∀ a, accounting a = false → w a = false → t.word a = s.word a

/-- Everything but the registers and what is sent to the hosts is as before. -/
def PartsKept (s t : State) : Prop :=
  { t with regs := s.regs, hostOut := s.hostOut, hostPorts := s.hostPorts } = s

/-- The word of a field and the rest of its word: the field reads `v`, and the word's other bits are those of `s`. -/
def Sets (s t : State) (pg : Nat) (f : Fld) (v : Nat) : Prop := t.word (pg + f.off) = (s.put pg f v).word (pg + f.off)

/-- Only the words of a list may change. -/
def words (l : List Nat) (a : Nat) : Bool := l.contains a

/-! The canonical form. -/

/-- The sparse tables of the state and of its engines are in canonical form; the poisoned granules, the granules written in
undefined parts of memory, and the ports with SPDM keys are strictly rising lists; requests wait for the two ports
only; and the identifiers of the dispatched commands rise, below the next one. -/
structure State.Tidy (s : State) : Prop where
  regs    : Table.wf resetWord s.regs
  mem     : Memory.wf s.mem
  cells   : Table.wf (fun _ => 0) s.cells
  queues  : Table.wf (fun _ => {}) s.queues
  jobs    : Table.wf (fun _ => {}) s.jobs
  gates   : Table.wf (fun _ => {}) s.gates
  pages   : Table.wf (fun _ => {}) s.pages
  poison  : s.poison.Pairwise (· < ·)
  units   : Table.wf (fun _ => {}) s.units
  links   : Table.wf (fun _ => {}) s.links
  bundles : Table.wf (fun _ => {}) s.bundles
  actions : Table.wf (fun _ => {}) s.actions
  ports   : Table.wf (fun _ => {}) s.hostPorts
  sampled : Table.wf (fun _ => {}) s.samplers
  markers : Table.wf (fun _ => 0) s.markerSeq
  lostGen : Table.wf (fun _ => 0) s.lostGen
  lostSet : s.lostSet.Pairwise (· < ·)
  chosen  : Table.wf (fun _ => 0) s.chosen
  causes  : Table.wf (fun _ => 0) s.floorCause
  moved   : Table.wf (fun _ => []) s.moved
  parts   : Table.wf (fun _ => (0, 0)) s.parts
  crossing: Table.wf (fun _ => []) s.crossing
  image   : Table.wf (fun _ => 0) s.perhal.img
  chain   : Table.wf (fun _ => 0) s.perhal.chain
  steps   : Table.wf (fun _ => 0) s.thermal.steps
  reading : Table.wf (fun _ => 0) s.thermal.reading
  weights : Table.wf (fun _ => 0) s.fig.weights
  dealt   : Table.wf (fun _ => 0) s.fig.dealt
  health  : Table.wf (fun _ => 0) s.snp.health
  meas    : Table.wf (fun _ => {}) s.clx.meas
  sums    : Table.wf (fun _ => none) s.clx.words
  spdm    : s.perhal.sessions.Pairwise (· < ·)
  ide     : Table.wf (fun _ => none) s.perhal.ide
  order   : ∀ p ∈ s.perhal.order, p < 2
  ids     : (s.cmds.map Cmd.id ++ [s.nextId]).Pairwise (· < ·)

/-! Heads of queues. -/

/-- R162, R253, R278: `h` is the head of a queue, no refusal stands against it, its wait is met and its caller has chosen it,
or grants it. -/
def State.taken (s : State) (d : Fin 4) (q : Fin 64) (ext : HostSlot) (h : Head) : Bool :=
  let k := s.queue (queueNo d q)
  s.hasHead d q && s.callerRuns d q && !k.drain && s.headOf d q ext == some h && (s.fixedOutcome d q h).isNone
    && (if hWaitEn h.cmdWords then k.wait == .satisfied else k.wait != .absent) && s.eligible d q h
    && (match s.chosenOf d (s.callerOf d q) with
        | some r => r == q.val
        | none => !s.outranked d q)
    && ((s.bracketOf d q).isNone || bracketAdmits (hOpc h.cmdWords))

/-- A head of one of the two formats that is taken, with an opcode of its format. -/
def State.takes (s : State) (d : Fin 4) (q : Fin 64) (ext : HostSlot) (h : Head) (legacy : Bool) (opc : Nat) : Bool :=
  s.taken d q ext h && h.legacy == legacy && h.opc == opc

/-- The command meets the checks of its kind, and its engine has a free entry (R162, R648). -/
def State.clears (s : State) (d : Fin 4) (q : Fin 64) (h : Head) (prep : Prep) : Bool :=
  (prep s (s.mkCmd d q h)).2.isNone && s.credit d (hOpc h.cmdWords)

/-- What every taken command leaves: its queue stands at the next command, and identifiers go on. -/
def Consumed (s t : State) (d : Fin 4) (q : Fin 64) : Prop :=
  t.headNo d q = (s.headNo d q + 1) % 2 ^ 32 ∧ t.nextId = s.nextId + 1

/-- The command that was taken has completed: no dispatched command is its. -/
def Left (s t : State) : Prop := t.cmds.map Cmd.id = (s.cmds.map Cmd.id).filter (· != s.nextId)

/-- The words of a queue's entry and the RESUME word of its die: what taking a command may write. -/
def queueWords (d : Fin 4) (q : Fin 64) (a : Nat) : Bool :=
  let b := page d B.CAL + 0x1000 + 64 * q
  (decide (b ≤ a) && decide (a < b + 48)) || a == page d B.CAL + R.CAL_RESUME.off

/-- R256: a cell is set to a value, or the value is added to it, modulo 2^32, and no other cell changes. -/
def Signals (s t : State) (g : Signal) : Prop :=
  t.cell g.cell = (if g.set then g.value else s.cell g.cell + g.value) % 2 ^ 32 ∧ ∀ c, c ≠ g.cell → t.cell c = s.cell c

/-- The address of the slot of its completion ring that a queue fills next (R270). -/
def State.recordSlot (s : State) (d q : Nat) : Nat :=
  s.qf d q R.QUEUE_W3_CPL_BASE * 64 + 64 * (s.qf d q R.QUEUE_W4_CPL_HEAD % 2 ^ s.qf d q R.QUEUE_W4_CPL_SIZE)

/-- The completion ring of a queue lies in device memory, its next slot is not fenced, and no write waits. -/
def State.recordOpen (s : State) (d q : Nat) : Bool :=
  s.qf d q R.QUEUE_W3_CPL_SPACE == 0 && s.heldWrites.isEmpty && !s.fencedAt (s.phys (s.recordSlot d q))

/-- The next slot of a queue's completion ring holds a record with ERROR, an error and its detail, and HEAD of the ring has
advanced by it (R270, R272). -/
def Records (s t : State) (d q err detail : Nat) : Prop :=
  let w := t.words (s.recordSlot d q) 8
  wf w 0 8 8 = Status.ERROR ∧ wf w 0 16 16 = err ∧ wf w 4 32 32 = detail % 2 ^ 32
    ∧ t.qf d q R.QUEUE_W4_CPL_HEAD = (s.qf d q R.QUEUE_W4_CPL_HEAD + 1) % 2 ^ 32

/-- The non-finite flag of a context on a die: that of the step, or of the next one while a sample waits (R196, R198). -/
def State.nonfiniteSeen (s : State) (d ctx : Nat) : Bool :=
  bitOn (if s.sampled d ctx then (s.job d ctx).next else s.causes d ctx) causeBit.nonfinite

/-! Vector operations and unit cores. -/

/-- No write of a command waits behind a page. -/
def State.allLanded (s : State) (id : Nat) : Bool := !(s.heldWrites.any fun w => w.owner == some id)

/-- The arbiter of a die grants operation `c` of a kind, and units of its mask are usable: all of them for a KERNEL
(R149, R163). -/
def State.starts (s : State) (d : Fin 4) (c : Cmd) (kind : Nat) : Bool :=
  let usable := vMask c.desc &&& s.unitsUsable d
  s.vectorNext d == some c && vKind c.desc == kind && usable != 0 && (kind != OpKind.KERNEL || usable == vMask c.desc)

/-- A store of bytes to staging or an ACC that nothing holds back or drops: its window is not fenced by a self-test. -/
def State.open (s : State) (a len : Nat) : Bool :=
  decide (dramEnd ≤ a) && inMap a len && s.fencedStg.isEmpty && s.fencedWbf.isEmpty && s.poison.isEmpty

/-- A unit of an operation runs and stands at an instruction `w` of the class `lo` to `hi` (R135, R159). -/
def State.issues (s : State) (d : Fin 4) (u : Fin 64) (c : Cmd) (w lo hi : Nat) : Bool :=
  let x := s.unit d u
  x.op.bind s.cmdOf == some c && x.mode == .running && s.named d c.context x.pc 8 && !s.badRange x.pc 8
    && s.load x.pc 8 == w && decide (lo ≤ iOpc w) && decide (iOpc w ≤ hi)

/-- An instruction leaves unit `u` as `x`, and nothing else changes but free values drawn. -/
def UnitBecomes (s t : State) (d : Fin 4) (u : Fin 64) (x : UnitCore) : Prop :=
  t.unit d u = x ∧ (∀ k, k ≠ 64 * d.val + u.val → Table.get (fun _ => ({} : UnitCore)) t.units k = Table.get (fun _ => {}) s.units k)
    ∧ PartsKept s { t with units := s.units, free := s.free } ∧ WordsKept s t fun _ => false

/-- An instruction writes tile `n` of a unit: element (r, k) of the view of a format becomes `g r k`. The other tiles and
the scalars stay, the program counter passes the instruction, and nothing else changes but free values drawn. -/
def TileBecomes (s t : State) (d : Fin 4) (u : Fin 64) (n : Nat) (f : Fmt) (g : Nat → Nat → Nat) : Prop :=
  (∀ r k, r < 32 → k < viewCols f → (t.unit d u).elem n f r k = g r k % 2 ^ fmtWidth f)
    ∧ (∀ m r, m ≠ n → r < 32 → (t.unit d u).row m r = (s.unit d u).row m r)
    ∧ (∀ i, (t.unit d u).scalar i = (s.unit d u).scalar i)
    ∧ UnitBecomes s t d u { s.unit d u with pc := (s.unit d u).pc + 8, tiles := (t.unit d u).tiles }

/-! Host accesses. -/

/-- A request of a host is taken: its port's link is up, the package is not held, and the keys of its Secure stream are there (R565). -/
def State.hears (s : State) (x : Access) : Bool := s.linkUp x.port && !s.fatal && !s.ideRefuses x

/-- A host's write of 8 bytes reaches the aligned word of BAR0 at `a`: it is taken, and the word's page takes writes (R9, R19, R573). -/
def State.writes (s : State) (x : Access) (a : Nat) : Bool :=
  s.hears x && x.size == 8 && a % 8 == 0 && decide (a < 0x8000000) && s.pageWrites (a / 0x1000000) (a / 0x10000 % 0x100)

/-- Only registers may change, and of them only the words of a list and the accounting words. -/
def OnlyWords (s t : State) (l : List Nat) : Prop := PartsKept s t ∧ WordsKept s t (words l)

/-- The last message to the hosts. -/
def Tells (t : State) (m : HostMsg) : Prop := t.hostOut.getLast? = some m

/-- Perhal takes up the request of a port: it stands at the front, and requests are answered (R561, R564). -/
def State.asks (s : State) (hp op : Nat) : Bool :=
  s.started && !s.fatal && s.perhal.order.head? == some hp && s.fld secPage (R.SEC_REQ_OP hp) == op && !s.perhal.closed

/-- The request of a port has ended with a result (R564). -/
def Ended (t : State) (hp result : Nat) : Prop :=
  t.fld secPage (R.SEC_REQ_STATE hp) = 3 ∧ t.fld secPage (R.SEC_REQ_RESULT hp) = result

end Sys2Proof.Machine
end

