-- ==== Sys2Proof/Certificates/Slice0/Obligations.lean ====
section
/-! DEFINITION. The statements about the package, each a proposition. -/

open Sys2Proof Sys2Proof.Machine

/-- Right after reset every sparse table of the state is in canonical form, and no command is dispatched. -/
def Obligations.ResetIsTidy : Prop := State.reset.Tidy

/-- Every step keeps the canonical form: from a state whose sparse tables are in canonical form and whose dispatched
commands bear rising identifiers below the next one, a step that answers a next state answers such a state, whichever
command stands in front. -/
def Obligations.StepKeepsTidy : Prop := ∀ s t : State, s.Tidy → step s = .next t → t.Tidy

/-- A step runs the command at the front of the queue of waiting commands on the state with the rest of that queue. -/
def Obligations.StepRunsFrontCommand : Prop :=
  ∀ (s : State) (c : Instr), step { s with pending := c :: s.pending } = exec c s

/-- R9: a word that nothing has written reads as its reset word. At reset every word of the register space reads its reset
word, and every sync cell reads 0 (R261). A package reset, and the removal of power, leave every register at its reset
word, nothing in memory, in the cells, in the queues or dispatched, and no key; the fuses and the start store stay. START
of a package that is reset begins row 1 with every rail valid and the life cycle of the fuses. -/
def Obligations.ResetsLeaveResetWords : Prop :=
  ((∀ a, State.reset.word a = resetNat a % 2 ^ 64) ∧ ∀ c, State.reset.cell c = 0)
  ∧ (∀ (s : State), s.Tidy →
    let reset (t : State) : Prop := (∀ a, t.word a = resetNat a % 2 ^ 64) ∧ t.mem = [] ∧ t.poison = [] ∧ (∀ c, t.cell c = 0)
      ∧ t.cmds = [] ∧ t.waits = [] ∧ t.fatal = false ∧ t.perhal = {} ∧ t.pending = s.pending
      ∧ t.fuses = s.fuses ∧ t.startCount = s.startCount ∧ t.record = s.record
    Answers .packageReset s reset ∧ Answers .powerRemoved s reset
    ∧ (s.startStep = 0 → Answers .start s fun t => t.startStep = 1 ∧ t.fld pwrPage R.PWR_RAIL_STS_VALID = 0x3FF
        ∧ t.lifeCycle = s.fuses.lc % 16 ∧ t.fld secPage R.SEC_LC_SVN_FUSED = s.fuses.svn % 128
        ∧ PartsKept s t)
    ∧ (s.startStep ≠ 0 → exec .start s = .next s))

/-- A caller takes a NOP, a JUMP, a PROG_END, or a legacy NOP at the head of its queue and executes it itself: the queue
stands at its next command, and no dispatched command is left of it. A JUMP puts TARGET into FETCH, and a PROG_END clears
RUN. The frame of a NOP that neither signals nor records nor raises a vector, of an unsampled die, in a queue of device
memory outside a bracket: memory, poison, cells, brackets and every other part but the bookkeeping of its queue stay (its
registered wait, if it has one, is withdrawn), and so does every word but those of its queue's entry. -/
def Obligations.CallerCommandsAndTheirFrame : Prop :=
  (∀ (s : State) (d : Fin 4) (q : Fin 64) (ext : HostSlot) (h : Head), s.Tidy →
    (s.takes d q ext h false Opc.NOP = true → Answers (.nop d q ext) s fun t => Consumed s t d q ∧ Left s t)
    ∧ (s.takes d q ext h false Opc.JUMP = true → Answers (.jump d q ext) s fun t =>
        Consumed s t d q ∧ Left s t ∧ t.qf d q R.QUEUE_W5_FETCH = wf h.cmdWords 2 0 32 % 2 ^ 16)
    ∧ (s.takes d q ext h false Opc.PROG_END = true → Answers (.progEnd d q ext) s fun t =>
        Consumed s t d q ∧ Left s t ∧ t.qf d q R.QUEUE_W1_RUN = 0)
    ∧ (s.takes d q ext h true 1 = true → Answers (.v1Nop d q ext) s fun t => Consumed s t d q ∧ Left s t))
  ∧ (∀ (s : State) (d : Fin 4) (q : Fin 64) (ext : HostSlot) (h : Head), s.Tidy →
    s.takes d q ext h false Opc.NOP = true → hSigEn h.cmdWords = false → hCr h.cmdWords = false →
    hIrq h.cmdWords = false → s.on (page d B.PMU) R.PMU_SAMPLE_CTL_EN = false →
    (s.sampler d).due = none → (s.sampler d).tagged = none → s.bracketOf d q = none →
    (s.queue (queueNo d q)).haltAfter = false →
    Answers (.nop d q ext) s fun t =>
      WordsKept s t (queueWords d q) ∧ t.waits = (s.waits.filter fun w => w.queue != queueNo d q)
      ∧ PartsKept s { t with
          queues := s.queues, nextId := s.nextId, chosen := s.chosen, arrivals := s.arrivals, waits := s.waits })

/-- R256: a NOP that completes with OK and has SIG_EN sets its cell to the value or adds it modulo 2^32; the cell is one
of a present die, no command waits on it, and the command stands outside a bracket. The same holds of a move, of an array
or vector operation, and of a collective that runs alone, when they complete without an error. -/
def Obligations.SignalSetsOrAdds : Prop :=
  (∀ (s : State) (d : Fin 4) (q : Fin 64) (ext : HostSlot) (h : Head), s.Tidy →
    s.takes d q ext h false Opc.NOP = true → hSigEn h.cmdWords = true → s.bracketOf d q = none →
    let g := hSignal h.cmdWords
    s.present (g.cell / 16384) = true → s.waits.all (fun w => w.cell != g.cell) = true →
    Answers (.nop d q ext) s fun t => Signals s t g)
  ∧ (∀ (s : State) (d : Fin 4) (c : Cmd), s.Tidy → hSigEn c.words = true → c.attempt = none → c.error = none →
    let g := hSignal c.words
    s.present (g.cell / 16384) = true → s.waits.all (fun w => w.cell != g.cell) = true →
    (s.moveReady d = some c → Answers (.moveComplete d) s fun t => Signals s t g)
    ∧ ((s.cmds.find? fun x => x.stage == .arrayRun && x.arrays.contains d.val) = some c → c.orphan = false →
        c.arrays.any s.floorLost = false → Answers (.arrayOpComplete d) s fun t => Signals s t g)
    ∧ (∀ u : Fin 64, (s.cmds.find? fun x => x.stage == .vectorDone && x.die == d.val && x.units.contains u.val) = some c →
        s.floorLost d = false → s.allLanded c.id = true → Answers (.vectorOpComplete d u) s fun t => Signals s t g)
    ∧ (∀ (q : Fin 64) (n : BitVec 32), s.cmds = [c] → c.die = d → c.queue = q → c.number = n.toNat →
        s.collReady c = true → s.clx.answers = [] → Answers (.collectiveComplete d q n) s fun t => Signals s t g))

/-- R260: a head with a reserved opcode, and one of any other row with a reserved bit of its header or operands, completes
with CMD_INVALID without its wait being looked at: the queue moves on, the caller halts, and the record of the queue's
completion ring carries ERROR and CMD_INVALID. -/
def Obligations.InvalidCommandHaltsCaller : Prop :=
  ∀ (s : State) (d : Fin 4) (q : Fin 64) (ext : HostSlot) (h : Head) (i : Instr), s.Tidy →
    s.hasHead d q = true → s.callerRuns d q = true → (s.queue (queueNo d q)).drain = false →
    (s.queue (queueNo d q)).skip = 0 → s.bracketOf d q = none → s.headOf d q ext = some h → h.poisoned = false →
    h.legacy = false → s.eligible d q h = true → s.outranked d q = false →
    s.chosenOf d (s.callerOf d q) = none → (∀ p, s.pageHolds p = false) → s.recordOpen d q = true →
    bitOn (s.fld (page d B.CAL) R.CAL_RESUME_RESUME) (s.callerOf d q) = false →
    let rows : List (Nat × Instr) := [(Opc.NOP, .nop d q ext), (Opc.JUMP, .jump d q ext), (Opc.PROG_END, .progEnd d q ext),
      (Opc.MARKER, .marker d q ext), (Opc.ARRAY_OP, .arrayOp d q ext), (Opc.VECTOR_OP, .vectorOp d q ext),
      (Opc.MOVE_COPY, .moveCopy d q ext), (Opc.MOVE_2D, .move2d d q ext), (Opc.MOVE_FILL, .moveFill d q ext),
      (Opc.SYNC_REMOTE, .syncRemote d q ext), (Opc.GATHER, .gather d q ext), (Opc.REDUCE_SCATTER, .reduceScatter d q ext),
      (Opc.ALL_REDUCE, .allReduce d q ext), (Opc.PIPE_SEND, .pipeSend d q ext), (Opc.SEQ_PASS, .seqPass d q ext),
      (Opc.DIE_REDUCE, .dieReduce d q ext), (Opc.BUCKET_REDUCE, .bucketReduce d q ext), (Opc.LAYER_OPEN, .layerOpen d q ext),
      (Opc.LAYER_CLOSE, .layerClose d q ext), (Opc.STEP_GATE, .stepGate d q ext), (Opc.FIGURE_CHANGE, .figureChange d q ext),
      (Opc.POSE, .pose d q ext), (Opc.TAKEOVER, .takeover d q ext)]
    (operandMask h.opc = none ∧ i = .nop d q ext) ∨ ((h.opc, i) ∈ rows ∧ badForm h.cmdWords = true) →
    Answers i s fun t =>
      Consumed s t d q ∧ Left s t ∧ t.halted d (s.callerOf d q) = true ∧ Records s t d q Err.CMD_INVALID 0

/-- R255: a wait on a cell of a present die is satisfied when (cell − THRESH) modulo 2^32 is below 2^31; a consuming one
then subtracts THRESH from the cell, and a wait that is not met leaves the state as it is. -/
def Obligations.WaitComparesModulo : Prop :=
  ∀ (s : State) (w : Wait), s.Tidy → w ∈ s.waits →
    (meets (s.cell w.cell) w.thresh = true ↔ (s.cell w.cell + (2 ^ 32 - w.thresh % 2 ^ 32)) % 2 ^ 32 < 2 ^ 31)
    ∧ (meets (s.cell w.cell) w.thresh = true →
        ((s.testWait w).queue w.queue).wait = .satisfied
        ∧ ((s.testWait w).cell w.cell + (if w.consume then w.thresh else 0)) % 2 ^ 32 = s.cell w.cell % 2 ^ 32
        ∧ (s.testWait w).waits.length + 1 = s.waits.length)
    ∧ (meets (s.cell w.cell) w.thresh = false → s.testWait w = s)

/-- A MARKER, or a legacy one, raises the sequence number of its die's markers, sends a token with that number and its
value on to the floor PMU, and completes. A SYNC_REMOTE with a sub-link in service to its rank sends a SYNC item with its
cell, operation and value, and waits for LANDED. The item goes on the lowest such sub-link or, while an earlier
SYNC_REMOTE of the same caller to the same rank waits, on the sub-link that took that one, so that the two apply in order;
while that one is out of service it waits. -/
def Obligations.MarkersAndRemoteSignalsAreSent : Prop :=
  (∀ (s : State) (d : Fin 4) (q : Fin 64) (ext : HostSlot) (h : Head), s.Tidy →
    let seq := (Table.get (fun _ => 0) s.markerSeq d + 1) % 2 ^ 32
    let sent (t : State) : Prop := Consumed s t d q ∧ Left s t
      ∧ ∃ k : Token, t.tokens = s.tokens ++ [(d.val, k)] ∧ k.seq = seq ∧ k.value = wordAt h.cmdWords 2
    (s.takes d q ext h false Opc.MARKER = true → Answers (.marker d q ext) s sent)
    ∧ (s.takes d q ext h true 5 = true → Answers (.v1Marker d q ext) s sent))
  ∧ (∀ (s : State) (d : Fin 4) (q : Fin 64) (ext : HostSlot) (h : Head) (e : Nat), s.Tidy →
    s.takes d q ext h false Opc.SYNC_REMOTE = true →
    let w := h.cmdWords
    let rank := wf w 2 0 16
    let caller (e r : Nat) : Nat := s.qf e r R.QUEUE_W1_CALLER
    let mates := (s.cmds.filter fun x => x.stage == .syncRemote && x.die == d.val && caller x.die x.queue == caller d q
      && wf x.words 2 0 16 == rank).filterMap Cmd.link
    let waits (t : State) : Prop := Consumed s t d q ∧ ∃ x ∈ t.cmds, x.id = s.nextId ∧ x.stage = .syncRemote
    ((mates = [] ∧ (s.rankLinks rank).head? = some e) ∨ (mates.head? = some e ∧ e ∈ s.rankLinks rank) →
      Answers (.syncRemote d q ext) s fun t => waits t
        ∧ ∃ i : SyncItem, t.sentItems = s.sentItems ++ [⟨e, .sync i⟩] ∧ i.die.val = wf w 2 30 2
          ∧ i.index.val = wf w 2 16 14 ∧ i.set = (wf w 2 32 1 == 1) ∧ i.value.toNat = wf w 3 0 32)
    ∧ (mates.head? = some e → e ∉ s.rankLinks rank → s.rankLinks rank ≠ [] →
      Answers (.syncRemote d q ext) s fun t => waits t ∧ t.sentItems = s.sentItems))

/-- An ARRAY_OP, or a legacy one, that meets its checks enters the array dispatch arbiter: its queue stands at the next
command, a command with its words waits, nothing is written to memory, and a grand one raises a claim and GRAND_PENDING on
every compute die. A VECTOR_OP, or a legacy one, that meets its checks enters the vector dispatch arbiter of its die: its
queue stands at the next command, a command with its words waits, and nothing is written to memory. -/
def Obligations.OperationsEnterTheirArbiters : Prop :=
  (∀ (s : State) (d : Fin 4) (q : Fin 64) (ext : HostSlot) (h : Head), s.Tidy →
    s.clears d q h (prepDesc aryOutTensor State.aryCheck) = true →
    let desc := s.words (s.descAt (s.mkCmd d q h)) 16
    let waits (t : State) : Prop := Consumed s t d q ∧ t.mem = s.mem ∧ t.poison = s.poison
      ∧ (∃ c ∈ t.cmds, c.id = s.nextId ∧ c.stage = .arrayWait ∧ c.die = d ∧ c.queue = q ∧ c.words = h.cmdWords
          ∧ c.desc = desc)
      ∧ (aryGrand desc = true → t.claims = s.claims ++ [s.nextId]
          ∧ ∀ e : Fin 4, t.on (page e B.ARY) R.ARY_MODE_GRAND_PENDING = true)
      ∧ (aryGrand desc = false → t.claims = s.claims)
    (s.takes d q ext h false Opc.ARRAY_OP = true → Answers (.arrayOp d q ext) s waits)
    ∧ (s.takes d q ext h true 2 = true → Answers (.v1Array d q ext) s waits))
  ∧ (∀ (s : State) (d : Fin 4) (q : Fin 64) (ext : HostSlot) (h : Head), s.Tidy →
    s.clears d q h (prepDesc vOutTensor State.vecCheck) = true →
    let waits (t : State) : Prop := Consumed s t d q ∧ t.mem = s.mem ∧ t.poison = s.poison
      ∧ ∃ c ∈ t.cmds, c.id = s.nextId ∧ c.stage = .vectorWait ∧ c.die = d ∧ c.queue = q ∧ c.words = h.cmdWords
          ∧ c.desc = s.words (s.descAt (s.mkCmd d q h)) 16
    (s.takes d q ext h false Opc.VECTOR_OP = true → Answers (.vectorOp d q ext) s waits)
    ∧ (s.takes d q ext h true 3 = true → Answers (.v1Vector d q ext) s waits))

/-- The floor grants the oldest grand claim once no claim is granted and all four arrays have finished: the claim leaves
the list, GRAND_PENDING of every compute die shows whether more wait, and nothing else changes. The operation that an
array's arbiter grants takes its arrays, when their dies are present: they turn busy, and its accumulators hold, for every
element of the output, the dot product of its operands as they stand (none when M or N is 0, and an error instead when an
operand is poisoned). Memory stays as it is. -/
def Obligations.ArraysAreGrantedAndStart : Prop :=
  (∀ (s : State) (id : Nat) (l : List Nat), s.Tidy → s.claims = id :: l → s.granted = none →
    (∀ d : Fin 4, s.arrayFree d = true) →
    Answers .grandClaim s fun t =>
      PartsKept s { t with claims := s.claims, granted := s.granted } ∧ t.claims = l ∧ t.granted = some id
      ∧ (∀ d : Fin 4, Sets s t (page d B.ARY) R.ARY_MODE_GRAND_PENDING (if l = [] then 0 else 1))
      ∧ WordsKept s t (words ((List.range 4).map fun d => page d B.ARY + R.ARY_MODE.off)))
  ∧ (∀ (s : State) (d : Fin 4) (c : Cmd), s.Tidy → s.arrayNext d = some c → s.spareDue = [] →
    s.aryUsable c.die c.desc = none →
    let dies := if aryGrand c.desc then [0, 1, 2, 3] else [aryDie c.desc]
    (∀ e ∈ dies, s.present e = true) →
    let n := aryN c.desc
    let empty := aryM c.desc == 0 || n == 0
    let poison := !empty && (aryOperands c.desc).any fun o => s.badRows o.1 o.2.1 o.2.2.1 o.2.2.2
    Answers (.arrayOpStart d) s fun t =>
      t.mem = s.mem ∧ t.poison = s.poison
      ∧ (∀ e ∈ dies, t.on (page e B.ARY) R.ARY_MODE_ARRAY_BUSY = true)
      ∧ ∃ x ∈ t.cmds, x.id = c.id ∧ x.stage = .arrayRun ∧ x.arrays = dies
        ∧ x.acc = (if empty || poison then [] else tabulate (fun k => s.aryAcc c.desc (k / n) (k % n)) (aryM c.desc * n))
        ∧ (poison = true → x.error = some (Err.MEM_POISON, 0)))

/-- R91, R104 to R106: an operation that ends without an error leaves its arrays. Element (i, j) of its output, the
accumulator's result, stands at ACC_OFF + i · pitch in its column of the ACC of its die; in grand mode column j stands on
CD2 or CD3, by j modulo 1,280, in columns of 640 a group, and with MIRROR on CD0 or CD1 too. Of a die that receives a
result that is not finite the non-finite flag of the context sets, in the job word or, while a sample waits, in the next
one; the flags of the other dies stay. The operation is neither sampled nor asks for a record. R97: an operation that ends
with an error, its operand poisoned or its array lost, leaves its arrays too, and halts its caller when it stands outside
a bracket. -/
def Obligations.ArrayOperationsEnd : Prop :=
  (∀ (s : State) (d : Fin 4) (c : Cmd), s.Tidy →
    (s.cmds.find? fun c => c.stage == .arrayRun && c.arrays.contains d.val) = some c → c.error = none → c.orphan = false →
    c.arrays.any s.floorLost = false → c.arrays.all (fun e => decide (e < 4)) = true → c.die < 4 → c.queue < 64 → c.context < 2 →
    hCr c.words = false → hSigEn c.words = false →
    (s.sampler c.die).due = none → (s.sampler c.die).tagged = none → s.poison = [] →
    (∀ e : Fin 4, s.on (page e B.NUM) R.NUM_EVT_CTL_EN = false) →
    let grand := aryGrand c.desc
    let m := aryM c.desc
    let n := aryN c.desc
    let e := aryElem c.desc
    let pitch := wf c.desc 10 32 32
    let off := wf c.desc 10 0 26
    let f : Fmt := if e = 8 then .fp64 else .fp32
    let code (i j : Nat) : Nat := aryResult c.desc (c.acc.getD (i * n + j) 0)
    let col (j : Nat) : Nat := if grand then j / 1280 * 640 + j % 1280 % 640 else j
    let dies (j : Nat) : List Nat := if grand then
        let k := if j % 1280 < 640 then 0 else 1
        if aryMirror c.desc then [k, 2 + k] else [2 + k]
      else [aryDie c.desc]
    (if grand then ceilDiv n 1280 * 640 else n) * e ≤ pitch → off + m * pitch ≤ 0x3000000 → c.acc.length = m * n →
    Answers (.arrayOpComplete d) s fun t =>
      (∀ x ∈ c.arrays, t.on (page x B.ARY) R.ARY_MODE_ARRAY_BUSY = false)
      ∧ (t.cmds.map Cmd.id = (s.cmds.map Cmd.id).filter (· != c.id))
      ∧ (∀ i j, i < m → j < n → ∀ x ∈ dies j,
          t.bytes (accAddr x (off + i * pitch + col j * e)) e = leBytes e (code i j))
      ∧ (∀ x : Fin 4, (∃ i j, i < m ∧ j < n ∧ x.val ∈ dies j ∧ vfinite (decode f (code i j)) = false) →
          t.nonfiniteSeen x c.context = true)
      ∧ ∀ x : Fin 4, (∀ i j, i < m → j < n → x.val ∈ dies j → vfinite (decode f (code i j)) = true) →
          t.nonfiniteSeen x c.context = s.nonfiniteSeen x c.context)
  ∧ (∀ (s : State) (d : Fin 4) (c : Cmd) (err : Nat × Nat), s.Tidy →
    (s.cmds.find? fun c => c.stage == .arrayRun && c.arrays.contains d.val) = some c → c.error = some err → c.orphan = false →
    c.arrays.any s.floorLost = false → c.arrays.all (fun e => decide (e < 4)) = true → c.die < 4 → c.queue < 64 →
    c.attempt = none → bitOn (s.fld (page c.die B.CAL) R.CAL_RESUME_RESUME) (s.callerOf c.die c.queue) = false →
    Answers (.arrayOpComplete d) s fun t =>
      (∀ x ∈ c.arrays, t.on (page x B.ARY) R.ARY_MODE_ARRAY_BUSY = false)
      ∧ (t.cmds.map Cmd.id = (s.cmds.map Cmd.id).filter (· != c.id))
      ∧ t.halted c.die (s.callerOf c.die c.queue) = true)

/-- A KERNEL that is granted takes its units: each starts at the code address with S0 the parameter base, S1 its number
among the units and S2 their number (R159), and no memory is written. An operation whose units have finished and whose
stores have all landed completes: it leaves its units, which turn idle and no longer busy, and no dispatched command is
left of it. -/
def Obligations.KernelsStartAndOperationsEnd : Prop :=
  (∀ (s : State) (d : Fin 4) (c : Cmd), s.Tidy → s.starts d c OpKind.KERNEL = true → c.die = d →
    let l := unitList (vMask c.desc)
    Answers (.kernel d) s fun t =>
      t.mem = s.mem ∧ t.unitsBusy d = (s.unitsBusy d ||| vMask c.desc)
      ∧ (∃ x ∈ t.cmds, x.id = c.id ∧ x.stage = .vectorRun ∧ x.units = l)
      ∧ ∀ i u, l[i]? = some u →
          (t.unit d u).mode = .running ∧ (t.unit d u).op = some c.id ∧ (t.unit d u).pc = wf c.desc 3 0 52
          ∧ (t.unit d u).scalar 0 = BitVec.ofNat 64 (vAux c.desc 0) ∧ (t.unit d u).scalar 1 = BitVec.ofNat 64 i
          ∧ (t.unit d u).scalar 2 = BitVec.ofNat 64 l.length)
  ∧ (∀ (s : State) (d : Fin 4) (vu : Fin 64) (c : Cmd), s.Tidy →
    (s.cmds.find? fun c => c.stage == .vectorDone && c.die == d.val && c.units.contains vu.val) = some c →
    s.allLanded c.id = true → s.floorLost d = false → (∀ u ∈ c.units, u < 64) →
    Answers (.vectorOpComplete d vu) s fun t =>
      t.cmds.map Cmd.id = (s.cmds.map Cmd.id).filter (· != c.id)
      ∧ (∀ u ∈ c.units, bitOn (t.unitsBusy d) u = false ∧ (t.unit d u).op = none ∧ (t.unit d u).mode = .idle)
      ∧ ∀ u, u < 64 → u ∉ c.units → bitOn (t.unitsBusy d) u = bitOn (s.unitsBusy d) u ∧ t.unit d u = s.unit d u)

/-- A row operation that is granted takes the usable units of its mask and ends on them: EPILOGUE, SOFTMAX, RMSNORM,
LAYERNORM, ADAMW, ATTN_MERGE and XENT, with MEM_POISON where an operand is poisoned, otherwise without an error. Then they
store what their rule makes of the rows of the operands as they stood, where no store sets the non-finite flag, the stores
are disjoint and lie in staging or an ACC, and no earlier store waits. A QUANT that is granted runs on its units and ends
with the counts of its overflowed and non-finite elements; one whose operand is poisoned ends with MEM_POISON. Of the
first, element (r, k) of its region is stored as its code of R57 under the coarse scale and the fine shift of its block of
32, in rows of the output tensor, and the shift of each block in rows of the shift tensor, from the region's first block
on: a row for 32 rows with AXIS 1, a row for each row otherwise. The stores are disjoint, lie in staging or an ACC apart
from the tensor's scale-table entry, and no earlier store waits. R152: the procedure of SOFTMAX on a row. A NaN makes
every output and the statistic the canonical NaN; otherwise +∞ at k columns gives 1/k there, zero elsewhere, and the
statistic +∞; a row with nothing above −∞ gives zeros and the statistic −∞; otherwise each output is EXP of the difference
to the maximum over their ordered sum, masked columns zero, and the statistic the maximum plus LOG of that sum. -/
def Obligations.RowOperationsComputeTheirRows : Prop :=
  (∀ (s : State) (d : Fin 4) (c : Cmd), s.Tidy → c.die = d →
    let x : Cmd := { c with units := unitList (vMask c.desc &&& s.unitsUsable d) }
    let ends (e : VecEffect) (t : State) : Prop :=
      t.unitsBusy d = (s.unitsBusy d ||| (vMask c.desc &&& s.unitsUsable d))
      ∧ (∃ y ∈ t.cmds, y.id = c.id ∧ y.stage = .vectorDone ∧ y.units = x.units
          ∧ y.error = if s.vecPoison x then some (Err.MEM_POISON, 0) else none)
      ∧ (s.vecPoison x = false → e.bad = false → s.allLanded c.id = true →
          (∀ p ∈ e.stores, s.open p.1 p.2.2.length = true) →
          e.stores.Pairwise (fun p q => p.1 + p.2.2.length ≤ q.1 ∨ q.1 + q.2.2.length ≤ p.1) →
          ∀ p ∈ e.stores, t.bytes p.1 p.2.1 = p.2.2.take p.2.1)
    (s.starts d c OpKind.EPILOGUE = true → Answers (.epilogue d) s (ends (s.epilogueEffect x)))
    ∧ (s.starts d c OpKind.SOFTMAX = true → Answers (.softmax d) s (ends (s.softmaxEffect x)))
    ∧ (s.starts d c OpKind.RMSNORM = true → Answers (.rmsnorm d) s (ends (s.rmsnormEffect x)))
    ∧ (s.starts d c OpKind.LAYERNORM = true → Answers (.layernorm d) s (ends (s.layernormEffect x)))
    ∧ (s.starts d c OpKind.ADAMW = true → Answers (.adamw d) s (ends (s.adamwEffect x)))
    ∧ (s.starts d c OpKind.ATTN_MERGE = true → Answers (.attnMerge d) s (ends (s.mergeEffect x)))
    ∧ (s.starts d c OpKind.XENT = true → Answers (.xent d) s (ends (s.xentEffect x))))
  ∧ (∀ (s : State) (d : Fin 4) (c : Cmd), s.Tidy → s.starts d c OpKind.QUANT = true → c.die = d →
    let x : Cmd := { c with units := unitList (vMask c.desc &&& s.unitsUsable d) }
    let e := (s.quantEffect x).1
    let g := c.desc
    let f := vOutFmt g
    let byRows := wf g 0 38 1 == 1
    let scale := decode .fp32 (c.scales.getD 0 one32)
    let v (r k : Nat) : Val :=
      if r < vRows g ∧ k < vCols g then decode (vInFmt g) ((s.inRow x r).getD k 0) else .fin false 0 0
    let codes (r : Nat) : List Byte := elemBytes (fmtWidth f)
      (tabulate (fun k => (quantElem f (vecRound x r k) (v r k) (quantShift g scale v r k) scale).1) (vCols g))
    let shifts (i : Nat) : List Byte := elemBytes 4
      (if byRows then tabulate (fun k => quantShift g scale v (32 * i) k) (vCols g)
       else tabulate (fun j => quantShift g scale v i (32 * j)) (ceilDiv (vCols g) 32))
    Answers (.quant d) s fun t =>
      t.unitsBusy d = (s.unitsBusy d ||| (vMask c.desc &&& s.unitsUsable d))
      ∧ (∃ y ∈ t.cmds, y.id = c.id ∧ y.stage = .vectorDone
        ∧ (s.vecPoison x = true → y.error = some (Err.MEM_POISON, 0))
        ∧ (s.vecPoison x = false → y.error = none ∧ y.ovf = e.ovf ∧ y.nonfinite = e.nonfin))
      ∧ (s.vecPoison x = false → s.allLanded c.id = true → s.on (page d B.NUM) R.NUM_EVT_CTL_EN = false →
          (∀ p ∈ e.stores, s.open p.1 p.2.2.length = true) →
          e.stores.Pairwise (fun p q => p.1 + p.2.2.length ≤ q.1 ∨ q.1 + q.2.2.length ≤ p.1) →
          (∀ p ∈ e.stores, ∀ a, s.entryAddr d c.context c.tensor = some a →
            p.1 + p.2.2.length ≤ a ∨ a + 128 ≤ p.1) →
          (∀ r, r < vRows g → t.bytes ((vOut g).rowAddr d r) (codes r).length = codes r)
          ∧ ∀ i, i < (if byRows then ceilDiv (vRows g) 32 else vRows g) →
              t.bytes (vAux g 0 + shiftSkip g + i * vAuxPitch g) (shifts i).length = shifts i))
  ∧ (∀ z : List (Option Nat),
    let v := z.filterMap id
    let k := (v.filter (· == inf32)).length
    (v.any isNan32 = true → (softRow z).y = z.map (fun _ => nan32) ∧ (softRow z).stat = [nan32])
    ∧ (v.any isNan32 = false → 0 < k →
        (softRow z).y = z.map (fun c => if c = some inf32 then fdiv .fp32 one32 (nat32 k) else 0)
        ∧ (softRow z).stat = [inf32])
    ∧ ((∀ c ∈ v, c = ninf32) → (softRow z).y = z.map (fun _ => 0) ∧ (softRow z).stat = [ninf32])
    ∧ (v.any isNan32 = false → k = 0 → (∃ c ∈ v, c ≠ ninf32) →
        let m := orderedMax (z.map fun c => c.getD ninf32)
        let e := z.map fun c => (c.map fun x => fnEval .exp (fsub .fp32 x m)).getD 0
        (softRow z).y = e.map (fun x => fdiv .fp32 x (orderedSum e))
        ∧ (softRow z).stat = [fadd .fp32 m (fnEval .log (orderedSum e))])
    ∧ (softRow z).y.length = z.length)

/-- A scalar instruction writes one scalar register with its operation's value of two or three others, moves the program
counter past the instruction, and changes nothing else. NUM_REPORT with a tensor's entry in place reports the amax of
S[SB] for the tensor of S[SB + 1] and moves the program counter on. -/
def Obligations.ScalarInstructionsAndReports : Prop :=
  (∀ (s : State) (d : Fin 4) (vu : Fin 64) (c : Cmd) (w : Nat) (rd ra rb rc : Fin 32),
    let x := s.unit d vu
    (∀ op : ScalarInt, s.issues d vu c w 0x00 0x0F = true → Answers (.scalarIntegerOp d vu op rd ra rb) s fun t =>
      UnitBecomes s t d vu { x.setScalar rd (scalarInt op (x.scalar ra) (x.scalar rb) (iImm w)) with pc := x.pc + 8 })
    ∧ (∀ op : ScalarFp, s.issues d vu c w 0x10 0x17 = true → Answers (.scalarFp32Op d vu op rd ra rb rc) s fun t =>
      UnitBecomes s t d vu
        { x.setScalar rd (scalarFp op (x.scalar ra) (x.scalar rb) (x.scalar rc)) with pc := x.pc + 8 }))
  ∧ (∀ (s : State) (d : Fin 4) (vu : Fin 64) (c : Cmd) (w : Nat), s.issues d vu c w 0x18 0x1F = true → iSb w ≠ 31 →
    let x := s.unit d vu
    let tensor := (x.scalar (iSb w + 1)).toNat % 65536
    (s.entryAddr d c.context tensor).isSome = true →
    Answers (.numReport d vu) s fun t =>
      (t.unit d vu) = { x with pc := x.pc + 8 }
      ∧ t = ((s.setUnit d vu { x with pc := x.pc + 8 }).count (page d B.PMU) (C.PMU_UNIT_INSTRUCTIONS vu) 1).amaxReport d
          c.context tensor ((x.scalar (iSb w)).toNat % 2 ^ 32) c.attempt)

/-- Control instructions: a branch goes to its target, a conditional one only where it is taken, a call keeps the address
of the next instruction, a return goes to the newest address kept, and UBAR stands at the barrier. Nothing but the unit's
program counter, kept addresses and mode changes. Targets and conditions are free values. HALT stops its unit, and when
every unit of the operation has halted the operation has finished. R160: once every unit of the operation stands at UBAR
and its stores have landed, all of them continue; while one does not, or a store waits, none does. -/
def Obligations.ControlHaltsAndBarriers : Prop :=
  (∀ (s : State) (d : Fin 4) (vu : Fin 64) (c : Cmd) (w : Nat), s.issues d vu c w 0x18 0x1F = true →
    let x := s.unit d vu
    let y := { x with pc := x.pc + 8 }
    (Answers (.branch d vu) s fun t => UnitBecomes s t d vu { x with pc := targetOf y w })
    ∧ (Answers (.conditionalBranch d vu) s fun t => UnitBecomes s t d vu
        (if Config.branchTaken (BitVec.ofNat 64 w) (x.scalar (iSb w)) then { x with pc := targetOf y w } else y))
    ∧ (Answers (.call d vu) s fun t => UnitBecomes s t d vu { x with pc := targetOf y w, calls := (x.pc + 8) :: x.calls })
    ∧ (∀ a l, x.calls = a :: l → Answers (.ret d vu) s fun t => UnitBecomes s t d vu { x with pc := a, calls := l })
    ∧ (x.calls = [] → Answers (.ret d vu) s fun t => UnitBecomes s t d vu { x with pc := targetOf y w })
    ∧ (Answers (.ubar d vu) s fun t => UnitBecomes s t d vu { y with mode := .barrier }))
  ∧ (∀ (s : State) (d : Fin 4) (vu : Fin 64) (c : Cmd) (w : Nat), s.issues d vu c w 0x18 0x1F = true →
    Answers (.halt d vu) s fun t =>
      (t.unit d vu).mode = .halted ∧ t.mem = s.mem
      ∧ ((∀ v ∈ c.units, v ≠ vu.val → (s.unit d v).mode = .halted) →
          ∃ x ∈ t.cmds, x.id = c.id ∧ x.stage = .vectorDone)
      ∧ (∀ v ∈ c.units, v ≠ vu.val → v < 64 → (s.unit d v).mode ≠ .halted → t.cmds = s.cmds))
  ∧ (∀ (s : State) (d : Fin 4) (vu : Fin 64) (c : Cmd), (s.unit d vu).op.bind s.cmdOf = some c → (∀ v ∈ c.units, v < 64) →
    let landed := s.allLanded c.id
    ((∀ v ∈ c.units, (s.unit d v).mode = .barrier) → landed = true → Answers (.ubarRelease d vu) s fun t =>
        (∀ v ∈ c.units, t.unit d v = { s.unit d v with mode := .running })
        ∧ (∀ v, v < 64 → v ∉ c.units → t.unit d v = s.unit d v) ∧ PartsKept s { t with units := s.units } ∧ t.regs = s.regs)
    ∧ ((∃ v ∈ c.units, (s.unit d v).mode ≠ .barrier) ∨ landed = false → exec (.ubarRelease d vu) s = .next s))

/-- A TILE_LOAD and a TRANSPOSED_LOAD of placed rows without poison write the tile from memory as the operation's earlier
stores leave it: element (r, k) of the tile comes from row r, position k, and of a transposed one from row k, position r.
A TILE_STORE, a TRANSPOSED_STORE and a PACKED_NARROW_STORE of finite elements write their rows to memory: the rows as they
stand, the columns of the view, and the packed codes of each row. Every byte outside the rows stays. The rows are disjoint
and lie in staging or an ACC, and no earlier store of the operation waits. Movement of a tile: TRANSPOSE exchanges rows
and columns where the view has both; LANE_ROTATE moves the elements of every row, and ROW_ROTATE the rows, by IMM in one
direction (a free value). -/
def Obligations.TilesMoveThroughMemoryAndPermute : Prop :=
  (∀ (s : State) (d : Fin 4) (vu : Fin 64) (c : Cmd) (w : Nat) (f : Fmt) (a : Nat → Nat),
    s.issues d vu c w 0x20 0x27 = true → iFmt w = some f →
    let e := if isNarrow f then fmtWidth f else viewWidth f
    let y := { s.unit d vu with pc := (s.unit d vu).pc + 8 }
    (s.tileAddrs d c y w 32 (if isNarrow f then 4 * fmtWidth f else 128) = .ok a →
      (∀ r, r < 32 → (s.loadOf (some c.id) (a r) (if isNarrow f then 4 * fmtWidth f else 128)).1 = false) →
      Answers (.tileLoad d vu) s fun t => TileBecomes s t d vu (iTd w) f fun r k =>
        bits (s.loadOf (some c.id) (a r) (if isNarrow f then 4 * fmtWidth f else 128)).2 (e * k) e)
    ∧ (s.tileAddrs d c y w (viewCols f) (4 * e) = .ok a →
      (∀ r, r < viewCols f → (s.loadOf (some c.id) (a r) (4 * e)).1 = false) →
      Answers (.transposedLoad d vu) s fun t => TileBecomes s t d vu (iTd w) f fun r k =>
        bits (s.loadOf (some c.id) (a k) (4 * e)).2 (e * r) e))
  ∧ (∀ (s : State) (d : Fin 4) (vu : Fin 64) (c : Cmd) (w : Nat) (f : Fmt) (a : Nat → Nat), s.Tidy →
    s.issues d vu c w 0x20 0x27 = true → s.allLanded c.id = true → iFmt w = some f → (s.unit d vu).nonFinite (iTa w) f = false →
    let x := s.unit d vu
    let y := { x with pc := x.pc + 8 }
    let e := viewWidth f
    let stored (rows bytes : Nat) (row : Nat → Nat) (t : State) : Prop :=
      (∀ r, r < rows → t.bytes (a r) bytes = leBytes bytes (row r))
      ∧ (∀ p, (∀ r, r < rows → p < a r ∨ a r + bytes ≤ p) → t.byte p = s.byte p)
      ∧ t.unit d vu = y
    let apart (rows bytes : Nat) : Prop := s.tileAddrs d c y w rows bytes = .ok a
      ∧ (∀ r, r < rows → s.open (a r) bytes = true) ∧ ∀ r q, r < q → q < rows → a r + bytes ≤ a q ∨ a q + bytes ≤ a r
    (apart 32 128 → Answers (.tileStore d vu) s (stored 32 128 (x.row (iTa w))))
    ∧ (apart (viewCols f) (4 * e) → Answers (.transposedStore d vu) s
        (stored (viewCols f) (4 * e) fun k => packElems e (tabulate (fun r => bits (x.row (iTa w) r) (e * k) e) 32)))
    ∧ (apart 32 (viewCols f * fmtWidth f / 8) → Answers (.packedNarrowStore d vu) s
        (stored 32 (viewCols f * fmtWidth f / 8) fun r =>
          packElems (fmtWidth f) (tabulate (fun k => x.elem (iTa w) f r k) (viewCols f)))))
  ∧ (∀ (s : State) (d : Fin 4) (vu : Fin 64) (c : Cmd) (w : Nat) (f : Fmt), s.issues d vu c w 0x60 0x67 = true →
    iFmt w = some f →
    let x := s.unit d vu
    (Answers (.transpose d vu) s fun t =>
      (∀ r k, r < 32 → k < 32 → r < viewCols f → k < viewCols f →
        (t.unit d vu).elem (iTd w) f r k = x.elem (iTa w) f k r)
      ∧ UnitBecomes s t d vu { x with pc := x.pc + 8, tiles := (t.unit d vu).tiles })
    ∧ (Answers (.laneRotate d vu) s fun t => TileBecomes s t d vu (iTd w) f fun r k =>
        x.elem (iTa w) f r (rotated w k (viewCols f)))
    ∧ (Answers (.rowRotate d vu) s fun t => TileBecomes s t d vu (iTd w) f fun r k =>
        x.elem (iTa w) f (rotated w r 32) k))

/-- An elementwise instruction of a wide view writes every element of its destination tile with the operation of the three
operands, the second after its broadcast; a function instruction of FP32 with the function of the first. The reductions of
an FP32 tile: ROW_SUM and ROW_MAX put the tree of each row into column 0 and +0 elsewhere, COLUMN_SUM and COLUMN_MAX that
of each column into row 0; with ACCUM each is combined with what stood there. -/
def Obligations.ElementwiseAndReductions : Prop :=
  (∀ (s : State) (d : Fin 4) (vu : Fin 64) (c : Cmd) (w : Nat) (f : Fmt),
    let x := s.unit d vu
    (∀ op : TileOp, s.issues d vu c w 0x28 0x3F = true → iFmt w = some f → isNarrow f = false →
      Answers (.tileElementwise d vu op) s fun t => TileBecomes s t d vu (iTd w) f fun r k =>
        tileOp op f (x.elem (iTa w) f r k) (x.operandB w f r k) (x.elem (iTc w) f r k))
    ∧ (∀ fn : Fn, s.issues d vu c w 0x40 0x4F = true → iFmt w = some .fp32 →
      Answers (.tileFunction d vu fn) s fun t => TileBecomes s t d vu (iTd w) .fp32 fun r k =>
        if fn = .div then fdiv .fp32 (x.elem (iTa w) .fp32 r k) (x.operandB w .fp32 r k)
        else fnEval fn (x.elem (iTa w) .fp32 r k)))
  ∧ (∀ (s : State) (d : Fin 4) (vu : Fin 64) (c : Cmd) (w : Nat), s.issues d vu c w 0x50 0x57 = true →
    iFmt w = some .fp32 →
    let x := s.unit d vu
    let acc (f : Nat → Nat → Nat) (old v : Nat) : Nat := if iAccum w then f old v else v
    let byRow (f : Nat → Nat → Nat) (pad r k : Nat) : Nat :=
      if k = 0 then acc f (x.elem (iTd w) .fp32 r 0) (tree32 f pad (tabulate (fun j => x.elem (iTa w) .fp32 r j) 32)) else 0
    let byCol (f : Nat → Nat → Nat) (pad r k : Nat) : Nat :=
      if r = 0 then acc f (x.elem (iTd w) .fp32 0 k) (tree32 f pad (tabulate (fun j => x.elem (iTa w) .fp32 j k) 32)) else 0
    (Answers (.rowSum d vu) s fun t => TileBecomes s t d vu (iTd w) .fp32 (byRow (fadd .fp32) 0))
    ∧ (Answers (.rowMax d vu) s fun t => TileBecomes s t d vu (iTd w) .fp32 (byRow (fmax .fp32) ninf32))
    ∧ (Answers (.columnSum d vu) s fun t => TileBecomes s t d vu (iTd w) .fp32 (byCol (fadd .fp32) 0))
    ∧ (Answers (.columnMax d vu) s fun t => TileBecomes s t d vu (iTd w) .fp32 (byCol (fmax .fp32) ninf32)))

/-- Conversions of a tile: a TILE_CONVERSION that R51 allows converts each element that both views have, a narrow one by
the shift of its block and the coarse scale, which ends the operation with SCALE_INVALID where R46 does not allow it; a
SPLIT puts the high parts into columns 0 to 31 and the low parts into columns 32 to 63. A QUANTISE into another tile than
that of its shifts writes the codes of R57 and the fine shift of each block of 32, for a coarse scale that R46 allows. -/
def Obligations.ConversionsAndQuantisation : Prop :=
  (∀ (s : State) (d : Fin 4) (vu : Fin 64) (c : Cmd) (w : Nat), s.issues d vu c w 0x58 0x5F = true →
    let x := s.unit d vu
    let code := (x.scalar (iSb w)).toNat % 2 ^ 32
    (∀ (src dst : Fmt) (axis : Axis), iFmt w = some dst → convertible src dst (iRnd w) = true →
      (isNarrow src = true → scaleValid code = true) →
      Answers (.tileConversion d vu ⟨src, axis⟩) s fun t =>
        (∀ r k, r < 32 → k < viewCols src → k < viewCols dst → (t.unit d vu).elem (iTd w) dst r k =
          (if isNarrow src then
            dequant src (x.elem (iTa w) src r k) (x.shiftOf w axis r k) (decode .fp32 code)
          else convert src dst (kernelRound s.free w r k) (x.elem (iTa w) src r k)) % 2 ^ fmtWidth dst)
        ∧ UnitBecomes s t d vu { x with pc := x.pc + 8, tiles := (t.unit d vu).tiles })
    ∧ (∀ (src dst : Fmt) (axis : Axis), iFmt w = some dst → convertible src dst (iRnd w) = true → isNarrow src = true →
        scaleValid code = false → Answers (.tileConversion d vu ⟨src, axis⟩) s fun t =>
          ∃ y ∈ t.cmds, y.id = c.id ∧ y.stage = .vectorDone ∧ y.error = some (Err.SCALE_INVALID, 0))
    ∧ (iFmt w = some .bf16 → Answers (.split d vu) s fun t => TileBecomes s t d vu (iTd w) .bf16 fun r k =>
        let p := splitHiLo (x.elem (iTa w) .fp32 r (k % 32))
        if k < 32 then p.1 else p.2))
  ∧ (∀ (s : State) (d : Fin 4) (vu : Fin 64) (c : Cmd) (w : Nat) (src dst : Fmt) (axis : Axis),
    s.issues d vu c w 0x58 0x5F = true → iFmt w = some dst → isNarrow dst = true → (src = .fp32 ∨ src = .bf16) →
    iRnd w < 2 → iTc w ≠ iTd w →
    let x := s.unit d vu
    let code := (x.scalar (iSb w)).toNat % 2 ^ 32
    let cs := decode .fp32 code
    let shift (i : Nat) : Nat := x.blockShift w src dst axis cs i
    scaleValid code = true →
    Answers (.quantise d vu src axis) s fun t =>
      (t.unit d vu).pc = x.pc + 8
      ∧ (∀ r k, r < 32 → k < 32 → (t.unit d vu).elem (iTd w) dst r k =
          (quantElem dst (kernelRound s.free w r k) (decode src (x.elem (iTa w) src r k))
            (shift (match axis with | .columns => r | .rows => k)) cs).1 % 2 ^ fmtWidth dst)
      ∧ ∀ i, i < 32 → (match axis with
          | .columns => (t.unit d vu).elem (iTc w) .fp32 i 0
          | .rows => (t.unit d vu).elem (iTc w) .fp32 0 i) = shift i % 2 ^ 32)

/-- R133: MAX and MIN of a wide format return the canonical NaN when either operand is NaN, and of the two zeros MAX
returns +0 and MIN −0, in either order. -/
def Obligations.MaxAndMinOfNanAndZeros : Prop :=
  ∀ f ∈ [Fmt.fp32, .bf16, .fp64], ∀ a b : Nat,
    let neg := 2 ^ (fmtWidth f - 1)
    (decode f a = .nan ∨ decode f b = .nan → fmax f a b = nanOf f ∧ fmin f a b = nanOf f)
    ∧ fmax f neg 0 = 0 ∧ fmax f 0 neg = 0 ∧ fmin f neg 0 = neg ∧ fmin f 0 neg = neg

/-- R137: a running unit that meets an instruction of the reserved opcodes 0x68 to 0xFF faults: every unit of the
operation stops, and the operation ends with KERNEL_FAULT, whose detail names the fault and the unit. -/
def Obligations.ReservedOpcodeFaultsKernel : Prop :=
  ∀ (s : State) (d : Fin 4) (vu : Fin 64) (c : Cmd) (w : Nat), s.issues d vu c w 0x68 0xFF = true → c.die = d →
    (∀ u ∈ c.units, u < 64) →
    Answers (.ubar d vu) s fun t =>
      (∃ x ∈ t.cmds, x.id = c.id ∧ x.stage = .vectorDone ∧ x.error = some (Err.KERNEL_FAULT, KFault.instr * 256 + vu))
      ∧ ∀ u ∈ c.units, (t.unit d u).mode = .halted

/-- A MOVE_COPY, a legacy COPY and a MOVE_FILL that meet their checks write their destination at once, in staging or an
ACC of a present die: the bytes of a source that the destination does not overlap and that is neither poisoned nor fenced,
or the repeated pattern. The command stands at the move engine until its completion. A MOVE_2D that meets its checks
copies every row; rows of the destination are disjoint from each other and from the rows of the source, and no write waits
under the command's number. The oldest move of a die whose granules have all landed completes: it is dispatched no longer;
one that read poison halts its caller. -/
def Obligations.MovesWriteAndComplete : Prop :=
  (∀ (s : State) (d : Fin 4) (q : Fin 64) (ext : HostSlot) (h : Head), s.Tidy → s.clears d q h moveCheck = true →
    let w := h.cmdWords
    let src := wf w 2 0 52
    let dst := wf w 3 0 52
    let n := wf w 4 0 48
    n ≠ 0 → s.open dst n = true → s.absentAt dst = none → s.allLanded s.nextId = true →
    let standing (t : State) : Prop := Consumed s t d q
      ∧ (∃ x ∈ t.cmds, x.id = s.nextId ∧ x.stage = .moving ∧ x.error = none)
      ∧ ∀ a, a < dst ∨ dst + n ≤ a → t.byte a = s.byte a
    let copied (t : State) : Prop := standing t ∧ t.bytes dst n = s.bytes src n
    (s.absentAt src = none → s.badRange src n = false → (src + n ≤ dst ∨ dst + n ≤ src) →
        (s.takes d q ext h false Opc.MOVE_COPY = true → Answers (.moveCopy d q ext) s copied)
        ∧ (s.takes d q ext h true 4 = true → Answers (.v1Copy d q ext) s copied))
    ∧ (s.takes d q ext h false Opc.MOVE_FILL = true → Answers (.moveFill d q ext) s fun t => standing t
        ∧ ∀ i, i < n / 8 → t.load (dst + 8 * i) 8 = wordAt w 5 % 2 ^ 64))
  ∧ (∀ (s : State) (d : Fin 4) (q : Fin 64) (ext : HostSlot) (h : Head), s.Tidy → s.clears d q h moveCheck = true →
    s.takes d q ext h false Opc.MOVE_2D = true →
    let w := h.cmdWords
    let rows := wf w 4 0 32
    let n := wf w 4 32 32
    let src (r : Nat) : Nat := wf w 2 0 52 + r * wf w 5 0 32
    let dst (r : Nat) : Nat := wf w 3 0 52 + r * wf w 5 32 32
    n ≠ 0 → s.allLanded s.nextId = true → (∀ r, r < rows → s.open (dst r) n = true ∧ s.absentAt (dst r) = none ∧ s.absentAt (src r) = none
      ∧ s.badRange (src r) n = false) →
    (∀ r p, r < p → p < rows → dst r + n ≤ dst p ∨ dst p + n ≤ dst r) →
    (∀ r p, r < rows → p < rows → src r + n ≤ dst p ∨ dst p + n ≤ src r) →
    Answers (.move2d d q ext) s fun t => Consumed s t d q
      ∧ (∃ x ∈ t.cmds, x.id = s.nextId ∧ x.stage = .moving ∧ x.error = none)
      ∧ ∀ r, r < rows → t.bytes (dst r) n = s.bytes (src r) n)
  ∧ (∀ (s : State) (d : Fin 4) (c : Cmd), s.Tidy → s.moveReady d = some c → c.attempt = none →
    bitOn (s.fld (page d B.CAL) R.CAL_RESUME_RESUME) (s.callerOf d c.queue) = false →
    Answers (.moveComplete d) s fun t =>
      t.cmds.map Cmd.id = (s.cmds.map Cmd.id).filter (· != c.id)
      ∧ (c.error.isSome = true → t.halted d (s.callerOf d c.queue) = true))

/-- A LAYER_OPEN of a die that its MEMBERS name opens a bracket there: the context's bracket is the queue's, at replay
level 0 with no command taken, the gate of the context is open to a next step, and, where the command does not signal and
nothing waits on them, the bracket-local cells read 0. A LAYER_CLOSE inside its bracket waits for the outcome, and its
queue counts it as taken. -/
def Obligations.BracketsOpenAndWait : Prop :=
  (∀ (s : State) (d : Fin 4) (q : Fin 64) (ext : HostSlot) (h : Head), s.Tidy →
    s.takes d q ext h false Opc.LAYER_OPEN = true → (openDies h.cmdWords).contains d.val = true →
    let w := h.cmdWords
    let ctx := s.ctxOf d q
    Answers (.layerOpen d q ext) s fun t => Consumed s t d q ∧ Left s t
      ∧ (∃ b, (t.job d ctx).bracket = some b ∧ b.queue = q ∧ b.words = w ∧ b.level = 0 ∧ b.taken = 0
          ∧ ∃ g ∈ t.groups, g.id = b.id ∧ g.ctx = ctx)
      ∧ t.on (page d B.JCX) (R.JCX_NUM_STS_BRACKET_OPEN ctx) = true
      ∧ t.on (page d B.JCX) (R.JCX_NUM_STS_GATE_DONE ctx) = false
      ∧ (hSigEn w = false →
          (∀ x ∈ s.waits, ∀ i, i < wf w 2 56 8 → x.cell ≠ cellNo d (wf w 3 0 14 + i)) →
          ∀ i, i < wf w 2 56 8 → t.cell (cellNo d (wf w 3 0 14 + i)) = 0))
  ∧ (∀ (s : State) (d : Fin 4) (q : Fin 64) (ext : HostSlot) (h : Head), s.Tidy →
    s.takes d q ext h false Opc.LAYER_CLOSE = true →
    Answers (.layerClose d q ext) s fun t => Consumed s t d q ∧ t.mem = s.mem
      ∧ (∃ x ∈ t.cmds, x.id = s.nextId ∧ x.stage = .close)
      ∧ t.qf d q R.QUEUE_W2_HEAD = s.qf d q R.QUEUE_W2_HEAD)

/-- The outcome of a bracket whose members have all reached their close. A commit without commit-add lists closes the
bracket of every member and moves its queue past the commands taken. A replay raises the level of every member's bracket,
up to 3, and puts its queue back to the commands after LAYER_OPEN, with nothing held. A failure closes the bracket of
every member, sets the cause BRACKET_FAILED there when the gate word of the step has not formed, and halts the member's
caller. R191, R192: a bracket that commits with commit-add lists runs them, and waits for them: an entry with STORE copies
its source to its destination, another adds its source to its destination, element by element in FP32. The destinations
lie in staging or an ACC, apart from each other and from every source and list, nothing is poisoned, no write of a close
waits, and numeric event records are off. A member's commit-add list is done once its granules have landed; when every
other member's list is done too, the bracket commits and closes on every member. -/
def Obligations.BracketsCommitReplayOrFail : Prop :=
  (∀ (s : State) (d : Fin 4) (c : Ctx) (g : Group), s.Tidy → s.groupOf d (ctxNo c) = some g → g.ctx = ctxNo c →
    (openDies g.words).all (s.reached g) = true → (s.members g).any (fun x => x.2.adding) = false →
    (∀ x ∈ s.members g, x.2.queue < 64) →
    (s.outcomeOf g = .commit → (∀ x ∈ s.members g, caddList x.2.words = none) →
      Answers (.bracketOutcome d c) s fun t =>
        (∀ x ∈ s.members g, (t.job x.1 g.ctx).bracket = none
          ∧ t.qf x.1 x.2.queue R.QUEUE_W2_HEAD = (s.qf x.1 x.2.queue R.QUEUE_W2_HEAD + x.2.taken) % 2 ^ 32)
        ∧ t.groups = s.groups.filter (fun x => x.id != g.id))
    ∧ (s.outcomeOf g = .replay → Answers (.bracketOutcome d c) s fun t =>
        (∀ x ∈ s.members g, ∃ b, (t.job x.1 g.ctx).bracket = some b ∧ b.level = min 3 (x.2.level + 1) ∧ b.taken = 0
          ∧ b.held = [] ∧ b.overflow = [] ∧ b.id = x.2.id
          ∧ t.qf x.1 x.2.queue R.QUEUE_W2_HEAD = s.qf x.1 x.2.queue R.QUEUE_W2_HEAD)
        ∧ t.groups = s.groups)
    ∧ (∀ e, s.outcomeOf g = .failed e → Answers (.bracketOutcome d c) s fun t =>
        (∀ x ∈ s.members g, (t.job x.1 g.ctx).bracket = none
          ∧ (s.sampled x.1 g.ctx = false → t.on (page x.1 B.JCX) (R.JCX_NUM_STS_BRACKET_FAILED g.ctx) = true)
          ∧ ((∀ y, s.closeOf x.1 x.2 = some y → y.attempt = none) →
              s.fld (page x.1 B.CAL) R.CAL_RESUME_RESUME = 0 → t.halted x.1 (s.callerOf x.1 x.2.queue) = true))
        ∧ t.groups = s.groups.filter (fun x => x.id != g.id)))
  ∧ (∀ (s : State) (d : Fin 4) (c : Ctx) (g : Group), s.Tidy → s.groupOf d (ctxNo c) = some g → g.ctx = ctxNo c →
    (openDies g.words).all (s.reached g) = true → (s.members g).any (fun x => x.2.adding) = false →
    s.outcomeOf g = .commit → (∃ x ∈ s.members g, caddList x.2.words ≠ none) →
    let entriesOf (x : Nat × Bracket) : List (List Nat) := match caddList x.2.words with
      | none => []
      | some l => tabulate (fun i => s.words (l.1 + 32 * i) 4) l.2
    let es := (s.members g).flatMap entriesOf
    let len (e : List Nat) : Nat := 4 * wf e 2 0 32
    let dst (e : List Nat) : Nat := wf e 1 0 52
    let apart (a n : Nat) (e : List Nat) : Prop := a + n ≤ dst e ∨ dst e + len e ≤ a
    (∀ e ∈ es, s.open (dst e) (len e) = true ∧ s.absentAt (dst e) = none ∧ s.absentAt (caddSrc e) = none
      ∧ s.badRange (caddSrc e) (len e) = false) →
    es.Pairwise (fun e f => apart (dst f) (len f) e) → (∀ e ∈ es, ∀ f ∈ es, apart (caddSrc f) (len f) e) →
    (∀ e ∈ es, ∀ x ∈ s.members g, ∀ l, caddList x.2.words = some l → apart l.1 (32 * l.2) e) →
    (∀ x ∈ s.members g, ∀ y, s.closeOf x.1 x.2 = some y → s.allLanded y.id = true) →
    (∀ e : Fin 4, s.on (page e B.NUM) R.NUM_EVT_CTL_EN = false) →
    Answers (.bracketOutcome d c) s fun t =>
      (∀ x ∈ s.members g, ∃ b, (t.job x.1 g.ctx).bracket = some b ∧ b.adding = true
        ∧ b.added = (caddList x.2.words).isNone)
      ∧ t.groups = s.groups
      ∧ ∀ e ∈ es, ∀ i, i < wf e 2 0 32 / 16 →
          let x := codes16 (s.load (caddSrc e + 64 * i) 64)
          codes16 (t.load (dst e + 64 * i) 64)
            = (if wf e 2 32 1 = 1 then x
               else List.zipWith (fadd .fp32) (codes16 (s.load (dst e + 64 * i) 64)) x).map (· % 2 ^ 32))
  ∧ (∀ (s : State) (d : Fin 4) (c : Ctx) (g : Group) (b : Bracket), s.Tidy → s.groupOf d (ctxNo c) = some g →
    g.ctx = ctxNo c → (s.job d (ctxNo c)).bracket = some b → b.adding = true → b.added = false →
    (∀ x, s.closeOf d b = some x → s.allLanded x.id = true) →
    ((∀ x ∈ s.members g, x.1 ≠ d.val → x.2.added = true) → Answers (.commitAddDone d c) s fun t =>
        (∀ x ∈ s.members g, (t.job x.1 g.ctx).bracket = none) ∧ t.groups = s.groups.filter (fun x => x.id != g.id))
    ∧ ((∃ x ∈ s.members g, x.1 ≠ d.val ∧ x.2.added = false) → Answers (.commitAddDone d c) s fun t =>
        (t.job d g.ctx).bracket = some { b with added := true } ∧ t.groups = s.groups ∧ t.cmds = s.cmds))

/-- A STEP_GATE whose gate has evaluated the step already takes its outcome: it adds 1 to its open cell, or to its shut
cell, and its OPT_COUNT commands are let through or skipped. One whose gate has not waits for it, and GATE_WAIT shows it.
The gate of a present die evaluates the job gate word: a word of 0 opens it and STEP moves on by 1; another word shuts it
and STEP stays. The record of the gate shows the step, the word and the outcome, and no STEP_GATE of the die waits on. -/
def Obligations.GatesTakeTheirOutcome : Prop :=
  (∀ (s : State) (d : Fin 4) (q : Fin 64) (ext : HostSlot) (h : Head), s.Tidy →
    s.takes d q ext h false Opc.STEP_GATE = true →
    let w := h.cmdWords
    let ctx := s.ctxOf d q
    let opens := s.on (page d B.JCX) (R.JCX_GATE_OPEN ctx)
    (s.on (page d B.JCX) (R.JCX_NUM_STS_GATE_DONE ctx) = false → Answers (.stepGate d q ext) s fun t => Consumed s t d q
        ∧ (∃ x ∈ t.cmds, x.id = s.nextId ∧ x.stage = .gate)
        ∧ t.on (page d B.JCX) (R.JCX_NUM_STS_GATE_WAIT ctx) = true ∧ t.cells = s.cells)
    ∧ (s.on (page d B.JCX) (R.JCX_NUM_STS_GATE_DONE ctx) = true → (∀ e : Fin 4, s.present e = true) → s.waits = [] →
      Answers (.stepGate d q ext) s fun t => Consumed s t d q ∧ Left s t
        ∧ (t.queue (queueNo d q)).opt = (if opens then wf w 2 48 16 else 0)
        ∧ (t.queue (queueNo d q)).skip = (if opens then 0 else wf w 2 48 16)
        ∧ (opens = true → t.cell (cellNo (wf w 2 14 2) (wf w 2 0 14))
            = (s.cell (cellNo (wf w 2 14 2) (wf w 2 0 14)) + 1) % 2 ^ 32)
        ∧ (opens = false → wf w 2 32 1 = 1 → t.cell (cellNo (wf w 2 30 2) (wf w 2 16 14))
            = (s.cell (cellNo (wf w 2 30 2) (wf w 2 16 14)) + 1) % 2 ^ 32)
        ∧ (opens = false → wf w 2 32 1 = 0 → t.cells = s.cells)))
  ∧ (∀ (s : State) (d : Fin 4) (c : Ctx) (word : Nat), s.Tidy → (s.gate (ctxNo c)).job = some word →
    s.present d = true → (s.gate (ctxNo c)).done.contains d.val = false → s.gateCmds d (ctxNo c) ≠ [] →
    (∀ e ∈ s.presentDies, (s.job e (ctxNo c)).bracket = none) →
    let pg := page d B.JCX
    let k := ctxNo c
    Answers (.gateEvaluation d c) s fun t =>
      t.stepOf d k = (if word = 0 then (s.stepOf d k + 1) % 2 ^ 32 else s.stepOf d k)
      ∧ t.fld pg (R.JCX_GATE_STEP k) = s.stepOf d k ∧ t.fld pg (R.JCX_GATE_WORD k) = word % 2 ^ 16
      ∧ t.on pg (R.JCX_GATE_OPEN k) = (word == 0) ∧ t.on pg (R.JCX_GATE_VALID k) = true
      ∧ t.on pg (R.JCX_NUM_STS_GATE_DONE k) = true ∧ t.on pg (R.JCX_NUM_STS_GATE_WAIT k) = false
      ∧ t.gateCmds d k = [])

/-- R198: the package gate word of a step is the OR of the flag and the causes of the present dies, formed once every
present die's STEP_GATE waits; in the cut-in context it is the job gate word at once. -/
def Obligations.GateWordIsTheOr : Prop :=
  ∀ (s : State) (c : Ctx), s.Tidy → (s.gate (ctxNo c)).word = none → s.presentDies ≠ [] →
    (∀ d ∈ s.presentDies, s.gateCmds d (ctxNo c) ≠ []) →
    let word := s.presentDies.foldl (fun w d => w ||| s.causes d (ctxNo c)) 0
    Answers (.gateWordForm c) s fun t =>
      (t.gate (ctxNo c)).word = some word ∧ (c = .cutIn → (t.gate 1).job = some word)
      ∧ ∀ d ∈ s.presentDies, (s.gate (ctxNo c)).done.contains d = false → t.sampled d (ctxNo c) = true

/-- A collective command that meets its checks, with no other at CLX and no hold, starts at once: it has sent the units of
its first region, that of its shard, of a chunk, or of its operand, or none on a ring of one, and none of it has arrived.
A DIE_REDUCE adds its four sources element by element in FP32, in their order, into its destination in staging or an ACC;
the sources are neither poisoned nor fenced, lie apart from the destination, and no write waits. -/
def Obligations.CollectivesStart : Prop :=
  (∀ (s : State) (d : Fin 4) (q : Fin 64) (ext : HostSlot) (h : Head), s.Tidy → s.clears d q h collCheck = true →
    s.clxHolds = false → s.clx.answers = [] → s.clx.owed = [] →
    (∀ x ∈ s.cmds, x.stage ≠ .collHeld ∧ x.stage ≠ .collRun) →
    let c := (collCheck s (s.mkCmd d q h)).1
    s.startError c = none → s.collUnlearned c = false → s.gatheredBefore c = false →
    let starts (n : Nat) (t : State) : Prop := Consumed s t d q
      ∧ ∃ x ∈ t.cmds, x.id = s.nextId ∧ x.stage = .collRun ∧ x.begun = true ∧ x.sent = n ∧ x.rcv = 0
    let ring (n : Nat) : Nat := if s.ringSize ≤ 1 then 0 else n
    (s.takes d q ext h false Opc.GATHER = true → Answers (.gather d q ext) s (starts (ring (s.shardOf c).2)))
    ∧ (s.takes d q ext h false Opc.REDUCE_SCATTER = true →
        Answers (.reduceScatter d q ext) s (starts (ring (s.reductionOf c).chunk)))
    ∧ (s.takes d q ext h false Opc.ALL_REDUCE = true →
        Answers (.allReduce d q ext) s (starts (ring (s.reductionOf c).chunk)))
    ∧ (s.takes d q ext h false Opc.PIPE_SEND = true → Answers (.pipeSend d q ext) s (starts (wf c.words 4 0 32)))
    ∧ (s.takes d q ext h false Opc.SEQ_PASS = true → Answers (.seqPass d q ext) s (starts (wf c.words 4 0 32)))
    ∧ (s.takes d q ext h false Opc.BUCKET_REDUCE = true →
        Answers (.bucketReduce d q ext) s (starts (ring (s.reductionOf c).chunk)))
    ∧ (s.takes d q ext h true 6 = true →
        Answers (.v1BucketReduce d q ext) s (starts (ring (s.reductionOf c).chunk))))
  ∧ (∀ (s : State) (d : Fin 4) (q : Fin 64) (ext : HostSlot) (h : Head), s.Tidy → s.clears d q h collCheck = true →
    s.takes d q ext h false Opc.DIE_REDUCE = true → s.clxHolds = false → s.clx.answers = [] →
    s.clx.owed = [] → s.heldWrites = [] → s.collUnlearned (collCheck s (s.mkCmd d q h)).1 = false →
    (∀ x ∈ s.cmds, x.stage ≠ .collHeld ∧ x.stage ≠ .collRun) →
    let w := h.cmdWords
    let src (i : Nat) : Nat := wf w (2 + i) 0 52
    let dst := wf w 6 0 52
    let n := wf w 7 0 32
    let x (k i : Nat) : List Nat := codes16 (s.load (src k + 64 * i) 64)
    let y (i : Nat) : List Nat :=
      List.zipWith (fadd .fp32) (List.zipWith (fadd .fp32) (List.zipWith (fadd .fp32) (x 0 i) (x 1 i)) (x 2 i)) (x 3 i)
    s.open dst (64 * n) = true → s.absentAt dst = none →
    (∀ k, k < 4 → s.absentAt (src k) = none ∧ s.badRange (src k) (64 * n) = false
      ∧ (src k + 64 * n ≤ dst ∨ dst + 64 * n ≤ src k)) →
    (∀ i, i < n → ∀ v ∈ y i, finite32 v = true) →
    Answers (.dieReduce d q ext) s fun t => Consumed s t d q
      ∧ (∀ i, i < n → codes16 (t.load (dst + 64 * i) 64) = (y i).map (· % 2 ^ 32))
      ∧ ∃ x ∈ t.cmds, x.id = s.nextId ∧ x.stage = .collRun ∧ x.begun = true ∧ x.error = none)

/-- R371: a collective command completes when it has received everything, sent everything, every write of it has landed
and LANDED has come back; it is dispatched no longer. An ABORT item of this epoch ends the command that it names, unless
it is the second of the two that a ring brings. A LANDED item marks its command as landed at its peer; one that answers a
SYNC_REMOTE completes it. -/
def Obligations.CollectivesCompleteOrAbort : Prop :=
  (∀ (s : State) (d : Fin 4) (q : Fin 64) (number : BitVec 32) (c : Cmd), s.Tidy →
    (s.clxLanded.cmds.find? fun c =>
      c.die == d.val && c.queue == q.val && c.number == number.toNat && s.clxLanded.collReady c) = some c →
    Answers (.collectiveComplete d q number) s fun t => (∀ x ∈ t.cmds, x.id ≠ c.id)
      ∧ ∀ i ∈ t.cmds.map Cmd.id, i ∈ s.cmds.map Cmd.id)
  ∧ (∀ (s u : State) (e : Fin 32) (p : Path) (h : ItemHdr) (c : Cmd), s.Tidy → h.epoch.toNat = u.epoch →
    let landed := s.clxItem e h (.landed p h false false) = some u
    (s.clxItem e h (.abort p h) = some u → u.pathCmd p h = some c →
      u.clx.aborted.contains (p, h.step.toNat, h.tensor.toNat, h.origin.toNat) = false → Answers (.abort e p h) s fun t => ∀ x ∈ t.cmds, x.id ≠ c.id)
    ∧ (landed → u.landedCmd e p h = some c → p ≠ .sync → Answers (.landed e p h false false) s fun t =>
        ∃ x ∈ t.cmds, x.id = c.id ∧ x.landed = true)
    ∧ (landed → u.landedCmd e p h = some c → p = .sync → Answers (.landed e p h false false) s fun t =>
        t.cmds.map Cmd.id = (s.cmds.map Cmd.id).filter (· != c.id)))

/-- R367: an item of a ring that fits the oldest command of its channel that still receives leaves the receive buffer, and
the command has received its units. R398: an item of a ring that carries another epoch is discarded, and the command that
it matches fails: it is dispatched no longer. -/
def Obligations.RingItemsReachTheirCommand : Prop :=
  (∀ (s u : State) (e : Fin 32) (i : Item) (c : Cmd), s.Tidy → i.hdr.epoch.toNat = u.epoch →
    i.hdr.step.toNat = c.step % 2 ^ 32 → i.hdr.tensor.toNat = collTensor c.words c.desc → u.collAbsent c = none →
    u.cutShort e i c = false →
    let comes (kind : Nat) : Prop :=
      s.clxItem e i.hdr (.item kind i) = some u ∧ u.headColl (kindChannel kind) = some c
    let received (t : State) : Prop := (t.link e).rx = (u.link e).rx
      ∧ ∃ x ∈ t.cmds, x.id = c.id ∧ x.rcv = c.rcv + i.payload.length / 64
    let k := i.hdr.chunk.toNat
    let r := u.reductionOf c
    let inside (units : Nat) (one : Bool) : Prop := itemInside i u.ringSize units one = true
    let readable : Prop :=
      u.badRange (r.src + (k * r.chunk + i.hdr.offset.toNat) * 64) (i.payload.length / 64 * 64) = false
    (comes 1 → inside (u.shardOf c).2 true → k ≠ u.ringPos → Answers (.gatherItem e i) s received)
    ∧ (comes 2 → inside r.chunk (!r.all) → k ≠ u.prevPos → readable → Answers (.reduce e i) s received)
    ∧ (comes 3 → inside r.chunk false → r.all = true → k ≠ u.ringPos → Answers (.result e i) s received)
    ∧ (comes 4 → inside r.chunk (!r.all) → (r.all = true ∨ k ≠ u.prevPos) → readable → Answers (.bucket e i) s received)
    ∧ (comes 6 → itemSized i (wf c.words 4 0 32) true = true →
        i.hdr.origin.toNat = (u.seqPos + u.seqSize - c.pass % u.seqSize) % u.seqSize → Answers (.seq e i) s received))
  ∧ (∀ (s u : State) (e : Fin 32) (i : Item) (c : Cmd), s.Tidy → i.hdr.epoch.toNat ≠ u.epoch →
    let comes (kind : Nat) : Prop :=
      s.clxItem e i.hdr (.item kind i) = some u ∧ u.headColl (kindChannel kind) = some c
    let failed (t : State) : Prop := (∀ x ∈ t.cmds, x.id ≠ c.id) ∧ (t.link e).rx = (u.link e).rx
    (comes 1 → Answers (.gatherItem e i) s failed) ∧ (comes 2 → Answers (.reduce e i) s failed)
    ∧ (comes 3 → Answers (.result e i) s failed) ∧ (comes 4 → Answers (.bucket e i) s failed)
    ∧ (comes 6 → Answers (.seq e i) s failed))

/-- A GATHER item of another position's shard is written at that shard's place of the destination, for a destination in
staging or an ACC apart from the tag table, with no other command at CLX and no write of the command waiting. A PIPE item
that carries a whole region, the first of its group and the last, is written at REMOTE_DST, which a primary partition of
the lowest present die holds, in staging or an ACC. A SYNC item of this epoch for a primary cell of a present die, on
which nothing waits, sets or adds to the cell. -/
def Obligations.ItemsLandInMemoryAndCells : Prop :=
  (∀ (s u : State) (e : Fin 32) (i : Item) (c : Cmd), s.Tidy →
    s.clxItem e i.hdr (.item 1 i) = some u → i.hdr.epoch.toNat = u.epoch → u.headColl 2 = some c →
    i.hdr.step.toNat = c.step % 2 ^ 32 → i.hdr.tensor.toNat = collTensor c.words c.desc →
    itemInside i u.ringSize (u.shardOf c).2 true = true → i.hdr.chunk.toNat ≠ u.ringPos →
    u.collAbsent c = none → u.cutShort e i c = false → s.allLanded c.id = true →
    s.clx.answers = [] → (∀ x ∈ s.cmds, x.stage = .collRun → x = c) →
    s.on (page c.die B.NUM) R.NUM_EVT_CTL_EN = false →
    let q := i.hdr.chunk.toNat
    let a := wf c.words 2 0 52 + (q * (u.shardOf c).2 + i.hdr.offset.toNat) * 64
    let tag := wf c.words 3 0 52 + 16 * q
    s.open a i.payload.length = true → s.open tag 16 = true → (tag + 16 ≤ a ∨ a + i.payload.length ≤ tag) →
    Answers (.gatherItem e i) s fun t => t.bytes a i.payload.length = i.payload)
  ∧ (∀ (s u : State) (e : Fin 32) (i : Item) (die : Nat), s.Tidy → s.clxItem e i.hdr (.item 5 i) = some u →
    i.hdr.epoch.toNat = u.epoch → (∀ x ∈ s.clx.inbound, x.group ≠ (u.pipeFrom e).1) → i.hdr.last = true →
    i.hdr.offset = 0 → i.payload.length % 64 = 0 → s.presentDies.head? = some die →
    let a := i.hdr.remote.toNat
    a % 64 = 0 → s.named die 0 a i.payload.length = true → s.open a i.payload.length = true →
    s.absentAt a = none → s.allLanded s.nextId = true →
    Answers (.pipe e i) s fun t => t.bytes a i.payload.length = i.payload ∧ (t.link e).rx = (u.link e).rx)
  ∧ (∀ (s u : State) (e : Fin 32) (i : SyncItem), s.Tidy → s.clxItem e i.hdr (.sync i) = some u → i.hdr.epoch.toNat = u.epoch →
    s.cellOf i.die 0 i.index = true → s.present i.die = true →
    let c := cellNo i.die i.index
    (∀ w ∈ s.waits, w.cell ≠ c) →
    Answers (.sync e i) s fun t =>
      t.cell c = (if i.set then i.value.toNat else s.cell c + i.value.toNat) % 2 ^ 32 ∧ (t.link e).rx = (u.link e).rx)

/-- A summary item of this epoch that fits the step: a chain word is recorded for its stage, a returning summary gives
this package the sums of the stage, and the accumulated one gives them to the last position of the ring, which adds its
own. R415: a sub-link whose lanes have changed takes the effective weight WEIGHT · lanes, and nothing changes beside the
weights of FIG. -/
def Obligations.SummaryAndWeightsFollow : Prop :=
  (∀ (s u : State) (e : Fin 32) (i : SummaryItem), s.Tidy → s.clxItem e i.hdr (.summary i) = some u → i.hdr.epoch.toNat = u.epoch →
    u.summaryFits i = true →
    let w : StageWord := ⟨i.word.toNat, i.due⟩
    let sums := i.sums.foldl (fun l (x : SlotSum) =>
      Table.set (fun _ => ({} : Stat)) l x.slot.val ⟨x.sumL.toNat, x.sumR.toNat, x.count⟩) []
    (i.leg = .chainFromPrev ∨ i.leg = .chainFromNext → Answers (.summary e i) s fun t =>
        t.stageWord i.stage = some w ∧ t.clx.sums = s.clx.sums)
    ∧ (i.leg = .passBack → Answers (.summary e i) s fun t =>
        t.clx.sums = some (w, sums) ∧ t.stageWord u.stage = some w)
    ∧ (i.leg = .accumulate → u.ringSize ≤ u.ringPos + 1 → Answers (.summary e i) s fun t =>
        t.clx.sums = some (⟨w.word ||| s.clx.own.1.word, w.due || s.clx.own.1.due⟩, addStats sums s.clx.own.2)))
  ∧ (∀ (s : State) (e : Fin 32), s.Tidy → e.val ∈ s.fig.due →
    Answers (.reweight e) s fun t =>
      Table.get (fun _ => 0) t.fig.weights e = s.fld figPage (R.FIG_ENTRY_WEIGHT s.figure e) * s.txLanes e
      ∧ t.fig.due = setErase e s.fig.due ∧ PartsKept s { t with fig := s.fig } ∧ WordsKept s t fun _ => false)

/-- A FIGURE_CHANGE with no change before it and no layout switch pending: when its phase's slot passes the check, the
change runs, CHANGING shows it, and the command waits for it; when the slot fails the check, the command completes with
FIG_INVALID, whose detail is the entry or 32 for the weights, and its caller halts. The swap of a figure change, once
every draining sub-link has drained and no collective is in flight: the slot and its phase are in force, the allocations
are no longer stale, CLX holds nothing back for it, and its command completes. R422: when DRAIN_LIMIT expires with a
collective in flight or a sub-link not drained, the change ends, the slot in force stays, and its command is dispatched no
longer. The command, dispatched alone, completes with FIG_DRAIN_TIMEOUT, whose detail is 32 for a collective in flight,
else the lowest sub-link that has not drained, and its caller halts. -/
def Obligations.FigureChangesRunToTheirEnd : Prop :=
  (∀ (s : State) (d : Fin 4) (q : Fin 64) (ext : HostSlot) (h : Head), s.Tidy →
    s.takes d q ext h false Opc.FIGURE_CHANGE = true → s.fig.running = none → s.fig.waiting = [] →
    s.on clxPage R.CLX_EPOCH_STS_SWITCH_PENDING = false →
    bitOn (s.fld (page d B.CAL) R.CAL_RESUME_RESUME) (s.callerOf d q) = false →
    let phase := wf h.cmdWords 2 0 3
    (s.figureError (s.phaseSlot phase) = none → Answers (.figureChange d q ext) s fun t => Consumed s t d q
        ∧ t.fig.running = some (s.nextId, s.phaseSlot phase, phase) ∧ t.on figPage R.FIG_STS_CHANGING = true
        ∧ ∃ x ∈ t.cmds, x.id = s.nextId ∧ x.stage = .figure)
    ∧ (∀ e, s.figureError (s.phaseSlot phase) = some e → Answers (.figureChange d q ext) s fun t => Consumed s t d q
        ∧ Left s t ∧ t.fig.running = none ∧ t.on figPage R.FIG_STS_CHANGING = s.on figPage R.FIG_STS_CHANGING
        ∧ t.halted d (s.callerOf d q) = true
        ∧ ((∀ p, s.pageHolds p = false) → s.recordOpen d q = true → Records s t d q Err.FIG_INVALID e)))
  ∧ (∀ (s : State) (x : Nat × Nat × Nat), s.Tidy → s.fig.running = some x → s.fig.waiting = [] → s.inflight = 0 →
    s.fig.drains.all s.drained = true →
    Answers .figureSwap s fun t =>
      t.fig.running = none ∧ t.fig.started = true ∧ t.clx.newEpoch = false
      ∧ t.fld figPage R.FIG_STS_FIGURE = x.2.1 % 2 ^ R.FIG_STS_FIGURE.width
      ∧ t.fld figPage R.FIG_STS_PHASE = x.2.2 % 2 ^ R.FIG_STS_PHASE.width
      ∧ t.on figPage R.FIG_STS_STALE = false ∧ t.on figPage R.FIG_STS_CHANGING = false
      ∧ ∀ c ∈ t.cmds, c.id ≠ x.1)
  ∧ (∀ (s : State) (x : Nat × Nat × Nat), s.Tidy → s.fig.running = some x → s.fig.waiting = [] →
    (s.inflight ≠ 0 ∨ s.fig.drains.all s.drained = false) →
    let left := if s.inflight ≠ 0 then 32 else (s.fig.drains.find? fun e => !s.drained e).getD 0
    Answers .figDrainTimeout s fun t =>
      t.fig.running = none ∧ t.on figPage R.FIG_STS_CHANGING = false
      ∧ t.fld figPage R.FIG_STS_FIGURE = s.fld figPage R.FIG_STS_FIGURE ∧ (∀ c ∈ t.cmds, c.id ≠ x.1)
      ∧ ∀ c, s.cmds = [c] → c.id = x.1 → c.stage = .figure → hOpc c.words = Opc.FIGURE_CHANGE → c.attempt = none →
          c.level = 0 → c.die < 4 → c.queue < 64 →
          bitOn (s.fld (page c.die B.CAL) R.CAL_RESUME_RESUME) (s.callerOf c.die c.queue) = false →
          t.halted c.die (s.callerOf c.die c.queue) = true
          ∧ ((∀ p, s.pageHolds p = false) → s.recordOpen c.die c.queue = true →
              Records s t c.die c.queue Err.FIG_DRAIN_TIMEOUT left))

/-- The registers of CLX and FIG that wait for their use. CLX_LAYOUT and CLX_POS, the peer entries and SNP_PARTNER are
held as written, pending. A shard entry that is not valid becomes valid with WRITTEN and WGEN cleared; a valid one stays.
A held layout that is due applies once no collective is in flight: CLX_LAYOUT takes its held value, CLX_POS its held
positions, the held peer entries and SNP_PARTNER theirs, the epoch counts on, and the figure in force is stale. One that
R400 does not allow is refused: the layout and the epoch stay, and LAYOUT_REFUSED shows it. No figure change runs or
waits, and the held peers are of sub-links. -/
def Obligations.LayoutsWaitAndApply : Prop :=
  (∀ (s : State) (x : Access) (e : Fin 32) (n : Fin 1024) (v : Word), s.Tidy →
    let lay := clxPage + R.CLX_LAYOUT.off
    let pos := clxPage + R.CLX_POS.off
    let peer := figPage + (R.PEER_TABLE e).off
    let part := snpPage + R.SNP_PARTNER.off
    let w0 := clxPage + (R.SHARD_W0 n).off
    let kept (w : Nat) (t : State) : Prop := PartsKept s { t with clx := s.clx } ∧ WordsKept s t (words [w])
    let sts := clxPage + R.CLX_EPOCH_STS.off
    (s.writes x lay = true → Answers (.layoutWrite x false v) s fun t => t.clx.layout = some (rwBits lay v.toNat)
        ∧ t.clx.pos = s.clx.pos ∧ t.on clxPage R.CLX_EPOCH_STS_SWITCH_PENDING = true ∧ kept sts t)
    ∧ (s.writes x pos = true → Answers (.layoutWrite x true v) s fun t => t.clx.pos = some (rwBits pos v.toNat)
        ∧ t.clx.layout = s.clx.layout ∧ t.on clxPage R.CLX_EPOCH_STS_SWITCH_PENDING = true ∧ kept sts t)
    ∧ (s.writes x peer = true → Answers (.peerTableWrite x false e v) s fun t =>
        (t.clx.peers.filter fun y => y.1 == e.val) = [(e.val, rwBits peer v.toNat)]
        ∧ t.on figPage (R.PEER_TABLE_PENDING e) = true ∧ kept peer t)
    ∧ (s.writes x part = true → Answers (.peerTableWrite x true e v) s fun t =>
        t.clx.partner = some (rwBits part v.toNat) ∧ t.on snpPage R.SNP_PARTNER_PENDING = true ∧ kept part t)
    ∧ (s.writes x w0 = true → Answers (.shardValidSet x n v) s fun t =>
        (s.on clxPage (R.SHARD_W0_VALID n) = false → t.on clxPage (R.SHARD_W0_VALID n) = true
          ∧ t.fld clxPage (R.SHARD_W0_BASE n) = bits v.toNat 0 52 ∧ t.on clxPage (R.SHARD_W0_WRITTEN n) = false
          ∧ t.fld clxPage (R.SHARD_W1_WGEN n) = 0)
        ∧ (s.on clxPage (R.SHARD_W0_VALID n) = true → OnlyWords s t [])))
  ∧ (∀ (s : State) (l p : Nat), s.Tidy → s.clx.switchDue = true → s.inflight = 0 → s.fig.running = none →
    s.fig.waiting = [] → s.clx.layout = some l → s.clx.pos = some p → (∀ x ∈ s.clx.peers, x.1 < 32) →
    (s.clx.peers.map Prod.fst).Nodup → l < 2 ^ 64 → p < 2 ^ 64 →
    (badLayout l p = false → Answers .layoutApply s fun t =>
        t.word (clxPage + R.CLX_LAYOUT.off) = l ∧ t.epoch = (s.epoch + 1) % 2 ^ 16
        ∧ t.on clxPage R.CLX_EPOCH_STS_SWITCH_PENDING = false ∧ t.on figPage R.FIG_STS_STALE = true
        ∧ t.clx.newEpoch = true ∧ t.clx.layout = none ∧ t.clx.switchDue = false
        ∧ t.fld clxPage R.CLX_POS_DATA_POS = bits p 0 13 ∧ t.fld clxPage R.CLX_POS_SEQ_POS = bits p 16 7
        ∧ t.fld clxPage R.CLX_POS_STAGE = bits p 32 9
        ∧ (∀ y ∈ s.clx.peers, t.word (figPage + (R.PEER_TABLE y.1).off) = y.2 % 2 ^ 64)
        ∧ ∀ y, s.clx.partner = some y → t.word (snpPage + R.SNP_PARTNER.off) = y % 2 ^ 64)
    ∧ (badLayout l p = true → Answers .layoutApply s fun t =>
        t.word (clxPage + R.CLX_LAYOUT.off) = s.word (clxPage + R.CLX_LAYOUT.off) ∧ t.epoch = s.epoch
        ∧ t.on clxPage R.CLX_EPOCH_STS_SWITCH_PENDING = false
        ∧ t.on clxPage R.CLX_EPOCH_STS_LAYOUT_REFUSED = true ∧ t.clx.layout = none ∧ t.clx.switchDue = false))

/-- R453: a POSE executes on its die: it waits for the pose, and dispatch of the die's primary commands stops. R452, R453:
once POSE has reached all four dies and their primary commands have completed, every POSE leaves dispatch. A wanted pose
whose checks pass arms every page of the state region, starts to fill the keep bank that is chosen, and runs the
promenade; one that the job does not want is skipped, and one that fails a check or differs among the dies arms nothing:
no page changes its armed bit. -/
def Obligations.PosesStopAndArm : Prop :=
  (∀ (s : State) (d : Fin 4) (q : Fin 64) (ext : HostSlot) (h : Head), s.Tidy →
    s.takes d q ext h false Opc.POSE = true → (∀ e : Fin 4, s.knownAbsent e = false) →
    Answers (.pose d q ext) s fun t => Consumed s t d q ∧ t.mem = s.mem
      ∧ (∃ x ∈ t.cmds, x.id = s.nextId ∧ x.stage = .pose) ∧ t.poseStop d = true)
  ∧ (∀ (s : State) (w : List Nat), s.Tidy → s.poseReady = true → ((s.poseOf 0).map Cmd.words) = some w →
    let same := [0, 1, 2, 3].all fun d => (s.poseOf d).any fun c => wordAt c.words 2 == wordAt w 2
    let skipped := wf w 2 31 1 == 1 && !s.on snpPage R.SNP_GOV_STS_JOB_DUE
    let gone (t : State) : Prop := ∀ d : Fin 4, ∀ c, s.poseOf d = some c → ∀ x ∈ t.cmds, x.id ≠ c.id
    (same = true → skipped = false → s.poseError = none → Answers .poseArm s fun t => gone t
        ∧ (∃ x, t.snp.prom = some x ∧ x.pose = wf w 2 32 32 ∧ x.pages = s.extentPages ∧ x.next = 0
            ∧ some x.keep = s.chooseBank keepBanks ∧ t.bankState x.keep = Bank.FILLING)
        ∧ t.fld snpPage R.SNP_STS_PROM_STATE = 2 ∧ ∀ p ∈ s.extentPages, (t.pageSt p).armed = true)
    ∧ (same = false ∨ skipped = true ∨ s.poseError.isSome = true → Answers .poseArm s fun t => gone t
        ∧ t.snp.prom = s.snp.prom ∧ (∀ p, (t.pageSt p).armed = (s.pageSt p).armed) ∧ (same = true → skipped = true → t.snp.lastPose = s.snp.lastPose)))

/-- R454, R455: SNP reads the next page of an accepted promenade once nothing else is sent: the page, or its copy where it
is PRESERVED, is sent as 512 PAGE items on the sub-links of the partner, item k with bytes 4,096 · k on and the offset of
that granule, the last with the digest entry; the next page is the one after it. When the last byte of a page has left,
the page is SENT and armed and preserved no longer, PAGES_SENT counts it, and after the last page SEAL goes out on a
sub-link of the partner. A PAGE item of the promenade that arrives lands in its partner bank, and a digest entry that it
carries in the bank's digest page, after PBANK_PAGES data pages, both in pages that nothing holds, fences or poisons; the
item counts as landed. SEAL has not come. R460: a PCTL ABORT that names the promenade of this package fails it with
PEER_ABORT; one that names the promenade that arrives ends it, and the partner bank that it fills is empty. -/
def Obligations.PromenadePagesTravel : Prop :=
  (∀ (s : State) (x : Prom) (p : Nat), s.Tidy → s.snp.prom = some x → x.pages[x.next]? = some p → x.accepted = true →
    s.sending = none → s.preserving.contains p = false → s.promLinks ≠ [] →
    let src := if (s.pageSt p).preserved then s.slotPage (s.pageSt p).slot else p
    Answers .promenadePage s fun t =>
      t.sending = some p ∧ t.snp.prom = some { x with next := x.next + 1 }
      ∧ ∃ l : List SentItem, t.sentItems = s.sentItems ++ l ∧ l.length = 512
        ∧ ∀ k, k < 512 → ∃ e ∈ s.promLinks, ∃ i : PageItem, l[k]? = some ⟨e, .page 8 i⟩ ∧ i.pageNo = x.next
          ∧ i.offset = 64 * k ∧ i.poseId = BitVec.ofNat 32 x.pose
          ∧ i.payload = s.bytes (src * pageBytes + 4096 * k) 4096 ∧ (i.digest ≠ [] ↔ k = 511))
  ∧ (∀ (s : State) (x : Prom) (p : Nat), s.Tidy → s.snp.prom = some x → s.sending = some p →
    (∀ e : Fin 32, ∀ f ∈ (s.link e).queue, f.channel ≠ 8) →
    Answers .pageSent s fun t =>
      t.sending = none ∧ (t.pageSt p).sent = true ∧ (t.pageSt p).armed = false ∧ (t.pageSt p).preserved = false
      ∧ t.fld snpPage R.SNP_STS_PAGES_SENT
          = (s.fld snpPage R.SNP_STS_PAGES_SENT + 1) % 2 ^ R.SNP_STS_PAGES_SENT.width
      ∧ t.snp.prom = some { x with sealSent := x.sealSent || decide (x.pages.length ≤ x.next) }
      ∧ (x.pages.length ≤ x.next → s.groupLinks Grp.partnerNext ≠ [] →
          ∃ l : List SentItem, t.sentItems = s.sentItems ++ l ∧ ∃ e ∈ s.groupLinks Grp.partnerNext, ∃ i h,
            (⟨e, .pctl .seal i (some h)⟩ : SentItem) ∈ l ∧ i.poseId = BitVec.ofNat 32 x.pose ∧ i.pages = x.pages.length))
  ∧ (∀ (s u : State) (e : Fin 32) (i : PageItem) (x : InProm), s.Tidy → s.snp.inProm = some x → x.pose = i.poseId.toNat →
    x.origin = i.origin.toNat → s.takeItem e (.page 8 i) = some u → pageFits i x.pages = true → x.sealed = none →
    s.poison = [] → s.fencedPch = [] → 2 ≤ x.bank →
    let a := (s.bankPage x.bank + 1 + i.pageNo) * pageBytes + 64 * i.offset
    let g := (s.bankPage x.bank + 1 + s.fld snpPage R.SNP_PBANK_PAGES_PAGES) * pageBytes + 64 * i.pageNo
    a + 4096 ≤ dramEnd → s.pageHolds (a / pageBytes) = false →
    (i.digest = [] ∨ (i.digest.length = 64 ∧ g + 64 ≤ dramEnd ∧ s.pageHolds (g / pageBytes) = false
      ∧ (s.phys g + 64 ≤ s.phys a ∨ s.phys a + 4096 ≤ s.phys g))) →
    Answers (.page e i) s fun t =>
      t.bytes a 4096 = i.payload ∧ (i.digest ≠ [] → t.bytes g 64 = i.digest) ∧ (t.link e).rx = (u.link e).rx
      ∧ t.snp.inProm = some { x with got := setInsert (512 * i.pageNo + i.offset / 64) x.got })
  ∧ (∀ (s u : State) (e : Fin 32) (i : PctlItem), s.Tidy → s.takeItem e (.pctl .abort i none) = some u → i.kind = 0 →
    (∀ x, s.snp.prom = some x → x.pose = i.poseId.toNat → i.origin.toNat = u.rank →
      Answers (.pctlAbort e i) s fun t => t.snp.prom = none ∧ t.fld snpPage R.SNP_STS_PROM_STATE = 4
        ∧ t.fld snpPage R.SNP_STS_CAUSE = Cause.PEER_ABORT ∧ t.snp.inProm = s.snp.inProm)
    ∧ (∀ x, s.snp.prom = none → s.snp.inProm = some x → x.pose = i.poseId.toNat → x.origin = i.origin.toNat →
      x.bank < 4 → s.bankState x.bank = Bank.FILLING → Answers (.pctlAbort e i) s fun t => t.snp.inProm = none ∧ t.bankState x.bank = Bank.EMPTY))

/-- R456: an OPEN of a promenade is answered on the sub-link it came on: with ACCEPT, and a partner bank fills for it, or
with REFUSE and the cause. The answers of a promenade's holder at its source: ACCEPT lets the pages go, REFUSE fails the
promenade with its cause, and SEALED, after SEAL was sent, seals the keep bank, ends the promenade and sets HEALTH to 0,
once every write of the bank has landed. R457: SEAL of the promenade that arrives: with every page there and every write
of the bank landed the holder seals the partner bank and answers SEALED; without, it keeps the header for later. -/
def Obligations.PromenadeHandshake : Prop :=
  (∀ (s u : State) (e : Fin 32) (i : PctlItem), s.Tidy → s.takeItem e (.pctl .open i none) = some u → i.kind = 0 →
    ((u.inPromEnd none).holderRefuses i = none → Answers (.openItem e i) s fun t =>
      (∃ m, t.sentItems = s.sentItems ++ [⟨e, .pctl .accept m none⟩] ∧ m.poseId = i.poseId)
      ∧ ∃ x, t.snp.inProm = some x ∧ x.pose = i.poseId.toNat ∧ x.origin = i.origin.toNat ∧ x.pages = i.pages
        ∧ some x.bank = (u.inPromEnd none).chooseBank partnerBanks ∧ t.bankState x.bank = Bank.FILLING)
    ∧ (∀ cause, (u.inPromEnd none).holderRefuses i = some cause → Answers (.openItem e i) s fun t =>
      (∃ m, t.sentItems = s.sentItems ++ [⟨e, .pctl .refuse m none⟩] ∧ m.cause.toNat = cause % 256)
      ∧ t.snp.inProm = none))
  ∧ (∀ (s u : State) (e : Fin 32) (i : PctlItem) (x : Prom), s.Tidy → i.kind = 0 →
    s.snp.prom = some x → x.pose = i.poseId.toNat →
    let comes (k : PctlKind) : Prop := s.takeItem e (.pctl k i none) = some u
    (comes .accept → Answers (.accept e i) s fun t => t.snp.prom = some { x with accepted := true } ∧ t.mem = s.mem)
    ∧ (comes .refuse → Answers (.refuse e i) s fun t => t.snp.prom = none ∧ t.fld snpPage R.SNP_STS_PROM_STATE = 4
        ∧ t.fld snpPage R.SNP_STS_CAUSE = i.cause.toNat % 16 ∧ t.sending = none ∧ t.preserving = [])
    ∧ (comes .sealed → x.sealSent = true → s.bankLanded x.keep x.pages.length = false → Answers (.sealed e i) s fun t =>
        t.snp.prom = some { x with answered := true } ∧ t.mem = s.mem)
    ∧ (comes .sealed → x.sealSent = true → s.bankLanded x.keep x.pages.length = true → x.keep < 2 →
      Answers (.sealed e i) s fun t =>
        t.snp.prom = none ∧ t.bankState x.keep = Bank.SEALED ∧ t.fld snpPage R.SNP_STS_PROM_STATE = 0
        ∧ t.fld snpPage R.SNP_GOV_STS_HEALTH = 0 ∧ t.fieldEvents = 0))
  ∧ (∀ (s u : State) (e : Fin 32) (i : PctlItem) (h : BankHdr) (x : InProm), s.Tidy → s.takeItem e (.pctl .seal i (some h)) = some u →
    s.snp.inProm = some x → x.pose = i.poseId.toNat → x.origin = i.origin.toNat → x.bank < 4 →
    (512 * x.pages ≤ x.got.length → s.bankLanded x.bank x.pages = true → Answers (.seal e i h) s fun t =>
      t.snp.inProm = none ∧ t.bankState x.bank = Bank.SEALED
      ∧ ∃ m, t.sentItems = s.sentItems ++ [⟨e, .pctl .sealed m none⟩])
    ∧ (x.got.length < 512 * x.pages ∨ s.bankLanded x.bank x.pages = false → Answers (.seal e i h) s fun t =>
      t.snp.inProm = some { x with sealed := some (e.val, h) } ∧ t.sentItems = s.sentItems))

/-- The transfers of a refill: a RESTORE, a REPLICATE or a HANDOVER that is next of its direction runs when its sub-links
may carry it and, at a source, the banks it sends are sealed with its pose; at a source without such banks it ends at once
with CONFIG. A ROLLBACK runs when a keep bank is sealed with its pose, no primary command is dispatched or waits, the bank
has as many pages as the state region, and both lie in memory. A VERIFY runs on the bank of its pose that waits for it or
is sealed, and leaves the bank as it is until it ends. Without such a bank they end at once with CONFIG. -/
def Obligations.RefillsStart : Prop :=
  (∀ (s : State) (n : Fin 8), s.Tidy → s.fld snpPage R.SNP_DRAIN_STATE ≠ 2 →
    (s.refillLinks n).all s.refillLinkOk = true →
    let carries : Prop := s.on snpPage (R.REFILL_W0_ROLE n) = true ∨ (s.sourceBanks n).isSome = true
    let lacks : Prop := s.on snpPage (R.REFILL_W0_ROLE n) = false ∧ s.sourceBanks n = none
    let runs (t : State) : Prop := t.fld snpPage (R.REFILL_W0_STATE n) = 1 ∧ t.fld snpPage (R.REFILL_W1_BAD_PAGES n) = 0
      ∧ (∃ r ∈ t.snp.refills, r.entry = n ∧ r.accepted = false ∧ r.got = []) ∧ t.mem = s.mem
    let ends (t : State) : Prop := t.fld snpPage (R.REFILL_W0_STATE n) = 3
      ∧ t.fld snpPage (R.REFILL_W0_RESULT n) = Cause.CONFIG
      ∧ t.snp.refills = s.snp.refills.filter (fun r => r.entry != n.val)
    (s.refillNext n 1 = true → (carries → Answers (.restore n) s runs) ∧ (lacks → Answers (.restore n) s ends))
    ∧ (s.refillNext n 2 = true → (carries → Answers (.replicate n) s runs) ∧ (lacks → Answers (.replicate n) s ends))
    ∧ (s.refillNext n 3 = true → (carries → Answers (.handover n) s runs) ∧ (lacks → Answers (.handover n) s ends)))
  ∧ (∀ (s : State) (n : Fin 8), s.Tidy → s.fld snpPage R.SNP_DRAIN_STATE ≠ 2 →
    let keep := keepBanks.find? fun b => s.bankState b == Bank.SEALED && s.bankPose b == s.refillPose n
    let of (st : Nat) : Option Nat := [0, 1, 2, 3].find? fun b =>
      s.bankState b == st && s.bankPose b == s.refillPose n && s.bankIn b (s.hdrPages b)
    let bank := (of Bank.VERIFYING).or (of Bank.SEALED)
    let runs (t : State) : Prop := t.fld snpPage (R.REFILL_W0_STATE n) = 1
      ∧ ∃ r ∈ t.snp.refills, r.entry = n ∧ r.accepted = true
    let config (t : State) : Prop := t.fld snpPage (R.REFILL_W0_STATE n) = 3
      ∧ t.fld snpPage (R.REFILL_W0_RESULT n) = Cause.CONFIG
    (s.refillNext n 4 = true →
      (∀ b, keep = some b → s.primaryBusy = false → s.hdrPages b = s.npages → s.bankIn b s.npages = true →
        s.regionIn = true → Answers (.rollback n) s runs)
      ∧ (keep = none → Answers (.rollback n) s config))
    ∧ (s.refillNext n 5 = true →
      (∀ b, bank = some b → Answers (.verify n) s fun t => runs t ∧ t.bankState b = s.bankState b)
      ∧ (bank = none → Answers (.verify n) s config)))

/-- A refill of which everything has happened ends: DONE, with DIGEST when a page failed its verification. LOSS_LIMIT: a
promenade without a sub-link to its partner fails with LINK, one that arrives without a sub-link from its source ends, and
a refill without a sub-link that it names aborts. With a sub-link in service nothing happens. The registers of SNP that a
host uses. A refill entry that is not valid becomes queued, or is ABORTED at once where its ABORT is set; a valid one
stays. An abort ends a queued or a running refill ABORTED, and sets ABORT. SNP_DRAIN keeps its request and starts a drain
where none is. -/
def Obligations.RefillsEnd : Prop :=
  (∀ (s : State) (n : Fin 8) (r : Refill), s.Tidy → s.refill n = some r → s.refillReady n r = true →
    Answers (.refillComplete n) s fun t =>
      t.fld snpPage (R.REFILL_W0_STATE n) = 2
      ∧ t.fld snpPage (R.REFILL_W0_RESULT n)
          = (if s.on snpPage (R.REFILL_W1_BAD_PAGES n) then Cause.DIGEST else Cause.NONE)
      ∧ t.snp.refills = s.snp.refills.filter (fun r => r.entry != n.val))
  ∧ (∀ s : State, s.Tidy → (∀ y, s.snp.inProm = some y → y.bank < 4) →
    (∀ x, s.snp.prom = some x → s.groupLinks Grp.partnerNext = [] → Answers (.lossLimitExpiry none) s fun t =>
        t.snp.prom = none ∧ t.fld snpPage R.SNP_STS_PROM_STATE = 4 ∧ t.fld snpPage R.SNP_STS_CAUSE = Cause.LINK)
    ∧ (s.groupLinks Grp.partnerPrev = [] → Answers (.lossLimitExpiry none) s fun t => t.snp.inProm = none)
    ∧ (s.groupLinks Grp.partnerNext ≠ [] → s.groupLinks Grp.partnerPrev ≠ [] → exec (.lossLimitExpiry none) s = .next s)
    ∧ (∀ (n : Fin 8) (r : Refill), s.refill n = some r → s.refillKind n ≤ 3 → (s.refillLinks n).any s.slUp = false →
        Answers (.lossLimitExpiry (some n)) s fun t => t.fld snpPage (R.REFILL_W0_STATE n) = 3
          ∧ t.snp.refills = s.snp.refills.filter (fun r => r.entry != n.val)))
  ∧ (∀ (s : State) (x : Access) (n : Fin 8) (v : Word), s.Tidy →
    let valid (t : State) : Bool := t.on snpPage (R.REFILL_W0_VALID n)
    let st (t : State) : Nat := t.fld snpPage (R.REFILL_W0_STATE n)
    (s.writes x (snpPage + (R.REFILL_W0 n).off) = true →
      (valid s = false → s.on snpPage (R.REFILL_W0_ABORT n) = false → Answers (.refillQueue x n v) s fun t =>
        valid t = true ∧ st t = 0
        ∧ t.fld snpPage (R.REFILL_W0_RESULT n) = 0 ∧ t.refillKind n = bits v.toNat 58 3
        ∧ t.refillPose n = bits v.toNat 0 32 ∧ t.snp = s.snp ∧ t.mem = s.mem)
      ∧ (valid s = false → s.on snpPage (R.REFILL_W0_ABORT n) = true → Answers (.refillQueue x n v) s fun t =>
        valid t = true ∧ st t = 3 ∧ t.fld snpPage (R.REFILL_W0_RESULT n) = Cause.HOST_ABORT)
      ∧ (valid s = true → Answers (.refillQueue x n v) s fun t => OnlyWords s t [])
      ∧ (valid s = true → st s = 0 ∨ (st s = 1 ∧ (s.refill n).isSome = true) → Answers (.refillAbort x n) s fun t =>
          st t = 3 ∧ t.on snpPage (R.REFILL_W0_ABORT n) = true ∧ t.snp.refills = s.snp.refills.filter (fun r => r.entry != n.val)
          ∧ t.fld snpPage (R.REFILL_W0_RESULT n) = Cause.HOST_ABORT)
      ∧ (valid s = true → 1 < st s → Answers (.refillAbort x n) s fun t =>
          OnlyWords s t [snpPage + (R.REFILL_W0 n).off] ∧ t.on snpPage (R.REFILL_W0_ABORT n) = true))
    ∧ (s.writes x (snpPage + R.SNP_DRAIN.off) = true → Answers (.drainRequest x) s fun t =>
        t.on snpPage R.SNP_DRAIN_REQ = true
        ∧ t.fld snpPage R.SNP_DRAIN_STATE = (if s.fld snpPage R.SNP_DRAIN_STATE = 0 then 1 else s.fld snpPage R.SNP_DRAIN_STATE)
        ∧ OnlyWords s t [snpPage + R.SNP_DRAIN.off]))

/-- A wavelength of a port's input that becomes lit, or unlit, shows in OPX_PORT_STS, and the other wavelengths of the
port stay. One that is already so changes nothing, and neither does one after a FATAL error (R507). The lanes of a feed
switch that have relocked end it, when the other input has no more lit wavelengths. A wavelength of a diagonal link's
waveguide fails once: it is lost from then on, and the floor counts and records it; a link without a lane in a direction
is not usable; nothing else of the package but registers, the record and its stamp, and what HEALTH follows changes. -/
def Obligations.LightAndDiagonals : Prop :=
  (∀ (s : State) (n : Fin 16) (feed : Fin 2) (wave : Fin 9), s.Tidy →
    let pg := opxPage n
    let lit (t : State) (b : Bool) : Prop := bitOn (t.fld pg (litField feed)) wave = b
      ∧ ∀ (f : Fin 2) (w : Fin 9), (f, w) ≠ (feed, wave) → bitOn (t.fld pg (litField f)) w = bitOn (s.fld pg (litField f)) w
    (s.fatal = false → Answers (.wavelengthLit n feed wave) s fun t => lit t true)
    ∧ (s.fatal = false → Answers (.wavelengthUnlit n feed wave) s fun t => lit t false)
    ∧ (s.fatal = true → exec (.wavelengthLit n feed wave) s = .next s ∧ exec (.wavelengthUnlit n feed wave) s = .next s)
    ∧ (bitOn (s.fld pg (litField feed)) wave = true → exec (.wavelengthLit n feed wave) s = .next s)
    ∧ (bitOn (s.fld pg (litField feed)) wave = false → exec (.wavelengthUnlit n feed wave) s = .next s)
    ∧ (s.relocking.contains n.val = true → s.fatal = false → s.litCount n (1 - s.feed n) ≤ s.litCount n (s.feed n) →
        exec (.lanesRelocked n) s = .next { s with relocking := setErase n s.relocking }))
  ∧ (∀ (s : State) (k : Fin 2) (g : Fin 40) (w : Fin 9), s.Tidy →
    (s.diagLost.contains (k.val, g.val, w.val) = false → s.fatal = false → Answers (.diagLaneLoss k g w) s fun t =>
        t.diagLost = s.diagLost ++ [(k.val, g.val, w.val)]
        ∧ ((t.diagLit k 0 && t.diagLit k 1) = false → bitOn (t.fld capPage R.CAP_FLOOR_UNITS_DIAG_OK) k = false)
        ∧ PartsKept s { t with diagLost := s.diagLost, free := s.free, fieldEvents := s.fieldEvents, degraded := s.degraded })
    ∧ (s.diagLost.contains (k.val, g.val, w.val) = true → exec (.diagLaneLoss k g w) s = .next s))

/-- R340: a DATA frame on a sub-link in service is accepted when it is intact and its SEQ is the next one: it joins the
receive buffer. A frame with an uncorrectable codeword, or the first one that comes ahead of its turn, is discarded and
sets NAK; any other is discarded. An IDLE frame carries nothing. A CONTROL frame on a sub-link in service with nothing
waiting to be sent: an acknowledgement drops the frames up to the acknowledged one from the replay buffer, and the first
NAK of an acknowledgement sends the rest again; a RESEND_TIMEOUT sends the replay buffer again. -/
def Obligations.FramesArriveInOrder : Prop :=
  (∀ (s : State) (e : Fin 32) (f : OptFrame), s.Tidy →
    let l := s.link e
    let h := f.header
    let ahead := (frameSeq h + 65536 - l.rxSeq) % 65536
    let intact : Prop := f.decoded = true ∧ frameType h = FrameType.DATA
    (f.decoded = true → Answers (.idleFrame ⟨e, f⟩) s fun t => PartsKept s t ∧ WordsKept s t fun _ => false)
    ∧ (s.slUp e = true →
      (intact → ahead = 1 → Answers (.dataFrame e f) s fun t => t.link e =
          { l with rxSeq := frameSeq h, nak := false, rx := l.rx ++ [⟨frameChannel h, frameEnd h, f.payload.toNat⟩] })
      ∧ (f.decoded = false → Answers (.dataFrame e f) s fun t => t.link e = { l with nak := true })
      ∧ (intact → 1 < ahead → ahead < 32768 → Answers (.dataFrame e f) s fun t =>
          t.link e = { l with nak := true })
      ∧ (intact → ahead = 0 ∨ 32768 ≤ ahead → Answers (.dataFrame e f) s fun t => t.link e = l)
      ∧ Answers (.dataFrame e f) s fun t => PartsKept s { t with links := s.links } ∧ WordsKept s t fun _ => false))
  ∧ (∀ (s : State) (e : Fin 32) (f : OptFrame), s.Tidy → s.slUp e = true →
    let l := s.link e
    let p := f.payload.toNat
    let kept := (ackDrop (ctlAck p) l.replay).getD l.replay
    let again (r : List TxFrame) : List SentFrame := r.map fun x => ⟨e.val, x.header, x⟩
    (f.decoded = true → frameType f.header = FrameType.CONTROL → l.queue = [] → Answers (.controlFrame e f) s fun t =>
        (t.link e).replay = kept
        ∧ t.sentFrames = s.sentFrames ++ (if ctlNak p && l.nakAt != some (ctlAck p) then again kept else []))
    ∧ (f.decoded = false → Answers (.controlFrame e f) s fun t => t.link e = { l with nak := true })
    ∧ (Answers (.resendTimeout e) s fun t => t.sentFrames = s.sentFrames ++ again l.replay ∧ t.link e = l))

/-- Training of a sub-link ends: it is UP with the lanes that passed in each direction, 2 or more, and a peer of its own
generation or one it allows; otherwise it is DOWN. On a floor that no FATAL error has stopped, a lane fault returns a
sub-link in service to TRAINING in the field, and DOWN_RETRY an enabled one that is DOWN, in a port in service, to
TRAINING anew, with a number of its own. A field retraining ends in UP or DOWN by the lanes that remain. -/
def Obligations.SubLinksTrain : Prop :=
  (∀ (s : State) (e : Fin 32) (r : TrainResult), s.Tidy → s.fatal = false →
    s.slState e = Sl.TRAINING → (s.link e).retraining = false →
    let n := e.val / 2
    let k := e.val % 2
    let tx := (trainLanes r.txFail r.peerGen1 (s.lanes n k).field).count
    let rx := (trainLanes r.rxFail r.peerGen1 (s.lanes n (2 + k)).field).count
    let up := 2 ≤ tx ∧ 2 ≤ rx ∧ (r.peerGen1 = true → s.on (opxPage n) R.OPX_PORT_CTL_GEN1_ALLOW = true)
    Answers (.trainingComplete e r) s fun t =>
      t.slState e = (if up then Sl.UP else Sl.DOWN)
      ∧ t.fld (opxPage n) (R.OPX_SL_STS_TX_LANES k) = tx ∧ t.fld (opxPage n) (R.OPX_SL_STS_RX_LANES k) = rx
      ∧ (up → (t.link e).met = true ∧ t.fld (opxPage n) (R.OPX_SL_STS_PEER_INC k) = r.peerInc.toNat))
  ∧ (∀ (s : State) (e : Fin 32) (r : TrainResult), s.Tidy → s.fatal = false →
    (s.slUp e = true → Answers (.laneFault e) s fun t =>
        t.slState e = Sl.TRAINING ∧ t.link e = { s.link e with retraining := true } ∧ t.sentFrames = s.sentFrames)
    ∧ (s.slState e = Sl.DOWN → s.on (opxPage (e.val / 2)) (slEnField e) = true → s.portOut (e.val / 2) = false →
        Answers (.downRetry e) s fun t =>
          t.slState e = Sl.TRAINING ∧ t.link e = { s.link e with
            retraining := false, trained := (s.link e).trained + 1, inc := (t.link e).inc })
    ∧ (s.slState e = Sl.TRAINING → (s.link e).retraining = true → Answers (.fieldRetrainingDone e r) s fun t =>
        (t.link e).retraining = false
        ∧ t.slState e = (if 2 ≤ (t.lanes (e.val / 2) (e.val % 2)).count ∧ 2 ≤ (t.lanes (e.val / 2) (2 + e.val % 2)).count
            then Sl.UP else Sl.DOWN)))

/-- The port-control and reflectometry registers. SLn_EN set takes an OFF sub-link to TRAINING, or to DOWN in a port that
the host has fenced; SLn_EN cleared takes it OFF from any state. A reflectometry starts on a lit wavelength of a fibre
whose sub-link is OFF or DOWN, and is refused otherwise. A reflectometry that runs ends: DONE, no longer BUSY, with the
number of events reported, at most 16. -/
def Obligations.OpticalRegistersAndReflectometry : Prop :=
  (∀ (s : State) (x : Access) (e : Fin 32) (n : Fin 16) (v : Word), s.Tidy →
    let pg := opxPage (e.val / 2)
    let ctl := pg + R.OPX_PORT_CTL.off
    let en (t : State) : Bool := t.on pg (slEnField e)
    let st := s.slState e
    (s.writes x ctl = true →
      (s.portFenced (e.val / 2) = false → en s = false → Answers (.sublinkEnable x e) s fun t => en t = true
        ∧ t.slState e = (if st = Sl.OFF then (if s.on pg R.FENCE_HOST_FENCE then Sl.DOWN else Sl.TRAINING) else st))
      ∧ (en s = true → Answers (.sublinkEnable x e) s fun t => OnlyWords s t [])
      ∧ (en s = true → Answers (.sublinkDisable x e) s fun t => en t = false ∧ t.slState e = Sl.OFF)
      ∧ (en s = false → Answers (.sublinkDisable x e) s fun t => OnlyWords s t []))
    ∧ (let p := opxPage n
      let fibre := s.slState (2 * n.val + bits v.toNat 30 1)
      let wave := bits v.toNat 26 4
      let ok : Bool := (fibre = Sl.OFF ∨ fibre = Sl.DOWN) ∧ wave ≤ 8 ∧ bitOn (s.fld p (litField (s.feed n))) wave = true
      s.writes x (p + R.OPX_OTDR_CTL.off) = true → s.on p R.OPX_OTDR_STS_BUSY = false →
        Answers (.otdrStart x n v) s fun t => t.on p R.OPX_OTDR_STS_BUSY = ok
          ∧ (ok = false → t.fld p R.OPX_OTDR_STS_RESULT = 1)
          ∧ OnlyWords s t [p + R.OPX_OTDR_CTL.off, p + R.OPX_OTDR_STS.off]))
  ∧ (∀ (s : State) (n : Fin 16) (events : List (BitVec 20 × BitVec 8)), s.Tidy →
    s.on (opxPage n) R.OPX_OTDR_STS_BUSY = true → s.fatal = false →
    let pg := opxPage n
    let kept := (events.map fun x => (x.1.toNat, x.2.toNat)).filter
      (otdrKeeps (s.fld pg R.OPX_OTDR_CTL_REFL_MIN) (s.fld pg R.OPX_OTDR_CTL_NG))
    Answers (.otdrDone n events) s fun t =>
      t.on pg R.OPX_OTDR_STS_BUSY = false ∧ t.on pg R.OPX_OTDR_STS_DONE = true
      ∧ t.fld pg R.OPX_OTDR_STS_RESULT = 0 ∧ t.fld pg R.OPX_OTDR_STS_EVENTS = min 16 kept.length)

/-- What a host does to a queue of a present die. A doorbell through the owner's port moves TAIL when the ring has room,
sets DB_OVERRUN when it has not, and through the other port changes nothing. QUEUE_ENABLE takes the entry's fields as
written and sets EN, with its pointers zeroed and the commands taken of its open bracket counted anew, unless R249 refuses
the entry as it then stands. QUEUE_DISABLE clears EN and withdraws the registered wait of the head. PROGRAM_RUN sets RUN,
and a program starts at slot 0. A RESUME restarts each halted caller that it names once no command of the caller is
dispatched and no storm runs; a named halted caller with a command dispatched, or in a storm, stays halted with its RESUME
held; a caller that is not named, with no RESUME held, stays as it is. -/
def Obligations.HostRunsQueues : Prop :=
  (∀ (s : State) (x : Access) (d : Fin 4) (q : Fin 64) (v : Word) (wide : Bool) (tail : BitVec 32), s.Tidy →
    let cal := page d B.CAL
    let w1 := cal + (R.QUEUE_W1 q).off
    (s.hears x = true → s.started = true → s.present d = true → s.lwState ≠ 2 → s.qf d q R.QUEUE_W1_EN = 1 →
      s.qf d q R.QUEUE_W1_PROGRAM = 0 →
      let room : Bool := (tail.toNat + 2 ^ 32 - s.qf d q R.QUEUE_W2_HEAD) % 2 ^ 32 ≤ 2 ^ s.qf d q R.QUEUE_W1_SIZE
      let own : Bool := s.qf d q R.QUEUE_W1_OWNER = x.port
      Answers (.doorbell x wide d q tail) s fun t =>
        (own = true → room = true → t.qf d q R.QUEUE_W2_TAIL = tail.toNat ∧ OnlyWords s t [cal + (R.QUEUE_W2 q).off])
        ∧ (own = true → room = false → t.qf d q R.QUEUE_W1_DB_OVERRUN = 1 ∧ OnlyWords s t [w1])
        ∧ (own = false → OnlyWords s t []))
    ∧ (s.writes x w1 = true →
      (Answers (.queueEnable x d q v) s fun t =>
        (s.qf d q R.QUEUE_W1_EN = 0 → t.qf d q R.QUEUE_W1_EN = (if t.enableRefused d q then 0 else 1)
          ∧ (t.qf d q R.QUEUE_W1_EN = 1 → t.qf d q R.QUEUE_W2_HEAD = 0 ∧ t.qf d q R.QUEUE_W2_TAIL = 0
              ∧ t.qf d q R.QUEUE_W5_FETCH = 0 ∧ t.qf d q R.QUEUE_W4_CPL_HEAD = 0 ∧ t.qf d q R.QUEUE_W5_CPL_TAIL = 0)
          ∧ (s.qf d q R.QUEUE_W1_OUTSTANDING = 0 → t.qf d q R.QUEUE_W1_PROGRAM = bits v.toNat 61 1
              ∧ t.qf d q R.QUEUE_W1_LEGACY = bits v.toNat 60 1 ∧ t.qf d q R.QUEUE_W1_CONTEXT = bits v.toNat 59 1
              ∧ t.qf d q R.QUEUE_W1_OWNER = bits v.toNat 56 1 ∧ t.qf d q R.QUEUE_W1_CALLER = bits v.toNat 51 3))
        ∧ (s.qf d q R.QUEUE_W1_EN = 1 → t.qf d q R.QUEUE_W1_EN = 1 ∧ t.qf d q R.QUEUE_W2_HEAD = s.qf d q R.QUEUE_W2_HEAD
            ∧ t.qf d q R.QUEUE_W1_OWNER = s.qf d q R.QUEUE_W1_OWNER)
        ∧ ((∀ k b, k < 2 → (s.job d k).bracket = some b → b.queue ≠ q) → t.jobs = s.jobs)
        ∧ (t.waits = s.waits ∨ t.waits = s.waits.filter fun w => w.queue != queueNo d q)
        ∧ WordsKept s t (queueWords d q) ∧ PartsKept s { t with queues := s.queues, jobs := s.jobs, waits := s.waits })
      ∧ (Answers (.queueDisable x d q v) s fun t => t.qf d q R.QUEUE_W1_EN = 0
        ∧ (s.qf d q R.QUEUE_W1_EN = 1 → t.waits = s.waits.filter fun w => w.queue != queueNo d q)
        ∧ WordsKept s t (queueWords d q) ∧ PartsKept s { t with queues := s.queues, waits := s.waits, chosen := s.chosen })
      ∧ Answers (.programRun x d q v) s fun t => t.qf d q R.QUEUE_W1_RUN = 1
        ∧ (s.qf d q R.QUEUE_W1_RUN = 0 → t.qf d q R.QUEUE_W5_FETCH = 0) ∧ WordsKept s t (queueWords d q)))
  ∧ (∀ (s : State) (x : Access) (d : Fin 4) (v : Word) (n : Fin 8), s.Tidy →
    s.writes x (page d B.CAL + R.CAL_RESUME.off) = true →
    let held (t : State) : Bool := bitOn (t.fld (page d B.CAL) R.CAL_RESUME_RESUME) n
    let free : Bool := !s.on (page d B.ERR) R.ERR_STS_STORM_PKG
      && !s.cmds.any fun c => c.die == d.val && s.callerOf d c.queue == n.val && !c.orphan
    Answers (.resume x d v) s fun t =>
      (bitOn v.toNat n = true → s.halted d n = true → free = true → t.halted d n = false ∧ held t = false)
      ∧ (bitOn v.toNat n = true → s.halted d n = true → free = false → t.halted d n = true ∧ held t = true)
      ∧ (bitOn v.toNat n = false → held s = false → t.halted d n = s.halted d n)
      ∧ OnlyWords s t [page d B.CAL + R.CAL_RESUME.off])

/-- A host reads, sets or adds to a cell through its own port's SYN_OP; the result register shows the value that the
operation leaves, with DONE; the other port's SYN_OP does nothing for it (R267). A SYNC_UPDATE sets or adds likewise on a
present die and is dropped on another, and so is one of an absent die's (R311). No wait is registered for the cell. -/
def Obligations.HostsOperateOnCells : Prop :=
  ∀ (s : State) (x : Access) (d : Fin 4) (i : Fin 16384) (v : BitVec 32) (set : Bool) (src : Origin), s.Tidy →
    let c := cellNo d i
    let syn := page d B.SYN
    let shows (n : Nat) (t : State) : Prop :=
      t.fld syn (R.SYN_RESULT_VALUE x.port) = n % 2 ^ 32 ∧ t.fld syn (R.SYN_RESULT_DONE x.port) = 1
    let holds (n : Nat) (t : State) : Prop := t.cell c = n % 2 ^ 32 ∧ ∀ k, k ≠ c → t.cell k = s.cell k
    let sum := s.cell c + v.toNat
    let unawaited := s.waits.all fun w => w.cell != c
    let other := syn + (R.SYN_OP (1 - x.port.val)).off
    (s.writes x (syn + (R.SYN_OP x.port).off) = true →
      (Answers (.registerWrite x other (BitVec.ofNat 64 (v.toNat * 2 ^ 32 + 2 ^ 31 + i))) s fun t => OnlyWords s t [])
      ∧ (Answers (.synOpRead x d i) s fun t => shows (s.cell c) t ∧ t.cells = s.cells)
      ∧ (unawaited = true → (Answers (.synOpSet x d i v) s fun t => shows v.toNat t ∧ holds v.toNat t)
          ∧ Answers (.synOpAdd x d i v) s fun t => shows sum t ∧ holds sum t))
    ∧ (s.present d = true → s.accepts d src = true → unawaited = true →
        Answers (.syncUpdate d i set v src) s fun t => holds (if set then v.toNat else sum) t ∧ t.mem = s.mem)
    ∧ (s.present d = false ∨ s.accepts d src = false → exec (.syncUpdate d i set v src) s = .next s)

/-- The registers of a job context. A partition entry that is not valid takes its BASE and becomes valid, unless it
overlaps a valid entry of the other context, which sets that context's OVERLAP bit; a valid entry stays. FORCE_SHUT sets
the cause FORCED and clears STEP_CLEAN while the step's gate word has not formed. A write of STEP sets it and clears
GATE_DONE. -/
def Obligations.ContextRegistersFollowWrites : Prop :=
  ∀ (s : State) (x : Access) (d : Fin 4) (c : Ctx) (n : Fin 16) (v : Word), s.Tidy →
    let jcx := page d B.JCX
    let k := ctxNo c
    let pg := partBase d k
    let clash := s.overlaps d (1 - k) (bits v.toNat 0 36) (s.fld pg (R.PARTITION_W1_LIMIT n))
    let mark := if c = .cutIn then R.JCX_CTX_CTL_OVERLAP_CUT else R.JCX_CTX_CTL_OVERLAP_PRI
    (s.writes x (pg + (R.PARTITION_W0 n).off) = true → Answers (.partitionWrite x d c n v) s fun t =>
        (s.on pg (R.PARTITION_W0_VALID n) = false → t.fld pg (R.PARTITION_W0_BASE n) = bits v.toNat 0 36
          ∧ t.on pg (R.PARTITION_W0_VALID n) = !clash ∧ (clash = true → t.on jcx mark = true))
        ∧ (s.on pg (R.PARTITION_W0_VALID n) = true → OnlyWords s t [])
        ∧ OnlyWords s t [pg + (R.PARTITION_W0 n).off, jcx + R.JCX_CTX_CTL.off])
    ∧ (s.writes x (jcx + (R.JCX_NUM_STS k).off) = true → Answers (.forceShut x d c) s fun t =>
        (s.sampled d k = false → t.causes d k = s.causes d k ||| 2 ^ causeBit.forced
          ∧ t.on jcx (R.JCX_NUM_STS_FORCE_SHUT k) = true ∧ t.on jcx (R.JCX_NUM_STS_STEP_CLEAN k) = false)
        ∧ (s.sampled d k = true → t.causes d k = s.causes d k ∧ bitOn (t.job d k).next causeBit.forced = true))
    ∧ (s.writes x (jcx + (R.JCX_STEP k).off) = true → Answers (.jcxStepWrite x d c v) s fun t =>
        t.stepOf d k = bits v.toNat 0 32 ∧ t.on jcx (R.JCX_NUM_STS_GATE_DONE k) = false
        ∧ OnlyWords s t [jcx + (R.JCX_STEP k).off, jcx + (R.JCX_NUM_STS k).off])

/-- A TAKEOVER gives the queues of its mask the owner of its own queue, and leaves the owners of the others. A LOW head or
operation that has waited for more than BOUND grants is promoted, and so is the LOW request of a move engine whose wait
exceeds the floor's BOUND; a memory arbiter only counts. -/
def Obligations.TakeoverMovesOwnersAndLowIsPromoted : Prop :=
  ∀ (s : State) (d : Fin 4) (q : Fin 64) (ext : HostSlot) (h : Head) (cl : Fin 8), s.Tidy →
    (s.takes d q ext h false Opc.TAKEOVER = true → Answers (.takeover d q ext) s fun t => Consumed s t d q ∧ Left s t
      ∧ ∀ r : Fin 64, t.qf d r R.QUEUE_W1_OWNER =
          if bitOn (wordAt h.cmdWords 2) r then s.qf d q R.QUEUE_W1_OWNER else s.qf d r R.QUEUE_W1_OWNER)
    ∧ (∀ r : Fin 64, (List.range 64).find? (s.dueHead d cl) = some r.val → Answers (.lowPromotion (.caller d cl)) s fun t =>
        t.headClass d r = 0 ∧ PartsKept s { t with queues := s.queues } ∧ WordsKept s t fun _ => false)
    ∧ (∀ c, ((s.arrayRequests d).find? fun c => c.cls == 2 && !c.promoted && decide (s.bound d < c.waited)) = some c →
        Answers (.lowPromotion (.array d)) s fun t => ∃ y ∈ t.cmds, y.id = c.id ∧ y.promoted = true ∧ y.waited = 0)
    ∧ (∀ c, ((s.cmds.filter fun c => c.die == d.val && c.stage == .vectorWait).find? fun c =>
          c.cls == 2 && !c.promoted && decide (s.bound d < c.waited)) = some c →
        Answers (.lowPromotion (.vector d)) s fun t => ∃ y ∈ t.cmds, y.id = c.id ∧ y.promoted = true ∧ y.waited = 0)
    ∧ (∀ (w : Nat) (c : Cmd), ((s.moveRequests d).find? fun c => c.cls == 2) = some c →
        s.fld (page 4 B.STG) R.STG_ARB_BOUND_BOUND < w → Answers (.lowPromotion (.move d w)) s fun t =>
          (∃ y ∈ t.cmds, y.id = c.id ∧ y.promoted = true) ∧ OnlyWords s { t with cmds := s.cmds } [])
    ∧ (∀ w, w ≤ s.fld (page 4 B.STG) R.STG_ARB_BOUND_BOUND → exec (.lowPromotion (.move d w)) s = .next s)
    ∧ (∀ a w, Answers (.lowPromotion (.memory a w)) s fun t => OnlyWords s t [])

/-- The monitoring rows. A counter written takes the low 48 bits of its value. A counter that passes its last value wraps
to 0 and sets its overflow bit, without a chain, while no port asks for block interrupts. A dispatch that is due is tagged
unless it was found skipped when it was dispatched, and the countdown reloads from the next value of r. A ring's enable is
accepted when the ring lies in the DRAM window or the staging window: NUM's and PMU's. The sampler starts from its SEED. A
marker token that reaches the floor writes two records when the ring has room for them. -/
def Obligations.MonitoringFollows : Prop :=
  (∀ (s : State) (x : Access) (d : Fin 5) (e : Fin 4) (n a : Nat) (v : Word), s.Tidy →
    (counterAddr (a / 0x1000000) (counterIndex a) = some a → s.writes x a = true →
      Answers (.counterWrite x a v) s fun t => t.word a = v.toNat % 2 ^ 48)
    ∧ (counterAddr d n = some a → s.fatal = false → (d.val < 4 → s.present d = true) → s.chained d n = false →
      s.on (hifPage 0) R.HIF_INT_CTL_BLOCK_INT_EN = false → s.on (hifPage 1) R.HIF_INT_CTL_BLOCK_INT_EN = false →
      Answers (.counterOverflow d n) s fun t => t.word a = 0
        ∧ bitOn (t.word (page d B.PMU + 0x1100 + 8 * (n / 64))) (n % 64) = true ∧ PartsKept s t)
    ∧ (∀ id, (s.sampler e).due = some id →
      let y := s.sampler e
      let r := nextR y.r
      Answers (.sampleTag e) s fun t => t.sampler e = { y with
        due := none, skip := false, r := r, count := countdownOf r (s.fld (page e B.PMU) R.PMU_SAMPLE_CTL_PERIOD)
        tagged := if y.skip then y.tagged else some id })
    ∧ ((s.sampler e).due = none → exec (.sampleTag e) s = .next s))
  ∧ (∀ (s : State) (x : Access) (d : Fin 5) (e : Fin 4) (v : Word), s.Tidy →
    let num := page e B.NUM
    let pmu := page d B.PMU
    let smp := page e B.PMU
    let floor := page 4 B.PMU
    (s.writes x (num + R.NUM_EVT_CTL.off) = true → s.on num R.NUM_EVT_CTL_EN = false →
      Answers (.numEvtEnable x e v) s fun t => OnlyWords s t [num + R.NUM_EVT_CTL.off]
        ∧ t.on num R.NUM_EVT_CTL_EN = inDramOrStaging (s.fld num R.NUM_EVT_BASE_BASE) (2 ^ t.fld num R.NUM_EVT_CTL_SIZE * 64))
    ∧ (s.writes x (pmu + R.PMU_BUF_CTL.off) = true → s.on pmu R.PMU_BUF_CTL_EN = false →
      Answers (.pmuBufEnable x d v) s fun t => OnlyWords s t [pmu + R.PMU_BUF_CTL.off]
        ∧ t.on pmu R.PMU_BUF_CTL_EN = inDramOrStaging (s.fld pmu R.PMU_BUF_BASE_BASE) (2 ^ t.fld pmu R.PMU_BUF_CTL_SIZE * 256))
    ∧ (s.writes x (smp + R.PMU_SAMPLE_CTL.off) = true → s.on smp R.PMU_SAMPLE_CTL_EN = false →
      Answers (.samplerEnable x e v) s fun t => t.on smp R.PMU_SAMPLE_CTL_EN = true ∧ (t.sampler e).due = none
        ∧ (t.sampler e).r = max 1 (bits v.toNat 32 32)
        ∧ (t.sampler e).count = countdownOf (t.sampler e).r (t.fld smp R.PMU_SAMPLE_CTL_PERIOD))
    ∧ (∀ k, (s.tokens.find? fun y => y.1 == e.val) = some k →
      let head := s.fld floor R.PMU_BUF_HEAD_HEAD
      let depth := (head + 2 ^ 32 - s.fld floor R.PMU_BUF_TAIL_TAIL) % 2 ^ 32
      Answers (.markerToken e) s fun t => t.tokens = dropFirst (fun y => y.1 == e.val) s.tokens
        ∧ (s.on floor R.PMU_BUF_CTL_EN = true → depth + 2 ≤ 2 ^ s.fld floor R.PMU_BUF_CTL_SIZE →
            t.fld floor R.PMU_BUF_HEAD_HEAD = (head + 2) % 2 ^ 32)))

/-- The common header. ERR_SUM and ERR_MASK of any page, and the scratch word, take a write bit by bit: a RW bit takes the
value's, a W1C bit clears on a 1, and another stays. INT_EN takes the bits that the page defines. A write of the debug
range while it answers stops: the manual gives it no effect. A page of a die that is not present reads zero and ignores
writes. A host fence of an array makes it unusable, and its end makes it usable, while no fault fences it. ERR_TAIL takes
a value that leaves at most 256 records, and ends its die's storm when the ring is empty and the action queue has room.
STATS_CLEAR zeroes every statistics entry. -/
def Obligations.HeaderFencesAndTails : Prop :=
  (∀ (s : State) (x : Access) (a n : Nat) (v : Word), s.Tidy →
    let die := a / 0x1000000
    (s.hears x = true → a % 8 = 0 → die < 4 → s.present die = false → s.started = true →
      s.readReg a = 0 ∧ Answers (.registerWrite x a v) s fun t => OnlyWords s t [])
    ∧ (s.writes x a = true →
    let masks := writeMasks (a / 0x1000000) ((blockOf (a / 0x10000 % 0x100)).getD 0) (a % 0x10000)
    (a % 0x10000 = 0x10 ∨ a % 0x10000 = 0x20 ∨ a % 0x10000 = 0x28 → Answers (.registerWrite x a v) s fun t =>
        OnlyWords s t [a] ∧ ∀ i, i < 64 → bitOn (t.word a) i =
          if bitOn masks.1 i then bitOn v.toNat i else bitOn (s.word a) i && !(bitOn masks.2 i && bitOn v.toNat i))
    ∧ (a = 0x10000 * n + R.INT_EN.off → Answers (.intEnWrite x n v) s fun t => OnlyWords s t [a]
        ∧ t.fld (0x10000 * n) R.INT_EN_ENABLE = bits v.toNat 0 16 &&& bits (s.word (0x10000 * n + 8)) 0 16)
    ∧ (0xC000 ≤ a % 0x10000 → s.debugOpen = true → exec (.registerWrite x a v) s = .fault .debugWrite)))
  ∧ (∀ (s : State) (x : Access) (d : Fin 4) (e : Fin 5) (v : Word), s.Tidy →
    let ary := page d B.ARY
    let err := page e B.ERR
    let depth := (s.fld err R.ERR_HEAD_HEAD + 2 ^ 32 - v.toNat % 2 ^ 32) % 2 ^ 32
    (s.writes x (ary + R.FENCE.off) = true → s.hwFences.contains ary = false →
      Answers (.fenceWrite x (256 * d + B.ARY) v) s fun t =>
        (bitOn v.toNat 0 = true → s.on ary R.FENCE_HOST_FENCE = false →
          t.on ary R.FENCE_HOST_FENCE = true ∧ t.on ary R.ARY_MODE_ARRAY_USABLE = false)
        ∧ (bitOn v.toNat 0 = false → t.on ary R.FENCE_HOST_FENCE = false ∧ t.on ary R.ARY_MODE_ARRAY_USABLE = true))
    ∧ (s.writes x (err + R.ERR_TAIL.off) = true → Answers (.errTailWrite x e v) s fun t =>
        (depth ≤ 256 → t.fld err R.ERR_TAIL_TAIL = v.toNat % 2 ^ 32)
        ∧ (depth = 0 → (s.acts e).waiting.length < 64 → t.on err R.ERR_STS_STORM = false)
        ∧ (256 < depth → OnlyWords s t []))
    ∧ (s.writes x (clxPage + R.CLX_STAT_CTL.off) = true → Answers (.statsClear x v) s fun t =>
        ∀ i, i < 256 → t.word (clxPage + 0x5000 + 8 * i) = 0))

/-- Accesses of BAR2. A read answers the bytes of its range, with EP when a granule is poisoned; a write of a range in
staging or an ACC that nothing holds stores its bytes and no other. One that does not reach memory as a whole is answered
as unsupported, and changes no memory. The drain engine. GO of an idle engine ends ABORTED with ADDR when its pages do not
lie in the DRAM window, or with LINK when its port is down; otherwise it runs, has sent its pages and the flush read when
its port reaches the host, and waits when it does not. The flush read's completion ends it DONE; ABORT ends it ABORTED
with HOST. -/
def Obligations.ApertureAndDrain : Prop :=
  (∀ (s : State) (x : Access) (off len : Nat) (data : List Byte), s.Tidy → s.hears x = true →
    let a := s.aperture x.port off
    let n := data.length
    (s.apertureOk x.port off len = true → Answers (.bar2Read x off len) s fun t =>
        Tells t (.read x.port (s.bytes a len) (s.badRange a len)) ∧ PartsKept s t)
    ∧ (s.apertureOk x.port off len = false → Answers (.bar2Read x off len) s fun t =>
        Tells t (.unsupported x.port) ∧ PartsKept s t)
    ∧ (s.apertureOk x.port off n = true → s.open a n = true → s.allLanded s.nextId = true → Answers (.bar2Write x off data) s fun t =>
        t.bytes a n = data ∧ ∀ b, b < a ∨ a + n ≤ b → t.byte b = s.byte b)
    ∧ (s.apertureOk x.port off n = false → Answers (.bar2Write x off data) s fun t =>
        Tells t (.unsupported x.port) ∧ PartsKept s t))
  ∧ (∀ (s : State) (x : Access) (p : Fin 2) (v : Word), s.Tidy →
    let hif := hifPage p
    let n := bits v.toNat 0 15
    let inDram : Bool := n ≠ 0 ∧ n ≤ 16384 ∧ s.fld hif R.HIF_DRAIN_SRC_SRC + n ≤ dramEnd / pageBytes
    let ends (st result : Nat) (t : State) : Prop := t.drainState p = st ∧ t.fld hif R.HIF_DRAIN_CTL_RESULT = result
    (s.writes x (hif + R.HIF_DRAIN_CTL.off) = true →
      (s.drainState p ≠ Drain.RUNNING →
        (inDram = false → Answers (.drainGo x p v) s (ends Drain.ABORTED 2))
        ∧ (inDram = true → s.linkUp p = false → Answers (.drainGo x p v) s (ends Drain.ABORTED 1))
        ∧ (inDram = true → s.hostReach p = true → Answers (.drainGo x p v) s fun t => ends Drain.RUNNING 0 t
            ∧ t.fld hif R.HIF_DRAIN_CTL_PAGES_DONE = n ∧ Tells t (.flushRead p (s.fld hif R.HIF_DRAIN_DST_DST * 64)))
        ∧ (inDram = true → s.linkUp p = true → s.hostReach p = false → Answers (.drainGo x p v) s fun t =>
            ends Drain.RUNNING 0 t ∧ t.fld hif R.HIF_DRAIN_CTL_PAGES_DONE = 0 ∧ PartsKept s t))
      ∧ (s.drainState p = Drain.RUNNING → Answers (.drainAbort x p) s fun t => ends Drain.ABORTED 3 t ∧ PartsKept s t)
      ∧ (s.drainState p ≠ Drain.RUNNING → Answers (.drainAbort x p) s fun t => OnlyWords s t []))
    ∧ (s.drainState p = Drain.RUNNING → s.fld hif R.HIF_DRAIN_CTL_PAGES_DONE = s.fld hif R.HIF_DRAIN_CTL_PAGES →
        s.fatal = false → Answers (.drainFlushComplete p) s fun t => ends Drain.DONE 0 t ∧ PartsKept s t)
    ∧ (s.drainState p ≠ Drain.RUNNING → exec (.drainFlushComplete p) s = .next s))

/-- The link of a host port. It trains from row 6 on to a generation and a width that exist. Its loss, and a host-port
reset, leave the port down with its configuration space, its request and its keys reset; a drain that ran is ABORTED. Bus
Master Enable takes MSI-X Enable, a payload size of 128, 256 or 512 bytes, and the bases of the BARs above their sizes. A
write of a vector sets its address, data and mask, and an unmasked vector that pends goes out with them. -/
def Obligations.HostPortsComeAndGo : Prop :=
  ∀ (s : State) (x : Access) (p : Fin 2) (gen width : Nat) (c : PortConfig) (e : VectorWrite), s.Tidy →
    let hif := hifPage p
    let gone (t : State) : Prop := t.linkUp p = false ∧ t.port p = {} ∧ t.perhal.sessions.contains p.val = false
      ∧ (∀ k : Fin 4, Table.get (fun _ => none) t.perhal.ide (4 * p + k) = none) ∧ t.fld secPage (R.SEC_REQ_STATE p) = 0
      ∧ t.drainState p = if s.drainState p = Drain.RUNNING then Drain.ABORTED else 0
    let bar (t : State) (i : Nat) : Nat := Table.get (fun _ => 0) (t.port p).bars i
    let old := s.port x.port
    (s.linkUp p = false → 6 ≤ s.startStep → s.startResult ≠ 3 → s.fatal = false → s.hostBad p = false →
      [4, 5, 6].contains gen = true → [1, 2, 4, 8].contains width = true → Answers (.hostLinkUp p gen width) s fun t =>
        t.linkUp p = true ∧ t.fld hif R.HIF_LINK_STS_GEN = gen ∧ t.fld hif R.HIF_LINK_STS_WIDTH = width
        ∧ t.on hif R.HIF_LINK_STS_FLIT = (gen == 6) ∧ OnlyWords s t [hif + R.HIF_LINK_STS.off])
    ∧ (s.linkUp p = true ∨ s.hostBad p = true → exec (.hostLinkUp p gen width) s = .next s)
    ∧ (s.linkUp p = true → Answers (.hostLinkDown p) s gone)
    ∧ (s.linkUp p = false → exec (.hostLinkDown p) s = .next s)
    ∧ Answers (.hostPortReset p) s gone
    ∧ (s.linkUp p = true → s.fatal = false → Table.wf (fun _ => 0) (s.port p).bars → Answers (.busMasterEnable p c) s fun t =>
        (t.port p).busMaster = true ∧ (t.port p).msix = c.msix
        ∧ (t.port p).payload = (if [128, 256, 512].contains c.payload then c.payload else (s.port p).payload)
        ∧ (∀ i v, c.bars = [(i, v)] → bar t i = v.toNat / [2 ^ 27, 2 ^ 36, 2 ^ 21].getD i 1 * [2 ^ 27, 2 ^ 36, 2 ^ 21].getD i 1)
        ∧ (c.bars = [] → (t.port p).bars = (s.port p).bars))
    ∧ (s.linkUp p = false → exec (.busMasterEnable p c) s = .next s)
    ∧ (s.hears x = true → Table.wf (fun _ => (0, 0)) old.vectors → old.unmasked.Pairwise (· < ·) →
        Answers (.msixVectorUnmask x e) s fun t =>
          Table.get (fun _ => (0, 0)) (t.port x.port).vectors e.vector = (e.addr.toNat, e.data.toNat)
          ∧ (t.port x.port).unmasked.contains e.vector.val = !e.masked
          ∧ (e.masked = false → old.pendingV.contains e.vector.val = true → old.msix = true →
              HostMsg.msix x.port e.vector e.addr.toNat e.data.toNat ∈ t.hostOut))

/-- The I3C target of a package that has started answers each command once, with a status and a result that it keeps: a
read of CAP, PWR or SEC with the register's value and of another page with DENIED, a write of another register than
PWR_LW_CTL with DENIED, an image block of 256 bytes by storing it while its region is not complete, the end of the image
by its length, and a status with FW_RESULT and the bytes received. After a last waltz that is DONE only reads of CAP and
PWR are not denied. -/
def Obligations.I3cTargetAnswers : Prop :=
  ∀ (s : State) (off len : Nat) (v : Word) (data : List Byte), s.Tidy → s.startStep ≠ 0 →
    let pg := off / 0x10000 * 0x10000
    let live : Bool := s.lwState ≠ 2
    let gives (st : Nat) (l : List Byte) (t : State) : Prop := t.i3c.last = (st, l) ∧ Tells t (.i3c st l)
    let only (t : State) : Prop := { t with hostOut := s.hostOut, i3c := s.i3c } = s
    let status := leBytes 1 (s.fld secPage R.SEC_FW_STS_FW_RESULT) ++ leBytes 4 s.perhal.received
    (off % 8 = 0 → pg = capPage ∨ pg = pwrPage ∨ (pg = secPage ∧ live = true) →
      Answers (.regRead off) s fun t => gives I3c.OK (leBytes 8 (s.regValue off)) t ∧ only t)
    ∧ (off % 8 ≠ 0 ∨ (pg ≠ capPage ∧ pg ≠ pwrPage ∧ (pg ≠ secPage ∨ live = false)) →
        Answers (.regRead off) s fun t => gives I3c.DENIED [] t ∧ only t)
    ∧ (off ≠ pwrPage + R.PWR_LW_CTL.off ∨ live = false → Answers (.regWrite off v) s fun t => gives I3c.DENIED [] t ∧ only t)
    ∧ (live = true → Answers (.regWrite (pwrPage + R.PWR_LW_CTL.off) v) s (gives I3c.OK []))
    ∧ (off % 256 = 0 → data.length = 256 → off + 256 ≤ 0x400000 → s.perhal.imgLen = none → live = true →
      Answers (.imgWrite 0 off data) s fun t => t.image off 256 = data ∧ t.perhal.received = s.perhal.received + 256
        ∧ (∀ k, k < off ∨ off + 256 ≤ k → t.image k 1 = s.image k 1) ∧ gives I3c.OK [] t)
    ∧ (s.perhal.imgLen.isSome = true ∨ live = false → off % 256 = 0 → data.length = 256 →
      Answers (.imgWrite 0 off data) s fun t => gives I3c.DENIED [] t ∧ only t)
    ∧ (len ≤ 0x400000 → s.perhal.imgLen = none → live = true → Answers (.imgDone 0 len) s fun t =>
        t.perhal.imgLen = some len ∧ gives I3c.OK [] t ∧ t.regs = s.regs)
    ∧ Answers .imgStatus s fun t => (if live then gives I3c.OK status t else gives I3c.DENIED [] t) ∧ only t

/-- R300: a frame of a running bundle whose checks fail sets NAK at the receiving end, and nothing of it is taken. An
intact data frame that is the next in order is accepted and clears NAK: a resend with the bits that its sender keeps, or a
new packet frame of a packet group, or a new stream frame whose items the floor can pass on. A new frame whose group does
not carry it, or that has not its credits, and a resend with other bits, change nothing; nor does an idle frame. An intact
handshake frame that inverts TOGGLE brings its credits and its acknowledgement, and a NAK with frames kept sends them
again from the one after ACK_SEQ; one that repeats TOGGLE, or that returns more credits than entries were taken, changes
nothing, and one whose check fails only inverts TOGGLE. A retrain of a bundle, after four consecutive failed resends of a
frame or because its handshake wire is silent, stops its traffic and is an action of its ring's die. Once that action
runs, its end starts traffic again with the frame after ACK_SEQ, and the bundle changes as R304 says: a failed strobe or
handshake wire fences it; where it was not DEGRADED, the logical wires that fail leave it as it is when there are none,
FULL on wires that pass where enough good spares are free, DEGRADED where 48 wires pass, and fenced where not; where it
was DEGRADED, the loss of any of its 48 wires fences it. Every change sets FIELD. -/
def Obligations.BundlesCheckAndRetrain : Prop :=
  (∀ (s : State) (d : Fin 4) (b : Fin 1024) (f : BundleFrame) (g : HandshakeFrame), s.Tidy → s.bundleRuns d b = true →
    let y := s.bundle d b
    let window := (y.sent + 256 - y.ack) % 256
    let place (n : Nat) : Nat := (n + 255 - y.ack) % 256
    let waits := s.movedOf (s.movedKey d b)
    let kept := (y.kept.find? fun k => k.seq == f.seq.toNat).bind Kept.frame
    let others (t : State) : Prop :=
      PartsKept s { t with bundles := s.bundles, crossing := s.crossing, moved := s.moved, parts := s.parts }
      ∧ ∀ k, k ≠ bundleKey d b → Table.get (fun _ => ({} : Bundle)) t.bundles k = Table.get (fun _ => {}) s.bundles k
    let at' := place f.seq.toNat
    let carried : Bool := s.groupTakes d b f && s.bundleCredit d b (onesOf f.itemStart.toNat)
    let accepted (t : State) : Prop := (t.bundle d b).nak = false ∧ (t.bundle d b).rxSeq = f.seq.toNat ∧ others t
    (f.carries = .idle → Answers (.bundleDataFrame d b f) s fun t =>
      t.bundle d b = { y with nak := y.nak || !frameIntact f } ∧ others t ∧ t.crossing = s.crossing ∧ t.moved = s.moved)
    ∧ (frameIntact f = false → f.carries ≠ .idle → place y.next < 8 →
        place y.next < window ∨ (place y.next = window ∧ waits = []) → Answers (.bundleDataFrame d b f) s fun t =>
          (t.bundle d b).nak = true ∧ (t.bundle d b).rxSeq = y.rxSeq ∧ (t.bundle d b).taken = y.taken ∧ others t
          ∧ t.crossing = s.crossing ∧ t.parts = s.parts)
    ∧ (frameIntact f = true → f.carries ≠ .idle → at' < 8 → f.seq.toNat = (y.rxSeq + 1) % 256 → ∀ r, s.relay d b f = some r →
      (at' = window → waits = [] → carried = true → Answers (.bundleDataFrame d b f) s fun t => accepted t
        ∧ t.crossing = r.crossing ∧ t.parts = r.parts
        ∧ (t.bundle d b).taken = y.taken + onesOf f.itemStart.toNat ∧ (t.bundle d b).spent = y.spent + onesOf f.itemStart.toNat
        ∧ (t.bundle d b).kept.any fun k => k.seq == f.seq.toNat && k.frame == some f)
      ∧ (∀ h, at' < window → kept = some h → sameBits h f = true → Answers (.bundleDataFrame d b f) s fun t => accepted t
        ∧ t.crossing = r.crossing ∧ t.parts = r.parts ∧ (t.bundle d b).spent = y.spent))
    ∧ (f.carries = .packets → s.relay d b f = some s)
    ∧ (frameIntact f = true → f.carries ≠ .idle → at' = window → carried = false → exec (.bundleDataFrame d b f) s = .next s)
    ∧ (∀ h, frameIntact f = true → f.carries ≠ .idle → at' < window → kept = some h → sameBits h f = false →
        exec (.bundleDataFrame d b f) s = .next s)
    ∧ (handIntact g = true → y.toggle ≠ some g.toggle → y.credits + g.credits.toNat ≤ y.taken →
      (g.ackSeq.toNat + 256 - y.ack) % 256 ≤ window → Answers (.bundleHandshakeFrame d b g) s fun t =>
        (t.bundle d b).ack = g.ackSeq.toNat ∧ (t.bundle d b).credits = y.credits + g.credits.toNat
        ∧ (t.bundle d b).toggle = some g.toggle
        ∧ (t.bundle d b).next
            = if g.nak && (y.sent + 256 - g.ackSeq.toNat) % 256 != 0 then (g.ackSeq.toNat + 1) % 256 else y.next)
    ∧ (handIntact g = true → y.toggle = some g.toggle ∨ y.taken < y.credits + g.credits.toNat →
        exec (.bundleHandshakeFrame d b g) s = .next s)
    ∧ (handIntact g = false → Answers (.bundleHandshakeFrame d b g) s fun t =>
        t.bundle d b = { y with toggle := y.toggle.map (!·) } ∧ others t ∧ WordsKept s t fun _ => false))
  ∧ (∀ (s : State) (d : Fin 4) (b : Fin 1024) (silent : Bool) (r : BundleTest), s.Tidy →
    let asked : Bool := silent || decide (4 ≤ (s.bundle d b).fails)
    let ring := s.acts (bundleRing d b).val
    let bad := r.failing.map Fin.val
    let spare (t : State) (i : Nat) : Nat := (t.spares d b).getD i 0
    let wire (t : State) (l : Nat) : Nat :=
      (((List.range 4).find? fun i => spare t i == 64 + l).map (64 + ·)).getD l
    let lost := (List.range 64).filter fun l => bad.contains (wire s l)
    let free := (List.range 4).filter fun i => spare s i == 0 && !bad.contains (64 + i)
    let first48 (l : List Nat) : List Nat := ((List.range 68).filter fun w => !l.contains w).take 48
    let field (t : State) : Bool := t.on (d2dPage d) (R.LANE_MAP_FIELD b)
    let fenced (t : State) : Prop := t.bundleState d b = Lane.FENCED ∧ field t = true
    let old := s.bundleState d b
    (s.bundleRuns d b = true → asked = true → ring.waiting.length < 64 → Answers (.bundleRetrain d ⟨b, silent⟩) s fun t =>
        t.bundle d b = { s.bundle d b with retrain := true, fails := 0 } ∧ t.bundleRuns d b = false
        ∧ (t.acts (bundleRing d b).val).waiting.length = ring.waiting.length + 1)
    ∧ (s.bundleRuns d b = true → asked = true → 64 ≤ ring.waiting.length → Answers (.bundleRetrain d ⟨b, silent⟩) s fenced)
    ∧ (s.bundleRuns d b = false ∨ asked = false → exec (.bundleRetrain d ⟨b, silent⟩) s = .next s)
    ∧ (r.bundle = b → (s.bundle d b).retrain = true → s.present d = true → s.fatal = false →
      (ring.running.any fun a => retrainOf d b a.event) = true → Answers (.bundleRetrainDone d r) s fun t =>
        (t.bundle d b).retrain = false ∧ (t.bundleState d b ≠ Lane.FENCED ∨ old = Lane.FENCED →
          (t.bundle d b).next = ((s.bundle d b).ack + 1) % 256)
        ∧ (r.ctlFails = true → fenced t)
        ∧ (r.ctlFails = false → old ≠ Lane.DEGRADED →
          (lost = [] → t.bundleState d b = old ∧ t.spares d b = s.spares d b)
          ∧ (lost ≠ [] → lost.length ≤ free.length → t.bundleState d b = Lane.FULL ∧ field t = true
              ∧ ∀ l : Fin 64, bad.contains (wire t l) = false)
          ∧ (lost ≠ [] → free.length < lost.length → (first48 bad).length = 48 → t.bundleState d b = Lane.DEGRADED ∧ field t = true)
          ∧ (lost ≠ [] → free.length < lost.length → (first48 bad).length < 48 → fenced t))
        ∧ (r.ctlFails = false → old = Lane.DEGRADED →
          (((first48 (s.bundle d b).failing).any bad.contains) = true → fenced t)
          ∧ (((first48 (s.bundle d b).failing).any bad.contains) = false → t.bundleState d b = old))))

/-- The absence of a compute die. DIE_ABSENT makes a present die ABSENT with its cause, and what the die itself runs is
gone: its work on the floor, its quad operations at other arrays and running grand operations remain until the absence is
learned; cells and memory stay, and the absence is an action of the floor's queue. At ABSENCE_LEARNED no wait on the die's
cells or of its queues is left, and no stream item to or from it, once for each absence. A die that loses the floor halts
all its callers, and its array starts nothing. R313: the reset and the rejoin of a compute die. A request declares a
present die absent, with the reset pending until the absence is learned, and resets an absent or failed one at once when
its absence is known: its cells read 0 and all its registers their reset words. At the end of the hold it trains, then
tests itself unless too few packet bundles serve, and rejoins with the vector units that passed, or fails. -/
def Obligations.DiesLeaveAndRejoin : Prop :=
  (∀ (s : State) (d : Fin 4) (loss : Bool), s.Tidy → (s.cmds.all fun c => decide (c.die < 4) && decide (c.queue < 64)) = true →
    let die := d2dPage d
    (s.present d = true → s.fatal = false → (loss = true → s.bundlesFail d = true) → (s.acts 4).waiting.length < 64 →
      Answers (.dieAbsent d loss) s fun t =>
        t.dieState d = Die.ABSENT ∧ t.fld d2dFloor (R.D2D_DIE_CTL_CAUSE d) = (if loss then 2 else 1)
        ∧ t.cells = s.cells ∧ t.mem = s.mem ∧ (t.tokens.all fun k => k.1 != d.val) = true
        ∧ t.absentDue.contains d.val = true ∧ ((t.acts 4).waiting.any fun a => a.event.kind == .dieAbsent && a.event.index == d.val) = true
        ∧ (t.cmds.all fun c => c.die != d.val || s.onFloor c || onOtherArray c
            || (c.stage == .arrayRun && c.arrays.contains d.val && decide (1 < c.arrays.length))) = true)
    ∧ (s.present d = false → exec (.dieAbsent d loss) s = .next s)
    ∧ (s.absentDue.contains d.val = true → s.on d2dFloor (R.D2D_DIE_CTL_RESET_REQ d) = false → s.fatal = false →
      Answers (.absenceLearned d) s fun t => t.dieState d = s.dieState d ∧ t.absentDue = setErase d.val s.absentDue
        ∧ (t.crossing.all fun e => e.1 % 8 != d.val) = true ∧ (t.waits.all fun w => w.cell / 16384 != d.val && w.queue / 64 != d.val) = true)
    ∧ (s.absentDue.contains d.val = false → exec (.absenceLearned d) s = .next s)
    ∧ (s.present d = true → s.on die R.D2D_LINK_STS_FLOOR_LOST = false →
      s.fld (page d B.CAL) R.CAL_RESUME_RESUME = 0 → Answers (.floorLost d) s fun t =>
        t.on die R.D2D_LINK_STS_FLOOR_LOST = true ∧ (∀ n : Fin 8, t.halted d n = true) ∧ t.cells = s.cells
        ∧ t.arrayTakes d = false))
  ∧ (∀ (s : State) (x : Access) (d : Fin 4) (tests : List BundleTest) (r : DieTest), s.Tidy →
    (s.cmds.all fun c => decide (c.die < 4) && decide (c.queue < 64)) = true →
    let st := s.dieState d
    let req (t : State) : Bool := t.on d2dFloor (R.D2D_DIE_CTL_RESET_REQ d)
    let known := s.recordDie d
    (s.writes x (d2dFloor + (R.D2D_DIE_CTL d).off) = true →
      (st = Die.PRESENT → Answers (.dieResetRequest x d) s fun t =>
        t.dieState d = Die.ABSENT ∧ t.fld d2dFloor (R.D2D_DIE_CTL_CAUSE d) = 3 ∧ req t = true ∧ t.cells = s.cells)
      ∧ (st = Die.ABSENT ∨ st = Die.FAILED → s.absentDue.contains d.val = true → Answers (.dieResetRequest x d) s fun t =>
        t.dieState d = st ∧ req t = true ∧ OnlyWords s t [d2dFloor + (R.D2D_DIE_CTL d).off])
      ∧ (st = Die.ABSENT ∨ st = Die.FAILED → s.absentDue.contains d.val = false → Answers (.dieResetRequest x d) s fun t =>
        t.dieState d = Die.RESET ∧ req t = true
        ∧ (∀ k, t.cell k = if k / 16384 = d.val then 0 else s.cell k)
        ∧ (∀ q, q / 64 = d.val → t.queue q = {}) ∧ ∀ a, a / 0x1000000 = d.val → t.word a = resetNat a % 2 ^ 64)
      ∧ (st = Die.RESET ∨ st = Die.TRAINING ∨ st = Die.SELFTEST → Answers (.dieResetRequest x d) s fun t => OnlyWords s t []))
    ∧ (st = Die.RESET → req s = true → s.fatal = false → Answers (.dieResetHoldEnd d) s fun t =>
        t.dieState d = Die.TRAINING ∧ req t = false ∧ OnlyWords s t [d2dFloor + (R.D2D_DIE_CTL d).off])
    ∧ (st = Die.TRAINING → s.started = true → s.fatal = false → Answers (.dieTrainingDone d tests) s fun t =>
        t.dieState d = if t.bundlesFail d then Die.FAILED else Die.SELFTEST)
    ∧ (st = Die.SELFTEST → s.fatal = false → Answers (.dieSelftestDone d r) s fun t =>
        (r.dieFails || known.dieFails → t.dieState d = Die.FAILED)
        ∧ (r.dieFails = false → known.dieFails = false → t.dieState d = Die.PRESENT ∧ ∀ u : Fin 64,
            bitOn (t.fld (page d B.VEC) R.VEC_UNIT_USABLE_USABLE) u = !(r.units ++ known.units).contains u)))

/-- The patrol scrub of a stack moves on by one codeword at each read, and an uncorrectable error there poisons the
granule. A page whose correctable errors reach the threshold for the first time, and one that a host retires, starts its
retirement when the reserve and the table have room, the spare lies in DRAM and no part of DRAM is fenced. Copies and
windows of the memory end. The retirement's copy puts the page and its spare into its table entry; the copy of a preserved
page marks it preserved; a stack whose retrain fails is fenced as a whole; one whose retrain passes closes its window and
ends its action, and nothing is fenced. -/
def Obligations.ScrubRetirementAndStacks : Prop :=
  (∀ (s : State) (x : Access) (n : Fin 16) (found : Ecc) (p : Fin 786432) (k : Fin 1024) (v : Word), s.Tidy →
    let mct := mctPage n
    let tbl := mctPage 0
    let at0 := s.fld mct R.MCT_SCRUB_STS_POSITION
    let a := scrubAddr n at0
    let used := s.fld tbl R.MCT_RETIRE_STS_USED
    let fault := bits v.toNat 0 20
    let room : Prop := s.retiring = none ∧ s.retireDue = [] ∧ s.fencedPch = [] ∧ used < s.fld tbl R.MCT_RETIRE_CTL_POOL_COUNT
      ∧ s.fld tbl R.MCT_RETIRE_CTL_POOL_PAGE + used < dramEnd / pageBytes
    let starts (page : Nat) (host : Bool) (t : State) : Prop := t.fld tbl R.MCT_RETIRE_STS_USED = used + 1
      ∧ ∃ r, t.retiring = some r ∧ r.page = page ∧ r.byHost = host ∧ r.spare = s.fld tbl R.MCT_RETIRE_CTL_POOL_PAGE + used
    (s.on mct R.MCT_SCRUB_CTL_EN = true → 10 ≤ s.startStep → s.fatal = false → at0 < stackWords → Answers (.scrubRead n found) s fun t =>
        t.fld mct R.MCT_SCRUB_STS_POSITION = (at0 + 1) % stackWords
        ∧ (found = .uncorrectable → (s.acts 4).waiting.length < 64 → s.fencedAt a = false → t.poison.contains a = true)
        ∧ (found = .clean → OnlyWords s t [mct + R.MCT_SCRUB_STS.off]))
    ∧ (s.on mct R.MCT_SCRUB_CTL_EN = false → exec (.scrubRead n found) s = .next s)
    ∧ (let limit := s.fld tbl R.MCT_RETIRE_CTL_CE_THRESH
      limit ≠ 0 → limit ≤ s.ceCount p → s.ceFired.contains p.val = false → s.hwFences.contains mct = false → s.fatal = false → room →
        (s.retireEntry p).isSome = true ∨ s.retireFree.isSome = true →
        Answers (.ceThresholdReached p n) s fun t => starts p false t ∧ t.ceFired.contains p.val = true)
    ∧ (s.ceFired.contains p.val = true → exec (.ceThresholdReached p n) s = .next s)
    ∧ (s.writes x (tbl + (R.RETIRE_TABLE k).off) = true → s.on tbl (R.RETIRE_TABLE_VALID k) = false → room →
        fault < dramEnd / pageBytes → Answers (.retireRequest x k v) s (starts fault true))
    ∧ (s.writes x (tbl + (R.RETIRE_TABLE k).off) = true → s.on tbl (R.RETIRE_TABLE_VALID k) = true →
        Answers (.retireRequest x k v) s fun t => OnlyWords s t []))
  ∧ (∀ (s : State) (p : Fin 786432) (n : Fin 16), s.Tidy → (s.cmds.all fun c => decide (c.die < 4) && decide (c.queue < 64)) = true →
    let w := winKey 7 4 n
    (∀ r, s.retiring = some r → s.retireDue = [] → r.entry < 1024 → r.page < 2 ^ 20 → r.spare < 2 ^ 20 →
      Answers .retireCopyDone s fun t => t.retiring = none ∧ t.on (mctPage 0) (R.RETIRE_TABLE_VALID r.entry) = true
        ∧ t.fld (mctPage 0) (R.RETIRE_TABLE_FAULT_PAGE r.entry) = r.page
        ∧ t.fld (mctPage 0) (R.RETIRE_TABLE_SPARE_PAGE r.entry) = r.spare
        ∧ t.on (mctPage 0) (R.RETIRE_TABLE_BY_HOST r.entry) = r.byHost)
    ∧ (s.retiring = none → exec .retireCopyDone s = .next s)
    ∧ (s.preserving.contains p.val = true → Answers (.preserveCopyDone p) s fun t => (t.pageSt p).preserved = true)
    ∧ (s.preserving.contains p.val = false → exec (.preserveCopyDone p) s = .next s)
    ∧ (s.windows.contains w = true → s.fatal = false → Answers (.stackRetrainDone n true) s fun t =>
        t.windows.contains w = false ∧ (∀ v, v ≠ w → t.windows.contains v = s.windows.contains v) ∧ t.fencedPch = s.fencedPch
        ∧ t.hwFences = s.hwFences ∧ t.mem = s.mem
        ∧ (∀ a, (s.acts 4).running = some a → (a.event.kind == .stackRetrain && a.event.index == n.val) = true →
            (t.acts 4).running = none))
    ∧ (s.windows.contains w = true → s.fatal = false → s.hwFences.contains (mctPage n) = false → Answers (.stackRetrainDone n false) s fun t =>
        t.hwFences.contains (mctPage n) = true ∧ ∀ i : Fin 64, t.fencedPch.contains (64 * n.val + i) = true)
    ∧ (s.windows.contains w = false → exec (.stackRetrainDone n false) s = .next s))

/-- The detection of an error. An uncorrectable error poisons its granule while the floor's action queue has room; an
array or vector-unit fault waits in that queue; a FATAL error stops the floor. Nothing is detected once the package is
held, or on a die that is not present. CONTAINMENT_ACTION takes the oldest action, and that of a vector unit makes it
unusable. -/
def Obligations.ErrorsAreContained : Prop :=
  ∀ (s : State) (e : ErrEvent) (d : Fin 5), s.Tidy →
    let die := e.die.val
    let g := s.phys (e.address / 64 * 64)
    let live : Bool := s.fatal = false ∧ (die < 4 → s.present die = true)
    let unit : Bool := e.kind = .vuFault ∨ e.kind = .arrayUnusable ∨ e.kind = .arrayRowFault ∨ e.kind = .arrayColFault
    (live = false → exec (.errorDetected e) s = .next s)
    ∧ (live = true → e.kind = .memUe ∨ e.kind = .sramUe → (regionOf g).isSome = true → s.fencedAt g = false → (s.acts 4).waiting.length < 64 →
        Answers (.errorDetected e) s fun t => t.poison.contains g = true)
    ∧ (live = true → unit = true → (s.acts die).waiting.length < 64 → Answers (.errorDetected e) s fun t =>
        (t.acts die).waiting = (s.acts die).waiting ++ [⟨e, s.inWindow e⟩])
    ∧ (live = true → e.kind = .fatal → Answers (.errorDetected e) s fun t => t.fatal = true ∧ t.cmds = [] ∧ t.links = [])
    ∧ (∀ a l, (s.acts d).running = none → (s.acts d).waiting = a :: l → a.event.die = d → a.event.kind = .vuFault →
        a.second = false → Answers (.containmentAction d) s fun t => t.acts d = { waiting := l, running := none }
          ∧ bitOn (t.fld (page d B.VEC) R.VEC_UNIT_USABLE_USABLE) a.event.index = false)
    ∧ ((s.acts d).waiting = [] → exec (.containmentAction d) s = .next s)

/-- R528 and R529: the start sequence goes row by row. A row that passes begins the next one of its kind: a quick start
leaves out rows 4, 8, 10 and 11, and the results of its record take their place. A row that scans ends only once scan is
enabled. Row 2 counts the start, and finds a record in force when its digest and seal verify and it is of this start
count, image and life cycle; row 5 checks the image, row 14 ends the start. A row that fails, and a scan of the floor's
logic that fails, now or by the record, ends it FAILED and tells the controller. -/
def Obligations.StartGoesRowByRow : Prop :=
  ∀ (s : State) (r : TestResult), s.Tidy → s.startResult ≠ 3 → s.paused = false → s.fatal = false →
    let n := s.startStep
    let image := s.firmwareCheck
    let scans : Bool := n = 4 ∨ n = 8
    let left := [4, 8, 10, 11]
    let next : Option Nat := (List.range 16).find? fun m => decide (n < m) && !(s.quickStart && left.contains m)
    let floorBad : Bool := (n = 4 ∧ r.floor = true) ∨ (n = 3 ∧ s.quickStart = true ∧ s.found.floor = true)
    let fits (y : LwRecord) : Prop := y.count = s.startCount ∧ y.version = s.imageNat 0 4 ∧ y.lc = s.fuses.lc
    let key := ({ s with perhal := { s.perhal with latch := fit 64 s.fuses.uds } } : State).seed 3 []
    let fails (t : State) : Prop := t.startResult = 3 ∧ t.startStep = n ∧ Tells t (.i3cInterrupt 3)
    (1 ≤ n → n ≤ 13 → n ≠ 2 → n ≠ 5 → (s.quickStart && left.contains n) = false → r.ok = true → floorBad = false →
      scans = false ∨ s.scanEnabled = true →
        Answers (.startRowDone r) s fun t => some t.startStep = next)
    ∧ (n = 2 → r.ok = true → Answers (.startRowDone r) s fun t => t.startStep = 3 ∧ t.startCount = (s.startCount + 1) % 2 ^ 32
        ∧ t.quickStart = t.inForce.isSome ∧ t.found = (match t.inForce with | some y => y.found | none => {})
        ∧ (∀ y, t.inForce = some y → s.record = some y ∧ fits y)
        ∧ (∀ y k, s.record = some y → s.perhal.noKeys = false → key = some k → y.verifies k = true → fits y → t.inForce = some y))
    ∧ (n = 5 → r.ok = true → image = 0 → Answers (.startRowDone r) s fun t =>
        t.startStep = 6 ∧ t.fld secPage R.SEC_FW_STS_IMAGE_VER = s.imageNat 0 4)
    ∧ (n = 5 → image ≠ 0 → Answers (.startRowDone r) s fun t => fails t ∧ t.fld secPage R.SEC_FW_STS_FW_RESULT = image)
    ∧ (1 ≤ n → n ≤ 14 → scans = false ∨ s.scanEnabled = true → r.ok = false ∨ floorBad = true → (n = 5 → r.ok = false) →
        Answers (.startRowDone r) s fails)
    ∧ (scans = true → s.scanEnabled = false → exec (.startRowDone r) s = .next s)
    ∧ (n = 14 → r.ok = true → Answers (.startRowDone r) s fun t => t.startStep = 15
        ∧ t.startResult = (if s.allUnits then 1 else 2))

/-- The last waltz. A write with the key starts it, or refuses it while a queue is enabled, a transfer runs or a storm
lasts; INVALIDATE drops the record. An element that passes begins the next, one that scans once scan is enabled, and FAILS
holds the units found failing; the last one seals a record of the package's start count, image and life cycle with what
was found. One that fails ends it FAILED, as does a rail that leaves regulation; VALID follows the rails. -/
def Obligations.LastWaltzRunsToItsRecord : Prop :=
  ∀ (s : State) (x : Access) (v : Word) (r : TestResult) (rail : Fin 10), s.Tidy →
    let sts := s.fld pwrPage R.PWR_LW_STS_ELEMENT
    let keyed : Bool := bits v.toNat 48 16 = 0x57A1
    let valid (t : State) : Bool := bitOn (t.fld pwrPage R.PWR_RAIL_STS_VALID) rail
    let runs : Bool := sts ≠ 5 ∧ sts ≠ 6 ∨ s.scanEnabled = true
    let all := joinResult s.tallied (if sts = 5 then joinResult r s.missing else r)
    let version := s.fld secPage R.SEC_FW_STS_IMAGE_VER
    (s.writes x (pwrPage + R.PWR_LW_CTL.off) = true → s.started = true → s.lwRuns = false →
      (keyed = true → s.lwRefused = true → Answers (.lwStart x v) s fun t => t.lwState = 3)
      ∧ (keyed = true → s.lwRefused = false → Answers (.lwStart x v) s fun t => t.lwState = 1
        ∧ t.fld pwrPage R.PWR_LW_STS_ELEMENT = 1 ∧ t.fld pwrPage R.PWR_LW_STS_FAILS = 0)
      ∧ (keyed = true → Answers (.lwInvalidate x v) s fun t => t.record = none
        ∧ (bitOn v.toNat 0 = false → PartsKept s { t with record := s.record } ∧ WordsKept s t fun _ => false))
      ∧ (keyed = false → Answers (.lwStart x v) s fun t => OnlyWords s t []))
    ∧ (s.lwRuns = true → s.paused = false → s.fatal = false → runs = true →
      (r.ok = true → 1 ≤ sts → sts < 8 → Answers (.lwElementDone r) s fun t => t.lwState = 1
        ∧ t.fld pwrPage R.PWR_LW_STS_ELEMENT = sts + 1
        ∧ t.fld pwrPage R.PWR_LW_STS_FAILS = min 255 (failCount all)
        ∧ (sts = 1 → t.perhal.dik = none ∧ t.perhal.ak = none ∧ t.perhal.sessions.contains 0 = false ∧ t.perhal.sessions.contains 1 = false))
      ∧ (r.ok = true → 8 ≤ sts → Answers (.lwElementDone r) s fun t => t.lwState = 2
        ∧ (s.perhal.noKeys = false → 1 ≤ s.lifeCycle → s.lifeCycle ≤ 3 → ∃ y, t.record = some y ∧ y.count = s.startCount
            ∧ y.lc = s.lifeCycle ∧ y.version = version ∧ y.found = { s.found with badPages := s.found.badPages.take 256 }
            ∧ y.digest = recordDigest y.count y.version y.lc y.found))
      ∧ (r.ok = false → Answers (.lwElementDone r) s fun t => t.lwState = 4 ∧ t.record = s.record ∧ t.found = {}))
    ∧ (s.lwRuns = true → runs = false → exec (.lwElementDone r) s = .next s)
    ∧ (s.startStep ≠ 0 → s.fatal = false →
      (valid s = true → Answers (.railExcursion ⟨rail, false⟩) s fun t =>
        valid t = false ∧ t.lwState = (if s.lwRuns then 4 else s.lwState)
        ∧ t.record = s.record ∧ (s.lwRuns = true → t.found = {}))
      ∧ (valid s = false → Answers (.railExcursion ⟨rail, true⟩) s fun t =>
        valid t = true ∧ OnlyWords s t [pwrPage + R.PWR_RAIL_STS.off]))
    ∧ exec (.railExcursion ⟨rail, valid s⟩) s = .next s

/-- Pauses and the throttle. A test that runs pauses above 2,400 W and goes on below 2,200 W. A sensor of a compute die at
100 °C takes its die four steps down, and one below 90 °C ends its excursion; a trigger that holds steps its die, or the
package, down by one, to four at most, and its release steps up by one. A clock that stops makes a compute die out of
reset absent, and the floor's stops the package. Nothing changes the throttle once the package is stopped. -/
def Obligations.ThrottleFollowsSensors : Prop :=
  ∀ (s : State) (d : Fin 4) (n : Fin 16) (v : Nat) (x : Sensor) (g : Trigger), s.Tidy →
    (s.cmds.all fun c => decide (c.die < 4) && decide (c.queue < 64)) = true →
    let at' : Sensor := .die (Fin.ofNat 5 d.val) n
    let key := sensorKey at'
    let st := s.dieState d
    let mhz (t : State) (i : Nat) : Nat := t.fld (page d B.CAP) (R.CAP_ISLAND_CURRENT_MHZ i)
    (s.testing = true → s.paused = false → s.fatal = false → 2400 < s.reading 32 → Answers .powerPause s fun t => t.paused = true
        ∧ PartsKept s { t with paused := s.paused } ∧ WordsKept s t fun _ => false)
    ∧ (s.testing = false ∨ s.paused = true ∨ s.reading 32 ≤ 2400 → exec .powerPause s = .next s)
    ∧ (s.reading 32 < 2200 → s.fatal = false → exec .powerPauseEnd s = .next { s with paused := false })
    ∧ (2200 ≤ s.reading 32 → exec .powerPauseEnd s = .next s)
    ∧ (s.startStep ≠ 0 → s.fatal = false →
      (100 ≤ v → Answers (.sensorThreshold at' v) s fun t => t.steps d = 4
        ∧ t.reading key = v ∧ (s.present d = true → mhz t 0 = 600))
      ∧ (v < 90 → Answers (.sensorThreshold at' v) s fun t =>
          t.thermal.hot = setErase key s.thermal.hot ∧ t.steps d = s.steps d ∧ t.regs = s.regs))
    ∧ (s.fatal = false →
      (s.dieBelow d 95 = false → Answers (.throttleStepDown (.die d)) s fun t => t.steps d = min 4 (s.steps d + 1)
        ∧ (s.present d = true → mhz t 1 = stepMhz (max (t.steps d) (t.steps 4))))
      ∧ (3600 < s.reading 32 → Answers (.throttleStepDown .draw) s fun t => t.steps 4 = min 4 (s.steps 4 + 1))
      ∧ (s.dieBelow d 90 = true → s.thermal.stack = false → Answers (.throttleStepUp (.die d)) s fun t =>
        t.steps d = s.steps d - 1)
      ∧ (s.reading 32 < 3400 → Answers (.throttleStepUp .draw) s fun t => t.steps 4 = s.steps 4 - 1)
      ∧ (s.present d = true ∨ st = Die.TRAINING ∨ st = Die.SELFTEST ∨ st = Die.FAILED → (s.acts 4).waiting.length < 64 →
        Answers (.clockStop (Fin.ofNat 5 d.val)) s fun t =>
          t.dieState d = Die.ABSENT ∧ t.fld d2dFloor (R.D2D_DIE_CTL_CAUSE d) = 1)
      ∧ (s.startStep ≠ 0 → Answers (.clockStop 4) s fun t => t.fatal = true))
    ∧ (s.fatal = true → exec (.sensorThreshold x v) s = .next s ∧ exec (.throttleStepDown g) s = .next s
        ∧ exec (.throttleStepUp g) s = .next s ∧ exec (.clockStop 4) s = .next s)

/-- Requests that read or extend. EXTEND hashes 64 bytes of the mailbox into MR8–MR15 and refuses another register; QUOTE
puts its body into the mailbox, GET_DIK the public key, GET_AK_CERT the certificate's body; without its key each ends
NOT_READY. -/
def Obligations.RequestsReadAndExtend : Prop :=
  ∀ (s : State) (p : Fin 2), s.Tidy →
    let n := s.fld secPage (R.SEC_REQ_ARG p)
    let mask := leNat (s.regBytes (mailbox p + 64) 2)
    let quoted := s.quoteHead mask ++ s.regBytes (mailbox p) 64 ++ ((List.range 16).filter (bitOn mask)).flatMap s.mr
    (s.asks p 1 = true → 8 ≤ n → n ≤ 15 → Answers (.extend p) s fun t => Ended t p Res.OK
        ∧ t.mr n = sha3_512 (s.mr n ++ s.regBytes (mailbox p) 64))
    ∧ (s.asks p 1 = true → n < 8 ∨ 15 < n → Answers (.extend p) s fun t => Ended t p Res.BAD_ARG
        ∧ ∀ k, k < 16 → t.mr k = s.mr k)
    ∧ (s.asks p 2 = true → s.perhal.ak.isSome = true → Answers (.quote p) s fun t => Ended t p Res.OK
        ∧ t.regBytes (mailbox p) quoted.length = quoted)
    ∧ (s.asks p 2 = true → s.perhal.ak = none → Answers (.quote p) s fun t => Ended t p Res.NOT_READY)
    ∧ (∀ k, s.asks p 3 = true → s.perhal.dik = some k → Answers (.getDik p) s fun t => Ended t p Res.OK
        ∧ t.regBytes (mailbox p) 2592 = publicKey k)
    ∧ (s.asks p 3 = true → s.perhal.dik = none → Answers (.getDik p) s fun t => Ended t p Res.NOT_READY)
    ∧ (∀ k a, s.asks p 4 = true → s.perhal.dik = some k → s.perhal.ak = some a →
      let body := s.quoteHead 0x7F ++ s.akContext ++ publicKey a
      Answers (.getAkCert p) s fun t => Ended t p Res.OK ∧ t.regBytes (mailbox p) body.length = body)
    ∧ (s.asks p 4 = true → s.perhal.dik = none → Answers (.getAkCert p) s fun t => Ended t p Res.NOT_READY)

/-- Requests and events that change keys and fuses. SVN_COMMIT and LC_TRANSITION blow their fuses where the fuses take it
(a free value) and end FUSE_FAIL where not. R561: FACTORY goes to DEPLOYED and DEPLOYED to RETURN with a token that
authorises it, and each of the three to SCRAPPED without one; any other transition is refused. One to RETURN or SCRAPPED
closes the package to requests and clears its keys. A scan request clears every key and keeps new ones out. A session
needs the AK and a link, and is answered with the delivered chain, the leaf and a signature; IDE keys need a session. -/
def Obligations.FusesAndKeysFollow : Prop :=
  ∀ (s : State) (p : Fin 2) (l : List Byte) (stream : Fin 4) (set : Bool), s.Tidy →
    let svn := min 64 (s.imageNat 4 4)
    let old := s.fuses.lc
    let new := s.fld secPage (R.SEC_REQ_ARG p)
    let allowed : Bool := (old = 1 ∧ new = 2) ∨ (old = 2 ∧ new = 3) ∨ ((old = 1 ∨ old = 2 ∨ old = 3) ∧ new = 4)
    let blows := Config.fuseBlows s.free
    let keyless (t : State) : Prop := t.perhal.dik = none ∧ t.perhal.ak = none
      ∧ ∀ k : Fin 2, t.perhal.sessions.contains k.val = false
        ∧ ∀ i : Fin 4, Table.get (fun _ => none) t.perhal.ide (4 * k + i) = none
    let moves (t : State) : Prop := (blows = true → Ended t p Res.OK ∧ t.fuses = { s.fuses with lc := new }
        ∧ t.fld secPage R.SEC_LC_NEXT = new ∧ t.on secPage R.SEC_LC_PENDING = true ∧ t.lifeCycle = s.lifeCycle
        ∧ (new = 3 ∨ new = 4 → t.perhal.closed = true ∧ keyless t) ∧ (new = 2 → t.perhal = { s.perhal with order := t.perhal.order }))
      ∧ (blows = false → Ended t p Res.FUSE_FAIL ∧ t.fuses = s.fuses)
    let ready : Bool := s.linkUp p = true ∧ s.scanAsked = false ∧ s.fatal = false
    let chain := tabulate (fun i => Table.get (fun _ => 0) s.perhal.chain i) (s.perhal.chainLen.getD 0)
    (s.asks p 5 = true → Answers (.svnCommit p) s fun t =>
        (svn ≤ s.fuses.svn → Ended t p Res.OK ∧ t.fuses = s.fuses)
        ∧ (s.fuses.svn < svn → blows = true → Ended t p Res.OK ∧ t.fuses.svn = svn ∧ t.fuses.lc = s.fuses.lc)
        ∧ (s.fuses.svn < svn → blows = false → Ended t p Res.FUSE_FAIL ∧ t.fuses = s.fuses))
    ∧ (s.asks p 6 = true →
      (4 < new → Answers (.lcTransition p) s fun t => Ended t p Res.BAD_ARG ∧ t.fuses = s.fuses)
      ∧ (new ≤ 4 → allowed = false → Answers (.lcTransition p) s fun t => Ended t p Res.LC_REFUSED ∧ t.fuses = s.fuses)
      ∧ (new = 4 → allowed = true → Answers (.lcTransition p) s moves)
      ∧ (new ≤ 3 → allowed = true → s.perhal.dik = none → Answers (.lcTransition p) s fun t =>
          Ended t p Res.NOT_READY ∧ t.fuses = s.fuses)
      ∧ (∀ k, new ≤ 3 → allowed = true → s.perhal.dik = some k →
        (s.tokenOk p new k = true → Answers (.lcTransition p) s moves)
        ∧ (s.tokenOk p new k = false → Answers (.lcTransition p) s fun t => Ended t p Res.BAD_TOKEN ∧ t.fuses = s.fuses)))
    ∧ (s.startStep ≠ 0 → s.lifeCycle = 0 ∨ s.lifeCycle = 1 ∨ s.lifeCycle = 3 → Answers .scanRequest s fun t =>
        keyless t ∧ t.perhal.noKeys = true)
    ∧ (s.lifeCycle = 2 ∨ s.lifeCycle = 4 → exec .scanRequest s = .next s)
    ∧ (∀ k a, ready = true → s.perhal.dik = some k → s.perhal.ak = some a → s.perhal.sessions.contains p.val = false →
        Answers (.spdmMessage p (.session l)) s fun t => t.perhal.sessions.contains p.val = true
          ∧ ∃ sig, HostMsg.spdm p chain (s.akCert k a).1 sig ∈ t.hostOut)
    ∧ (ready = true → s.perhal.sessions.contains p.val = true → Answers (.spdmMessage p (.ideKeys stream set)) s fun t =>
        Table.get (fun _ => none) t.perhal.ide (4 * p + stream) = some set
        ∧ (stream = 0 → t.on (hifPage p) R.HIF_LINK_STS_IDE_SECURE = true))
    ∧ (s.linkUp p = false → exec (.spdmMessage p (.session l)) s = .next s ∧ exec (.spdmMessage p (.ideKeys stream set)) s = .next s)
end

