-- ==== Sys2Proof/Laws/State.lean ====
section
/-! SUPPORT. Each named update of the state changes one field and leaves the others: one lemma per field and update. -/

namespace Sys2Proof.Machine

variable (s : State)

/-! `setWord` changes `regs`. -/

@[simp] theorem State.setWord_pending (a n : Nat) : (s.setWord a n).pending = s.pending := rfl
@[simp] theorem State.setWord_mem (a n : Nat) : (s.setWord a n).mem = s.mem := rfl
@[simp] theorem State.setWord_poison (a n : Nat) : (s.setWord a n).poison = s.poison := rfl
@[simp] theorem State.setWord_fencedPch (a n : Nat) : (s.setWord a n).fencedPch = s.fencedPch := rfl
@[simp] theorem State.setWord_fencedStg (a n : Nat) : (s.setWord a n).fencedStg = s.fencedStg := rfl
@[simp] theorem State.setWord_fencedWbf (a n : Nat) : (s.setWord a n).fencedWbf = s.fencedWbf := rfl
@[simp] theorem State.setWord_lostGen (a n : Nat) : (s.setWord a n).lostGen = s.lostGen := rfl
@[simp] theorem State.setWord_lostSet (a n : Nat) : (s.setWord a n).lostSet = s.lostSet := rfl
@[simp] theorem State.setWord_pages (a n : Nat) : (s.setWord a n).pages = s.pages := rfl
@[simp] theorem State.setWord_heldWrites (a n : Nat) : (s.setWord a n).heldWrites = s.heldWrites := rfl
@[simp] theorem State.setWord_preserving (a n : Nat) : (s.setWord a n).preserving = s.preserving := rfl
@[simp] theorem State.setWord_retiring (a n : Nat) : (s.setWord a n).retiring = s.retiring := rfl
@[simp] theorem State.setWord_ceCounts (a n : Nat) : (s.setWord a n).ceCounts = s.ceCounts := rfl
@[simp] theorem State.setWord_ceFired (a n : Nat) : (s.setWord a n).ceFired = s.ceFired := rfl
@[simp] theorem State.setWord_cells (a n : Nat) : (s.setWord a n).cells = s.cells := rfl
@[simp] theorem State.setWord_waits (a n : Nat) : (s.setWord a n).waits = s.waits := rfl
@[simp] theorem State.setWord_queues (a n : Nat) : (s.setWord a n).queues = s.queues := rfl
@[simp] theorem State.setWord_arrivals (a n : Nat) : (s.setWord a n).arrivals = s.arrivals := rfl
@[simp] theorem State.setWord_chosen (a n : Nat) : (s.setWord a n).chosen = s.chosen := rfl
@[simp] theorem State.setWord_cmds (a n : Nat) : (s.setWord a n).cmds = s.cmds := rfl
@[simp] theorem State.setWord_nextId (a n : Nat) : (s.setWord a n).nextId = s.nextId := rfl
@[simp] theorem State.setWord_claims (a n : Nat) : (s.setWord a n).claims = s.claims := rfl
@[simp] theorem State.setWord_granted (a n : Nat) : (s.setWord a n).granted = s.granted := rfl
@[simp] theorem State.setWord_jobs (a n : Nat) : (s.setWord a n).jobs = s.jobs := rfl
@[simp] theorem State.setWord_gates (a n : Nat) : (s.setWord a n).gates = s.gates := rfl
@[simp] theorem State.setWord_cplWait (a n : Nat) : (s.setWord a n).cplWait = s.cplWait := rfl
@[simp] theorem State.setWord_hostPorts (a n : Nat) : (s.setWord a n).hostPorts = s.hostPorts := rfl
@[simp] theorem State.setWord_sending (a n : Nat) : (s.setWord a n).sending = s.sending := rfl
@[simp] theorem State.setWord_absentDue (a n : Nat) : (s.setWord a n).absentDue = s.absentDue := rfl
@[simp] theorem State.setWord_floorCause (a n : Nat) : (s.setWord a n).floorCause = s.floorCause := rfl
@[simp] theorem State.setWord_actions (a n : Nat) : (s.setWord a n).actions = s.actions := rfl
@[simp] theorem State.setWord_windows (a n : Nat) : (s.setWord a n).windows = s.windows := rfl
@[simp] theorem State.setWord_hwFences (a n : Nat) : (s.setWord a n).hwFences = s.hwFences := rfl
@[simp] theorem State.setWord_secondFences (a n : Nat) : (s.setWord a n).secondFences = s.secondFences := rfl
@[simp] theorem State.setWord_fieldEvents (a n : Nat) : (s.setWord a n).fieldEvents = s.fieldEvents := rfl
@[simp] theorem State.setWord_samplers (a n : Nat) : (s.setWord a n).samplers = s.samplers := rfl
@[simp] theorem State.setWord_markerSeq (a n : Nat) : (s.setWord a n).markerSeq = s.markerSeq := rfl
@[simp] theorem State.setWord_tokens (a n : Nat) : (s.setWord a n).tokens = s.tokens := rfl
@[simp] theorem State.setWord_hostOut (a n : Nat) : (s.setWord a n).hostOut = s.hostOut := rfl
@[simp] theorem State.setWord_free (a n : Nat) : (s.setWord a n).free = s.free := rfl
@[simp] theorem State.setWord_spareDue (a n : Nat) : (s.setWord a n).spareDue = s.spareDue := rfl
@[simp] theorem State.setWord_badSpares (a n : Nat) : (s.setWord a n).badSpares = s.badSpares := rfl
@[simp] theorem State.setWord_units (a n : Nat) : (s.setWord a n).units = s.units := rfl
@[simp] theorem State.setWord_groups (a n : Nat) : (s.setWord a n).groups = s.groups := rfl
@[simp] theorem State.setWord_nextGroup (a n : Nat) : (s.setWord a n).nextGroup = s.nextGroup := rfl
@[simp] theorem State.setWord_links (a n : Nat) : (s.setWord a n).links = s.links := rfl
@[simp] theorem State.setWord_sentItems (a n : Nat) : (s.setWord a n).sentItems = s.sentItems := rfl
@[simp] theorem State.setWord_sentFrames (a n : Nat) : (s.setWord a n).sentFrames = s.sentFrames := rfl
@[simp] theorem State.setWord_clx (a n : Nat) : (s.setWord a n).clx = s.clx := rfl
@[simp] theorem State.setWord_fig (a n : Nat) : (s.setWord a n).fig = s.fig := rfl
@[simp] theorem State.setWord_snp (a n : Nat) : (s.setWord a n).snp = s.snp := rfl
@[simp] theorem State.setWord_relocking (a n : Nat) : (s.setWord a n).relocking = s.relocking := rfl
@[simp] theorem State.setWord_diagLost (a n : Nat) : (s.setWord a n).diagLost = s.diagLost := rfl
@[simp] theorem State.setWord_fuses (a n : Nat) : (s.setWord a n).fuses = s.fuses := rfl
@[simp] theorem State.setWord_fatal (a n : Nat) : (s.setWord a n).fatal = s.fatal := rfl
@[simp] theorem State.setWord_degraded (a n : Nat) : (s.setWord a n).degraded = s.degraded := rfl
@[simp] theorem State.setWord_retireDue (a n : Nat) : (s.setWord a n).retireDue = s.retireDue := rfl
@[simp] theorem State.setWord_bundles (a n : Nat) : (s.setWord a n).bundles = s.bundles := rfl
@[simp] theorem State.setWord_moved (a n : Nat) : (s.setWord a n).moved = s.moved := rfl
@[simp] theorem State.setWord_parts (a n : Nat) : (s.setWord a n).parts = s.parts := rfl
@[simp] theorem State.setWord_crossing (a n : Nat) : (s.setWord a n).crossing = s.crossing := rfl
@[simp] theorem State.setWord_startCount (a n : Nat) : (s.setWord a n).startCount = s.startCount := rfl
@[simp] theorem State.setWord_record (a n : Nat) : (s.setWord a n).record = s.record := rfl
@[simp] theorem State.setWord_inForce (a n : Nat) : (s.setWord a n).inForce = s.inForce := rfl
@[simp] theorem State.setWord_found (a n : Nat) : (s.setWord a n).found = s.found := rfl
@[simp] theorem State.setWord_tallied (a n : Nat) : (s.setWord a n).tallied = s.tallied := rfl
@[simp] theorem State.setWord_i3c (a n : Nat) : (s.setWord a n).i3c = s.i3c := rfl
@[simp] theorem State.setWord_perhal (a n : Nat) : (s.setWord a n).perhal = s.perhal := rfl
@[simp] theorem State.setWord_thermal (a n : Nat) : (s.setWord a n).thermal = s.thermal := rfl
@[simp] theorem State.setWord_paused (a n : Nat) : (s.setWord a n).paused = s.paused := rfl

/-! `put` changes `regs`. -/

@[simp] theorem State.put_pending (pg : Nat) (f : Fld) (n : Nat) : (s.put pg f n).pending = s.pending := rfl
@[simp] theorem State.put_mem (pg : Nat) (f : Fld) (n : Nat) : (s.put pg f n).mem = s.mem := rfl
@[simp] theorem State.put_poison (pg : Nat) (f : Fld) (n : Nat) : (s.put pg f n).poison = s.poison := rfl
@[simp] theorem State.put_fencedPch (pg : Nat) (f : Fld) (n : Nat) : (s.put pg f n).fencedPch = s.fencedPch := rfl
@[simp] theorem State.put_fencedStg (pg : Nat) (f : Fld) (n : Nat) : (s.put pg f n).fencedStg = s.fencedStg := rfl
@[simp] theorem State.put_fencedWbf (pg : Nat) (f : Fld) (n : Nat) : (s.put pg f n).fencedWbf = s.fencedWbf := rfl
@[simp] theorem State.put_lostGen (pg : Nat) (f : Fld) (n : Nat) : (s.put pg f n).lostGen = s.lostGen := rfl
@[simp] theorem State.put_lostSet (pg : Nat) (f : Fld) (n : Nat) : (s.put pg f n).lostSet = s.lostSet := rfl
@[simp] theorem State.put_pages (pg : Nat) (f : Fld) (n : Nat) : (s.put pg f n).pages = s.pages := rfl
@[simp] theorem State.put_heldWrites (pg : Nat) (f : Fld) (n : Nat) : (s.put pg f n).heldWrites = s.heldWrites := rfl
@[simp] theorem State.put_preserving (pg : Nat) (f : Fld) (n : Nat) : (s.put pg f n).preserving = s.preserving := rfl
@[simp] theorem State.put_retiring (pg : Nat) (f : Fld) (n : Nat) : (s.put pg f n).retiring = s.retiring := rfl
@[simp] theorem State.put_ceCounts (pg : Nat) (f : Fld) (n : Nat) : (s.put pg f n).ceCounts = s.ceCounts := rfl
@[simp] theorem State.put_ceFired (pg : Nat) (f : Fld) (n : Nat) : (s.put pg f n).ceFired = s.ceFired := rfl
@[simp] theorem State.put_cells (pg : Nat) (f : Fld) (n : Nat) : (s.put pg f n).cells = s.cells := rfl
@[simp] theorem State.put_waits (pg : Nat) (f : Fld) (n : Nat) : (s.put pg f n).waits = s.waits := rfl
@[simp] theorem State.put_queues (pg : Nat) (f : Fld) (n : Nat) : (s.put pg f n).queues = s.queues := rfl
@[simp] theorem State.put_arrivals (pg : Nat) (f : Fld) (n : Nat) : (s.put pg f n).arrivals = s.arrivals := rfl
@[simp] theorem State.put_chosen (pg : Nat) (f : Fld) (n : Nat) : (s.put pg f n).chosen = s.chosen := rfl
@[simp] theorem State.put_cmds (pg : Nat) (f : Fld) (n : Nat) : (s.put pg f n).cmds = s.cmds := rfl
@[simp] theorem State.put_nextId (pg : Nat) (f : Fld) (n : Nat) : (s.put pg f n).nextId = s.nextId := rfl
@[simp] theorem State.put_claims (pg : Nat) (f : Fld) (n : Nat) : (s.put pg f n).claims = s.claims := rfl
@[simp] theorem State.put_granted (pg : Nat) (f : Fld) (n : Nat) : (s.put pg f n).granted = s.granted := rfl
@[simp] theorem State.put_jobs (pg : Nat) (f : Fld) (n : Nat) : (s.put pg f n).jobs = s.jobs := rfl
@[simp] theorem State.put_gates (pg : Nat) (f : Fld) (n : Nat) : (s.put pg f n).gates = s.gates := rfl
@[simp] theorem State.put_cplWait (pg : Nat) (f : Fld) (n : Nat) : (s.put pg f n).cplWait = s.cplWait := rfl
@[simp] theorem State.put_hostPorts (pg : Nat) (f : Fld) (n : Nat) : (s.put pg f n).hostPorts = s.hostPorts := rfl
@[simp] theorem State.put_sending (pg : Nat) (f : Fld) (n : Nat) : (s.put pg f n).sending = s.sending := rfl
@[simp] theorem State.put_absentDue (pg : Nat) (f : Fld) (n : Nat) : (s.put pg f n).absentDue = s.absentDue := rfl
@[simp] theorem State.put_floorCause (pg : Nat) (f : Fld) (n : Nat) : (s.put pg f n).floorCause = s.floorCause := rfl
@[simp] theorem State.put_actions (pg : Nat) (f : Fld) (n : Nat) : (s.put pg f n).actions = s.actions := rfl
@[simp] theorem State.put_windows (pg : Nat) (f : Fld) (n : Nat) : (s.put pg f n).windows = s.windows := rfl
@[simp] theorem State.put_hwFences (pg : Nat) (f : Fld) (n : Nat) : (s.put pg f n).hwFences = s.hwFences := rfl
@[simp] theorem State.put_secondFences (pg : Nat) (f : Fld) (n : Nat) : (s.put pg f n).secondFences = s.secondFences := rfl
@[simp] theorem State.put_fieldEvents (pg : Nat) (f : Fld) (n : Nat) : (s.put pg f n).fieldEvents = s.fieldEvents := rfl
@[simp] theorem State.put_samplers (pg : Nat) (f : Fld) (n : Nat) : (s.put pg f n).samplers = s.samplers := rfl
@[simp] theorem State.put_markerSeq (pg : Nat) (f : Fld) (n : Nat) : (s.put pg f n).markerSeq = s.markerSeq := rfl
@[simp] theorem State.put_tokens (pg : Nat) (f : Fld) (n : Nat) : (s.put pg f n).tokens = s.tokens := rfl
@[simp] theorem State.put_hostOut (pg : Nat) (f : Fld) (n : Nat) : (s.put pg f n).hostOut = s.hostOut := rfl
@[simp] theorem State.put_free (pg : Nat) (f : Fld) (n : Nat) : (s.put pg f n).free = s.free := rfl
@[simp] theorem State.put_spareDue (pg : Nat) (f : Fld) (n : Nat) : (s.put pg f n).spareDue = s.spareDue := rfl
@[simp] theorem State.put_badSpares (pg : Nat) (f : Fld) (n : Nat) : (s.put pg f n).badSpares = s.badSpares := rfl
@[simp] theorem State.put_units (pg : Nat) (f : Fld) (n : Nat) : (s.put pg f n).units = s.units := rfl
@[simp] theorem State.put_groups (pg : Nat) (f : Fld) (n : Nat) : (s.put pg f n).groups = s.groups := rfl
@[simp] theorem State.put_nextGroup (pg : Nat) (f : Fld) (n : Nat) : (s.put pg f n).nextGroup = s.nextGroup := rfl
@[simp] theorem State.put_links (pg : Nat) (f : Fld) (n : Nat) : (s.put pg f n).links = s.links := rfl
@[simp] theorem State.put_sentItems (pg : Nat) (f : Fld) (n : Nat) : (s.put pg f n).sentItems = s.sentItems := rfl
@[simp] theorem State.put_sentFrames (pg : Nat) (f : Fld) (n : Nat) : (s.put pg f n).sentFrames = s.sentFrames := rfl
@[simp] theorem State.put_clx (pg : Nat) (f : Fld) (n : Nat) : (s.put pg f n).clx = s.clx := rfl
@[simp] theorem State.put_fig (pg : Nat) (f : Fld) (n : Nat) : (s.put pg f n).fig = s.fig := rfl
@[simp] theorem State.put_snp (pg : Nat) (f : Fld) (n : Nat) : (s.put pg f n).snp = s.snp := rfl
@[simp] theorem State.put_relocking (pg : Nat) (f : Fld) (n : Nat) : (s.put pg f n).relocking = s.relocking := rfl
@[simp] theorem State.put_diagLost (pg : Nat) (f : Fld) (n : Nat) : (s.put pg f n).diagLost = s.diagLost := rfl
@[simp] theorem State.put_fuses (pg : Nat) (f : Fld) (n : Nat) : (s.put pg f n).fuses = s.fuses := rfl
@[simp] theorem State.put_fatal (pg : Nat) (f : Fld) (n : Nat) : (s.put pg f n).fatal = s.fatal := rfl
@[simp] theorem State.put_degraded (pg : Nat) (f : Fld) (n : Nat) : (s.put pg f n).degraded = s.degraded := rfl
@[simp] theorem State.put_retireDue (pg : Nat) (f : Fld) (n : Nat) : (s.put pg f n).retireDue = s.retireDue := rfl
@[simp] theorem State.put_bundles (pg : Nat) (f : Fld) (n : Nat) : (s.put pg f n).bundles = s.bundles := rfl
@[simp] theorem State.put_moved (pg : Nat) (f : Fld) (n : Nat) : (s.put pg f n).moved = s.moved := rfl
@[simp] theorem State.put_parts (pg : Nat) (f : Fld) (n : Nat) : (s.put pg f n).parts = s.parts := rfl
@[simp] theorem State.put_crossing (pg : Nat) (f : Fld) (n : Nat) : (s.put pg f n).crossing = s.crossing := rfl
@[simp] theorem State.put_startCount (pg : Nat) (f : Fld) (n : Nat) : (s.put pg f n).startCount = s.startCount := rfl
@[simp] theorem State.put_record (pg : Nat) (f : Fld) (n : Nat) : (s.put pg f n).record = s.record := rfl
@[simp] theorem State.put_inForce (pg : Nat) (f : Fld) (n : Nat) : (s.put pg f n).inForce = s.inForce := rfl
@[simp] theorem State.put_found (pg : Nat) (f : Fld) (n : Nat) : (s.put pg f n).found = s.found := rfl
@[simp] theorem State.put_tallied (pg : Nat) (f : Fld) (n : Nat) : (s.put pg f n).tallied = s.tallied := rfl
@[simp] theorem State.put_i3c (pg : Nat) (f : Fld) (n : Nat) : (s.put pg f n).i3c = s.i3c := rfl
@[simp] theorem State.put_perhal (pg : Nat) (f : Fld) (n : Nat) : (s.put pg f n).perhal = s.perhal := rfl
@[simp] theorem State.put_thermal (pg : Nat) (f : Fld) (n : Nat) : (s.put pg f n).thermal = s.thermal := rfl
@[simp] theorem State.put_paused (pg : Nat) (f : Fld) (n : Nat) : (s.put pg f n).paused = s.paused := rfl

/-! `flag` changes `regs`. -/

@[simp] theorem State.flag_pending (pg : Nat) (f : Fld) (b : Bool) : (s.flag pg f b).pending = s.pending := rfl
@[simp] theorem State.flag_mem (pg : Nat) (f : Fld) (b : Bool) : (s.flag pg f b).mem = s.mem := rfl
@[simp] theorem State.flag_poison (pg : Nat) (f : Fld) (b : Bool) : (s.flag pg f b).poison = s.poison := rfl
@[simp] theorem State.flag_fencedPch (pg : Nat) (f : Fld) (b : Bool) : (s.flag pg f b).fencedPch = s.fencedPch := rfl
@[simp] theorem State.flag_fencedStg (pg : Nat) (f : Fld) (b : Bool) : (s.flag pg f b).fencedStg = s.fencedStg := rfl
@[simp] theorem State.flag_fencedWbf (pg : Nat) (f : Fld) (b : Bool) : (s.flag pg f b).fencedWbf = s.fencedWbf := rfl
@[simp] theorem State.flag_lostGen (pg : Nat) (f : Fld) (b : Bool) : (s.flag pg f b).lostGen = s.lostGen := rfl
@[simp] theorem State.flag_lostSet (pg : Nat) (f : Fld) (b : Bool) : (s.flag pg f b).lostSet = s.lostSet := rfl
@[simp] theorem State.flag_pages (pg : Nat) (f : Fld) (b : Bool) : (s.flag pg f b).pages = s.pages := rfl
@[simp] theorem State.flag_heldWrites (pg : Nat) (f : Fld) (b : Bool) : (s.flag pg f b).heldWrites = s.heldWrites := rfl
@[simp] theorem State.flag_preserving (pg : Nat) (f : Fld) (b : Bool) : (s.flag pg f b).preserving = s.preserving := rfl
@[simp] theorem State.flag_retiring (pg : Nat) (f : Fld) (b : Bool) : (s.flag pg f b).retiring = s.retiring := rfl
@[simp] theorem State.flag_ceCounts (pg : Nat) (f : Fld) (b : Bool) : (s.flag pg f b).ceCounts = s.ceCounts := rfl
@[simp] theorem State.flag_ceFired (pg : Nat) (f : Fld) (b : Bool) : (s.flag pg f b).ceFired = s.ceFired := rfl
@[simp] theorem State.flag_cells (pg : Nat) (f : Fld) (b : Bool) : (s.flag pg f b).cells = s.cells := rfl
@[simp] theorem State.flag_waits (pg : Nat) (f : Fld) (b : Bool) : (s.flag pg f b).waits = s.waits := rfl
@[simp] theorem State.flag_queues (pg : Nat) (f : Fld) (b : Bool) : (s.flag pg f b).queues = s.queues := rfl
@[simp] theorem State.flag_arrivals (pg : Nat) (f : Fld) (b : Bool) : (s.flag pg f b).arrivals = s.arrivals := rfl
@[simp] theorem State.flag_chosen (pg : Nat) (f : Fld) (b : Bool) : (s.flag pg f b).chosen = s.chosen := rfl
@[simp] theorem State.flag_cmds (pg : Nat) (f : Fld) (b : Bool) : (s.flag pg f b).cmds = s.cmds := rfl
@[simp] theorem State.flag_nextId (pg : Nat) (f : Fld) (b : Bool) : (s.flag pg f b).nextId = s.nextId := rfl
@[simp] theorem State.flag_claims (pg : Nat) (f : Fld) (b : Bool) : (s.flag pg f b).claims = s.claims := rfl
@[simp] theorem State.flag_granted (pg : Nat) (f : Fld) (b : Bool) : (s.flag pg f b).granted = s.granted := rfl
@[simp] theorem State.flag_jobs (pg : Nat) (f : Fld) (b : Bool) : (s.flag pg f b).jobs = s.jobs := rfl
@[simp] theorem State.flag_gates (pg : Nat) (f : Fld) (b : Bool) : (s.flag pg f b).gates = s.gates := rfl
@[simp] theorem State.flag_cplWait (pg : Nat) (f : Fld) (b : Bool) : (s.flag pg f b).cplWait = s.cplWait := rfl
@[simp] theorem State.flag_hostPorts (pg : Nat) (f : Fld) (b : Bool) : (s.flag pg f b).hostPorts = s.hostPorts := rfl
@[simp] theorem State.flag_sending (pg : Nat) (f : Fld) (b : Bool) : (s.flag pg f b).sending = s.sending := rfl
@[simp] theorem State.flag_absentDue (pg : Nat) (f : Fld) (b : Bool) : (s.flag pg f b).absentDue = s.absentDue := rfl
@[simp] theorem State.flag_floorCause (pg : Nat) (f : Fld) (b : Bool) : (s.flag pg f b).floorCause = s.floorCause := rfl
@[simp] theorem State.flag_actions (pg : Nat) (f : Fld) (b : Bool) : (s.flag pg f b).actions = s.actions := rfl
@[simp] theorem State.flag_windows (pg : Nat) (f : Fld) (b : Bool) : (s.flag pg f b).windows = s.windows := rfl
@[simp] theorem State.flag_hwFences (pg : Nat) (f : Fld) (b : Bool) : (s.flag pg f b).hwFences = s.hwFences := rfl
@[simp] theorem State.flag_secondFences (pg : Nat) (f : Fld) (b : Bool) : (s.flag pg f b).secondFences = s.secondFences := rfl
@[simp] theorem State.flag_fieldEvents (pg : Nat) (f : Fld) (b : Bool) : (s.flag pg f b).fieldEvents = s.fieldEvents := rfl
@[simp] theorem State.flag_samplers (pg : Nat) (f : Fld) (b : Bool) : (s.flag pg f b).samplers = s.samplers := rfl
@[simp] theorem State.flag_markerSeq (pg : Nat) (f : Fld) (b : Bool) : (s.flag pg f b).markerSeq = s.markerSeq := rfl
@[simp] theorem State.flag_tokens (pg : Nat) (f : Fld) (b : Bool) : (s.flag pg f b).tokens = s.tokens := rfl
@[simp] theorem State.flag_hostOut (pg : Nat) (f : Fld) (b : Bool) : (s.flag pg f b).hostOut = s.hostOut := rfl
@[simp] theorem State.flag_free (pg : Nat) (f : Fld) (b : Bool) : (s.flag pg f b).free = s.free := rfl
@[simp] theorem State.flag_spareDue (pg : Nat) (f : Fld) (b : Bool) : (s.flag pg f b).spareDue = s.spareDue := rfl
@[simp] theorem State.flag_badSpares (pg : Nat) (f : Fld) (b : Bool) : (s.flag pg f b).badSpares = s.badSpares := rfl
@[simp] theorem State.flag_units (pg : Nat) (f : Fld) (b : Bool) : (s.flag pg f b).units = s.units := rfl
@[simp] theorem State.flag_groups (pg : Nat) (f : Fld) (b : Bool) : (s.flag pg f b).groups = s.groups := rfl
@[simp] theorem State.flag_nextGroup (pg : Nat) (f : Fld) (b : Bool) : (s.flag pg f b).nextGroup = s.nextGroup := rfl
@[simp] theorem State.flag_links (pg : Nat) (f : Fld) (b : Bool) : (s.flag pg f b).links = s.links := rfl
@[simp] theorem State.flag_sentItems (pg : Nat) (f : Fld) (b : Bool) : (s.flag pg f b).sentItems = s.sentItems := rfl
@[simp] theorem State.flag_sentFrames (pg : Nat) (f : Fld) (b : Bool) : (s.flag pg f b).sentFrames = s.sentFrames := rfl
@[simp] theorem State.flag_clx (pg : Nat) (f : Fld) (b : Bool) : (s.flag pg f b).clx = s.clx := rfl
@[simp] theorem State.flag_fig (pg : Nat) (f : Fld) (b : Bool) : (s.flag pg f b).fig = s.fig := rfl
@[simp] theorem State.flag_snp (pg : Nat) (f : Fld) (b : Bool) : (s.flag pg f b).snp = s.snp := rfl
@[simp] theorem State.flag_relocking (pg : Nat) (f : Fld) (b : Bool) : (s.flag pg f b).relocking = s.relocking := rfl
@[simp] theorem State.flag_diagLost (pg : Nat) (f : Fld) (b : Bool) : (s.flag pg f b).diagLost = s.diagLost := rfl
@[simp] theorem State.flag_fuses (pg : Nat) (f : Fld) (b : Bool) : (s.flag pg f b).fuses = s.fuses := rfl
@[simp] theorem State.flag_fatal (pg : Nat) (f : Fld) (b : Bool) : (s.flag pg f b).fatal = s.fatal := rfl
@[simp] theorem State.flag_degraded (pg : Nat) (f : Fld) (b : Bool) : (s.flag pg f b).degraded = s.degraded := rfl
@[simp] theorem State.flag_retireDue (pg : Nat) (f : Fld) (b : Bool) : (s.flag pg f b).retireDue = s.retireDue := rfl
@[simp] theorem State.flag_bundles (pg : Nat) (f : Fld) (b : Bool) : (s.flag pg f b).bundles = s.bundles := rfl
@[simp] theorem State.flag_moved (pg : Nat) (f : Fld) (b : Bool) : (s.flag pg f b).moved = s.moved := rfl
@[simp] theorem State.flag_parts (pg : Nat) (f : Fld) (b : Bool) : (s.flag pg f b).parts = s.parts := rfl
@[simp] theorem State.flag_crossing (pg : Nat) (f : Fld) (b : Bool) : (s.flag pg f b).crossing = s.crossing := rfl
@[simp] theorem State.flag_startCount (pg : Nat) (f : Fld) (b : Bool) : (s.flag pg f b).startCount = s.startCount := rfl
@[simp] theorem State.flag_record (pg : Nat) (f : Fld) (b : Bool) : (s.flag pg f b).record = s.record := rfl
@[simp] theorem State.flag_inForce (pg : Nat) (f : Fld) (b : Bool) : (s.flag pg f b).inForce = s.inForce := rfl
@[simp] theorem State.flag_found (pg : Nat) (f : Fld) (b : Bool) : (s.flag pg f b).found = s.found := rfl
@[simp] theorem State.flag_tallied (pg : Nat) (f : Fld) (b : Bool) : (s.flag pg f b).tallied = s.tallied := rfl
@[simp] theorem State.flag_i3c (pg : Nat) (f : Fld) (b : Bool) : (s.flag pg f b).i3c = s.i3c := rfl
@[simp] theorem State.flag_perhal (pg : Nat) (f : Fld) (b : Bool) : (s.flag pg f b).perhal = s.perhal := rfl
@[simp] theorem State.flag_thermal (pg : Nat) (f : Fld) (b : Bool) : (s.flag pg f b).thermal = s.thermal := rfl
@[simp] theorem State.flag_paused (pg : Nat) (f : Fld) (b : Bool) : (s.flag pg f b).paused = s.paused := rfl

/-! `setCell` changes `cells`. -/

@[simp] theorem State.setCell_pending (c v : Nat) : (s.setCell c v).pending = s.pending := rfl
@[simp] theorem State.setCell_regs (c v : Nat) : (s.setCell c v).regs = s.regs := rfl
@[simp] theorem State.setCell_mem (c v : Nat) : (s.setCell c v).mem = s.mem := rfl
@[simp] theorem State.setCell_poison (c v : Nat) : (s.setCell c v).poison = s.poison := rfl
@[simp] theorem State.setCell_fencedPch (c v : Nat) : (s.setCell c v).fencedPch = s.fencedPch := rfl
@[simp] theorem State.setCell_fencedStg (c v : Nat) : (s.setCell c v).fencedStg = s.fencedStg := rfl
@[simp] theorem State.setCell_fencedWbf (c v : Nat) : (s.setCell c v).fencedWbf = s.fencedWbf := rfl
@[simp] theorem State.setCell_lostGen (c v : Nat) : (s.setCell c v).lostGen = s.lostGen := rfl
@[simp] theorem State.setCell_lostSet (c v : Nat) : (s.setCell c v).lostSet = s.lostSet := rfl
@[simp] theorem State.setCell_pages (c v : Nat) : (s.setCell c v).pages = s.pages := rfl
@[simp] theorem State.setCell_heldWrites (c v : Nat) : (s.setCell c v).heldWrites = s.heldWrites := rfl
@[simp] theorem State.setCell_preserving (c v : Nat) : (s.setCell c v).preserving = s.preserving := rfl
@[simp] theorem State.setCell_retiring (c v : Nat) : (s.setCell c v).retiring = s.retiring := rfl
@[simp] theorem State.setCell_ceCounts (c v : Nat) : (s.setCell c v).ceCounts = s.ceCounts := rfl
@[simp] theorem State.setCell_ceFired (c v : Nat) : (s.setCell c v).ceFired = s.ceFired := rfl
@[simp] theorem State.setCell_waits (c v : Nat) : (s.setCell c v).waits = s.waits := rfl
@[simp] theorem State.setCell_queues (c v : Nat) : (s.setCell c v).queues = s.queues := rfl
@[simp] theorem State.setCell_arrivals (c v : Nat) : (s.setCell c v).arrivals = s.arrivals := rfl
@[simp] theorem State.setCell_chosen (c v : Nat) : (s.setCell c v).chosen = s.chosen := rfl
@[simp] theorem State.setCell_cmds (c v : Nat) : (s.setCell c v).cmds = s.cmds := rfl
@[simp] theorem State.setCell_nextId (c v : Nat) : (s.setCell c v).nextId = s.nextId := rfl
@[simp] theorem State.setCell_claims (c v : Nat) : (s.setCell c v).claims = s.claims := rfl
@[simp] theorem State.setCell_granted (c v : Nat) : (s.setCell c v).granted = s.granted := rfl
@[simp] theorem State.setCell_jobs (c v : Nat) : (s.setCell c v).jobs = s.jobs := rfl
@[simp] theorem State.setCell_gates (c v : Nat) : (s.setCell c v).gates = s.gates := rfl
@[simp] theorem State.setCell_cplWait (c v : Nat) : (s.setCell c v).cplWait = s.cplWait := rfl
@[simp] theorem State.setCell_hostPorts (c v : Nat) : (s.setCell c v).hostPorts = s.hostPorts := rfl
@[simp] theorem State.setCell_sending (c v : Nat) : (s.setCell c v).sending = s.sending := rfl
@[simp] theorem State.setCell_absentDue (c v : Nat) : (s.setCell c v).absentDue = s.absentDue := rfl
@[simp] theorem State.setCell_floorCause (c v : Nat) : (s.setCell c v).floorCause = s.floorCause := rfl
@[simp] theorem State.setCell_actions (c v : Nat) : (s.setCell c v).actions = s.actions := rfl
@[simp] theorem State.setCell_windows (c v : Nat) : (s.setCell c v).windows = s.windows := rfl
@[simp] theorem State.setCell_hwFences (c v : Nat) : (s.setCell c v).hwFences = s.hwFences := rfl
@[simp] theorem State.setCell_secondFences (c v : Nat) : (s.setCell c v).secondFences = s.secondFences := rfl
@[simp] theorem State.setCell_fieldEvents (c v : Nat) : (s.setCell c v).fieldEvents = s.fieldEvents := rfl
@[simp] theorem State.setCell_samplers (c v : Nat) : (s.setCell c v).samplers = s.samplers := rfl
@[simp] theorem State.setCell_markerSeq (c v : Nat) : (s.setCell c v).markerSeq = s.markerSeq := rfl
@[simp] theorem State.setCell_tokens (c v : Nat) : (s.setCell c v).tokens = s.tokens := rfl
@[simp] theorem State.setCell_hostOut (c v : Nat) : (s.setCell c v).hostOut = s.hostOut := rfl
@[simp] theorem State.setCell_free (c v : Nat) : (s.setCell c v).free = s.free := rfl
@[simp] theorem State.setCell_spareDue (c v : Nat) : (s.setCell c v).spareDue = s.spareDue := rfl
@[simp] theorem State.setCell_badSpares (c v : Nat) : (s.setCell c v).badSpares = s.badSpares := rfl
@[simp] theorem State.setCell_units (c v : Nat) : (s.setCell c v).units = s.units := rfl
@[simp] theorem State.setCell_groups (c v : Nat) : (s.setCell c v).groups = s.groups := rfl
@[simp] theorem State.setCell_nextGroup (c v : Nat) : (s.setCell c v).nextGroup = s.nextGroup := rfl
@[simp] theorem State.setCell_links (c v : Nat) : (s.setCell c v).links = s.links := rfl
@[simp] theorem State.setCell_sentItems (c v : Nat) : (s.setCell c v).sentItems = s.sentItems := rfl
@[simp] theorem State.setCell_sentFrames (c v : Nat) : (s.setCell c v).sentFrames = s.sentFrames := rfl
@[simp] theorem State.setCell_clx (c v : Nat) : (s.setCell c v).clx = s.clx := rfl
@[simp] theorem State.setCell_fig (c v : Nat) : (s.setCell c v).fig = s.fig := rfl
@[simp] theorem State.setCell_snp (c v : Nat) : (s.setCell c v).snp = s.snp := rfl
@[simp] theorem State.setCell_relocking (c v : Nat) : (s.setCell c v).relocking = s.relocking := rfl
@[simp] theorem State.setCell_diagLost (c v : Nat) : (s.setCell c v).diagLost = s.diagLost := rfl
@[simp] theorem State.setCell_fuses (c v : Nat) : (s.setCell c v).fuses = s.fuses := rfl
@[simp] theorem State.setCell_fatal (c v : Nat) : (s.setCell c v).fatal = s.fatal := rfl
@[simp] theorem State.setCell_degraded (c v : Nat) : (s.setCell c v).degraded = s.degraded := rfl
@[simp] theorem State.setCell_retireDue (c v : Nat) : (s.setCell c v).retireDue = s.retireDue := rfl
@[simp] theorem State.setCell_bundles (c v : Nat) : (s.setCell c v).bundles = s.bundles := rfl
@[simp] theorem State.setCell_moved (c v : Nat) : (s.setCell c v).moved = s.moved := rfl
@[simp] theorem State.setCell_parts (c v : Nat) : (s.setCell c v).parts = s.parts := rfl
@[simp] theorem State.setCell_crossing (c v : Nat) : (s.setCell c v).crossing = s.crossing := rfl
@[simp] theorem State.setCell_startCount (c v : Nat) : (s.setCell c v).startCount = s.startCount := rfl
@[simp] theorem State.setCell_record (c v : Nat) : (s.setCell c v).record = s.record := rfl
@[simp] theorem State.setCell_inForce (c v : Nat) : (s.setCell c v).inForce = s.inForce := rfl
@[simp] theorem State.setCell_found (c v : Nat) : (s.setCell c v).found = s.found := rfl
@[simp] theorem State.setCell_tallied (c v : Nat) : (s.setCell c v).tallied = s.tallied := rfl
@[simp] theorem State.setCell_i3c (c v : Nat) : (s.setCell c v).i3c = s.i3c := rfl
@[simp] theorem State.setCell_perhal (c v : Nat) : (s.setCell c v).perhal = s.perhal := rfl
@[simp] theorem State.setCell_thermal (c v : Nat) : (s.setCell c v).thermal = s.thermal := rfl
@[simp] theorem State.setCell_paused (c v : Nat) : (s.setCell c v).paused = s.paused := rfl

/-! `setQueue` changes `queues`. -/

@[simp] theorem State.setQueue_pending (k : Nat) (q : Queue) : (s.setQueue k q).pending = s.pending := rfl
@[simp] theorem State.setQueue_regs (k : Nat) (q : Queue) : (s.setQueue k q).regs = s.regs := rfl
@[simp] theorem State.setQueue_mem (k : Nat) (q : Queue) : (s.setQueue k q).mem = s.mem := rfl
@[simp] theorem State.setQueue_poison (k : Nat) (q : Queue) : (s.setQueue k q).poison = s.poison := rfl
@[simp] theorem State.setQueue_fencedPch (k : Nat) (q : Queue) : (s.setQueue k q).fencedPch = s.fencedPch := rfl
@[simp] theorem State.setQueue_fencedStg (k : Nat) (q : Queue) : (s.setQueue k q).fencedStg = s.fencedStg := rfl
@[simp] theorem State.setQueue_fencedWbf (k : Nat) (q : Queue) : (s.setQueue k q).fencedWbf = s.fencedWbf := rfl
@[simp] theorem State.setQueue_lostGen (k : Nat) (q : Queue) : (s.setQueue k q).lostGen = s.lostGen := rfl
@[simp] theorem State.setQueue_lostSet (k : Nat) (q : Queue) : (s.setQueue k q).lostSet = s.lostSet := rfl
@[simp] theorem State.setQueue_pages (k : Nat) (q : Queue) : (s.setQueue k q).pages = s.pages := rfl
@[simp] theorem State.setQueue_heldWrites (k : Nat) (q : Queue) : (s.setQueue k q).heldWrites = s.heldWrites := rfl
@[simp] theorem State.setQueue_preserving (k : Nat) (q : Queue) : (s.setQueue k q).preserving = s.preserving := rfl
@[simp] theorem State.setQueue_retiring (k : Nat) (q : Queue) : (s.setQueue k q).retiring = s.retiring := rfl
@[simp] theorem State.setQueue_ceCounts (k : Nat) (q : Queue) : (s.setQueue k q).ceCounts = s.ceCounts := rfl
@[simp] theorem State.setQueue_ceFired (k : Nat) (q : Queue) : (s.setQueue k q).ceFired = s.ceFired := rfl
@[simp] theorem State.setQueue_cells (k : Nat) (q : Queue) : (s.setQueue k q).cells = s.cells := rfl
@[simp] theorem State.setQueue_waits (k : Nat) (q : Queue) : (s.setQueue k q).waits = s.waits := rfl
@[simp] theorem State.setQueue_arrivals (k : Nat) (q : Queue) : (s.setQueue k q).arrivals = s.arrivals := rfl
@[simp] theorem State.setQueue_chosen (k : Nat) (q : Queue) : (s.setQueue k q).chosen = s.chosen := rfl
@[simp] theorem State.setQueue_cmds (k : Nat) (q : Queue) : (s.setQueue k q).cmds = s.cmds := rfl
@[simp] theorem State.setQueue_nextId (k : Nat) (q : Queue) : (s.setQueue k q).nextId = s.nextId := rfl
@[simp] theorem State.setQueue_claims (k : Nat) (q : Queue) : (s.setQueue k q).claims = s.claims := rfl
@[simp] theorem State.setQueue_granted (k : Nat) (q : Queue) : (s.setQueue k q).granted = s.granted := rfl
@[simp] theorem State.setQueue_jobs (k : Nat) (q : Queue) : (s.setQueue k q).jobs = s.jobs := rfl
@[simp] theorem State.setQueue_gates (k : Nat) (q : Queue) : (s.setQueue k q).gates = s.gates := rfl
@[simp] theorem State.setQueue_cplWait (k : Nat) (q : Queue) : (s.setQueue k q).cplWait = s.cplWait := rfl
@[simp] theorem State.setQueue_hostPorts (k : Nat) (q : Queue) : (s.setQueue k q).hostPorts = s.hostPorts := rfl
@[simp] theorem State.setQueue_sending (k : Nat) (q : Queue) : (s.setQueue k q).sending = s.sending := rfl
@[simp] theorem State.setQueue_absentDue (k : Nat) (q : Queue) : (s.setQueue k q).absentDue = s.absentDue := rfl
@[simp] theorem State.setQueue_floorCause (k : Nat) (q : Queue) : (s.setQueue k q).floorCause = s.floorCause := rfl
@[simp] theorem State.setQueue_actions (k : Nat) (q : Queue) : (s.setQueue k q).actions = s.actions := rfl
@[simp] theorem State.setQueue_windows (k : Nat) (q : Queue) : (s.setQueue k q).windows = s.windows := rfl
@[simp] theorem State.setQueue_hwFences (k : Nat) (q : Queue) : (s.setQueue k q).hwFences = s.hwFences := rfl
@[simp] theorem State.setQueue_secondFences (k : Nat) (q : Queue) : (s.setQueue k q).secondFences = s.secondFences := rfl
@[simp] theorem State.setQueue_fieldEvents (k : Nat) (q : Queue) : (s.setQueue k q).fieldEvents = s.fieldEvents := rfl
@[simp] theorem State.setQueue_samplers (k : Nat) (q : Queue) : (s.setQueue k q).samplers = s.samplers := rfl
@[simp] theorem State.setQueue_markerSeq (k : Nat) (q : Queue) : (s.setQueue k q).markerSeq = s.markerSeq := rfl
@[simp] theorem State.setQueue_tokens (k : Nat) (q : Queue) : (s.setQueue k q).tokens = s.tokens := rfl
@[simp] theorem State.setQueue_hostOut (k : Nat) (q : Queue) : (s.setQueue k q).hostOut = s.hostOut := rfl
@[simp] theorem State.setQueue_free (k : Nat) (q : Queue) : (s.setQueue k q).free = s.free := rfl
@[simp] theorem State.setQueue_spareDue (k : Nat) (q : Queue) : (s.setQueue k q).spareDue = s.spareDue := rfl
@[simp] theorem State.setQueue_badSpares (k : Nat) (q : Queue) : (s.setQueue k q).badSpares = s.badSpares := rfl
@[simp] theorem State.setQueue_units (k : Nat) (q : Queue) : (s.setQueue k q).units = s.units := rfl
@[simp] theorem State.setQueue_groups (k : Nat) (q : Queue) : (s.setQueue k q).groups = s.groups := rfl
@[simp] theorem State.setQueue_nextGroup (k : Nat) (q : Queue) : (s.setQueue k q).nextGroup = s.nextGroup := rfl
@[simp] theorem State.setQueue_links (k : Nat) (q : Queue) : (s.setQueue k q).links = s.links := rfl
@[simp] theorem State.setQueue_sentItems (k : Nat) (q : Queue) : (s.setQueue k q).sentItems = s.sentItems := rfl
@[simp] theorem State.setQueue_sentFrames (k : Nat) (q : Queue) : (s.setQueue k q).sentFrames = s.sentFrames := rfl
@[simp] theorem State.setQueue_clx (k : Nat) (q : Queue) : (s.setQueue k q).clx = s.clx := rfl
@[simp] theorem State.setQueue_fig (k : Nat) (q : Queue) : (s.setQueue k q).fig = s.fig := rfl
@[simp] theorem State.setQueue_snp (k : Nat) (q : Queue) : (s.setQueue k q).snp = s.snp := rfl
@[simp] theorem State.setQueue_relocking (k : Nat) (q : Queue) : (s.setQueue k q).relocking = s.relocking := rfl
@[simp] theorem State.setQueue_diagLost (k : Nat) (q : Queue) : (s.setQueue k q).diagLost = s.diagLost := rfl
@[simp] theorem State.setQueue_fuses (k : Nat) (q : Queue) : (s.setQueue k q).fuses = s.fuses := rfl
@[simp] theorem State.setQueue_fatal (k : Nat) (q : Queue) : (s.setQueue k q).fatal = s.fatal := rfl
@[simp] theorem State.setQueue_degraded (k : Nat) (q : Queue) : (s.setQueue k q).degraded = s.degraded := rfl
@[simp] theorem State.setQueue_retireDue (k : Nat) (q : Queue) : (s.setQueue k q).retireDue = s.retireDue := rfl
@[simp] theorem State.setQueue_bundles (k : Nat) (q : Queue) : (s.setQueue k q).bundles = s.bundles := rfl
@[simp] theorem State.setQueue_moved (k : Nat) (q : Queue) : (s.setQueue k q).moved = s.moved := rfl
@[simp] theorem State.setQueue_parts (k : Nat) (q : Queue) : (s.setQueue k q).parts = s.parts := rfl
@[simp] theorem State.setQueue_crossing (k : Nat) (q : Queue) : (s.setQueue k q).crossing = s.crossing := rfl
@[simp] theorem State.setQueue_startCount (k : Nat) (q : Queue) : (s.setQueue k q).startCount = s.startCount := rfl
@[simp] theorem State.setQueue_record (k : Nat) (q : Queue) : (s.setQueue k q).record = s.record := rfl
@[simp] theorem State.setQueue_inForce (k : Nat) (q : Queue) : (s.setQueue k q).inForce = s.inForce := rfl
@[simp] theorem State.setQueue_found (k : Nat) (q : Queue) : (s.setQueue k q).found = s.found := rfl
@[simp] theorem State.setQueue_tallied (k : Nat) (q : Queue) : (s.setQueue k q).tallied = s.tallied := rfl
@[simp] theorem State.setQueue_i3c (k : Nat) (q : Queue) : (s.setQueue k q).i3c = s.i3c := rfl
@[simp] theorem State.setQueue_perhal (k : Nat) (q : Queue) : (s.setQueue k q).perhal = s.perhal := rfl
@[simp] theorem State.setQueue_thermal (k : Nat) (q : Queue) : (s.setQueue k q).thermal = s.thermal := rfl
@[simp] theorem State.setQueue_paused (k : Nat) (q : Queue) : (s.setQueue k q).paused = s.paused := rfl

/-! `setPageSt` changes `pages`. -/

@[simp] theorem State.setPageSt_pending (p : Nat) (x : Page) : (s.setPageSt p x).pending = s.pending := rfl
@[simp] theorem State.setPageSt_regs (p : Nat) (x : Page) : (s.setPageSt p x).regs = s.regs := rfl
@[simp] theorem State.setPageSt_mem (p : Nat) (x : Page) : (s.setPageSt p x).mem = s.mem := rfl
@[simp] theorem State.setPageSt_poison (p : Nat) (x : Page) : (s.setPageSt p x).poison = s.poison := rfl
@[simp] theorem State.setPageSt_fencedPch (p : Nat) (x : Page) : (s.setPageSt p x).fencedPch = s.fencedPch := rfl
@[simp] theorem State.setPageSt_fencedStg (p : Nat) (x : Page) : (s.setPageSt p x).fencedStg = s.fencedStg := rfl
@[simp] theorem State.setPageSt_fencedWbf (p : Nat) (x : Page) : (s.setPageSt p x).fencedWbf = s.fencedWbf := rfl
@[simp] theorem State.setPageSt_lostGen (p : Nat) (x : Page) : (s.setPageSt p x).lostGen = s.lostGen := rfl
@[simp] theorem State.setPageSt_lostSet (p : Nat) (x : Page) : (s.setPageSt p x).lostSet = s.lostSet := rfl
@[simp] theorem State.setPageSt_heldWrites (p : Nat) (x : Page) : (s.setPageSt p x).heldWrites = s.heldWrites := rfl
@[simp] theorem State.setPageSt_preserving (p : Nat) (x : Page) : (s.setPageSt p x).preserving = s.preserving := rfl
@[simp] theorem State.setPageSt_retiring (p : Nat) (x : Page) : (s.setPageSt p x).retiring = s.retiring := rfl
@[simp] theorem State.setPageSt_ceCounts (p : Nat) (x : Page) : (s.setPageSt p x).ceCounts = s.ceCounts := rfl
@[simp] theorem State.setPageSt_ceFired (p : Nat) (x : Page) : (s.setPageSt p x).ceFired = s.ceFired := rfl
@[simp] theorem State.setPageSt_cells (p : Nat) (x : Page) : (s.setPageSt p x).cells = s.cells := rfl
@[simp] theorem State.setPageSt_waits (p : Nat) (x : Page) : (s.setPageSt p x).waits = s.waits := rfl
@[simp] theorem State.setPageSt_queues (p : Nat) (x : Page) : (s.setPageSt p x).queues = s.queues := rfl
@[simp] theorem State.setPageSt_arrivals (p : Nat) (x : Page) : (s.setPageSt p x).arrivals = s.arrivals := rfl
@[simp] theorem State.setPageSt_chosen (p : Nat) (x : Page) : (s.setPageSt p x).chosen = s.chosen := rfl
@[simp] theorem State.setPageSt_cmds (p : Nat) (x : Page) : (s.setPageSt p x).cmds = s.cmds := rfl
@[simp] theorem State.setPageSt_nextId (p : Nat) (x : Page) : (s.setPageSt p x).nextId = s.nextId := rfl
@[simp] theorem State.setPageSt_claims (p : Nat) (x : Page) : (s.setPageSt p x).claims = s.claims := rfl
@[simp] theorem State.setPageSt_granted (p : Nat) (x : Page) : (s.setPageSt p x).granted = s.granted := rfl
@[simp] theorem State.setPageSt_jobs (p : Nat) (x : Page) : (s.setPageSt p x).jobs = s.jobs := rfl
@[simp] theorem State.setPageSt_gates (p : Nat) (x : Page) : (s.setPageSt p x).gates = s.gates := rfl
@[simp] theorem State.setPageSt_cplWait (p : Nat) (x : Page) : (s.setPageSt p x).cplWait = s.cplWait := rfl
@[simp] theorem State.setPageSt_hostPorts (p : Nat) (x : Page) : (s.setPageSt p x).hostPorts = s.hostPorts := rfl
@[simp] theorem State.setPageSt_sending (p : Nat) (x : Page) : (s.setPageSt p x).sending = s.sending := rfl
@[simp] theorem State.setPageSt_absentDue (p : Nat) (x : Page) : (s.setPageSt p x).absentDue = s.absentDue := rfl
@[simp] theorem State.setPageSt_floorCause (p : Nat) (x : Page) : (s.setPageSt p x).floorCause = s.floorCause := rfl
@[simp] theorem State.setPageSt_actions (p : Nat) (x : Page) : (s.setPageSt p x).actions = s.actions := rfl
@[simp] theorem State.setPageSt_windows (p : Nat) (x : Page) : (s.setPageSt p x).windows = s.windows := rfl
@[simp] theorem State.setPageSt_hwFences (p : Nat) (x : Page) : (s.setPageSt p x).hwFences = s.hwFences := rfl
@[simp] theorem State.setPageSt_secondFences (p : Nat) (x : Page) : (s.setPageSt p x).secondFences = s.secondFences := rfl
@[simp] theorem State.setPageSt_fieldEvents (p : Nat) (x : Page) : (s.setPageSt p x).fieldEvents = s.fieldEvents := rfl
@[simp] theorem State.setPageSt_samplers (p : Nat) (x : Page) : (s.setPageSt p x).samplers = s.samplers := rfl
@[simp] theorem State.setPageSt_markerSeq (p : Nat) (x : Page) : (s.setPageSt p x).markerSeq = s.markerSeq := rfl
@[simp] theorem State.setPageSt_tokens (p : Nat) (x : Page) : (s.setPageSt p x).tokens = s.tokens := rfl
@[simp] theorem State.setPageSt_hostOut (p : Nat) (x : Page) : (s.setPageSt p x).hostOut = s.hostOut := rfl
@[simp] theorem State.setPageSt_free (p : Nat) (x : Page) : (s.setPageSt p x).free = s.free := rfl
@[simp] theorem State.setPageSt_spareDue (p : Nat) (x : Page) : (s.setPageSt p x).spareDue = s.spareDue := rfl
@[simp] theorem State.setPageSt_badSpares (p : Nat) (x : Page) : (s.setPageSt p x).badSpares = s.badSpares := rfl
@[simp] theorem State.setPageSt_units (p : Nat) (x : Page) : (s.setPageSt p x).units = s.units := rfl
@[simp] theorem State.setPageSt_groups (p : Nat) (x : Page) : (s.setPageSt p x).groups = s.groups := rfl
@[simp] theorem State.setPageSt_nextGroup (p : Nat) (x : Page) : (s.setPageSt p x).nextGroup = s.nextGroup := rfl
@[simp] theorem State.setPageSt_links (p : Nat) (x : Page) : (s.setPageSt p x).links = s.links := rfl
@[simp] theorem State.setPageSt_sentItems (p : Nat) (x : Page) : (s.setPageSt p x).sentItems = s.sentItems := rfl
@[simp] theorem State.setPageSt_sentFrames (p : Nat) (x : Page) : (s.setPageSt p x).sentFrames = s.sentFrames := rfl
@[simp] theorem State.setPageSt_clx (p : Nat) (x : Page) : (s.setPageSt p x).clx = s.clx := rfl
@[simp] theorem State.setPageSt_fig (p : Nat) (x : Page) : (s.setPageSt p x).fig = s.fig := rfl
@[simp] theorem State.setPageSt_snp (p : Nat) (x : Page) : (s.setPageSt p x).snp = s.snp := rfl
@[simp] theorem State.setPageSt_relocking (p : Nat) (x : Page) : (s.setPageSt p x).relocking = s.relocking := rfl
@[simp] theorem State.setPageSt_diagLost (p : Nat) (x : Page) : (s.setPageSt p x).diagLost = s.diagLost := rfl
@[simp] theorem State.setPageSt_fuses (p : Nat) (x : Page) : (s.setPageSt p x).fuses = s.fuses := rfl
@[simp] theorem State.setPageSt_fatal (p : Nat) (x : Page) : (s.setPageSt p x).fatal = s.fatal := rfl
@[simp] theorem State.setPageSt_degraded (p : Nat) (x : Page) : (s.setPageSt p x).degraded = s.degraded := rfl
@[simp] theorem State.setPageSt_retireDue (p : Nat) (x : Page) : (s.setPageSt p x).retireDue = s.retireDue := rfl
@[simp] theorem State.setPageSt_bundles (p : Nat) (x : Page) : (s.setPageSt p x).bundles = s.bundles := rfl
@[simp] theorem State.setPageSt_moved (p : Nat) (x : Page) : (s.setPageSt p x).moved = s.moved := rfl
@[simp] theorem State.setPageSt_parts (p : Nat) (x : Page) : (s.setPageSt p x).parts = s.parts := rfl
@[simp] theorem State.setPageSt_crossing (p : Nat) (x : Page) : (s.setPageSt p x).crossing = s.crossing := rfl
@[simp] theorem State.setPageSt_startCount (p : Nat) (x : Page) : (s.setPageSt p x).startCount = s.startCount := rfl
@[simp] theorem State.setPageSt_record (p : Nat) (x : Page) : (s.setPageSt p x).record = s.record := rfl
@[simp] theorem State.setPageSt_inForce (p : Nat) (x : Page) : (s.setPageSt p x).inForce = s.inForce := rfl
@[simp] theorem State.setPageSt_found (p : Nat) (x : Page) : (s.setPageSt p x).found = s.found := rfl
@[simp] theorem State.setPageSt_tallied (p : Nat) (x : Page) : (s.setPageSt p x).tallied = s.tallied := rfl
@[simp] theorem State.setPageSt_i3c (p : Nat) (x : Page) : (s.setPageSt p x).i3c = s.i3c := rfl
@[simp] theorem State.setPageSt_perhal (p : Nat) (x : Page) : (s.setPageSt p x).perhal = s.perhal := rfl
@[simp] theorem State.setPageSt_thermal (p : Nat) (x : Page) : (s.setPageSt p x).thermal = s.thermal := rfl
@[simp] theorem State.setPageSt_paused (p : Nat) (x : Page) : (s.setPageSt p x).paused = s.paused := rfl

/-! `setPort` changes `hostPorts`. -/

@[simp] theorem State.setPort_pending (p : Nat) (h : HostPort) : (s.setPort p h).pending = s.pending := rfl
@[simp] theorem State.setPort_regs (p : Nat) (h : HostPort) : (s.setPort p h).regs = s.regs := rfl
@[simp] theorem State.setPort_mem (p : Nat) (h : HostPort) : (s.setPort p h).mem = s.mem := rfl
@[simp] theorem State.setPort_poison (p : Nat) (h : HostPort) : (s.setPort p h).poison = s.poison := rfl
@[simp] theorem State.setPort_fencedPch (p : Nat) (h : HostPort) : (s.setPort p h).fencedPch = s.fencedPch := rfl
@[simp] theorem State.setPort_fencedStg (p : Nat) (h : HostPort) : (s.setPort p h).fencedStg = s.fencedStg := rfl
@[simp] theorem State.setPort_fencedWbf (p : Nat) (h : HostPort) : (s.setPort p h).fencedWbf = s.fencedWbf := rfl
@[simp] theorem State.setPort_lostGen (p : Nat) (h : HostPort) : (s.setPort p h).lostGen = s.lostGen := rfl
@[simp] theorem State.setPort_lostSet (p : Nat) (h : HostPort) : (s.setPort p h).lostSet = s.lostSet := rfl
@[simp] theorem State.setPort_pages (p : Nat) (h : HostPort) : (s.setPort p h).pages = s.pages := rfl
@[simp] theorem State.setPort_heldWrites (p : Nat) (h : HostPort) : (s.setPort p h).heldWrites = s.heldWrites := rfl
@[simp] theorem State.setPort_preserving (p : Nat) (h : HostPort) : (s.setPort p h).preserving = s.preserving := rfl
@[simp] theorem State.setPort_retiring (p : Nat) (h : HostPort) : (s.setPort p h).retiring = s.retiring := rfl
@[simp] theorem State.setPort_ceCounts (p : Nat) (h : HostPort) : (s.setPort p h).ceCounts = s.ceCounts := rfl
@[simp] theorem State.setPort_ceFired (p : Nat) (h : HostPort) : (s.setPort p h).ceFired = s.ceFired := rfl
@[simp] theorem State.setPort_cells (p : Nat) (h : HostPort) : (s.setPort p h).cells = s.cells := rfl
@[simp] theorem State.setPort_waits (p : Nat) (h : HostPort) : (s.setPort p h).waits = s.waits := rfl
@[simp] theorem State.setPort_queues (p : Nat) (h : HostPort) : (s.setPort p h).queues = s.queues := rfl
@[simp] theorem State.setPort_arrivals (p : Nat) (h : HostPort) : (s.setPort p h).arrivals = s.arrivals := rfl
@[simp] theorem State.setPort_chosen (p : Nat) (h : HostPort) : (s.setPort p h).chosen = s.chosen := rfl
@[simp] theorem State.setPort_cmds (p : Nat) (h : HostPort) : (s.setPort p h).cmds = s.cmds := rfl
@[simp] theorem State.setPort_nextId (p : Nat) (h : HostPort) : (s.setPort p h).nextId = s.nextId := rfl
@[simp] theorem State.setPort_claims (p : Nat) (h : HostPort) : (s.setPort p h).claims = s.claims := rfl
@[simp] theorem State.setPort_granted (p : Nat) (h : HostPort) : (s.setPort p h).granted = s.granted := rfl
@[simp] theorem State.setPort_jobs (p : Nat) (h : HostPort) : (s.setPort p h).jobs = s.jobs := rfl
@[simp] theorem State.setPort_gates (p : Nat) (h : HostPort) : (s.setPort p h).gates = s.gates := rfl
@[simp] theorem State.setPort_cplWait (p : Nat) (h : HostPort) : (s.setPort p h).cplWait = s.cplWait := rfl
@[simp] theorem State.setPort_sending (p : Nat) (h : HostPort) : (s.setPort p h).sending = s.sending := rfl
@[simp] theorem State.setPort_absentDue (p : Nat) (h : HostPort) : (s.setPort p h).absentDue = s.absentDue := rfl
@[simp] theorem State.setPort_floorCause (p : Nat) (h : HostPort) : (s.setPort p h).floorCause = s.floorCause := rfl
@[simp] theorem State.setPort_actions (p : Nat) (h : HostPort) : (s.setPort p h).actions = s.actions := rfl
@[simp] theorem State.setPort_windows (p : Nat) (h : HostPort) : (s.setPort p h).windows = s.windows := rfl
@[simp] theorem State.setPort_hwFences (p : Nat) (h : HostPort) : (s.setPort p h).hwFences = s.hwFences := rfl
@[simp] theorem State.setPort_secondFences (p : Nat) (h : HostPort) : (s.setPort p h).secondFences = s.secondFences := rfl
@[simp] theorem State.setPort_fieldEvents (p : Nat) (h : HostPort) : (s.setPort p h).fieldEvents = s.fieldEvents := rfl
@[simp] theorem State.setPort_samplers (p : Nat) (h : HostPort) : (s.setPort p h).samplers = s.samplers := rfl
@[simp] theorem State.setPort_markerSeq (p : Nat) (h : HostPort) : (s.setPort p h).markerSeq = s.markerSeq := rfl
@[simp] theorem State.setPort_tokens (p : Nat) (h : HostPort) : (s.setPort p h).tokens = s.tokens := rfl
@[simp] theorem State.setPort_hostOut (p : Nat) (h : HostPort) : (s.setPort p h).hostOut = s.hostOut := rfl
@[simp] theorem State.setPort_free (p : Nat) (h : HostPort) : (s.setPort p h).free = s.free := rfl
@[simp] theorem State.setPort_spareDue (p : Nat) (h : HostPort) : (s.setPort p h).spareDue = s.spareDue := rfl
@[simp] theorem State.setPort_badSpares (p : Nat) (h : HostPort) : (s.setPort p h).badSpares = s.badSpares := rfl
@[simp] theorem State.setPort_units (p : Nat) (h : HostPort) : (s.setPort p h).units = s.units := rfl
@[simp] theorem State.setPort_groups (p : Nat) (h : HostPort) : (s.setPort p h).groups = s.groups := rfl
@[simp] theorem State.setPort_nextGroup (p : Nat) (h : HostPort) : (s.setPort p h).nextGroup = s.nextGroup := rfl
@[simp] theorem State.setPort_links (p : Nat) (h : HostPort) : (s.setPort p h).links = s.links := rfl
@[simp] theorem State.setPort_sentItems (p : Nat) (h : HostPort) : (s.setPort p h).sentItems = s.sentItems := rfl
@[simp] theorem State.setPort_sentFrames (p : Nat) (h : HostPort) : (s.setPort p h).sentFrames = s.sentFrames := rfl
@[simp] theorem State.setPort_clx (p : Nat) (h : HostPort) : (s.setPort p h).clx = s.clx := rfl
@[simp] theorem State.setPort_fig (p : Nat) (h : HostPort) : (s.setPort p h).fig = s.fig := rfl
@[simp] theorem State.setPort_snp (p : Nat) (h : HostPort) : (s.setPort p h).snp = s.snp := rfl
@[simp] theorem State.setPort_relocking (p : Nat) (h : HostPort) : (s.setPort p h).relocking = s.relocking := rfl
@[simp] theorem State.setPort_diagLost (p : Nat) (h : HostPort) : (s.setPort p h).diagLost = s.diagLost := rfl
@[simp] theorem State.setPort_fuses (p : Nat) (h : HostPort) : (s.setPort p h).fuses = s.fuses := rfl
@[simp] theorem State.setPort_fatal (p : Nat) (h : HostPort) : (s.setPort p h).fatal = s.fatal := rfl
@[simp] theorem State.setPort_degraded (p : Nat) (h : HostPort) : (s.setPort p h).degraded = s.degraded := rfl
@[simp] theorem State.setPort_retireDue (p : Nat) (h : HostPort) : (s.setPort p h).retireDue = s.retireDue := rfl
@[simp] theorem State.setPort_bundles (p : Nat) (h : HostPort) : (s.setPort p h).bundles = s.bundles := rfl
@[simp] theorem State.setPort_moved (p : Nat) (h : HostPort) : (s.setPort p h).moved = s.moved := rfl
@[simp] theorem State.setPort_parts (p : Nat) (h : HostPort) : (s.setPort p h).parts = s.parts := rfl
@[simp] theorem State.setPort_crossing (p : Nat) (h : HostPort) : (s.setPort p h).crossing = s.crossing := rfl
@[simp] theorem State.setPort_startCount (p : Nat) (h : HostPort) : (s.setPort p h).startCount = s.startCount := rfl
@[simp] theorem State.setPort_record (p : Nat) (h : HostPort) : (s.setPort p h).record = s.record := rfl
@[simp] theorem State.setPort_inForce (p : Nat) (h : HostPort) : (s.setPort p h).inForce = s.inForce := rfl
@[simp] theorem State.setPort_found (p : Nat) (h : HostPort) : (s.setPort p h).found = s.found := rfl
@[simp] theorem State.setPort_tallied (p : Nat) (h : HostPort) : (s.setPort p h).tallied = s.tallied := rfl
@[simp] theorem State.setPort_i3c (p : Nat) (h : HostPort) : (s.setPort p h).i3c = s.i3c := rfl
@[simp] theorem State.setPort_perhal (p : Nat) (h : HostPort) : (s.setPort p h).perhal = s.perhal := rfl
@[simp] theorem State.setPort_thermal (p : Nat) (h : HostPort) : (s.setPort p h).thermal = s.thermal := rfl
@[simp] theorem State.setPort_paused (p : Nat) (h : HostPort) : (s.setPort p h).paused = s.paused := rfl

/-! `setJob` changes `jobs`. -/

@[simp] theorem State.setJob_pending (d c : Nat) (j : Job) : (s.setJob d c j).pending = s.pending := rfl
@[simp] theorem State.setJob_regs (d c : Nat) (j : Job) : (s.setJob d c j).regs = s.regs := rfl
@[simp] theorem State.setJob_mem (d c : Nat) (j : Job) : (s.setJob d c j).mem = s.mem := rfl
@[simp] theorem State.setJob_poison (d c : Nat) (j : Job) : (s.setJob d c j).poison = s.poison := rfl
@[simp] theorem State.setJob_fencedPch (d c : Nat) (j : Job) : (s.setJob d c j).fencedPch = s.fencedPch := rfl
@[simp] theorem State.setJob_fencedStg (d c : Nat) (j : Job) : (s.setJob d c j).fencedStg = s.fencedStg := rfl
@[simp] theorem State.setJob_fencedWbf (d c : Nat) (j : Job) : (s.setJob d c j).fencedWbf = s.fencedWbf := rfl
@[simp] theorem State.setJob_lostGen (d c : Nat) (j : Job) : (s.setJob d c j).lostGen = s.lostGen := rfl
@[simp] theorem State.setJob_lostSet (d c : Nat) (j : Job) : (s.setJob d c j).lostSet = s.lostSet := rfl
@[simp] theorem State.setJob_pages (d c : Nat) (j : Job) : (s.setJob d c j).pages = s.pages := rfl
@[simp] theorem State.setJob_heldWrites (d c : Nat) (j : Job) : (s.setJob d c j).heldWrites = s.heldWrites := rfl
@[simp] theorem State.setJob_preserving (d c : Nat) (j : Job) : (s.setJob d c j).preserving = s.preserving := rfl
@[simp] theorem State.setJob_retiring (d c : Nat) (j : Job) : (s.setJob d c j).retiring = s.retiring := rfl
@[simp] theorem State.setJob_ceCounts (d c : Nat) (j : Job) : (s.setJob d c j).ceCounts = s.ceCounts := rfl
@[simp] theorem State.setJob_ceFired (d c : Nat) (j : Job) : (s.setJob d c j).ceFired = s.ceFired := rfl
@[simp] theorem State.setJob_cells (d c : Nat) (j : Job) : (s.setJob d c j).cells = s.cells := rfl
@[simp] theorem State.setJob_waits (d c : Nat) (j : Job) : (s.setJob d c j).waits = s.waits := rfl
@[simp] theorem State.setJob_queues (d c : Nat) (j : Job) : (s.setJob d c j).queues = s.queues := rfl
@[simp] theorem State.setJob_arrivals (d c : Nat) (j : Job) : (s.setJob d c j).arrivals = s.arrivals := rfl
@[simp] theorem State.setJob_chosen (d c : Nat) (j : Job) : (s.setJob d c j).chosen = s.chosen := rfl
@[simp] theorem State.setJob_cmds (d c : Nat) (j : Job) : (s.setJob d c j).cmds = s.cmds := rfl
@[simp] theorem State.setJob_nextId (d c : Nat) (j : Job) : (s.setJob d c j).nextId = s.nextId := rfl
@[simp] theorem State.setJob_claims (d c : Nat) (j : Job) : (s.setJob d c j).claims = s.claims := rfl
@[simp] theorem State.setJob_granted (d c : Nat) (j : Job) : (s.setJob d c j).granted = s.granted := rfl
@[simp] theorem State.setJob_gates (d c : Nat) (j : Job) : (s.setJob d c j).gates = s.gates := rfl
@[simp] theorem State.setJob_cplWait (d c : Nat) (j : Job) : (s.setJob d c j).cplWait = s.cplWait := rfl
@[simp] theorem State.setJob_hostPorts (d c : Nat) (j : Job) : (s.setJob d c j).hostPorts = s.hostPorts := rfl
@[simp] theorem State.setJob_sending (d c : Nat) (j : Job) : (s.setJob d c j).sending = s.sending := rfl
@[simp] theorem State.setJob_absentDue (d c : Nat) (j : Job) : (s.setJob d c j).absentDue = s.absentDue := rfl
@[simp] theorem State.setJob_floorCause (d c : Nat) (j : Job) : (s.setJob d c j).floorCause = s.floorCause := rfl
@[simp] theorem State.setJob_actions (d c : Nat) (j : Job) : (s.setJob d c j).actions = s.actions := rfl
@[simp] theorem State.setJob_windows (d c : Nat) (j : Job) : (s.setJob d c j).windows = s.windows := rfl
@[simp] theorem State.setJob_hwFences (d c : Nat) (j : Job) : (s.setJob d c j).hwFences = s.hwFences := rfl
@[simp] theorem State.setJob_secondFences (d c : Nat) (j : Job) : (s.setJob d c j).secondFences = s.secondFences := rfl
@[simp] theorem State.setJob_fieldEvents (d c : Nat) (j : Job) : (s.setJob d c j).fieldEvents = s.fieldEvents := rfl
@[simp] theorem State.setJob_samplers (d c : Nat) (j : Job) : (s.setJob d c j).samplers = s.samplers := rfl
@[simp] theorem State.setJob_markerSeq (d c : Nat) (j : Job) : (s.setJob d c j).markerSeq = s.markerSeq := rfl
@[simp] theorem State.setJob_tokens (d c : Nat) (j : Job) : (s.setJob d c j).tokens = s.tokens := rfl
@[simp] theorem State.setJob_hostOut (d c : Nat) (j : Job) : (s.setJob d c j).hostOut = s.hostOut := rfl
@[simp] theorem State.setJob_free (d c : Nat) (j : Job) : (s.setJob d c j).free = s.free := rfl
@[simp] theorem State.setJob_spareDue (d c : Nat) (j : Job) : (s.setJob d c j).spareDue = s.spareDue := rfl
@[simp] theorem State.setJob_badSpares (d c : Nat) (j : Job) : (s.setJob d c j).badSpares = s.badSpares := rfl
@[simp] theorem State.setJob_units (d c : Nat) (j : Job) : (s.setJob d c j).units = s.units := rfl
@[simp] theorem State.setJob_groups (d c : Nat) (j : Job) : (s.setJob d c j).groups = s.groups := rfl
@[simp] theorem State.setJob_nextGroup (d c : Nat) (j : Job) : (s.setJob d c j).nextGroup = s.nextGroup := rfl
@[simp] theorem State.setJob_links (d c : Nat) (j : Job) : (s.setJob d c j).links = s.links := rfl
@[simp] theorem State.setJob_sentItems (d c : Nat) (j : Job) : (s.setJob d c j).sentItems = s.sentItems := rfl
@[simp] theorem State.setJob_sentFrames (d c : Nat) (j : Job) : (s.setJob d c j).sentFrames = s.sentFrames := rfl
@[simp] theorem State.setJob_clx (d c : Nat) (j : Job) : (s.setJob d c j).clx = s.clx := rfl
@[simp] theorem State.setJob_fig (d c : Nat) (j : Job) : (s.setJob d c j).fig = s.fig := rfl
@[simp] theorem State.setJob_snp (d c : Nat) (j : Job) : (s.setJob d c j).snp = s.snp := rfl
@[simp] theorem State.setJob_relocking (d c : Nat) (j : Job) : (s.setJob d c j).relocking = s.relocking := rfl
@[simp] theorem State.setJob_diagLost (d c : Nat) (j : Job) : (s.setJob d c j).diagLost = s.diagLost := rfl
@[simp] theorem State.setJob_fuses (d c : Nat) (j : Job) : (s.setJob d c j).fuses = s.fuses := rfl
@[simp] theorem State.setJob_fatal (d c : Nat) (j : Job) : (s.setJob d c j).fatal = s.fatal := rfl
@[simp] theorem State.setJob_degraded (d c : Nat) (j : Job) : (s.setJob d c j).degraded = s.degraded := rfl
@[simp] theorem State.setJob_retireDue (d c : Nat) (j : Job) : (s.setJob d c j).retireDue = s.retireDue := rfl
@[simp] theorem State.setJob_bundles (d c : Nat) (j : Job) : (s.setJob d c j).bundles = s.bundles := rfl
@[simp] theorem State.setJob_moved (d c : Nat) (j : Job) : (s.setJob d c j).moved = s.moved := rfl
@[simp] theorem State.setJob_parts (d c : Nat) (j : Job) : (s.setJob d c j).parts = s.parts := rfl
@[simp] theorem State.setJob_crossing (d c : Nat) (j : Job) : (s.setJob d c j).crossing = s.crossing := rfl
@[simp] theorem State.setJob_startCount (d c : Nat) (j : Job) : (s.setJob d c j).startCount = s.startCount := rfl
@[simp] theorem State.setJob_record (d c : Nat) (j : Job) : (s.setJob d c j).record = s.record := rfl
@[simp] theorem State.setJob_inForce (d c : Nat) (j : Job) : (s.setJob d c j).inForce = s.inForce := rfl
@[simp] theorem State.setJob_found (d c : Nat) (j : Job) : (s.setJob d c j).found = s.found := rfl
@[simp] theorem State.setJob_tallied (d c : Nat) (j : Job) : (s.setJob d c j).tallied = s.tallied := rfl
@[simp] theorem State.setJob_i3c (d c : Nat) (j : Job) : (s.setJob d c j).i3c = s.i3c := rfl
@[simp] theorem State.setJob_perhal (d c : Nat) (j : Job) : (s.setJob d c j).perhal = s.perhal := rfl
@[simp] theorem State.setJob_thermal (d c : Nat) (j : Job) : (s.setJob d c j).thermal = s.thermal := rfl
@[simp] theorem State.setJob_paused (d c : Nat) (j : Job) : (s.setJob d c j).paused = s.paused := rfl

/-! `setGate` changes `gates`. -/

@[simp] theorem State.setGate_pending (c : Nat) (g : Gate) : (s.setGate c g).pending = s.pending := rfl
@[simp] theorem State.setGate_regs (c : Nat) (g : Gate) : (s.setGate c g).regs = s.regs := rfl
@[simp] theorem State.setGate_mem (c : Nat) (g : Gate) : (s.setGate c g).mem = s.mem := rfl
@[simp] theorem State.setGate_poison (c : Nat) (g : Gate) : (s.setGate c g).poison = s.poison := rfl
@[simp] theorem State.setGate_fencedPch (c : Nat) (g : Gate) : (s.setGate c g).fencedPch = s.fencedPch := rfl
@[simp] theorem State.setGate_fencedStg (c : Nat) (g : Gate) : (s.setGate c g).fencedStg = s.fencedStg := rfl
@[simp] theorem State.setGate_fencedWbf (c : Nat) (g : Gate) : (s.setGate c g).fencedWbf = s.fencedWbf := rfl
@[simp] theorem State.setGate_lostGen (c : Nat) (g : Gate) : (s.setGate c g).lostGen = s.lostGen := rfl
@[simp] theorem State.setGate_lostSet (c : Nat) (g : Gate) : (s.setGate c g).lostSet = s.lostSet := rfl
@[simp] theorem State.setGate_pages (c : Nat) (g : Gate) : (s.setGate c g).pages = s.pages := rfl
@[simp] theorem State.setGate_heldWrites (c : Nat) (g : Gate) : (s.setGate c g).heldWrites = s.heldWrites := rfl
@[simp] theorem State.setGate_preserving (c : Nat) (g : Gate) : (s.setGate c g).preserving = s.preserving := rfl
@[simp] theorem State.setGate_retiring (c : Nat) (g : Gate) : (s.setGate c g).retiring = s.retiring := rfl
@[simp] theorem State.setGate_ceCounts (c : Nat) (g : Gate) : (s.setGate c g).ceCounts = s.ceCounts := rfl
@[simp] theorem State.setGate_ceFired (c : Nat) (g : Gate) : (s.setGate c g).ceFired = s.ceFired := rfl
@[simp] theorem State.setGate_cells (c : Nat) (g : Gate) : (s.setGate c g).cells = s.cells := rfl
@[simp] theorem State.setGate_waits (c : Nat) (g : Gate) : (s.setGate c g).waits = s.waits := rfl
@[simp] theorem State.setGate_queues (c : Nat) (g : Gate) : (s.setGate c g).queues = s.queues := rfl
@[simp] theorem State.setGate_arrivals (c : Nat) (g : Gate) : (s.setGate c g).arrivals = s.arrivals := rfl
@[simp] theorem State.setGate_chosen (c : Nat) (g : Gate) : (s.setGate c g).chosen = s.chosen := rfl
@[simp] theorem State.setGate_cmds (c : Nat) (g : Gate) : (s.setGate c g).cmds = s.cmds := rfl
@[simp] theorem State.setGate_nextId (c : Nat) (g : Gate) : (s.setGate c g).nextId = s.nextId := rfl
@[simp] theorem State.setGate_claims (c : Nat) (g : Gate) : (s.setGate c g).claims = s.claims := rfl
@[simp] theorem State.setGate_granted (c : Nat) (g : Gate) : (s.setGate c g).granted = s.granted := rfl
@[simp] theorem State.setGate_jobs (c : Nat) (g : Gate) : (s.setGate c g).jobs = s.jobs := rfl
@[simp] theorem State.setGate_cplWait (c : Nat) (g : Gate) : (s.setGate c g).cplWait = s.cplWait := rfl
@[simp] theorem State.setGate_hostPorts (c : Nat) (g : Gate) : (s.setGate c g).hostPorts = s.hostPorts := rfl
@[simp] theorem State.setGate_sending (c : Nat) (g : Gate) : (s.setGate c g).sending = s.sending := rfl
@[simp] theorem State.setGate_absentDue (c : Nat) (g : Gate) : (s.setGate c g).absentDue = s.absentDue := rfl
@[simp] theorem State.setGate_floorCause (c : Nat) (g : Gate) : (s.setGate c g).floorCause = s.floorCause := rfl
@[simp] theorem State.setGate_actions (c : Nat) (g : Gate) : (s.setGate c g).actions = s.actions := rfl
@[simp] theorem State.setGate_windows (c : Nat) (g : Gate) : (s.setGate c g).windows = s.windows := rfl
@[simp] theorem State.setGate_hwFences (c : Nat) (g : Gate) : (s.setGate c g).hwFences = s.hwFences := rfl
@[simp] theorem State.setGate_secondFences (c : Nat) (g : Gate) : (s.setGate c g).secondFences = s.secondFences := rfl
@[simp] theorem State.setGate_fieldEvents (c : Nat) (g : Gate) : (s.setGate c g).fieldEvents = s.fieldEvents := rfl
@[simp] theorem State.setGate_samplers (c : Nat) (g : Gate) : (s.setGate c g).samplers = s.samplers := rfl
@[simp] theorem State.setGate_markerSeq (c : Nat) (g : Gate) : (s.setGate c g).markerSeq = s.markerSeq := rfl
@[simp] theorem State.setGate_tokens (c : Nat) (g : Gate) : (s.setGate c g).tokens = s.tokens := rfl
@[simp] theorem State.setGate_hostOut (c : Nat) (g : Gate) : (s.setGate c g).hostOut = s.hostOut := rfl
@[simp] theorem State.setGate_free (c : Nat) (g : Gate) : (s.setGate c g).free = s.free := rfl
@[simp] theorem State.setGate_spareDue (c : Nat) (g : Gate) : (s.setGate c g).spareDue = s.spareDue := rfl
@[simp] theorem State.setGate_badSpares (c : Nat) (g : Gate) : (s.setGate c g).badSpares = s.badSpares := rfl
@[simp] theorem State.setGate_units (c : Nat) (g : Gate) : (s.setGate c g).units = s.units := rfl
@[simp] theorem State.setGate_groups (c : Nat) (g : Gate) : (s.setGate c g).groups = s.groups := rfl
@[simp] theorem State.setGate_nextGroup (c : Nat) (g : Gate) : (s.setGate c g).nextGroup = s.nextGroup := rfl
@[simp] theorem State.setGate_links (c : Nat) (g : Gate) : (s.setGate c g).links = s.links := rfl
@[simp] theorem State.setGate_sentItems (c : Nat) (g : Gate) : (s.setGate c g).sentItems = s.sentItems := rfl
@[simp] theorem State.setGate_sentFrames (c : Nat) (g : Gate) : (s.setGate c g).sentFrames = s.sentFrames := rfl
@[simp] theorem State.setGate_clx (c : Nat) (g : Gate) : (s.setGate c g).clx = s.clx := rfl
@[simp] theorem State.setGate_fig (c : Nat) (g : Gate) : (s.setGate c g).fig = s.fig := rfl
@[simp] theorem State.setGate_snp (c : Nat) (g : Gate) : (s.setGate c g).snp = s.snp := rfl
@[simp] theorem State.setGate_relocking (c : Nat) (g : Gate) : (s.setGate c g).relocking = s.relocking := rfl
@[simp] theorem State.setGate_diagLost (c : Nat) (g : Gate) : (s.setGate c g).diagLost = s.diagLost := rfl
@[simp] theorem State.setGate_fuses (c : Nat) (g : Gate) : (s.setGate c g).fuses = s.fuses := rfl
@[simp] theorem State.setGate_fatal (c : Nat) (g : Gate) : (s.setGate c g).fatal = s.fatal := rfl
@[simp] theorem State.setGate_degraded (c : Nat) (g : Gate) : (s.setGate c g).degraded = s.degraded := rfl
@[simp] theorem State.setGate_retireDue (c : Nat) (g : Gate) : (s.setGate c g).retireDue = s.retireDue := rfl
@[simp] theorem State.setGate_bundles (c : Nat) (g : Gate) : (s.setGate c g).bundles = s.bundles := rfl
@[simp] theorem State.setGate_moved (c : Nat) (g : Gate) : (s.setGate c g).moved = s.moved := rfl
@[simp] theorem State.setGate_parts (c : Nat) (g : Gate) : (s.setGate c g).parts = s.parts := rfl
@[simp] theorem State.setGate_crossing (c : Nat) (g : Gate) : (s.setGate c g).crossing = s.crossing := rfl
@[simp] theorem State.setGate_startCount (c : Nat) (g : Gate) : (s.setGate c g).startCount = s.startCount := rfl
@[simp] theorem State.setGate_record (c : Nat) (g : Gate) : (s.setGate c g).record = s.record := rfl
@[simp] theorem State.setGate_inForce (c : Nat) (g : Gate) : (s.setGate c g).inForce = s.inForce := rfl
@[simp] theorem State.setGate_found (c : Nat) (g : Gate) : (s.setGate c g).found = s.found := rfl
@[simp] theorem State.setGate_tallied (c : Nat) (g : Gate) : (s.setGate c g).tallied = s.tallied := rfl
@[simp] theorem State.setGate_i3c (c : Nat) (g : Gate) : (s.setGate c g).i3c = s.i3c := rfl
@[simp] theorem State.setGate_perhal (c : Nat) (g : Gate) : (s.setGate c g).perhal = s.perhal := rfl
@[simp] theorem State.setGate_thermal (c : Nat) (g : Gate) : (s.setGate c g).thermal = s.thermal := rfl
@[simp] theorem State.setGate_paused (c : Nat) (g : Gate) : (s.setGate c g).paused = s.paused := rfl

/-! `setSampler` changes `samplers`. -/

@[simp] theorem State.setSampler_pending (d : Nat) (x : Sampler) : (s.setSampler d x).pending = s.pending := rfl
@[simp] theorem State.setSampler_regs (d : Nat) (x : Sampler) : (s.setSampler d x).regs = s.regs := rfl
@[simp] theorem State.setSampler_mem (d : Nat) (x : Sampler) : (s.setSampler d x).mem = s.mem := rfl
@[simp] theorem State.setSampler_poison (d : Nat) (x : Sampler) : (s.setSampler d x).poison = s.poison := rfl
@[simp] theorem State.setSampler_fencedPch (d : Nat) (x : Sampler) : (s.setSampler d x).fencedPch = s.fencedPch := rfl
@[simp] theorem State.setSampler_fencedStg (d : Nat) (x : Sampler) : (s.setSampler d x).fencedStg = s.fencedStg := rfl
@[simp] theorem State.setSampler_fencedWbf (d : Nat) (x : Sampler) : (s.setSampler d x).fencedWbf = s.fencedWbf := rfl
@[simp] theorem State.setSampler_lostGen (d : Nat) (x : Sampler) : (s.setSampler d x).lostGen = s.lostGen := rfl
@[simp] theorem State.setSampler_lostSet (d : Nat) (x : Sampler) : (s.setSampler d x).lostSet = s.lostSet := rfl
@[simp] theorem State.setSampler_pages (d : Nat) (x : Sampler) : (s.setSampler d x).pages = s.pages := rfl
@[simp] theorem State.setSampler_heldWrites (d : Nat) (x : Sampler) : (s.setSampler d x).heldWrites = s.heldWrites := rfl
@[simp] theorem State.setSampler_preserving (d : Nat) (x : Sampler) : (s.setSampler d x).preserving = s.preserving := rfl
@[simp] theorem State.setSampler_retiring (d : Nat) (x : Sampler) : (s.setSampler d x).retiring = s.retiring := rfl
@[simp] theorem State.setSampler_ceCounts (d : Nat) (x : Sampler) : (s.setSampler d x).ceCounts = s.ceCounts := rfl
@[simp] theorem State.setSampler_ceFired (d : Nat) (x : Sampler) : (s.setSampler d x).ceFired = s.ceFired := rfl
@[simp] theorem State.setSampler_cells (d : Nat) (x : Sampler) : (s.setSampler d x).cells = s.cells := rfl
@[simp] theorem State.setSampler_waits (d : Nat) (x : Sampler) : (s.setSampler d x).waits = s.waits := rfl
@[simp] theorem State.setSampler_queues (d : Nat) (x : Sampler) : (s.setSampler d x).queues = s.queues := rfl
@[simp] theorem State.setSampler_arrivals (d : Nat) (x : Sampler) : (s.setSampler d x).arrivals = s.arrivals := rfl
@[simp] theorem State.setSampler_chosen (d : Nat) (x : Sampler) : (s.setSampler d x).chosen = s.chosen := rfl
@[simp] theorem State.setSampler_cmds (d : Nat) (x : Sampler) : (s.setSampler d x).cmds = s.cmds := rfl
@[simp] theorem State.setSampler_nextId (d : Nat) (x : Sampler) : (s.setSampler d x).nextId = s.nextId := rfl
@[simp] theorem State.setSampler_claims (d : Nat) (x : Sampler) : (s.setSampler d x).claims = s.claims := rfl
@[simp] theorem State.setSampler_granted (d : Nat) (x : Sampler) : (s.setSampler d x).granted = s.granted := rfl
@[simp] theorem State.setSampler_jobs (d : Nat) (x : Sampler) : (s.setSampler d x).jobs = s.jobs := rfl
@[simp] theorem State.setSampler_gates (d : Nat) (x : Sampler) : (s.setSampler d x).gates = s.gates := rfl
@[simp] theorem State.setSampler_cplWait (d : Nat) (x : Sampler) : (s.setSampler d x).cplWait = s.cplWait := rfl
@[simp] theorem State.setSampler_hostPorts (d : Nat) (x : Sampler) : (s.setSampler d x).hostPorts = s.hostPorts := rfl
@[simp] theorem State.setSampler_sending (d : Nat) (x : Sampler) : (s.setSampler d x).sending = s.sending := rfl
@[simp] theorem State.setSampler_absentDue (d : Nat) (x : Sampler) : (s.setSampler d x).absentDue = s.absentDue := rfl
@[simp] theorem State.setSampler_floorCause (d : Nat) (x : Sampler) : (s.setSampler d x).floorCause = s.floorCause := rfl
@[simp] theorem State.setSampler_actions (d : Nat) (x : Sampler) : (s.setSampler d x).actions = s.actions := rfl
@[simp] theorem State.setSampler_windows (d : Nat) (x : Sampler) : (s.setSampler d x).windows = s.windows := rfl
@[simp] theorem State.setSampler_hwFences (d : Nat) (x : Sampler) : (s.setSampler d x).hwFences = s.hwFences := rfl
@[simp] theorem State.setSampler_secondFences (d : Nat) (x : Sampler) : (s.setSampler d x).secondFences = s.secondFences := rfl
@[simp] theorem State.setSampler_fieldEvents (d : Nat) (x : Sampler) : (s.setSampler d x).fieldEvents = s.fieldEvents := rfl
@[simp] theorem State.setSampler_markerSeq (d : Nat) (x : Sampler) : (s.setSampler d x).markerSeq = s.markerSeq := rfl
@[simp] theorem State.setSampler_tokens (d : Nat) (x : Sampler) : (s.setSampler d x).tokens = s.tokens := rfl
@[simp] theorem State.setSampler_hostOut (d : Nat) (x : Sampler) : (s.setSampler d x).hostOut = s.hostOut := rfl
@[simp] theorem State.setSampler_free (d : Nat) (x : Sampler) : (s.setSampler d x).free = s.free := rfl
@[simp] theorem State.setSampler_spareDue (d : Nat) (x : Sampler) : (s.setSampler d x).spareDue = s.spareDue := rfl
@[simp] theorem State.setSampler_badSpares (d : Nat) (x : Sampler) : (s.setSampler d x).badSpares = s.badSpares := rfl
@[simp] theorem State.setSampler_units (d : Nat) (x : Sampler) : (s.setSampler d x).units = s.units := rfl
@[simp] theorem State.setSampler_groups (d : Nat) (x : Sampler) : (s.setSampler d x).groups = s.groups := rfl
@[simp] theorem State.setSampler_nextGroup (d : Nat) (x : Sampler) : (s.setSampler d x).nextGroup = s.nextGroup := rfl
@[simp] theorem State.setSampler_links (d : Nat) (x : Sampler) : (s.setSampler d x).links = s.links := rfl
@[simp] theorem State.setSampler_sentItems (d : Nat) (x : Sampler) : (s.setSampler d x).sentItems = s.sentItems := rfl
@[simp] theorem State.setSampler_sentFrames (d : Nat) (x : Sampler) : (s.setSampler d x).sentFrames = s.sentFrames := rfl
@[simp] theorem State.setSampler_clx (d : Nat) (x : Sampler) : (s.setSampler d x).clx = s.clx := rfl
@[simp] theorem State.setSampler_fig (d : Nat) (x : Sampler) : (s.setSampler d x).fig = s.fig := rfl
@[simp] theorem State.setSampler_snp (d : Nat) (x : Sampler) : (s.setSampler d x).snp = s.snp := rfl
@[simp] theorem State.setSampler_relocking (d : Nat) (x : Sampler) : (s.setSampler d x).relocking = s.relocking := rfl
@[simp] theorem State.setSampler_diagLost (d : Nat) (x : Sampler) : (s.setSampler d x).diagLost = s.diagLost := rfl
@[simp] theorem State.setSampler_fuses (d : Nat) (x : Sampler) : (s.setSampler d x).fuses = s.fuses := rfl
@[simp] theorem State.setSampler_fatal (d : Nat) (x : Sampler) : (s.setSampler d x).fatal = s.fatal := rfl
@[simp] theorem State.setSampler_degraded (d : Nat) (x : Sampler) : (s.setSampler d x).degraded = s.degraded := rfl
@[simp] theorem State.setSampler_retireDue (d : Nat) (x : Sampler) : (s.setSampler d x).retireDue = s.retireDue := rfl
@[simp] theorem State.setSampler_bundles (d : Nat) (x : Sampler) : (s.setSampler d x).bundles = s.bundles := rfl
@[simp] theorem State.setSampler_moved (d : Nat) (x : Sampler) : (s.setSampler d x).moved = s.moved := rfl
@[simp] theorem State.setSampler_parts (d : Nat) (x : Sampler) : (s.setSampler d x).parts = s.parts := rfl
@[simp] theorem State.setSampler_crossing (d : Nat) (x : Sampler) : (s.setSampler d x).crossing = s.crossing := rfl
@[simp] theorem State.setSampler_startCount (d : Nat) (x : Sampler) : (s.setSampler d x).startCount = s.startCount := rfl
@[simp] theorem State.setSampler_record (d : Nat) (x : Sampler) : (s.setSampler d x).record = s.record := rfl
@[simp] theorem State.setSampler_inForce (d : Nat) (x : Sampler) : (s.setSampler d x).inForce = s.inForce := rfl
@[simp] theorem State.setSampler_found (d : Nat) (x : Sampler) : (s.setSampler d x).found = s.found := rfl
@[simp] theorem State.setSampler_tallied (d : Nat) (x : Sampler) : (s.setSampler d x).tallied = s.tallied := rfl
@[simp] theorem State.setSampler_i3c (d : Nat) (x : Sampler) : (s.setSampler d x).i3c = s.i3c := rfl
@[simp] theorem State.setSampler_perhal (d : Nat) (x : Sampler) : (s.setSampler d x).perhal = s.perhal := rfl
@[simp] theorem State.setSampler_thermal (d : Nat) (x : Sampler) : (s.setSampler d x).thermal = s.thermal := rfl
@[simp] theorem State.setSampler_paused (d : Nat) (x : Sampler) : (s.setSampler d x).paused = s.paused := rfl

/-! `setLink` changes `links`. -/

@[simp] theorem State.setLink_pending (e : Nat) (l : Link) : (s.setLink e l).pending = s.pending := rfl
@[simp] theorem State.setLink_regs (e : Nat) (l : Link) : (s.setLink e l).regs = s.regs := rfl
@[simp] theorem State.setLink_mem (e : Nat) (l : Link) : (s.setLink e l).mem = s.mem := rfl
@[simp] theorem State.setLink_poison (e : Nat) (l : Link) : (s.setLink e l).poison = s.poison := rfl
@[simp] theorem State.setLink_fencedPch (e : Nat) (l : Link) : (s.setLink e l).fencedPch = s.fencedPch := rfl
@[simp] theorem State.setLink_fencedStg (e : Nat) (l : Link) : (s.setLink e l).fencedStg = s.fencedStg := rfl
@[simp] theorem State.setLink_fencedWbf (e : Nat) (l : Link) : (s.setLink e l).fencedWbf = s.fencedWbf := rfl
@[simp] theorem State.setLink_lostGen (e : Nat) (l : Link) : (s.setLink e l).lostGen = s.lostGen := rfl
@[simp] theorem State.setLink_lostSet (e : Nat) (l : Link) : (s.setLink e l).lostSet = s.lostSet := rfl
@[simp] theorem State.setLink_pages (e : Nat) (l : Link) : (s.setLink e l).pages = s.pages := rfl
@[simp] theorem State.setLink_heldWrites (e : Nat) (l : Link) : (s.setLink e l).heldWrites = s.heldWrites := rfl
@[simp] theorem State.setLink_preserving (e : Nat) (l : Link) : (s.setLink e l).preserving = s.preserving := rfl
@[simp] theorem State.setLink_retiring (e : Nat) (l : Link) : (s.setLink e l).retiring = s.retiring := rfl
@[simp] theorem State.setLink_ceCounts (e : Nat) (l : Link) : (s.setLink e l).ceCounts = s.ceCounts := rfl
@[simp] theorem State.setLink_ceFired (e : Nat) (l : Link) : (s.setLink e l).ceFired = s.ceFired := rfl
@[simp] theorem State.setLink_cells (e : Nat) (l : Link) : (s.setLink e l).cells = s.cells := rfl
@[simp] theorem State.setLink_waits (e : Nat) (l : Link) : (s.setLink e l).waits = s.waits := rfl
@[simp] theorem State.setLink_queues (e : Nat) (l : Link) : (s.setLink e l).queues = s.queues := rfl
@[simp] theorem State.setLink_arrivals (e : Nat) (l : Link) : (s.setLink e l).arrivals = s.arrivals := rfl
@[simp] theorem State.setLink_chosen (e : Nat) (l : Link) : (s.setLink e l).chosen = s.chosen := rfl
@[simp] theorem State.setLink_cmds (e : Nat) (l : Link) : (s.setLink e l).cmds = s.cmds := rfl
@[simp] theorem State.setLink_nextId (e : Nat) (l : Link) : (s.setLink e l).nextId = s.nextId := rfl
@[simp] theorem State.setLink_claims (e : Nat) (l : Link) : (s.setLink e l).claims = s.claims := rfl
@[simp] theorem State.setLink_granted (e : Nat) (l : Link) : (s.setLink e l).granted = s.granted := rfl
@[simp] theorem State.setLink_jobs (e : Nat) (l : Link) : (s.setLink e l).jobs = s.jobs := rfl
@[simp] theorem State.setLink_gates (e : Nat) (l : Link) : (s.setLink e l).gates = s.gates := rfl
@[simp] theorem State.setLink_cplWait (e : Nat) (l : Link) : (s.setLink e l).cplWait = s.cplWait := rfl
@[simp] theorem State.setLink_hostPorts (e : Nat) (l : Link) : (s.setLink e l).hostPorts = s.hostPorts := rfl
@[simp] theorem State.setLink_sending (e : Nat) (l : Link) : (s.setLink e l).sending = s.sending := rfl
@[simp] theorem State.setLink_absentDue (e : Nat) (l : Link) : (s.setLink e l).absentDue = s.absentDue := rfl
@[simp] theorem State.setLink_floorCause (e : Nat) (l : Link) : (s.setLink e l).floorCause = s.floorCause := rfl
@[simp] theorem State.setLink_actions (e : Nat) (l : Link) : (s.setLink e l).actions = s.actions := rfl
@[simp] theorem State.setLink_windows (e : Nat) (l : Link) : (s.setLink e l).windows = s.windows := rfl
@[simp] theorem State.setLink_hwFences (e : Nat) (l : Link) : (s.setLink e l).hwFences = s.hwFences := rfl
@[simp] theorem State.setLink_secondFences (e : Nat) (l : Link) : (s.setLink e l).secondFences = s.secondFences := rfl
@[simp] theorem State.setLink_fieldEvents (e : Nat) (l : Link) : (s.setLink e l).fieldEvents = s.fieldEvents := rfl
@[simp] theorem State.setLink_samplers (e : Nat) (l : Link) : (s.setLink e l).samplers = s.samplers := rfl
@[simp] theorem State.setLink_markerSeq (e : Nat) (l : Link) : (s.setLink e l).markerSeq = s.markerSeq := rfl
@[simp] theorem State.setLink_tokens (e : Nat) (l : Link) : (s.setLink e l).tokens = s.tokens := rfl
@[simp] theorem State.setLink_hostOut (e : Nat) (l : Link) : (s.setLink e l).hostOut = s.hostOut := rfl
@[simp] theorem State.setLink_free (e : Nat) (l : Link) : (s.setLink e l).free = s.free := rfl
@[simp] theorem State.setLink_spareDue (e : Nat) (l : Link) : (s.setLink e l).spareDue = s.spareDue := rfl
@[simp] theorem State.setLink_badSpares (e : Nat) (l : Link) : (s.setLink e l).badSpares = s.badSpares := rfl
@[simp] theorem State.setLink_units (e : Nat) (l : Link) : (s.setLink e l).units = s.units := rfl
@[simp] theorem State.setLink_groups (e : Nat) (l : Link) : (s.setLink e l).groups = s.groups := rfl
@[simp] theorem State.setLink_nextGroup (e : Nat) (l : Link) : (s.setLink e l).nextGroup = s.nextGroup := rfl
@[simp] theorem State.setLink_sentItems (e : Nat) (l : Link) : (s.setLink e l).sentItems = s.sentItems := rfl
@[simp] theorem State.setLink_sentFrames (e : Nat) (l : Link) : (s.setLink e l).sentFrames = s.sentFrames := rfl
@[simp] theorem State.setLink_clx (e : Nat) (l : Link) : (s.setLink e l).clx = s.clx := rfl
@[simp] theorem State.setLink_fig (e : Nat) (l : Link) : (s.setLink e l).fig = s.fig := rfl
@[simp] theorem State.setLink_snp (e : Nat) (l : Link) : (s.setLink e l).snp = s.snp := rfl
@[simp] theorem State.setLink_relocking (e : Nat) (l : Link) : (s.setLink e l).relocking = s.relocking := rfl
@[simp] theorem State.setLink_diagLost (e : Nat) (l : Link) : (s.setLink e l).diagLost = s.diagLost := rfl
@[simp] theorem State.setLink_fuses (e : Nat) (l : Link) : (s.setLink e l).fuses = s.fuses := rfl
@[simp] theorem State.setLink_fatal (e : Nat) (l : Link) : (s.setLink e l).fatal = s.fatal := rfl
@[simp] theorem State.setLink_degraded (e : Nat) (l : Link) : (s.setLink e l).degraded = s.degraded := rfl
@[simp] theorem State.setLink_retireDue (e : Nat) (l : Link) : (s.setLink e l).retireDue = s.retireDue := rfl
@[simp] theorem State.setLink_bundles (e : Nat) (l : Link) : (s.setLink e l).bundles = s.bundles := rfl
@[simp] theorem State.setLink_moved (e : Nat) (l : Link) : (s.setLink e l).moved = s.moved := rfl
@[simp] theorem State.setLink_parts (e : Nat) (l : Link) : (s.setLink e l).parts = s.parts := rfl
@[simp] theorem State.setLink_crossing (e : Nat) (l : Link) : (s.setLink e l).crossing = s.crossing := rfl
@[simp] theorem State.setLink_startCount (e : Nat) (l : Link) : (s.setLink e l).startCount = s.startCount := rfl
@[simp] theorem State.setLink_record (e : Nat) (l : Link) : (s.setLink e l).record = s.record := rfl
@[simp] theorem State.setLink_inForce (e : Nat) (l : Link) : (s.setLink e l).inForce = s.inForce := rfl
@[simp] theorem State.setLink_found (e : Nat) (l : Link) : (s.setLink e l).found = s.found := rfl
@[simp] theorem State.setLink_tallied (e : Nat) (l : Link) : (s.setLink e l).tallied = s.tallied := rfl
@[simp] theorem State.setLink_i3c (e : Nat) (l : Link) : (s.setLink e l).i3c = s.i3c := rfl
@[simp] theorem State.setLink_perhal (e : Nat) (l : Link) : (s.setLink e l).perhal = s.perhal := rfl
@[simp] theorem State.setLink_thermal (e : Nat) (l : Link) : (s.setLink e l).thermal = s.thermal := rfl
@[simp] theorem State.setLink_paused (e : Nat) (l : Link) : (s.setLink e l).paused = s.paused := rfl

/-! `setBundle` changes `bundles`. -/

@[simp] theorem State.setBundle_pending (d b : Nat) (x : Bundle) : (s.setBundle d b x).pending = s.pending := rfl
@[simp] theorem State.setBundle_regs (d b : Nat) (x : Bundle) : (s.setBundle d b x).regs = s.regs := rfl
@[simp] theorem State.setBundle_mem (d b : Nat) (x : Bundle) : (s.setBundle d b x).mem = s.mem := rfl
@[simp] theorem State.setBundle_poison (d b : Nat) (x : Bundle) : (s.setBundle d b x).poison = s.poison := rfl
@[simp] theorem State.setBundle_fencedPch (d b : Nat) (x : Bundle) : (s.setBundle d b x).fencedPch = s.fencedPch := rfl
@[simp] theorem State.setBundle_fencedStg (d b : Nat) (x : Bundle) : (s.setBundle d b x).fencedStg = s.fencedStg := rfl
@[simp] theorem State.setBundle_fencedWbf (d b : Nat) (x : Bundle) : (s.setBundle d b x).fencedWbf = s.fencedWbf := rfl
@[simp] theorem State.setBundle_lostGen (d b : Nat) (x : Bundle) : (s.setBundle d b x).lostGen = s.lostGen := rfl
@[simp] theorem State.setBundle_lostSet (d b : Nat) (x : Bundle) : (s.setBundle d b x).lostSet = s.lostSet := rfl
@[simp] theorem State.setBundle_pages (d b : Nat) (x : Bundle) : (s.setBundle d b x).pages = s.pages := rfl
@[simp] theorem State.setBundle_heldWrites (d b : Nat) (x : Bundle) : (s.setBundle d b x).heldWrites = s.heldWrites := rfl
@[simp] theorem State.setBundle_preserving (d b : Nat) (x : Bundle) : (s.setBundle d b x).preserving = s.preserving := rfl
@[simp] theorem State.setBundle_retiring (d b : Nat) (x : Bundle) : (s.setBundle d b x).retiring = s.retiring := rfl
@[simp] theorem State.setBundle_ceCounts (d b : Nat) (x : Bundle) : (s.setBundle d b x).ceCounts = s.ceCounts := rfl
@[simp] theorem State.setBundle_ceFired (d b : Nat) (x : Bundle) : (s.setBundle d b x).ceFired = s.ceFired := rfl
@[simp] theorem State.setBundle_cells (d b : Nat) (x : Bundle) : (s.setBundle d b x).cells = s.cells := rfl
@[simp] theorem State.setBundle_waits (d b : Nat) (x : Bundle) : (s.setBundle d b x).waits = s.waits := rfl
@[simp] theorem State.setBundle_queues (d b : Nat) (x : Bundle) : (s.setBundle d b x).queues = s.queues := rfl
@[simp] theorem State.setBundle_arrivals (d b : Nat) (x : Bundle) : (s.setBundle d b x).arrivals = s.arrivals := rfl
@[simp] theorem State.setBundle_chosen (d b : Nat) (x : Bundle) : (s.setBundle d b x).chosen = s.chosen := rfl
@[simp] theorem State.setBundle_cmds (d b : Nat) (x : Bundle) : (s.setBundle d b x).cmds = s.cmds := rfl
@[simp] theorem State.setBundle_nextId (d b : Nat) (x : Bundle) : (s.setBundle d b x).nextId = s.nextId := rfl
@[simp] theorem State.setBundle_claims (d b : Nat) (x : Bundle) : (s.setBundle d b x).claims = s.claims := rfl
@[simp] theorem State.setBundle_granted (d b : Nat) (x : Bundle) : (s.setBundle d b x).granted = s.granted := rfl
@[simp] theorem State.setBundle_jobs (d b : Nat) (x : Bundle) : (s.setBundle d b x).jobs = s.jobs := rfl
@[simp] theorem State.setBundle_gates (d b : Nat) (x : Bundle) : (s.setBundle d b x).gates = s.gates := rfl
@[simp] theorem State.setBundle_cplWait (d b : Nat) (x : Bundle) : (s.setBundle d b x).cplWait = s.cplWait := rfl
@[simp] theorem State.setBundle_hostPorts (d b : Nat) (x : Bundle) : (s.setBundle d b x).hostPorts = s.hostPorts := rfl
@[simp] theorem State.setBundle_sending (d b : Nat) (x : Bundle) : (s.setBundle d b x).sending = s.sending := rfl
@[simp] theorem State.setBundle_absentDue (d b : Nat) (x : Bundle) : (s.setBundle d b x).absentDue = s.absentDue := rfl
@[simp] theorem State.setBundle_floorCause (d b : Nat) (x : Bundle) : (s.setBundle d b x).floorCause = s.floorCause := rfl
@[simp] theorem State.setBundle_actions (d b : Nat) (x : Bundle) : (s.setBundle d b x).actions = s.actions := rfl
@[simp] theorem State.setBundle_windows (d b : Nat) (x : Bundle) : (s.setBundle d b x).windows = s.windows := rfl
@[simp] theorem State.setBundle_hwFences (d b : Nat) (x : Bundle) : (s.setBundle d b x).hwFences = s.hwFences := rfl
@[simp] theorem State.setBundle_secondFences (d b : Nat) (x : Bundle) : (s.setBundle d b x).secondFences = s.secondFences := rfl
@[simp] theorem State.setBundle_fieldEvents (d b : Nat) (x : Bundle) : (s.setBundle d b x).fieldEvents = s.fieldEvents := rfl
@[simp] theorem State.setBundle_samplers (d b : Nat) (x : Bundle) : (s.setBundle d b x).samplers = s.samplers := rfl
@[simp] theorem State.setBundle_markerSeq (d b : Nat) (x : Bundle) : (s.setBundle d b x).markerSeq = s.markerSeq := rfl
@[simp] theorem State.setBundle_tokens (d b : Nat) (x : Bundle) : (s.setBundle d b x).tokens = s.tokens := rfl
@[simp] theorem State.setBundle_hostOut (d b : Nat) (x : Bundle) : (s.setBundle d b x).hostOut = s.hostOut := rfl
@[simp] theorem State.setBundle_free (d b : Nat) (x : Bundle) : (s.setBundle d b x).free = s.free := rfl
@[simp] theorem State.setBundle_spareDue (d b : Nat) (x : Bundle) : (s.setBundle d b x).spareDue = s.spareDue := rfl
@[simp] theorem State.setBundle_badSpares (d b : Nat) (x : Bundle) : (s.setBundle d b x).badSpares = s.badSpares := rfl
@[simp] theorem State.setBundle_units (d b : Nat) (x : Bundle) : (s.setBundle d b x).units = s.units := rfl
@[simp] theorem State.setBundle_groups (d b : Nat) (x : Bundle) : (s.setBundle d b x).groups = s.groups := rfl
@[simp] theorem State.setBundle_nextGroup (d b : Nat) (x : Bundle) : (s.setBundle d b x).nextGroup = s.nextGroup := rfl
@[simp] theorem State.setBundle_links (d b : Nat) (x : Bundle) : (s.setBundle d b x).links = s.links := rfl
@[simp] theorem State.setBundle_sentItems (d b : Nat) (x : Bundle) : (s.setBundle d b x).sentItems = s.sentItems := rfl
@[simp] theorem State.setBundle_sentFrames (d b : Nat) (x : Bundle) : (s.setBundle d b x).sentFrames = s.sentFrames := rfl
@[simp] theorem State.setBundle_clx (d b : Nat) (x : Bundle) : (s.setBundle d b x).clx = s.clx := rfl
@[simp] theorem State.setBundle_fig (d b : Nat) (x : Bundle) : (s.setBundle d b x).fig = s.fig := rfl
@[simp] theorem State.setBundle_snp (d b : Nat) (x : Bundle) : (s.setBundle d b x).snp = s.snp := rfl
@[simp] theorem State.setBundle_relocking (d b : Nat) (x : Bundle) : (s.setBundle d b x).relocking = s.relocking := rfl
@[simp] theorem State.setBundle_diagLost (d b : Nat) (x : Bundle) : (s.setBundle d b x).diagLost = s.diagLost := rfl
@[simp] theorem State.setBundle_fuses (d b : Nat) (x : Bundle) : (s.setBundle d b x).fuses = s.fuses := rfl
@[simp] theorem State.setBundle_fatal (d b : Nat) (x : Bundle) : (s.setBundle d b x).fatal = s.fatal := rfl
@[simp] theorem State.setBundle_degraded (d b : Nat) (x : Bundle) : (s.setBundle d b x).degraded = s.degraded := rfl
@[simp] theorem State.setBundle_retireDue (d b : Nat) (x : Bundle) : (s.setBundle d b x).retireDue = s.retireDue := rfl
@[simp] theorem State.setBundle_moved (d b : Nat) (x : Bundle) : (s.setBundle d b x).moved = s.moved := rfl
@[simp] theorem State.setBundle_parts (d b : Nat) (x : Bundle) : (s.setBundle d b x).parts = s.parts := rfl
@[simp] theorem State.setBundle_crossing (d b : Nat) (x : Bundle) : (s.setBundle d b x).crossing = s.crossing := rfl
@[simp] theorem State.setBundle_startCount (d b : Nat) (x : Bundle) : (s.setBundle d b x).startCount = s.startCount := rfl
@[simp] theorem State.setBundle_record (d b : Nat) (x : Bundle) : (s.setBundle d b x).record = s.record := rfl
@[simp] theorem State.setBundle_inForce (d b : Nat) (x : Bundle) : (s.setBundle d b x).inForce = s.inForce := rfl
@[simp] theorem State.setBundle_found (d b : Nat) (x : Bundle) : (s.setBundle d b x).found = s.found := rfl
@[simp] theorem State.setBundle_tallied (d b : Nat) (x : Bundle) : (s.setBundle d b x).tallied = s.tallied := rfl
@[simp] theorem State.setBundle_i3c (d b : Nat) (x : Bundle) : (s.setBundle d b x).i3c = s.i3c := rfl
@[simp] theorem State.setBundle_perhal (d b : Nat) (x : Bundle) : (s.setBundle d b x).perhal = s.perhal := rfl
@[simp] theorem State.setBundle_thermal (d b : Nat) (x : Bundle) : (s.setBundle d b x).thermal = s.thermal := rfl
@[simp] theorem State.setBundle_paused (d b : Nat) (x : Bundle) : (s.setBundle d b x).paused = s.paused := rfl

/-! `setUnit` changes `units`. -/

@[simp] theorem State.setUnit_pending (d u : Nat) (x : UnitCore) : (s.setUnit d u x).pending = s.pending := rfl
@[simp] theorem State.setUnit_regs (d u : Nat) (x : UnitCore) : (s.setUnit d u x).regs = s.regs := rfl
@[simp] theorem State.setUnit_mem (d u : Nat) (x : UnitCore) : (s.setUnit d u x).mem = s.mem := rfl
@[simp] theorem State.setUnit_poison (d u : Nat) (x : UnitCore) : (s.setUnit d u x).poison = s.poison := rfl
@[simp] theorem State.setUnit_fencedPch (d u : Nat) (x : UnitCore) : (s.setUnit d u x).fencedPch = s.fencedPch := rfl
@[simp] theorem State.setUnit_fencedStg (d u : Nat) (x : UnitCore) : (s.setUnit d u x).fencedStg = s.fencedStg := rfl
@[simp] theorem State.setUnit_fencedWbf (d u : Nat) (x : UnitCore) : (s.setUnit d u x).fencedWbf = s.fencedWbf := rfl
@[simp] theorem State.setUnit_lostGen (d u : Nat) (x : UnitCore) : (s.setUnit d u x).lostGen = s.lostGen := rfl
@[simp] theorem State.setUnit_lostSet (d u : Nat) (x : UnitCore) : (s.setUnit d u x).lostSet = s.lostSet := rfl
@[simp] theorem State.setUnit_pages (d u : Nat) (x : UnitCore) : (s.setUnit d u x).pages = s.pages := rfl
@[simp] theorem State.setUnit_heldWrites (d u : Nat) (x : UnitCore) : (s.setUnit d u x).heldWrites = s.heldWrites := rfl
@[simp] theorem State.setUnit_preserving (d u : Nat) (x : UnitCore) : (s.setUnit d u x).preserving = s.preserving := rfl
@[simp] theorem State.setUnit_retiring (d u : Nat) (x : UnitCore) : (s.setUnit d u x).retiring = s.retiring := rfl
@[simp] theorem State.setUnit_ceCounts (d u : Nat) (x : UnitCore) : (s.setUnit d u x).ceCounts = s.ceCounts := rfl
@[simp] theorem State.setUnit_ceFired (d u : Nat) (x : UnitCore) : (s.setUnit d u x).ceFired = s.ceFired := rfl
@[simp] theorem State.setUnit_cells (d u : Nat) (x : UnitCore) : (s.setUnit d u x).cells = s.cells := rfl
@[simp] theorem State.setUnit_waits (d u : Nat) (x : UnitCore) : (s.setUnit d u x).waits = s.waits := rfl
@[simp] theorem State.setUnit_queues (d u : Nat) (x : UnitCore) : (s.setUnit d u x).queues = s.queues := rfl
@[simp] theorem State.setUnit_arrivals (d u : Nat) (x : UnitCore) : (s.setUnit d u x).arrivals = s.arrivals := rfl
@[simp] theorem State.setUnit_chosen (d u : Nat) (x : UnitCore) : (s.setUnit d u x).chosen = s.chosen := rfl
@[simp] theorem State.setUnit_cmds (d u : Nat) (x : UnitCore) : (s.setUnit d u x).cmds = s.cmds := rfl
@[simp] theorem State.setUnit_nextId (d u : Nat) (x : UnitCore) : (s.setUnit d u x).nextId = s.nextId := rfl
@[simp] theorem State.setUnit_claims (d u : Nat) (x : UnitCore) : (s.setUnit d u x).claims = s.claims := rfl
@[simp] theorem State.setUnit_granted (d u : Nat) (x : UnitCore) : (s.setUnit d u x).granted = s.granted := rfl
@[simp] theorem State.setUnit_jobs (d u : Nat) (x : UnitCore) : (s.setUnit d u x).jobs = s.jobs := rfl
@[simp] theorem State.setUnit_gates (d u : Nat) (x : UnitCore) : (s.setUnit d u x).gates = s.gates := rfl
@[simp] theorem State.setUnit_cplWait (d u : Nat) (x : UnitCore) : (s.setUnit d u x).cplWait = s.cplWait := rfl
@[simp] theorem State.setUnit_hostPorts (d u : Nat) (x : UnitCore) : (s.setUnit d u x).hostPorts = s.hostPorts := rfl
@[simp] theorem State.setUnit_sending (d u : Nat) (x : UnitCore) : (s.setUnit d u x).sending = s.sending := rfl
@[simp] theorem State.setUnit_absentDue (d u : Nat) (x : UnitCore) : (s.setUnit d u x).absentDue = s.absentDue := rfl
@[simp] theorem State.setUnit_floorCause (d u : Nat) (x : UnitCore) : (s.setUnit d u x).floorCause = s.floorCause := rfl
@[simp] theorem State.setUnit_actions (d u : Nat) (x : UnitCore) : (s.setUnit d u x).actions = s.actions := rfl
@[simp] theorem State.setUnit_windows (d u : Nat) (x : UnitCore) : (s.setUnit d u x).windows = s.windows := rfl
@[simp] theorem State.setUnit_hwFences (d u : Nat) (x : UnitCore) : (s.setUnit d u x).hwFences = s.hwFences := rfl
@[simp] theorem State.setUnit_secondFences (d u : Nat) (x : UnitCore) : (s.setUnit d u x).secondFences = s.secondFences := rfl
@[simp] theorem State.setUnit_fieldEvents (d u : Nat) (x : UnitCore) : (s.setUnit d u x).fieldEvents = s.fieldEvents := rfl
@[simp] theorem State.setUnit_samplers (d u : Nat) (x : UnitCore) : (s.setUnit d u x).samplers = s.samplers := rfl
@[simp] theorem State.setUnit_markerSeq (d u : Nat) (x : UnitCore) : (s.setUnit d u x).markerSeq = s.markerSeq := rfl
@[simp] theorem State.setUnit_tokens (d u : Nat) (x : UnitCore) : (s.setUnit d u x).tokens = s.tokens := rfl
@[simp] theorem State.setUnit_hostOut (d u : Nat) (x : UnitCore) : (s.setUnit d u x).hostOut = s.hostOut := rfl
@[simp] theorem State.setUnit_free (d u : Nat) (x : UnitCore) : (s.setUnit d u x).free = s.free := rfl
@[simp] theorem State.setUnit_spareDue (d u : Nat) (x : UnitCore) : (s.setUnit d u x).spareDue = s.spareDue := rfl
@[simp] theorem State.setUnit_badSpares (d u : Nat) (x : UnitCore) : (s.setUnit d u x).badSpares = s.badSpares := rfl
@[simp] theorem State.setUnit_groups (d u : Nat) (x : UnitCore) : (s.setUnit d u x).groups = s.groups := rfl
@[simp] theorem State.setUnit_nextGroup (d u : Nat) (x : UnitCore) : (s.setUnit d u x).nextGroup = s.nextGroup := rfl
@[simp] theorem State.setUnit_links (d u : Nat) (x : UnitCore) : (s.setUnit d u x).links = s.links := rfl
@[simp] theorem State.setUnit_sentItems (d u : Nat) (x : UnitCore) : (s.setUnit d u x).sentItems = s.sentItems := rfl
@[simp] theorem State.setUnit_sentFrames (d u : Nat) (x : UnitCore) : (s.setUnit d u x).sentFrames = s.sentFrames := rfl
@[simp] theorem State.setUnit_clx (d u : Nat) (x : UnitCore) : (s.setUnit d u x).clx = s.clx := rfl
@[simp] theorem State.setUnit_fig (d u : Nat) (x : UnitCore) : (s.setUnit d u x).fig = s.fig := rfl
@[simp] theorem State.setUnit_snp (d u : Nat) (x : UnitCore) : (s.setUnit d u x).snp = s.snp := rfl
@[simp] theorem State.setUnit_relocking (d u : Nat) (x : UnitCore) : (s.setUnit d u x).relocking = s.relocking := rfl
@[simp] theorem State.setUnit_diagLost (d u : Nat) (x : UnitCore) : (s.setUnit d u x).diagLost = s.diagLost := rfl
@[simp] theorem State.setUnit_fuses (d u : Nat) (x : UnitCore) : (s.setUnit d u x).fuses = s.fuses := rfl
@[simp] theorem State.setUnit_fatal (d u : Nat) (x : UnitCore) : (s.setUnit d u x).fatal = s.fatal := rfl
@[simp] theorem State.setUnit_degraded (d u : Nat) (x : UnitCore) : (s.setUnit d u x).degraded = s.degraded := rfl
@[simp] theorem State.setUnit_retireDue (d u : Nat) (x : UnitCore) : (s.setUnit d u x).retireDue = s.retireDue := rfl
@[simp] theorem State.setUnit_bundles (d u : Nat) (x : UnitCore) : (s.setUnit d u x).bundles = s.bundles := rfl
@[simp] theorem State.setUnit_moved (d u : Nat) (x : UnitCore) : (s.setUnit d u x).moved = s.moved := rfl
@[simp] theorem State.setUnit_parts (d u : Nat) (x : UnitCore) : (s.setUnit d u x).parts = s.parts := rfl
@[simp] theorem State.setUnit_crossing (d u : Nat) (x : UnitCore) : (s.setUnit d u x).crossing = s.crossing := rfl
@[simp] theorem State.setUnit_startCount (d u : Nat) (x : UnitCore) : (s.setUnit d u x).startCount = s.startCount := rfl
@[simp] theorem State.setUnit_record (d u : Nat) (x : UnitCore) : (s.setUnit d u x).record = s.record := rfl
@[simp] theorem State.setUnit_inForce (d u : Nat) (x : UnitCore) : (s.setUnit d u x).inForce = s.inForce := rfl
@[simp] theorem State.setUnit_found (d u : Nat) (x : UnitCore) : (s.setUnit d u x).found = s.found := rfl
@[simp] theorem State.setUnit_tallied (d u : Nat) (x : UnitCore) : (s.setUnit d u x).tallied = s.tallied := rfl
@[simp] theorem State.setUnit_i3c (d u : Nat) (x : UnitCore) : (s.setUnit d u x).i3c = s.i3c := rfl
@[simp] theorem State.setUnit_perhal (d u : Nat) (x : UnitCore) : (s.setUnit d u x).perhal = s.perhal := rfl
@[simp] theorem State.setUnit_thermal (d u : Nat) (x : UnitCore) : (s.setUnit d u x).thermal = s.thermal := rfl
@[simp] theorem State.setUnit_paused (d u : Nat) (x : UnitCore) : (s.setUnit d u x).paused = s.paused := rfl

/-! `tell` changes `hostOut`. -/

@[simp] theorem State.tell_pending (m : HostMsg) : (s.tell m).pending = s.pending := rfl
@[simp] theorem State.tell_regs (m : HostMsg) : (s.tell m).regs = s.regs := rfl
@[simp] theorem State.tell_mem (m : HostMsg) : (s.tell m).mem = s.mem := rfl
@[simp] theorem State.tell_poison (m : HostMsg) : (s.tell m).poison = s.poison := rfl
@[simp] theorem State.tell_fencedPch (m : HostMsg) : (s.tell m).fencedPch = s.fencedPch := rfl
@[simp] theorem State.tell_fencedStg (m : HostMsg) : (s.tell m).fencedStg = s.fencedStg := rfl
@[simp] theorem State.tell_fencedWbf (m : HostMsg) : (s.tell m).fencedWbf = s.fencedWbf := rfl
@[simp] theorem State.tell_lostGen (m : HostMsg) : (s.tell m).lostGen = s.lostGen := rfl
@[simp] theorem State.tell_lostSet (m : HostMsg) : (s.tell m).lostSet = s.lostSet := rfl
@[simp] theorem State.tell_pages (m : HostMsg) : (s.tell m).pages = s.pages := rfl
@[simp] theorem State.tell_heldWrites (m : HostMsg) : (s.tell m).heldWrites = s.heldWrites := rfl
@[simp] theorem State.tell_preserving (m : HostMsg) : (s.tell m).preserving = s.preserving := rfl
@[simp] theorem State.tell_retiring (m : HostMsg) : (s.tell m).retiring = s.retiring := rfl
@[simp] theorem State.tell_ceCounts (m : HostMsg) : (s.tell m).ceCounts = s.ceCounts := rfl
@[simp] theorem State.tell_ceFired (m : HostMsg) : (s.tell m).ceFired = s.ceFired := rfl
@[simp] theorem State.tell_cells (m : HostMsg) : (s.tell m).cells = s.cells := rfl
@[simp] theorem State.tell_waits (m : HostMsg) : (s.tell m).waits = s.waits := rfl
@[simp] theorem State.tell_queues (m : HostMsg) : (s.tell m).queues = s.queues := rfl
@[simp] theorem State.tell_arrivals (m : HostMsg) : (s.tell m).arrivals = s.arrivals := rfl
@[simp] theorem State.tell_chosen (m : HostMsg) : (s.tell m).chosen = s.chosen := rfl
@[simp] theorem State.tell_cmds (m : HostMsg) : (s.tell m).cmds = s.cmds := rfl
@[simp] theorem State.tell_nextId (m : HostMsg) : (s.tell m).nextId = s.nextId := rfl
@[simp] theorem State.tell_claims (m : HostMsg) : (s.tell m).claims = s.claims := rfl
@[simp] theorem State.tell_granted (m : HostMsg) : (s.tell m).granted = s.granted := rfl
@[simp] theorem State.tell_jobs (m : HostMsg) : (s.tell m).jobs = s.jobs := rfl
@[simp] theorem State.tell_gates (m : HostMsg) : (s.tell m).gates = s.gates := rfl
@[simp] theorem State.tell_cplWait (m : HostMsg) : (s.tell m).cplWait = s.cplWait := rfl
@[simp] theorem State.tell_hostPorts (m : HostMsg) : (s.tell m).hostPorts = s.hostPorts := rfl
@[simp] theorem State.tell_sending (m : HostMsg) : (s.tell m).sending = s.sending := rfl
@[simp] theorem State.tell_absentDue (m : HostMsg) : (s.tell m).absentDue = s.absentDue := rfl
@[simp] theorem State.tell_floorCause (m : HostMsg) : (s.tell m).floorCause = s.floorCause := rfl
@[simp] theorem State.tell_actions (m : HostMsg) : (s.tell m).actions = s.actions := rfl
@[simp] theorem State.tell_windows (m : HostMsg) : (s.tell m).windows = s.windows := rfl
@[simp] theorem State.tell_hwFences (m : HostMsg) : (s.tell m).hwFences = s.hwFences := rfl
@[simp] theorem State.tell_secondFences (m : HostMsg) : (s.tell m).secondFences = s.secondFences := rfl
@[simp] theorem State.tell_fieldEvents (m : HostMsg) : (s.tell m).fieldEvents = s.fieldEvents := rfl
@[simp] theorem State.tell_samplers (m : HostMsg) : (s.tell m).samplers = s.samplers := rfl
@[simp] theorem State.tell_markerSeq (m : HostMsg) : (s.tell m).markerSeq = s.markerSeq := rfl
@[simp] theorem State.tell_tokens (m : HostMsg) : (s.tell m).tokens = s.tokens := rfl
@[simp] theorem State.tell_free (m : HostMsg) : (s.tell m).free = s.free := rfl
@[simp] theorem State.tell_spareDue (m : HostMsg) : (s.tell m).spareDue = s.spareDue := rfl
@[simp] theorem State.tell_badSpares (m : HostMsg) : (s.tell m).badSpares = s.badSpares := rfl
@[simp] theorem State.tell_units (m : HostMsg) : (s.tell m).units = s.units := rfl
@[simp] theorem State.tell_groups (m : HostMsg) : (s.tell m).groups = s.groups := rfl
@[simp] theorem State.tell_nextGroup (m : HostMsg) : (s.tell m).nextGroup = s.nextGroup := rfl
@[simp] theorem State.tell_links (m : HostMsg) : (s.tell m).links = s.links := rfl
@[simp] theorem State.tell_sentItems (m : HostMsg) : (s.tell m).sentItems = s.sentItems := rfl
@[simp] theorem State.tell_sentFrames (m : HostMsg) : (s.tell m).sentFrames = s.sentFrames := rfl
@[simp] theorem State.tell_clx (m : HostMsg) : (s.tell m).clx = s.clx := rfl
@[simp] theorem State.tell_fig (m : HostMsg) : (s.tell m).fig = s.fig := rfl
@[simp] theorem State.tell_snp (m : HostMsg) : (s.tell m).snp = s.snp := rfl
@[simp] theorem State.tell_relocking (m : HostMsg) : (s.tell m).relocking = s.relocking := rfl
@[simp] theorem State.tell_diagLost (m : HostMsg) : (s.tell m).diagLost = s.diagLost := rfl
@[simp] theorem State.tell_fuses (m : HostMsg) : (s.tell m).fuses = s.fuses := rfl
@[simp] theorem State.tell_fatal (m : HostMsg) : (s.tell m).fatal = s.fatal := rfl
@[simp] theorem State.tell_degraded (m : HostMsg) : (s.tell m).degraded = s.degraded := rfl
@[simp] theorem State.tell_retireDue (m : HostMsg) : (s.tell m).retireDue = s.retireDue := rfl
@[simp] theorem State.tell_bundles (m : HostMsg) : (s.tell m).bundles = s.bundles := rfl
@[simp] theorem State.tell_moved (m : HostMsg) : (s.tell m).moved = s.moved := rfl
@[simp] theorem State.tell_parts (m : HostMsg) : (s.tell m).parts = s.parts := rfl
@[simp] theorem State.tell_crossing (m : HostMsg) : (s.tell m).crossing = s.crossing := rfl
@[simp] theorem State.tell_startCount (m : HostMsg) : (s.tell m).startCount = s.startCount := rfl
@[simp] theorem State.tell_record (m : HostMsg) : (s.tell m).record = s.record := rfl
@[simp] theorem State.tell_inForce (m : HostMsg) : (s.tell m).inForce = s.inForce := rfl
@[simp] theorem State.tell_found (m : HostMsg) : (s.tell m).found = s.found := rfl
@[simp] theorem State.tell_tallied (m : HostMsg) : (s.tell m).tallied = s.tallied := rfl
@[simp] theorem State.tell_i3c (m : HostMsg) : (s.tell m).i3c = s.i3c := rfl
@[simp] theorem State.tell_perhal (m : HostMsg) : (s.tell m).perhal = s.perhal := rfl
@[simp] theorem State.tell_thermal (m : HostMsg) : (s.tell m).thermal = s.thermal := rfl
@[simp] theorem State.tell_paused (m : HostMsg) : (s.tell m).paused = s.paused := rfl

/-! `mapCmd` changes `cmds`. -/

@[simp] theorem State.mapCmd_pending (i : Nat) (f : Cmd → Cmd) : (s.mapCmd i f).pending = s.pending := rfl
@[simp] theorem State.mapCmd_regs (i : Nat) (f : Cmd → Cmd) : (s.mapCmd i f).regs = s.regs := rfl
@[simp] theorem State.mapCmd_mem (i : Nat) (f : Cmd → Cmd) : (s.mapCmd i f).mem = s.mem := rfl
@[simp] theorem State.mapCmd_poison (i : Nat) (f : Cmd → Cmd) : (s.mapCmd i f).poison = s.poison := rfl
@[simp] theorem State.mapCmd_fencedPch (i : Nat) (f : Cmd → Cmd) : (s.mapCmd i f).fencedPch = s.fencedPch := rfl
@[simp] theorem State.mapCmd_fencedStg (i : Nat) (f : Cmd → Cmd) : (s.mapCmd i f).fencedStg = s.fencedStg := rfl
@[simp] theorem State.mapCmd_fencedWbf (i : Nat) (f : Cmd → Cmd) : (s.mapCmd i f).fencedWbf = s.fencedWbf := rfl
@[simp] theorem State.mapCmd_lostGen (i : Nat) (f : Cmd → Cmd) : (s.mapCmd i f).lostGen = s.lostGen := rfl
@[simp] theorem State.mapCmd_lostSet (i : Nat) (f : Cmd → Cmd) : (s.mapCmd i f).lostSet = s.lostSet := rfl
@[simp] theorem State.mapCmd_pages (i : Nat) (f : Cmd → Cmd) : (s.mapCmd i f).pages = s.pages := rfl
@[simp] theorem State.mapCmd_heldWrites (i : Nat) (f : Cmd → Cmd) : (s.mapCmd i f).heldWrites = s.heldWrites := rfl
@[simp] theorem State.mapCmd_preserving (i : Nat) (f : Cmd → Cmd) : (s.mapCmd i f).preserving = s.preserving := rfl
@[simp] theorem State.mapCmd_retiring (i : Nat) (f : Cmd → Cmd) : (s.mapCmd i f).retiring = s.retiring := rfl
@[simp] theorem State.mapCmd_ceCounts (i : Nat) (f : Cmd → Cmd) : (s.mapCmd i f).ceCounts = s.ceCounts := rfl
@[simp] theorem State.mapCmd_ceFired (i : Nat) (f : Cmd → Cmd) : (s.mapCmd i f).ceFired = s.ceFired := rfl
@[simp] theorem State.mapCmd_cells (i : Nat) (f : Cmd → Cmd) : (s.mapCmd i f).cells = s.cells := rfl
@[simp] theorem State.mapCmd_waits (i : Nat) (f : Cmd → Cmd) : (s.mapCmd i f).waits = s.waits := rfl
@[simp] theorem State.mapCmd_queues (i : Nat) (f : Cmd → Cmd) : (s.mapCmd i f).queues = s.queues := rfl
@[simp] theorem State.mapCmd_arrivals (i : Nat) (f : Cmd → Cmd) : (s.mapCmd i f).arrivals = s.arrivals := rfl
@[simp] theorem State.mapCmd_chosen (i : Nat) (f : Cmd → Cmd) : (s.mapCmd i f).chosen = s.chosen := rfl
@[simp] theorem State.mapCmd_nextId (i : Nat) (f : Cmd → Cmd) : (s.mapCmd i f).nextId = s.nextId := rfl
@[simp] theorem State.mapCmd_claims (i : Nat) (f : Cmd → Cmd) : (s.mapCmd i f).claims = s.claims := rfl
@[simp] theorem State.mapCmd_granted (i : Nat) (f : Cmd → Cmd) : (s.mapCmd i f).granted = s.granted := rfl
@[simp] theorem State.mapCmd_jobs (i : Nat) (f : Cmd → Cmd) : (s.mapCmd i f).jobs = s.jobs := rfl
@[simp] theorem State.mapCmd_gates (i : Nat) (f : Cmd → Cmd) : (s.mapCmd i f).gates = s.gates := rfl
@[simp] theorem State.mapCmd_cplWait (i : Nat) (f : Cmd → Cmd) : (s.mapCmd i f).cplWait = s.cplWait := rfl
@[simp] theorem State.mapCmd_hostPorts (i : Nat) (f : Cmd → Cmd) : (s.mapCmd i f).hostPorts = s.hostPorts := rfl
@[simp] theorem State.mapCmd_sending (i : Nat) (f : Cmd → Cmd) : (s.mapCmd i f).sending = s.sending := rfl
@[simp] theorem State.mapCmd_absentDue (i : Nat) (f : Cmd → Cmd) : (s.mapCmd i f).absentDue = s.absentDue := rfl
@[simp] theorem State.mapCmd_floorCause (i : Nat) (f : Cmd → Cmd) : (s.mapCmd i f).floorCause = s.floorCause := rfl
@[simp] theorem State.mapCmd_actions (i : Nat) (f : Cmd → Cmd) : (s.mapCmd i f).actions = s.actions := rfl
@[simp] theorem State.mapCmd_windows (i : Nat) (f : Cmd → Cmd) : (s.mapCmd i f).windows = s.windows := rfl
@[simp] theorem State.mapCmd_hwFences (i : Nat) (f : Cmd → Cmd) : (s.mapCmd i f).hwFences = s.hwFences := rfl
@[simp] theorem State.mapCmd_secondFences (i : Nat) (f : Cmd → Cmd) : (s.mapCmd i f).secondFences = s.secondFences := rfl
@[simp] theorem State.mapCmd_fieldEvents (i : Nat) (f : Cmd → Cmd) : (s.mapCmd i f).fieldEvents = s.fieldEvents := rfl
@[simp] theorem State.mapCmd_samplers (i : Nat) (f : Cmd → Cmd) : (s.mapCmd i f).samplers = s.samplers := rfl
@[simp] theorem State.mapCmd_markerSeq (i : Nat) (f : Cmd → Cmd) : (s.mapCmd i f).markerSeq = s.markerSeq := rfl
@[simp] theorem State.mapCmd_tokens (i : Nat) (f : Cmd → Cmd) : (s.mapCmd i f).tokens = s.tokens := rfl
@[simp] theorem State.mapCmd_hostOut (i : Nat) (f : Cmd → Cmd) : (s.mapCmd i f).hostOut = s.hostOut := rfl
@[simp] theorem State.mapCmd_free (i : Nat) (f : Cmd → Cmd) : (s.mapCmd i f).free = s.free := rfl
@[simp] theorem State.mapCmd_spareDue (i : Nat) (f : Cmd → Cmd) : (s.mapCmd i f).spareDue = s.spareDue := rfl
@[simp] theorem State.mapCmd_badSpares (i : Nat) (f : Cmd → Cmd) : (s.mapCmd i f).badSpares = s.badSpares := rfl
@[simp] theorem State.mapCmd_units (i : Nat) (f : Cmd → Cmd) : (s.mapCmd i f).units = s.units := rfl
@[simp] theorem State.mapCmd_groups (i : Nat) (f : Cmd → Cmd) : (s.mapCmd i f).groups = s.groups := rfl
@[simp] theorem State.mapCmd_nextGroup (i : Nat) (f : Cmd → Cmd) : (s.mapCmd i f).nextGroup = s.nextGroup := rfl
@[simp] theorem State.mapCmd_links (i : Nat) (f : Cmd → Cmd) : (s.mapCmd i f).links = s.links := rfl
@[simp] theorem State.mapCmd_sentItems (i : Nat) (f : Cmd → Cmd) : (s.mapCmd i f).sentItems = s.sentItems := rfl
@[simp] theorem State.mapCmd_sentFrames (i : Nat) (f : Cmd → Cmd) : (s.mapCmd i f).sentFrames = s.sentFrames := rfl
@[simp] theorem State.mapCmd_clx (i : Nat) (f : Cmd → Cmd) : (s.mapCmd i f).clx = s.clx := rfl
@[simp] theorem State.mapCmd_fig (i : Nat) (f : Cmd → Cmd) : (s.mapCmd i f).fig = s.fig := rfl
@[simp] theorem State.mapCmd_snp (i : Nat) (f : Cmd → Cmd) : (s.mapCmd i f).snp = s.snp := rfl
@[simp] theorem State.mapCmd_relocking (i : Nat) (f : Cmd → Cmd) : (s.mapCmd i f).relocking = s.relocking := rfl
@[simp] theorem State.mapCmd_diagLost (i : Nat) (f : Cmd → Cmd) : (s.mapCmd i f).diagLost = s.diagLost := rfl
@[simp] theorem State.mapCmd_fuses (i : Nat) (f : Cmd → Cmd) : (s.mapCmd i f).fuses = s.fuses := rfl
@[simp] theorem State.mapCmd_fatal (i : Nat) (f : Cmd → Cmd) : (s.mapCmd i f).fatal = s.fatal := rfl
@[simp] theorem State.mapCmd_degraded (i : Nat) (f : Cmd → Cmd) : (s.mapCmd i f).degraded = s.degraded := rfl
@[simp] theorem State.mapCmd_retireDue (i : Nat) (f : Cmd → Cmd) : (s.mapCmd i f).retireDue = s.retireDue := rfl
@[simp] theorem State.mapCmd_bundles (i : Nat) (f : Cmd → Cmd) : (s.mapCmd i f).bundles = s.bundles := rfl
@[simp] theorem State.mapCmd_moved (i : Nat) (f : Cmd → Cmd) : (s.mapCmd i f).moved = s.moved := rfl
@[simp] theorem State.mapCmd_parts (i : Nat) (f : Cmd → Cmd) : (s.mapCmd i f).parts = s.parts := rfl
@[simp] theorem State.mapCmd_crossing (i : Nat) (f : Cmd → Cmd) : (s.mapCmd i f).crossing = s.crossing := rfl
@[simp] theorem State.mapCmd_startCount (i : Nat) (f : Cmd → Cmd) : (s.mapCmd i f).startCount = s.startCount := rfl
@[simp] theorem State.mapCmd_record (i : Nat) (f : Cmd → Cmd) : (s.mapCmd i f).record = s.record := rfl
@[simp] theorem State.mapCmd_inForce (i : Nat) (f : Cmd → Cmd) : (s.mapCmd i f).inForce = s.inForce := rfl
@[simp] theorem State.mapCmd_found (i : Nat) (f : Cmd → Cmd) : (s.mapCmd i f).found = s.found := rfl
@[simp] theorem State.mapCmd_tallied (i : Nat) (f : Cmd → Cmd) : (s.mapCmd i f).tallied = s.tallied := rfl
@[simp] theorem State.mapCmd_i3c (i : Nat) (f : Cmd → Cmd) : (s.mapCmd i f).i3c = s.i3c := rfl
@[simp] theorem State.mapCmd_perhal (i : Nat) (f : Cmd → Cmd) : (s.mapCmd i f).perhal = s.perhal := rfl
@[simp] theorem State.mapCmd_thermal (i : Nat) (f : Cmd → Cmd) : (s.mapCmd i f).thermal = s.thermal := rfl
@[simp] theorem State.mapCmd_paused (i : Nat) (f : Cmd → Cmd) : (s.mapCmd i f).paused = s.paused := rfl

/-! `setMoved` changes `moved`. -/

@[simp] theorem State.setMoved_pending (k : Nat) (l : List Kept) : (s.setMoved k l).pending = s.pending := rfl
@[simp] theorem State.setMoved_regs (k : Nat) (l : List Kept) : (s.setMoved k l).regs = s.regs := rfl
@[simp] theorem State.setMoved_mem (k : Nat) (l : List Kept) : (s.setMoved k l).mem = s.mem := rfl
@[simp] theorem State.setMoved_poison (k : Nat) (l : List Kept) : (s.setMoved k l).poison = s.poison := rfl
@[simp] theorem State.setMoved_fencedPch (k : Nat) (l : List Kept) : (s.setMoved k l).fencedPch = s.fencedPch := rfl
@[simp] theorem State.setMoved_fencedStg (k : Nat) (l : List Kept) : (s.setMoved k l).fencedStg = s.fencedStg := rfl
@[simp] theorem State.setMoved_fencedWbf (k : Nat) (l : List Kept) : (s.setMoved k l).fencedWbf = s.fencedWbf := rfl
@[simp] theorem State.setMoved_lostGen (k : Nat) (l : List Kept) : (s.setMoved k l).lostGen = s.lostGen := rfl
@[simp] theorem State.setMoved_lostSet (k : Nat) (l : List Kept) : (s.setMoved k l).lostSet = s.lostSet := rfl
@[simp] theorem State.setMoved_pages (k : Nat) (l : List Kept) : (s.setMoved k l).pages = s.pages := rfl
@[simp] theorem State.setMoved_heldWrites (k : Nat) (l : List Kept) : (s.setMoved k l).heldWrites = s.heldWrites := rfl
@[simp] theorem State.setMoved_preserving (k : Nat) (l : List Kept) : (s.setMoved k l).preserving = s.preserving := rfl
@[simp] theorem State.setMoved_retiring (k : Nat) (l : List Kept) : (s.setMoved k l).retiring = s.retiring := rfl
@[simp] theorem State.setMoved_ceCounts (k : Nat) (l : List Kept) : (s.setMoved k l).ceCounts = s.ceCounts := rfl
@[simp] theorem State.setMoved_ceFired (k : Nat) (l : List Kept) : (s.setMoved k l).ceFired = s.ceFired := rfl
@[simp] theorem State.setMoved_cells (k : Nat) (l : List Kept) : (s.setMoved k l).cells = s.cells := rfl
@[simp] theorem State.setMoved_waits (k : Nat) (l : List Kept) : (s.setMoved k l).waits = s.waits := rfl
@[simp] theorem State.setMoved_queues (k : Nat) (l : List Kept) : (s.setMoved k l).queues = s.queues := rfl
@[simp] theorem State.setMoved_arrivals (k : Nat) (l : List Kept) : (s.setMoved k l).arrivals = s.arrivals := rfl
@[simp] theorem State.setMoved_chosen (k : Nat) (l : List Kept) : (s.setMoved k l).chosen = s.chosen := rfl
@[simp] theorem State.setMoved_cmds (k : Nat) (l : List Kept) : (s.setMoved k l).cmds = s.cmds := rfl
@[simp] theorem State.setMoved_nextId (k : Nat) (l : List Kept) : (s.setMoved k l).nextId = s.nextId := rfl
@[simp] theorem State.setMoved_claims (k : Nat) (l : List Kept) : (s.setMoved k l).claims = s.claims := rfl
@[simp] theorem State.setMoved_granted (k : Nat) (l : List Kept) : (s.setMoved k l).granted = s.granted := rfl
@[simp] theorem State.setMoved_jobs (k : Nat) (l : List Kept) : (s.setMoved k l).jobs = s.jobs := rfl
@[simp] theorem State.setMoved_gates (k : Nat) (l : List Kept) : (s.setMoved k l).gates = s.gates := rfl
@[simp] theorem State.setMoved_cplWait (k : Nat) (l : List Kept) : (s.setMoved k l).cplWait = s.cplWait := rfl
@[simp] theorem State.setMoved_hostPorts (k : Nat) (l : List Kept) : (s.setMoved k l).hostPorts = s.hostPorts := rfl
@[simp] theorem State.setMoved_sending (k : Nat) (l : List Kept) : (s.setMoved k l).sending = s.sending := rfl
@[simp] theorem State.setMoved_absentDue (k : Nat) (l : List Kept) : (s.setMoved k l).absentDue = s.absentDue := rfl
@[simp] theorem State.setMoved_floorCause (k : Nat) (l : List Kept) : (s.setMoved k l).floorCause = s.floorCause := rfl
@[simp] theorem State.setMoved_actions (k : Nat) (l : List Kept) : (s.setMoved k l).actions = s.actions := rfl
@[simp] theorem State.setMoved_windows (k : Nat) (l : List Kept) : (s.setMoved k l).windows = s.windows := rfl
@[simp] theorem State.setMoved_hwFences (k : Nat) (l : List Kept) : (s.setMoved k l).hwFences = s.hwFences := rfl
@[simp] theorem State.setMoved_secondFences (k : Nat) (l : List Kept) : (s.setMoved k l).secondFences = s.secondFences := rfl
@[simp] theorem State.setMoved_fieldEvents (k : Nat) (l : List Kept) : (s.setMoved k l).fieldEvents = s.fieldEvents := rfl
@[simp] theorem State.setMoved_samplers (k : Nat) (l : List Kept) : (s.setMoved k l).samplers = s.samplers := rfl
@[simp] theorem State.setMoved_markerSeq (k : Nat) (l : List Kept) : (s.setMoved k l).markerSeq = s.markerSeq := rfl
@[simp] theorem State.setMoved_tokens (k : Nat) (l : List Kept) : (s.setMoved k l).tokens = s.tokens := rfl
@[simp] theorem State.setMoved_hostOut (k : Nat) (l : List Kept) : (s.setMoved k l).hostOut = s.hostOut := rfl
@[simp] theorem State.setMoved_free (k : Nat) (l : List Kept) : (s.setMoved k l).free = s.free := rfl
@[simp] theorem State.setMoved_spareDue (k : Nat) (l : List Kept) : (s.setMoved k l).spareDue = s.spareDue := rfl
@[simp] theorem State.setMoved_badSpares (k : Nat) (l : List Kept) : (s.setMoved k l).badSpares = s.badSpares := rfl
@[simp] theorem State.setMoved_units (k : Nat) (l : List Kept) : (s.setMoved k l).units = s.units := rfl
@[simp] theorem State.setMoved_groups (k : Nat) (l : List Kept) : (s.setMoved k l).groups = s.groups := rfl
@[simp] theorem State.setMoved_nextGroup (k : Nat) (l : List Kept) : (s.setMoved k l).nextGroup = s.nextGroup := rfl
@[simp] theorem State.setMoved_links (k : Nat) (l : List Kept) : (s.setMoved k l).links = s.links := rfl
@[simp] theorem State.setMoved_sentItems (k : Nat) (l : List Kept) : (s.setMoved k l).sentItems = s.sentItems := rfl
@[simp] theorem State.setMoved_sentFrames (k : Nat) (l : List Kept) : (s.setMoved k l).sentFrames = s.sentFrames := rfl
@[simp] theorem State.setMoved_clx (k : Nat) (l : List Kept) : (s.setMoved k l).clx = s.clx := rfl
@[simp] theorem State.setMoved_fig (k : Nat) (l : List Kept) : (s.setMoved k l).fig = s.fig := rfl
@[simp] theorem State.setMoved_snp (k : Nat) (l : List Kept) : (s.setMoved k l).snp = s.snp := rfl
@[simp] theorem State.setMoved_relocking (k : Nat) (l : List Kept) : (s.setMoved k l).relocking = s.relocking := rfl
@[simp] theorem State.setMoved_diagLost (k : Nat) (l : List Kept) : (s.setMoved k l).diagLost = s.diagLost := rfl
@[simp] theorem State.setMoved_fuses (k : Nat) (l : List Kept) : (s.setMoved k l).fuses = s.fuses := rfl
@[simp] theorem State.setMoved_fatal (k : Nat) (l : List Kept) : (s.setMoved k l).fatal = s.fatal := rfl
@[simp] theorem State.setMoved_degraded (k : Nat) (l : List Kept) : (s.setMoved k l).degraded = s.degraded := rfl
@[simp] theorem State.setMoved_retireDue (k : Nat) (l : List Kept) : (s.setMoved k l).retireDue = s.retireDue := rfl
@[simp] theorem State.setMoved_bundles (k : Nat) (l : List Kept) : (s.setMoved k l).bundles = s.bundles := rfl
@[simp] theorem State.setMoved_parts (k : Nat) (l : List Kept) : (s.setMoved k l).parts = s.parts := rfl
@[simp] theorem State.setMoved_crossing (k : Nat) (l : List Kept) : (s.setMoved k l).crossing = s.crossing := rfl
@[simp] theorem State.setMoved_startCount (k : Nat) (l : List Kept) : (s.setMoved k l).startCount = s.startCount := rfl
@[simp] theorem State.setMoved_record (k : Nat) (l : List Kept) : (s.setMoved k l).record = s.record := rfl
@[simp] theorem State.setMoved_inForce (k : Nat) (l : List Kept) : (s.setMoved k l).inForce = s.inForce := rfl
@[simp] theorem State.setMoved_found (k : Nat) (l : List Kept) : (s.setMoved k l).found = s.found := rfl
@[simp] theorem State.setMoved_tallied (k : Nat) (l : List Kept) : (s.setMoved k l).tallied = s.tallied := rfl
@[simp] theorem State.setMoved_i3c (k : Nat) (l : List Kept) : (s.setMoved k l).i3c = s.i3c := rfl
@[simp] theorem State.setMoved_perhal (k : Nat) (l : List Kept) : (s.setMoved k l).perhal = s.perhal := rfl
@[simp] theorem State.setMoved_thermal (k : Nat) (l : List Kept) : (s.setMoved k l).thermal = s.thermal := rfl
@[simp] theorem State.setMoved_paused (k : Nat) (l : List Kept) : (s.setMoved k l).paused = s.paused := rfl

/-! `setPart` changes `parts`. -/

@[simp] theorem State.setPart_pending (d b : Nat) (p : Nat × Nat) : (s.setPart d b p).pending = s.pending := rfl
@[simp] theorem State.setPart_regs (d b : Nat) (p : Nat × Nat) : (s.setPart d b p).regs = s.regs := rfl
@[simp] theorem State.setPart_mem (d b : Nat) (p : Nat × Nat) : (s.setPart d b p).mem = s.mem := rfl
@[simp] theorem State.setPart_poison (d b : Nat) (p : Nat × Nat) : (s.setPart d b p).poison = s.poison := rfl
@[simp] theorem State.setPart_fencedPch (d b : Nat) (p : Nat × Nat) : (s.setPart d b p).fencedPch = s.fencedPch := rfl
@[simp] theorem State.setPart_fencedStg (d b : Nat) (p : Nat × Nat) : (s.setPart d b p).fencedStg = s.fencedStg := rfl
@[simp] theorem State.setPart_fencedWbf (d b : Nat) (p : Nat × Nat) : (s.setPart d b p).fencedWbf = s.fencedWbf := rfl
@[simp] theorem State.setPart_lostGen (d b : Nat) (p : Nat × Nat) : (s.setPart d b p).lostGen = s.lostGen := rfl
@[simp] theorem State.setPart_lostSet (d b : Nat) (p : Nat × Nat) : (s.setPart d b p).lostSet = s.lostSet := rfl
@[simp] theorem State.setPart_pages (d b : Nat) (p : Nat × Nat) : (s.setPart d b p).pages = s.pages := rfl
@[simp] theorem State.setPart_heldWrites (d b : Nat) (p : Nat × Nat) : (s.setPart d b p).heldWrites = s.heldWrites := rfl
@[simp] theorem State.setPart_preserving (d b : Nat) (p : Nat × Nat) : (s.setPart d b p).preserving = s.preserving := rfl
@[simp] theorem State.setPart_retiring (d b : Nat) (p : Nat × Nat) : (s.setPart d b p).retiring = s.retiring := rfl
@[simp] theorem State.setPart_ceCounts (d b : Nat) (p : Nat × Nat) : (s.setPart d b p).ceCounts = s.ceCounts := rfl
@[simp] theorem State.setPart_ceFired (d b : Nat) (p : Nat × Nat) : (s.setPart d b p).ceFired = s.ceFired := rfl
@[simp] theorem State.setPart_cells (d b : Nat) (p : Nat × Nat) : (s.setPart d b p).cells = s.cells := rfl
@[simp] theorem State.setPart_waits (d b : Nat) (p : Nat × Nat) : (s.setPart d b p).waits = s.waits := rfl
@[simp] theorem State.setPart_queues (d b : Nat) (p : Nat × Nat) : (s.setPart d b p).queues = s.queues := rfl
@[simp] theorem State.setPart_arrivals (d b : Nat) (p : Nat × Nat) : (s.setPart d b p).arrivals = s.arrivals := rfl
@[simp] theorem State.setPart_chosen (d b : Nat) (p : Nat × Nat) : (s.setPart d b p).chosen = s.chosen := rfl
@[simp] theorem State.setPart_cmds (d b : Nat) (p : Nat × Nat) : (s.setPart d b p).cmds = s.cmds := rfl
@[simp] theorem State.setPart_nextId (d b : Nat) (p : Nat × Nat) : (s.setPart d b p).nextId = s.nextId := rfl
@[simp] theorem State.setPart_claims (d b : Nat) (p : Nat × Nat) : (s.setPart d b p).claims = s.claims := rfl
@[simp] theorem State.setPart_granted (d b : Nat) (p : Nat × Nat) : (s.setPart d b p).granted = s.granted := rfl
@[simp] theorem State.setPart_jobs (d b : Nat) (p : Nat × Nat) : (s.setPart d b p).jobs = s.jobs := rfl
@[simp] theorem State.setPart_gates (d b : Nat) (p : Nat × Nat) : (s.setPart d b p).gates = s.gates := rfl
@[simp] theorem State.setPart_cplWait (d b : Nat) (p : Nat × Nat) : (s.setPart d b p).cplWait = s.cplWait := rfl
@[simp] theorem State.setPart_hostPorts (d b : Nat) (p : Nat × Nat) : (s.setPart d b p).hostPorts = s.hostPorts := rfl
@[simp] theorem State.setPart_sending (d b : Nat) (p : Nat × Nat) : (s.setPart d b p).sending = s.sending := rfl
@[simp] theorem State.setPart_absentDue (d b : Nat) (p : Nat × Nat) : (s.setPart d b p).absentDue = s.absentDue := rfl
@[simp] theorem State.setPart_floorCause (d b : Nat) (p : Nat × Nat) : (s.setPart d b p).floorCause = s.floorCause := rfl
@[simp] theorem State.setPart_actions (d b : Nat) (p : Nat × Nat) : (s.setPart d b p).actions = s.actions := rfl
@[simp] theorem State.setPart_windows (d b : Nat) (p : Nat × Nat) : (s.setPart d b p).windows = s.windows := rfl
@[simp] theorem State.setPart_hwFences (d b : Nat) (p : Nat × Nat) : (s.setPart d b p).hwFences = s.hwFences := rfl
@[simp] theorem State.setPart_secondFences (d b : Nat) (p : Nat × Nat) : (s.setPart d b p).secondFences = s.secondFences := rfl
@[simp] theorem State.setPart_fieldEvents (d b : Nat) (p : Nat × Nat) : (s.setPart d b p).fieldEvents = s.fieldEvents := rfl
@[simp] theorem State.setPart_samplers (d b : Nat) (p : Nat × Nat) : (s.setPart d b p).samplers = s.samplers := rfl
@[simp] theorem State.setPart_markerSeq (d b : Nat) (p : Nat × Nat) : (s.setPart d b p).markerSeq = s.markerSeq := rfl
@[simp] theorem State.setPart_tokens (d b : Nat) (p : Nat × Nat) : (s.setPart d b p).tokens = s.tokens := rfl
@[simp] theorem State.setPart_hostOut (d b : Nat) (p : Nat × Nat) : (s.setPart d b p).hostOut = s.hostOut := rfl
@[simp] theorem State.setPart_free (d b : Nat) (p : Nat × Nat) : (s.setPart d b p).free = s.free := rfl
@[simp] theorem State.setPart_spareDue (d b : Nat) (p : Nat × Nat) : (s.setPart d b p).spareDue = s.spareDue := rfl
@[simp] theorem State.setPart_badSpares (d b : Nat) (p : Nat × Nat) : (s.setPart d b p).badSpares = s.badSpares := rfl
@[simp] theorem State.setPart_units (d b : Nat) (p : Nat × Nat) : (s.setPart d b p).units = s.units := rfl
@[simp] theorem State.setPart_groups (d b : Nat) (p : Nat × Nat) : (s.setPart d b p).groups = s.groups := rfl
@[simp] theorem State.setPart_nextGroup (d b : Nat) (p : Nat × Nat) : (s.setPart d b p).nextGroup = s.nextGroup := rfl
@[simp] theorem State.setPart_links (d b : Nat) (p : Nat × Nat) : (s.setPart d b p).links = s.links := rfl
@[simp] theorem State.setPart_sentItems (d b : Nat) (p : Nat × Nat) : (s.setPart d b p).sentItems = s.sentItems := rfl
@[simp] theorem State.setPart_sentFrames (d b : Nat) (p : Nat × Nat) : (s.setPart d b p).sentFrames = s.sentFrames := rfl
@[simp] theorem State.setPart_clx (d b : Nat) (p : Nat × Nat) : (s.setPart d b p).clx = s.clx := rfl
@[simp] theorem State.setPart_fig (d b : Nat) (p : Nat × Nat) : (s.setPart d b p).fig = s.fig := rfl
@[simp] theorem State.setPart_snp (d b : Nat) (p : Nat × Nat) : (s.setPart d b p).snp = s.snp := rfl
@[simp] theorem State.setPart_relocking (d b : Nat) (p : Nat × Nat) : (s.setPart d b p).relocking = s.relocking := rfl
@[simp] theorem State.setPart_diagLost (d b : Nat) (p : Nat × Nat) : (s.setPart d b p).diagLost = s.diagLost := rfl
@[simp] theorem State.setPart_fuses (d b : Nat) (p : Nat × Nat) : (s.setPart d b p).fuses = s.fuses := rfl
@[simp] theorem State.setPart_fatal (d b : Nat) (p : Nat × Nat) : (s.setPart d b p).fatal = s.fatal := rfl
@[simp] theorem State.setPart_degraded (d b : Nat) (p : Nat × Nat) : (s.setPart d b p).degraded = s.degraded := rfl
@[simp] theorem State.setPart_retireDue (d b : Nat) (p : Nat × Nat) : (s.setPart d b p).retireDue = s.retireDue := rfl
@[simp] theorem State.setPart_bundles (d b : Nat) (p : Nat × Nat) : (s.setPart d b p).bundles = s.bundles := rfl
@[simp] theorem State.setPart_moved (d b : Nat) (p : Nat × Nat) : (s.setPart d b p).moved = s.moved := rfl
@[simp] theorem State.setPart_crossing (d b : Nat) (p : Nat × Nat) : (s.setPart d b p).crossing = s.crossing := rfl
@[simp] theorem State.setPart_startCount (d b : Nat) (p : Nat × Nat) : (s.setPart d b p).startCount = s.startCount := rfl
@[simp] theorem State.setPart_record (d b : Nat) (p : Nat × Nat) : (s.setPart d b p).record = s.record := rfl
@[simp] theorem State.setPart_inForce (d b : Nat) (p : Nat × Nat) : (s.setPart d b p).inForce = s.inForce := rfl
@[simp] theorem State.setPart_found (d b : Nat) (p : Nat × Nat) : (s.setPart d b p).found = s.found := rfl
@[simp] theorem State.setPart_tallied (d b : Nat) (p : Nat × Nat) : (s.setPart d b p).tallied = s.tallied := rfl
@[simp] theorem State.setPart_i3c (d b : Nat) (p : Nat × Nat) : (s.setPart d b p).i3c = s.i3c := rfl
@[simp] theorem State.setPart_perhal (d b : Nat) (p : Nat × Nat) : (s.setPart d b p).perhal = s.perhal := rfl
@[simp] theorem State.setPart_thermal (d b : Nat) (p : Nat × Nat) : (s.setPart d b p).thermal = s.thermal := rfl
@[simp] theorem State.setPart_paused (d b : Nat) (p : Nat × Nat) : (s.setPart d b p).paused = s.paused := rfl

/-! `setCrossed` changes `crossing`. -/

@[simp] theorem State.setCrossed_pending (k : Nat) (l : List Nat) : (s.setCrossed k l).pending = s.pending := rfl
@[simp] theorem State.setCrossed_regs (k : Nat) (l : List Nat) : (s.setCrossed k l).regs = s.regs := rfl
@[simp] theorem State.setCrossed_mem (k : Nat) (l : List Nat) : (s.setCrossed k l).mem = s.mem := rfl
@[simp] theorem State.setCrossed_poison (k : Nat) (l : List Nat) : (s.setCrossed k l).poison = s.poison := rfl
@[simp] theorem State.setCrossed_fencedPch (k : Nat) (l : List Nat) : (s.setCrossed k l).fencedPch = s.fencedPch := rfl
@[simp] theorem State.setCrossed_fencedStg (k : Nat) (l : List Nat) : (s.setCrossed k l).fencedStg = s.fencedStg := rfl
@[simp] theorem State.setCrossed_fencedWbf (k : Nat) (l : List Nat) : (s.setCrossed k l).fencedWbf = s.fencedWbf := rfl
@[simp] theorem State.setCrossed_lostGen (k : Nat) (l : List Nat) : (s.setCrossed k l).lostGen = s.lostGen := rfl
@[simp] theorem State.setCrossed_lostSet (k : Nat) (l : List Nat) : (s.setCrossed k l).lostSet = s.lostSet := rfl
@[simp] theorem State.setCrossed_pages (k : Nat) (l : List Nat) : (s.setCrossed k l).pages = s.pages := rfl
@[simp] theorem State.setCrossed_heldWrites (k : Nat) (l : List Nat) : (s.setCrossed k l).heldWrites = s.heldWrites := rfl
@[simp] theorem State.setCrossed_preserving (k : Nat) (l : List Nat) : (s.setCrossed k l).preserving = s.preserving := rfl
@[simp] theorem State.setCrossed_retiring (k : Nat) (l : List Nat) : (s.setCrossed k l).retiring = s.retiring := rfl
@[simp] theorem State.setCrossed_ceCounts (k : Nat) (l : List Nat) : (s.setCrossed k l).ceCounts = s.ceCounts := rfl
@[simp] theorem State.setCrossed_ceFired (k : Nat) (l : List Nat) : (s.setCrossed k l).ceFired = s.ceFired := rfl
@[simp] theorem State.setCrossed_cells (k : Nat) (l : List Nat) : (s.setCrossed k l).cells = s.cells := rfl
@[simp] theorem State.setCrossed_waits (k : Nat) (l : List Nat) : (s.setCrossed k l).waits = s.waits := rfl
@[simp] theorem State.setCrossed_queues (k : Nat) (l : List Nat) : (s.setCrossed k l).queues = s.queues := rfl
@[simp] theorem State.setCrossed_arrivals (k : Nat) (l : List Nat) : (s.setCrossed k l).arrivals = s.arrivals := rfl
@[simp] theorem State.setCrossed_chosen (k : Nat) (l : List Nat) : (s.setCrossed k l).chosen = s.chosen := rfl
@[simp] theorem State.setCrossed_cmds (k : Nat) (l : List Nat) : (s.setCrossed k l).cmds = s.cmds := rfl
@[simp] theorem State.setCrossed_nextId (k : Nat) (l : List Nat) : (s.setCrossed k l).nextId = s.nextId := rfl
@[simp] theorem State.setCrossed_claims (k : Nat) (l : List Nat) : (s.setCrossed k l).claims = s.claims := rfl
@[simp] theorem State.setCrossed_granted (k : Nat) (l : List Nat) : (s.setCrossed k l).granted = s.granted := rfl
@[simp] theorem State.setCrossed_jobs (k : Nat) (l : List Nat) : (s.setCrossed k l).jobs = s.jobs := rfl
@[simp] theorem State.setCrossed_gates (k : Nat) (l : List Nat) : (s.setCrossed k l).gates = s.gates := rfl
@[simp] theorem State.setCrossed_cplWait (k : Nat) (l : List Nat) : (s.setCrossed k l).cplWait = s.cplWait := rfl
@[simp] theorem State.setCrossed_hostPorts (k : Nat) (l : List Nat) : (s.setCrossed k l).hostPorts = s.hostPorts := rfl
@[simp] theorem State.setCrossed_sending (k : Nat) (l : List Nat) : (s.setCrossed k l).sending = s.sending := rfl
@[simp] theorem State.setCrossed_absentDue (k : Nat) (l : List Nat) : (s.setCrossed k l).absentDue = s.absentDue := rfl
@[simp] theorem State.setCrossed_floorCause (k : Nat) (l : List Nat) : (s.setCrossed k l).floorCause = s.floorCause := rfl
@[simp] theorem State.setCrossed_actions (k : Nat) (l : List Nat) : (s.setCrossed k l).actions = s.actions := rfl
@[simp] theorem State.setCrossed_windows (k : Nat) (l : List Nat) : (s.setCrossed k l).windows = s.windows := rfl
@[simp] theorem State.setCrossed_hwFences (k : Nat) (l : List Nat) : (s.setCrossed k l).hwFences = s.hwFences := rfl
@[simp] theorem State.setCrossed_secondFences (k : Nat) (l : List Nat) : (s.setCrossed k l).secondFences = s.secondFences := rfl
@[simp] theorem State.setCrossed_fieldEvents (k : Nat) (l : List Nat) : (s.setCrossed k l).fieldEvents = s.fieldEvents := rfl
@[simp] theorem State.setCrossed_samplers (k : Nat) (l : List Nat) : (s.setCrossed k l).samplers = s.samplers := rfl
@[simp] theorem State.setCrossed_markerSeq (k : Nat) (l : List Nat) : (s.setCrossed k l).markerSeq = s.markerSeq := rfl
@[simp] theorem State.setCrossed_tokens (k : Nat) (l : List Nat) : (s.setCrossed k l).tokens = s.tokens := rfl
@[simp] theorem State.setCrossed_hostOut (k : Nat) (l : List Nat) : (s.setCrossed k l).hostOut = s.hostOut := rfl
@[simp] theorem State.setCrossed_free (k : Nat) (l : List Nat) : (s.setCrossed k l).free = s.free := rfl
@[simp] theorem State.setCrossed_spareDue (k : Nat) (l : List Nat) : (s.setCrossed k l).spareDue = s.spareDue := rfl
@[simp] theorem State.setCrossed_badSpares (k : Nat) (l : List Nat) : (s.setCrossed k l).badSpares = s.badSpares := rfl
@[simp] theorem State.setCrossed_units (k : Nat) (l : List Nat) : (s.setCrossed k l).units = s.units := rfl
@[simp] theorem State.setCrossed_groups (k : Nat) (l : List Nat) : (s.setCrossed k l).groups = s.groups := rfl
@[simp] theorem State.setCrossed_nextGroup (k : Nat) (l : List Nat) : (s.setCrossed k l).nextGroup = s.nextGroup := rfl
@[simp] theorem State.setCrossed_links (k : Nat) (l : List Nat) : (s.setCrossed k l).links = s.links := rfl
@[simp] theorem State.setCrossed_sentItems (k : Nat) (l : List Nat) : (s.setCrossed k l).sentItems = s.sentItems := rfl
@[simp] theorem State.setCrossed_sentFrames (k : Nat) (l : List Nat) : (s.setCrossed k l).sentFrames = s.sentFrames := rfl
@[simp] theorem State.setCrossed_clx (k : Nat) (l : List Nat) : (s.setCrossed k l).clx = s.clx := rfl
@[simp] theorem State.setCrossed_fig (k : Nat) (l : List Nat) : (s.setCrossed k l).fig = s.fig := rfl
@[simp] theorem State.setCrossed_snp (k : Nat) (l : List Nat) : (s.setCrossed k l).snp = s.snp := rfl
@[simp] theorem State.setCrossed_relocking (k : Nat) (l : List Nat) : (s.setCrossed k l).relocking = s.relocking := rfl
@[simp] theorem State.setCrossed_diagLost (k : Nat) (l : List Nat) : (s.setCrossed k l).diagLost = s.diagLost := rfl
@[simp] theorem State.setCrossed_fuses (k : Nat) (l : List Nat) : (s.setCrossed k l).fuses = s.fuses := rfl
@[simp] theorem State.setCrossed_fatal (k : Nat) (l : List Nat) : (s.setCrossed k l).fatal = s.fatal := rfl
@[simp] theorem State.setCrossed_degraded (k : Nat) (l : List Nat) : (s.setCrossed k l).degraded = s.degraded := rfl
@[simp] theorem State.setCrossed_retireDue (k : Nat) (l : List Nat) : (s.setCrossed k l).retireDue = s.retireDue := rfl
@[simp] theorem State.setCrossed_bundles (k : Nat) (l : List Nat) : (s.setCrossed k l).bundles = s.bundles := rfl
@[simp] theorem State.setCrossed_moved (k : Nat) (l : List Nat) : (s.setCrossed k l).moved = s.moved := rfl
@[simp] theorem State.setCrossed_parts (k : Nat) (l : List Nat) : (s.setCrossed k l).parts = s.parts := rfl
@[simp] theorem State.setCrossed_startCount (k : Nat) (l : List Nat) : (s.setCrossed k l).startCount = s.startCount := rfl
@[simp] theorem State.setCrossed_record (k : Nat) (l : List Nat) : (s.setCrossed k l).record = s.record := rfl
@[simp] theorem State.setCrossed_inForce (k : Nat) (l : List Nat) : (s.setCrossed k l).inForce = s.inForce := rfl
@[simp] theorem State.setCrossed_found (k : Nat) (l : List Nat) : (s.setCrossed k l).found = s.found := rfl
@[simp] theorem State.setCrossed_tallied (k : Nat) (l : List Nat) : (s.setCrossed k l).tallied = s.tallied := rfl
@[simp] theorem State.setCrossed_i3c (k : Nat) (l : List Nat) : (s.setCrossed k l).i3c = s.i3c := rfl
@[simp] theorem State.setCrossed_perhal (k : Nat) (l : List Nat) : (s.setCrossed k l).perhal = s.perhal := rfl
@[simp] theorem State.setCrossed_thermal (k : Nat) (l : List Nat) : (s.setCrossed k l).thermal = s.thermal := rfl
@[simp] theorem State.setCrossed_paused (k : Nat) (l : List Nat) : (s.setCrossed k l).paused = s.paused := rfl

end Sys2Proof.Machine
end

