-- ==== Sys2Proof/Laws/Table.lean ====
section
/-! SUPPORT. Laws of the sparse tables, of the sets of numbers, and of bit fields. -/

namespace Sys2Proof.Machine

variable {α : Type}

/-- A key below every listed one reads as unlisted. -/
theorem Table.get_of_lt (dflt : Nat → α) (k : Nat) :
    ∀ t : Table α, (∀ e ∈ t, k < e.1) → Table.get dflt t k = dflt k
  | [], _ => rfl
  | (j, v) :: t, h => by
    have hj : k < j := h (j, v) List.mem_cons_self
    simp only [Table.get, if_neg (Nat.ne_of_lt hj)]
    exact Table.get_of_lt dflt k t fun e he => h e (List.mem_cons_of_mem _ he)

/-- Reading the key that was set gives the value set. -/
theorem Table.get_set_same [DecidableEq α] (dflt : Nat → α) (k : Nat) (v : α) :
    ∀ t : Table α, Table.wf dflt t → Table.get dflt (Table.set dflt t k v) k = v
  | [], _ => by
    by_cases h : v = dflt k <;> simp [Table.set, Table.get, h]
  | (j, w) :: t, h => by
    have hp := List.pairwise_cons.1 h.1
    have ht : Table.wf dflt t := ⟨hp.2, fun e he => h.2 e (List.mem_cons_of_mem _ he)⟩
    unfold Table.set
    by_cases h1 : k < j
    · by_cases h2 : v = dflt k
      · rw [if_pos h1, if_pos h2, h2]
        refine Table.get_of_lt dflt k _ fun e he => ?_
        rcases List.mem_cons.1 he with rfl | he
        · exact h1
        · exact Nat.lt_trans h1 (hp.1 e he)
      · rw [if_pos h1, if_neg h2]; simp [Table.get]
    · by_cases h3 : k = j
      · by_cases h2 : v = dflt k
        · rw [if_neg h1, if_pos h3, if_pos h2, h2]
          exact Table.get_of_lt dflt k t fun e he => h3 ▸ hp.1 e he
        · rw [if_neg h1, if_pos h3, if_neg h2]; simp [Table.get]
      · rw [if_neg h1, if_neg h3]
        simp only [Table.get, if_neg h3]
        exact Table.get_set_same dflt k v t ht

/-- Reading another key gives what it read before. -/
theorem Table.get_set_other [DecidableEq α] (dflt : Nat → α) (k m : Nat) (v : α) (hm : m ≠ k) :
    ∀ t : Table α, Table.get dflt (Table.set dflt t k v) m = Table.get dflt t m
  | [] => by
    by_cases h : v = dflt k <;> simp [Table.set, Table.get, h, hm]
  | (j, w) :: t => by
    unfold Table.set
    by_cases h1 : k < j
    · by_cases h2 : v = dflt k
      · rw [if_pos h1, if_pos h2]
      · rw [if_pos h1, if_neg h2]
        show (if m = k then v else Table.get dflt ((j, w) :: t) m) = _
        rw [if_neg hm]
    · by_cases h3 : k = j
      · by_cases h2 : v = dflt k
        · rw [if_neg h1, if_pos h3, if_pos h2]; simp [Table.get, h3 ▸ hm]
        · rw [if_neg h1, if_pos h3, if_neg h2]; simp [Table.get, h3 ▸ hm, hm]
      · rw [if_neg h1, if_neg h3]
        simp only [Table.get]
        rw [Table.get_set_other dflt k m v hm t]

/-- The keys that a set table lists are those listed before, and the key. -/
theorem Table.mem_set [DecidableEq α] (dflt : Nat → α) (k : Nat) (v : α) (e : Nat × α) :
    ∀ t : Table α, e ∈ Table.set dflt t k v → e ∈ t ∨ (e = (k, v) ∧ v ≠ dflt k)
  | [], he => by
    by_cases h : v = dflt k <;> simp [Table.set, h] at he
    · exact .inr ⟨he, h⟩
  | (j, w) :: t, he => by
    unfold Table.set at he
    by_cases h1 : k < j
    · by_cases h2 : v = dflt k
      · rw [if_pos h1, if_pos h2] at he; exact .inl he
      · rw [if_pos h1, if_neg h2] at he
        rcases List.mem_cons.1 he with h | h
        · exact .inr ⟨h, h2⟩
        · exact .inl h
    · by_cases h3 : k = j
      · by_cases h2 : v = dflt k
        · rw [if_neg h1, if_pos h3, if_pos h2] at he; exact .inl (List.mem_cons_of_mem _ he)
        · rw [if_neg h1, if_pos h3, if_neg h2] at he
          rcases List.mem_cons.1 he with h | h
          · exact .inr ⟨h, h2⟩
          · exact .inl (List.mem_cons_of_mem _ h)
      · rw [if_neg h1, if_neg h3] at he
        rcases List.mem_cons.1 he with h | h
        · exact .inl (h ▸ List.mem_cons_self)
        · rcases Table.mem_set dflt k v e t h with h | h
          · exact .inl (List.mem_cons_of_mem _ h)
          · exact .inr h

/-- Setting keeps the canonical form. -/
theorem Table.wf_set [DecidableEq α] (dflt : Nat → α) (k : Nat) (v : α) :
    ∀ t : Table α, Table.wf dflt t → Table.wf dflt (Table.set dflt t k v)
  | [], _ => by
    by_cases h : v = dflt k <;> simp [Table.set, Table.wf, h]
  | (j, w) :: t, h => by
    have hp := List.pairwise_cons.1 h.1
    have ht : Table.wf dflt t := ⟨hp.2, fun e he => h.2 e (List.mem_cons_of_mem _ he)⟩
    refine ⟨?_, fun e he => ?_⟩
    · unfold Table.set
      by_cases h1 : k < j
      · by_cases h2 : v = dflt k
        · rw [if_pos h1, if_pos h2]; exact h.1
        · rw [if_pos h1, if_neg h2]
          refine List.pairwise_cons.2 ⟨fun e he => ?_, h.1⟩
          rcases List.mem_cons.1 he with rfl | he
          · exact h1
          · exact Nat.lt_trans h1 (hp.1 e he)
      · by_cases h3 : k = j
        · by_cases h2 : v = dflt k
          · rw [if_neg h1, if_pos h3, if_pos h2]; exact hp.2
          · rw [if_neg h1, if_pos h3, if_neg h2]
            exact List.pairwise_cons.2 ⟨fun e he => h3 ▸ hp.1 e he, hp.2⟩
        · rw [if_neg h1, if_neg h3]
          refine List.pairwise_cons.2 ⟨fun e he => ?_, (Table.wf_set dflt k v t ht).1⟩
          rcases Table.mem_set dflt k v e t he with h | ⟨h, _⟩
          · exact hp.1 e h
          · subst h; exact lt_of_le_of_ne (Nat.le_of_not_lt h1) (Ne.symm h3)
    · rcases Table.mem_set dflt k v e _ he with he | ⟨he, hne⟩
      · exact h.2 e he
      · subst he; exact hne

/-- A table with entries taken out keeps the canonical form. -/
theorem Table.wf_filter (dflt : Nat → α) (p : Nat × α → Bool) (t : Table α) (h : Table.wf dflt t) :
    Table.wf dflt (t.filter p) :=
  ⟨h.1.filter p, fun e he => h.2 e (List.mem_filter.1 he).1⟩

/-- An empty table is in canonical form. -/
theorem Table.wf_nil (dflt : Nat → α) : Table.wf dflt ([] : Table α) := ⟨List.Pairwise.nil, by simp⟩

/-! Sets of numbers. -/

theorem mem_setInsert (k m : Nat) : ∀ l : List Nat, m ∈ setInsert k l ↔ m = k ∨ m ∈ l
  | [] => by simp [setInsert]
  | j :: t => by
    unfold setInsert
    by_cases h1 : k < j
    · simp [h1]
    · by_cases h2 : k = j
      · simp [h2]
      · simp only [if_neg h1, if_neg h2, List.mem_cons, mem_setInsert k m t]
        tauto

theorem contains_setInsert (k : Nat) (l : List Nat) : (setInsert k l).contains k = true := by
  simp [mem_setInsert]

theorem pairwise_setInsert (k : Nat) : ∀ l : List Nat, l.Pairwise (· < ·) → (setInsert k l).Pairwise (· < ·)
  | [], _ => by simp [setInsert]
  | j :: t, h => by
    have hp := List.pairwise_cons.1 h
    unfold setInsert
    by_cases h1 : k < j
    · rw [if_pos h1]
      refine List.pairwise_cons.2 ⟨fun e he => ?_, h⟩
      rcases List.mem_cons.1 he with rfl | he
      · exact h1
      · exact Nat.lt_trans h1 (hp.1 e he)
    · by_cases h2 : k = j
      · rw [if_neg h1, if_pos h2]; exact h
      · rw [if_neg h1, if_neg h2]
        refine List.pairwise_cons.2 ⟨fun e he => ?_, pairwise_setInsert k t hp.2⟩
        rcases (mem_setInsert k e t).1 he with rfl | he
        · exact lt_of_le_of_ne (Nat.le_of_not_lt h1) (Ne.symm h2)
        · exact hp.1 e he

theorem setErase_sublist (k : Nat) : ∀ l : List Nat, (setErase k l).Sublist l
  | [] => List.Sublist.slnil
  | j :: t => by
    unfold setErase
    by_cases h : k = j
    · rw [if_pos h]; exact List.sublist_cons_self j t
    · rw [if_neg h]; exact (setErase_sublist k t).cons_cons j

theorem pairwise_setErase (k : Nat) (l : List Nat) (h : l.Pairwise (· < ·)) : (setErase k l).Pairwise (· < ·) :=
  h.sublist (setErase_sublist k l)

/-- Removal takes the number out of a rising list. -/
theorem not_mem_setErase (k : Nat) : ∀ l : List Nat, l.Pairwise (· < ·) → k ∉ setErase k l
  | [], _ => by simp [setErase]
  | j :: t, h => by
    have hp := List.pairwise_cons.1 h
    unfold setErase
    by_cases h1 : k = j
    · rw [if_pos h1]; intro hm; exact Nat.lt_irrefl _ (h1 ▸ hp.1 k hm)
    · rw [if_neg h1]
      intro hm
      rcases List.mem_cons.1 hm with h2 | h2
      · exact h1 h2
      · exact not_mem_setErase k t hp.2 h2

/-- Removal leaves every other number. -/
theorem mem_setErase_other (k m : Nat) (hm : m ≠ k) : ∀ l : List Nat, m ∈ setErase k l ↔ m ∈ l
  | [] => by simp [setErase]
  | j :: t => by
    unfold setErase
    by_cases h : k = j
    · rw [if_pos h]; simp [h ▸ hm]
    · rw [if_neg h]; simp [mem_setErase_other k m hm t]

/-! Bit fields. -/

theorem bits_lt (n lsb width : Nat) : bits n lsb width < 2 ^ width := Nat.mod_lt _ (Nat.two_pow_pos width)

/-- A bit field by its bits. -/
theorem testBit_bits (n lsb width i : Nat) : (bits n lsb width).testBit i = (decide (i < width) && n.testBit (lsb + i)) := by
  rw [bits, Nat.testBit_mod_two_pow, Nat.testBit_shiftRight]

/-- `setBits` by its bits. -/
theorem testBit_setBits (n lsb width v i : Nat) :
    (setBits n lsb width v).testBit i =
      if lsb ≤ i ∧ i < lsb + width then v.testBit (i - lsb) else n.testBit i := by
  have h1 : n % 2 ^ lsb + ((v % 2 ^ width) <<< lsb) = (v % 2 ^ width) <<< lsb ||| n % 2 ^ lsb := by
    rw [Nat.add_comm, Nat.shiftLeft_eq, Nat.mul_comm]
    exact Nat.two_pow_add_eq_or_of_lt (Nat.mod_lt _ (Nat.two_pow_pos lsb)) _
  have hlow : n % 2 ^ lsb + ((v % 2 ^ width) <<< lsb) < 2 ^ (lsb + width) := by
    have ha := Nat.mod_lt n (Nat.two_pow_pos lsb)
    have hb := Nat.mod_lt v (Nat.two_pow_pos width)
    rw [Nat.shiftLeft_eq, Nat.pow_add]
    have hc : v % 2 ^ width + 1 ≤ 2 ^ width := hb
    have hd := Nat.mul_le_mul_right (2 ^ lsb) hc
    rw [Nat.add_mul, Nat.one_mul] at hd
    rw [Nat.mul_comm (2 ^ lsb)]
    omega
  have h2 : setBits n lsb width v =
      ((n >>> (lsb + width)) <<< (lsb + width)) ||| (n % 2 ^ lsb + ((v % 2 ^ width) <<< lsb)) := by
    unfold setBits
    rw [Nat.add_comm, Nat.shiftLeft_eq (n >>> (lsb + width)), Nat.mul_comm]
    exact Nat.two_pow_add_eq_or_of_lt hlow _
  rw [h2, h1]
  simp only [Nat.testBit_or, Nat.testBit_shiftLeft, Nat.testBit_mod_two_pow, Nat.testBit_shiftRight]
  by_cases ha : lsb ≤ i
  · by_cases hb : i < lsb + width
    · have h3 : ¬ lsb + width ≤ i := by omega
      have h4 : ¬ i < lsb := by omega
      have h5 : i - lsb < width := by omega
      simp [ha, hb, h3, h4, h5]
    · have h3 : lsb + width ≤ i := by omega
      have h4 : ¬ i < lsb := by omega
      have h5 : ¬ i - lsb < width := by omega
      have h6 : lsb + width + (i - (lsb + width)) = i := by omega
      simp [ha, hb, h3, h4, h5, h6]
  · have h3 : ¬ lsb + width ≤ i := by omega
    have h4 : i < lsb := by omega
    simp [ha, h3, h4]

/-- A field reads back what was set. -/
theorem bits_setBits_same (n lsb width v : Nat) : bits (setBits n lsb width v) lsb width = v % 2 ^ width := by
  apply Nat.eq_of_testBit_eq
  intro i
  rw [testBit_bits, testBit_setBits, Nat.testBit_mod_two_pow]
  by_cases h : i < width
  · have h1 : lsb ≤ lsb + i ∧ lsb + i < lsb + width := by omega
    simp [h]
  · simp [h]

/-- A field apart from the one set reads as before. -/
theorem bits_setBits_apart (n lsb width v l w : Nat) (h : l + w ≤ lsb ∨ lsb + width ≤ l) :
    bits (setBits n lsb width v) l w = bits n l w := by
  apply Nat.eq_of_testBit_eq
  intro i
  rw [testBit_bits, testBit_bits, testBit_setBits]
  by_cases hi : i < w
  · have h1 : ¬ (lsb ≤ l + i ∧ l + i < lsb + width) := by omega
    simp [hi, h1]
  · simp [hi]

theorem setBits_lt (n lsb width v k : Nat) (hn : n < 2 ^ k) (hk : lsb + width ≤ k) : setBits n lsb width v < 2 ^ k := by
  apply Nat.lt_pow_two_of_testBit
  intro i hi
  rw [testBit_setBits]
  have h1 : ¬ (lsb ≤ i ∧ i < lsb + width) := by omega
  rw [if_neg h1]
  exact Nat.testBit_lt_two_pow (Nat.lt_of_lt_of_le hn (Nat.pow_le_pow_right (by decide) hi))

end Sys2Proof.Machine
end

