-- ==== Sys2Proof/Laws/Regs.lean ====
section
/-! SUPPORT. Laws of registers and fields, of what is left unchanged, and of the operations that count and flag. -/

namespace Sys2Proof.Machine

variable {s t u : State}

/-! Words and fields. -/

/-- A word that was stored reads back modulo 2^64. -/
theorem State.word_setWord_same (h : Table.wf resetWord s.regs) (a n : Nat) : (s.setWord a n).word a = n % 2 ^ 64 := by
  show (Table.get resetWord (Table.set resetWord s.regs a (BitVec.ofNat 64 n)) a).toNat = _
  rw [Table.get_set_same _ _ _ _ h, BitVec.toNat_ofNat]

/-- Another word reads as before. -/
theorem State.word_setWord_other (a b n : Nat) (h : b ≠ a) : (s.setWord a n).word b = s.word b := by
  show (Table.get resetWord (Table.set resetWord s.regs a (BitVec.ofNat 64 n)) b).toNat = _
  rw [Table.get_set_other _ _ _ _ h]; rfl

theorem State.word_lt (s : State) (a : Nat) : s.word a < 2 ^ 64 := (Table.get resetWord s.regs a).isLt

/-- Storing a word keeps the registers' canonical form. -/
theorem State.regs_setWord (h : Table.wf resetWord s.regs) (a n : Nat) : Table.wf resetWord (s.setWord a n).regs :=
  Table.wf_set _ _ _ _ h

/-- Setting a field writes its word and no other. -/
theorem State.word_put_other (pg : Nat) (f : Fld) (n b : Nat) (h : b ≠ pg + f.off) : (s.put pg f n).word b = s.word b :=
  State.word_setWord_other _ _ _ h

/-- The word of a field that was set. -/
theorem State.word_put_same (h : Table.wf resetWord s.regs) (pg : Nat) (f : Fld) (n : Nat) (hf : f.lsb + f.width ≤ 64) :
    (s.put pg f n).word (pg + f.off) = setBits (s.word (pg + f.off)) f.lsb f.width n := by
  rw [State.put, State.word_setWord_same h, Nat.mod_eq_of_lt]
  exact setBits_lt _ _ _ _ _ (s.word_lt _) hf

/-- A field that was set reads back. -/
theorem State.fld_put_same (h : Table.wf resetWord s.regs) (pg : Nat) (f : Fld) (n : Nat) (hf : f.lsb + f.width ≤ 64) :
    (s.put pg f n).fld pg f = n % 2 ^ f.width := by
  rw [State.fld, State.word_put_same h pg f n hf, bits_setBits_same]

/-- A field of another word, or apart in the same word, reads as before. -/
theorem State.fld_put_apart (h : Table.wf resetWord s.regs) (pg pg' : Nat) (f g : Fld) (n : Nat) (hf : f.lsb + f.width ≤ 64)
    (ha : pg' + g.off ≠ pg + f.off ∨ g.lsb + g.width ≤ f.lsb ∨ f.lsb + f.width ≤ g.lsb) :
    (s.put pg f n).fld pg' g = s.fld pg' g := by
  by_cases he : pg' + g.off = pg + f.off
  · rw [State.fld, State.fld, he, State.word_put_same h pg f n hf]
    rcases ha with ha | ha | ha
    · exact absurd he ha
    · exact bits_setBits_apart _ _ _ _ _ _ (.inl ha)
    · exact bits_setBits_apart _ _ _ _ _ _ (.inr ha)
  · rw [State.fld, State.fld, State.word_put_other _ _ _ _ he]

theorem State.fld_lt (s : State) (pg : Nat) (f : Fld) : s.fld pg f < 2 ^ f.width := bits_lt _ _ _

/-- A flag that was set reads back. -/
theorem State.on_flag_same (h : Table.wf resetWord s.regs) (pg : Nat) (f : Fld) (b : Bool) (hf : f.lsb + f.width ≤ 64)
    (hw : 0 < f.width) : (s.flag pg f b).on pg f = b := by
  have h1 : 1 < 2 ^ f.width := Nat.one_lt_two_pow (Nat.ne_of_gt hw)
  rw [State.on, State.flag, State.fld_put_same h pg f _ hf]
  cases b
  · simp
  · simp [Nat.mod_eq_of_lt h1]

/-! What is left unchanged. -/

theorem PartsKept.refl (s : State) : PartsKept s s := rfl

theorem PartsKept.trans (h1 : PartsKept s t) (h2 : PartsKept t u) : PartsKept s u := by
  unfold PartsKept at *
  rw [← h1, ← h2]

theorem WordsKept.refl (s : State) (w : Nat → Bool) : WordsKept s s w := fun _ _ _ => rfl

theorem WordsKept.trans {w : Nat → Bool} (h1 : WordsKept s t w) (h2 : WordsKept t u w) : WordsKept s u w :=
  fun a ha hw => (h2 a ha hw).trans (h1 a ha hw)

theorem OnlyWords.refl (s : State) (l : List Nat) : OnlyWords s s l := ⟨.refl s, .refl s _⟩

theorem OnlyWords.trans {l : List Nat} (h1 : OnlyWords s t l) (h2 : OnlyWords t u l) : OnlyWords s u l :=
  ⟨h1.1.trans h2.1, h1.2.trans h2.2⟩

/-- Storing a word of the list, or an accounting one, changes nothing else. -/
theorem OnlyWords.setWord (s : State) (a n : Nat) (l : List Nat) (h : accounting a = true ∨ a ∈ l) :
    OnlyWords s (s.setWord a n) l := by
  refine ⟨rfl, fun b hb hl => State.word_setWord_other _ _ _ ?_⟩
  rintro rfl
  rcases h with h | h
  · rw [h] at hb; cases hb
  · rw [words, List.contains_iff_mem.2 h] at hl; cases hl

theorem OnlyWords.put (s : State) (pg : Nat) (f : Fld) (n : Nat) (l : List Nat)
    (h : accounting (pg + f.off) = true ∨ pg + f.off ∈ l) : OnlyWords s (s.put pg f n) l := .setWord s _ _ l h

theorem OnlyWords.tell (s : State) (m : HostMsg) (l : List Nat) : OnlyWords s (s.tell m) l := ⟨rfl, fun _ _ _ => rfl⟩

theorem OnlyWords.setPort (s : State) (p : Nat) (h : HostPort) (l : List Nat) : OnlyWords s (s.setPort p h) l :=
  ⟨rfl, fun _ _ _ => rfl⟩

/-- A fold whose every step keeps to the words keeps to them. -/
theorem OnlyWords.each {α : Type} {l : List Nat} (f : State → α → State) (hf : ∀ s a, OnlyWords s (f s a) l) :
    ∀ (m : List α) (s : State), OnlyWords s (s.each m f) l
  | [], s => .refl s l
  | a :: m, s => (hf s a).trans (OnlyWords.each f hf m (f s a))

/-! Accounting words. -/

theorem accounting_high (a : Nat) (h : 0x8000 ≤ a % 0x10000) : accounting a = true := by simp [accounting, h]

theorem accounting_int (pg : Nat) (h : pg % 0x10000 = 0) : accounting (pg + R.INT_STS.off) = true := by
  have h1 : (pg + R.INT_STS.off) % 0x10000 = R.INT_STS.off := by simp [R.INT_STS]; omega
  simp [accounting, h1]

theorem page_mod (d i : Nat) : page d i % 0x10000 = 0 := by unfold page; omega

theorem hifPage_mod (p : Nat) : hifPage p % 0x10000 = 0 := page_mod 4 _

/-! Counters (R592–R594). -/

theorem counterBlocks_small (d i : Nat) (h : i ∈ counterBlocks d) :
    i < 0x100 ∧ counterBase d i + counterCount d ((blockOf i).getD 0) ≤ 2048 := by
  unfold counterBlocks at h
  unfold counterBase counterCount
  by_cases hd : d < 4
  · have h4 : d ≠ 4 := by omega
    simp only [if_pos hd, if_neg h4] at h ⊢
    revert i; decide
  · simp only [if_neg hd] at h ⊢
    by_cases h4 : d = 4
    · simp only [if_pos h4]
      revert i; decide
    · simp only [if_neg h4]
      revert i; decide

/-- Where a counter of an index lies: on a page of its die, among the counters, under its own index (R592). -/
theorem counterAddr_facts (d n a : Nat) (h : counterAddr d n = some a) :
    a / 0x1000000 = d ∧ counterIndex a = n ∧ n < 2048 ∧ accounting a = true := by
  unfold counterAddr at h
  obtain ⟨i, hi, he⟩ := List.exists_of_findSome?_eq_some h
  simp only at he
  split at he
  · rename_i hb
    obtain ⟨hi1, hi2⟩ := counterBlocks_small d i hi
    have ha : page d i + counterOff d i (n - counterBase d i) = a := Option.some.inj he
    have hoff : 0x8000 ≤ counterOff d i (n - counterBase d i) ∧ counterOff d i (n - counterBase d i) < 0x10000
        ∧ counterPos d i (counterOff d i (n - counterBase d i)) = n - counterBase d i := by
      unfold counterOff counterPos
      split <;> split <;> omega
    unfold page at ha
    have h1 : a / 0x1000000 = d := by omega
    have h2 : a / 0x10000 % 0x100 = i := by omega
    have h3 : a % 0x10000 = counterOff d i (n - counterBase d i) := by omega
    refine ⟨h1, ?_, by omega, accounting_high a (by omega)⟩
    unfold counterIndex
    simp only [h1, h2, h3, hoff.2.2]
    omega
  · cases he

/-! Vectors, interrupts and counts (R576, R591–R594, R629). -/

/-- A vector sent on a port counts and flags, and changes its pending vectors or the messages to the hosts; nothing else. -/
def Sends (send : State → Nat → Nat → State) (l : List Nat) : Prop := ∀ s p v, p < 2 → OnlyWords s (send s p v) l

theorem OnlyWords.blockIntBy {send : State → Nat → Nat → State} {l : List Nat} (hs : Sends send l) (s : State) :
    OnlyWords s (s.blockIntBy send) l := by
  have h (s : State) (p : Nat) (hp : p < 2) :
      OnlyWords s (if s.on (hifPage p) R.HIF_INT_CTL_BLOCK_INT_EN then send s p 0 else s) l := by
    split
    · exact hs s p 0 hp
    · exact .refl s l
  exact (h s 0 (by decide)).trans (h _ 1 (by decide))

/-- A change of INT_STS raises vector 0 of some ports at most. -/
theorem OnlyWords.intChangeBy {send : State → Nat → Nat → State} {l : List Nat} (hs : Sends send l) (s : State) (pg : Nat)
    (f : State → State) (h : OnlyWords s (f s) l) : OnlyWords s (s.intChangeBy send pg f) l := by
  unfold State.intChangeBy
  simp only
  split
  · exact h.trans (.blockIntBy hs _)
  · exact h

theorem OnlyWords.intSetBy {send : State → Nat → Nat → State} {l : List Nat} (hs : Sends send l) (s : State) (pg b : Nat)
    (h : pg % 0x10000 = 0) : OnlyWords s (s.intSetBy send pg b) l :=
  .intChangeBy hs s pg _ (.put s pg _ _ l (.inl (accounting_int pg h)))

theorem OnlyWords.setOvfBy {send : State → Nat → Nat → State} {l : List Nat} (hs : Sends send l) (s : State) (d n : Nat)
    (h : n < 2048) : OnlyWords s (s.setOvfBy send d n) l := by
  refine (OnlyWords.setWord s _ _ l (.inl ?_)).trans (.intSetBy hs _ _ _ (page_mod _ _))
  have h1 : (page d B.PMU + 0x1100 + 8 * (n / 64)) % 0x10000 = 0x1100 + 8 * (n / 64) := by unfold page; omega
  have h2 : (page d B.PMU + 0x1100 + 8 * (n / 64)) / 0x10000 % 0x100 = B.PMU := by unfold page; simp only [B.PMU]; omega
  simp only [accounting, h1, h2]
  simp
  right
  omega

/-- Adding to a counter changes counters, overflow bits and interrupts only. -/
theorem OnlyWords.countAtBy {send : State → Nat → Nat → State} {l : List Nat} (hs : Sends send l) :
    ∀ (fuel a k : Nat) (s : State), counterAddr (a / 0x1000000) (counterIndex a) = some a →
      OnlyWords s (s.countAtBy send a k fuel) l
  | 0, _, _, s, _ => .refl s l
  | fuel + 1, a, k, s, h => by
    obtain ⟨_, _, hn, ha⟩ := counterAddr_facts _ _ _ h
    have h1 := OnlyWords.setWord s a ((s.word a % 2 ^ 48 + k) % 2 ^ 48) l (.inl ha)
    unfold State.countAtBy
    simp only
    split
    · exact h1
    · have h2 := h1.trans (.setOvfBy hs _ (a / 0x1000000) (counterIndex a) hn)
      split
      · split
        · rename_i b hb
          obtain ⟨hd, hc, _, _⟩ := counterAddr_facts _ _ _ hb
          exact h2.trans (OnlyWords.countAtBy hs fuel b 1 _ (by rw [hd, hc]; exact hb))
        · exact h2
      · exact h2

theorem OnlyWords.countBy {send : State → Nat → Nat → State} {l : List Nat} (hs : Sends send l) (s : State) (pg : Nat) (c : Fld)
    (k : Nat) (h : counterAddr ((pg + c.off) / 0x1000000) (counterIndex (pg + c.off)) = some (pg + c.off)) :
    OnlyWords s (s.countBy send pg c k) l := by
  unfold State.countBy
  simp only
  split
  · exact .refl s l
  · exact .countAtBy hs _ _ _ s h

theorem sends_msixBy (l : List Nat) : ∀ depth, Sends (State.msixBy depth) l
  | 0, s, _, _, _ => .refl s l
  | depth + 1, s, p, v, hp => by
    have hc (f : Fld) (hf : ∀ q < 2, counterAddr ((hifPage q + f.off) / 0x1000000) (counterIndex (hifPage q + f.off))
        = some (hifPage q + f.off)) (x : State) (k : Nat) : OnlyWords x (x.countBy (State.msixBy depth) (hifPage p) f k) l :=
      .countBy (sends_msixBy l depth) x _ f k (hf p hp)
    unfold State.msixBy
    simp only
    split
    · exact hc C.HIF_MSIX_DROPPED (by decide) _ _
    · split
      · exact ((OnlyWords.tell s _ l).trans (hc C.HIF_MSIX_SENT (by decide) _ _)).trans (hc C.HIF_TX_BYTES (by decide) _ _)
      · exact .setPort s _ _ l

/-- Sending a vector counts, and changes its port's pending vectors or the messages to the hosts. -/
theorem sends_msix (l : List Nat) : Sends State.msix l := sends_msixBy l 7

theorem OnlyWords.intChange (s : State) (pg : Nat) (f : State → State) (l : List Nat) (h : OnlyWords s (f s) l) :
    OnlyWords s (s.intChange pg f) l := .intChangeBy (sends_msix l) s pg f h

theorem OnlyWords.intSet (s : State) (pg b : Nat) (l : List Nat) (h : pg % 0x10000 = 0) : OnlyWords s (s.intSet pg b) l :=
  .intSetBy (sends_msix l) s pg b h

/-- Counting an event of a page's counter changes nothing but what counts and flags. -/
theorem OnlyWords.count (s : State) (pg : Nat) (c : Fld) (k : Nat) (l : List Nat)
    (h : counterAddr ((pg + c.off) / 0x1000000) (counterIndex (pg + c.off)) = some (pg + c.off)) :
    OnlyWords s (s.count pg c k) l := .countBy (sends_msix l) s pg c k h

end Sys2Proof.Machine
end

