-- ==== Sys2Proof/Laws/Tidy.lean ====
section
/-! SUPPORT. The canonical form of the state: a test of it, how it follows through folds and branches, and that each
primitive update keeps it. -/

namespace Sys2Proof.Machine

/-- The canonical form as a test. -/
def State.tidyB (s : State) : Bool :=
  decide (Table.wf resetWord s.regs) && decide (Memory.wf s.mem) && decide (Table.wf (fun _ => 0) s.cells)
  && decide (Table.wf (fun _ => ({} : Queue)) s.queues) && decide (Table.wf (fun _ => ({} : Job)) s.jobs)
  && decide (Table.wf (fun _ => ({} : Gate)) s.gates) && decide (Table.wf (fun _ => ({} : Page)) s.pages)
  && decide (s.poison.Pairwise (· < ·)) && decide (Table.wf (fun _ => ({} : UnitCore)) s.units)
  && decide (Table.wf (fun _ => ({} : Link)) s.links) && decide (Table.wf (fun _ => ({} : Bundle)) s.bundles)
  && decide (Table.wf (fun _ => ({} : Actions)) s.actions) && decide (Table.wf (fun _ => ({} : HostPort)) s.hostPorts)
  && decide (Table.wf (fun _ => ({} : Sampler)) s.samplers) && decide (Table.wf (fun _ => 0) s.markerSeq)
  && decide (Table.wf (fun _ => 0) s.lostGen) && decide (s.lostSet.Pairwise (· < ·))
  && decide (Table.wf (fun _ => 0) s.chosen) && decide (Table.wf (fun _ => 0) s.floorCause)
  && decide (Table.wf (fun _ => []) s.moved) && decide (Table.wf (fun _ => (0, 0)) s.parts)
  && decide (Table.wf (fun _ => []) s.crossing) && decide (Table.wf (fun _ => 0) s.perhal.img)
  && decide (Table.wf (fun _ => 0) s.perhal.chain) && decide (Table.wf (fun _ => 0) s.thermal.steps)
  && decide (Table.wf (fun _ => 0) s.thermal.reading) && decide (Table.wf (fun _ => 0) s.fig.weights)
  && decide (Table.wf (fun _ => 0) s.fig.dealt) && decide (Table.wf (fun _ => 0) s.snp.health)
  && decide (Table.wf (fun _ => ({} : Stat)) s.clx.meas) && decide (Table.wf (fun _ => none) s.clx.words)
  && decide (s.perhal.sessions.Pairwise (· < ·)) && decide (Table.wf (fun _ => none) s.perhal.ide)
  && (s.perhal.order.all fun p => decide (p < 2)) && decide ((s.cmds.map Cmd.id ++ [s.nextId]).Pairwise (· < ·))

/-- The test decides the canonical form. -/
theorem State.tidy_of_tidyB (s : State) (h : s.tidyB = true) : s.Tidy := by
  simp only [State.tidyB, Bool.and_eq_true, decide_eq_true_eq, List.all_eq_true] at h
  obtain ⟨⟨⟨⟨⟨⟨⟨⟨⟨⟨⟨⟨⟨⟨⟨⟨⟨⟨⟨⟨⟨⟨⟨⟨⟨⟨⟨⟨⟨⟨⟨⟨⟨⟨h1, h2⟩, h3⟩, h4⟩, h5⟩, h6⟩, h7⟩, h8⟩, h9⟩, h10⟩, h11⟩, h12⟩, h13⟩, h14⟩, h15⟩,
    h16⟩, h17⟩, h18⟩, h19⟩, h20⟩, h21⟩, h22⟩, h23⟩, h24⟩, h25⟩, h26⟩, h27⟩, h28⟩, h29⟩, h30⟩, h31⟩, h32⟩, h33⟩, h34⟩,
    h35⟩ := h
  exact ⟨h1, h2, h3, h4, h5, h6, h7, h8, h9, h10, h11, h12, h13, h14, h15, h16, h17, h18, h19, h20, h21, h22, h23, h24, h25,
    h26, h27, h28, h29, h30, h31, h32, h33, h34, h35⟩

/-- A state with the same tables is as tidy. -/
theorem State.Tidy.same {s t : State} (h : s.Tidy) (h1 : t.regs = s.regs) (h2 : t.mem = s.mem)
    (h3 : t.cells = s.cells) (h4 : t.queues = s.queues) (h5 : t.jobs = s.jobs) (h6 : t.gates = s.gates)
    (h7 : t.pages = s.pages) (h8 : t.poison = s.poison) (h9 : t.units = s.units) (h10 : t.links = s.links)
    (h11 : t.bundles = s.bundles) (h12 : t.actions = s.actions) (h13 : t.hostPorts = s.hostPorts)
    (h14 : t.samplers = s.samplers) (h15 : t.markerSeq = s.markerSeq) (h16 : t.lostGen = s.lostGen)
    (h17 : t.lostSet = s.lostSet) (h18 : t.chosen = s.chosen) (h19 : t.floorCause = s.floorCause)
    (h20 : t.moved = s.moved) (h21 : t.parts = s.parts) (h22 : t.crossing = s.crossing)
    (h23 : t.perhal.img = s.perhal.img) (h24 : t.perhal.chain = s.perhal.chain)
    (h25 : t.thermal.steps = s.thermal.steps) (h26 : t.thermal.reading = s.thermal.reading)
    (h27 : t.fig.weights = s.fig.weights) (h28 : t.fig.dealt = s.fig.dealt) (h29 : t.snp.health = s.snp.health)
    (h30 : t.clx.meas = s.clx.meas) (h31 : t.clx.words = s.clx.words) (h32 : t.perhal.sessions = s.perhal.sessions)
    (h33 : t.perhal.ide = s.perhal.ide) (h34 : t.perhal.order = s.perhal.order)
    (h35 : t.cmds.map Cmd.id = s.cmds.map Cmd.id) (h36 : t.nextId = s.nextId) : t.Tidy :=
  ⟨h1 ▸ h.regs, h2 ▸ h.mem, h3 ▸ h.cells, h4 ▸ h.queues, h5 ▸ h.jobs, h6 ▸ h.gates, h7 ▸ h.pages, h8 ▸ h.poison, h9 ▸
    h.units, h10 ▸ h.links, h11 ▸ h.bundles, h12 ▸ h.actions, h13 ▸ h.ports, h14 ▸ h.sampled, h15 ▸ h.markers, h16 ▸
    h.lostGen, h17 ▸ h.lostSet, h18 ▸ h.chosen, h19 ▸ h.causes, h20 ▸ h.moved, h21 ▸ h.parts, h22 ▸ h.crossing, h23 ▸
    h.image, h24 ▸ h.chain, h25 ▸ h.steps, h26 ▸ h.reading, h27 ▸ h.weights, h28 ▸ h.dealt, h29 ▸ h.health, h30 ▸
    h.meas, h31 ▸ h.sums, h32 ▸ h.spdm, h33 ▸ h.ide, h34 ▸ h.order, by rw [h35, h36]; exact h.ids⟩

/-- A state written out field by field whose tables are those of a tidy state is tidy. -/
theorem State.mk_tidy {s : State} {pending_ : List Instr} {regs_ : Table Word} {mem_ : Table Byte}
    {poison_ : List Nat} {fencedPch_ : List Nat} {fencedStg_ : List Nat} {fencedWbf_ : List Nat}
    {lostGen_ : Table Nat} {lostSet_ : List Nat} {pages_ : Table Page} {heldWrites_ : List HeldWrite}
    {preserving_ : List Nat} {retiring_ : Option Retiring} {ceCounts_ : List (Nat × Nat)} {ceFired_ : List Nat}
    {cells_ : Table Nat} {waits_ : List Wait} {queues_ : Table Queue} {arrivals_ : Nat} {chosen_ : Table Nat}
    {cmds_ : List Cmd} {nextId_ : Nat} {claims_ : List Nat} {granted_ : Option Nat} {jobs_ : Table Job}
    {gates_ : Table Gate} {cplWait_ : List CplWait} {hostPorts_ : Table HostPort} {sending_ : Option Nat}
    {absentDue_ : List Nat} {floorCause_ : Table Nat} {actions_ : Table Actions} {windows_ : List (Nat × Nat)}
    {hwFences_ : List Nat} {secondFences_ : List Nat} {fieldEvents_ : Nat} {samplers_ : Table Sampler}
    {markerSeq_ : Table Nat} {tokens_ : List (Nat × Token)} {hostOut_ : List HostMsg} {free_ : Nat}
    {spareDue_ : List (Nat × Bool × Nat)} {badSpares_ : List Nat} {units_ : Table UnitCore} {groups_ : List Group}
    {nextGroup_ : Nat} {links_ : Table Link} {sentItems_ : List SentItem} {sentFrames_ : List SentFrame} {clx_ : Clx}
    {fig_ : Fig} {snp_ : Snp} {relocking_ : List Nat} {diagLost_ : List (Nat × Nat × Nat)} {fuses_ : Fuses}
    {fatal_ : Bool} {degraded_ : List Nat} {retireDue_ : List RetireReq} {bundles_ : Table Bundle}
    {moved_ : Table (List Kept)} {parts_ : Table (Nat × Nat)} {crossing_ : Table (List Nat)} {startCount_ : Nat}
    {record_ : Option LwRecord} {inForce_ : Option LwRecord} {found_ : TestResult} {tallied_ : TestResult}
    {i3c_ : I3cTarget} {perhal_ : Perhal} {thermal_ : Thermal} {paused_ : Bool}
    (k : (regs_, mem_, cells_, queues_, jobs_, gates_, pages_, poison_, units_, links_, bundles_, actions_, hostPorts_,
      samplers_, markerSeq_, lostGen_, lostSet_, chosen_, floorCause_, moved_, parts_, crossing_, perhal_.img,
      perhal_.chain, thermal_.steps, thermal_.reading, fig_.weights, fig_.dealt, snp_.health, clx_.meas, clx_.words,
      perhal_.sessions, perhal_.ide, perhal_.order, cmds_, nextId_) =
      (s.regs, s.mem, s.cells, s.queues, s.jobs, s.gates, s.pages, s.poison, s.units, s.links, s.bundles, s.actions,
      s.hostPorts, s.samplers, s.markerSeq, s.lostGen, s.lostSet, s.chosen, s.floorCause, s.moved, s.parts,
      s.crossing, s.perhal.img, s.perhal.chain, s.thermal.steps, s.thermal.reading, s.fig.weights, s.fig.dealt,
      s.snp.health, s.clx.meas, s.clx.words, s.perhal.sessions, s.perhal.ide, s.perhal.order, s.cmds, s.nextId))
    (h : s.Tidy) :
    (State.mk pending_ regs_ mem_ poison_ fencedPch_ fencedStg_ fencedWbf_ lostGen_ lostSet_ pages_ heldWrites_
    preserving_ retiring_ ceCounts_ ceFired_ cells_ waits_ queues_ arrivals_ chosen_ cmds_ nextId_ claims_ granted_
    jobs_ gates_ cplWait_ hostPorts_ sending_ absentDue_ floorCause_ actions_ windows_ hwFences_ secondFences_
    fieldEvents_ samplers_ markerSeq_ tokens_ hostOut_ free_ spareDue_ badSpares_ units_ groups_ nextGroup_ links_
    sentItems_ sentFrames_ clx_ fig_ snp_ relocking_ diagLost_ fuses_ fatal_ degraded_ retireDue_ bundles_ moved_
    parts_ crossing_ startCount_ record_ inForce_ found_ tallied_ i3c_ perhal_ thermal_ paused_).Tidy := by
  simp only [Prod.mk.injEq] at k
  obtain ⟨k1, k2, k3, k4, k5, k6, k7, k8, k9, k10, k11, k12, k13, k14, k15, k16, k17, k18, k19, k20, k21, k22, k23, k24, k25,
    k26, k27, k28, k29, k30, k31, k32, k33, k34, k35, k36⟩ := k
  exact h.same k1 k2 k3 k4 k5 k6 k7 k8 k9 k10 k11 k12 k13 k14 k15 k16 k17 k18 k19 k20 k21 k22 k23 k24 k25 k26 k27 k28 k29 k30
    k31 k32 k33 k34 (by rw [k35]) k36

/-- A state written out field by field whose tables are in canonical form is tidy. -/
theorem State.mk_wf {pending_ : List Instr} {regs_ : Table Word} {mem_ : Table Byte} {poison_ : List Nat}
    {fencedPch_ : List Nat} {fencedStg_ : List Nat} {fencedWbf_ : List Nat} {lostGen_ : Table Nat}
    {lostSet_ : List Nat} {pages_ : Table Page} {heldWrites_ : List HeldWrite} {preserving_ : List Nat}
    {retiring_ : Option Retiring} {ceCounts_ : List (Nat × Nat)} {ceFired_ : List Nat} {cells_ : Table Nat}
    {waits_ : List Wait} {queues_ : Table Queue} {arrivals_ : Nat} {chosen_ : Table Nat} {cmds_ : List Cmd}
    {nextId_ : Nat} {claims_ : List Nat} {granted_ : Option Nat} {jobs_ : Table Job} {gates_ : Table Gate}
    {cplWait_ : List CplWait} {hostPorts_ : Table HostPort} {sending_ : Option Nat} {absentDue_ : List Nat}
    {floorCause_ : Table Nat} {actions_ : Table Actions} {windows_ : List (Nat × Nat)} {hwFences_ : List Nat}
    {secondFences_ : List Nat} {fieldEvents_ : Nat} {samplers_ : Table Sampler} {markerSeq_ : Table Nat}
    {tokens_ : List (Nat × Token)} {hostOut_ : List HostMsg} {free_ : Nat} {spareDue_ : List (Nat × Bool × Nat)}
    {badSpares_ : List Nat} {units_ : Table UnitCore} {groups_ : List Group} {nextGroup_ : Nat} {links_ : Table Link}
    {sentItems_ : List SentItem} {sentFrames_ : List SentFrame} {clx_ : Clx} {fig_ : Fig} {snp_ : Snp}
    {relocking_ : List Nat} {diagLost_ : List (Nat × Nat × Nat)} {fuses_ : Fuses} {fatal_ : Bool}
    {degraded_ : List Nat} {retireDue_ : List RetireReq} {bundles_ : Table Bundle} {moved_ : Table (List Kept)}
    {parts_ : Table (Nat × Nat)} {crossing_ : Table (List Nat)} {startCount_ : Nat} {record_ : Option LwRecord}
    {inForce_ : Option LwRecord} {found_ : TestResult} {tallied_ : TestResult} {i3c_ : I3cTarget} {perhal_ : Perhal}
    {thermal_ : Thermal} {paused_ : Bool}
    (h_regs : Table.wf resetWord regs_)
    (h_mem : Memory.wf mem_)
    (h_cells : Table.wf (fun _ => 0) cells_)
    (h_queues : Table.wf (fun _ => {}) queues_)
    (h_jobs : Table.wf (fun _ => {}) jobs_)
    (h_gates : Table.wf (fun _ => {}) gates_)
    (h_pages : Table.wf (fun _ => {}) pages_)
    (h_poison : poison_.Pairwise (· < ·))
    (h_units : Table.wf (fun _ => {}) units_)
    (h_links : Table.wf (fun _ => {}) links_)
    (h_bundles : Table.wf (fun _ => {}) bundles_)
    (h_actions : Table.wf (fun _ => {}) actions_)
    (h_ports : Table.wf (fun _ => {}) hostPorts_)
    (h_sampled : Table.wf (fun _ => {}) samplers_)
    (h_markers : Table.wf (fun _ => 0) markerSeq_)
    (h_lostGen : Table.wf (fun _ => 0) lostGen_)
    (h_lostSet : lostSet_.Pairwise (· < ·))
    (h_chosen : Table.wf (fun _ => 0) chosen_)
    (h_causes : Table.wf (fun _ => 0) floorCause_)
    (h_moved : Table.wf (fun _ => []) moved_)
    (h_parts : Table.wf (fun _ => (0, 0)) parts_)
    (h_crossing : Table.wf (fun _ => []) crossing_)
    (h_image : Table.wf (fun _ => 0) perhal_.img)
    (h_chain : Table.wf (fun _ => 0) perhal_.chain)
    (h_steps : Table.wf (fun _ => 0) thermal_.steps)
    (h_reading : Table.wf (fun _ => 0) thermal_.reading)
    (h_weights : Table.wf (fun _ => 0) fig_.weights)
    (h_dealt : Table.wf (fun _ => 0) fig_.dealt)
    (h_health : Table.wf (fun _ => 0) snp_.health)
    (h_meas : Table.wf (fun _ => {}) clx_.meas)
    (h_sums : Table.wf (fun _ => none) clx_.words)
    (h_spdm : perhal_.sessions.Pairwise (· < ·))
    (h_ide : Table.wf (fun _ => none) perhal_.ide)
    (h_order : ∀ p ∈ perhal_.order, p < 2)
    (h_ids : (cmds_.map Cmd.id ++ [nextId_]).Pairwise (· < ·)) :
    (State.mk pending_ regs_ mem_ poison_ fencedPch_ fencedStg_ fencedWbf_ lostGen_ lostSet_ pages_ heldWrites_
    preserving_ retiring_ ceCounts_ ceFired_ cells_ waits_ queues_ arrivals_ chosen_ cmds_ nextId_ claims_ granted_
    jobs_ gates_ cplWait_ hostPorts_ sending_ absentDue_ floorCause_ actions_ windows_ hwFences_ secondFences_
    fieldEvents_ samplers_ markerSeq_ tokens_ hostOut_ free_ spareDue_ badSpares_ units_ groups_ nextGroup_ links_
    sentItems_ sentFrames_ clx_ fig_ snp_ relocking_ diagLost_ fuses_ fatal_ degraded_ retireDue_ bundles_ moved_
    parts_ crossing_ startCount_ record_ inForce_ found_ tallied_ i3c_ perhal_ thermal_ paused_).Tidy :=
  ⟨h_regs, h_mem, h_cells, h_queues, h_jobs, h_gates, h_pages, h_poison, h_units, h_links, h_bundles, h_actions,
    h_ports, h_sampled, h_markers, h_lostGen, h_lostSet, h_chosen, h_causes, h_moved, h_parts, h_crossing, h_image,
    h_chain, h_steps, h_reading, h_weights, h_dealt, h_health, h_meas, h_sums, h_spdm, h_ide, h_order, h_ids⟩

/-- A choice between tidy states is tidy. -/
theorem State.Tidy.ite {c : Prop} [Decidable c] {s t : State} (hs : s.Tidy) (ht : t.Tidy) : (if c then s else t).Tidy := by
  split <;> assumption

/-- A change by the elements of a list keeps the canonical form. -/
def Keeps {α : Type} (f : State → α → State) : Prop := ∀ s x, s.Tidy → (f s x).Tidy

/-- A change keeps the canonical form. -/
def Keeps1 (f : State → State) : Prop := ∀ s, s.Tidy → (f s).Tidy

theorem Keeps.intro {α : Type} {f : State → α → State} (h : ∀ s x, s.Tidy → (f s x).Tidy) : Keeps f := h
theorem Keeps1.intro {f : State → State} (h : ∀ s, s.Tidy → (f s).Tidy) : Keeps1 f := h

/-- A fold over a list keeps the canonical form if each of its steps does. -/
theorem State.Tidy.getD {o : Option State} {s : State} (ho : ∀ t, o = some t → t.Tidy) (h : s.Tidy) :
    (o.getD s).Tidy := by
  cases o with
  | none => exact h
  | some t => exact ho t rfl

theorem State.Tidy.foldl {α : Type} {f : State → α → State} (hf : Keeps f) :
    ∀ (l : List α) {s : State}, s.Tidy → (l.foldl f s).Tidy
  | [], _, h => h
  | _ :: l, _, h => State.Tidy.foldl hf l (hf _ _ h)

theorem State.Tidy.each {α : Type} {s : State} {l : List α} {f : State → α → State} (hf : Keeps f) (h : s.Tidy) :
    (s.each l f).Tidy := State.Tidy.foldl hf l h

theorem State.Tidy.when {s : State} {b : Bool} {f : State → State} (hf : Keeps1 f) (h : s.Tidy) :
    (s.when b f).Tidy := State.Tidy.ite (hf s h) h

/-- The waits of queues change within the table of queues. -/
theorem queueWaits_wf {α : Type} (k : α → Nat) (f : α → Queue → Queue) (l : List α) :
    ∀ q : Table Queue, Table.wf (fun _ => ({} : Queue)) q →
      Table.wf (fun _ => ({} : Queue))
        (l.foldl (fun q w => Table.set (fun _ => {}) q (k w) (f w (Table.get (fun _ => {}) q (k w)))) q) := by
  induction l with
  | nil => intro q h; exact h
  | cons w l ih => intro q h; exact ih _ (Table.wf_set _ _ _ _ h)

/-- A fold keeps what each of its steps keeps. -/
theorem foldl_keeps {α β : Type} {P : β → Prop} {f : β → α → β} (hf : ∀ m x, P m → P (f m x)) :
    ∀ (l : List α) {m : β}, P m → P (l.foldl f m)
  | [], _, h => h
  | x :: l, _, h => foldl_keeps hf l (hf _ x h)

/-- A loop keeps a table's canonical form if each of its steps does. -/
theorem forUpto_wf {α : Type} {dflt : Nat → α} {f : Nat → Table α → Table α} (hf : ∀ i m, Table.wf dflt m → Table.wf dflt (f i m))
    (n : Nat) {m : Table α} (h : Table.wf dflt m) : Table.wf dflt (forUpto f n m) := by
  induction n with
  | zero => exact h
  | succ n ih => exact hf _ _ ih

/-- A loop of changes keeps the canonical form if each of them does. -/
theorem forUpto_tidy {f : Nat → State → State} (hf : ∀ i s, s.Tidy → (f i s).Tidy) (n : Nat) {s : State} (h : s.Tidy) :
    (forUpto f n s).Tidy := by
  induction n with
  | zero => exact h
  | succ n ih => exact hf _ _ ih

/-- What an instruction answers keeps the canonical form. -/
def Issue.Tidy : Issue → Prop
  | .ok s => s.Tidy
  | _ => True

theorem Issue.ok_tidy {s : State} (h : s.Tidy) : (Issue.ok s).Tidy := h
theorem Issue.fault_tidy (f : Nat) : (Issue.fault f).Tidy := trivial
theorem Issue.stop_tidy (e : Nat) : (Issue.stop e).Tidy := trivial
theorem Issue.ite_tidy {c : Prop} [Decidable c] {x y : Issue} (hx : x.Tidy) (hy : y.Tidy) : (if c then x else y).Tidy := by
  split <;> assumption

/-- Commands that keep their identifiers change within the canonical form. -/
theorem State.Tidy.cmds {s : State} (h : s.Tidy) {l : List Cmd} (k : l.map Cmd.id = s.cmds.map Cmd.id) :
    State.Tidy { s with cmds := l } := { h with ids := by simpa only [k] using h.ids }

/-- A change of some commands keeps their identifiers. -/
theorem mapIf_id (p : Cmd → Bool) (f : Cmd → Cmd) (hf : ∀ c, (f c).id = c.id) (l : List Cmd) :
    (mapIf p f l).map Cmd.id = l.map Cmd.id := by
  simp only [mapIf, List.map_map]
  apply List.map_congr_left
  intro c _
  simp only [Function.comp]
  split
  · exact hf c
  · rfl

theorem State.Tidy.mapIf {s : State} (h : s.Tidy) {p : Cmd → Bool} {f : Cmd → Cmd} (hf : ∀ c, (f c).id = c.id) :
    State.Tidy { s with cmds := mapIf p f s.cmds } := h.cmds (mapIf_id p f hf s.cmds)

/-- Fewer commands, with the next identifier as far or further on, keep the canonical form. -/
theorem State.Tidy.fewer {s : State} (h : s.Tidy) {l : List Cmd} {n : Nat} (hl : l.Sublist s.cmds) (hn : s.nextId ≤ n) :
    State.Tidy { s with cmds := l, nextId := n } := by
  have k := h.ids
  have e : (l.map Cmd.id ++ [n]).Pairwise (· < ·) := by
    rw [List.pairwise_append] at k ⊢
    refine ⟨k.1.sublist (hl.map _), List.pairwise_singleton _ _, fun a ha b hb => ?_⟩
    rw [List.mem_singleton] at hb
    subst hb
    exact lt_of_lt_of_le (k.2.2 a ((hl.map _).subset ha) s.nextId (List.mem_singleton.mpr rfl)) hn
  exact { h with ids := e }

/-- A command under the next identifier joins the dispatched ones. -/
theorem State.Tidy.push {s : State} (h : s.Tidy) {c : Cmd} (k : c.id = s.nextId) :
    State.Tidy { s with nextId := s.nextId + 1, cmds := s.cmds ++ [c] } := by
  have i := h.ids
  have e : ((s.cmds ++ [c]).map Cmd.id ++ [s.nextId + 1]).Pairwise (· < ·) := by
    rw [List.map_append, List.map_singleton, k, List.pairwise_append]
    refine ⟨i, List.pairwise_singleton _ _, fun a ha b hb => ?_⟩
    rw [List.mem_singleton] at hb
    subst hb
    rcases List.mem_append.mp ha with ha | ha
    · exact Nat.lt_succ_of_lt ((List.pairwise_append.mp i).2.2 a ha s.nextId (List.mem_singleton.mpr rfl))
    · rw [List.mem_singleton] at ha
      omega
  exact { h with ids := e }

/-- Sending a vector keeps the canonical form. -/
def SendKeeps (send : State → Nat → Nat → State) : Prop := ∀ s p v, s.Tidy → (send s p v).Tidy

/-! Primitive updates. -/

theorem State.Tidy.reset : State.reset.Tidy := State.tidy_of_tidyB _ (by decide)

theorem State.setWord_tidy {s : State} (a n : Nat) (h : s.Tidy) : (s.setWord a n).Tidy :=
  { h with regs := Table.wf_set _ _ _ _ h.regs }
theorem State.Tidy.memory {s : State} (h : s.Tidy) {m : Table Byte} {p l : List Nat} (hm : Memory.wf m)
    (hp : p.Pairwise (· < ·)) (hl : l.Pairwise (· < ·)) : State.Tidy { s with mem := m, poison := p, lostSet := l } :=
  { h with mem := hm, poison := hp, lostSet := hl }
theorem State.Tidy.prom {s : State} (h : s.Tidy) (o : Option Nat) (x : Option Prom) :
    State.Tidy { s with sending := o, snp := { s.snp with prom := x } } := { h with }
theorem State.Tidy.inProm {s : State} (h : s.Tidy) (x : Option InProm) :
    State.Tidy { s with snp := { s.snp with inProm := x } } := { h with }
theorem State.Tidy.cut {s : State} (h : s.Tidy) {hw : List HeldWrite} {sp : List (Nat × Bool × Nat)}
    {bs f1 f2 dg hot : List Nat} {w : List (Nat × Nat)}
    {regs : Table Word} (h_regs : Table.wf resetWord regs)
    {chosen : Table Nat} (h_chosen : Table.wf (fun _ => 0) chosen)
    {cells : Table Nat} (h_cells : Table.wf (fun _ => 0) cells)
    {queues : Table Queue} (h_queues : Table.wf (fun _ => {}) queues)
    {jobs : Table Job} (h_jobs : Table.wf (fun _ => {}) jobs)
    {units : Table UnitCore} (h_units : Table.wf (fun _ => {}) units)
    {samplers : Table Sampler} (h_samplers : Table.wf (fun _ => {}) samplers)
    {markerSeq : Table Nat} (h_markerSeq : Table.wf (fun _ => 0) markerSeq)
    {actions : Table Actions} (h_actions : Table.wf (fun _ => {}) actions)
    {crossing : Table (List Nat)} (h_crossing : Table.wf (fun _ => []) crossing) :
    State.Tidy { s with
      regs := regs, chosen := chosen, cells := cells, queues := queues, jobs := jobs, units := units,
      samplers := samplers, markerSeq := markerSeq, actions := actions, crossing := crossing,
      heldWrites := hw, spareDue := sp, badSpares := bs, hwFences := f1, secondFences := f2, degraded := dg, windows := w,
      thermal := { s.thermal with hot := hot } } :=
  { h with
    regs := h_regs, chosen := h_chosen, cells := h_cells, queues := h_queues, jobs := h_jobs, units := h_units,
    sampled := h_samplers, markers := h_markerSeq, actions := h_actions, crossing := h_crossing }
theorem State.put_tidy {s : State} (pg : Nat) (f : Fld) (n : Nat) (h : s.Tidy) : (s.put pg f n).Tidy := State.setWord_tidy _ _ h
theorem State.flag_tidy {s : State} (pg : Nat) (f : Fld) (b : Bool) (h : s.Tidy) : (s.flag pg f b).Tidy := State.put_tidy _ _ _ h
theorem State.tell_tidy {s : State} (m : HostMsg) (h : s.Tidy) : (s.tell m).Tidy := { h with }
theorem State.draw_tidy {s : State} (h : s.Tidy) : s.draw.2.Tidy := { h with }
theorem State.stamp_tidy {s : State} (h : s.Tidy) : s.stamp.2.Tidy := { h with }
theorem State.setPort_tidy {s : State} (p : Nat) (x : HostPort) (h : s.Tidy) : (s.setPort p x).Tidy :=
  { h with ports := Table.wf_set _ _ _ _ h.ports }
theorem State.setCell_tidy {s : State} (c v : Nat) (h : s.Tidy) : (s.setCell c v).Tidy :=
  { h with cells := Table.wf_set _ _ _ _ h.cells }
theorem State.setQueue_tidy {s : State} (k : Nat) (q : Queue) (h : s.Tidy) : (s.setQueue k q).Tidy :=
  { h with queues := Table.wf_set _ _ _ _ h.queues }
theorem State.setPageSt_tidy {s : State} (p : Nat) (x : Page) (h : s.Tidy) : (s.setPageSt p x).Tidy :=
  { h with pages := Table.wf_set _ _ _ _ h.pages }
theorem State.setJob_tidy {s : State} (d c : Nat) (j : Job) (h : s.Tidy) : (s.setJob d c j).Tidy :=
  { h with jobs := Table.wf_set _ _ _ _ h.jobs }
theorem State.setGate_tidy {s : State} (c : Nat) (g : Gate) (h : s.Tidy) : (s.setGate c g).Tidy :=
  { h with gates := Table.wf_set _ _ _ _ h.gates }
theorem State.setUnit_tidy {s : State} (d u : Nat) (x : UnitCore) (h : s.Tidy) : (s.setUnit d u x).Tidy :=
  { h with units := Table.wf_set _ _ _ _ h.units }
theorem State.setLink_tidy {s : State} (e : Nat) (l : Link) (h : s.Tidy) : (s.setLink e l).Tidy :=
  { h with links := Table.wf_set _ _ _ _ h.links }
theorem State.setBundle_tidy {s : State} (d b : Nat) (x : Bundle) (h : s.Tidy) : (s.setBundle d b x).Tidy :=
  { h with bundles := Table.wf_set _ _ _ _ h.bundles }
theorem State.setMoved_tidy {s : State} (k : Nat) (l : List Kept) (h : s.Tidy) : (s.setMoved k l).Tidy :=
  { h with moved := Table.wf_set _ _ _ _ h.moved }
theorem State.setPart_tidy {s : State} (d b : Nat) (p : Nat × Nat) (h : s.Tidy) : (s.setPart d b p).Tidy :=
  { h with parts := Table.wf_set _ _ _ _ h.parts }
theorem State.setCrossed_tidy {s : State} (k : Nat) (l : List Nat) (h : s.Tidy) : (s.setCrossed k l).Tidy :=
  { h with crossing := Table.wf_set _ _ _ _ h.crossing }
theorem State.setActs_tidy {s : State} (d : Nat) (a : Actions) (h : s.Tidy) : (s.setActs d a).Tidy :=
  State.put_tidy _ _ _ (State.flag_tidy _ _ _ { h with actions := Table.wf_set _ _ _ _ h.actions })
theorem State.setSampler_tidy {s : State} (d : Nat) (x : Sampler) (h : s.Tidy) : (s.setSampler d x).Tidy :=
  { h with sampled := Table.wf_set _ _ _ _ h.sampled }

end Sys2Proof.Machine
end

