-- ==== Sys2Proof/Laws/TidyOps.lean ====
section
/-! SUPPORT. Every function of Machine/Ops.lean that answers a state keeps the canonical form (`State.Tidy`): one lemma
per function, named after it. -/

namespace Sys2Proof.Machine

theorem State.useId_tidy (s : State) (h_s : s.Tidy) : (State.useId s).Tidy := by
  unfold State.useId
  repeat' first
    | with_reducible assumption
    | (subst x_)
    | (with_reducible refine State.Tidy.fewer ?_ (List.Sublist.refl _) (Nat.le_succ _))

theorem State.blockIntBy_tidy {send : State → Nat → Nat → State} (hs : SendKeeps send) (s : State) (h_s : s.Tidy) :
    (s.blockIntBy send).Tidy :=
  State.Tidy.each (fun _ _ h => State.Tidy.ite (hs _ _ _ h) h) h_s

theorem State.intChangeBy_tidy {send : State → Nat → Nat → State} (hs : SendKeeps send) (s : State) (pg : Nat)
    (f : State → State) (hf : Keeps1 f) (h_s : s.Tidy) : (s.intChangeBy send pg f).Tidy := by
  have h := hf s h_s
  unfold State.intChangeBy
  exact State.Tidy.ite (State.blockIntBy_tidy hs _ h) h

theorem State.intSetBy_tidy {send : State → Nat → Nat → State} (hs : SendKeeps send) (s : State) (pg b : Nat) (h_s :
    s.Tidy) :
    (s.intSetBy send pg b).Tidy := State.intChangeBy_tidy hs s pg _ (fun _ h => State.put_tidy _ _ _ h) h_s

theorem State.setOvfBy_tidy {send : State → Nat → Nat → State} (hs : SendKeeps send) (s : State) (die n : Nat) (h_s :
    s.Tidy) :
    (s.setOvfBy send die n).Tidy := State.intSetBy_tidy hs _ _ _ (State.setWord_tidy _ _ h_s)

theorem State.countAtBy_tidy {send : State → Nat → Nat → State} (hs : SendKeeps send) :
    ∀ (fuel : Nat) (s : State) (a k : Nat), s.Tidy → (s.countAtBy send a k fuel).Tidy
  | 0, _, _, _, h => h
  | fuel + 1, s, a, k, h => by
    have h1 := State.setWord_tidy (s := s) a ((s.word a % 2 ^ 48 + k) % 2 ^ 48) h
    have h2 := State.setOvfBy_tidy hs _ (a / 0x1000000) (counterIndex a) h1
    unfold State.countAtBy
    refine State.Tidy.ite h1 (State.Tidy.ite ?_ h2)
    split
    · exact State.countAtBy_tidy hs fuel _ _ _ h2
    · exact h2

theorem State.countBy_tidy {send : State → Nat → Nat → State} (hs : SendKeeps send) (s : State) (pg : Nat) (c : Fld)
    (k : Nat)
    (h_s : s.Tidy) : (s.countBy send pg c k).Tidy := State.Tidy.ite h_s (State.countAtBy_tidy hs _ _ _ _ h_s)

theorem State.msixBy_tidy : ∀ depth, SendKeeps (State.msixBy depth)
  | 0, _, _, _, h => h
  | depth + 1, s, p, v, h => by
    have hc (x : State) (f : Fld) (k : Nat) (hx : x.Tidy) : (x.countBy (State.msixBy depth) (hifPage p) f k).Tidy :=
      State.countBy_tidy (State.msixBy_tidy depth) x _ f k hx
    unfold State.msixBy
    exact State.Tidy.ite (hc _ _ _ h)
      (State.Tidy.ite (hc _ _ _ (hc _ _ _ (State.tell_tidy _ h))) (State.setPort_tidy _ _ h))

theorem State.msix_tidy (s : State) (p v : Nat) (h_s : s.Tidy) : (s.msix p v).Tidy := State.msixBy_tidy 7 s p v h_s

theorem State.blockInt_tidy (s : State) (h_s : s.Tidy) : s.blockInt.Tidy := State.blockIntBy_tidy (State.msixBy_tidy
    7) s h_s

theorem State.intChange_tidy (s : State) (pg : Nat) (f : State → State) (hf : Keeps1 f) (h_s : s.Tidy) :
    (s.intChange pg f).Tidy := State.intChangeBy_tidy (State.msixBy_tidy 7) s pg f hf h_s

theorem State.intSet_tidy (s : State) (pg b : Nat) (h_s : s.Tidy) : (s.intSet pg b).Tidy :=
  State.intSetBy_tidy (State.msixBy_tidy 7) s pg b h_s

theorem State.setOvf_tidy (s : State) (die n : Nat) (h_s : s.Tidy) : (s.setOvf die n).Tidy :=
  State.setOvfBy_tidy (State.msixBy_tidy 7) s die n h_s

theorem State.count_tidy (s : State) (pg : Nat) (c : Fld) (k : Nat) (h_s : s.Tidy) : (s.count pg c k).Tidy :=
  State.countBy_tidy (State.msixBy_tidy 7) s pg c k h_s

theorem State.testWatches_tidy (s : State) (c : Nat) (h_s : s.Tidy) : (State.testWatches s c).Tidy := by
  unfold State.testWatches
  repeat' first
    | with_reducible assumption
    | (with_reducible refine Keeps.intro (fun s_ y_ h_ => ?_))
    | (subst x_)
    | with_reducible apply State.count_tidy
    | with_reducible apply State.msix_tidy
    | with_reducible apply State.put_tidy
    | with_reducible apply State.Tidy.ite
    | with_reducible apply State.Tidy.each

theorem State.testWait_tidy (s : State) (w : Wait) (h_s : s.Tidy) : (State.testWait s w).Tidy := by
  unfold State.testWait
  repeat' first
    | with_reducible assumption
    | (focus ((try lift_lets); intro x_; refine (fun (h_ : State.Tidy x_) => ?_) ?_; clear_value x_))
    | (subst x_)
    | with_reducible apply State.consume_tidy
    | with_reducible apply State.count_tidy
    | with_reducible apply State.setCell_tidy
    | with_reducible apply State.setQueue_tidy
    | with_reducible apply State.testWatches_tidy
    | with_reducible apply State.Tidy.ite
    | (with_reducible refine State.mk_tidy rfl ?_; first | with_reducible assumption)

theorem State.updateCell_tidy (s : State) (c v : Nat) (h_s : s.Tidy) : (State.updateCell s c v).Tidy := by
  unfold State.updateCell
  repeat' first
    | with_reducible assumption
    | (with_reducible refine Keeps.intro (fun s_ y_ h_ => ?_))
    | (focus ((try lift_lets); intro x_; refine (fun (h_ : State.Tidy x_) => ?_) ?_; clear_value x_))
    | (subst x_)
    | with_reducible apply State.setCell_tidy
    | with_reducible apply State.testWait_tidy
    | with_reducible apply State.testWatches_tidy
    | with_reducible apply State.Tidy.each

theorem State.signal_tidy (s : State) (g : Signal) (src : Origin) (h_s : s.Tidy) : (State.signal s g src).Tidy := by
  unfold State.signal
  repeat' first
    | with_reducible assumption
    | (subst x_)
    | with_reducible apply State.count_tidy
    | with_reducible apply State.updateCell_tidy

theorem State.signalLive_tidy (s : State) (g : Signal) (src : Origin) (h_s : s.Tidy) : (State.signalLive s g
    src).Tidy := by
  unfold State.signalLive
  repeat' first
    | with_reducible assumption
    | with_reducible apply State.signal_tidy
    | with_reducible apply State.Tidy.ite

theorem State.countBytes_tidy (s : State) (via : Via) (write : Bool) (g n : Nat) (h_s : s.Tidy) : (State.countBytes s
    via write g n).Tidy := by
  unfold State.countBytes
  repeat' first
    | with_reducible assumption
    | (focus ((try lift_lets); intro x_; refine (fun (h_ : State.Tidy x_) => ?_) ?_; clear_value x_))
    | (subst x_)
    | with_reducible apply State.count_tidy
    | with_reducible apply State.Tidy.ite
    | (with_reducible refine State.mk_tidy rfl ?_; first | with_reducible assumption)
    | split

theorem State.countRead_tidy (s : State) (via : Via) (a len : Nat) (h_s : s.Tidy) : (State.countRead s via a
    len).Tidy := by
  unfold State.countRead
  repeat' first
    | with_reducible assumption
    | (with_reducible refine Keeps.intro (fun s_ y_ h_ => ?_))
    | (subst x_)
    | with_reducible apply State.countBytes_tidy
    | with_reducible apply State.Tidy.ite
    | with_reducible apply State.Tidy.each

theorem State.storeGranule_tidy (s : State) (g data mask : Nat) (h_s : s.Tidy) : (s.storeGranule g data mask).Tidy := by
  unfold State.storeGranule
  refine h_s.memory (p := s.poison) ?_ h_s.poison ?_
  · exact forUpto_wf (dflt := fun _ => 0) (fun _ _ h => Table.wf_set _ _ _ _ h) _ h_s.mem
  · show List.Pairwise (· < ·) (if _ then _ else _)
    split
    · exact h_s.lostSet
    · exact pairwise_setInsert _ _ h_s.lostSet

theorem State.lost_tidy (s : State) (parts : List Nat) (h_s : s.Tidy) : (s.lost parts).Tidy :=
  { State.draw_tidy h_s with
    lostGen := foldl_keeps (P := Table.wf fun _ => 0) (fun _ _ h => Table.wf_set _ _ _ _ h) parts h_s.lostGen
    lostSet := h_s.lostSet.filter _ }

theorem State.markWritten_tidy (s : State) (a : Nat) (h_s : s.Tidy) : (State.markWritten s a).Tidy := by
  unfold State.markWritten
  repeat' first
    | with_reducible assumption
    | (with_reducible refine Keeps.intro (fun s_ y_ h_ => ?_))
    | (subst x_)
    | (focus ((try lift_lets); intro x_; (fail_if_success (have q_ : x_ = fun a_ => x_ a_ := rfl)); clear_value x_))
    | with_reducible apply State.setWord_tidy
    | with_reducible apply State.Tidy.each

theorem State.qput_tidy (s : State) (d q : Nat) (f : Nat → Fld) (n : Nat) (h_s : s.Tidy) : (State.qput s d q f
    n).Tidy := by
  unfold State.qput
  repeat' first
    | with_reducible assumption
    | with_reducible apply State.put_tidy

theorem State.refreshOutstanding_tidy (s : State) (d q : Nat) (h_s : s.Tidy) : (State.refreshOutstanding s d q).Tidy
    := by
  unfold State.refreshOutstanding
  repeat' first
    | with_reducible assumption
    | with_reducible apply State.qput_tidy

theorem State.land_tidy (s : State) (via : Via) (a data mask : Nat) (poison : Bool) (h_s : s.Tidy) :
    (s.land via a data mask poison).Tidy := by
  have h1 := State.countBytes_tidy s via true (s.phys a) (maskBytes mask) h_s
  have h2 : (if a < dramEnd then (s.countBytes via true (s.phys a) (maskBytes mask)).setPageSt (a / pageBytes)
      { (s.countBytes via true (s.phys a) (maskBytes mask)).pageSt (a / pageBytes) with dirty := true }
      else s.countBytes via true (s.phys a) (maskBytes mask)).Tidy := State.Tidy.ite (State.setPageSt_tidy _ _ h1) h1
  unfold State.land
  refine State.Tidy.ite h_s (State.Tidy.ite ?_ (State.Tidy.ite h2 ?_))
  · refine State.markWritten_tidy _ _ (State.storeGranule_tidy _ _ _ _ { h2 with poison := ?_ })
    show List.Pairwise (· < ·) (if poison then _ else _)
    split
    · exact pairwise_setInsert _ _ h2.poison
    · exact pairwise_setErase _ _ h2.poison
  · exact State.markWritten_tidy _ _ (State.storeGranule_tidy _ _ _ _ h2)

theorem State.claimSlot_tidy (s : State) (p : Nat) (h_s : s.Tidy) : (State.claimSlot s p).Tidy := by
  unfold State.claimSlot
  repeat' first
    | with_reducible assumption
    | (focus ((try lift_lets); intro x_; refine (fun (h_ : State.Tidy x_) => ?_) ?_; clear_value x_))
    | (subst x_)
    | (focus ((try lift_lets); intro x_; (fail_if_success (have q_ : x_ = fun a_ => x_ a_ := rfl)); clear_value x_))
    | ((try lift_lets); intro x_)
    | with_reducible apply State.count_tidy
    | with_reducible apply State.setPageSt_tidy
    | (with_reducible refine State.mk_tidy rfl ?_; first | with_reducible assumption)
    | split

theorem State.reach_tidy (s : State) (w : HeldWrite) (h_s : s.Tidy) : (State.reach s w).2.Tidy := by
  unfold State.reach
  repeat' first
    | with_reducible assumption
    | (with_reducible refine Keeps1.intro (fun s_ h_ => ?_))
    | (focus ((try lift_lets); intro x_; refine (fun (h_ : State.Tidy x_) => ?_) ?_; clear_value x_))
    | (subst x_)
    | (focus ((try lift_lets); intro x_; (first | (have q_ : Snp := x_)); clear q_; subst x_))
    | (focus ((try lift_lets); intro x_; (fail_if_success (have q_ : x_ = fun a_ => x_ a_ := rfl)); clear_value x_))
    | ((try lift_lets); intro x_)
    | with_reducible apply State.claimSlot_tidy
    | with_reducible apply State.count_tidy
    | with_reducible apply State.Tidy.ite
    | with_reducible apply State.Tidy.when
    | (with_reducible refine State.mk_tidy rfl ?_; first | with_reducible assumption)
    | split

theorem State.recorded_tidy (s : State) (x : Nat × Bool) (h_s : s.Tidy) : (State.recorded s x).Tidy := by
  unfold State.recorded
  repeat' first
    | with_reducible assumption
    | (focus ((try lift_lets); intro x_; refine (fun (h_ : State.Tidy x_) => ?_) ?_; clear_value x_))
    | (subst x_)
    | with_reducible apply State.msix_tidy
    | with_reducible apply State.qput_tidy
    | with_reducible apply State.refreshOutstanding_tidy
    | with_reducible apply State.Tidy.ite

theorem State.arrive_tidy (s : State) (w : HeldWrite) (h_s : s.Tidy) : (State.arrive s w).Tidy := by
  unfold State.arrive
  repeat' first
    | with_reducible assumption
    | (focus ((try lift_lets); intro x_; refine (fun (h_ : State.Tidy x_) => ?_) ?_; clear_value x_))
    | (subst x_)
    | (focus ((try lift_lets); intro x_; refine (fun (h_ : State.Tidy x_.2) => ?_) ?_; clear_value x_))
    | with_reducible apply State.land_tidy
    | with_reducible apply State.reach_tidy
    | with_reducible apply State.recorded_tidy
    | with_reducible apply State.Tidy.ite
    | (with_reducible refine State.mk_tidy rfl ?_; first | with_reducible assumption)
    | split

theorem State.drainHeld_tidy (s : State) (h_s : s.Tidy) : (State.drainHeld s).Tidy := by
  unfold State.drainHeld
  repeat' first
    | with_reducible assumption
    | (with_reducible refine Keeps.intro (fun s_ y_ h_ => ?_))
    | (focus ((try lift_lets); intro x_; refine (fun (h_ : State.Tidy x_) => ?_) ?_; clear_value x_))
    | (subst x_)
    | with_reducible apply State.arrive_tidy
    | with_reducible apply State.refreshOutstanding_tidy
    | with_reducible apply State.Tidy.each
    | (with_reducible refine State.mk_tidy rfl ?_; first | with_reducible assumption)

theorem State.writeGranule_tidy (s : State) (via : Via) (owner : Option Nat) (a data mask : Nat) (poison : Bool) (h_s
    : s.Tidy) : (State.writeGranule s via owner a data mask poison).Tidy := by
  unfold State.writeGranule
  repeat' first
    | with_reducible assumption
    | with_reducible apply State.arrive_tidy

theorem State.writeFrom_tidy (via : Via) (owner : Option Nat) :
    ∀ (fuel : Nat) (s : State) (a : Nat) (l : List Byte), s.Tidy → (s.writeFrom via owner a l fuel).Tidy
  | 0, _, _, _, h => h
  | fuel + 1, s, a, l, h => by
    unfold State.writeFrom
    exact State.Tidy.ite h (State.writeFrom_tidy via owner fuel _ _ _ (State.writeGranule_tidy _ _ _ _ _ _ _ h))

theorem State.write_tidy (s : State) (via : Via) (owner : Option Nat) (a : Nat) (l : List Byte) (h_s : s.Tidy) :
    (s.write via owner a l).Tidy := State.writeFrom_tidy via owner _ s a l h_s

theorem State.undefine_tidy (s : State) (a len : Nat) (h_s : s.Tidy) : (State.undefine s a len).Tidy := by
  unfold State.undefine
  repeat' first
    | with_reducible assumption
    | (subst x_)
    | (focus ((try lift_lets); intro x_; refine (fun (h_ : State.Tidy x_.2) => ?_) ?_; clear_value x_))
    | with_reducible apply State.draw_tidy
    | with_reducible apply State.write_tidy

theorem State.poisonAt_tidy (s : State) (a : Nat) (h_s : s.Tidy) : (s.poisonAt a).Tidy :=
  { h_s with poison := pairwise_setInsert _ _ h_s.poison }

theorem State.copyPage_tidy (s : State) (src dst : Nat) (h_s : s.Tidy) : (s.copyPage src dst).Tidy := by
  unfold State.copyPage
  lift_lets
  intro inP kept taken new lost pn counted t
  have ht : Keeps fun (s : State) (n : Nat) => counted s n := fun _ _ h =>
     State.count_tidy _ _ _ _ (State.count_tidy _ _ _ _ (State.count_tidy _ _ _ _ h))
  refine State.Tidy.memory (State.Tidy.each ht h_s) ?_ ?_ (State.Tidy.each ht h_s).lostSet
  · exact foldl_keeps (P := Memory.wf) (fun _ _ h => Table.wf_set _ _ _ _ h) _ (Table.wf_filter _ _ _ h_s.mem)
  · exact foldl_keeps (P := List.Pairwise (· < ·)) (fun _ _ h => pairwise_setInsert _ _ h) _ (h_s.poison.filter _)

end Sys2Proof.Machine
end

