-- ==== Sys2Proof/Laws/TidyReport.lean ====
section
/-! SUPPORT. Every function of Machine/Report.lean that answers a state keeps the canonical form (`State.Tidy`): one lemma
per function, named after it. -/

namespace Sys2Proof.Machine

theorem State.writeWords_tidy (s : State) (a : Nat) (w : List Nat) (h_s : s.Tidy) : (State.writeWords s a w).Tidy := by
  unfold State.writeWords
  repeat' first
    | with_reducible assumption
    | with_reducible apply State.write_tidy

theorem State.numRecord_tidy (s : State) (d : Nat) (w : List Nat) (h_s : s.Tidy) : (State.numRecord s d w).Tidy := by
  unfold State.numRecord
  repeat' first
    | with_reducible assumption
    | (focus ((try lift_lets); intro x_; refine (fun (h_ : State.Tidy x_) => ?_) ?_; clear_value x_))
    | (subst x_)
    | with_reducible apply State.count_tidy
    | with_reducible apply State.intSet_tidy
    | with_reducible apply State.put_tidy
    | with_reducible apply State.writeWords_tidy
    | with_reducible apply State.Tidy.ite

theorem State.numEvent_tidy (s : State) (d ctx kind tensor mb layer bwd err gate : Nat) (h_s : s.Tidy) :
    (State.numEvent s d ctx kind tensor mb layer bwd err gate).Tidy := by
  unfold State.numEvent
  repeat' first
    | with_reducible assumption
    | (subst x_)
    | (focus ((try lift_lets); intro x_; refine (fun (h_ : State.Tidy x_.2) => ?_) ?_; clear_value x_))
    | with_reducible apply State.numRecord_tidy
    | with_reducible apply State.stamp_tidy

theorem State.putCauses_tidy (s : State) (d ctx bitsOf : Nat) (h_s : s.Tidy) : (State.putCauses s d ctx bitsOf).Tidy
    := by
  unfold State.putCauses
  repeat' first
    | with_reducible assumption
    | (focus ((try lift_lets); intro x_; refine (fun (h_ : State.Tidy x_) => ?_) ?_; clear_value x_))
    | (subst x_)
    | with_reducible apply State.flag_tidy
    | with_reducible apply State.put_tidy

theorem State.setCause_tidy (s : State) (d ctx b : Nat) (h_s : s.Tidy) : (State.setCause s d ctx b).Tidy := by
  unfold State.setCause
  repeat' first
    | with_reducible assumption
    | (subst x_)
    | with_reducible apply State.putCauses_tidy
    | with_reducible apply State.setJob_tidy
    | with_reducible apply State.Tidy.ite

theorem State.nonfinite_tidy (s : State) (d ctx : Nat) (h_s : s.Tidy) : (State.nonfinite s d ctx).Tidy := by
  unfold State.nonfinite
  repeat' first
    | with_reducible assumption
    | (focus ((try lift_lets); intro x_; refine (fun (h_ : State.Tidy x_) => ?_) ?_; clear_value x_))
    | (subst x_)
    | with_reducible apply State.count_tidy
    | with_reducible apply State.numEvent_tidy
    | with_reducible apply State.put_tidy
    | with_reducible apply State.setCause_tidy
    | with_reducible apply State.Tidy.ite

theorem State.pmuRecord_tidy (s : State) (d : Nat) (w : List Nat) (h_s : s.Tidy) : (State.pmuRecord s d w).Tidy := by
  unfold State.pmuRecord
  repeat' first
    | with_reducible assumption
    | (focus ((try lift_lets); intro x_; refine (fun (h_ : State.Tidy x_) => ?_) ?_; clear_value x_))
    | (subst x_)
    | with_reducible apply State.count_tidy
    | with_reducible apply State.intSet_tidy
    | with_reducible apply State.put_tidy
    | with_reducible apply State.writeWords_tidy
    | with_reducible apply State.Tidy.ite

theorem State.stampWord_tidy (s : State) (island : Nat) (h_s : s.Tidy) : (State.stampWord s island).2.Tidy := by
  unfold State.stampWord
  repeat' first
    | with_reducible assumption
    | with_reducible apply State.stamp_tidy

theorem State.mapCmd_tidy (s : State) (id : Nat) (f : Cmd → Cmd) (h_s : s.Tidy) : (State.mapCmd s id f).Tidy :=
  State.Tidy.mapIf h_s (by intro _; rfl)

theorem State.stampCmd_tidy (s : State) (c : Cmd) (word island : Nat) (h_s : s.Tidy) : (State.stampCmd s c word
    island).Tidy := by
  unfold State.stampCmd
  repeat' first
    | with_reducible assumption
    | (subst x_)
    | (focus ((try lift_lets); intro x_; refine (fun (h_ : State.Tidy x_.2) => ?_) ?_; clear_value x_))
    | with_reducible apply State.count_tidy
    | with_reducible apply State.mapCmd_tidy
    | with_reducible apply State.stampWord_tidy
    | with_reducible apply State.Tidy.ite

theorem State.resolveTag_tidy (s : State) (d : Nat) (h_s : s.Tidy) : (State.resolveTag s d).Tidy := by
  unfold State.resolveTag
  repeat' first
    | with_reducible assumption
    | (focus ((try lift_lets); intro x_; refine (fun (h_ : State.Tidy x_) => ?_) ?_; clear_value x_))
    | (subst x_)
    | (focus ((try lift_lets); intro x_; (fail_if_success (have q_ : x_ = fun a_ => x_ a_ := rfl)); clear_value x_))
    | ((try lift_lets); intro x_)
    | with_reducible apply State.count_tidy
    | with_reducible apply State.setSampler_tidy
    | with_reducible apply State.stampCmd_tidy
    | with_reducible apply State.Tidy.ite
    | (with_reducible refine State.mk_tidy rfl ?_; first | with_reducible assumption)
    | split

theorem State.stampFloor_tidy (s : State) (c : Cmd) (word island : Nat) (h_s : s.Tidy) : (State.stampFloor s c word
    island).Tidy := by
  unfold State.stampFloor
  repeat' first
    | with_reducible assumption
    | with_reducible apply State.resolveTag_tidy
    | with_reducible apply State.stampCmd_tidy
    | with_reducible apply State.Tidy.ite

theorem State.sampleDispatch_tidy (s : State) (d kind id : Nat) (h_s : s.Tidy) : (State.sampleDispatch s d kind
    id).Tidy := by
  unfold State.sampleDispatch
  repeat' first
    | with_reducible assumption
    | (focus ((try lift_lets); intro x_; refine (fun (h_ : State.Tidy x_) => ?_) ?_; clear_value x_))
    | (subst x_)
    | with_reducible apply State.count_tidy
    | with_reducible apply State.resolveTag_tidy
    | with_reducible apply State.setSampler_tidy
    | with_reducible apply State.Tidy.ite

theorem State.sampleRecord_tidy (s : State) (c : Cmd) (caller status err : Nat) (h_s : s.Tidy) : (State.sampleRecord
    s c caller status err).Tidy := by
  unfold State.sampleRecord
  repeat' first
    | with_reducible assumption
    | (focus ((try lift_lets); intro x_; refine (fun (h_ : State.Tidy x_) => ?_) ?_; clear_value x_))
    | (subst x_)
    | (focus ((try lift_lets); intro x_; refine (fun (h_ : State.Tidy x_.2) => ?_) ?_; clear_value x_))
    | with_reducible apply State.pmuRecord_tidy
    | with_reducible apply State.resolveTag_tidy
    | with_reducible apply State.setSampler_tidy
    | with_reducible apply State.stampWord_tidy
    | with_reducible apply State.Tidy.ite

theorem State.capPut_tidy (s : State) (d : Nat) (f : Fld) (v : Nat) (h_s : s.Tidy) : (State.capPut s d f v).Tidy := by
  unfold State.capPut
  repeat' first
    | with_reducible assumption
    | (focus ((try lift_lets); intro x_; refine (fun (h_ : State.Tidy x_) => ?_) ?_; clear_value x_))
    | (subst x_)
    | with_reducible apply State.intSet_tidy
    | with_reducible apply State.put_tidy
    | with_reducible apply State.Tidy.ite

theorem State.capDie_tidy (s : State) (d : Nat) (h_s : s.Tidy) : (State.capDie s d).Tidy := by
  unfold State.capDie
  repeat' first
    | with_reducible assumption
    | with_reducible apply State.capPut_tidy

theorem State.degrade_tidy (s : State) (pg : Nat) (h_s : s.Tidy) : (State.degrade s pg).Tidy := by
  unfold State.degrade
  repeat' first
    | with_reducible assumption
    | (subst x_)
    | (with_reducible refine State.mk_tidy rfl ?_; first | with_reducible assumption)

theorem State.hwFence_tidy (s : State) (pg : Nat) (second : Bool) (h_s : s.Tidy) : (State.hwFence s pg second).Tidy
    := by
  unfold State.hwFence
  repeat' first
    | with_reducible assumption
    | (subst x_)
    | with_reducible apply State.Tidy.ite
    | (with_reducible refine State.mk_tidy rfl ?_; first | with_reducible assumption)

theorem State.winOpen_tidy (s : State) (w : Nat × Nat) (h_s : s.Tidy) : (State.winOpen s w).Tidy := by
  unfold State.winOpen
  repeat' first
    | with_reducible assumption
    | (subst x_)
    | with_reducible apply State.Tidy.ite
    | (with_reducible refine State.mk_tidy rfl ?_; first | with_reducible assumption)

theorem State.winClose_tidy (s : State) (w : Nat × Nat) (h_s : s.Tidy) : (State.winClose s w).Tidy := by
  unfold State.winClose
  repeat' first
    | with_reducible assumption
    | (subst x_)
    | (with_reducible refine State.mk_tidy rfl ?_; first | with_reducible assumption)

theorem State.actionEnd_tidy (s : State) (d : Nat) (mine : ErrEvent → Bool) (h_s : s.Tidy) : (State.actionEnd s d
    mine).Tidy := by
  unfold State.actionEnd
  repeat' first
    | with_reducible assumption
    | (subst x_)
    | with_reducible apply State.setActs_tidy
    | with_reducible apply State.Tidy.ite
    | (with_reducible refine State.mk_tidy rfl ?_; first | with_reducible assumption)
    | split

theorem State.refreshGrand_tidy (s : State) (h_s : s.Tidy) : (State.refreshGrand s).Tidy := by
  unfold State.refreshGrand
  repeat' first
    | with_reducible assumption
    | (with_reducible refine Keeps.intro (fun s_ y_ h_ => ?_))
    | (subst x_)
    | with_reducible apply State.flag_tidy
    | with_reducible apply State.intSet_tidy
    | with_reducible apply State.Tidy.ite
    | with_reducible apply State.Tidy.each

theorem State.beginStorm_tidy (s : State) (d : Nat) (h_s : s.Tidy) : (State.beginStorm s d).Tidy := by
  unfold State.beginStorm
  repeat' first
    | with_reducible assumption
    | (with_reducible refine Keeps.intro (fun s_ y_ h_ => ?_))
    | (focus ((try lift_lets); intro x_; refine (fun (h_ : State.Tidy x_) => ?_) ?_; clear_value x_))
    | (subst x_)
    | with_reducible apply State.count_tidy
    | with_reducible apply State.intSet_tidy
    | with_reducible apply State.put_tidy
    | with_reducible apply State.refreshGrand_tidy
    | with_reducible apply State.Tidy.ite
    | with_reducible apply State.Tidy.each

theorem State.endStorm_tidy (s : State) (h_s : s.Tidy) : (State.endStorm s).Tidy := by
  unfold State.endStorm
  repeat' first
    | with_reducible assumption
    | (with_reducible refine Keeps.intro (fun s_ y_ h_ => ?_))
    | with_reducible apply State.put_tidy
    | with_reducible apply State.refreshGrand_tidy
    | with_reducible apply State.Tidy.ite
    | with_reducible apply State.Tidy.each

theorem State.putWords_tidy (s : State) (a : Nat) (w : List Nat) (h_s : s.Tidy) : (State.putWords s a w).Tidy :=
  forUpto_tidy (fun _ _ h => State.setWord_tidy _ _ h) _ h_s

theorem State.errRecord_tidy (s : State) (e : ErrEvent) (f : ErrFlags) (h_s : s.Tidy) : (State.errRecord s e f).Tidy
    := by
  unfold State.errRecord
  repeat' first
    | with_reducible assumption
    | (focus ((try lift_lets); intro x_; refine (fun (h_ : State.Tidy x_) => ?_) ?_; clear_value x_))
    | (subst x_)
    | (focus ((try lift_lets); intro x_; refine (fun (h_ : State.Tidy x_.2) => ?_) ?_; clear_value x_))
    | with_reducible apply State.beginStorm_tidy
    | with_reducible apply State.count_tidy
    | with_reducible apply State.intSet_tidy
    | with_reducible apply State.putWords_tidy
    | with_reducible apply State.put_tidy
    | with_reducible apply State.stamp_tidy
    | with_reducible apply State.Tidy.ite

theorem State.report_tidy (s : State) (e : ErrEvent) (f : ErrFlags) (h_s : s.Tidy) : (State.report s e f).Tidy := by
  unfold State.report
  repeat' first
    | with_reducible assumption
    | (focus ((try lift_lets); intro x_; refine (fun (h_ : State.Tidy x_) => ?_) ?_; clear_value x_))
    | (subst x_)
    | (focus ((try lift_lets); intro x_; (fail_if_success (have q_ : x_ = fun a_ => x_ a_ := rfl)); clear_value x_))
    | ((try lift_lets); intro x_)
    | with_reducible apply State.count_tidy
    | with_reducible apply State.errRecord_tidy
    | with_reducible apply State.put_tidy
    | with_reducible apply State.Tidy.ite
    | (with_reducible refine State.mk_tidy rfl ?_; first | with_reducible assumption)
    | split

end Sys2Proof.Machine
end

