-- ==== Sys2Proof/Laws/TidyLink.lean ====
section
/-! SUPPORT. Every function of Machine/Link.lean that answers a state keeps the canonical form (`State.Tidy`): one lemma
per function, named after it. -/

namespace Sys2Proof.Machine

theorem State.writeAlloc_tidy (s : State) (e : Nat) (f : Nat → Nat) (h_s : s.Tidy) : (State.writeAlloc s e f).Tidy :=
  State.Tidy.each (Keeps.intro fun _ _ h => State.put_tidy _ _ _ h) h_s

theorem State.resetCredits_tidy (s : State) (e : Nat) (h_s : s.Tidy) : (State.resetCredits s e).Tidy := by
  unfold State.resetCredits
  repeat' first
    | with_reducible assumption
    | (with_reducible refine Keeps.intro (fun s_ y_ h_ => ?_))
    | (subst x_)
    | with_reducible apply State.setLink_tidy

theorem State.transmit_tidy (s : State) (e : Nat) (l : List TxFrame) (h_s : s.Tidy) : (State.transmit s e l).Tidy := by
  unfold State.transmit
  repeat' first
    | with_reducible assumption
    | (subst x_)
    | with_reducible apply State.count_tidy
    | (with_reducible refine State.mk_tidy rfl ?_; first | with_reducible assumption)

theorem State.pump_tidy (s : State) (e : Nat) (h_s : s.Tidy) : (State.pump s e).Tidy := by
  unfold State.pump
  repeat' first
    | with_reducible assumption
    | (focus ((try lift_lets); intro x_; refine (fun (h_ : State.Tidy x_) => ?_) ?_; clear_value x_))
    | (subst x_)
    | with_reducible apply State.setLink_tidy
    | with_reducible apply State.transmit_tidy
    | with_reducible apply State.Tidy.ite

theorem State.sendOn_tidy (s : State) (e : Nat) (owner : Option Nat) (m : Msg) (h_s : s.Tidy) : (State.sendOn s e
    owner m).Tidy := by
  unfold State.sendOn
  repeat' first
    | with_reducible assumption
    | (focus ((try lift_lets); intro x_; refine (fun (h_ : State.Tidy x_) => ?_) ?_; clear_value x_))
    | (subst x_)
    | with_reducible apply State.pump_tidy
    | with_reducible apply State.setLink_tidy
    | (with_reducible refine State.mk_tidy rfl ?_; first | with_reducible assumption)

theorem State.deal_tidy (s : State) (g e : Nat) (owner : Option Nat) (m : Msg) (h_s : s.Tidy) : (State.deal s g e
    owner m).Tidy := by
  unfold State.deal
  repeat' first
    | with_reducible assumption
    | (subst x_)
    | (focus ((try lift_lets); intro x_; (first | (have q_ : Fig := x_)); clear q_; subst x_))
    | with_reducible apply State.sendOn_tidy
    | (with_reducible apply State.mk_wf <;> (repeat' first | exact Table.wf_nil _ | (exact queueWaits_wf Wait.queue (fun _ q => { q with wait := WaitSt.absent }) _ _ (State.Tidy.queues (by with_reducible assumption))) | exact List.Pairwise.nil | (with_reducible apply Table.wf_filter) | (with_reducible apply Table.wf_set) | (with_reducible apply pairwise_setInsert) | (with_reducible apply pairwise_setErase) | (with_reducible apply List.Pairwise.filter) | (exact State.Tidy.regs (by with_reducible assumption)) | (exact State.Tidy.mem (by with_reducible assumption)) | (exact State.Tidy.cells (by with_reducible assumption)) | (exact State.Tidy.queues (by with_reducible assumption)) | (exact State.Tidy.jobs (by with_reducible assumption)) | (exact State.Tidy.gates (by with_reducible assumption)) | (exact State.Tidy.pages (by with_reducible assumption)) | (exact State.Tidy.poison (by with_reducible assumption)) | (exact State.Tidy.units (by with_reducible assumption)) | (exact State.Tidy.links (by with_reducible assumption)) | (exact State.Tidy.bundles (by with_reducible assumption)) | (exact State.Tidy.actions (by with_reducible assumption)) | (exact State.Tidy.ports (by with_reducible assumption)) | (exact State.Tidy.sampled (by with_reducible assumption)) | (exact State.Tidy.markers (by with_reducible assumption)) | (exact State.Tidy.lostGen (by with_reducible assumption)) | (exact State.Tidy.lostSet (by with_reducible assumption)) | (exact State.Tidy.chosen (by with_reducible assumption)) | (exact State.Tidy.causes (by with_reducible assumption)) | (exact State.Tidy.moved (by with_reducible assumption)) | (exact State.Tidy.parts (by with_reducible assumption)) | (exact State.Tidy.crossing (by with_reducible assumption)) | (exact State.Tidy.image (by with_reducible assumption)) | (exact State.Tidy.chain (by with_reducible assumption)) | (exact State.Tidy.steps (by with_reducible assumption)) | (exact State.Tidy.reading (by with_reducible assumption)) | (exact State.Tidy.weights (by with_reducible assumption)) | (exact State.Tidy.dealt (by with_reducible assumption)) | (exact State.Tidy.health (by with_reducible assumption)) | (exact State.Tidy.meas (by with_reducible assumption)) | (exact State.Tidy.sums (by with_reducible assumption)) | (exact State.Tidy.spdm (by with_reducible assumption)) | (exact State.Tidy.ide (by with_reducible assumption)) | (exact State.Tidy.ids (by with_reducible assumption)) | (simp only [List.map_nil, List.nil_append, List.pairwise_singleton]; done) | (refine forUpto_wf (fun i_ m_ h_ => ?_) _ ?_) | with_reducible assumption | (intro p_ hp_; first | (exact State.Tidy.order (by with_reducible assumption) p_ hp_) | (exact State.Tidy.order (by with_reducible assumption) p_ (List.mem_filter.mp hp_).1) | (exact absurd hp_ (List.not_mem_nil)))))

theorem State.sendGroup_tidy (s : State) (g : Nat) (owner : Option Nat) (m : Msg) (h_s : s.Tidy) : (State.sendGroup s
    g owner m).Tidy := by
  unfold State.sendGroup
  repeat' first
    | with_reducible assumption
    | (subst x_)
    | (focus ((try lift_lets); intro x_; (first | (have q_ : Clx := x_)); clear q_; subst x_))
    | with_reducible apply State.deal_tidy
    | (with_reducible refine State.mk_tidy rfl ?_; first | with_reducible assumption)
    | split

theorem State.sendRank_tidy (s : State) (rank : Nat) (owner : Option Nat) (m : Msg) (h_s : s.Tidy) : (State.sendRank
    s rank owner m).Tidy := by
  unfold State.sendRank
  repeat' first
    | with_reducible assumption
    | (focus ((try lift_lets); intro x_; refine (fun (h_ : State.Tidy x_) => ?_) ?_; clear_value x_))
    | (subst x_)
    | (focus ((try lift_lets); intro x_; (first | (have q_ : Clx := x_)); clear q_; subst x_))
    | with_reducible apply State.sendOn_tidy
    | (with_reducible refine State.mk_tidy rfl ?_; first | with_reducible assumption)
    | (with_reducible refine State.Tidy.mapIf ?_ ?_; rotate_left; (intro _; rfl))
    | split

theorem State.flushUnsent_tidy (s : State) (h_s : s.Tidy) : (State.flushUnsent s).Tidy := by
  unfold State.flushUnsent
  repeat' first
    | with_reducible assumption
    | (with_reducible refine Keeps.intro (fun s_ y_ h_ => ?_))
    | (subst x_)
    | (focus ((try lift_lets); intro x_; (first | (have q_ : Clx := x_)); clear q_; subst x_))
    | with_reducible apply State.sendGroup_tidy
    | with_reducible apply State.sendRank_tidy
    | with_reducible apply State.Tidy.each
    | (with_reducible refine State.mk_tidy rfl ?_; first | with_reducible assumption)
    | split

theorem State.countItem_tidy (s : State) (h_s : s.Tidy) : (State.countItem s).Tidy := by
  unfold State.countItem
  repeat' first
    | with_reducible assumption
    | with_reducible apply State.count_tidy

theorem State.sendAbort_tidy (s : State) (c : Cmd) (reached : Bool) (h_s : s.Tidy) : (State.sendAbort s c
    reached).Tidy := by
  unfold State.sendAbort
  repeat' first
    | with_reducible assumption
    | (with_reducible refine Keeps.intro (fun s_ y_ h_ => ?_))
    | (subst x_)
    | ((try lift_lets); intro x_)
    | with_reducible apply State.countItem_tidy
    | with_reducible apply State.sendRank_tidy
    | with_reducible apply State.Tidy.each
    | (with_reducible refine State.mk_tidy rfl ?_; first | with_reducible assumption)
    | split

theorem State.notePath_tidy (s : State) (c : Cmd) (ok : Bool) (h_s : s.Tidy) : (State.notePath s c ok).Tidy := by
  unfold State.notePath
  split
  · exact h_s
  · exact State.mk_tidy rfl h_s

end Sys2Proof.Machine
end

