-- ==== Sys2Proof/Laws/TidyQueue.lean ====
section
/-! SUPPORT. Every function of Machine/Queue.lean that answers a state keeps the canonical form (`State.Tidy`): one lemma
per function, named after it. -/

namespace Sys2Proof.Machine

theorem State.mapBracket_tidy (s : State) (d ctx : Nat) (f : Bracket → Bracket) (h_s : s.Tidy) : (State.mapBracket s
    d ctx f).Tidy := by
  unfold State.mapBracket
  repeat' first
    | with_reducible assumption
    | (subst x_)
    | with_reducible apply State.setJob_tidy

theorem State.noteHeads_tidy (s : State) (d c : Nat) (h_s : s.Tidy) : (State.noteHeads s d c).Tidy := by
  unfold State.noteHeads
  repeat' first
    | with_reducible assumption
    | (with_reducible refine Keeps.intro (fun s_ y_ h_ => ?_))
    | (focus ((try lift_lets); intro x_; refine (fun (h_ : State.Tidy x_) => ?_) ?_; clear_value x_))
    | (subst x_)
    | with_reducible apply State.setQueue_tidy
    | with_reducible apply State.Tidy.ite
    | with_reducible apply State.Tidy.each
    | (with_reducible refine State.mk_tidy rfl ?_; first | with_reducible assumption)

theorem State.ageRivals_tidy (s : State) (d q : Nat) (h_s : s.Tidy) : (State.ageRivals s d q).Tidy := by
  unfold State.ageRivals
  repeat' first
    | with_reducible assumption
    | (with_reducible refine Keeps.intro (fun s_ y_ h_ => ?_))
    | (subst x_)
    | ((try lift_lets); intro x_)
    | with_reducible apply State.setQueue_tidy
    | with_reducible apply State.Tidy.each

theorem State.choose_tidy (s : State) (d c : Nat) (q : Option Nat) (h_s : s.Tidy) : (State.choose s d c q).Tidy := by
  unfold State.choose
  repeat' first
    | with_reducible assumption
    | (subst x_)
    | (with_reducible apply State.mk_wf <;> (repeat' first | exact Table.wf_nil _ | (exact queueWaits_wf Wait.queue (fun _ q => { q with wait := WaitSt.absent }) _ _ (State.Tidy.queues (by with_reducible assumption))) | exact List.Pairwise.nil | (with_reducible apply Table.wf_filter) | (with_reducible apply Table.wf_set) | (with_reducible apply pairwise_setInsert) | (with_reducible apply pairwise_setErase) | (with_reducible apply List.Pairwise.filter) | (exact State.Tidy.regs (by with_reducible assumption)) | (exact State.Tidy.mem (by with_reducible assumption)) | (exact State.Tidy.cells (by with_reducible assumption)) | (exact State.Tidy.queues (by with_reducible assumption)) | (exact State.Tidy.jobs (by with_reducible assumption)) | (exact State.Tidy.gates (by with_reducible assumption)) | (exact State.Tidy.pages (by with_reducible assumption)) | (exact State.Tidy.poison (by with_reducible assumption)) | (exact State.Tidy.units (by with_reducible assumption)) | (exact State.Tidy.links (by with_reducible assumption)) | (exact State.Tidy.bundles (by with_reducible assumption)) | (exact State.Tidy.actions (by with_reducible assumption)) | (exact State.Tidy.ports (by with_reducible assumption)) | (exact State.Tidy.sampled (by with_reducible assumption)) | (exact State.Tidy.markers (by with_reducible assumption)) | (exact State.Tidy.lostGen (by with_reducible assumption)) | (exact State.Tidy.lostSet (by with_reducible assumption)) | (exact State.Tidy.chosen (by with_reducible assumption)) | (exact State.Tidy.causes (by with_reducible assumption)) | (exact State.Tidy.moved (by with_reducible assumption)) | (exact State.Tidy.parts (by with_reducible assumption)) | (exact State.Tidy.crossing (by with_reducible assumption)) | (exact State.Tidy.image (by with_reducible assumption)) | (exact State.Tidy.chain (by with_reducible assumption)) | (exact State.Tidy.steps (by with_reducible assumption)) | (exact State.Tidy.reading (by with_reducible assumption)) | (exact State.Tidy.weights (by with_reducible assumption)) | (exact State.Tidy.dealt (by with_reducible assumption)) | (exact State.Tidy.health (by with_reducible assumption)) | (exact State.Tidy.meas (by with_reducible assumption)) | (exact State.Tidy.sums (by with_reducible assumption)) | (exact State.Tidy.spdm (by with_reducible assumption)) | (exact State.Tidy.ide (by with_reducible assumption)) | (exact State.Tidy.ids (by with_reducible assumption)) | (simp only [List.map_nil, List.nil_append, List.pairwise_singleton]; done) | (refine forUpto_wf (fun i_ m_ h_ => ?_) _ ?_) | with_reducible assumption | (intro p_ hp_; first | (exact State.Tidy.order (by with_reducible assumption) p_ hp_) | (exact State.Tidy.order (by with_reducible assumption) p_ (List.mem_filter.mp hp_).1) | (exact absurd hp_ (List.not_mem_nil)))))

theorem State.registerWait_tidy (s : State) (d q : Nat) (w : List Nat) (h_s : s.Tidy) : (State.registerWait s d q
    w).Tidy := by
  unfold State.registerWait
  repeat' first
    | with_reducible assumption
    | (focus ((try lift_lets); intro x_; refine (fun (h_ : State.Tidy x_) => ?_) ?_; clear_value x_))
    | (subst x_)
    | with_reducible apply State.setQueue_tidy
    | with_reducible apply State.testWait_tidy
    | with_reducible apply State.Tidy.ite
    | (with_reducible refine State.mk_tidy rfl ?_; first | with_reducible assumption)

theorem State.halt_tidy (s : State) (d c : Nat) (h_s : s.Tidy) : (State.halt s d c).Tidy := by
  unfold State.halt
  repeat' first
    | with_reducible assumption
    | (with_reducible refine Keeps.intro (fun s_ y_ h_ => ?_))
    | (focus ((try lift_lets); intro x_; refine (fun (h_ : State.Tidy x_) => ?_) ?_; clear_value x_))
    | (subst x_)
    | with_reducible apply State.choose_tidy
    | with_reducible apply State.intSet_tidy
    | with_reducible apply State.mapBracket_tidy
    | with_reducible apply State.put_tidy
    | with_reducible apply State.Tidy.ite
    | with_reducible apply State.Tidy.each

theorem State.cplRecord_tidy (s : State) (d q : Nat) (data : List Byte) (irq : Bool) (h_s : s.Tidy) :
    (State.cplRecord s d q data irq).Tidy := by
  unfold State.cplRecord
  repeat' first
    | with_reducible assumption
    | (subst x_)
    | with_reducible apply State.arrive_tidy
    | with_reducible apply State.count_tidy
    | with_reducible apply State.recorded_tidy
    | with_reducible apply State.tell_tidy
    | with_reducible apply State.write_tidy
    | with_reducible apply State.Tidy.ite
    | (with_reducible refine State.mk_tidy rfl ?_; first | with_reducible assumption)

theorem State.cmdSignal_tidy (s : State) (c : Cmd) (h_s : s.Tidy) : (State.cmdSignal s c).1.Tidy := by
  have hd : ∀ s : State, s.Tidy → (if s.present ((hSignal c.words).cell / 16384)
      then (s.signal (hSignal c.words) (fromDie c.die), none)
      else (s, if s.knownAbsent ((hSignal c.words).cell / 16384) then some (Err.DIE_ABSENT, (hSignal c.words).cell / 16384)
        else none)).1.Tidy := by
    intro s h
    split
    · exact State.signal_tidy _ _ _ h
    · exact h
  unfold State.cmdSignal
  dsimp only
  split
  · exact hd s h_s
  · split
    · exact h_s
    · split
      · exact hd s h_s
      · split
        · exact h_s
        · exact State.mapBracket_tidy _ _ _ _ h_s

theorem State.cmdError_tidy (s : State) (c : Cmd) (err detail : Nat) (h_s : s.Tidy) : (State.cmdError s c err
    detail).Tidy := by
  unfold State.cmdError
  repeat' first
    | with_reducible assumption
    | (subst x_)
    | with_reducible apply State.halt_tidy
    | with_reducible apply State.mapBracket_tidy
    | with_reducible apply State.Tidy.ite
    | (with_reducible refine State.mk_tidy rfl ?_; first | with_reducible assumption)
    | split

theorem State.resumeMaybe_tidy (s : State) (d : Nat) (h_s : s.Tidy) : (State.resumeMaybe s d).Tidy := by
  unfold State.resumeMaybe
  repeat' first
    | with_reducible assumption
    | (with_reducible refine Keeps.intro (fun s_ y_ h_ => ?_))
    | (subst x_)
    | with_reducible apply State.put_tidy
    | with_reducible apply State.Tidy.ite
    | with_reducible apply State.Tidy.each

theorem State.complete_tidy (s : State) (c : Cmd) (status err detail : Nat) (h_s : s.Tidy) : (State.complete s c
    status err detail).Tidy := by
  unfold State.complete
  repeat' first
    | with_reducible assumption
    | (focus ((try lift_lets); intro x_; refine (fun (h_ : State.Tidy x_) => ?_) ?_; clear_value x_))
    | (subst x_)
    | (focus ((try lift_lets); intro x_; refine (fun (h_ : State.Tidy x_.2) => ?_) ?_; clear_value x_))
    | (focus ((try lift_lets); intro x_; refine (fun (h_ : State.Tidy x_.1) => ?_) ?_; clear_value x_))
    | (focus ((try lift_lets); intro x_; (fail_if_success (have q_ : x_ = fun a_ => x_ a_ := rfl)); clear_value x_))
    | ((try lift_lets); intro x_)
    | with_reducible apply State.cmdError_tidy
    | with_reducible apply State.cmdSignal_tidy
    | with_reducible apply State.count_tidy
    | with_reducible apply State.cplRecord_tidy
    | with_reducible apply State.msix_tidy
    | with_reducible apply State.notePath_tidy
    | with_reducible apply State.refreshOutstanding_tidy
    | with_reducible apply State.resumeMaybe_tidy
    | with_reducible apply State.sampleRecord_tidy
    | with_reducible apply State.sendAbort_tidy
    | with_reducible apply State.stamp_tidy
    | with_reducible apply State.Tidy.ite
    | (with_reducible refine State.mk_tidy rfl ?_; first | with_reducible assumption)
    | (with_reducible refine State.Tidy.fewer ?_ List.filter_sublist (Nat.le_refl _))
    | split

theorem State.done_tidy (s : State) (c : Cmd) (h_s : s.Tidy) : (State.done s c).Tidy := by
  unfold State.done
  repeat' first
    | with_reducible assumption
    | with_reducible apply State.complete_tidy

theorem State.fail_tidy (s : State) (c : Cmd) (err detail : Nat) (h_s : s.Tidy) : (State.fail s c err detail).Tidy := by
  unfold State.fail
  repeat' first
    | with_reducible assumption
    | with_reducible apply State.complete_tidy

theorem State.dropCmd_tidy (s : State) (c : Cmd) (h_s : s.Tidy) : (State.dropCmd s c).Tidy := by
  unfold State.dropCmd
  repeat' first
    | with_reducible assumption
    | (focus ((try lift_lets); intro x_; refine (fun (h_ : State.Tidy x_) => ?_) ?_; clear_value x_))
    | (subst x_)
    | with_reducible apply State.refreshOutstanding_tidy
    | with_reducible apply State.resolveTag_tidy
    | with_reducible apply State.resumeMaybe_tidy
    | with_reducible apply State.setSampler_tidy
    | with_reducible apply State.Tidy.ite
    | (with_reducible refine State.Tidy.fewer ?_ List.filter_sublist (Nat.le_refl _))

theorem State.consume_tidy (s : State) (d q : Nat) (h_s : s.Tidy) : (State.consume s d q).Tidy := by
  unfold State.consume
  repeat' first
    | with_reducible assumption
    | (focus ((try lift_lets); intro x_; refine (fun (h_ : State.Tidy x_) => ?_) ?_; clear_value x_))
    | (subst x_)
    | with_reducible apply State.mapBracket_tidy
    | with_reducible apply State.qput_tidy
    | with_reducible apply State.Tidy.ite

theorem State.closeWindow_tidy (s : State) (d q : Nat) (h_s : s.Tidy) : (State.closeWindow s d q).1.Tidy := by
  unfold State.closeWindow
  repeat' first
    | with_reducible assumption
    | (focus ((try lift_lets); intro x_; refine (fun (h_ : State.Tidy x_) => ?_) ?_; clear_value x_))
    | (subst x_)
    | with_reducible apply State.setQueue_tidy
    | (with_reducible refine State.mk_tidy rfl ?_; first | with_reducible assumption)

theorem State.enlist_tidy (s : State) (c : Cmd) (h_s : s.Tidy) : (State.enlist s c).Tidy := State.Tidy.push h_s rfl

theorem State.take_tidy (s : State) (d q : Nat) (h : Head) (prep : Prep) (run : State → Cmd → State) (h_s : s.Tidy)
    (k_run : Keeps run) : (State.take s d q h prep run).Tidy := by
  unfold State.take
  repeat' first
    | with_reducible assumption
    | (with_reducible refine Keeps.intro (fun s_ y_ h_ => ?_))
    | (focus ((try lift_lets); intro x_; refine (fun (h_ : State.Tidy x_) => ?_) ?_; clear_value x_))
    | (subst x_)
    | (focus ((try lift_lets); intro x_; refine (fun (h_ : State.Tidy x_.1) => ?_) ?_; clear_value x_))
    | (refine k_run _ _ ?_)
    | with_reducible apply State.ageRivals_tidy
    | with_reducible apply State.choose_tidy
    | with_reducible apply State.closeWindow_tidy
    | with_reducible apply State.complete_tidy
    | with_reducible apply State.consume_tidy
    | with_reducible apply State.countRead_tidy
    | with_reducible apply State.count_tidy
    | with_reducible apply State.enlist_tidy
    | with_reducible apply State.halt_tidy
    | with_reducible apply State.qput_tidy
    | with_reducible apply State.sampleDispatch_tidy
    | with_reducible apply State.Tidy.ite
    | with_reducible apply State.Tidy.each
    | (with_reducible refine State.mk_tidy rfl ?_; first | with_reducible assumption)
    | split

theorem State.drainHead_tidy (s : State) (d q : Nat) (h : Head) (h_s : s.Tidy) : (State.drainHead s d q h).Tidy := by
  unfold State.drainHead
  repeat' first
    | with_reducible assumption
    | (focus ((try lift_lets); intro x_; refine (fun (h_ : State.Tidy x_) => ?_) ?_; clear_value x_))
    | (subst x_)
    | with_reducible apply State.consume_tidy
    | with_reducible apply State.setQueue_tidy
    | (with_reducible refine State.mk_tidy rfl ?_; first | with_reducible assumption)

theorem State.dispatch_tidy (s : State) (d q : Nat) (ext : HostSlot) (legacy : Bool) (isRow : Head → Bool) (prep :
    Prep) (run : State → Cmd → State) (h_s : s.Tidy) (k_run : Keeps run) : (State.dispatch s d q ext legacy isRow
    prep run).Tidy := by
  unfold State.dispatch
  repeat' first
    | with_reducible assumption
    | (with_reducible refine Keeps.intro (fun s_ y_ h_ => ?_))
    | (focus ((try lift_lets); intro x_; refine (fun (h_ : State.Tidy x_) => ?_) ?_; clear_value x_))
    | (subst x_)
    | (refine k_run _ _ ?_)
    | with_reducible apply State.ageRivals_tidy
    | with_reducible apply State.choose_tidy
    | with_reducible apply State.drainHead_tidy
    | with_reducible apply State.noteHeads_tidy
    | with_reducible apply State.registerWait_tidy
    | with_reducible apply State.setQueue_tidy
    | with_reducible apply State.take_tidy
    | with_reducible apply State.Tidy.ite
    | (with_reducible refine State.mk_tidy rfl ?_; first | with_reducible assumption)
    | split

theorem State.v2_tidy (s : State) (d : Fin 4) (q : Fin 64) (ext : HostSlot) (opc : Nat) (prep : Prep) (run : State →
    Cmd → State) (h_s : s.Tidy) (k_run : Keeps run) : (State.v2 s d q ext opc prep run).Tidy := by
  unfold State.v2
  repeat' first
    | with_reducible assumption
    | (with_reducible refine Keeps.intro (fun s_ y_ h_ => ?_))
    | (refine k_run _ _ ?_)
    | with_reducible apply State.dispatch_tidy

theorem State.v1_tidy (s : State) (d : Fin 4) (q : Fin 64) (ext : HostSlot) (opc : Nat) (prep : Prep) (run : State →
    Cmd → State) (h_s : s.Tidy) (k_run : Keeps run) : (State.v1 s d q ext opc prep run).Tidy := by
  unfold State.v1
  repeat' first
    | with_reducible assumption
    | (with_reducible refine Keeps.intro (fun s_ y_ h_ => ?_))
    | (refine k_run _ _ ?_)
    | with_reducible apply State.dispatch_tidy

end Sys2Proof.Machine
end

