-- ==== Sys2Proof/Laws/TidyCommand.lean ====
section
/-! SUPPORT. Every function of Machine/Command.lean that answers a state keeps the canonical form (`State.Tidy`): one lemma
per function, named after it. -/

namespace Sys2Proof.Machine

theorem execNop_tidy (d : Fin 4) (q : Fin 64) (ext : HostSlot) (s : State) (h_s : s.Tidy) : ∀ t_, execNop d q ext s =
    .next t_ → t_.Tidy := by
  intro t_ h_
  unfold execNop at h_
  repeat' first
    | (injection h_ with h_; subst h_)
    | split at h_
    | cases h_
  all_goals
    repeat' first
      | with_reducible assumption
      | (with_reducible refine Keeps.intro (fun s_ y_ h_ => ?_))
      | with_reducible apply State.dispatch_tidy
      | with_reducible apply State.done_tidy

theorem State.jump_tidy (s : State) (c : Cmd) (h_s : s.Tidy) : (State.jump s c).Tidy := by
  unfold State.jump
  repeat' first
    | with_reducible assumption
    | with_reducible apply State.done_tidy
    | with_reducible apply State.qput_tidy

theorem execJump_tidy (d : Fin 4) (q : Fin 64) (ext : HostSlot) (s : State) (h_s : s.Tidy) : ∀ t_, execJump d q ext s
    = .next t_ → t_.Tidy := by
  intro t_ h_
  unfold execJump at h_
  repeat' first
    | (injection h_ with h_; subst h_)
    | split at h_
    | cases h_
  all_goals
    repeat' first
      | with_reducible assumption
      | (with_reducible refine Keeps.intro (fun s_ y_ h_ => ?_))
      | with_reducible apply State.jump_tidy
      | with_reducible apply State.v2_tidy

theorem State.progEnd_tidy (s : State) (c : Cmd) (h_s : s.Tidy) : (State.progEnd s c).Tidy := by
  unfold State.progEnd
  repeat' first
    | with_reducible assumption
    | with_reducible apply State.done_tidy
    | with_reducible apply State.qput_tidy

theorem execProgEnd_tidy (d : Fin 4) (q : Fin 64) (ext : HostSlot) (s : State) (h_s : s.Tidy) : ∀ t_, execProgEnd d q
    ext s = .next t_ → t_.Tidy := by
  intro t_ h_
  unfold execProgEnd at h_
  repeat' first
    | (injection h_ with h_; subst h_)
    | split at h_
    | cases h_
  all_goals
    repeat' first
      | with_reducible assumption
      | (with_reducible refine Keeps.intro (fun s_ y_ h_ => ?_))
      | with_reducible apply State.progEnd_tidy
      | with_reducible apply State.v2_tidy

theorem State.stampIslands_tidy (s : State) (base : Nat) (y_ : Nat) (h_s : s.Tidy) : (State.stampIslands s base
    y_).2.Tidy := by
  induction y_ with
  | zero => exact h_s
  | succ n ih => exact State.stampWord_tidy _ (base + n) ih

theorem State.marker_tidy (s : State) (c : Cmd) (h_s : s.Tidy) : (State.marker s c).Tidy := by
  have h : ∀ seq, State.Tidy { s with markerSeq := Table.set (fun _ => 0) s.markerSeq c.die seq } := fun _ =>
    { h_s with markers := Table.wf_set _ _ _ _ h_s.markers }
  unfold State.marker
  extract_lets d pg seq u caller value t v w
  have hu : u.Tidy := h seq
  clear_value u
  have hv : v.Tidy := State.Tidy.ite (State.pmuRecord_tidy _ _ _ (State.stampIslands_tidy _ _ _ hu)) hu
  clear_value v
  exact State.done_tidy _ _ (State.mk_tidy rfl hv)

theorem execMarker_tidy (d : Fin 4) (q : Fin 64) (ext : HostSlot) (s : State) (h_s : s.Tidy) : ∀ t_, execMarker d q
    ext s = .next t_ → t_.Tidy := by
  intro t_ h_
  unfold execMarker at h_
  repeat' first
    | (injection h_ with h_; subst h_)
    | split at h_
    | cases h_
  all_goals
    repeat' first
      | with_reducible assumption
      | (with_reducible refine Keeps.intro (fun s_ y_ h_ => ?_))
      | with_reducible apply State.marker_tidy
      | with_reducible apply State.v2_tidy

theorem execV1Nop_tidy (d : Fin 4) (q : Fin 64) (ext : HostSlot) (s : State) (h_s : s.Tidy) : ∀ t_, execV1Nop d q ext
    s = .next t_ → t_.Tidy := by
  intro t_ h_
  unfold execV1Nop at h_
  repeat' first
    | (injection h_ with h_; subst h_)
    | split at h_
    | cases h_
  all_goals
    repeat' first
      | with_reducible assumption
      | (with_reducible refine Keeps.intro (fun s_ y_ h_ => ?_))
      | with_reducible apply State.dispatch_tidy
      | with_reducible apply State.done_tidy

theorem execV1Marker_tidy (d : Fin 4) (q : Fin 64) (ext : HostSlot) (s : State) (h_s : s.Tidy) : ∀ t_, execV1Marker d
    q ext s = .next t_ → t_.Tidy := by
  intro t_ h_
  unfold execV1Marker at h_
  repeat' first
    | (injection h_ with h_; subst h_)
    | split at h_
    | cases h_
  all_goals
    repeat' first
      | with_reducible assumption
      | (with_reducible refine Keeps.intro (fun s_ y_ h_ => ?_))
      | with_reducible apply State.marker_tidy
      | with_reducible apply State.v1_tidy

end Sys2Proof.Machine
end

