-- ==== Sys2Proof/Laws/TidyTensor.lean ====
section
/-! SUPPORT. Every function of Machine/Tensor.lean that answers a state keeps the canonical form (`State.Tidy`): one lemma
per function, named after it. -/

namespace Sys2Proof.Machine

theorem State.countRows_tidy (s : State) (via : Via) (base pitch rows nb : Nat) (h_s : s.Tidy) : (State.countRows s
    via base pitch rows nb).Tidy := by
  unfold State.countRows
  repeat' first
    | with_reducible assumption
    | (with_reducible refine Keeps.intro (fun s_ y_ h_ => ?_))
    | with_reducible apply State.countRead_tidy
    | with_reducible apply State.Tidy.each

theorem State.putEntry_tidy (s : State) (a word lsb width v : Nat) (h_s : s.Tidy) : (State.putEntry s a word lsb
    width v).Tidy := by
  unfold State.putEntry
  repeat' first
    | with_reducible assumption
    | with_reducible apply State.countRead_tidy
    | with_reducible apply State.write_tidy

theorem State.amaxReport_tidy (s : State) (d ctx t amax : Nat) (attempt : Option Nat) (h_s : s.Tidy) :
    (State.amaxReport s d ctx t amax attempt).Tidy := by
  unfold State.amaxReport
  repeat' first
    | with_reducible assumption
    | (focus ((try lift_lets); intro x_; refine (fun (h_ : State.Tidy x_) => ?_) ?_; clear_value x_))
    | (subst x_)
    | with_reducible apply State.count_tidy
    | with_reducible apply State.mapBracket_tidy
    | with_reducible apply State.putEntry_tidy
    | with_reducible apply State.Tidy.ite
    | (with_reducible refine State.mk_tidy rfl ?_; first | with_reducible assumption)
    | split

end Sys2Proof.Machine
end

