-- ==== Sys2Proof/Laws/TidyArray.lean ====
section
/-! SUPPORT. Every function of Machine/Array.lean that answers a state keeps the canonical form (`State.Tidy`): one lemma
per function, named after it. -/

namespace Sys2Proof.Machine

theorem State.arrayOp_tidy (s : State) (c : Cmd) (h_s : s.Tidy) : (State.arrayOp s c).Tidy := by
  unfold State.arrayOp
  repeat' first
    | with_reducible assumption
    | (with_reducible refine Keeps.intro (fun s_ y_ h_ => ?_))
    | (focus ((try lift_lets); intro x_; refine (fun (h_ : State.Tidy x_) => ?_) ?_; clear_value x_))
    | (subst x_)
    | (focus ((try lift_lets); intro x_; (fail_if_success (have q_ : x_ = fun a_ => x_ a_ := rfl)); clear_value x_))
    | with_reducible apply State.mapCmd_tidy
    | with_reducible apply State.put_tidy
    | with_reducible apply State.Tidy.ite
    | with_reducible apply State.Tidy.each
    | (with_reducible refine State.mk_tidy rfl ?_; first | with_reducible assumption)
    | (with_reducible refine State.Tidy.mapIf ?_ ?_; rotate_left; (intro _; rfl))

theorem execArrayOp_tidy (d : Fin 4) (q : Fin 64) (ext : HostSlot) (s : State) (h_s : s.Tidy) : ∀ t_, execArrayOp d q
    ext s = .next t_ → t_.Tidy := by
  intro t_ h_
  unfold execArrayOp at h_
  repeat' first
    | (injection h_ with h_; subst h_)
    | split at h_
    | cases h_
  all_goals
    repeat' first
      | with_reducible assumption
      | (with_reducible refine Keeps.intro (fun s_ y_ h_ => ?_))
      | with_reducible apply State.arrayOp_tidy
      | with_reducible apply State.v2_tidy

theorem execV1Array_tidy (d : Fin 4) (q : Fin 64) (ext : HostSlot) (s : State) (h_s : s.Tidy) : ∀ t_, execV1Array d q
    ext s = .next t_ → t_.Tidy := by
  intro t_ h_
  unfold execV1Array at h_
  repeat' first
    | (injection h_ with h_; subst h_)
    | split at h_
    | cases h_
  all_goals
    repeat' first
      | with_reducible assumption
      | (with_reducible refine Keeps.intro (fun s_ y_ h_ => ?_))
      | with_reducible apply State.arrayOp_tidy
      | with_reducible apply State.v1_tidy

theorem State.grandClaim_tidy (s : State) (h_s : s.Tidy) : (State.grandClaim s).Tidy := by
  unfold State.grandClaim
  repeat' first
    | with_reducible assumption
    | (with_reducible refine Keeps.intro (fun s_ y_ h_ => ?_))
    | (focus ((try lift_lets); intro x_; refine (fun (h_ : State.Tidy x_) => ?_) ?_; clear_value x_))
    | (subst x_)
    | ((try lift_lets); intro x_)
    | with_reducible apply State.flag_tidy
    | with_reducible apply State.Tidy.ite
    | with_reducible apply State.Tidy.each
    | (with_reducible refine State.mk_tidy rfl ?_; first | with_reducible assumption)
    | split

theorem execGrandClaim_tidy (s : State) (h_s : s.Tidy) : ∀ t_, execGrandClaim s = .next t_ → t_.Tidy := by
  intro t_ h_
  unfold execGrandClaim at h_
  repeat' first
    | (injection h_ with h_; subst h_)
    | split at h_
    | cases h_
  all_goals
    repeat' first
      | with_reducible assumption
      | with_reducible apply State.grandClaim_tidy

theorem State.spareCounts_tidy (s : State) (d : Nat) (h_s : s.Tidy) : (State.spareCounts s d).Tidy := by
  unfold State.spareCounts
  repeat' first
    | with_reducible assumption
    | (subst x_)
    | (focus ((try lift_lets); intro x_; (fail_if_success (have q_ : x_ = fun a_ => x_ a_ := rfl)); clear_value x_))
    | with_reducible apply State.put_tidy

theorem State.arrayUnusable_tidy (s : State) (d : Nat) (second : Bool) (h_s : s.Tidy) : (State.arrayUnusable s d
    second).Tidy := by
  unfold State.arrayUnusable
  repeat' first
    | with_reducible assumption
    | (focus ((try lift_lets); intro x_; refine (fun (h_ : State.Tidy x_) => ?_) ?_; clear_value x_))
    | (subst x_)
    | with_reducible apply State.capDie_tidy
    | with_reducible apply State.hwFence_tidy
    | with_reducible apply State.intSet_tidy
    | with_reducible apply State.put_tidy
    | with_reducible apply State.refreshGrand_tidy
    | with_reducible apply State.report_tidy
    | with_reducible apply State.Tidy.ite

theorem State.spareSettled_tidy (s : State) (d : Nat) (row : Bool) (pos : Nat) (h_s : s.Tidy) : (State.spareSettled s
    d row pos).Tidy := by
  unfold State.spareSettled
  repeat' first
    | with_reducible assumption
    | (focus ((try lift_lets); intro x_; refine (fun (h_ : State.Tidy x_) => ?_) ?_; clear_value x_))
    | (subst x_)
    | with_reducible apply State.winClose_tidy
    | with_reducible apply State.Tidy.ite
    | (with_reducible refine State.mk_tidy rfl ?_; first | with_reducible assumption)

theorem State.mapSpare_tidy (s : State) (d : Nat) (row : Bool) (pos : Nat) (h_s : s.Tidy) : (State.mapSpare s d row
    pos).Tidy := by
  unfold State.mapSpare
  repeat' first
    | with_reducible assumption
    | (with_reducible refine Keeps.intro (fun s_ y_ h_ => ?_))
    | (focus ((try lift_lets); intro x_; refine (fun (h_ : State.Tidy x_) => ?_) ?_; clear_value x_))
    | (subst x_)
    | with_reducible apply State.arrayUnusable_tidy
    | with_reducible apply State.count_tidy
    | with_reducible apply State.intSet_tidy
    | with_reducible apply State.put_tidy
    | with_reducible apply State.setWord_tidy
    | with_reducible apply State.spareCounts_tidy
    | with_reducible apply State.spareSettled_tidy
    | with_reducible apply State.Tidy.each
    | (with_reducible refine State.mk_tidy rfl ?_; first | with_reducible assumption)
    | split

theorem State.mapDue_tidy (s : State) (d : Nat) (h_s : s.Tidy) : (State.mapDue s d).Tidy := by
  unfold State.mapDue
  repeat' first
    | with_reducible assumption
    | (with_reducible refine Keeps.intro (fun s_ y_ h_ => ?_))
    | with_reducible apply State.mapSpare_tidy
    | with_reducible apply State.Tidy.ite
    | with_reducible apply State.Tidy.each

theorem State.arrayStart_tidy (s : State) (d : Nat) (h_s : s.Tidy) : (State.arrayStart s d).Tidy := by
  unfold State.arrayStart
  repeat' first
    | with_reducible assumption
    | (with_reducible refine Keeps.intro (fun s_ y_ h_ => ?_))
    | (with_reducible refine Keeps1.intro (fun s_ h_ => ?_))
    | (focus ((try lift_lets); intro x_; refine (fun (h_ : State.Tidy x_) => ?_) ?_; clear_value x_))
    | (subst x_)
    | ((try lift_lets); intro x_)
    | with_reducible apply State.countRows_tidy
    | with_reducible apply State.count_tidy
    | with_reducible apply State.dropCmd_tidy
    | with_reducible apply State.fail_tidy
    | with_reducible apply State.lost_tidy
    | with_reducible apply State.mapCmd_tidy
    | with_reducible apply State.mapDue_tidy
    | with_reducible apply State.put_tidy
    | with_reducible apply State.stampCmd_tidy
    | with_reducible apply State.Tidy.ite
    | with_reducible apply State.Tidy.each
    | with_reducible apply State.Tidy.when
    | (with_reducible refine State.mk_tidy rfl ?_; first | with_reducible assumption)
    | (with_reducible refine State.Tidy.mapIf ?_ ?_; rotate_left; (intro _; rfl))
    | split

theorem execArrayOpStart_tidy (d : Fin 4) (s : State) (h_s : s.Tidy) : ∀ t_, execArrayOpStart d s = .next t_ →
    t_.Tidy := by
  intro t_ h_
  unfold execArrayOpStart at h_
  repeat' first
    | (injection h_ with h_; subst h_)
    | split at h_
    | cases h_
  all_goals
    repeat' first
      | with_reducible assumption
      | with_reducible apply State.arrayStart_tidy

theorem State.countSlots_tidy (s : State) (c : Cmd) (h_s : s.Tidy) : (State.countSlots s c).Tidy := by
  unfold State.countSlots
  repeat' first
    | with_reducible assumption
    | (with_reducible refine Keeps.intro (fun s_ y_ h_ => ?_))
    | (focus ((try lift_lets); intro x_; refine (fun (h_ : State.Tidy x_) => ?_) ?_; clear_value x_))
    | (subst x_)
    | with_reducible apply State.count_tidy
    | with_reducible apply State.put_tidy
    | with_reducible apply State.Tidy.ite
    | with_reducible apply State.Tidy.each

theorem State.aryRow_tidy (s : State) (c : Cmd) (i : Nat) (h_s : s.Tidy) : (State.aryRow s c i).Tidy := by
  have key : ∀ (s : State) (x : Nat) (l : List Nat) (p : Bool) (a : Nat → Nat) (b : List Byte), s.Tidy →
      (match l with
        | [] => s
        | j :: _ => if p then (s.write .array none (a j) b).nonfinite x c.context else s.write .array none (a j) b).Tidy := by
    intro s x l p a b h
    split
    · exact h
    · exact State.Tidy.ite (State.nonfinite_tidy _ _ _ (State.write_tidy _ _ _ _ _ h)) (State.write_tidy _ _ _ _ _ h)
  exact State.Tidy.each (Keeps.intro fun s x h => key s x _ _ _ _ h) h_s

theorem State.aryUndefined_tidy (s : State) (c : Cmd) (h_s : s.Tidy) : (State.aryUndefined s c).Tidy := by
  unfold State.aryUndefined
  repeat' first
    | with_reducible assumption
    | (with_reducible refine Keeps.intro (fun s_ y_ h_ => ?_))
    | (subst x_)
    | with_reducible apply State.undefine_tidy
    | with_reducible apply State.Tidy.each

theorem State.arrayRelease_tidy (s : State) (c : Cmd) (h_s : s.Tidy) : (State.arrayRelease s c).Tidy := by
  unfold State.arrayRelease
  repeat' first
    | with_reducible assumption
    | (with_reducible refine Keeps.intro (fun s_ y_ h_ => ?_))
    | (focus ((try lift_lets); intro x_; refine (fun (h_ : State.Tidy x_) => ?_) ?_; clear_value x_))
    | (subst x_)
    | with_reducible apply State.put_tidy
    | with_reducible apply State.Tidy.each
    | (with_reducible apply State.mk_wf <;> (repeat' first | exact Table.wf_nil _ | (exact queueWaits_wf Wait.queue (fun _ q => { q with wait := WaitSt.absent }) _ _ (State.Tidy.queues (by with_reducible assumption))) | exact List.Pairwise.nil | (with_reducible apply Table.wf_filter) | (with_reducible apply Table.wf_set) | (with_reducible apply pairwise_setInsert) | (with_reducible apply pairwise_setErase) | (with_reducible apply List.Pairwise.filter) | (exact State.Tidy.regs (by with_reducible assumption)) | (exact State.Tidy.mem (by with_reducible assumption)) | (exact State.Tidy.cells (by with_reducible assumption)) | (exact State.Tidy.queues (by with_reducible assumption)) | (exact State.Tidy.jobs (by with_reducible assumption)) | (exact State.Tidy.gates (by with_reducible assumption)) | (exact State.Tidy.pages (by with_reducible assumption)) | (exact State.Tidy.poison (by with_reducible assumption)) | (exact State.Tidy.units (by with_reducible assumption)) | (exact State.Tidy.links (by with_reducible assumption)) | (exact State.Tidy.bundles (by with_reducible assumption)) | (exact State.Tidy.actions (by with_reducible assumption)) | (exact State.Tidy.ports (by with_reducible assumption)) | (exact State.Tidy.sampled (by with_reducible assumption)) | (exact State.Tidy.markers (by with_reducible assumption)) | (exact State.Tidy.lostGen (by with_reducible assumption)) | (exact State.Tidy.lostSet (by with_reducible assumption)) | (exact State.Tidy.chosen (by with_reducible assumption)) | (exact State.Tidy.causes (by with_reducible assumption)) | (exact State.Tidy.moved (by with_reducible assumption)) | (exact State.Tidy.parts (by with_reducible assumption)) | (exact State.Tidy.crossing (by with_reducible assumption)) | (exact State.Tidy.image (by with_reducible assumption)) | (exact State.Tidy.chain (by with_reducible assumption)) | (exact State.Tidy.steps (by with_reducible assumption)) | (exact State.Tidy.reading (by with_reducible assumption)) | (exact State.Tidy.weights (by with_reducible assumption)) | (exact State.Tidy.dealt (by with_reducible assumption)) | (exact State.Tidy.health (by with_reducible assumption)) | (exact State.Tidy.meas (by with_reducible assumption)) | (exact State.Tidy.sums (by with_reducible assumption)) | (exact State.Tidy.spdm (by with_reducible assumption)) | (exact State.Tidy.ide (by with_reducible assumption)) | (exact State.Tidy.ids (by with_reducible assumption)) | (simp only [List.map_nil, List.nil_append, List.pairwise_singleton]; done) | (refine forUpto_wf (fun i_ m_ h_ => ?_) _ ?_) | with_reducible assumption | (intro p_ hp_; first | (exact State.Tidy.order (by with_reducible assumption) p_ hp_) | (exact State.Tidy.order (by with_reducible assumption) p_ (List.mem_filter.mp hp_).1) | (exact absurd hp_ (List.not_mem_nil)))))

theorem State.arrayEnd_tidy (s : State) (c : Cmd) (h_s : s.Tidy) : (State.arrayEnd s c).Tidy := by
  unfold State.arrayEnd
  repeat' first
    | with_reducible assumption
    | (with_reducible refine Keeps.intro (fun s_ y_ h_ => ?_))
    | (focus ((try lift_lets); intro x_; refine (fun (h_ : State.Tidy x_) => ?_) ?_; clear_value x_))
    | (subst x_)
    | with_reducible apply State.arrayRelease_tidy
    | with_reducible apply State.aryRow_tidy
    | with_reducible apply State.aryUndefined_tidy
    | with_reducible apply State.cmdSignal_tidy
    | with_reducible apply State.countSlots_tidy
    | with_reducible apply State.count_tidy
    | with_reducible apply State.done_tidy
    | with_reducible apply State.dropCmd_tidy
    | with_reducible apply State.fail_tidy
    | with_reducible apply State.lost_tidy
    | with_reducible apply State.stampCmd_tidy
    | with_reducible apply State.Tidy.ite
    | with_reducible apply State.Tidy.each
    | (with_reducible refine State.mk_tidy rfl ?_; first | with_reducible assumption)
    | split

theorem State.arrayComplete_tidy (s : State) (d : Nat) (h_s : s.Tidy) : (State.arrayComplete s d).Tidy := by
  unfold State.arrayComplete
  repeat' first
    | with_reducible assumption
    | (subst x_)
    | with_reducible apply State.arrayEnd_tidy
    | with_reducible apply State.Tidy.ite
    | (with_reducible refine State.mk_tidy rfl ?_; first | with_reducible assumption)
    | split

theorem execArrayOpComplete_tidy (d : Fin 4) (s : State) (h_s : s.Tidy) : ∀ t_, execArrayOpComplete d s = .next t_ →
    t_.Tidy := by
  intro t_ h_
  unfold execArrayOpComplete at h_
  repeat' first
    | (injection h_ with h_; subst h_)
    | split at h_
    | cases h_
  all_goals
    repeat' first
      | with_reducible assumption
      | with_reducible apply State.arrayComplete_tidy

end Sys2Proof.Machine
end

