-- ==== Sys2Proof/Laws/TidyVector.lean ====
section
/-! SUPPORT. Every function of Machine/Vector.lean that answers a state keeps the canonical form (`State.Tidy`): one lemma
per function, named after it. -/

namespace Sys2Proof.Machine

theorem State.vectorOp_tidy (s : State) (c : Cmd) (h_s : s.Tidy) : (State.vectorOp s c).Tidy := by
  unfold State.vectorOp
  repeat' first
    | with_reducible assumption
    | (focus ((try lift_lets); intro x_; refine (fun (h_ : State.Tidy x_) => ?_) ?_; clear_value x_))
    | (subst x_)
    | (focus ((try lift_lets); intro x_; (fail_if_success (have q_ : x_ = fun a_ => x_ a_ := rfl)); clear_value x_))
    | with_reducible apply State.mapCmd_tidy
    | with_reducible apply State.Tidy.ite
    | (with_reducible refine State.Tidy.mapIf ?_ ?_; rotate_left; (intro _; rfl))

theorem execVectorOp_tidy (d : Fin 4) (q : Fin 64) (ext : HostSlot) (s : State) (h_s : s.Tidy) : ∀ t_, execVectorOp d
    q ext s = .next t_ → t_.Tidy := by
  intro t_ h_
  unfold execVectorOp at h_
  repeat' first
    | (injection h_ with h_; subst h_)
    | split at h_
    | cases h_
  all_goals
    repeat' first
      | with_reducible assumption
      | (with_reducible refine Keeps.intro (fun s_ y_ h_ => ?_))
      | with_reducible apply State.v2_tidy
      | with_reducible apply State.vectorOp_tidy

theorem execV1Vector_tidy (d : Fin 4) (q : Fin 64) (ext : HostSlot) (s : State) (h_s : s.Tidy) : ∀ t_, execV1Vector d
    q ext s = .next t_ → t_.Tidy := by
  intro t_ h_
  unfold execV1Vector at h_
  repeat' first
    | (injection h_ with h_; subst h_)
    | split at h_
    | cases h_
  all_goals
    repeat' first
      | with_reducible assumption
      | (with_reducible refine Keeps.intro (fun s_ y_ h_ => ?_))
      | with_reducible apply State.v1_tidy
      | with_reducible apply State.vectorOp_tidy

theorem State.takeUnits_tidy (s : State) (c : Cmd) (h_s : s.Tidy) : (State.takeUnits s c).Tidy := by
  unfold State.takeUnits
  repeat' first
    | with_reducible assumption
    | (focus ((try lift_lets); intro x_; refine (fun (h_ : State.Tidy x_) => ?_) ?_; clear_value x_))
    | (subst x_)
    | with_reducible apply State.mapCmd_tidy
    | with_reducible apply State.put_tidy
    | with_reducible apply State.stampCmd_tidy
    | with_reducible apply State.vectorRun_tidy
    | with_reducible apply State.Tidy.ite
    | (with_reducible refine State.Tidy.mapIf ?_ ?_; rotate_left; (intro _; rfl))

theorem State.attemptOverflow_tidy (s : State) (c : Cmd) (n : Nat) (h_s : s.Tidy) : (State.attemptOverflow s c
    n).Tidy := by
  unfold State.attemptOverflow
  repeat' first
    | with_reducible assumption
    | (subst x_)
    | with_reducible apply State.mapBracket_tidy
    | with_reducible apply State.overflow_tidy
    | with_reducible apply State.Tidy.ite
    | (with_reducible refine State.mk_tidy rfl ?_; first | with_reducible assumption)
    | split

theorem State.vecReads_tidy (s : State) (c : Cmd) (h_s : s.Tidy) : (State.vecReads s c).Tidy := by
  unfold State.vecReads
  repeat' first
    | with_reducible assumption
    | (with_reducible refine Keeps.intro (fun s_ y_ h_ => ?_))
    | (subst x_)
    | with_reducible apply State.countRows_tidy
    | with_reducible apply State.Tidy.ite
    | with_reducible apply State.Tidy.each

theorem State.vecWork_tidy (s : State) (c : Cmd) (units : List Nat) (x : VecEffect) (h_s : s.Tidy) : (State.vecWork s
    c units x).Tidy := by
  unfold State.vecWork
  repeat' first
    | with_reducible assumption
    | (with_reducible refine Keeps.intro (fun s_ y_ h_ => ?_))
    | (focus ((try lift_lets); intro x_; refine (fun (h_ : State.Tidy x_) => ?_) ?_; clear_value x_))
    | (subst x_)
    | (focus ((try lift_lets); intro x_; (fail_if_success (have q_ : x_ = fun a_ => x_ a_ := rfl)); clear_value x_))
    | with_reducible apply State.count_tidy
    | with_reducible apply State.Tidy.ite
    | with_reducible apply State.Tidy.each

theorem State.unitBytes_tidy (s : State) (d u : Nat) (a n : Nat) (write : Bool) (h_s : s.Tidy) : (State.unitBytes s d
    u a n write).Tidy := by
  unfold State.unitBytes
  repeat' first
    | with_reducible assumption
    | with_reducible apply State.count_tidy

theorem State.dealBytes_tidy (s : State) (c : Cmd) (units : List Nat) (row a bytes total : Nat) (write : Bool) (h_s :
    s.Tidy) : (State.dealBytes s c units row a bytes total write).Tidy := by
  unfold State.dealBytes
  repeat' first
    | with_reducible assumption
    | (with_reducible refine Keeps.intro (fun s_ y_ h_ => ?_))
    | (subst x_)
    | (focus ((try lift_lets); intro x_; (fail_if_success (have q_ : x_ = fun a_ => x_ a_ := rfl)); clear_value x_))
    | with_reducible apply State.unitBytes_tidy
    | with_reducible apply State.Tidy.ite
    | with_reducible apply State.Tidy.each

theorem State.regionBytes_tidy (s : State) (c : Cmd) (units : List Nat) (r : VecRegion) (per : Nat) (total : Nat →
    Nat → Nat) (write : Bool) (h_s : s.Tidy) : (State.regionBytes s c units r per total write).Tidy := by
  unfold State.regionBytes
  repeat' first
    | with_reducible assumption
    | (with_reducible refine Keeps.intro (fun s_ y_ h_ => ?_))
    | (subst x_)
    | with_reducible apply State.dealBytes_tidy
    | with_reducible apply State.unitBytes_tidy
    | with_reducible apply State.Tidy.ite
    | with_reducible apply State.Tidy.each

theorem State.vecMoved_tidy (s : State) (c : Cmd) (units : List Nat) (x : Option VecEffect) (h_s : s.Tidy) :
    (State.vecMoved s c units x).Tidy := by
  unfold State.vecMoved
  repeat' first
    | with_reducible assumption
    | (with_reducible refine Keeps.intro (fun s_ y_ h_ => ?_))
    | (focus ((try lift_lets); intro x_; refine (fun (h_ : State.Tidy x_) => ?_) ?_; clear_value x_))
    | (subst x_)
    | (focus ((try lift_lets); intro x_; (fail_if_success (have q_ : x_ = fun a_ => x_ a_ := rfl)); clear_value x_))
    | ((try lift_lets); intro x_)
    | with_reducible apply State.regionBytes_tidy
    | with_reducible apply State.Tidy.ite
    | with_reducible apply State.Tidy.each
    | (with_reducible refine State.mk_tidy rfl ?_; first | with_reducible assumption)
    | split

theorem State.vecUndefined_tidy (s : State) (c : Cmd) (h_s : s.Tidy) : (State.vecUndefined s c).Tidy := by
  unfold State.vecUndefined
  repeat' first
    | with_reducible assumption
    | (with_reducible refine Keeps.intro (fun s_ y_ h_ => ?_))
    | with_reducible apply State.undefine_tidy
    | with_reducible apply State.Tidy.each

theorem State.vectorRun_tidy (s : State) (c : Cmd) (h_s : s.Tidy) : (State.vectorRun s c).Tidy := by
  unfold State.vectorRun
  repeat' first
    | with_reducible assumption
    | (with_reducible refine Keeps.intro (fun s_ y_ h_ => ?_))
    | (focus ((try lift_lets); intro x_; refine (fun (h_ : State.Tidy x_) => ?_) ?_; clear_value x_))
    | (subst x_)
    | (focus ((try lift_lets); intro x_; (fail_if_success (have q_ : x_ = fun a_ => x_ a_ := rfl)); clear_value x_))
    | with_reducible apply State.amaxReport_tidy
    | with_reducible apply State.attemptOverflow_tidy
    | with_reducible apply State.count_tidy
    | with_reducible apply State.mapCmd_tidy
    | with_reducible apply State.nonfinite_tidy
    | with_reducible apply State.stampCmd_tidy
    | with_reducible apply State.vecMoved_tidy
    | with_reducible apply State.vecReads_tidy
    | with_reducible apply State.vecUndefined_tidy
    | with_reducible apply State.vecWork_tidy
    | with_reducible apply State.write_tidy
    | with_reducible apply State.Tidy.ite
    | with_reducible apply State.Tidy.each

theorem State.vectorRow_tidy (s : State) (d kind : Nat) (run : State → Cmd → State) (h_s : s.Tidy) (k_run : Keeps
    run) : (State.vectorRow s d kind run).Tidy := by
  unfold State.vectorRow
  repeat' first
    | with_reducible assumption
    | (with_reducible refine Keeps.intro (fun s_ y_ h_ => ?_))
    | (subst x_)
    | ((try lift_lets); intro x_)
    | (refine k_run _ _ ?_)
    | with_reducible apply State.fail_tidy
    | with_reducible apply State.takeUnits_tidy
    | with_reducible apply State.Tidy.ite
    | (with_reducible refine State.mk_tidy rfl ?_; first | with_reducible assumption)
    | split

theorem execEpilogue_tidy (d : Fin 4) (s : State) (h_s : s.Tidy) : ∀ t_, execEpilogue d s = .next t_ → t_.Tidy := by
  intro t_ h_
  unfold execEpilogue at h_
  repeat' first
    | (injection h_ with h_; subst h_)
    | split at h_
    | cases h_
  all_goals
    repeat' first
      | with_reducible assumption
      | (with_reducible refine Keeps.intro (fun s_ y_ h_ => ?_))
      | with_reducible apply State.vectorRow_tidy
      | with_reducible apply State.vectorRun_tidy

theorem execSoftmax_tidy (d : Fin 4) (s : State) (h_s : s.Tidy) : ∀ t_, execSoftmax d s = .next t_ → t_.Tidy := by
  intro t_ h_
  unfold execSoftmax at h_
  repeat' first
    | (injection h_ with h_; subst h_)
    | split at h_
    | cases h_
  all_goals
    repeat' first
      | with_reducible assumption
      | (with_reducible refine Keeps.intro (fun s_ y_ h_ => ?_))
      | with_reducible apply State.vectorRow_tidy
      | with_reducible apply State.vectorRun_tidy

theorem execRmsnorm_tidy (d : Fin 4) (s : State) (h_s : s.Tidy) : ∀ t_, execRmsnorm d s = .next t_ → t_.Tidy := by
  intro t_ h_
  unfold execRmsnorm at h_
  repeat' first
    | (injection h_ with h_; subst h_)
    | split at h_
    | cases h_
  all_goals
    repeat' first
      | with_reducible assumption
      | (with_reducible refine Keeps.intro (fun s_ y_ h_ => ?_))
      | with_reducible apply State.vectorRow_tidy
      | with_reducible apply State.vectorRun_tidy

theorem execLayernorm_tidy (d : Fin 4) (s : State) (h_s : s.Tidy) : ∀ t_, execLayernorm d s = .next t_ → t_.Tidy := by
  intro t_ h_
  unfold execLayernorm at h_
  repeat' first
    | (injection h_ with h_; subst h_)
    | split at h_
    | cases h_
  all_goals
    repeat' first
      | with_reducible assumption
      | (with_reducible refine Keeps.intro (fun s_ y_ h_ => ?_))
      | with_reducible apply State.vectorRow_tidy
      | with_reducible apply State.vectorRun_tidy

theorem execQuant_tidy (d : Fin 4) (s : State) (h_s : s.Tidy) : ∀ t_, execQuant d s = .next t_ → t_.Tidy := by
  intro t_ h_
  unfold execQuant at h_
  repeat' first
    | (injection h_ with h_; subst h_)
    | split at h_
    | cases h_
  all_goals
    repeat' first
      | with_reducible assumption
      | (with_reducible refine Keeps.intro (fun s_ y_ h_ => ?_))
      | with_reducible apply State.vectorRow_tidy
      | with_reducible apply State.vectorRun_tidy

theorem execAdamw_tidy (d : Fin 4) (s : State) (h_s : s.Tidy) : ∀ t_, execAdamw d s = .next t_ → t_.Tidy := by
  intro t_ h_
  unfold execAdamw at h_
  repeat' first
    | (injection h_ with h_; subst h_)
    | split at h_
    | cases h_
  all_goals
    repeat' first
      | with_reducible assumption
      | (with_reducible refine Keeps.intro (fun s_ y_ h_ => ?_))
      | with_reducible apply State.vectorRow_tidy
      | with_reducible apply State.vectorRun_tidy

theorem execAttnMerge_tidy (d : Fin 4) (s : State) (h_s : s.Tidy) : ∀ t_, execAttnMerge d s = .next t_ → t_.Tidy := by
  intro t_ h_
  unfold execAttnMerge at h_
  repeat' first
    | (injection h_ with h_; subst h_)
    | split at h_
    | cases h_
  all_goals
    repeat' first
      | with_reducible assumption
      | (with_reducible refine Keeps.intro (fun s_ y_ h_ => ?_))
      | with_reducible apply State.vectorRow_tidy
      | with_reducible apply State.vectorRun_tidy

theorem execXent_tidy (d : Fin 4) (s : State) (h_s : s.Tidy) : ∀ t_, execXent d s = .next t_ → t_.Tidy := by
  intro t_ h_
  unfold execXent at h_
  repeat' first
    | (injection h_ with h_; subst h_)
    | split at h_
    | cases h_
  all_goals
    repeat' first
      | with_reducible assumption
      | (with_reducible refine Keeps.intro (fun s_ y_ h_ => ?_))
      | with_reducible apply State.vectorRow_tidy
      | with_reducible apply State.vectorRun_tidy

theorem State.freeUnits_tidy (s : State) (c : Cmd) (h_s : s.Tidy) : (State.freeUnits s c).Tidy :=
  State.Tidy.each (Keeps.intro fun _ _ h => { h with units := Table.wf_set _ _ _ _ h.units }) (State.put_tidy _ _ _ h_s)

theorem State.vectorEnd_tidy (s : State) (c : Cmd) (h_s : s.Tidy) : (State.vectorEnd s c).Tidy := by
  unfold State.vectorEnd
  repeat' first
    | with_reducible assumption
    | (focus ((try lift_lets); intro x_; refine (fun (h_ : State.Tidy x_) => ?_) ?_; clear_value x_))
    | (subst x_)
    | with_reducible apply State.count_tidy
    | with_reducible apply State.done_tidy
    | with_reducible apply State.fail_tidy
    | with_reducible apply State.freeUnits_tidy
    | with_reducible apply State.Tidy.ite
    | (with_reducible refine State.mk_tidy rfl ?_; first | with_reducible assumption)
    | split

theorem State.vectorComplete_tidy (s : State) (d u : Nat) (h_s : s.Tidy) : (State.vectorComplete s d u).Tidy := by
  unfold State.vectorComplete
  repeat' first
    | with_reducible assumption
    | (subst x_)
    | with_reducible apply State.vectorEnd_tidy
    | with_reducible apply State.Tidy.ite
    | (with_reducible refine State.mk_tidy rfl ?_; first | with_reducible assumption)
    | split

theorem execVectorOpComplete_tidy (d : Fin 4) (vu : Fin 64) (s : State) (h_s : s.Tidy) : ∀ t_, execVectorOpComplete d
    vu s = .next t_ → t_.Tidy := by
  intro t_ h_
  unfold execVectorOpComplete at h_
  repeat' first
    | (injection h_ with h_; subst h_)
    | split at h_
    | cases h_
  all_goals
    repeat' first
      | with_reducible assumption
      | with_reducible apply State.vectorComplete_tidy

end Sys2Proof.Machine
end

