-- ==== Sys2Proof/Laws/TidyUnitCore.lean ====
section
/-! SUPPORT. Every function of Machine/UnitCore.lean that answers a state keeps the canonical form (`State.Tidy`): one lemma
per function, named after it. -/

namespace Sys2Proof.Machine

theorem State.kernelStart_tidy (s : State) (c : Cmd) (h_s : s.Tidy) : (State.kernelStart s c).Tidy := by
  unfold State.kernelStart
  repeat' first
    | with_reducible assumption
    | (with_reducible refine Keeps.intro (fun s_ y_ h_ => ?_))
    | (with_reducible refine Keeps1.intro (fun s_ h_ => ?_))
    | (subst x_)
    | with_reducible apply State.draw_tidy
    | with_reducible apply State.setUnit_tidy
    | (intro s_ c_ w_ h_)
    | with_reducible exact Issue.fault_tidy _
    | with_reducible exact Issue.stop_tidy _
    | with_reducible apply Issue.ite_tidy
    | with_reducible apply Issue.ok_tidy
    | with_reducible apply State.Tidy.each

theorem execKernel_tidy (d : Fin 4) (s : State) (h_s : s.Tidy) : ∀ t_, execKernel d s = .next t_ → t_.Tidy := by
  intro t_ h_
  unfold execKernel at h_
  repeat' first
    | (injection h_ with h_; subst h_)
    | split at h_
    | cases h_
  all_goals
    repeat' first
      | with_reducible assumption
      | (with_reducible refine Keeps.intro (fun s_ y_ h_ => ?_))
      | (with_reducible refine Keeps1.intro (fun s_ h_ => ?_))
      | with_reducible apply State.kernelStart_tidy
      | with_reducible apply State.vectorRow_tidy

theorem State.kernelStop_tidy (s : State) (c : Cmd) (err detail : Nat) (h_s : s.Tidy) : (State.kernelStop s c err
    detail).Tidy := by
  unfold State.kernelStop
  repeat' first
    | with_reducible assumption
    | (with_reducible refine Keeps.intro (fun s_ y_ h_ => ?_))
    | (with_reducible refine Keeps1.intro (fun s_ h_ => ?_))
    | (focus ((try lift_lets); intro x_; refine (fun (h_ : State.Tidy x_) => ?_) ?_; clear_value x_))
    | (subst x_)
    | with_reducible apply State.mapCmd_tidy
    | with_reducible apply State.setUnit_tidy
    | (intro s_ c_ w_ h_)
    | with_reducible exact Issue.fault_tidy _
    | with_reducible exact Issue.stop_tidy _
    | with_reducible apply Issue.ite_tidy
    | with_reducible apply Issue.ok_tidy
    | with_reducible apply State.Tidy.each

theorem State.kernelFault_tidy (s : State) (c : Cmd) (u f : Nat) (h_s : s.Tidy) : (State.kernelFault s c u f).Tidy := by
  unfold State.kernelFault
  repeat' first
    | with_reducible assumption
    | (with_reducible refine Keeps.intro (fun s_ y_ h_ => ?_))
    | (with_reducible refine Keeps1.intro (fun s_ h_ => ?_))
    | with_reducible apply State.count_tidy
    | with_reducible apply State.kernelStop_tidy

theorem State.issue_tidy (s : State) (d u lo hi : Nat) (run : State → Cmd → Nat → Issue)
    (hr : ∀ s c w, s.Tidy → (run s c w).Tidy) (h_s : s.Tidy) : (s.issue d u lo hi run).Tidy := by
  have hc := State.countRead_tidy s .engine (s.unit d u).pc 8 h_s
  unfold State.issue
  dsimp only
  split
  · exact h_s
  · refine State.Tidy.ite h_s (State.Tidy.ite (State.kernelFault_tidy _ _ _ _ h_s) (State.Tidy.ite
      (State.kernelStop_tidy _ _ _ _ hc) (State.Tidy.ite (State.kernelFault_tidy _ _ _ _ hc) (State.Tidy.ite h_s ?_))))
    have h := hr (((s.countRead .engine (s.unit d u).pc 8).setUnit d u { s.unit d u with pc := (s.unit d u).pc + 8 }).count
      (page d B.PMU) (C.PMU_UNIT_INSTRUCTIONS u) 1)
    split
    · rename_i c _ _ t e
      have := h c (s.load (s.unit d u).pc 8) (State.count_tidy _ _ _ _ (State.setUnit_tidy _ _ _ hc))
      rw [e] at this
      exact this
    · exact State.kernelFault_tidy _ _ _ _ hc
    · exact State.kernelStop_tidy _ _ _ _ hc

theorem State.regs'_tidy (s : State) (d u : Nat) (f : UnitCore → UnitCore) (h_s : s.Tidy) : (State.regs' s d u
    f).Tidy := by
  unfold State.regs'
  repeat' first
    | with_reducible assumption
    | (with_reducible refine Keeps.intro (fun s_ y_ h_ => ?_))
    | (with_reducible refine Keeps1.intro (fun s_ h_ => ?_))
    | with_reducible apply State.setUnit_tidy
    | (intro s_ c_ w_ h_)
    | with_reducible exact Issue.fault_tidy _
    | with_reducible exact Issue.stop_tidy _
    | with_reducible apply Issue.ite_tidy
    | with_reducible apply Issue.ok_tidy

theorem execScalarIntegerOp_tidy (d : Fin 4) (vu : Fin 64) (op : ScalarInt) (rd ra rb : Fin 32) (s : State) (h_s :
    s.Tidy) : ∀ t_, execScalarIntegerOp d vu op rd ra rb s = .next t_ → t_.Tidy := by
  intro t_ h_
  unfold execScalarIntegerOp at h_
  repeat' first
    | (injection h_ with h_; subst h_)
    | split at h_
    | cases h_
  all_goals
    repeat' first
      | with_reducible assumption
      | (with_reducible refine Keeps.intro (fun s_ y_ h_ => ?_))
      | (with_reducible refine Keeps1.intro (fun s_ h_ => ?_))
      | with_reducible apply State.issue_tidy
      | with_reducible apply State.regs'_tidy
      | (intro s_ c_ w_ h_)

theorem execScalarFp32Op_tidy (d : Fin 4) (vu : Fin 64) (op : ScalarFp) (rd ra rb rc : Fin 32) (s : State) (h_s :
    s.Tidy) : ∀ t_, execScalarFp32Op d vu op rd ra rb rc s = .next t_ → t_.Tidy := by
  intro t_ h_
  unfold execScalarFp32Op at h_
  repeat' first
    | (injection h_ with h_; subst h_)
    | split at h_
    | cases h_
  all_goals
    repeat' first
      | with_reducible assumption
      | (with_reducible refine Keeps.intro (fun s_ y_ h_ => ?_))
      | (with_reducible refine Keeps1.intro (fun s_ h_ => ?_))
      | with_reducible apply State.issue_tidy
      | with_reducible apply State.regs'_tidy
      | (intro s_ c_ w_ h_)

theorem execBranch_tidy (d : Fin 4) (vu : Fin 64) (s : State) (h_s : s.Tidy) : ∀ t_, execBranch d vu s = .next t_ →
    t_.Tidy := by
  intro t_ h_
  unfold execBranch at h_
  repeat' first
    | (injection h_ with h_; subst h_)
    | split at h_
    | cases h_
  all_goals
    repeat' first
      | with_reducible assumption
      | (with_reducible refine Keeps.intro (fun s_ y_ h_ => ?_))
      | (with_reducible refine Keeps1.intro (fun s_ h_ => ?_))
      | (focus ((try lift_lets); intro x_; refine (fun (h_ : State.Tidy x_) => ?_) ?_; clear_value x_))
      | (subst x_)
      | (focus ((try lift_lets); intro x_; (fail_if_success (have q_ : x_ = fun a_ => x_ a_ := rfl)); clear_value x_))
      | ((try lift_lets); intro x_)
      | with_reducible apply State.issue_tidy
      | with_reducible apply State.regs'_tidy
      | (intro s_ c_ w_ h_)
      | with_reducible exact Issue.fault_tidy _
      | with_reducible exact Issue.stop_tidy _
      | with_reducible apply Issue.ite_tidy
      | with_reducible apply Issue.ok_tidy
      | (with_reducible refine State.mk_tidy rfl ?_; first | with_reducible assumption)

theorem execConditionalBranch_tidy (d : Fin 4) (vu : Fin 64) (s : State) (h_s : s.Tidy) : ∀ t_, execConditionalBranch
    d vu s = .next t_ → t_.Tidy := by
  intro t_ h_
  unfold execConditionalBranch at h_
  repeat' first
    | (injection h_ with h_; subst h_)
    | split at h_
    | cases h_
  all_goals
    repeat' first
      | with_reducible assumption
      | (with_reducible refine Keeps.intro (fun s_ y_ h_ => ?_))
      | (with_reducible refine Keeps1.intro (fun s_ h_ => ?_))
      | (focus ((try lift_lets); intro x_; refine (fun (h_ : State.Tidy x_) => ?_) ?_; clear_value x_))
      | (subst x_)
      | (focus ((try lift_lets); intro x_; (fail_if_success (have q_ : x_ = fun a_ => x_ a_ := rfl)); clear_value x_))
      | ((try lift_lets); intro x_)
      | with_reducible apply State.issue_tidy
      | with_reducible apply State.regs'_tidy
      | (intro s_ c_ w_ h_)
      | with_reducible exact Issue.fault_tidy _
      | with_reducible exact Issue.stop_tidy _
      | with_reducible apply Issue.ite_tidy
      | with_reducible apply Issue.ok_tidy
      | with_reducible apply State.Tidy.ite
      | (with_reducible refine State.mk_tidy rfl ?_; first | with_reducible assumption)
      | split

theorem execCall_tidy (d : Fin 4) (vu : Fin 64) (s : State) (h_s : s.Tidy) : ∀ t_, execCall d vu s = .next t_ →
    t_.Tidy := by
  intro t_ h_
  unfold execCall at h_
  repeat' first
    | (injection h_ with h_; subst h_)
    | split at h_
    | cases h_
  all_goals
    repeat' first
      | with_reducible assumption
      | (with_reducible refine Keeps.intro (fun s_ y_ h_ => ?_))
      | (with_reducible refine Keeps1.intro (fun s_ h_ => ?_))
      | (focus ((try lift_lets); intro x_; refine (fun (h_ : State.Tidy x_) => ?_) ?_; clear_value x_))
      | (subst x_)
      | (focus ((try lift_lets); intro x_; (fail_if_success (have q_ : x_ = fun a_ => x_ a_ := rfl)); clear_value x_))
      | ((try lift_lets); intro x_)
      | with_reducible apply State.issue_tidy
      | with_reducible apply State.regs'_tidy
      | (intro s_ c_ w_ h_)
      | with_reducible exact Issue.fault_tidy _
      | with_reducible exact Issue.stop_tidy _
      | with_reducible apply Issue.ite_tidy
      | with_reducible apply Issue.ok_tidy
      | (with_reducible refine State.mk_tidy rfl ?_; first | with_reducible assumption)

theorem execRet_tidy (d : Fin 4) (vu : Fin 64) (s : State) (h_s : s.Tidy) : ∀ t_, execRet d vu s = .next t_ → t_.Tidy
    := by
  intro t_ h_
  unfold execRet at h_
  repeat' first
    | (injection h_ with h_; subst h_)
    | split at h_
    | cases h_
  all_goals
    repeat' first
      | with_reducible assumption
      | (with_reducible refine Keeps.intro (fun s_ y_ h_ => ?_))
      | (with_reducible refine Keeps1.intro (fun s_ h_ => ?_))
      | (focus ((try lift_lets); intro x_; refine (fun (h_ : State.Tidy x_) => ?_) ?_; clear_value x_))
      | (subst x_)
      | (focus ((try lift_lets); intro x_; (fail_if_success (have q_ : x_ = fun a_ => x_ a_ := rfl)); clear_value x_))
      | ((try lift_lets); intro x_)
      | with_reducible apply State.issue_tidy
      | with_reducible apply State.regs'_tidy
      | (intro s_ c_ w_ h_)
      | with_reducible exact Issue.fault_tidy _
      | with_reducible exact Issue.stop_tidy _
      | with_reducible apply Issue.ite_tidy
      | with_reducible apply Issue.ok_tidy
      | (with_reducible refine State.mk_tidy rfl ?_; first | with_reducible assumption)
      | split

theorem State.haltUnit_tidy (s : State) (d u : Nat) (c : Cmd) (h_s : s.Tidy) : (State.haltUnit s d u c).Tidy := by
  unfold State.haltUnit
  repeat' first
    | with_reducible assumption
    | (with_reducible refine Keeps.intro (fun s_ y_ h_ => ?_))
    | (with_reducible refine Keeps1.intro (fun s_ h_ => ?_))
    | (focus ((try lift_lets); intro x_; refine (fun (h_ : State.Tidy x_) => ?_) ?_; clear_value x_))
    | (subst x_)
    | with_reducible apply State.mapCmd_tidy
    | with_reducible apply State.setUnit_tidy
    | (intro s_ c_ w_ h_)
    | with_reducible exact Issue.fault_tidy _
    | with_reducible exact Issue.stop_tidy _
    | with_reducible apply Issue.ite_tidy
    | with_reducible apply Issue.ok_tidy
    | with_reducible apply State.Tidy.ite

theorem execHalt_tidy (d : Fin 4) (vu : Fin 64) (s : State) (h_s : s.Tidy) : ∀ t_, execHalt d vu s = .next t_ →
    t_.Tidy := by
  intro t_ h_
  unfold execHalt at h_
  repeat' first
    | (injection h_ with h_; subst h_)
    | split at h_
    | cases h_
  all_goals
    repeat' first
      | with_reducible assumption
      | (with_reducible refine Keeps.intro (fun s_ y_ h_ => ?_))
      | (with_reducible refine Keeps1.intro (fun s_ h_ => ?_))
      | with_reducible apply State.haltUnit_tidy
      | with_reducible apply State.issue_tidy
      | (intro s_ c_ w_ h_)
      | with_reducible exact Issue.fault_tidy _
      | with_reducible exact Issue.stop_tidy _
      | with_reducible apply Issue.ite_tidy
      | with_reducible apply Issue.ok_tidy

theorem execUbar_tidy (d : Fin 4) (vu : Fin 64) (s : State) (h_s : s.Tidy) : ∀ t_, execUbar d vu s = .next t_ →
    t_.Tidy := by
  intro t_ h_
  unfold execUbar at h_
  repeat' first
    | (injection h_ with h_; subst h_)
    | split at h_
    | cases h_
  all_goals
    repeat' first
      | with_reducible assumption
      | (with_reducible refine Keeps.intro (fun s_ y_ h_ => ?_))
      | (with_reducible refine Keeps1.intro (fun s_ h_ => ?_))
      | (focus ((try lift_lets); intro x_; refine (fun (h_ : State.Tidy x_) => ?_) ?_; clear_value x_))
      | (subst x_)
      | (focus ((try lift_lets); intro x_; (fail_if_success (have q_ : x_ = fun a_ => x_ a_ := rfl)); clear_value x_))
      | ((try lift_lets); intro x_)
      | with_reducible apply State.issue_tidy
      | with_reducible apply State.regs'_tidy
      | (intro s_ c_ w_ h_)
      | with_reducible exact Issue.fault_tidy _
      | with_reducible exact Issue.stop_tidy _
      | with_reducible apply Issue.ite_tidy
      | with_reducible apply Issue.ok_tidy
      | (with_reducible refine State.mk_tidy rfl ?_; first | with_reducible assumption)

theorem State.barrierRelease_tidy (s : State) (d u : Nat) (h_s : s.Tidy) : (State.barrierRelease s d u).Tidy := by
  unfold State.barrierRelease
  repeat' first
    | with_reducible assumption
    | (with_reducible refine Keeps.intro (fun s_ y_ h_ => ?_))
    | (with_reducible refine Keeps1.intro (fun s_ h_ => ?_))
    | (subst x_)
    | ((try lift_lets); intro x_)
    | with_reducible apply State.setUnit_tidy
    | (intro s_ c_ w_ h_)
    | with_reducible exact Issue.fault_tidy _
    | with_reducible exact Issue.stop_tidy _
    | with_reducible apply Issue.ite_tidy
    | with_reducible apply Issue.ok_tidy
    | with_reducible apply State.Tidy.ite
    | with_reducible apply State.Tidy.each
    | (with_reducible refine State.mk_tidy rfl ?_; first | with_reducible assumption)
    | split

theorem execUbarRelease_tidy (d : Fin 4) (vu : Fin 64) (s : State) (h_s : s.Tidy) : ∀ t_, execUbarRelease d vu s =
    .next t_ → t_.Tidy := by
  intro t_ h_
  unfold execUbarRelease at h_
  repeat' first
    | (injection h_ with h_; subst h_)
    | split at h_
    | cases h_
  all_goals
    repeat' first
      | with_reducible assumption
      | (with_reducible refine Keeps.intro (fun s_ y_ h_ => ?_))
      | (with_reducible refine Keeps1.intro (fun s_ h_ => ?_))
      | with_reducible apply State.barrierRelease_tidy

theorem State.numReport_tidy (s : State) (d u : Nat) (c : Cmd) (w : Nat) (h_s : s.Tidy) : (State.numReport s d u c
    w).Tidy := by
  unfold State.numReport
  repeat' first
    | with_reducible assumption
    | (with_reducible refine Keeps.intro (fun s_ y_ h_ => ?_))
    | (with_reducible refine Keeps1.intro (fun s_ h_ => ?_))
    | (subst x_)
    | with_reducible apply State.amaxReport_tidy
    | (intro s_ c_ w_ h_)
    | with_reducible exact Issue.fault_tidy _
    | with_reducible exact Issue.stop_tidy _
    | with_reducible apply Issue.ite_tidy
    | with_reducible apply Issue.ok_tidy

theorem execNumReport_tidy (d : Fin 4) (vu : Fin 64) (s : State) (h_s : s.Tidy) : ∀ t_, execNumReport d vu s = .next
    t_ → t_.Tidy := by
  intro t_ h_
  unfold execNumReport at h_
  repeat' first
    | (injection h_ with h_; subst h_)
    | split at h_
    | cases h_
  all_goals
    repeat' first
      | with_reducible assumption
      | (with_reducible refine Keeps.intro (fun s_ y_ h_ => ?_))
      | (with_reducible refine Keeps1.intro (fun s_ h_ => ?_))
      | with_reducible apply State.issue_tidy
      | with_reducible apply State.numReport_tidy
      | (intro s_ c_ w_ h_)

theorem State.loadRows_tidy (s : State) (d u : Nat) (c : Cmd) (w rows bytes : Nat) (f : UnitCore → (Nat → Nat) →
    UnitCore) (h_s : s.Tidy) : (State.loadRows s d u c w rows bytes f).Tidy := by
  unfold State.loadRows
  repeat' first
    | with_reducible assumption
    | (with_reducible refine Keeps.intro (fun s_ y_ h_ => ?_))
    | (with_reducible refine Keeps1.intro (fun s_ h_ => ?_))
    | (focus ((try lift_lets); intro x_; refine (fun (h_ : State.Tidy x_) => ?_) ?_; clear_value x_))
    | (subst x_)
    | ((try lift_lets); intro x_)
    | with_reducible apply State.countRead_tidy
    | with_reducible apply State.setUnit_tidy
    | with_reducible apply State.unitBytes_tidy
    | (intro s_ c_ w_ h_)
    | with_reducible exact Issue.fault_tidy _
    | with_reducible exact Issue.stop_tidy _
    | with_reducible apply Issue.ite_tidy
    | with_reducible apply Issue.ok_tidy
    | with_reducible apply State.Tidy.ite
    | with_reducible apply State.Tidy.each
    | split

theorem State.storeRows_tidy (s : State) (d u : Nat) (c : Cmd) (w rows bytes : Nat) (row : Nat → Nat) (bad : Bool)
    (h_s : s.Tidy) : (State.storeRows s d u c w rows bytes row bad).Tidy := by
  unfold State.storeRows
  repeat' first
    | with_reducible assumption
    | (with_reducible refine Keeps.intro (fun s_ y_ h_ => ?_))
    | (with_reducible refine Keeps1.intro (fun s_ h_ => ?_))
    | (focus ((try lift_lets); intro x_; refine (fun (h_ : State.Tidy x_) => ?_) ?_; clear_value x_))
    | (subst x_)
    | with_reducible apply State.nonfinite_tidy
    | with_reducible apply State.stampCmd_tidy
    | with_reducible apply State.unitBytes_tidy
    | with_reducible apply State.write_tidy
    | (intro s_ c_ w_ h_)
    | with_reducible exact Issue.fault_tidy _
    | with_reducible exact Issue.stop_tidy _
    | with_reducible apply Issue.ite_tidy
    | with_reducible apply Issue.ok_tidy
    | with_reducible apply State.Tidy.ite
    | with_reducible apply State.Tidy.each
    | with_reducible apply State.Tidy.when
    | split

theorem State.tileLoad_tidy (s : State) (d u : Nat) (c : Cmd) (w : Nat) (h_s : s.Tidy) : (State.tileLoad s d u c
    w).Tidy := by
  unfold State.tileLoad
  repeat' first
    | with_reducible assumption
    | (with_reducible refine Keeps.intro (fun s_ y_ h_ => ?_))
    | (with_reducible refine Keeps1.intro (fun s_ h_ => ?_))
    | (subst x_)
    | with_reducible apply State.loadRows_tidy
    | (intro s_ c_ w_ h_)
    | with_reducible exact Issue.fault_tidy _
    | with_reducible exact Issue.stop_tidy _
    | with_reducible apply Issue.ite_tidy
    | with_reducible apply Issue.ok_tidy
    | with_reducible apply State.Tidy.ite
    | split

theorem execTileLoad_tidy (d : Fin 4) (vu : Fin 64) (s : State) (h_s : s.Tidy) : ∀ t_, execTileLoad d vu s = .next t_
    → t_.Tidy := by
  intro t_ h_
  unfold execTileLoad at h_
  repeat' first
    | (injection h_ with h_; subst h_)
    | split at h_
    | cases h_
  all_goals
    repeat' first
      | with_reducible assumption
      | (with_reducible refine Keeps.intro (fun s_ y_ h_ => ?_))
      | (with_reducible refine Keeps1.intro (fun s_ h_ => ?_))
      | with_reducible apply State.issue_tidy
      | with_reducible apply State.tileLoad_tidy
      | (intro s_ c_ w_ h_)

theorem State.tileStore_tidy (s : State) (d u : Nat) (c : Cmd) (w : Nat) (h_s : s.Tidy) : (State.tileStore s d u c
    w).Tidy := by
  unfold State.tileStore
  repeat' first
    | with_reducible assumption
    | (with_reducible refine Keeps.intro (fun s_ y_ h_ => ?_))
    | (with_reducible refine Keeps1.intro (fun s_ h_ => ?_))
    | (subst x_)
    | with_reducible apply State.storeRows_tidy
    | (intro s_ c_ w_ h_)
    | with_reducible exact Issue.fault_tidy _
    | with_reducible exact Issue.stop_tidy _
    | with_reducible apply Issue.ite_tidy
    | with_reducible apply Issue.ok_tidy
    | split

theorem execTileStore_tidy (d : Fin 4) (vu : Fin 64) (s : State) (h_s : s.Tidy) : ∀ t_, execTileStore d vu s = .next
    t_ → t_.Tidy := by
  intro t_ h_
  unfold execTileStore at h_
  repeat' first
    | (injection h_ with h_; subst h_)
    | split at h_
    | cases h_
  all_goals
    repeat' first
      | with_reducible assumption
      | (with_reducible refine Keeps.intro (fun s_ y_ h_ => ?_))
      | (with_reducible refine Keeps1.intro (fun s_ h_ => ?_))
      | with_reducible apply State.issue_tidy
      | with_reducible apply State.tileStore_tidy
      | (intro s_ c_ w_ h_)

theorem State.transposedLoad_tidy (s : State) (d u : Nat) (c : Cmd) (w : Nat) (h_s : s.Tidy) : (State.transposedLoad
    s d u c w).Tidy := by
  unfold State.transposedLoad
  repeat' first
    | with_reducible assumption
    | (with_reducible refine Keeps.intro (fun s_ y_ h_ => ?_))
    | (with_reducible refine Keeps1.intro (fun s_ h_ => ?_))
    | (subst x_)
    | with_reducible apply State.loadRows_tidy
    | (intro s_ c_ w_ h_)
    | with_reducible exact Issue.fault_tidy _
    | with_reducible exact Issue.stop_tidy _
    | with_reducible apply Issue.ite_tidy
    | with_reducible apply Issue.ok_tidy
    | with_reducible apply State.Tidy.ite
    | split

theorem execTransposedLoad_tidy (d : Fin 4) (vu : Fin 64) (s : State) (h_s : s.Tidy) : ∀ t_, execTransposedLoad d vu
    s = .next t_ → t_.Tidy := by
  intro t_ h_
  unfold execTransposedLoad at h_
  repeat' first
    | (injection h_ with h_; subst h_)
    | split at h_
    | cases h_
  all_goals
    repeat' first
      | with_reducible assumption
      | (with_reducible refine Keeps.intro (fun s_ y_ h_ => ?_))
      | (with_reducible refine Keeps1.intro (fun s_ h_ => ?_))
      | with_reducible apply State.issue_tidy
      | with_reducible apply State.transposedLoad_tidy
      | (intro s_ c_ w_ h_)

theorem State.transposedStore_tidy (s : State) (d u : Nat) (c : Cmd) (w : Nat) (h_s : s.Tidy) :
    (State.transposedStore s d u c w).Tidy := by
  unfold State.transposedStore
  repeat' first
    | with_reducible assumption
    | (with_reducible refine Keeps.intro (fun s_ y_ h_ => ?_))
    | (with_reducible refine Keeps1.intro (fun s_ h_ => ?_))
    | (subst x_)
    | with_reducible apply State.storeRows_tidy
    | (intro s_ c_ w_ h_)
    | with_reducible exact Issue.fault_tidy _
    | with_reducible exact Issue.stop_tidy _
    | with_reducible apply Issue.ite_tidy
    | with_reducible apply Issue.ok_tidy
    | split

theorem execTransposedStore_tidy (d : Fin 4) (vu : Fin 64) (s : State) (h_s : s.Tidy) : ∀ t_, execTransposedStore d
    vu s = .next t_ → t_.Tidy := by
  intro t_ h_
  unfold execTransposedStore at h_
  repeat' first
    | (injection h_ with h_; subst h_)
    | split at h_
    | cases h_
  all_goals
    repeat' first
      | with_reducible assumption
      | (with_reducible refine Keeps.intro (fun s_ y_ h_ => ?_))
      | (with_reducible refine Keeps1.intro (fun s_ h_ => ?_))
      | with_reducible apply State.issue_tidy
      | with_reducible apply State.transposedStore_tidy
      | (intro s_ c_ w_ h_)

theorem State.packedNarrowStore_tidy (s : State) (d u : Nat) (c : Cmd) (w : Nat) (h_s : s.Tidy) :
    (State.packedNarrowStore s d u c w).Tidy := by
  unfold State.packedNarrowStore
  repeat' first
    | with_reducible assumption
    | (with_reducible refine Keeps.intro (fun s_ y_ h_ => ?_))
    | (with_reducible refine Keeps1.intro (fun s_ h_ => ?_))
    | (subst x_)
    | with_reducible apply State.storeRows_tidy
    | (intro s_ c_ w_ h_)
    | with_reducible exact Issue.fault_tidy _
    | with_reducible exact Issue.stop_tidy _
    | with_reducible apply Issue.ite_tidy
    | with_reducible apply Issue.ok_tidy
    | split

theorem execPackedNarrowStore_tidy (d : Fin 4) (vu : Fin 64) (s : State) (h_s : s.Tidy) : ∀ t_, execPackedNarrowStore
    d vu s = .next t_ → t_.Tidy := by
  intro t_ h_
  unfold execPackedNarrowStore at h_
  repeat' first
    | (injection h_ with h_; subst h_)
    | split at h_
    | cases h_
  all_goals
    repeat' first
      | with_reducible assumption
      | (with_reducible refine Keeps.intro (fun s_ y_ h_ => ?_))
      | (with_reducible refine Keeps1.intro (fun s_ h_ => ?_))
      | with_reducible apply State.issue_tidy
      | with_reducible apply State.packedNarrowStore_tidy
      | (intro s_ c_ w_ h_)

theorem State.tileElementwise_tidy (s : State) (d u : Nat) (op : TileOp) (w : Nat) (h_s : s.Tidy) :
    (State.tileElementwise s d u op w).Tidy := by
  unfold State.tileElementwise
  repeat' first
    | with_reducible assumption
    | (with_reducible refine Keeps.intro (fun s_ y_ h_ => ?_))
    | (with_reducible refine Keeps1.intro (fun s_ h_ => ?_))
    | (focus ((try lift_lets); intro x_; refine (fun (h_ : State.Tidy x_) => ?_) ?_; clear_value x_))
    | (subst x_)
    | ((try lift_lets); intro x_)
    | with_reducible apply State.count_tidy
    | with_reducible apply State.regs'_tidy
    | (intro s_ c_ w_ h_)
    | with_reducible exact Issue.fault_tidy _
    | with_reducible exact Issue.stop_tidy _
    | with_reducible apply Issue.ite_tidy
    | with_reducible apply Issue.ok_tidy
    | with_reducible apply State.Tidy.ite
    | (with_reducible refine State.mk_tidy rfl ?_; first | with_reducible assumption)
    | split

theorem execTileElementwise_tidy (d : Fin 4) (vu : Fin 64) (op : TileOp) (s : State) (h_s : s.Tidy) : ∀ t_,
    execTileElementwise d vu op s = .next t_ → t_.Tidy := by
  intro t_ h_
  unfold execTileElementwise at h_
  repeat' first
    | (injection h_ with h_; subst h_)
    | split at h_
    | cases h_
  all_goals
    repeat' first
      | with_reducible assumption
      | (with_reducible refine Keeps.intro (fun s_ y_ h_ => ?_))
      | (with_reducible refine Keeps1.intro (fun s_ h_ => ?_))
      | with_reducible apply State.issue_tidy
      | with_reducible apply State.tileElementwise_tidy
      | (intro s_ c_ w_ h_)

theorem State.tileFunction_tidy (s : State) (d u : Nat) (fn : Fn) (w : Nat) (h_s : s.Tidy) : (State.tileFunction s d
    u fn w).Tidy := by
  unfold State.tileFunction
  repeat' first
    | with_reducible assumption
    | (with_reducible refine Keeps.intro (fun s_ y_ h_ => ?_))
    | (with_reducible refine Keeps1.intro (fun s_ h_ => ?_))
    | (focus ((try lift_lets); intro x_; refine (fun (h_ : State.Tidy x_) => ?_) ?_; clear_value x_))
    | (subst x_)
    | with_reducible apply State.count_tidy
    | with_reducible apply State.regs'_tidy
    | (intro s_ c_ w_ h_)
    | with_reducible exact Issue.fault_tidy _
    | with_reducible exact Issue.stop_tidy _
    | with_reducible apply Issue.ite_tidy

theorem execTileFunction_tidy (d : Fin 4) (vu : Fin 64) (fn : Fn) (s : State) (h_s : s.Tidy) : ∀ t_, execTileFunction
    d vu fn s = .next t_ → t_.Tidy := by
  intro t_ h_
  unfold execTileFunction at h_
  repeat' first
    | (injection h_ with h_; subst h_)
    | split at h_
    | cases h_
  all_goals
    repeat' first
      | with_reducible assumption
      | (with_reducible refine Keeps.intro (fun s_ y_ h_ => ?_))
      | (with_reducible refine Keeps1.intro (fun s_ h_ => ?_))
      | with_reducible apply State.issue_tidy
      | with_reducible apply State.tileFunction_tidy
      | (intro s_ c_ w_ h_)

theorem State.tileReduce_tidy (s : State) (d u w : Nat) (byRow : Bool) (f : Nat → Nat → Nat) (pad : Nat) (h_s :
    s.Tidy) : (State.tileReduce s d u w byRow f pad).Tidy := by
  unfold State.tileReduce
  repeat' first
    | with_reducible assumption
    | (with_reducible refine Keeps.intro (fun s_ y_ h_ => ?_))
    | (with_reducible refine Keeps1.intro (fun s_ h_ => ?_))
    | (subst x_)
    | with_reducible apply State.regs'_tidy
    | (intro s_ c_ w_ h_)
    | with_reducible exact Issue.fault_tidy _
    | with_reducible exact Issue.stop_tidy _
    | with_reducible apply Issue.ite_tidy

theorem execRowSum_tidy (d : Fin 4) (vu : Fin 64) (s : State) (h_s : s.Tidy) : ∀ t_, execRowSum d vu s = .next t_ →
    t_.Tidy := by
  intro t_ h_
  unfold execRowSum at h_
  repeat' first
    | (injection h_ with h_; subst h_)
    | split at h_
    | cases h_
  all_goals
    repeat' first
      | with_reducible assumption
      | (with_reducible refine Keeps.intro (fun s_ y_ h_ => ?_))
      | (with_reducible refine Keeps1.intro (fun s_ h_ => ?_))
      | with_reducible apply State.issue_tidy
      | with_reducible apply State.tileReduce_tidy
      | (intro s_ c_ w_ h_)

theorem execColumnSum_tidy (d : Fin 4) (vu : Fin 64) (s : State) (h_s : s.Tidy) : ∀ t_, execColumnSum d vu s = .next
    t_ → t_.Tidy := by
  intro t_ h_
  unfold execColumnSum at h_
  repeat' first
    | (injection h_ with h_; subst h_)
    | split at h_
    | cases h_
  all_goals
    repeat' first
      | with_reducible assumption
      | (with_reducible refine Keeps.intro (fun s_ y_ h_ => ?_))
      | (with_reducible refine Keeps1.intro (fun s_ h_ => ?_))
      | with_reducible apply State.issue_tidy
      | with_reducible apply State.tileReduce_tidy
      | (intro s_ c_ w_ h_)

theorem execRowMax_tidy (d : Fin 4) (vu : Fin 64) (s : State) (h_s : s.Tidy) : ∀ t_, execRowMax d vu s = .next t_ →
    t_.Tidy := by
  intro t_ h_
  unfold execRowMax at h_
  repeat' first
    | (injection h_ with h_; subst h_)
    | split at h_
    | cases h_
  all_goals
    repeat' first
      | with_reducible assumption
      | (with_reducible refine Keeps.intro (fun s_ y_ h_ => ?_))
      | (with_reducible refine Keeps1.intro (fun s_ h_ => ?_))
      | with_reducible apply State.issue_tidy
      | with_reducible apply State.tileReduce_tidy
      | (intro s_ c_ w_ h_)

theorem execColumnMax_tidy (d : Fin 4) (vu : Fin 64) (s : State) (h_s : s.Tidy) : ∀ t_, execColumnMax d vu s = .next
    t_ → t_.Tidy := by
  intro t_ h_
  unfold execColumnMax at h_
  repeat' first
    | (injection h_ with h_; subst h_)
    | split at h_
    | cases h_
  all_goals
    repeat' first
      | with_reducible assumption
      | (with_reducible refine Keeps.intro (fun s_ y_ h_ => ?_))
      | (with_reducible refine Keeps1.intro (fun s_ h_ => ?_))
      | with_reducible apply State.issue_tidy
      | with_reducible apply State.tileReduce_tidy
      | (intro s_ c_ w_ h_)

theorem State.tileConversion_tidy (s : State) (d u : Nat) (src : Fmt) (axis : Axis) (w : Nat) (h_s : s.Tidy) :
    (State.tileConversion s d u src axis w).Tidy := by
  unfold State.tileConversion
  repeat' first
    | with_reducible assumption
    | (with_reducible refine Keeps.intro (fun s_ y_ h_ => ?_))
    | (with_reducible refine Keeps1.intro (fun s_ h_ => ?_))
    | (subst x_)
    | (focus ((try lift_lets); intro x_; refine (fun (h_ : State.Tidy x_.2) => ?_) ?_; clear_value x_))
    | with_reducible apply State.draw_tidy
    | with_reducible apply State.regs'_tidy
    | (intro s_ c_ w_ h_)
    | with_reducible exact Issue.fault_tidy _
    | with_reducible exact Issue.stop_tidy _
    | with_reducible apply Issue.ite_tidy
    | with_reducible apply Issue.ok_tidy
    | with_reducible apply State.Tidy.ite
    | split

theorem execTileConversion_tidy (d : Fin 4) (vu : Fin 64) (src : Blocked) (s : State) (h_s : s.Tidy) : ∀ t_,
    execTileConversion d vu src s = .next t_ → t_.Tidy := by
  intro t_ h_
  unfold execTileConversion at h_
  repeat' first
    | (injection h_ with h_; subst h_)
    | split at h_
    | cases h_
  all_goals
    repeat' first
      | with_reducible assumption
      | (with_reducible refine Keeps.intro (fun s_ y_ h_ => ?_))
      | (with_reducible refine Keeps1.intro (fun s_ h_ => ?_))
      | with_reducible apply State.issue_tidy
      | with_reducible apply State.tileConversion_tidy
      | (intro s_ c_ w_ h_)

theorem State.quantise_tidy (s : State) (d u : Nat) (cmd : Cmd) (src : Fmt) (axis : Axis) (w : Nat) (h_s : s.Tidy) :
    (State.quantise s d u cmd src axis w).Tidy := by
  unfold State.quantise
  repeat' first
    | with_reducible assumption
    | (with_reducible refine Keeps.intro (fun s_ y_ h_ => ?_))
    | (with_reducible refine Keeps1.intro (fun s_ h_ => ?_))
    | (focus ((try lift_lets); intro x_; refine (fun (h_ : State.Tidy x_) => ?_) ?_; clear_value x_))
    | (subst x_)
    | (focus ((try lift_lets); intro x_; refine (fun (h_ : State.Tidy x_.2) => ?_) ?_; clear_value x_))
    | (focus ((try lift_lets); intro x_; (fail_if_success (have q_ : x_ = fun a_ => x_ a_ := rfl)); clear_value x_))
    | ((try lift_lets); intro x_)
    | with_reducible apply State.attemptOverflow_tidy
    | with_reducible apply State.count_tidy
    | with_reducible apply State.draw_tidy
    | with_reducible apply State.mapCmd_tidy
    | with_reducible apply State.nonfinite_tidy
    | with_reducible apply State.setUnit_tidy
    | (intro s_ c_ w_ h_)
    | with_reducible exact Issue.fault_tidy _
    | with_reducible exact Issue.stop_tidy _
    | with_reducible apply Issue.ite_tidy
    | with_reducible apply Issue.ok_tidy
    | with_reducible apply State.Tidy.ite
    | (with_reducible refine forUpto_tidy (fun i_ s_ h_ => ?_) _ ?_)
    | split

theorem execQuantise_tidy (d : Fin 4) (vu : Fin 64) (src : Fmt) (axis : Axis) (s : State) (h_s : s.Tidy) : ∀ t_,
    execQuantise d vu src axis s = .next t_ → t_.Tidy := by
  intro t_ h_
  unfold execQuantise at h_
  repeat' first
    | (injection h_ with h_; subst h_)
    | split at h_
    | cases h_
  all_goals
    repeat' first
      | with_reducible assumption
      | (with_reducible refine Keeps.intro (fun s_ y_ h_ => ?_))
      | (with_reducible refine Keeps1.intro (fun s_ h_ => ?_))
      | with_reducible apply State.issue_tidy
      | with_reducible apply State.quantise_tidy
      | (intro s_ c_ w_ h_)

theorem State.split_tidy (s : State) (d u w : Nat) (h_s : s.Tidy) : (State.split s d u w).Tidy := by
  unfold State.split
  repeat' first
    | with_reducible assumption
    | (with_reducible refine Keeps.intro (fun s_ y_ h_ => ?_))
    | (with_reducible refine Keeps1.intro (fun s_ h_ => ?_))
    | (subst x_)
    | with_reducible apply State.regs'_tidy
    | (intro s_ c_ w_ h_)
    | with_reducible exact Issue.fault_tidy _
    | with_reducible exact Issue.stop_tidy _
    | with_reducible apply Issue.ite_tidy

theorem execSplit_tidy (d : Fin 4) (vu : Fin 64) (s : State) (h_s : s.Tidy) : ∀ t_, execSplit d vu s = .next t_ →
    t_.Tidy := by
  intro t_ h_
  unfold execSplit at h_
  repeat' first
    | (injection h_ with h_; subst h_)
    | split at h_
    | cases h_
  all_goals
    repeat' first
      | with_reducible assumption
      | (with_reducible refine Keeps.intro (fun s_ y_ h_ => ?_))
      | (with_reducible refine Keeps1.intro (fun s_ h_ => ?_))
      | with_reducible apply State.issue_tidy
      | with_reducible apply State.split_tidy
      | (intro s_ c_ w_ h_)

theorem State.transpose_tidy (s : State) (d u w : Nat) (h_s : s.Tidy) : (State.transpose s d u w).Tidy := by
  unfold State.transpose
  repeat' first
    | with_reducible assumption
    | (with_reducible refine Keeps.intro (fun s_ y_ h_ => ?_))
    | (with_reducible refine Keeps1.intro (fun s_ h_ => ?_))
    | (subst x_)
    | (focus ((try lift_lets); intro x_; refine (fun (h_ : State.Tidy x_.2) => ?_) ?_; clear_value x_))
    | with_reducible apply State.draw_tidy
    | with_reducible apply State.regs'_tidy
    | (intro s_ c_ w_ h_)
    | with_reducible exact Issue.fault_tidy _
    | with_reducible exact Issue.stop_tidy _
    | with_reducible apply Issue.ite_tidy
    | with_reducible apply Issue.ok_tidy
    | with_reducible apply State.Tidy.ite
    | split

theorem execTranspose_tidy (d : Fin 4) (vu : Fin 64) (s : State) (h_s : s.Tidy) : ∀ t_, execTranspose d vu s = .next
    t_ → t_.Tidy := by
  intro t_ h_
  unfold execTranspose at h_
  repeat' first
    | (injection h_ with h_; subst h_)
    | split at h_
    | cases h_
  all_goals
    repeat' first
      | with_reducible assumption
      | (with_reducible refine Keeps.intro (fun s_ y_ h_ => ?_))
      | (with_reducible refine Keeps1.intro (fun s_ h_ => ?_))
      | with_reducible apply State.issue_tidy
      | with_reducible apply State.transpose_tidy
      | (intro s_ c_ w_ h_)

theorem State.laneRotate_tidy (s : State) (d u w : Nat) (h_s : s.Tidy) : (State.laneRotate s d u w).Tidy := by
  unfold State.laneRotate
  repeat' first
    | with_reducible assumption
    | (with_reducible refine Keeps.intro (fun s_ y_ h_ => ?_))
    | (with_reducible refine Keeps1.intro (fun s_ h_ => ?_))
    | (subst x_)
    | with_reducible apply State.regs'_tidy
    | (intro s_ c_ w_ h_)
    | with_reducible exact Issue.fault_tidy _
    | with_reducible exact Issue.stop_tidy _
    | with_reducible apply Issue.ite_tidy
    | with_reducible apply Issue.ok_tidy
    | split

theorem execLaneRotate_tidy (d : Fin 4) (vu : Fin 64) (s : State) (h_s : s.Tidy) : ∀ t_, execLaneRotate d vu s =
    .next t_ → t_.Tidy := by
  intro t_ h_
  unfold execLaneRotate at h_
  repeat' first
    | (injection h_ with h_; subst h_)
    | split at h_
    | cases h_
  all_goals
    repeat' first
      | with_reducible assumption
      | (with_reducible refine Keeps.intro (fun s_ y_ h_ => ?_))
      | (with_reducible refine Keeps1.intro (fun s_ h_ => ?_))
      | with_reducible apply State.issue_tidy
      | with_reducible apply State.laneRotate_tidy
      | (intro s_ c_ w_ h_)

theorem State.rowRotate_tidy (s : State) (d u w : Nat) (h_s : s.Tidy) : (State.rowRotate s d u w).Tidy := by
  unfold State.rowRotate
  repeat' first
    | with_reducible assumption
    | (with_reducible refine Keeps.intro (fun s_ y_ h_ => ?_))
    | (with_reducible refine Keeps1.intro (fun s_ h_ => ?_))
    | (subst x_)
    | with_reducible apply State.regs'_tidy
    | (intro s_ c_ w_ h_)
    | with_reducible exact Issue.fault_tidy _
    | with_reducible exact Issue.stop_tidy _
    | with_reducible apply Issue.ite_tidy
    | with_reducible apply Issue.ok_tidy
    | split

theorem execRowRotate_tidy (d : Fin 4) (vu : Fin 64) (s : State) (h_s : s.Tidy) : ∀ t_, execRowRotate d vu s = .next
    t_ → t_.Tidy := by
  intro t_ h_
  unfold execRowRotate at h_
  repeat' first
    | (injection h_ with h_; subst h_)
    | split at h_
    | cases h_
  all_goals
    repeat' first
      | with_reducible assumption
      | (with_reducible refine Keeps.intro (fun s_ y_ h_ => ?_))
      | (with_reducible refine Keeps1.intro (fun s_ h_ => ?_))
      | with_reducible apply State.issue_tidy
      | with_reducible apply State.rowRotate_tidy
      | (intro s_ c_ w_ h_)

end Sys2Proof.Machine
end

