-- ==== Sys2Proof/Laws/TidyMove.lean ====
section
/-! SUPPORT. Every function of Machine/Move.lean that answers a state keeps the canonical form (`State.Tidy`): one lemma
per function, named after it. -/

namespace Sys2Proof.Machine

theorem State.copyGranules_tidy (s : State) (owner : Option Nat) (src dst n : Nat) (h_s : s.Tidy) :
    (State.copyGranules s owner src dst n).Tidy := by
  unfold State.copyGranules
  repeat' first
    | with_reducible assumption
    | (with_reducible refine Keeps.intro (fun s_ y_ h_ => ?_))
    | with_reducible apply State.writeGranule_tidy
    | with_reducible apply State.Tidy.each

theorem State.moveSeg_tidy (s : State) (c : Cmd) (g : MoveSeg) (h_s : s.Tidy) : (State.moveSeg s c g).Tidy := by
  unfold State.moveSeg
  repeat' first
    | with_reducible assumption
    | (with_reducible refine Keeps.intro (fun s_ y_ h_ => ?_))
    | (focus ((try lift_lets); intro x_; refine (fun (h_ : State.Tidy x_) => ?_) ?_; clear_value x_))
    | (subst x_)
    | with_reducible apply State.copyGranules_tidy
    | with_reducible apply State.countRead_tidy
    | with_reducible apply State.count_tidy
    | with_reducible apply State.writeGranule_tidy
    | with_reducible apply State.Tidy.each
    | (with_reducible refine State.mk_tidy rfl ?_; first | with_reducible assumption)
    | split

theorem State.moveRun_tidy (s : State) (c : Cmd) (h_s : s.Tidy) : (State.moveRun s c).Tidy := by
  unfold State.moveRun
  repeat' first
    | with_reducible assumption
    | (with_reducible refine Keeps.intro (fun s_ y_ h_ => ?_))
    | (focus ((try lift_lets); intro x_; refine (fun (h_ : State.Tidy x_) => ?_) ?_; clear_value x_))
    | (subst x_)
    | (focus ((try lift_lets); intro x_; (fail_if_success (have q_ : x_ = fun a_ => x_ a_ := rfl)); clear_value x_))
    | ((try lift_lets); intro x_)
    | with_reducible apply State.fail_tidy
    | with_reducible apply State.mapCmd_tidy
    | with_reducible apply State.moveSeg_tidy
    | with_reducible apply State.stampFloor_tidy
    | with_reducible apply State.Tidy.ite
    | with_reducible apply State.Tidy.each
    | (with_reducible refine State.mk_tidy rfl ?_; first | with_reducible assumption)
    | split

theorem execMoveCopy_tidy (d : Fin 4) (q : Fin 64) (ext : HostSlot) (s : State) (h_s : s.Tidy) : ∀ t_, execMoveCopy d
    q ext s = .next t_ → t_.Tidy := by
  intro t_ h_
  unfold execMoveCopy at h_
  repeat' first
    | (injection h_ with h_; subst h_)
    | split at h_
    | cases h_
  all_goals
    repeat' first
      | with_reducible assumption
      | (with_reducible refine Keeps.intro (fun s_ y_ h_ => ?_))
      | with_reducible apply State.moveRun_tidy
      | with_reducible apply State.v2_tidy

theorem execMove2d_tidy (d : Fin 4) (q : Fin 64) (ext : HostSlot) (s : State) (h_s : s.Tidy) : ∀ t_, execMove2d d q
    ext s = .next t_ → t_.Tidy := by
  intro t_ h_
  unfold execMove2d at h_
  repeat' first
    | (injection h_ with h_; subst h_)
    | split at h_
    | cases h_
  all_goals
    repeat' first
      | with_reducible assumption
      | (with_reducible refine Keeps.intro (fun s_ y_ h_ => ?_))
      | with_reducible apply State.moveRun_tidy
      | with_reducible apply State.v2_tidy

theorem execMoveFill_tidy (d : Fin 4) (q : Fin 64) (ext : HostSlot) (s : State) (h_s : s.Tidy) : ∀ t_, execMoveFill d
    q ext s = .next t_ → t_.Tidy := by
  intro t_ h_
  unfold execMoveFill at h_
  repeat' first
    | (injection h_ with h_; subst h_)
    | split at h_
    | cases h_
  all_goals
    repeat' first
      | with_reducible assumption
      | (with_reducible refine Keeps.intro (fun s_ y_ h_ => ?_))
      | with_reducible apply State.moveRun_tidy
      | with_reducible apply State.v2_tidy

theorem execV1Copy_tidy (d : Fin 4) (q : Fin 64) (ext : HostSlot) (s : State) (h_s : s.Tidy) : ∀ t_, execV1Copy d q
    ext s = .next t_ → t_.Tidy := by
  intro t_ h_
  unfold execV1Copy at h_
  repeat' first
    | (injection h_ with h_; subst h_)
    | split at h_
    | cases h_
  all_goals
    repeat' first
      | with_reducible assumption
      | (with_reducible refine Keeps.intro (fun s_ y_ h_ => ?_))
      | with_reducible apply State.moveRun_tidy
      | with_reducible apply State.v1_tidy

theorem State.moveEnd_tidy (s : State) (d : Nat) (h_s : s.Tidy) : (State.moveEnd s d).Tidy := by
  unfold State.moveEnd
  repeat' first
    | with_reducible assumption
    | (focus ((try lift_lets); intro x_; refine (fun (h_ : State.Tidy x_) => ?_) ?_; clear_value x_))
    | (subst x_)
    | with_reducible apply State.done_tidy
    | with_reducible apply State.fail_tidy
    | with_reducible apply State.stampFloor_tidy
    | with_reducible apply State.Tidy.ite
    | (with_reducible refine State.mk_tidy rfl ?_; first | with_reducible assumption)
    | split

theorem execMoveComplete_tidy (d : Fin 4) (s : State) (h_s : s.Tidy) : ∀ t_, execMoveComplete d s = .next t_ →
    t_.Tidy := by
  intro t_ h_
  unfold execMoveComplete at h_
  repeat' first
    | (injection h_ with h_; subst h_)
    | split at h_
    | cases h_
  all_goals
    repeat' first
      | with_reducible assumption
      | with_reducible apply State.moveEnd_tidy

end Sys2Proof.Machine
end

