-- ==== Sys2Proof/Laws/TidyBracket.lean ====
section
/-! SUPPORT. Every function of Machine/Bracket.lean that answers a state keeps the canonical form (`State.Tidy`): one lemma
per function, named after it. -/

namespace Sys2Proof.Machine

theorem State.showBracket_tidy (s : State) (d ctx : Nat) (h_s : s.Tidy) : (State.showBracket s d ctx).Tidy := by
  unfold State.showBracket
  repeat' first
    | with_reducible assumption
    | (focus ((try lift_lets); intro x_; refine (fun (h_ : State.Tidy x_) => ?_) ?_; clear_value x_))
    | (subst x_)
    | with_reducible apply State.flag_tidy
    | with_reducible apply State.put_tidy

theorem State.resetLocal_tidy (s : State) (d : Nat) (w : List Nat) (h_s : s.Tidy) : (State.resetLocal s d w).Tidy := by
  unfold State.resetLocal
  repeat' first
    | with_reducible assumption
    | (with_reducible refine Keeps.intro (fun s_ y_ h_ => ?_))
    | with_reducible apply State.signal_tidy
    | with_reducible apply State.Tidy.each

theorem State.layerOpen_tidy (s : State) (c : Cmd) (h_s : s.Tidy) : (State.layerOpen s c).Tidy := by
  unfold State.layerOpen
  repeat' first
    | with_reducible assumption
    | (focus ((try lift_lets); intro x_; refine (fun (h_ : State.Tidy x_) => ?_) ?_; clear_value x_))
    | (subst x_)
    | with_reducible apply State.done_tidy
    | with_reducible apply State.fail_tidy
    | with_reducible apply State.put_tidy
    | with_reducible apply State.resetLocal_tidy
    | with_reducible apply State.setJob_tidy
    | with_reducible apply State.showBracket_tidy
    | with_reducible apply State.Tidy.ite
    | (with_reducible refine State.mk_tidy rfl ?_; first | with_reducible assumption)
    | split

theorem execLayerOpen_tidy (d : Fin 4) (q : Fin 64) (ext : HostSlot) (s : State) (h_s : s.Tidy) : ∀ t_, execLayerOpen
    d q ext s = .next t_ → t_.Tidy := by
  intro t_ h_
  unfold execLayerOpen at h_
  repeat' first
    | (injection h_ with h_; subst h_)
    | split at h_
    | cases h_
  all_goals
    repeat' first
      | with_reducible assumption
      | (with_reducible refine Keeps.intro (fun s_ y_ h_ => ?_))
      | with_reducible apply State.layerOpen_tidy
      | with_reducible apply State.v2_tidy

theorem execLayerClose_tidy (d : Fin 4) (q : Fin 64) (ext : HostSlot) (s : State) (h_s : s.Tidy) : ∀ t_,
    execLayerClose d q ext s = .next t_ → t_.Tidy := by
  intro t_ h_
  unfold execLayerClose at h_
  repeat' first
    | (injection h_ with h_; subst h_)
    | split at h_
    | cases h_
  all_goals
    repeat' first
      | with_reducible assumption
      | (with_reducible refine Keeps.intro (fun s_ y_ h_ => ?_))
      | (subst x_)
      | with_reducible apply State.mapCmd_tidy
      | with_reducible apply State.v2_tidy

theorem State.caddGranule_tidy (s : State) (d ctx owner : Nat) (store : Bool) (src dst : Nat) (h_s : s.Tidy) :
    (State.caddGranule s d ctx owner store src dst).Tidy := by
  unfold State.caddGranule
  repeat' first
    | with_reducible assumption
    | (focus ((try lift_lets); intro x_; refine (fun (h_ : State.Tidy x_) => ?_) ?_; clear_value x_))
    | (subst x_)
    | with_reducible apply State.nonfinite_tidy
    | with_reducible apply State.writeGranule_tidy
    | with_reducible apply State.Tidy.ite

theorem State.caddEntry_tidy (s : State) (d ctx owner : Nat) (e : List Nat) (h_s : s.Tidy) : (State.caddEntry s d ctx
    owner e).Tidy := by
  unfold State.caddEntry
  repeat' first
    | with_reducible assumption
    | (with_reducible refine Keeps.intro (fun s_ y_ h_ => ?_))
    | (focus ((try lift_lets); intro x_; refine (fun (h_ : State.Tidy x_) => ?_) ?_; clear_value x_))
    | (subst x_)
    | with_reducible apply State.caddGranule_tidy
    | with_reducible apply State.countRead_tidy
    | with_reducible apply State.count_tidy
    | with_reducible apply State.mapCmd_tidy
    | with_reducible apply State.undefine_tidy
    | with_reducible apply State.Tidy.ite
    | with_reducible apply State.Tidy.each
    | (with_reducible refine State.mk_tidy rfl ?_; first | with_reducible assumption)
    | split

theorem State.caddRun_tidy (s : State) (d ctx owner : Nat) (w : List Nat) (h_s : s.Tidy) : (State.caddRun s d ctx
    owner w).Tidy := by
  unfold State.caddRun
  repeat' first
    | with_reducible assumption
    | (with_reducible refine Keeps.intro (fun s_ y_ h_ => ?_))
    | (subst x_)
    | with_reducible apply State.caddEntry_tidy
    | with_reducible apply State.countRead_tidy
    | with_reducible apply State.Tidy.each
    | (with_reducible refine State.mk_tidy rfl ?_; first | with_reducible assumption)
    | split

theorem State.moveSlots_tidy (s : State) (g : Group) (f : Fld) (h_s : s.Tidy) : (State.moveSlots s g f).Tidy := by
  unfold State.moveSlots
  repeat' first
    | with_reducible assumption
    | (with_reducible refine Keeps.intro (fun s_ y_ h_ => ?_))
    | (subst x_)
    | with_reducible apply State.count_tidy
    | with_reducible apply State.put_tidy
    | with_reducible apply State.Tidy.each

theorem State.closeMember_tidy (s : State) (g : Group) (d : Nat) (b : Bracket) (h_s : s.Tidy) : (State.closeMember s
    g d b).Tidy := by
  unfold State.closeMember
  repeat' first
    | with_reducible assumption
    | (focus ((try lift_lets); intro x_; refine (fun (h_ : State.Tidy x_) => ?_) ?_; clear_value x_))
    | (subst x_)
    | with_reducible apply State.qput_tidy
    | with_reducible apply State.setJob_tidy
    | with_reducible apply State.showBracket_tidy

theorem State.endGroup_tidy (s : State) (g : Group) (h_s : s.Tidy) : (State.endGroup s g).Tidy := by
  unfold State.endGroup
  repeat' first
    | with_reducible assumption
    | (subst x_)
    | (with_reducible refine State.mk_tidy rfl ?_; first | with_reducible assumption)

theorem State.mergeAmax_tidy (s : State) (g : Group) (d : Nat) (b : Bracket) (keep : Bool) (h_s : s.Tidy) :
    (State.mergeAmax s g d b keep).Tidy := by
  unfold State.mergeAmax
  repeat' first
    | with_reducible assumption
    | (with_reducible refine Keeps.intro (fun s_ y_ h_ => ?_))
    | (focus ((try lift_lets); intro x_; refine (fun (h_ : State.Tidy x_) => ?_) ?_; clear_value x_))
    | (subst x_)
    | with_reducible apply State.putEntry_tidy
    | with_reducible apply State.Tidy.ite
    | with_reducible apply State.Tidy.each
    | (with_reducible refine State.mk_tidy rfl ?_; first | with_reducible assumption)
    | split

theorem State.commitFinish_tidy (s : State) (g : Group) (h_s : s.Tidy) : (State.commitFinish s g).Tidy := by
  unfold State.commitFinish
  repeat' first
    | with_reducible assumption
    | (with_reducible refine Keeps.intro (fun s_ y_ h_ => ?_))
    | (focus ((try lift_lets); intro x_; refine (fun (h_ : State.Tidy x_) => ?_) ?_; clear_value x_))
    | (subst x_)
    | (focus ((try lift_lets); intro x_; refine (fun (h_ : State.Tidy x_.2) => ?_) ?_; clear_value x_))
    | (focus ((try lift_lets); intro x_; refine (fun (h_ : State.Tidy x_.1) => ?_) ?_; clear_value x_))
    | (focus ((try lift_lets); intro x_; (fail_if_success (have q_ : x_ = fun a_ => x_ a_ := rfl)); clear_value x_))
    | ((try lift_lets); intro x_)
    | with_reducible apply State.closeMember_tidy
    | with_reducible apply State.count_tidy
    | with_reducible apply State.done_tidy
    | with_reducible apply State.endGroup_tidy
    | with_reducible apply State.fail_tidy
    | with_reducible apply State.mergeAmax_tidy
    | with_reducible apply State.moveSlots_tidy
    | with_reducible apply State.signalLive_tidy
    | with_reducible apply State.signal_tidy
    | with_reducible apply State.Tidy.each
    | (with_reducible refine State.mk_tidy rfl ?_; first | with_reducible assumption)
    | split

theorem State.commitMaybe_tidy (s : State) (g : Group) (h_s : s.Tidy) : (State.commitMaybe s g).Tidy := by
  unfold State.commitMaybe
  repeat' first
    | with_reducible assumption
    | with_reducible apply State.commitFinish_tidy
    | with_reducible apply State.Tidy.ite

theorem State.commitStart_tidy (s : State) (g : Group) (h_s : s.Tidy) : (State.commitStart s g).Tidy := by
  unfold State.commitStart
  repeat' first
    | with_reducible assumption
    | (with_reducible refine Keeps.intro (fun s_ y_ h_ => ?_))
    | (focus ((try lift_lets); intro x_; refine (fun (h_ : State.Tidy x_) => ?_) ?_; clear_value x_))
    | (subst x_)
    | with_reducible apply State.caddRun_tidy
    | with_reducible apply State.commitMaybe_tidy
    | with_reducible apply State.mapBracket_tidy
    | with_reducible apply State.Tidy.each
    | (with_reducible refine State.mk_tidy rfl ?_; first | with_reducible assumption)
    | split

theorem State.replayRecord_tidy (s : State) (g : Group) (m : List (Nat × Bracket)) (d : Nat) (b : Bracket) (t n
    tensors : Nat) (h_s : s.Tidy) : (State.replayRecord s g m d b t n tensors).Tidy := by
  unfold State.replayRecord
  repeat' first
    | with_reducible assumption
    | (with_reducible refine Keeps.intro (fun s_ y_ h_ => ?_))
    | (focus ((try lift_lets); intro x_; refine (fun (h_ : State.Tidy x_) => ?_) ?_; clear_value x_))
    | (subst x_)
    | (focus ((try lift_lets); intro x_; refine (fun (h_ : State.Tidy x_.2) => ?_) ?_; clear_value x_))
    | (focus ((try lift_lets); intro x_; (fail_if_success (have q_ : x_ = fun a_ => x_ a_ := rfl)); clear_value x_))
    | ((try lift_lets); intro x_)
    | with_reducible apply State.count_tidy
    | with_reducible apply State.numRecord_tidy
    | with_reducible apply State.stamp_tidy

theorem State.replayBracket_tidy (s : State) (g : Group) (h_s : s.Tidy) : (State.replayBracket s g).Tidy := by
  unfold State.replayBracket
  repeat' first
    | with_reducible assumption
    | (with_reducible refine Keeps.intro (fun s_ y_ h_ => ?_))
    | (focus ((try lift_lets); intro x_; refine (fun (h_ : State.Tidy x_) => ?_) ?_; clear_value x_))
    | (subst x_)
    | (focus ((try lift_lets); intro x_; (fail_if_success (have q_ : x_ = fun a_ => x_ a_ := rfl)); clear_value x_))
    | with_reducible apply State.dropCmd_tidy
    | with_reducible apply State.mapBracket_tidy
    | with_reducible apply State.moveSlots_tidy
    | with_reducible apply State.overflow_tidy
    | with_reducible apply State.qput_tidy
    | with_reducible apply State.replayRecord_tidy
    | with_reducible apply State.resetLocal_tidy
    | with_reducible apply State.showBracket_tidy
    | with_reducible apply State.Tidy.each
    | with_reducible apply State.Tidy.foldl
    | (with_reducible refine State.mk_tidy rfl ?_; first | with_reducible assumption)
    | split

theorem State.drainQueue_tidy (s : State) (d q : Nat) (y_ : Nat) (h_s : s.Tidy) : (State.drainQueue s d q y_).Tidy := by
  induction y_ generalizing s with
  | zero => exact h_s
  | succ n ih =>
    unfold State.drainQueue
    refine State.Tidy.ite ?_ h_s
    split
    · exact ih _ (State.drainHead_tidy _ _ _ _ h_s)
    · exact h_s

theorem State.failBracket_tidy (s : State) (g : Group) (err : Nat) (h_s : s.Tidy) : (State.failBracket s g err).Tidy
    := by
  unfold State.failBracket
  repeat' first
    | with_reducible assumption
    | (with_reducible refine Keeps.intro (fun s_ y_ h_ => ?_))
    | (focus ((try lift_lets); intro x_; refine (fun (h_ : State.Tidy x_) => ?_) ?_; clear_value x_))
    | (subst x_)
    | (focus ((try lift_lets); intro x_; refine (fun (h_ : State.Tidy x_.2) => ?_) ?_; clear_value x_))
    | (focus ((try lift_lets); intro x_; refine (fun (h_ : State.Tidy x_.1) => ?_) ?_; clear_value x_))
    | (focus ((try lift_lets); intro x_; (fail_if_success (have q_ : x_ = fun a_ => x_ a_ := rfl)); clear_value x_))
    | ((try lift_lets); intro x_)
    | with_reducible apply State.closeMember_tidy
    | with_reducible apply State.count_tidy
    | with_reducible apply State.drainQueue_tidy
    | with_reducible apply State.endGroup_tidy
    | with_reducible apply State.fail_tidy
    | with_reducible apply State.halt_tidy
    | with_reducible apply State.mergeAmax_tidy
    | with_reducible apply State.moveSlots_tidy
    | with_reducible apply State.numEvent_tidy
    | with_reducible apply State.setCause_tidy
    | with_reducible apply State.setQueue_tidy
    | with_reducible apply State.Tidy.each
    | (with_reducible refine State.mk_tidy rfl ?_; first | with_reducible assumption)
    | split

theorem State.bracketOutcome_tidy (s : State) (d ctx : Nat) (h_s : s.Tidy) : (State.bracketOutcome s d ctx).Tidy := by
  unfold State.bracketOutcome
  repeat' first
    | with_reducible assumption
    | (subst x_)
    | with_reducible apply State.commitStart_tidy
    | with_reducible apply State.failBracket_tidy
    | with_reducible apply State.replayBracket_tidy
    | with_reducible apply State.Tidy.ite
    | (with_reducible refine State.mk_tidy rfl ?_; first | with_reducible assumption)
    | split

theorem execBracketOutcome_tidy (d : Fin 4) (c : Ctx) (s : State) (h_s : s.Tidy) : ∀ t_, execBracketOutcome d c s =
    .next t_ → t_.Tidy := by
  intro t_ h_
  unfold execBracketOutcome at h_
  repeat' first
    | (injection h_ with h_; subst h_)
    | split at h_
    | cases h_
  all_goals
    repeat' first
      | with_reducible assumption
      | with_reducible apply State.bracketOutcome_tidy

theorem State.caddStop_tidy (s : State) (owner : Nat) (w : List Nat) (h_s : s.Tidy) : (State.caddStop s owner w).Tidy
    := by
  unfold State.caddStop
  repeat' first
    | with_reducible assumption
    | (with_reducible refine Keeps.intro (fun s_ y_ h_ => ?_))
    | (focus ((try lift_lets); intro x_; refine (fun (h_ : State.Tidy x_) => ?_) ?_; clear_value x_))
    | (subst x_)
    | with_reducible apply State.undefine_tidy
    | with_reducible apply State.Tidy.ite
    | with_reducible apply State.Tidy.each
    | (with_reducible refine State.mk_tidy rfl ?_; first | with_reducible assumption)
    | split

theorem State.commitAddDone_tidy (s : State) (d ctx : Nat) (h_s : s.Tidy) : (State.commitAddDone s d ctx).Tidy := by
  unfold State.commitAddDone
  repeat' first
    | with_reducible assumption
    | (subst x_)
    | with_reducible apply State.commitMaybe_tidy
    | with_reducible apply State.mapBracket_tidy
    | with_reducible apply State.Tidy.ite
    | (with_reducible refine State.mk_tidy rfl ?_; first | with_reducible assumption)
    | split

theorem execCommitAddDone_tidy (d : Fin 4) (c : Ctx) (s : State) (h_s : s.Tidy) : ∀ t_, execCommitAddDone d c s =
    .next t_ → t_.Tidy := by
  intro t_ h_
  unfold execCommitAddDone at h_
  repeat' first
    | (injection h_ with h_; subst h_)
    | split at h_
    | cases h_
  all_goals
    repeat' first
      | with_reducible assumption
      | with_reducible apply State.commitAddDone_tidy

end Sys2Proof.Machine
end

