-- ==== Sys2Proof/Laws/TidyCollective.lean ====
section
/-! SUPPORT. Every function of Machine/Collective.lean that answers a state keeps the canonical form (`State.Tidy`): one lemma
per function, named after it. -/

namespace Sys2Proof.Machine

theorem State.sendChunk_tidy (s : State) (g : Nat) (c : Cmd) (kind : Nat) (h : ItemHdr) (data : List Byte) (first :
    Nat) (last : Bool) (y_ : Nat) (h_s : s.Tidy) : (State.sendChunk s g c kind h data first last y_).Tidy := by
  induction y_ generalizing s g c kind h data first last with
  | zero => unfold State.sendChunk; assumption
  | succ n_ ih_ =>
    unfold State.sendChunk
    repeat' first
      | with_reducible assumption
      | (with_reducible refine Keeps.intro (fun s_ y_ h_ => ?_))
      | (subst x_)
      | with_reducible apply ih_
      | with_reducible apply State.countItem_tidy
      | with_reducible apply State.sendGroup_tidy
      | with_reducible apply State.take_tidy
      | with_reducible apply State.Tidy.ite

theorem State.sendUnits_tidy (s : State) (g : Nat) (c : Cmd) (kind : Nat) (h : ItemHdr) (data : List Byte) (first :
    Nat) (h_s : s.Tidy) : (State.sendUnits s g c kind h data first).Tidy := by
  unfold State.sendUnits
  repeat' first
    | with_reducible assumption
    | (focus ((try lift_lets); intro x_; refine (fun (h_ : State.Tidy x_) => ?_) ?_; clear_value x_))
    | (subst x_)
    | with_reducible apply State.mapCmd_tidy
    | with_reducible apply State.sendChunk_tidy
    | with_reducible apply State.stampFloor_tidy
    | with_reducible apply State.Tidy.ite

theorem State.answer_tidy (s : State) (c : Cmd) (h_s : s.Tidy) : (State.answer s c).Tidy := by
  unfold State.answer
  repeat' first
    | with_reducible assumption
    | (subst x_)
    | with_reducible apply State.countItem_tidy
    | with_reducible apply State.mapCmd_tidy
    | with_reducible apply State.sendRank_tidy
    | with_reducible apply State.Tidy.ite
    | (with_reducible refine State.mk_tidy rfl ?_; first | with_reducible assumption)
    | split

theorem State.clxLanded_tidy (s : State) (h_s : s.Tidy) : (State.clxLanded s).Tidy := by
  unfold State.clxLanded
  repeat' first
    | with_reducible assumption
    | (with_reducible refine Keeps.intro (fun s_ y_ h_ => ?_))
    | (focus ((try lift_lets); intro x_; refine (fun (h_ : State.Tidy x_) => ?_) ?_; clear_value x_))
    | (subst x_)
    | (focus ((try lift_lets); intro x_; (first | (have q_ : Clx := x_)); clear q_; subst x_))
    | with_reducible apply State.answer_tidy
    | with_reducible apply State.countItem_tidy
    | with_reducible apply State.sendRank_tidy
    | with_reducible apply State.signalLive_tidy
    | with_reducible apply State.signal_tidy
    | with_reducible apply State.Tidy.each
    | (with_reducible refine State.mk_tidy rfl ?_; first | with_reducible assumption)
    | split

theorem State.measure_tidy (s : State) (slot : Nat) (x : Stat) (h_s : s.Tidy) : (State.measure s slot x).Tidy := by
  unfold State.measure
  repeat' first
    | with_reducible assumption
    | (subst x_)
    | (focus ((try lift_lets); intro x_; (first | (have q_ : Clx := x_)); clear q_; subst x_))
    | (with_reducible apply State.mk_wf <;> (repeat' first | exact Table.wf_nil _ | (exact queueWaits_wf Wait.queue (fun _ q => { q with wait := WaitSt.absent }) _ _ (State.Tidy.queues (by with_reducible assumption))) | exact List.Pairwise.nil | (with_reducible apply Table.wf_filter) | (with_reducible apply Table.wf_set) | (with_reducible apply pairwise_setInsert) | (with_reducible apply pairwise_setErase) | (with_reducible apply List.Pairwise.filter) | (exact State.Tidy.regs (by with_reducible assumption)) | (exact State.Tidy.mem (by with_reducible assumption)) | (exact State.Tidy.cells (by with_reducible assumption)) | (exact State.Tidy.queues (by with_reducible assumption)) | (exact State.Tidy.jobs (by with_reducible assumption)) | (exact State.Tidy.gates (by with_reducible assumption)) | (exact State.Tidy.pages (by with_reducible assumption)) | (exact State.Tidy.poison (by with_reducible assumption)) | (exact State.Tidy.units (by with_reducible assumption)) | (exact State.Tidy.links (by with_reducible assumption)) | (exact State.Tidy.bundles (by with_reducible assumption)) | (exact State.Tidy.actions (by with_reducible assumption)) | (exact State.Tidy.ports (by with_reducible assumption)) | (exact State.Tidy.sampled (by with_reducible assumption)) | (exact State.Tidy.markers (by with_reducible assumption)) | (exact State.Tidy.lostGen (by with_reducible assumption)) | (exact State.Tidy.lostSet (by with_reducible assumption)) | (exact State.Tidy.chosen (by with_reducible assumption)) | (exact State.Tidy.causes (by with_reducible assumption)) | (exact State.Tidy.moved (by with_reducible assumption)) | (exact State.Tidy.parts (by with_reducible assumption)) | (exact State.Tidy.crossing (by with_reducible assumption)) | (exact State.Tidy.image (by with_reducible assumption)) | (exact State.Tidy.chain (by with_reducible assumption)) | (exact State.Tidy.steps (by with_reducible assumption)) | (exact State.Tidy.reading (by with_reducible assumption)) | (exact State.Tidy.weights (by with_reducible assumption)) | (exact State.Tidy.dealt (by with_reducible assumption)) | (exact State.Tidy.health (by with_reducible assumption)) | (exact State.Tidy.meas (by with_reducible assumption)) | (exact State.Tidy.sums (by with_reducible assumption)) | (exact State.Tidy.spdm (by with_reducible assumption)) | (exact State.Tidy.ide (by with_reducible assumption)) | (exact State.Tidy.ids (by with_reducible assumption)) | (simp only [List.map_nil, List.nil_append, List.pairwise_singleton]; done) | (refine forUpto_wf (fun i_ m_ h_ => ?_) _ ?_) | with_reducible assumption | (intro p_ hp_; first | (exact State.Tidy.order (by with_reducible assumption) p_ hp_) | (exact State.Tidy.order (by with_reducible assumption) p_ (List.mem_filter.mp hp_).1) | (exact absurd hp_ (List.not_mem_nil)))))

theorem State.putCodes_tidy (s : State) (c : Cmd) (a : Nat) (y : List Nat) (h_s : s.Tidy) : (State.putCodes s c a
    y).Tidy := by
  unfold State.putCodes
  repeat' first
    | with_reducible assumption
    | (focus ((try lift_lets); intro x_; refine (fun (h_ : State.Tidy x_) => ?_) ?_; clear_value x_))
    | (subst x_)
    | with_reducible apply State.nonfinite_tidy
    | with_reducible apply State.write_tidy
    | with_reducible apply State.Tidy.ite

theorem State.tagEntry_tidy (s : State) (c : Cmd) (q epoch step wgen : Nat) (h_s : s.Tidy) : (State.tagEntry s c q
    epoch step wgen).Tidy := by
  unfold State.tagEntry
  repeat' first
    | with_reducible assumption
    | (focus ((try lift_lets); intro x_; refine (fun (h_ : State.Tidy x_) => ?_) ?_; clear_value x_))
    | (subst x_)
    | with_reducible apply State.countRead_tidy
    | with_reducible apply State.count_tidy
    | with_reducible apply State.intSet_tidy
    | with_reducible apply State.mapCmd_tidy
    | with_reducible apply State.numEvent_tidy
    | with_reducible apply State.setCause_tidy
    | with_reducible apply State.write_tidy
    | with_reducible apply State.Tidy.ite

theorem State.gatherBegin_tidy (s : State) (c : Cmd) (h_s : s.Tidy) : (State.gatherBegin s c).Tidy := by
  unfold State.gatherBegin
  repeat' first
    | with_reducible assumption
    | (focus ((try lift_lets); intro x_; refine (fun (h_ : State.Tidy x_) => ?_) ?_; clear_value x_))
    | (subst x_)
    | with_reducible apply State.copyGranules_tidy
    | with_reducible apply State.countRead_tidy
    | with_reducible apply State.put_tidy
    | with_reducible apply State.sendUnits_tidy
    | with_reducible apply State.tagEntry_tidy
    | with_reducible apply State.Tidy.ite

theorem State.reduceBegin_tidy (s : State) (c : Cmd) (h_s : s.Tidy) : (State.reduceBegin s c).Tidy := by
  unfold State.reduceBegin
  repeat' first
    | with_reducible assumption
    | (focus ((try lift_lets); intro x_; refine (fun (h_ : State.Tidy x_) => ?_) ?_; clear_value x_))
    | (subst x_)
    | with_reducible apply State.countRead_tidy
    | with_reducible apply State.measure_tidy
    | with_reducible apply State.putCodes_tidy
    | with_reducible apply State.sendUnits_tidy
    | with_reducible apply State.Tidy.ite
    | (with_reducible refine State.mk_tidy rfl ?_; first | with_reducible assumption)
    | split

theorem State.passBegin_tidy (s : State) (c : Cmd) (h_s : s.Tidy) : (State.passBegin s c).Tidy := by
  unfold State.passBegin
  repeat' first
    | with_reducible assumption
    | (focus ((try lift_lets); intro x_; refine (fun (h_ : State.Tidy x_) => ?_) ?_; clear_value x_))
    | (subst x_)
    | (focus ((try lift_lets); intro x_; (first | (have q_ : Clx := x_)); clear q_; subst x_))
    | with_reducible apply State.countRead_tidy
    | with_reducible apply State.mapCmd_tidy
    | with_reducible apply State.sendUnits_tidy
    | with_reducible apply State.Tidy.ite
    | (with_reducible refine State.mk_tidy rfl ?_; first | with_reducible assumption)

theorem State.dieReduceRun_tidy (s : State) (c : Cmd) (h_s : s.Tidy) : (State.dieReduceRun s c).Tidy := by
  unfold State.dieReduceRun
  repeat' first
    | with_reducible assumption
    | (with_reducible refine Keeps.intro (fun s_ y_ h_ => ?_))
    | (focus ((try lift_lets); intro x_; refine (fun (h_ : State.Tidy x_) => ?_) ?_; clear_value x_))
    | (subst x_)
    | (focus ((try lift_lets); intro x_; (fail_if_success (have q_ : x_ = fun a_ => x_ a_ := rfl)); clear_value x_))
    | ((try lift_lets); intro x_)
    | with_reducible apply State.countRead_tidy
    | with_reducible apply State.count_tidy
    | with_reducible apply State.fail_tidy
    | with_reducible apply State.mapCmd_tidy
    | with_reducible apply State.nonfinite_tidy
    | with_reducible apply State.writeGranule_tidy
    | with_reducible apply State.Tidy.ite
    | with_reducible apply State.Tidy.each
    | (with_reducible refine State.mk_tidy rfl ?_; first | with_reducible assumption)
    | split

theorem State.collDone_tidy (s : State) (c : Cmd) (h_s : s.Tidy) : (State.collDone s c).Tidy := by
  unfold State.collDone
  repeat' first
    | with_reducible assumption
    | (focus ((try lift_lets); intro x_; refine (fun (h_ : State.Tidy x_) => ?_) ?_; clear_value x_))
    | (subst x_)
    | with_reducible apply State.count_tidy
    | with_reducible apply State.done_tidy
    | with_reducible apply State.mapBracket_tidy
    | with_reducible apply State.Tidy.ite

theorem State.collStart_tidy (s : State) (c : Cmd) (h_s : s.Tidy) : (State.collStart s c).Tidy := by
  unfold State.collStart
  repeat' first
    | with_reducible assumption
    | (focus ((try lift_lets); intro x_; refine (fun (h_ : State.Tidy x_) => ?_) ?_; clear_value x_))
    | (subst x_)
    | with_reducible apply State.collDone_tidy
    | with_reducible apply State.countRead_tidy
    | with_reducible apply State.count_tidy
    | with_reducible apply State.dieReduceRun_tidy
    | with_reducible apply State.fail_tidy
    | with_reducible apply State.gatherBegin_tidy
    | with_reducible apply State.mapCmd_tidy
    | with_reducible apply State.passBegin_tidy
    | with_reducible apply State.reduceBegin_tidy
    | with_reducible apply State.stampFloor_tidy
    | with_reducible apply State.Tidy.ite
    | (with_reducible refine State.mk_tidy rfl ?_; first | with_reducible assumption)
    | split

theorem State.collBegin_tidy (s : State) (y_ : Nat) (h_s : s.Tidy) : (State.collBegin s y_).Tidy := by
  induction y_ generalizing s with
  | zero => unfold State.collBegin; assumption
  | succ n_ ih_ =>
    unfold State.collBegin
    repeat' first
      | with_reducible assumption
      | (subst x_)
      | with_reducible apply ih_
      | with_reducible apply State.collStart_tidy
      | (with_reducible refine State.mk_tidy rfl ?_; first | with_reducible assumption)
      | split

theorem State.clxNext_tidy (s : State) (h_s : s.Tidy) : (State.clxNext s).Tidy := by
  unfold State.clxNext
  repeat' first
    | with_reducible assumption
    | with_reducible apply State.clxLanded_tidy
    | with_reducible apply State.collBegin_tidy

theorem State.takeOwed_tidy (s : State) (c : Cmd) (h_s : s.Tidy) : (State.takeOwed s c).Tidy := by
  unfold State.takeOwed
  repeat' first
    | with_reducible assumption
    | (with_reducible refine Keeps.intro (fun s_ y_ h_ => ?_))
    | (focus ((try lift_lets); intro x_; refine (fun (h_ : State.Tidy x_) => ?_) ?_; clear_value x_))
    | (subst x_)
    | (focus ((try lift_lets); intro x_; (first | (have q_ : Clx := x_)); clear q_; subst x_))
    | with_reducible apply State.count_tidy
    | with_reducible apply State.fail_tidy
    | with_reducible apply State.undefine_tidy
    | with_reducible apply State.Tidy.each
    | (with_reducible refine State.mk_tidy rfl ?_; first | with_reducible assumption)
    | split

theorem State.collRelease_tidy (s : State) (c : Cmd) (h_s : s.Tidy) : (State.collRelease s c).Tidy := by
  unfold State.collRelease
  repeat' first
    | with_reducible assumption
    | (focus ((try lift_lets); intro x_; refine (fun (h_ : State.Tidy x_) => ?_) ?_; clear_value x_))
    | (subst x_)
    | with_reducible apply State.countRead_tidy
    | with_reducible apply State.fail_tidy
    | with_reducible apply State.mapCmd_tidy
    | with_reducible apply State.takeOwed_tidy
    | with_reducible apply State.Tidy.ite
    | (with_reducible refine State.mk_tidy rfl ?_; first | with_reducible assumption)
    | split

theorem State.clxRelease_tidy (s : State) (h_s : s.Tidy) : (State.clxRelease s).Tidy := by
  unfold State.clxRelease
  repeat' first
    | with_reducible assumption
    | (with_reducible refine Keeps.intro (fun s_ y_ h_ => ?_))
    | with_reducible apply State.clxNext_tidy
    | with_reducible apply State.collRelease_tidy
    | with_reducible apply State.Tidy.ite
    | with_reducible apply State.Tidy.each

theorem State.collDispatch_tidy (s : State) (c : Cmd) (h_s : s.Tidy) : (State.collDispatch s c).Tidy := by
  unfold State.collDispatch
  repeat' first
    | with_reducible assumption
    | (subst x_)
    | with_reducible apply State.clxRelease_tidy
    | with_reducible apply State.mapCmd_tidy

theorem State.dropInbound_tidy (s : State) (g : Nat) (h_s : s.Tidy) : (State.dropInbound s g).Tidy := by
  unfold State.dropInbound
  repeat' first
    | with_reducible assumption
    | (with_reducible refine Keeps.intro (fun s_ y_ h_ => ?_))
    | (focus ((try lift_lets); intro x_; refine (fun (h_ : State.Tidy x_) => ?_) ?_; clear_value x_))
    | (subst x_)
    | (focus ((try lift_lets); intro x_; (first | (have q_ : Clx := x_)); clear q_; subst x_))
    | with_reducible apply State.undefine_tidy
    | with_reducible apply State.Tidy.ite
    | with_reducible apply State.Tidy.each
    | (with_reducible refine State.mk_tidy rfl ?_; first | with_reducible assumption)

theorem State.collFail_tidy (s : State) (c : Cmd) (err detail : Nat) (h_s : s.Tidy) : (State.collFail s c err
    detail).Tidy := by
  unfold State.collFail
  repeat' first
    | with_reducible assumption
    | (focus ((try lift_lets); intro x_; refine (fun (h_ : State.Tidy x_) => ?_) ?_; clear_value x_))
    | (subst x_)
    | with_reducible apply State.clxNext_tidy
    | with_reducible apply State.dropInbound_tidy
    | with_reducible apply State.fail_tidy
    | with_reducible apply State.Tidy.ite

theorem execGather_tidy (d : Fin 4) (q : Fin 64) (ext : HostSlot) (s : State) (h_s : s.Tidy) : ∀ t_, execGather d q
    ext s = .next t_ → t_.Tidy := by
  intro t_ h_
  unfold execGather at h_
  repeat' first
    | (injection h_ with h_; subst h_)
    | split at h_
    | cases h_
  all_goals
    repeat' first
      | with_reducible assumption
      | (with_reducible refine Keeps.intro (fun s_ y_ h_ => ?_))
      | with_reducible apply State.collDispatch_tidy
      | with_reducible apply State.v2_tidy

theorem execReduceScatter_tidy (d : Fin 4) (q : Fin 64) (ext : HostSlot) (s : State) (h_s : s.Tidy) : ∀ t_,
    execReduceScatter d q ext s = .next t_ → t_.Tidy := by
  intro t_ h_
  unfold execReduceScatter at h_
  repeat' first
    | (injection h_ with h_; subst h_)
    | split at h_
    | cases h_
  all_goals
    repeat' first
      | with_reducible assumption
      | (with_reducible refine Keeps.intro (fun s_ y_ h_ => ?_))
      | with_reducible apply State.collDispatch_tidy
      | with_reducible apply State.v2_tidy

theorem execAllReduce_tidy (d : Fin 4) (q : Fin 64) (ext : HostSlot) (s : State) (h_s : s.Tidy) : ∀ t_, execAllReduce
    d q ext s = .next t_ → t_.Tidy := by
  intro t_ h_
  unfold execAllReduce at h_
  repeat' first
    | (injection h_ with h_; subst h_)
    | split at h_
    | cases h_
  all_goals
    repeat' first
      | with_reducible assumption
      | (with_reducible refine Keeps.intro (fun s_ y_ h_ => ?_))
      | with_reducible apply State.collDispatch_tidy
      | with_reducible apply State.v2_tidy

theorem execPipeSend_tidy (d : Fin 4) (q : Fin 64) (ext : HostSlot) (s : State) (h_s : s.Tidy) : ∀ t_, execPipeSend d
    q ext s = .next t_ → t_.Tidy := by
  intro t_ h_
  unfold execPipeSend at h_
  repeat' first
    | (injection h_ with h_; subst h_)
    | split at h_
    | cases h_
  all_goals
    repeat' first
      | with_reducible assumption
      | (with_reducible refine Keeps.intro (fun s_ y_ h_ => ?_))
      | with_reducible apply State.collDispatch_tidy
      | with_reducible apply State.v2_tidy

theorem execSeqPass_tidy (d : Fin 4) (q : Fin 64) (ext : HostSlot) (s : State) (h_s : s.Tidy) : ∀ t_, execSeqPass d q
    ext s = .next t_ → t_.Tidy := by
  intro t_ h_
  unfold execSeqPass at h_
  repeat' first
    | (injection h_ with h_; subst h_)
    | split at h_
    | cases h_
  all_goals
    repeat' first
      | with_reducible assumption
      | (with_reducible refine Keeps.intro (fun s_ y_ h_ => ?_))
      | with_reducible apply State.collDispatch_tidy
      | with_reducible apply State.v2_tidy

theorem execDieReduce_tidy (d : Fin 4) (q : Fin 64) (ext : HostSlot) (s : State) (h_s : s.Tidy) : ∀ t_, execDieReduce
    d q ext s = .next t_ → t_.Tidy := by
  intro t_ h_
  unfold execDieReduce at h_
  repeat' first
    | (injection h_ with h_; subst h_)
    | split at h_
    | cases h_
  all_goals
    repeat' first
      | with_reducible assumption
      | (with_reducible refine Keeps.intro (fun s_ y_ h_ => ?_))
      | with_reducible apply State.collDispatch_tidy
      | with_reducible apply State.v2_tidy

theorem execBucketReduce_tidy (d : Fin 4) (q : Fin 64) (ext : HostSlot) (s : State) (h_s : s.Tidy) : ∀ t_,
    execBucketReduce d q ext s = .next t_ → t_.Tidy := by
  intro t_ h_
  unfold execBucketReduce at h_
  repeat' first
    | (injection h_ with h_; subst h_)
    | split at h_
    | cases h_
  all_goals
    repeat' first
      | with_reducible assumption
      | (with_reducible refine Keeps.intro (fun s_ y_ h_ => ?_))
      | with_reducible apply State.collDispatch_tidy
      | with_reducible apply State.v2_tidy

theorem execV1BucketReduce_tidy (d : Fin 4) (q : Fin 64) (ext : HostSlot) (s : State) (h_s : s.Tidy) : ∀ t_,
    execV1BucketReduce d q ext s = .next t_ → t_.Tidy := by
  intro t_ h_
  unfold execV1BucketReduce at h_
  repeat' first
    | (injection h_ with h_; subst h_)
    | split at h_
    | cases h_
  all_goals
    repeat' first
      | with_reducible assumption
      | (with_reducible refine Keeps.intro (fun s_ y_ h_ => ?_))
      | with_reducible apply State.collDispatch_tidy
      | with_reducible apply State.v1_tidy

theorem State.peersLost_tidy (s : State) (h_s : s.Tidy) : (State.peersLost s).Tidy := by
  unfold State.peersLost
  repeat' first
    | with_reducible assumption
    | (with_reducible refine Keeps.intro (fun s_ y_ h_ => ?_))
    | (subst x_)
    | (focus ((try lift_lets); intro x_; (fail_if_success (have q_ : x_ = fun a_ => x_ a_ := rfl)); clear_value x_))
    | ((try lift_lets); intro x_)
    | with_reducible apply State.collFail_tidy
    | with_reducible apply State.count_tidy
    | with_reducible apply State.fail_tidy
    | with_reducible apply State.syncRemote_tidy
    | with_reducible apply State.Tidy.ite
    | with_reducible apply State.Tidy.each
    | (with_reducible refine State.mk_tidy rfl ?_; first | with_reducible assumption)
    | split

theorem State.measureDone_tidy (s : State) (c : Cmd) (h_s : s.Tidy) : (State.measureDone s c).Tidy := by
  unfold State.measureDone
  repeat' first
    | with_reducible assumption
    | (focus ((try lift_lets); intro x_; refine (fun (h_ : State.Tidy x_) => ?_) ?_; clear_value x_))
    | (subst x_)
    | (focus ((try lift_lets); intro x_; (first | (have q_ : Clx := x_)); clear q_; subst x_))
    | (focus ((try lift_lets); intro x_; (fail_if_success (have q_ : x_ = fun a_ => x_ a_ := rfl)); clear_value x_))
    | ((try lift_lets); intro x_)
    | with_reducible apply State.measure_tidy
    | with_reducible apply State.Tidy.ite
    | (with_reducible refine State.mk_tidy rfl ?_; first | with_reducible assumption)
    | split

theorem State.collEnd_tidy (s : State) (d q number : Nat) (h_s : s.Tidy) : (State.collEnd s d q number).Tidy := by
  unfold State.collEnd
  repeat' first
    | with_reducible assumption
    | (focus ((try lift_lets); intro x_; refine (fun (h_ : State.Tidy x_) => ?_) ?_; clear_value x_))
    | (subst x_)
    | (focus ((try lift_lets); intro x_; (first | (have q_ : Clx := x_)); clear q_; subst x_))
    | with_reducible apply State.clxLanded_tidy
    | with_reducible apply State.clxNext_tidy
    | with_reducible apply State.collDone_tidy
    | with_reducible apply State.collFail_tidy
    | with_reducible apply State.measureDone_tidy
    | (with_reducible refine State.mk_tidy rfl ?_; first | with_reducible assumption)
    | split

theorem execCollectiveComplete_tidy (d : Fin 4) (q : Fin 64) (number : BitVec 32) (s : State) (h_s : s.Tidy) : ∀ t_,
    execCollectiveComplete d q number s = .next t_ → t_.Tidy := by
  intro t_ h_
  unfold execCollectiveComplete at h_
  repeat' first
    | (injection h_ with h_; subst h_)
    | split at h_
    | cases h_
  all_goals
    repeat' first
      | with_reducible assumption
      | with_reducible apply State.collEnd_tidy

theorem State.syncRemote_tidy (s : State) (c : Cmd) (h_s : s.Tidy) : (State.syncRemote s c).Tidy := by
  unfold State.syncRemote
  repeat' first
    | with_reducible assumption
    | (subst x_)
    | with_reducible apply State.countItem_tidy
    | with_reducible apply State.count_tidy
    | with_reducible apply State.fail_tidy
    | with_reducible apply State.mapCmd_tidy
    | with_reducible apply State.sendRank_tidy
    | with_reducible apply State.Tidy.ite

theorem execSyncRemote_tidy (d : Fin 4) (q : Fin 64) (ext : HostSlot) (s : State) (h_s : s.Tidy) : ∀ t_,
    execSyncRemote d q ext s = .next t_ → t_.Tidy := by
  intro t_ h_
  unfold execSyncRemote at h_
  repeat' first
    | (injection h_ with h_; subst h_)
    | split at h_
    | cases h_
  all_goals
    repeat' first
      | with_reducible assumption
      | (with_reducible refine Keeps.intro (fun s_ y_ h_ => ?_))
      | with_reducible apply State.syncRemote_tidy
      | with_reducible apply State.v2_tidy

end Sys2Proof.Machine
end

