-- ==== Sys2Proof/Laws/TidyItems.lean ====
section
/-! SUPPORT. Every function of Machine/Items.lean that answers a state keeps the canonical form (`State.Tidy`): one lemma
per function, named after it. -/

namespace Sys2Proof.Machine

theorem State.takeItem_tidy (s : State) (e : Nat) (m : Msg) (h_s : s.Tidy) :
    ∀ t_, State.takeItem s e m = some t_ → t_.Tidy := by
  intro t_ h
  unfold State.takeItem at h
  dsimp only at h
  split at h
  · cases h
  · obtain ⟨-, h⟩ := Option.ite_none_right_eq_some.mp h
    rw [Option.some.injEq] at h
    exact h ▸ State.setLink_tidy _ _ h_s

theorem State.clxItem_tidy (s : State) (e : Nat) (h : ItemHdr) (m : Msg) (h_s : s.Tidy) :
    ∀ t_, State.clxItem s e h m = some t_ → t_.Tidy := by
  intro t_ k
  unfold State.clxItem at k
  obtain ⟨t, kt, rfl⟩ := Option.map_eq_some_iff.mp k
  have ht := State.takeItem_tidy _ _ _ h_s _ kt
  exact State.Tidy.ite (State.count_tidy _ _ _ _ ht) ht

theorem State.wrongEpoch_tidy (s : State) (e : Nat) (c : Option Cmd) (h_s : s.Tidy) : (State.wrongEpoch s e c).Tidy
    := by
  unfold State.wrongEpoch
  repeat' first
    | with_reducible assumption
    | (focus ((try lift_lets); intro x_; refine (fun (h_ : State.Tidy x_) => ?_) ?_; clear_value x_))
    | (subst x_)
    | with_reducible apply State.collFail_tidy
    | with_reducible apply State.count_tidy
    | (with_reducible refine State.mk_tidy rfl ?_; first | with_reducible assumption)
    | split

theorem State.ringItem_tidy (s : State) (e kind : Nat) (i : Item) (fits : State → Cmd → Bool) (run : State → Cmd →
    State) (h_s : s.Tidy) (k_run : Keeps run) : (State.ringItem s e kind i fits run).Tidy := by
  unfold State.ringItem
  repeat' first
    | with_reducible assumption
    | (with_reducible refine Keeps.intro (fun s_ y_ h_ => ?_))
    | (subst x_)
    | (focus ((try lift_lets); intro x_; (first | (have q_ : Clx := x_)); clear q_; subst x_))
    | (refine k_run _ _ ?_)
    | with_reducible apply State.Tidy.getD
    | (with_reducible refine State.clxItem_tidy _ _ _ _ ?_)
    | (with_reducible refine State.clxItem_tidy _ _ _ _ ?_ _ (by assumption))
    | with_reducible apply State.clxNext_tidy
    | with_reducible apply State.collFail_tidy
    | with_reducible apply State.mapCmd_tidy
    | with_reducible apply State.wrongEpoch_tidy
    | with_reducible apply State.Tidy.ite
    | (with_reducible refine State.mk_tidy rfl ?_; first | with_reducible assumption | (with_reducible refine State.clxItem_tidy _ _ _ _ ?_ _ (by assumption)))
    | split

theorem State.gatherRecv_tidy (s : State) (i : Item) (c : Cmd) (h_s : s.Tidy) : (State.gatherRecv s i c).Tidy := by
  unfold State.gatherRecv
  repeat' first
    | with_reducible assumption
    | (focus ((try lift_lets); intro x_; refine (fun (h_ : State.Tidy x_) => ?_) ?_; clear_value x_))
    | (subst x_)
    | with_reducible apply State.sendUnits_tidy
    | with_reducible apply State.tagEntry_tidy
    | with_reducible apply State.write_tidy
    | with_reducible apply State.Tidy.ite

theorem execGatherItem_tidy (e : Fin 32) (i : Item) (s : State) (h_s : s.Tidy) : ∀ t_, execGatherItem e i s = .next
    t_ → t_.Tidy := by
  intro t_ h_
  unfold execGatherItem at h_
  repeat' first
    | (injection h_ with h_; subst h_)
    | split at h_
    | cases h_
  all_goals
    repeat' first
      | with_reducible assumption
      | (with_reducible refine Keeps.intro (fun s_ y_ h_ => ?_))
      | with_reducible apply State.gatherRecv_tidy
      | with_reducible apply State.ringItem_tidy

theorem State.putReduced_tidy (s : State) (c : Cmd) (r : Reduction) (chunk first : Nat) (y : List Nat) (h_s : s.Tidy)
    : (State.putReduced s c r chunk first y).Tidy := by
  unfold State.putReduced
  repeat' first
    | with_reducible assumption
    | with_reducible apply State.putCodes_tidy

theorem State.partialRecv_tidy (s : State) (i : Item) (c : Cmd) (h_s : s.Tidy) : (State.partialRecv s i c).Tidy := by
  unfold State.partialRecv
  repeat' first
    | with_reducible assumption
    | (focus ((try lift_lets); intro x_; refine (fun (h_ : State.Tidy x_) => ?_) ?_; clear_value x_))
    | (subst x_)
    | with_reducible apply State.count_tidy
    | with_reducible apply State.fail_tidy
    | with_reducible apply State.putReduced_tidy
    | with_reducible apply State.sendUnits_tidy
    | with_reducible apply State.Tidy.ite

theorem State.resultRecv_tidy (s : State) (i : Item) (c : Cmd) (h_s : s.Tidy) : (State.resultRecv s i c).Tidy := by
  unfold State.resultRecv
  repeat' first
    | with_reducible assumption
    | (focus ((try lift_lets); intro x_; refine (fun (h_ : State.Tidy x_) => ?_) ?_; clear_value x_))
    | (subst x_)
    | with_reducible apply State.putReduced_tidy
    | with_reducible apply State.sendUnits_tidy
    | with_reducible apply State.Tidy.ite

theorem execReduce_tidy (e : Fin 32) (i : Item) (s : State) (h_s : s.Tidy) : ∀ t_, execReduce e i s = .next t_ →
    t_.Tidy := by
  intro t_ h_
  unfold execReduce at h_
  repeat' first
    | (injection h_ with h_; subst h_)
    | split at h_
    | cases h_
  all_goals
    repeat' first
      | with_reducible assumption
      | (with_reducible refine Keeps.intro (fun s_ y_ h_ => ?_))
      | with_reducible apply State.partialRecv_tidy
      | with_reducible apply State.ringItem_tidy

theorem execResult_tidy (e : Fin 32) (i : Item) (s : State) (h_s : s.Tidy) : ∀ t_, execResult e i s = .next t_ →
    t_.Tidy := by
  intro t_ h_
  unfold execResult at h_
  repeat' first
    | (injection h_ with h_; subst h_)
    | split at h_
    | cases h_
  all_goals
    repeat' first
      | with_reducible assumption
      | (with_reducible refine Keeps.intro (fun s_ y_ h_ => ?_))
      | with_reducible apply State.resultRecv_tidy
      | with_reducible apply State.ringItem_tidy

theorem State.bucketRecv_tidy (s : State) (i : Item) (c : Cmd) (h_s : s.Tidy) : (State.bucketRecv s i c).Tidy := by
  unfold State.bucketRecv
  repeat' first
    | with_reducible assumption
    | (subst x_)
    | with_reducible apply State.mapCmd_tidy
    | with_reducible apply State.partialRecv_tidy
    | with_reducible apply State.resultRecv_tidy
    | with_reducible apply State.Tidy.ite

theorem execBucket_tidy (e : Fin 32) (i : Item) (s : State) (h_s : s.Tidy) : ∀ t_, execBucket e i s = .next t_ →
    t_.Tidy := by
  intro t_ h_
  unfold execBucket at h_
  repeat' first
    | (injection h_ with h_; subst h_)
    | split at h_
    | cases h_
  all_goals
    repeat' first
      | with_reducible assumption
      | (with_reducible refine Keeps.intro (fun s_ y_ h_ => ?_))
      | with_reducible apply State.bucketRecv_tidy
      | with_reducible apply State.ringItem_tidy

theorem State.landRegion_tidy (s : State) (e : Nat) (path : Path) (h : ItemHdr) (x : Inbound) (h_s : s.Tidy) :
    (State.landRegion s e path h x).Tidy := by
  unfold State.landRegion
  repeat' first
    | with_reducible assumption
    | (with_reducible refine Keeps.intro (fun s_ y_ h_ => ?_))
    | (focus ((try lift_lets); intro x_; refine (fun (h_ : State.Tidy x_) => ?_) ?_; clear_value x_))
    | (subst x_)
    | (focus ((try lift_lets); intro x_; refine (fun (h_ : State.Tidy x_.2) => ?_) ?_; clear_value x_))
    | (focus ((try lift_lets); intro x_; refine (fun (h_ : State.Tidy x_.1) => ?_) ?_; clear_value x_))
    | (focus ((try lift_lets); intro x_; (first | (have q_ : Clx := x_)); clear q_; subst x_))
    | (focus ((try lift_lets); intro x_; (fail_if_success (have q_ : x_ = fun a_ => x_ a_ := rfl)); clear_value x_))
    | ((try lift_lets); intro x_)
    | with_reducible apply State.clxLanded_tidy
    | with_reducible apply State.useId_tidy
    | with_reducible apply State.write_tidy
    | with_reducible apply State.Tidy.ite
    | with_reducible apply State.Tidy.each
    | (with_reducible refine State.mk_tidy rfl ?_; first | with_reducible assumption)
    | split

theorem State.addInbound_tidy (s : State) (e g : Nat) (path : Path) (i : Item) (h_s : s.Tidy) : (State.addInbound s e
    g path i).Tidy := by
  unfold State.addInbound
  repeat' first
    | with_reducible assumption
    | (with_reducible refine Keeps.intro (fun s_ y_ h_ => ?_))
    | (subst x_)
    | (focus ((try lift_lets); intro x_; (first | (have q_ : Clx := x_)); clear q_; subst x_))
    | (focus ((try lift_lets); intro x_; (fail_if_success (have q_ : x_ = fun a_ => x_ a_ := rfl)); clear_value x_))
    | with_reducible apply State.landRegion_tidy
    | with_reducible apply State.Tidy.ite
    | with_reducible apply State.Tidy.foldl
    | (with_reducible refine State.mk_tidy rfl ?_; first | with_reducible assumption)

theorem State.pipeItem_tidy (s : State) (e : Nat) (i : Item) (h_s : s.Tidy) : (State.pipeItem s e i).Tidy := by
  unfold State.pipeItem
  repeat' first
    | with_reducible assumption
    | (subst x_)
    | (focus ((try lift_lets); intro x_; (first | (have q_ : Clx := x_)); clear q_; subst x_))
    | with_reducible apply State.addInbound_tidy
    | with_reducible apply State.Tidy.getD
    | (with_reducible refine State.clxItem_tidy _ _ _ _ ?_)
    | (with_reducible refine State.clxItem_tidy _ _ _ _ ?_ _ (by assumption))
    | with_reducible apply State.dropInbound_tidy
    | with_reducible apply State.wrongEpoch_tidy
    | with_reducible apply State.Tidy.ite
    | (with_reducible refine State.mk_tidy rfl ?_; first | with_reducible assumption | (with_reducible refine State.clxItem_tidy _ _ _ _ ?_ _ (by assumption)))
    | split

theorem execPipe_tidy (e : Fin 32) (i : Item) (s : State) (h_s : s.Tidy) : ∀ t_, execPipe e i s = .next t_ → t_.Tidy
    := by
  intro t_ h_
  unfold execPipe at h_
  repeat' first
    | (injection h_ with h_; subst h_)
    | split at h_
    | cases h_
  all_goals
    repeat' first
      | with_reducible assumption
      | with_reducible apply State.pipeItem_tidy

theorem execSeq_tidy (e : Fin 32) (i : Item) (s : State) (h_s : s.Tidy) : ∀ t_, execSeq e i s = .next t_ → t_.Tidy := by
  intro t_ h_
  unfold execSeq at h_
  repeat' first
    | (injection h_ with h_; subst h_)
    | split at h_
    | cases h_
  all_goals
    repeat' first
      | with_reducible assumption
      | (with_reducible refine Keeps.intro (fun s_ y_ h_ => ?_))
      | with_reducible apply State.addInbound_tidy
      | with_reducible apply State.ringItem_tidy

theorem State.syncItem_tidy (s : State) (e : Nat) (i : SyncItem) (h_s : s.Tidy) : (State.syncItem s e i).Tidy := by
  unfold State.syncItem
  repeat' first
    | with_reducible assumption
    | (focus ((try lift_lets); intro x_; refine (fun (h_ : State.Tidy x_) => ?_) ?_; clear_value x_))
    | (subst x_)
    | (focus ((try lift_lets); intro x_; (first | (have q_ : Clx := x_)); clear q_; subst x_))
    | ((try lift_lets); intro x_)
    | with_reducible apply State.Tidy.getD
    | (with_reducible refine State.clxItem_tidy _ _ _ _ ?_)
    | (with_reducible refine State.clxItem_tidy _ _ _ _ ?_ _ (by assumption))
    | with_reducible apply State.countItem_tidy
    | with_reducible apply State.sendRank_tidy
    | with_reducible apply State.signalLive_tidy
    | with_reducible apply State.wrongEpoch_tidy
    | with_reducible apply State.Tidy.ite
    | (with_reducible refine State.mk_tidy rfl ?_; first | with_reducible assumption | (with_reducible refine State.clxItem_tidy _ _ _ _ ?_ _ (by assumption)))
    | split

theorem execSync_tidy (e : Fin 32) (i : SyncItem) (s : State) (h_s : s.Tidy) : ∀ t_, execSync e i s = .next t_ →
    t_.Tidy := by
  intro t_ h_
  unfold execSync at h_
  repeat' first
    | (injection h_ with h_; subst h_)
    | split at h_
    | cases h_
  all_goals
    repeat' first
      | with_reducible assumption
      | with_reducible apply State.syncItem_tidy

theorem State.forwardAbort_tidy (s : State) (e : Nat) (p : Path) (h : ItemHdr) (h_s : s.Tidy) : (State.forwardAbort s
    e p h).Tidy := by
  unfold State.forwardAbort
  repeat' first
    | with_reducible assumption
    | (focus ((try lift_lets); intro x_; refine (fun (h_ : State.Tidy x_) => ?_) ?_; clear_value x_))
    | (subst x_)
    | (focus ((try lift_lets); intro x_; (fail_if_success (have q_ : x_ = fun a_ => x_ a_ := rfl)); clear_value x_))
    | ((try lift_lets); intro x_)
    | with_reducible apply State.countItem_tidy
    | with_reducible apply State.sendRank_tidy
    | with_reducible apply State.Tidy.ite
    | (with_reducible refine State.mk_tidy rfl ?_; first | with_reducible assumption)
    | split

theorem State.abortItem_tidy (s : State) (e : Nat) (p : Path) (h : ItemHdr) (h_s : s.Tidy) : (State.abortItem s e p
    h).Tidy := by
  unfold State.abortItem
  repeat' first
    | with_reducible assumption
    | (with_reducible refine Keeps.intro (fun s_ y_ h_ => ?_))
    | (focus ((try lift_lets); intro x_; refine (fun (h_ : State.Tidy x_) => ?_) ?_; clear_value x_))
    | (subst x_)
    | (focus ((try lift_lets); intro x_; (first | (have q_ : Clx := x_)); clear q_; subst x_))
    | with_reducible apply State.Tidy.getD
    | (with_reducible refine State.clxItem_tidy _ _ _ _ ?_)
    | (with_reducible refine State.clxItem_tidy _ _ _ _ ?_ _ (by assumption))
    | with_reducible apply State.collFail_tidy
    | with_reducible apply State.count_tidy
    | with_reducible apply State.dropInbound_tidy
    | with_reducible apply State.forwardAbort_tidy
    | with_reducible apply State.undefine_tidy
    | with_reducible apply State.wrongEpoch_tidy
    | with_reducible apply State.Tidy.ite
    | with_reducible apply State.Tidy.each
    | (with_reducible refine State.mk_tidy rfl ?_; first | with_reducible assumption | (with_reducible refine State.clxItem_tidy _ _ _ _ ?_ _ (by assumption)))
    | split

theorem execAbort_tidy (e : Fin 32) (p : Path) (h : ItemHdr) (s : State) (h_s : s.Tidy) : ∀ t_, execAbort e p h s =
    .next t_ → t_.Tidy := by
  intro t_ h_
  unfold execAbort at h_
  repeat' first
    | (injection h_ with h_; subst h_)
    | split at h_
    | cases h_
  all_goals
    repeat' first
      | with_reducible assumption
      | with_reducible apply State.abortItem_tidy

theorem State.landedItem_tidy (s : State) (e : Nat) (p : Path) (h : ItemHdr) (denied badCell : Bool) (h_s : s.Tidy) :
    (State.landedItem s e p h denied badCell).Tidy := by
  unfold State.landedItem
  repeat' first
    | with_reducible assumption
    | (subst x_)
    | (focus ((try lift_lets); intro x_; (first | (have q_ : Clx := x_)); clear q_; subst x_))
    | with_reducible apply State.Tidy.getD
    | (with_reducible refine State.clxItem_tidy _ _ _ _ ?_)
    | (with_reducible refine State.clxItem_tidy _ _ _ _ ?_ _ (by assumption))
    | with_reducible apply State.collFail_tidy
    | with_reducible apply State.done_tidy
    | with_reducible apply State.fail_tidy
    | with_reducible apply State.mapCmd_tidy
    | with_reducible apply State.stampFloor_tidy
    | with_reducible apply State.wrongEpoch_tidy
    | with_reducible apply State.Tidy.ite
    | (with_reducible refine State.mk_tidy rfl ?_; first | with_reducible assumption | (with_reducible refine State.clxItem_tidy _ _ _ _ ?_ _ (by assumption)))
    | split

theorem execLanded_tidy (e : Fin 32) (p : Path) (h : ItemHdr) (denied badCell : Bool) (s : State) (h_s : s.Tidy) : ∀
    t_, execLanded e p h denied badCell s = .next t_ → t_.Tidy := by
  intro t_ h_
  unfold execLanded at h_
  repeat' first
    | (injection h_ with h_; subst h_)
    | split at h_
    | cases h_
  all_goals
    repeat' first
      | with_reducible assumption
      | with_reducible apply State.landedItem_tidy

end Sys2Proof.Machine
end

