-- ==== Sys2Proof/Laws/TidySummary.lean ====
section
/-! SUPPORT. Every function of Machine/Summary.lean that answers a state keeps the canonical form (`State.Tidy`): one lemma
per function, named after it. -/

namespace Sys2Proof.Machine

theorem State.noiseTotal_tidy (s : State) (h_s : s.Tidy) : (State.noiseTotal s).Tidy := by
  unfold State.noiseTotal
  repeat' first
    | with_reducible assumption
    | (with_reducible refine Keeps.intro (fun s_ y_ h_ => ?_))
    | (subst x_)
    | (focus ((try lift_lets); intro x_; (fail_if_success (have q_ : x_ = fun a_ => x_ a_ := rfl)); clear_value x_))
    | with_reducible apply State.put_tidy

theorem State.statsGate_tidy (s : State) (opens : Bool) (t : Nat) (h_s : s.Tidy) : (State.statsGate s opens t).Tidy
    := by
  unfold State.statsGate
  repeat' first
    | with_reducible assumption
    | (with_reducible refine Keeps.intro (fun s_ y_ h_ => ?_))
    | (focus ((try lift_lets); intro x_; refine (fun (h_ : State.Tidy x_) => ?_) ?_; clear_value x_))
    | (subst x_)
    | (focus ((try lift_lets); intro x_; (first | (have q_ : Clx := x_)); clear q_; subst x_))
    | with_reducible apply State.flag_tidy
    | with_reducible apply State.noiseTotal_tidy
    | with_reducible apply State.put_tidy
    | with_reducible apply State.Tidy.ite
    | with_reducible apply State.Tidy.each
    | (with_reducible refine State.mk_tidy rfl ?_; first | with_reducible assumption)

theorem State.healthSeal_tidy (s : State) (h_s : s.Tidy) : (State.healthSeal s).Tidy := by
  have hb : ∀ l : List Nat,
      Table.wf (fun _ => 0) (l.foldl (fun t a => Table.set (fun _ => 0) t a (s.word a % 2 ^ 48)) []) := fun l =>
    foldl_keeps (P := Table.wf fun _ => 0) (fun _ _ h => Table.wf_set _ _ _ _ h) l (Table.wf_nil _)
  unfold State.healthSeal
  have h := hb healthAll
  generalize healthAll.foldl (fun t a => Table.set (fun _ => 0) t a (s.word a % 2 ^ 48)) [] = base at h ⊢
  exact State.put_tidy _ _ _ { h_s with health := h }

theorem State.rebase_tidy (s : State) (a new : Nat) (h_s : s.Tidy) : (State.rebase s a new).Tidy := by
  unfold State.rebase
  repeat' first
    | with_reducible assumption
    | (subst x_)
    | (focus ((try lift_lets); intro x_; (first | (have q_ : Snp := x_)); clear q_; subst x_))
    | with_reducible apply State.Tidy.ite
    | split
    | (with_reducible apply State.mk_wf <;> (repeat' first | exact Table.wf_nil _ | (exact queueWaits_wf Wait.queue (fun _ q => { q with wait := WaitSt.absent }) _ _ (State.Tidy.queues (by with_reducible assumption))) | exact List.Pairwise.nil | (with_reducible apply Table.wf_filter) | (with_reducible apply Table.wf_set) | (with_reducible apply pairwise_setInsert) | (with_reducible apply pairwise_setErase) | (with_reducible apply List.Pairwise.filter) | (exact State.Tidy.regs (by with_reducible assumption)) | (exact State.Tidy.mem (by with_reducible assumption)) | (exact State.Tidy.cells (by with_reducible assumption)) | (exact State.Tidy.queues (by with_reducible assumption)) | (exact State.Tidy.jobs (by with_reducible assumption)) | (exact State.Tidy.gates (by with_reducible assumption)) | (exact State.Tidy.pages (by with_reducible assumption)) | (exact State.Tidy.poison (by with_reducible assumption)) | (exact State.Tidy.units (by with_reducible assumption)) | (exact State.Tidy.links (by with_reducible assumption)) | (exact State.Tidy.bundles (by with_reducible assumption)) | (exact State.Tidy.actions (by with_reducible assumption)) | (exact State.Tidy.ports (by with_reducible assumption)) | (exact State.Tidy.sampled (by with_reducible assumption)) | (exact State.Tidy.markers (by with_reducible assumption)) | (exact State.Tidy.lostGen (by with_reducible assumption)) | (exact State.Tidy.lostSet (by with_reducible assumption)) | (exact State.Tidy.chosen (by with_reducible assumption)) | (exact State.Tidy.causes (by with_reducible assumption)) | (exact State.Tidy.moved (by with_reducible assumption)) | (exact State.Tidy.parts (by with_reducible assumption)) | (exact State.Tidy.crossing (by with_reducible assumption)) | (exact State.Tidy.image (by with_reducible assumption)) | (exact State.Tidy.chain (by with_reducible assumption)) | (exact State.Tidy.steps (by with_reducible assumption)) | (exact State.Tidy.reading (by with_reducible assumption)) | (exact State.Tidy.weights (by with_reducible assumption)) | (exact State.Tidy.dealt (by with_reducible assumption)) | (exact State.Tidy.health (by with_reducible assumption)) | (exact State.Tidy.meas (by with_reducible assumption)) | (exact State.Tidy.sums (by with_reducible assumption)) | (exact State.Tidy.spdm (by with_reducible assumption)) | (exact State.Tidy.ide (by with_reducible assumption)) | (exact State.Tidy.ids (by with_reducible assumption)) | (simp only [List.map_nil, List.nil_append, List.pairwise_singleton]; done) | (refine forUpto_wf (fun i_ m_ h_ => ?_) _ ?_) | with_reducible assumption | (intro p_ hp_; first | (exact State.Tidy.order (by with_reducible assumption) p_ hp_) | (exact State.Tidy.order (by with_reducible assumption) p_ (List.mem_filter.mp hp_).1) | (exact absurd hp_ (List.not_mem_nil)))))

theorem State.governor_tidy (s : State) (t : Nat) (h_s : s.Tidy) : (State.governor s t).Tidy := by
  unfold State.governor
  repeat' first
    | with_reducible assumption
    | (focus ((try lift_lets); intro x_; refine (fun (h_ : State.Tidy x_) => ?_) ?_; clear_value x_))
    | (subst x_)
    | (focus ((try lift_lets); intro x_; refine (fun (h_ : State.Tidy x_.2) => ?_) ?_; clear_value x_))
    | (focus ((try lift_lets); intro x_; (fail_if_success (have q_ : x_ = fun a_ => x_ a_ := rfl)); clear_value x_))
    | ((try lift_lets); intro x_)
    | with_reducible apply State.draw_tidy
    | with_reducible apply State.flag_tidy
    | with_reducible apply State.put_tidy
    | with_reducible apply State.Tidy.ite
    | (with_reducible refine State.mk_tidy rfl ?_; first | with_reducible assumption)
    | split

theorem State.sendSummary_tidy (s : State) (g : Nat) (i : SummaryItem) (h_s : s.Tidy) : (State.sendSummary s g
    i).Tidy := by
  unfold State.sendSummary
  repeat' first
    | with_reducible assumption
    | (subst x_)
    | with_reducible apply State.countItem_tidy
    | with_reducible apply State.sendRank_tidy
    | (with_reducible refine State.mk_tidy rfl ?_; first | with_reducible assumption)
    | split

theorem State.setStageWord_tidy (s : State) (k : Nat) (w : StageWord) (h_s : s.Tidy) : (State.setStageWord s k
    w).Tidy := by
  unfold State.setStageWord
  repeat' first
    | with_reducible assumption
    | (subst x_)
    | (focus ((try lift_lets); intro x_; (first | (have q_ : Clx := x_)); clear q_; subst x_))
    | (with_reducible apply State.mk_wf <;> (repeat' first | exact Table.wf_nil _ | (exact queueWaits_wf Wait.queue (fun _ q => { q with wait := WaitSt.absent }) _ _ (State.Tidy.queues (by with_reducible assumption))) | exact List.Pairwise.nil | (with_reducible apply Table.wf_filter) | (with_reducible apply Table.wf_set) | (with_reducible apply pairwise_setInsert) | (with_reducible apply pairwise_setErase) | (with_reducible apply List.Pairwise.filter) | (exact State.Tidy.regs (by with_reducible assumption)) | (exact State.Tidy.mem (by with_reducible assumption)) | (exact State.Tidy.cells (by with_reducible assumption)) | (exact State.Tidy.queues (by with_reducible assumption)) | (exact State.Tidy.jobs (by with_reducible assumption)) | (exact State.Tidy.gates (by with_reducible assumption)) | (exact State.Tidy.pages (by with_reducible assumption)) | (exact State.Tidy.poison (by with_reducible assumption)) | (exact State.Tidy.units (by with_reducible assumption)) | (exact State.Tidy.links (by with_reducible assumption)) | (exact State.Tidy.bundles (by with_reducible assumption)) | (exact State.Tidy.actions (by with_reducible assumption)) | (exact State.Tidy.ports (by with_reducible assumption)) | (exact State.Tidy.sampled (by with_reducible assumption)) | (exact State.Tidy.markers (by with_reducible assumption)) | (exact State.Tidy.lostGen (by with_reducible assumption)) | (exact State.Tidy.lostSet (by with_reducible assumption)) | (exact State.Tidy.chosen (by with_reducible assumption)) | (exact State.Tidy.causes (by with_reducible assumption)) | (exact State.Tidy.moved (by with_reducible assumption)) | (exact State.Tidy.parts (by with_reducible assumption)) | (exact State.Tidy.crossing (by with_reducible assumption)) | (exact State.Tidy.image (by with_reducible assumption)) | (exact State.Tidy.chain (by with_reducible assumption)) | (exact State.Tidy.steps (by with_reducible assumption)) | (exact State.Tidy.reading (by with_reducible assumption)) | (exact State.Tidy.weights (by with_reducible assumption)) | (exact State.Tidy.dealt (by with_reducible assumption)) | (exact State.Tidy.health (by with_reducible assumption)) | (exact State.Tidy.meas (by with_reducible assumption)) | (exact State.Tidy.sums (by with_reducible assumption)) | (exact State.Tidy.spdm (by with_reducible assumption)) | (exact State.Tidy.ide (by with_reducible assumption)) | (exact State.Tidy.ids (by with_reducible assumption)) | (simp only [List.map_nil, List.nil_append, List.pairwise_singleton]; done) | (refine forUpto_wf (fun i_ m_ h_ => ?_) _ ?_) | with_reducible assumption | (intro p_ hp_; first | (exact State.Tidy.order (by with_reducible assumption) p_ hp_) | (exact State.Tidy.order (by with_reducible assumption) p_ (List.mem_filter.mp hp_).1) | (exact absurd hp_ (List.not_mem_nil)))))

theorem State.jobWordMaybe_tidy (s : State) (h_s : s.Tidy) : (State.jobWordMaybe s).Tidy := by
  unfold State.jobWordMaybe
  repeat' first
    | with_reducible assumption
    | (with_reducible refine Keeps.intro (fun s_ y_ h_ => ?_))
    | (focus ((try lift_lets); intro x_; refine (fun (h_ : State.Tidy x_) => ?_) ?_; clear_value x_))
    | (subst x_)
    | (focus ((try lift_lets); intro x_; (first | (have q_ : Clx := x_)); clear q_; subst x_))
    | with_reducible apply State.setGate_tidy
    | with_reducible apply State.Tidy.ite
    | with_reducible apply State.Tidy.foldl
    | (with_reducible refine State.mk_tidy rfl ?_; first | with_reducible assumption)

theorem State.stageDone_tidy (s : State) (w : StageWord) (sums : List (Nat × Stat)) (h_s : s.Tidy) : (State.stageDone
    s w sums).Tidy := by
  unfold State.stageDone
  repeat' first
    | with_reducible assumption
    | (focus ((try lift_lets); intro x_; refine (fun (h_ : State.Tidy x_) => ?_) ?_; clear_value x_))
    | (subst x_)
    | (focus ((try lift_lets); intro x_; refine (fun (h_ : State.Tidy x_.2) => ?_) ?_; clear_value x_))
    | (focus ((try lift_lets); intro x_; refine (fun (h_ : State.Tidy x_.1) => ?_) ?_; clear_value x_))
    | (focus ((try lift_lets); intro x_; (first | (have q_ : Clx := x_)); clear q_; subst x_))
    | (focus ((try lift_lets); intro x_; (fail_if_success (have q_ : x_ = fun a_ => x_ a_ := rfl)); clear_value x_))
    | ((try lift_lets); intro x_)
    | with_reducible apply State.count_tidy
    | with_reducible apply State.jobWordMaybe_tidy
    | with_reducible apply State.sendSummary_tidy
    | with_reducible apply State.setStageWord_tidy
    | (with_reducible refine State.mk_tidy rfl ?_; first | with_reducible assumption)
    | (with_reducible apply State.mk_wf <;> (repeat' first | exact Table.wf_nil _ | (exact queueWaits_wf Wait.queue (fun _ q => { q with wait := WaitSt.absent }) _ _ (State.Tidy.queues (by with_reducible assumption))) | exact List.Pairwise.nil | (with_reducible apply Table.wf_filter) | (with_reducible apply Table.wf_set) | (with_reducible apply pairwise_setInsert) | (with_reducible apply pairwise_setErase) | (with_reducible apply List.Pairwise.filter) | (exact State.Tidy.regs (by with_reducible assumption)) | (exact State.Tidy.mem (by with_reducible assumption)) | (exact State.Tidy.cells (by with_reducible assumption)) | (exact State.Tidy.queues (by with_reducible assumption)) | (exact State.Tidy.jobs (by with_reducible assumption)) | (exact State.Tidy.gates (by with_reducible assumption)) | (exact State.Tidy.pages (by with_reducible assumption)) | (exact State.Tidy.poison (by with_reducible assumption)) | (exact State.Tidy.units (by with_reducible assumption)) | (exact State.Tidy.links (by with_reducible assumption)) | (exact State.Tidy.bundles (by with_reducible assumption)) | (exact State.Tidy.actions (by with_reducible assumption)) | (exact State.Tidy.ports (by with_reducible assumption)) | (exact State.Tidy.sampled (by with_reducible assumption)) | (exact State.Tidy.markers (by with_reducible assumption)) | (exact State.Tidy.lostGen (by with_reducible assumption)) | (exact State.Tidy.lostSet (by with_reducible assumption)) | (exact State.Tidy.chosen (by with_reducible assumption)) | (exact State.Tidy.causes (by with_reducible assumption)) | (exact State.Tidy.moved (by with_reducible assumption)) | (exact State.Tidy.parts (by with_reducible assumption)) | (exact State.Tidy.crossing (by with_reducible assumption)) | (exact State.Tidy.image (by with_reducible assumption)) | (exact State.Tidy.chain (by with_reducible assumption)) | (exact State.Tidy.steps (by with_reducible assumption)) | (exact State.Tidy.reading (by with_reducible assumption)) | (exact State.Tidy.weights (by with_reducible assumption)) | (exact State.Tidy.dealt (by with_reducible assumption)) | (exact State.Tidy.health (by with_reducible assumption)) | (exact State.Tidy.meas (by with_reducible assumption)) | (exact State.Tidy.sums (by with_reducible assumption)) | (exact State.Tidy.spdm (by with_reducible assumption)) | (exact State.Tidy.ide (by with_reducible assumption)) | (exact State.Tidy.ids (by with_reducible assumption)) | (simp only [List.map_nil, List.nil_append, List.pairwise_singleton]; done) | (refine forUpto_wf (fun i_ m_ h_ => ?_) _ ?_) | with_reducible assumption | (intro p_ hp_; first | (exact State.Tidy.order (by with_reducible assumption) p_ hp_) | (exact State.Tidy.order (by with_reducible assumption) p_ (List.mem_filter.mp hp_).1) | (exact absurd hp_ (List.not_mem_nil)))))

theorem State.addOwn_tidy (s : State) (w : StageWord) (sums : List (Nat × Stat)) (h_s : s.Tidy) : (State.addOwn s w
    sums).Tidy := by
  unfold State.addOwn
  repeat' first
    | with_reducible assumption
    | (subst x_)
    | (focus ((try lift_lets); intro x_; (first | (have q_ : Clx := x_)); clear q_; subst x_))
    | with_reducible apply State.sendSummary_tidy
    | with_reducible apply State.stageDone_tidy
    | with_reducible apply State.Tidy.ite

theorem State.summaryStart_tidy (s : State) (word : Nat) (h_s : s.Tidy) : (State.summaryStart s word).Tidy := by
  unfold State.summaryStart
  repeat' first
    | with_reducible assumption
    | (focus ((try lift_lets); intro x_; refine (fun (h_ : State.Tidy x_) => ?_) ?_; clear_value x_))
    | (subst x_)
    | (focus ((try lift_lets); intro x_; (first | (have q_ : Clx := x_)); clear q_; subst x_))
    | with_reducible apply State.addOwn_tidy
    | with_reducible apply State.Tidy.ite
    | split
    | (with_reducible apply State.mk_wf <;> (repeat' first | exact Table.wf_nil _ | (exact queueWaits_wf Wait.queue (fun _ q => { q with wait := WaitSt.absent }) _ _ (State.Tidy.queues (by with_reducible assumption))) | exact List.Pairwise.nil | (with_reducible apply Table.wf_filter) | (with_reducible apply Table.wf_set) | (with_reducible apply pairwise_setInsert) | (with_reducible apply pairwise_setErase) | (with_reducible apply List.Pairwise.filter) | (exact State.Tidy.regs (by with_reducible assumption)) | (exact State.Tidy.mem (by with_reducible assumption)) | (exact State.Tidy.cells (by with_reducible assumption)) | (exact State.Tidy.queues (by with_reducible assumption)) | (exact State.Tidy.jobs (by with_reducible assumption)) | (exact State.Tidy.gates (by with_reducible assumption)) | (exact State.Tidy.pages (by with_reducible assumption)) | (exact State.Tidy.poison (by with_reducible assumption)) | (exact State.Tidy.units (by with_reducible assumption)) | (exact State.Tidy.links (by with_reducible assumption)) | (exact State.Tidy.bundles (by with_reducible assumption)) | (exact State.Tidy.actions (by with_reducible assumption)) | (exact State.Tidy.ports (by with_reducible assumption)) | (exact State.Tidy.sampled (by with_reducible assumption)) | (exact State.Tidy.markers (by with_reducible assumption)) | (exact State.Tidy.lostGen (by with_reducible assumption)) | (exact State.Tidy.lostSet (by with_reducible assumption)) | (exact State.Tidy.chosen (by with_reducible assumption)) | (exact State.Tidy.causes (by with_reducible assumption)) | (exact State.Tidy.moved (by with_reducible assumption)) | (exact State.Tidy.parts (by with_reducible assumption)) | (exact State.Tidy.crossing (by with_reducible assumption)) | (exact State.Tidy.image (by with_reducible assumption)) | (exact State.Tidy.chain (by with_reducible assumption)) | (exact State.Tidy.steps (by with_reducible assumption)) | (exact State.Tidy.reading (by with_reducible assumption)) | (exact State.Tidy.weights (by with_reducible assumption)) | (exact State.Tidy.dealt (by with_reducible assumption)) | (exact State.Tidy.health (by with_reducible assumption)) | (exact State.Tidy.meas (by with_reducible assumption)) | (exact State.Tidy.sums (by with_reducible assumption)) | (exact State.Tidy.spdm (by with_reducible assumption)) | (exact State.Tidy.ide (by with_reducible assumption)) | (exact State.Tidy.ids (by with_reducible assumption)) | (simp only [List.map_nil, List.nil_append, List.pairwise_singleton]; done) | (refine forUpto_wf (fun i_ m_ h_ => ?_) _ ?_) | with_reducible assumption | (intro p_ hp_; first | (exact State.Tidy.order (by with_reducible assumption) p_ hp_) | (exact State.Tidy.order (by with_reducible assumption) p_ (List.mem_filter.mp hp_).1) | (exact absurd hp_ (List.not_mem_nil)))))

theorem State.summaryItemIn_tidy (s : State) (e : Nat) (i : SummaryItem) (h_s : s.Tidy) : (State.summaryItemIn s e
    i).Tidy := by
  unfold State.summaryItemIn
  repeat' first
    | with_reducible assumption
    | (with_reducible refine Keeps.intro (fun s_ y_ h_ => ?_))
    | (focus ((try lift_lets); intro x_; refine (fun (h_ : State.Tidy x_) => ?_) ?_; clear_value x_))
    | (subst x_)
    | (focus ((try lift_lets); intro x_; (first | (have q_ : Clx := x_)); clear q_; subst x_))
    | with_reducible apply State.addOwn_tidy
    | with_reducible apply State.Tidy.getD
    | (with_reducible refine State.clxItem_tidy _ _ _ _ ?_)
    | (with_reducible refine State.clxItem_tidy _ _ _ _ ?_ _ (by assumption))
    | with_reducible apply State.count_tidy
    | with_reducible apply State.jobWordMaybe_tidy
    | with_reducible apply State.sendSummary_tidy
    | with_reducible apply State.setStageWord_tidy
    | with_reducible apply State.stageDone_tidy
    | with_reducible apply State.wrongEpoch_tidy
    | with_reducible apply State.Tidy.ite
    | with_reducible apply State.Tidy.foldl
    | (with_reducible refine State.mk_tidy rfl ?_; first | with_reducible assumption | (with_reducible refine State.clxItem_tidy _ _ _ _ ?_ _ (by assumption)))
    | split

theorem execSummary_tidy (e : Fin 32) (i : SummaryItem) (s : State) (h_s : s.Tidy) : ∀ t_, execSummary e i s = .next
    t_ → t_.Tidy := by
  intro t_ h_
  unfold execSummary at h_
  repeat' first
    | (injection h_ with h_; subst h_)
    | split at h_
    | cases h_
  all_goals
    repeat' first
      | with_reducible assumption
      | with_reducible apply State.summaryItemIn_tidy

theorem State.layoutApply_tidy (s : State) (h_s : s.Tidy) : (State.layoutApply s).Tidy := by
  unfold State.layoutApply
  repeat' first
    | with_reducible assumption
    | (with_reducible refine Keeps.intro (fun s_ y_ h_ => ?_))
    | (focus ((try lift_lets); intro x_; refine (fun (h_ : State.Tidy x_) => ?_) ?_; clear_value x_))
    | (subst x_)
    | (focus ((try lift_lets); intro x_; refine (fun (h_ : State.Tidy x_.2) => ?_) ?_; clear_value x_))
    | (focus ((try lift_lets); intro x_; refine (fun (h_ : State.Tidy x_.1) => ?_) ?_; clear_value x_))
    | (focus ((try lift_lets); intro x_; (first | (have q_ : Clx := x_)); clear q_; subst x_))
    | (focus ((try lift_lets); intro x_; (fail_if_success (have q_ : x_ = fun a_ => x_ a_ := rfl)); clear_value x_))
    | ((try lift_lets); intro x_)
    | with_reducible apply State.clxRelease_tidy
    | with_reducible apply State.count_tidy
    | with_reducible apply State.intSet_tidy
    | with_reducible apply State.put_tidy
    | with_reducible apply State.setWord_tidy
    | with_reducible apply State.Tidy.ite
    | with_reducible apply State.Tidy.each
    | (with_reducible refine State.mk_tidy rfl ?_; first | with_reducible assumption)
    | split

end Sys2Proof.Machine
end

