-- ==== Sys2Proof/Laws/TidyGate.lean ====
section
/-! SUPPORT. Every function of Machine/Gate.lean that answers a state keeps the canonical form (`State.Tidy`): one lemma
per function, named after it. -/

namespace Sys2Proof.Machine

theorem State.gateTake_tidy (s : State) (c : Cmd) (opens : Bool) (h_s : s.Tidy) : (State.gateTake s c opens).Tidy := by
  unfold State.gateTake
  repeat' first
    | with_reducible assumption
    | (focus ((try lift_lets); intro x_; refine (fun (h_ : State.Tidy x_) => ?_) ?_; clear_value x_))
    | (subst x_)
    | (focus ((try lift_lets); intro x_; (fail_if_success (have q_ : x_ = fun a_ => x_ a_ := rfl)); clear_value x_))
    | ((try lift_lets); intro x_)
    | with_reducible apply State.done_tidy
    | with_reducible apply State.fail_tidy
    | with_reducible apply State.setQueue_tidy
    | with_reducible apply State.signalLive_tidy
    | with_reducible apply State.Tidy.ite
    | (with_reducible refine State.mk_tidy rfl ?_; first | with_reducible assumption)
    | split

theorem State.stepGate_tidy (s : State) (c : Cmd) (h_s : s.Tidy) : (State.stepGate s c).Tidy := by
  unfold State.stepGate
  repeat' first
    | with_reducible assumption
    | (subst x_)
    | with_reducible apply State.gateTake_tidy
    | with_reducible apply State.mapCmd_tidy
    | with_reducible apply State.put_tidy
    | with_reducible apply State.Tidy.ite

theorem execStepGate_tidy (d : Fin 4) (q : Fin 64) (ext : HostSlot) (s : State) (h_s : s.Tidy) : ∀ t_, execStepGate d
    q ext s = .next t_ → t_.Tidy := by
  intro t_ h_
  unfold execStepGate at h_
  repeat' first
    | (injection h_ with h_; subst h_)
    | split at h_
    | cases h_
  all_goals
    repeat' first
      | with_reducible assumption
      | (with_reducible refine Keeps.intro (fun s_ y_ h_ => ?_))
      | with_reducible apply State.stepGate_tidy
      | with_reducible apply State.v2_tidy

theorem State.gateWordForm_tidy (s : State) (ctx : Nat) (h_s : s.Tidy) : (State.gateWordForm s ctx).Tidy := by
  unfold State.gateWordForm
  repeat' first
    | with_reducible assumption
    | (with_reducible refine Keeps.intro (fun s_ y_ h_ => ?_))
    | (subst x_)
    | with_reducible apply State.setGate_tidy
    | with_reducible apply State.summaryStart_tidy
    | with_reducible apply State.Tidy.ite

theorem execGateWordForm_tidy (c : Ctx) (s : State) (h_s : s.Tidy) : ∀ t_, execGateWordForm c s = .next t_ → t_.Tidy
    := by
  intro t_ h_
  unfold execGateWordForm at h_
  repeat' first
    | (injection h_ with h_; subst h_)
    | split at h_
    | cases h_
  all_goals
    repeat' first
      | with_reducible assumption
      | with_reducible apply State.gateWordForm_tidy

theorem State.historyUpdate_tidy (s : State) (d ctx : Nat) (l : List (Nat × Nat)) (h_s : s.Tidy) :
    (State.historyUpdate s d ctx l).Tidy := by
  unfold State.historyUpdate
  repeat' first
    | with_reducible assumption
    | (with_reducible refine Keeps.intro (fun s_ y_ h_ => ?_))
    | (focus ((try lift_lets); intro x_; refine (fun (h_ : State.Tidy x_) => ?_) ?_; clear_value x_))
    | (subst x_)
    | with_reducible apply State.putEntry_tidy
    | with_reducible apply State.Tidy.each
    | (with_reducible refine State.mk_tidy rfl ?_; first | with_reducible assumption)
    | split

theorem State.discardAmax_tidy (s : State) (d ctx : Nat) (h_s : s.Tidy) : (State.discardAmax s d ctx).Tidy := by
  unfold State.discardAmax
  repeat' first
    | with_reducible assumption
    | (with_reducible refine Keeps.intro (fun s_ y_ h_ => ?_))
    | (subst x_)
    | with_reducible apply State.putEntry_tidy
    | with_reducible apply State.Tidy.each
    | (with_reducible refine State.mk_tidy rfl ?_; first | with_reducible assumption)
    | split

theorem State.firstEvaluation_tidy (s : State) (opens : Bool) (t : Nat) (h_s : s.Tidy) : (State.firstEvaluation s
    opens t).Tidy := by
  unfold State.firstEvaluation
  repeat' first
    | with_reducible assumption
    | (focus ((try lift_lets); intro x_; refine (fun (h_ : State.Tidy x_) => ?_) ?_; clear_value x_))
    | (subst x_)
    | (focus ((try lift_lets); intro x_; (first | (have q_ : Clx := x_)); clear q_; subst x_))
    | with_reducible apply State.flag_tidy
    | with_reducible apply State.governor_tidy
    | with_reducible apply State.statsGate_tidy
    | with_reducible apply State.Tidy.ite
    | (with_reducible refine State.mk_tidy rfl ?_; first | with_reducible assumption)

theorem State.gateSettle_tidy (s : State) (ctx : Nat) (h_s : s.Tidy) : (State.gateSettle s ctx).Tidy := by
  unfold State.gateSettle
  repeat' first
    | with_reducible assumption
    | (focus ((try lift_lets); intro x_; refine (fun (h_ : State.Tidy x_) => ?_) ?_; clear_value x_))
    | (subst x_)
    | (focus ((try lift_lets); intro x_; (first | (have q_ : Clx := x_)); clear q_; subst x_))
    | (focus ((try lift_lets); intro x_; (fail_if_success (have q_ : x_ = fun a_ => x_ a_ := rfl)); clear_value x_))
    | ((try lift_lets); intro x_)
    | with_reducible apply State.done_tidy
    | with_reducible apply State.setGate_tidy
    | with_reducible apply State.Tidy.ite
    | (with_reducible refine State.mk_tidy rfl ?_; first | with_reducible assumption)
    | split
    | (with_reducible apply State.mk_wf <;> (repeat' first | exact Table.wf_nil _ | (exact queueWaits_wf Wait.queue (fun _ q => { q with wait := WaitSt.absent }) _ _ (State.Tidy.queues (by with_reducible assumption))) | exact List.Pairwise.nil | (with_reducible apply Table.wf_filter) | (with_reducible apply Table.wf_set) | (with_reducible apply pairwise_setInsert) | (with_reducible apply pairwise_setErase) | (with_reducible apply List.Pairwise.filter) | (exact State.Tidy.regs (by with_reducible assumption)) | (exact State.Tidy.mem (by with_reducible assumption)) | (exact State.Tidy.cells (by with_reducible assumption)) | (exact State.Tidy.queues (by with_reducible assumption)) | (exact State.Tidy.jobs (by with_reducible assumption)) | (exact State.Tidy.gates (by with_reducible assumption)) | (exact State.Tidy.pages (by with_reducible assumption)) | (exact State.Tidy.poison (by with_reducible assumption)) | (exact State.Tidy.units (by with_reducible assumption)) | (exact State.Tidy.links (by with_reducible assumption)) | (exact State.Tidy.bundles (by with_reducible assumption)) | (exact State.Tidy.actions (by with_reducible assumption)) | (exact State.Tidy.ports (by with_reducible assumption)) | (exact State.Tidy.sampled (by with_reducible assumption)) | (exact State.Tidy.markers (by with_reducible assumption)) | (exact State.Tidy.lostGen (by with_reducible assumption)) | (exact State.Tidy.lostSet (by with_reducible assumption)) | (exact State.Tidy.chosen (by with_reducible assumption)) | (exact State.Tidy.causes (by with_reducible assumption)) | (exact State.Tidy.moved (by with_reducible assumption)) | (exact State.Tidy.parts (by with_reducible assumption)) | (exact State.Tidy.crossing (by with_reducible assumption)) | (exact State.Tidy.image (by with_reducible assumption)) | (exact State.Tidy.chain (by with_reducible assumption)) | (exact State.Tidy.steps (by with_reducible assumption)) | (exact State.Tidy.reading (by with_reducible assumption)) | (exact State.Tidy.weights (by with_reducible assumption)) | (exact State.Tidy.dealt (by with_reducible assumption)) | (exact State.Tidy.health (by with_reducible assumption)) | (exact State.Tidy.meas (by with_reducible assumption)) | (exact State.Tidy.sums (by with_reducible assumption)) | (exact State.Tidy.spdm (by with_reducible assumption)) | (exact State.Tidy.ide (by with_reducible assumption)) | (exact State.Tidy.ids (by with_reducible assumption)) | (simp only [List.map_nil, List.nil_append, List.pairwise_singleton]; done) | (refine forUpto_wf (fun i_ m_ h_ => ?_) _ ?_) | with_reducible assumption | (intro p_ hp_; first | (exact State.Tidy.order (by with_reducible assumption) p_ hp_) | (exact State.Tidy.order (by with_reducible assumption) p_ (List.mem_filter.mp hp_).1) | (exact absurd hp_ (List.not_mem_nil)))))

theorem State.evaluate_tidy (s : State) (d ctx word : Nat) (h_s : s.Tidy) : (State.evaluate s d ctx word).Tidy := by
  unfold State.evaluate
  repeat' first
    | with_reducible assumption
    | (with_reducible refine Keeps.intro (fun s_ y_ h_ => ?_))
    | (focus ((try lift_lets); intro x_; refine (fun (h_ : State.Tidy x_) => ?_) ?_; clear_value x_))
    | (subst x_)
    | with_reducible apply State.count_tidy
    | with_reducible apply State.discardAmax_tidy
    | with_reducible apply State.done_tidy
    | with_reducible apply State.firstEvaluation_tidy
    | with_reducible apply State.flag_tidy
    | with_reducible apply State.gateSettle_tidy
    | with_reducible apply State.gateTake_tidy
    | with_reducible apply State.historyUpdate_tidy
    | with_reducible apply State.intSet_tidy
    | with_reducible apply State.numEvent_tidy
    | with_reducible apply State.putCauses_tidy
    | with_reducible apply State.put_tidy
    | with_reducible apply State.setGate_tidy
    | with_reducible apply State.setJob_tidy
    | with_reducible apply State.Tidy.ite
    | with_reducible apply State.Tidy.each

theorem State.gateEvaluation_tidy (s : State) (d ctx : Nat) (h_s : s.Tidy) : (State.gateEvaluation s d ctx).Tidy := by
  unfold State.gateEvaluation
  repeat' first
    | with_reducible assumption
    | (focus ((try lift_lets); intro x_; refine (fun (h_ : State.Tidy x_) => ?_) ?_; clear_value x_))
    | (subst x_)
    | (focus ((try lift_lets); intro x_; (fail_if_success (have q_ : x_ = fun a_ => x_ a_ := rfl)); clear_value x_))
    | ((try lift_lets); intro x_)
    | with_reducible apply State.done_tidy
    | with_reducible apply State.evaluate_tidy
    | with_reducible apply State.Tidy.ite
    | (with_reducible refine State.mk_tidy rfl ?_; first | with_reducible assumption)
    | split

theorem execGateEvaluation_tidy (d : Fin 4) (c : Ctx) (s : State) (h_s : s.Tidy) : ∀ t_, execGateEvaluation d c s =
    .next t_ → t_.Tidy := by
  intro t_ h_
  unfold execGateEvaluation at h_
  repeat' first
    | (injection h_ with h_; subst h_)
    | split at h_
    | cases h_
  all_goals
    repeat' first
      | with_reducible assumption
      | with_reducible apply State.gateEvaluation_tidy

end Sys2Proof.Machine
end

