-- ==== Sys2Proof/Laws/TidyFigure.lean ====
section
/-! SUPPORT. Every function of Machine/Figure.lean that answers a state keeps the canonical form (`State.Tidy`): one lemma
per function, named after it. -/

namespace Sys2Proof.Machine

theorem State.figNext_tidy (s : State) (y_ : Nat) (h_s : s.Tidy) : (State.figNext s y_).Tidy := by
  induction y_ generalizing s with
  | zero => unfold State.figNext; assumption
  | succ n_ ih_ =>
    unfold State.figNext
    repeat' first
      | with_reducible assumption
      | (focus ((try lift_lets); intro x_; refine (fun (h_ : State.Tidy x_) => ?_) ?_; clear_value x_))
      | (subst x_)
      | (focus ((try lift_lets); intro x_; (first | (have q_ : Fig := x_)); clear q_; subst x_))
      | with_reducible apply ih_
      | with_reducible apply State.count_tidy
      | with_reducible apply State.fail_tidy
      | with_reducible apply State.intSet_tidy
      | with_reducible apply State.put_tidy
      | with_reducible apply State.Tidy.ite
      | (with_reducible refine State.mk_tidy rfl ?_; first | with_reducible assumption)
      | split

theorem State.figGo_tidy (s : State) (h_s : s.Tidy) : (State.figGo s).Tidy := by
  unfold State.figGo
  repeat' first
    | with_reducible assumption
    | with_reducible apply State.figNext_tidy

theorem State.figureChange_tidy (s : State) (c : Cmd) (h_s : s.Tidy) : (State.figureChange s c).Tidy := by
  unfold State.figureChange
  repeat' first
    | with_reducible assumption
    | (focus ((try lift_lets); intro x_; refine (fun (h_ : State.Tidy x_) => ?_) ?_; clear_value x_))
    | (subst x_)
    | (focus ((try lift_lets); intro x_; (first | (have q_ : Fig := x_)); clear q_; subst x_))
    | (focus ((try lift_lets); intro x_; (fail_if_success (have q_ : x_ = fun a_ => x_ a_ := rfl)); clear_value x_))
    | ((try lift_lets); intro x_)
    | with_reducible apply State.figGo_tidy
    | with_reducible apply State.mapCmd_tidy
    | (with_reducible refine State.mk_tidy rfl ?_; first | with_reducible assumption)

theorem execFigureChange_tidy (d : Fin 4) (q : Fin 64) (ext : HostSlot) (s : State) (h_s : s.Tidy) : ∀ t_,
    execFigureChange d q ext s = .next t_ → t_.Tidy := by
  intro t_ h_
  unfold execFigureChange at h_
  repeat' first
    | (injection h_ with h_; subst h_)
    | split at h_
    | cases h_
  all_goals
    repeat' first
      | with_reducible assumption
      | (with_reducible refine Keeps.intro (fun s_ y_ h_ => ?_))
      | with_reducible apply State.figureChange_tidy
      | with_reducible apply State.v2_tidy

theorem State.weigh_tidy (s : State) (e : Nat) (h_s : s.Tidy) : (State.weigh s e).Tidy := by
  unfold State.weigh
  repeat' first
    | with_reducible assumption
    | (subst x_)
    | (focus ((try lift_lets); intro x_; (first | (have q_ : Fig := x_)); clear q_; subst x_))
    | (with_reducible apply State.mk_wf <;> (repeat' first | exact Table.wf_nil _ | (exact queueWaits_wf Wait.queue (fun _ q => { q with wait := WaitSt.absent }) _ _ (State.Tidy.queues (by with_reducible assumption))) | exact List.Pairwise.nil | (with_reducible apply Table.wf_filter) | (with_reducible apply Table.wf_set) | (with_reducible apply pairwise_setInsert) | (with_reducible apply pairwise_setErase) | (with_reducible apply List.Pairwise.filter) | (exact State.Tidy.regs (by with_reducible assumption)) | (exact State.Tidy.mem (by with_reducible assumption)) | (exact State.Tidy.cells (by with_reducible assumption)) | (exact State.Tidy.queues (by with_reducible assumption)) | (exact State.Tidy.jobs (by with_reducible assumption)) | (exact State.Tidy.gates (by with_reducible assumption)) | (exact State.Tidy.pages (by with_reducible assumption)) | (exact State.Tidy.poison (by with_reducible assumption)) | (exact State.Tidy.units (by with_reducible assumption)) | (exact State.Tidy.links (by with_reducible assumption)) | (exact State.Tidy.bundles (by with_reducible assumption)) | (exact State.Tidy.actions (by with_reducible assumption)) | (exact State.Tidy.ports (by with_reducible assumption)) | (exact State.Tidy.sampled (by with_reducible assumption)) | (exact State.Tidy.markers (by with_reducible assumption)) | (exact State.Tidy.lostGen (by with_reducible assumption)) | (exact State.Tidy.lostSet (by with_reducible assumption)) | (exact State.Tidy.chosen (by with_reducible assumption)) | (exact State.Tidy.causes (by with_reducible assumption)) | (exact State.Tidy.moved (by with_reducible assumption)) | (exact State.Tidy.parts (by with_reducible assumption)) | (exact State.Tidy.crossing (by with_reducible assumption)) | (exact State.Tidy.image (by with_reducible assumption)) | (exact State.Tidy.chain (by with_reducible assumption)) | (exact State.Tidy.steps (by with_reducible assumption)) | (exact State.Tidy.reading (by with_reducible assumption)) | (exact State.Tidy.weights (by with_reducible assumption)) | (exact State.Tidy.dealt (by with_reducible assumption)) | (exact State.Tidy.health (by with_reducible assumption)) | (exact State.Tidy.meas (by with_reducible assumption)) | (exact State.Tidy.sums (by with_reducible assumption)) | (exact State.Tidy.spdm (by with_reducible assumption)) | (exact State.Tidy.ide (by with_reducible assumption)) | (exact State.Tidy.ids (by with_reducible assumption)) | (simp only [List.map_nil, List.nil_append, List.pairwise_singleton]; done) | (refine forUpto_wf (fun i_ m_ h_ => ?_) _ ?_) | with_reducible assumption | (intro p_ hp_; first | (exact State.Tidy.order (by with_reducible assumption) p_ hp_) | (exact State.Tidy.order (by with_reducible assumption) p_ (List.mem_filter.mp hp_).1) | (exact absurd hp_ (List.not_mem_nil)))))

theorem State.swap_tidy (s : State) (x : Nat × Nat × Nat) (h_s : s.Tidy) : (State.swap s x).Tidy := by
  unfold State.swap
  repeat' first
    | with_reducible assumption
    | (with_reducible refine Keeps.intro (fun s_ y_ h_ => ?_))
    | (focus ((try lift_lets); intro x_; refine (fun (h_ : State.Tidy x_) => ?_) ?_; clear_value x_))
    | (subst x_)
    | (focus ((try lift_lets); intro x_; refine (fun (h_ : State.Tidy x_.2) => ?_) ?_; clear_value x_))
    | (focus ((try lift_lets); intro x_; refine (fun (h_ : State.Tidy x_.1) => ?_) ?_; clear_value x_))
    | (focus ((try lift_lets); intro x_; (first | (have q_ : Clx := x_) | (have q_ : Fig := x_)); clear q_; subst x_))
    | (focus ((try lift_lets); intro x_; (fail_if_success (have q_ : x_ = fun a_ => x_ a_ := rfl)); clear_value x_))
    | ((try lift_lets); intro x_)
    | with_reducible apply State.clxRelease_tidy
    | with_reducible apply State.count_tidy
    | with_reducible apply State.done_tidy
    | with_reducible apply State.figGo_tidy
    | with_reducible apply State.flushUnsent_tidy
    | with_reducible apply State.intSet_tidy
    | with_reducible apply State.pump_tidy
    | with_reducible apply State.put_tidy
    | with_reducible apply State.resetCredits_tidy
    | with_reducible apply State.weigh_tidy
    | with_reducible apply State.writeAlloc_tidy
    | with_reducible apply State.Tidy.ite
    | with_reducible apply State.Tidy.each
    | (with_reducible refine State.mk_tidy rfl ?_; first | with_reducible assumption)
    | split

theorem State.figureSwap_tidy (s : State) (h_s : s.Tidy) : (State.figureSwap s).Tidy := by
  unfold State.figureSwap
  repeat' first
    | with_reducible assumption
    | (subst x_)
    | (focus ((try lift_lets); intro x_; (first | (have q_ : Fig := x_)); clear q_; subst x_))
    | with_reducible apply State.swap_tidy
    | with_reducible apply State.Tidy.ite
    | (with_reducible refine State.mk_tidy rfl ?_; first | with_reducible assumption)
    | split

theorem execFigureSwap_tidy (s : State) (h_s : s.Tidy) : ∀ t_, execFigureSwap s = .next t_ → t_.Tidy := by
  intro t_ h_
  unfold execFigureSwap at h_
  repeat' first
    | (injection h_ with h_; subst h_)
    | split at h_
    | cases h_
  all_goals
    repeat' first
      | with_reducible assumption
      | with_reducible apply State.figureSwap_tidy

theorem State.figTimeout_tidy (s : State) (h_s : s.Tidy) : (State.figTimeout s).Tidy := by
  unfold State.figTimeout
  repeat' first
    | with_reducible assumption
    | (with_reducible refine Keeps.intro (fun s_ y_ h_ => ?_))
    | (focus ((try lift_lets); intro x_; refine (fun (h_ : State.Tidy x_) => ?_) ?_; clear_value x_))
    | (subst x_)
    | (focus ((try lift_lets); intro x_; refine (fun (h_ : State.Tidy x_.1) => ?_) ?_; clear_value x_))
    | (focus ((try lift_lets); intro x_; (first | (have q_ : Clx := x_) | (have q_ : Fig := x_)); clear q_; subst x_))
    | (focus ((try lift_lets); intro x_; (fail_if_success (have q_ : x_ = fun a_ => x_ a_ := rfl)); clear_value x_))
    | ((try lift_lets); intro x_)
    | with_reducible apply State.clxRelease_tidy
    | with_reducible apply State.count_tidy
    | with_reducible apply State.fail_tidy
    | with_reducible apply State.figGo_tidy
    | with_reducible apply State.flushUnsent_tidy
    | with_reducible apply State.intSet_tidy
    | with_reducible apply State.pump_tidy
    | with_reducible apply State.put_tidy
    | with_reducible apply State.Tidy.ite
    | with_reducible apply State.Tidy.each
    | (with_reducible refine State.mk_tidy rfl ?_; first | with_reducible assumption)
    | split

theorem execFigDrainTimeout_tidy (s : State) (h_s : s.Tidy) : ∀ t_, execFigDrainTimeout s = .next t_ → t_.Tidy := by
  intro t_ h_
  unfold execFigDrainTimeout at h_
  repeat' first
    | (injection h_ with h_; subst h_)
    | split at h_
    | cases h_
  all_goals
    repeat' first
      | with_reducible assumption
      | with_reducible apply State.figTimeout_tidy

theorem execReweight_tidy (e : Fin 32) (s : State) (h_s : s.Tidy) : ∀ t_, execReweight e s = .next t_ → t_.Tidy := by
  intro t_ h_
  unfold execReweight at h_
  repeat' first
    | (injection h_ with h_; subst h_)
    | split at h_
    | cases h_
  all_goals
    repeat' first
      | with_reducible assumption
      | (subst x_)
      | (focus ((try lift_lets); intro x_; (first | (have q_ : Fig := x_)); clear q_; subst x_))
      | with_reducible apply State.count_tidy
      | with_reducible apply State.weigh_tidy
      | with_reducible apply State.Tidy.ite
      | (with_reducible refine State.mk_tidy rfl ?_; first | with_reducible assumption)

theorem State.figAgain_tidy (s : State) (h_s : s.Tidy) : (State.figAgain s).Tidy := by
  unfold State.figAgain
  repeat' first
    | with_reducible assumption
    | (subst x_)
    | (focus ((try lift_lets); intro x_; (first | (have q_ : Fig := x_)); clear q_; subst x_))
    | with_reducible apply State.put_tidy
    | (with_reducible refine State.mk_tidy rfl ?_; first | with_reducible assumption)
    | split

theorem execLayoutApply_tidy (s : State) (h_s : s.Tidy) : ∀ t_, execLayoutApply s = .next t_ → t_.Tidy := by
  intro t_ h_
  unfold execLayoutApply at h_
  repeat' first
    | (injection h_ with h_; subst h_)
    | split at h_
    | cases h_
  all_goals
    repeat' first
      | with_reducible assumption
      | (subst x_)
      | (focus ((try lift_lets); intro x_; (first | (have q_ : Fig := x_)); clear q_; subst x_))
      | with_reducible apply State.figAgain_tidy
      | with_reducible apply State.figGo_tidy
      | with_reducible apply State.layoutApply_tidy
      | with_reducible apply State.Tidy.ite

end Sys2Proof.Machine
end

