-- ==== Sys2Proof/Laws/TidySnapshot.lean ====
section
/-! SUPPORT. Every function of Machine/Snapshot.lean that answers a state keeps the canonical form (`State.Tidy`): one lemma
per function, named after it. -/

namespace Sys2Proof.Machine

theorem State.setBank_tidy (s : State) (b st : Nat) (h_s : s.Tidy) : (State.setBank s b st).Tidy := by
  unfold State.setBank
  repeat' first
    | with_reducible assumption
    | with_reducible apply State.put_tidy

theorem State.fillBank_tidy (s : State) (b pose : Nat) (h_s : s.Tidy) : (State.fillBank s b pose).Tidy := by
  unfold State.fillBank
  repeat' first
    | with_reducible assumption
    | with_reducible apply State.put_tidy
    | with_reducible apply State.setBank_tidy

theorem State.emptyBank_tidy (s : State) (b : Nat) (h_s : s.Tidy) : (State.emptyBank s b).Tidy := by
  unfold State.emptyBank
  repeat' first
    | with_reducible assumption
    | with_reducible apply State.put_tidy
    | with_reducible apply State.setBank_tidy

theorem State.writePage_tidy (s : State) (p : Nat) (l : List Byte) (h_s : s.Tidy) : (State.writePage s p l).Tidy := by
  unfold State.writePage
  repeat' first
    | with_reducible assumption
    | with_reducible apply State.write_tidy

theorem State.dropBank_tidy (s : State) (b : Nat) (h_s : s.Tidy) : (State.dropBank s b).Tidy := by
  unfold State.dropBank
  repeat' first
    | with_reducible assumption
    | with_reducible apply State.emptyBank_tidy
    | with_reducible apply State.Tidy.ite

theorem State.sealBank_tidy (s : State) (b : Nat) (h_s : s.Tidy) : (State.sealBank s b).Tidy := by
  unfold State.sealBank
  repeat' first
    | with_reducible assumption
    | with_reducible apply State.setBank_tidy
    | with_reducible apply State.write_tidy

theorem State.hashed_tidy (s : State) (h_s : s.Tidy) : (State.hashed s).Tidy := by
  unfold State.hashed
  repeat' first
    | with_reducible assumption
    | with_reducible apply State.count_tidy

theorem State.dealTo_tidy (s : State) (links : List Nat) (g : Nat) (m : Msg) (h_s : s.Tidy) : (State.dealTo s links g
    m).Tidy := by
  unfold State.dealTo
  repeat' first
    | with_reducible assumption
    | (subst x_)
    | with_reducible apply State.deal_tidy
    | (with_reducible refine State.mk_tidy rfl ?_; first | with_reducible assumption)
    | split

theorem State.mapRefill_tidy (s : State) (n : Nat) (f : Refill → Refill) (h_s : s.Tidy) : (State.mapRefill s n
    f).Tidy := by
  unfold State.mapRefill
  repeat' first
    | with_reducible assumption
    | (subst x_)
    | (focus ((try lift_lets); intro x_; (first | (have q_ : Snp := x_)); clear q_; subst x_))
    | (with_reducible refine State.mk_tidy rfl ?_; first | with_reducible assumption)

theorem State.sendRefill_tidy (s : State) (n : Nat) (k : PctlKind) (i : PctlItem) (h_s : s.Tidy) : (State.sendRefill
    s n k i).Tidy := by
  unfold State.sendRefill
  repeat' first
    | with_reducible assumption
    | with_reducible apply State.dealTo_tidy

theorem State.refillAllocs_tidy (s : State) (h_s : s.Tidy) : (State.refillAllocs s).Tidy := by
  unfold State.refillAllocs
  repeat' first
    | with_reducible assumption
    | (with_reducible refine Keeps.intro (fun s_ y_ h_ => ?_))
    | (focus ((try lift_lets); intro x_; refine (fun (h_ : State.Tidy x_) => ?_) ?_; clear_value x_))
    | (subst x_)
    | ((try lift_lets); intro x_)
    | with_reducible apply State.setLink_tidy
    | with_reducible apply State.writeAlloc_tidy
    | with_reducible apply State.Tidy.ite
    | with_reducible apply State.Tidy.each

theorem State.promFail_tidy (s : State) (cause : Nat) (h_s : s.Tidy) : (State.promFail s cause).Tidy := by
  unfold State.promFail
  repeat' first
    | with_reducible assumption
    | (with_reducible refine Keeps.intro (fun s_ y_ h_ => ?_))
    | (focus ((try lift_lets); intro x_; refine (fun (h_ : State.Tidy x_) => ?_) ?_; clear_value x_))
    | (subst x_)
    | (focus ((try lift_lets); intro x_; refine (fun (h_ : State.Tidy x_.2) => ?_) ?_; clear_value x_))
    | (focus ((try lift_lets); intro x_; (first | (have q_ : Snp := x_)); clear q_; subst x_))
    | (focus ((try lift_lets); intro x_; (fail_if_success (have q_ : x_ = fun a_ => x_ a_ := rfl)); clear_value x_))
    | ((try lift_lets); intro x_)
    | with_reducible apply State.clxLanded_tidy
    | with_reducible apply State.count_tidy
    | with_reducible apply State.drainHeld_tidy
    | with_reducible apply State.dropBank_tidy
    | with_reducible apply State.intSet_tidy
    | with_reducible apply State.pose_tidy
    | with_reducible apply State.preserved_tidy
    | with_reducible apply State.put_tidy
    | with_reducible apply State.report_tidy
    | with_reducible apply State.sendGroup_tidy
    | with_reducible apply State.setPageSt_tidy
    | with_reducible apply State.Tidy.ite
    | with_reducible apply State.Tidy.each
    | (with_reducible refine State.mk_tidy rfl ?_; first | with_reducible assumption)
    | split

theorem State.inPromEnd_tidy (s : State) (cause : Option Nat) (h_s : s.Tidy) : (State.inPromEnd s cause).Tidy := by
  unfold State.inPromEnd
  repeat' first
    | with_reducible assumption
    | (focus ((try lift_lets); intro x_; refine (fun (h_ : State.Tidy x_) => ?_) ?_; clear_value x_))
    | (subst x_)
    | (focus ((try lift_lets); intro x_; (first | (have q_ : Snp := x_)); clear q_; subst x_))
    | with_reducible apply State.dropBank_tidy
    | with_reducible apply State.pose_tidy
    | with_reducible apply State.sendGroup_tidy
    | (with_reducible refine State.mk_tidy rfl ?_; first | with_reducible assumption)
    | split

theorem State.refillEnd_tidy (s : State) (n st result : Nat) (h_s : s.Tidy) : (State.refillEnd s n st result).Tidy := by
  unfold State.refillEnd
  repeat' first
    | with_reducible assumption
    | (focus ((try lift_lets); intro x_; refine (fun (h_ : State.Tidy x_) => ?_) ?_; clear_value x_))
    | (subst x_)
    | (focus ((try lift_lets); intro x_; (first | (have q_ : Clx := x_) | (have q_ : Snp := x_)); clear q_; subst x_))
    | with_reducible apply State.count_tidy
    | with_reducible apply State.intSet_tidy
    | with_reducible apply State.put_tidy
    | with_reducible apply State.refillAllocs_tidy
    | with_reducible apply State.Tidy.ite
    | (with_reducible refine State.mk_tidy rfl ?_; first | with_reducible assumption)

theorem State.doubleFault_tidy (s : State) (n : Nat) (r : Refill) (h_s : s.Tidy) : (State.doubleFault s n r).Tidy := by
  unfold State.doubleFault
  repeat' first
    | with_reducible assumption
    | (focus ((try lift_lets); intro x_; refine (fun (h_ : State.Tidy x_) => ?_) ?_; clear_value x_))
    | (subst x_)
    | (focus ((try lift_lets); intro x_; refine (fun (h_ : State.Tidy x_.2) => ?_) ?_; clear_value x_))
    | with_reducible apply State.count_tidy
    | with_reducible apply State.draw_tidy
    | with_reducible apply State.intSet_tidy
    | with_reducible apply State.put_tidy
    | with_reducible apply State.report_tidy

theorem State.refillAborts_tidy (s : State) (n cause : Nat) (tell : Bool) (h_s : s.Tidy) : (State.refillAborts s n
    cause tell).Tidy := by
  unfold State.refillAborts
  repeat' first
    | with_reducible assumption
    | (with_reducible refine Keeps.intro (fun s_ y_ h_ => ?_))
    | (focus ((try lift_lets); intro x_; refine (fun (h_ : State.Tidy x_) => ?_) ?_; clear_value x_))
    | (subst x_)
    | with_reducible apply State.doubleFault_tidy
    | with_reducible apply State.dropBank_tidy
    | with_reducible apply State.refillEnd_tidy
    | with_reducible apply State.sendRefill_tidy
    | with_reducible apply State.undefine_tidy
    | with_reducible apply State.Tidy.ite
    | with_reducible apply State.Tidy.each
    | (with_reducible refine State.mk_tidy rfl ?_; first | with_reducible assumption)
    | split

theorem State.pose_tidy (s : State) (c : Cmd) (h_s : s.Tidy) : (State.pose s c).Tidy := by
  unfold State.pose
  repeat' first
    | with_reducible assumption
    | (subst x_)
    | with_reducible apply State.fail_tidy
    | with_reducible apply State.mapCmd_tidy
    | (with_reducible refine State.mk_tidy rfl ?_; first | with_reducible assumption)
    | split

theorem execPose_tidy (d : Fin 4) (q : Fin 64) (ext : HostSlot) (s : State) (h_s : s.Tidy) : ∀ t_, execPose d q ext s
    = .next t_ → t_.Tidy := by
  intro t_ h_
  unfold execPose at h_
  repeat' first
    | (injection h_ with h_; subst h_)
    | split at h_
    | cases h_
  all_goals
    repeat' first
      | with_reducible assumption
      | (with_reducible refine Keeps.intro (fun s_ y_ h_ => ?_))
      | with_reducible apply State.pose_tidy
      | with_reducible apply State.v2_tidy

theorem State.arm_tidy (s : State) (w : List Nat) (b : Nat) (h_s : s.Tidy) : (State.arm s w b).Tidy := by
  unfold State.arm
  repeat' first
    | with_reducible assumption
    | (with_reducible refine Keeps.intro (fun s_ y_ h_ => ?_))
    | (focus ((try lift_lets); intro x_; refine (fun (h_ : State.Tidy x_) => ?_) ?_; clear_value x_))
    | (subst x_)
    | (focus ((try lift_lets); intro x_; (first | (have q_ : Snp := x_)); clear q_; subst x_))
    | (focus ((try lift_lets); intro x_; (fail_if_success (have q_ : x_ = fun a_ => x_ a_ := rfl)); clear_value x_))
    | ((try lift_lets); intro x_)
    | with_reducible apply State.count_tidy
    | with_reducible apply State.fillBank_tidy
    | with_reducible apply State.put_tidy
    | with_reducible apply State.sendGroup_tidy
    | with_reducible apply State.setPageSt_tidy
    | with_reducible apply State.writePage_tidy
    | with_reducible apply State.Tidy.ite
    | with_reducible apply State.Tidy.each
    | (with_reducible refine State.mk_tidy rfl ?_; first | with_reducible assumption)
    | split

theorem State.poseArm_tidy (s : State) (h_s : s.Tidy) : (State.poseArm s).Tidy := by
  unfold State.poseArm
  repeat' first
    | with_reducible assumption
    | (with_reducible refine Keeps.intro (fun s_ y_ h_ => ?_))
    | (subst x_)
    | (focus ((try lift_lets); intro x_; (fail_if_success (have q_ : x_ = fun a_ => x_ a_ := rfl)); clear_value x_))
    | with_reducible apply State.arm_tidy
    | with_reducible apply State.count_tidy
    | with_reducible apply State.done_tidy
    | with_reducible apply State.fail_tidy
    | with_reducible apply State.Tidy.ite
    | with_reducible apply State.Tidy.each
    | (with_reducible refine State.mk_tidy rfl ?_; first | with_reducible assumption)
    | split

theorem execPoseArm_tidy (s : State) (h_s : s.Tidy) : ∀ t_, execPoseArm s = .next t_ → t_.Tidy := by
  intro t_ h_
  unfold execPoseArm at h_
  repeat' first
    | (injection h_ with h_; subst h_)
    | split at h_
    | cases h_
  all_goals
    repeat' first
      | with_reducible assumption
      | with_reducible apply State.poseArm_tidy

theorem State.sendHolds_tidy (s : State) (p : Nat) (h_s : s.Tidy) : (State.sendHolds s p).Tidy := by
  unfold State.sendHolds
  repeat' first
    | with_reducible assumption
    | (subst x_)
    | (focus ((try lift_lets); intro x_; (fail_if_success (have q_ : x_ = fun a_ => x_ a_ := rfl)); clear_value x_))
    | ((try lift_lets); intro x_)
    | with_reducible apply State.count_tidy
    | (with_reducible refine State.mk_tidy rfl ?_; first | with_reducible assumption)

theorem State.promenadePage_tidy (s : State) (h_s : s.Tidy) : (State.promenadePage s).Tidy := by
  unfold State.promenadePage
  split
  · exact h_s
  · split
    · exact h_s
    · lift_lets
      intro links src data poison b entry s1 s2 s3 snp s4
      have h1 : s1.Tidy := State.hashed_tidy _ (State.countRead_tidy _ _ _ _ h_s)
      clear_value s1
      have h2 : s2.Tidy := State.writePage_tidy _ _ _ h1
      clear_value entry s2
      have h3 : s3.Tidy := State.write_tidy _ _ _ _ _ h2
      clear_value s3 data 
      have h4 : s4.Tidy := h3.prom _ _
      clear_value s4
      refine State.Tidy.ite h_s ?_
      exact State.Tidy.each (fun _ _ h => State.dealTo_tidy _ _ _ _ h) (State.Tidy.ite h4 (State.sendHolds_tidy _ _ h4))

theorem execPromenadePage_tidy (s : State) (h_s : s.Tidy) : ∀ t_, execPromenadePage s = .next t_ → t_.Tidy := by
  intro t_ h_
  unfold execPromenadePage at h_
  repeat' first
    | (injection h_ with h_; subst h_)
    | split at h_
    | cases h_
  all_goals
    repeat' first
      | with_reducible assumption
      | with_reducible apply State.promenadePage_tidy

theorem State.pageSent_tidy (s : State) (h_s : s.Tidy) : (State.pageSent s).Tidy := by
  unfold State.pageSent
  repeat' first
    | with_reducible assumption
    | (focus ((try lift_lets); intro x_; refine (fun (h_ : State.Tidy x_) => ?_) ?_; clear_value x_))
    | (subst x_)
    | (focus ((try lift_lets); intro x_; (first | (have q_ : Clx := x_) | (have q_ : Snp := x_)); clear q_; subst x_))
    | (focus ((try lift_lets); intro x_; (fail_if_success (have q_ : x_ = fun a_ => x_ a_ := rfl)); clear_value x_))
    | ((try lift_lets); intro x_)
    | with_reducible apply State.clxLanded_tidy
    | with_reducible apply State.count_tidy
    | with_reducible apply State.drainHeld_tidy
    | with_reducible apply State.pose_tidy
    | with_reducible apply State.put_tidy
    | with_reducible apply State.sendGroup_tidy
    | with_reducible apply State.setPageSt_tidy
    | with_reducible apply State.Tidy.ite
    | (with_reducible refine State.mk_tidy rfl ?_; first | with_reducible assumption)
    | split

theorem execPageSent_tidy (s : State) (h_s : s.Tidy) : ∀ t_, execPageSent s = .next t_ → t_.Tidy := by
  intro t_ h_
  unfold execPageSent at h_
  repeat' first
    | (injection h_ with h_; subst h_)
    | split at h_
    | cases h_
  all_goals
    repeat' first
      | with_reducible assumption
      | with_reducible apply State.pageSent_tidy

theorem State.reply_tidy (s : State) (e : Nat) (k : PctlKind) (i : PctlItem) (cause : Nat) (h_s : s.Tidy) :
    (State.reply s e k i cause).Tidy := by
  unfold State.reply
  repeat' first
    | with_reducible assumption
    | with_reducible apply State.sendOn_tidy

theorem State.openIn_tidy (s : State) (e : Nat) (i : PctlItem) (h_s : s.Tidy) : (State.openIn s e i).Tidy := by
  unfold State.openIn
  repeat' first
    | with_reducible assumption
    | (with_reducible refine Keeps.intro (fun s_ y_ h_ => ?_))
    | (focus ((try lift_lets); intro x_; refine (fun (h_ : State.Tidy x_) => ?_) ?_; clear_value x_))
    | (subst x_)
    | (focus ((try lift_lets); intro x_; (first | (have q_ : Snp := x_)); clear q_; subst x_))
    | (focus ((try lift_lets); intro x_; (fail_if_success (have q_ : x_ = fun a_ => x_ a_ := rfl)); clear_value x_))
    | ((try lift_lets); intro x_)
    | with_reducible apply State.count_tidy
    | with_reducible apply State.fillBank_tidy
    | with_reducible apply State.inPromEnd_tidy
    | with_reducible apply State.mapRefill_tidy
    | with_reducible apply State.refillEnd_tidy
    | with_reducible apply State.reply_tidy
    | with_reducible apply State.Tidy.getD
    | (with_reducible refine State.takeItem_tidy _ _ _ ?_)
    | (with_reducible refine State.takeItem_tidy _ _ _ ?_ _ (by assumption))
    | with_reducible apply State.Tidy.ite
    | with_reducible apply State.Tidy.each
    | (with_reducible refine State.mk_tidy rfl ?_; first | with_reducible assumption | (with_reducible refine State.takeItem_tidy _ _ _ ?_ _ (by assumption)))
    | split

theorem execOpenItem_tidy (e : Fin 32) (i : PctlItem) (s : State) (h_s : s.Tidy) : ∀ t_, execOpenItem e i s = .next
    t_ → t_.Tidy := by
  intro t_ h_
  unfold execOpenItem at h_
  repeat' first
    | (injection h_ with h_; subst h_)
    | split at h_
    | cases h_
  all_goals
    repeat' first
      | with_reducible assumption
      | with_reducible apply State.openIn_tidy

theorem State.sendBank_tidy (s : State) (n : Nat) (b channel : Nat) (h_s : s.Tidy) : (State.sendBank s n b
    channel).Tidy := by
  unfold State.sendBank
  repeat' first
    | with_reducible assumption
    | (with_reducible refine Keeps.intro (fun s_ y_ h_ => ?_))
    | (focus ((try lift_lets); intro x_; refine (fun (h_ : State.Tidy x_) => ?_) ?_; clear_value x_))
    | (subst x_)
    | (focus ((try lift_lets); intro x_; (fail_if_success (have q_ : x_ = fun a_ => x_ a_ := rfl)); clear_value x_))
    | with_reducible apply State.countRead_tidy
    | with_reducible apply State.sendGroup_tidy
    | with_reducible apply State.Tidy.each

theorem State.acceptIn_tidy (s : State) (e : Nat) (i : PctlItem) (h_s : s.Tidy) : (State.acceptIn s e i).Tidy := by
  unfold State.acceptIn
  repeat' first
    | with_reducible assumption
    | (with_reducible refine Keeps.intro (fun s_ y_ h_ => ?_))
    | (focus ((try lift_lets); intro x_; refine (fun (h_ : State.Tidy x_) => ?_) ?_; clear_value x_))
    | (subst x_)
    | (focus ((try lift_lets); intro x_; (first | (have q_ : Snp := x_)); clear q_; subst x_))
    | ((try lift_lets); intro x_)
    | with_reducible apply State.mapRefill_tidy
    | with_reducible apply State.pose_tidy
    | with_reducible apply State.sendBank_tidy
    | with_reducible apply State.Tidy.getD
    | (with_reducible refine State.takeItem_tidy _ _ _ ?_)
    | (with_reducible refine State.takeItem_tidy _ _ _ ?_ _ (by assumption))
    | with_reducible apply State.Tidy.ite
    | with_reducible apply State.Tidy.each
    | (with_reducible refine State.mk_tidy rfl ?_; first | with_reducible assumption | (with_reducible refine State.takeItem_tidy _ _ _ ?_ _ (by assumption)))
    | split

theorem execAccept_tidy (e : Fin 32) (i : PctlItem) (s : State) (h_s : s.Tidy) : ∀ t_, execAccept e i s = .next t_ →
    t_.Tidy := by
  intro t_ h_
  unfold execAccept at h_
  repeat' first
    | (injection h_ with h_; subst h_)
    | split at h_
    | cases h_
  all_goals
    repeat' first
      | with_reducible assumption
      | with_reducible apply State.acceptIn_tidy

theorem State.refuseIn_tidy (s : State) (e : Nat) (i : PctlItem) (h_s : s.Tidy) : (State.refuseIn s e i).Tidy := by
  unfold State.refuseIn
  repeat' first
    | with_reducible assumption
    | (subst x_)
    | (focus ((try lift_lets); intro x_; (first | (have q_ : Snp := x_)); clear q_; subst x_))
    | with_reducible apply State.pose_tidy
    | with_reducible apply State.promFail_tidy
    | with_reducible apply State.refillAborts_tidy
    | with_reducible apply State.Tidy.getD
    | (with_reducible refine State.takeItem_tidy _ _ _ ?_)
    | (with_reducible refine State.takeItem_tidy _ _ _ ?_ _ (by assumption))
    | with_reducible apply State.Tidy.ite
    | (with_reducible refine State.mk_tidy rfl ?_; first | with_reducible assumption | (with_reducible refine State.takeItem_tidy _ _ _ ?_ _ (by assumption)))
    | split

theorem execRefuse_tidy (e : Fin 32) (i : PctlItem) (s : State) (h_s : s.Tidy) : ∀ t_, execRefuse e i s = .next t_ →
    t_.Tidy := by
  intro t_ h_
  unfold execRefuse at h_
  repeat' first
    | (injection h_ with h_; subst h_)
    | split at h_
    | cases h_
  all_goals
    repeat' first
      | with_reducible assumption
      | with_reducible apply State.refuseIn_tidy

theorem State.sealMaybe_tidy (s : State) (h_s : s.Tidy) : (State.sealMaybe s).Tidy := by
  unfold State.sealMaybe
  split
  · exact h_s
  · split
    · exact h_s
    · lift_lets
      intro s1 s2 snp s3
      have h1 : s1.Tidy := State.writePage_tidy _ _ _ h_s
      clear_value s1
      have h2 : s2.Tidy := State.setBank_tidy _ _ _ h1
      clear_value s2
      have h3 : s3.Tidy := h2.inProm _
      clear_value s3
      exact State.Tidy.ite h_s (State.sendOn_tidy _ _ _ _ h3)

theorem State.sealIn_tidy (s : State) (e : Nat) (i : PctlItem) (h : BankHdr) (h_s : s.Tidy) : (State.sealIn s e i
    h).Tidy := by
  unfold State.sealIn
  repeat' first
    | with_reducible assumption
    | (subst x_)
    | (focus ((try lift_lets); intro x_; (first | (have q_ : Snp := x_)); clear q_; subst x_))
    | ((try lift_lets); intro x_)
    | with_reducible apply State.pose_tidy
    | with_reducible apply State.sealMaybe_tidy
    | with_reducible apply State.Tidy.getD
    | (with_reducible refine State.takeItem_tidy _ _ _ ?_)
    | (with_reducible refine State.takeItem_tidy _ _ _ ?_ _ (by assumption))
    | with_reducible apply State.Tidy.ite
    | (with_reducible refine State.mk_tidy rfl ?_; first | with_reducible assumption | (with_reducible refine State.takeItem_tidy _ _ _ ?_ _ (by assumption)))
    | split

theorem execSeal_tidy (e : Fin 32) (i : PctlItem) (h : BankHdr) (s : State) (h_s : s.Tidy) : ∀ t_, execSeal e i h s =
    .next t_ → t_.Tidy := by
  intro t_ h_
  unfold execSeal at h_
  repeat' first
    | (injection h_ with h_; subst h_)
    | split at h_
    | cases h_
  all_goals
    repeat' first
      | with_reducible assumption
      | with_reducible apply State.sealIn_tidy

theorem State.sealKeep_tidy (s : State) (h_s : s.Tidy) : (State.sealKeep s).Tidy := by
  unfold State.sealKeep
  split
  · exact h_s
  · lift_lets
    intro s1 snp s2 s3 s4
    have h1 : s1.Tidy := State.sealBank_tidy _ _ h_s
    clear_value s1
    have h2 : s2.Tidy := State.Tidy.prom h1 s1.sending none
    clear_value s2
    have h3 : s3.Tidy := by
      unfold s3
      split
      · exact State.signalLive_tidy _ _ _ h2
      · exact h2
    clear_value s3
    have h4 : s4.Tidy := State.put_tidy _ _ _ (State.healthSeal_tidy _ h3)
    clear_value s4
    exact State.Tidy.ite h_s (State.intSet_tidy _ _ _ (State.count_tidy _ _ _ _ h4))

theorem State.snpLanded_tidy (s : State) (h_s : s.Tidy) : (State.snpLanded s).Tidy := by
  unfold State.snpLanded
  repeat' first
    | with_reducible assumption
    | with_reducible apply State.sealKeep_tidy
    | with_reducible apply State.sealMaybe_tidy

theorem State.sealedIn_tidy (s : State) (e : Nat) (i : PctlItem) (h_s : s.Tidy) : (State.sealedIn s e i).Tidy := by
  unfold State.sealedIn
  repeat' first
    | with_reducible assumption
    | (subst x_)
    | (focus ((try lift_lets); intro x_; (first | (have q_ : Snp := x_)); clear q_; subst x_))
    | ((try lift_lets); intro x_)
    | with_reducible apply State.pose_tidy
    | with_reducible apply State.sealKeep_tidy
    | with_reducible apply State.Tidy.getD
    | (with_reducible refine State.takeItem_tidy _ _ _ ?_)
    | (with_reducible refine State.takeItem_tidy _ _ _ ?_ _ (by assumption))
    | with_reducible apply State.Tidy.ite
    | (with_reducible refine State.mk_tidy rfl ?_; first | with_reducible assumption | (with_reducible refine State.takeItem_tidy _ _ _ ?_ _ (by assumption)))
    | split

theorem execSealed_tidy (e : Fin 32) (i : PctlItem) (s : State) (h_s : s.Tidy) : ∀ t_, execSealed e i s = .next t_ →
    t_.Tidy := by
  intro t_ h_
  unfold execSealed at h_
  repeat' first
    | (injection h_ with h_; subst h_)
    | split at h_
    | cases h_
  all_goals
    repeat' first
      | with_reducible assumption
      | with_reducible apply State.sealedIn_tidy

theorem State.pctlAbortIn_tidy (s : State) (e : Nat) (i : PctlItem) (h_s : s.Tidy) : (State.pctlAbortIn s e i).Tidy
    := by
  unfold State.pctlAbortIn
  repeat' first
    | with_reducible assumption
    | (subst x_)
    | (focus ((try lift_lets); intro x_; (first | (have q_ : Snp := x_)); clear q_; subst x_))
    | with_reducible apply State.inPromEnd_tidy
    | with_reducible apply State.pose_tidy
    | with_reducible apply State.promFail_tidy
    | with_reducible apply State.refillAborts_tidy
    | with_reducible apply State.Tidy.getD
    | (with_reducible refine State.takeItem_tidy _ _ _ ?_)
    | (with_reducible refine State.takeItem_tidy _ _ _ ?_ _ (by assumption))
    | with_reducible apply State.Tidy.ite
    | (with_reducible refine State.mk_tidy rfl ?_; first | with_reducible assumption | (with_reducible refine State.takeItem_tidy _ _ _ ?_ _ (by assumption)))
    | split

theorem execPctlAbort_tidy (e : Fin 32) (i : PctlItem) (s : State) (h_s : s.Tidy) : ∀ t_, execPctlAbort e i s = .next
    t_ → t_.Tidy := by
  intro t_ h_
  unfold execPctlAbort at h_
  repeat' first
    | (injection h_ with h_; subst h_)
    | split at h_
    | cases h_
  all_goals
    repeat' first
      | with_reducible assumption
      | with_reducible apply State.pctlAbortIn_tidy

theorem State.landPage_tidy (s : State) (b pages : Nat) (i : PageItem) (h_s : s.Tidy) : (State.landPage s b pages
    i).Tidy := by
  unfold State.landPage
  repeat' first
    | with_reducible assumption
    | (with_reducible refine Keeps.intro (fun s_ y_ h_ => ?_))
    | (focus ((try lift_lets); intro x_; refine (fun (h_ : State.Tidy x_) => ?_) ?_; clear_value x_))
    | (subst x_)
    | with_reducible apply State.take_tidy
    | with_reducible apply State.write_tidy
    | with_reducible apply State.Tidy.ite

theorem State.badPage_tidy (s : State) (n k : Nat) (h_s : s.Tidy) : (State.badPage s n k).Tidy := by
  unfold State.badPage
  repeat' first
    | with_reducible assumption
    | (focus ((try lift_lets); intro x_; refine (fun (h_ : State.Tidy x_) => ?_) ?_; clear_value x_))
    | (subst x_)
    | with_reducible apply State.count_tidy
    | with_reducible apply State.put_tidy
    | with_reducible apply State.setWord_tidy

theorem State.checkPage_tidy (s : State) (n b pages k : Nat) (h_s : s.Tidy) : (State.checkPage s n b pages k).Tidy := by
  unfold State.checkPage
  repeat' first
    | with_reducible assumption
    | (focus ((try lift_lets); intro x_; refine (fun (h_ : State.Tidy x_) => ?_) ?_; clear_value x_))
    | (subst x_)
    | with_reducible apply State.badPage_tidy
    | with_reducible apply State.countRead_tidy
    | with_reducible apply State.hashed_tidy
    | with_reducible apply State.writePage_tidy
    | with_reducible apply State.Tidy.ite
    | (with_reducible refine State.mk_tidy rfl ?_; first | with_reducible assumption)
    | split

theorem State.checkLanded_tidy (s : State) (n b : Nat) (h_s : s.Tidy) : (State.checkLanded s n b).Tidy := by
  unfold State.checkLanded
  repeat' first
    | with_reducible assumption
    | (with_reducible refine Keeps.intro (fun s_ y_ h_ => ?_))
    | (subst x_)
    | with_reducible apply State.checkPage_tidy
    | with_reducible apply State.mapRefill_tidy
    | with_reducible apply State.Tidy.ite
    | with_reducible apply State.Tidy.each
    | (with_reducible refine State.mk_tidy rfl ?_; first | with_reducible assumption)
    | split

theorem State.refillItem_tidy (s : State) (r : Refill) (b : Nat) (i : PageItem) (h_s : s.Tidy) : (State.refillItem s
    r b i).Tidy := by
  unfold State.refillItem
  repeat' first
    | with_reducible assumption
    | (focus ((try lift_lets); intro x_; refine (fun (h_ : State.Tidy x_) => ?_) ?_; clear_value x_))
    | (subst x_)
    | with_reducible apply State.checkLanded_tidy
    | with_reducible apply State.landPage_tidy
    | with_reducible apply State.mapRefill_tidy
    | with_reducible apply State.write_tidy
    | with_reducible apply State.Tidy.ite

theorem State.pageIn_tidy (s : State) (e : Nat) (i : PageItem) (h_s : s.Tidy) : (State.pageIn s e i).Tidy := by
  unfold State.pageIn
  repeat' first
    | with_reducible assumption
    | (focus ((try lift_lets); intro x_; refine (fun (h_ : State.Tidy x_) => ?_) ?_; clear_value x_))
    | (subst x_)
    | (focus ((try lift_lets); intro x_; refine (fun (h_ : State.Tidy x_.1) => ?_) ?_; clear_value x_))
    | (focus ((try lift_lets); intro x_; (first | (have q_ : Snp := x_)); clear q_; subst x_))
    | (focus ((try lift_lets); intro x_; (fail_if_success (have q_ : x_ = fun a_ => x_ a_ := rfl)); clear_value x_))
    | ((try lift_lets); intro x_)
    | with_reducible apply State.landPage_tidy
    | with_reducible apply State.pose_tidy
    | with_reducible apply State.refillItem_tidy
    | with_reducible apply State.sealMaybe_tidy
    | with_reducible apply State.Tidy.getD
    | (with_reducible refine State.takeItem_tidy _ _ _ ?_)
    | (with_reducible refine State.takeItem_tidy _ _ _ ?_ _ (by assumption))
    | with_reducible apply State.Tidy.ite
    | (with_reducible refine State.mk_tidy rfl ?_; first | with_reducible assumption | (with_reducible refine State.takeItem_tidy _ _ _ ?_ _ (by assumption)))
    | split

theorem execPage_tidy (e : Fin 32) (i : PageItem) (s : State) (h_s : s.Tidy) : ∀ t_, execPage e i s = .next t_ →
    t_.Tidy := by
  intro t_ h_
  unfold execPage at h_
  repeat' first
    | (injection h_ with h_; subst h_)
    | split at h_
    | cases h_
  all_goals
    repeat' first
      | with_reducible assumption
      | with_reducible apply State.pageIn_tidy

theorem State.refillRun_tidy (s : State) (n : Nat) (r : Refill) (h_s : s.Tidy) : (State.refillRun s n r).Tidy := by
  unfold State.refillRun
  repeat' first
    | with_reducible assumption
    | (with_reducible refine Keeps.intro (fun s_ y_ h_ => ?_))
    | (focus ((try lift_lets); intro x_; refine (fun (h_ : State.Tidy x_) => ?_) ?_; clear_value x_))
    | (subst x_)
    | (focus ((try lift_lets); intro x_; (first | (have q_ : Snp := x_)); clear q_; subst x_))
    | with_reducible apply State.put_tidy
    | with_reducible apply State.refillAllocs_tidy
    | with_reducible apply State.setWord_tidy
    | with_reducible apply State.Tidy.ite
    | with_reducible apply State.Tidy.each
    | (with_reducible refine State.mk_tidy rfl ?_; first | with_reducible assumption)

theorem State.refillStart_tidy (s : State) (n kind : Nat) (h_s : s.Tidy) : (State.refillStart s n kind).Tidy := by
  unfold State.refillStart
  repeat' first
    | with_reducible assumption
    | (focus ((try lift_lets); intro x_; refine (fun (h_ : State.Tidy x_) => ?_) ?_; clear_value x_))
    | (subst x_)
    | with_reducible apply State.refillEnd_tidy
    | with_reducible apply State.refillRun_tidy
    | with_reducible apply State.sendRefill_tidy
    | with_reducible apply State.Tidy.ite
    | (with_reducible refine State.mk_tidy rfl ?_; first | with_reducible assumption)
    | split

theorem execRestore_tidy (n : Fin 8) (s : State) (h_s : s.Tidy) : ∀ t_, execRestore n s = .next t_ → t_.Tidy := by
  intro t_ h_
  unfold execRestore at h_
  repeat' first
    | (injection h_ with h_; subst h_)
    | split at h_
    | cases h_
  all_goals
    repeat' first
      | with_reducible assumption
      | with_reducible apply State.refillStart_tidy

theorem execReplicate_tidy (n : Fin 8) (s : State) (h_s : s.Tidy) : ∀ t_, execReplicate n s = .next t_ → t_.Tidy := by
  intro t_ h_
  unfold execReplicate at h_
  repeat' first
    | (injection h_ with h_; subst h_)
    | split at h_
    | cases h_
  all_goals
    repeat' first
      | with_reducible assumption
      | with_reducible apply State.refillStart_tidy

theorem execHandover_tidy (n : Fin 8) (s : State) (h_s : s.Tidy) : ∀ t_, execHandover n s = .next t_ → t_.Tidy := by
  intro t_ h_
  unfold execHandover at h_
  repeat' first
    | (injection h_ with h_; subst h_)
    | split at h_
    | cases h_
  all_goals
    repeat' first
      | with_reducible assumption
      | with_reducible apply State.refillStart_tidy

theorem State.rollback_tidy (s : State) (n : Nat) (h_s : s.Tidy) : (State.rollback s n).Tidy := by
  unfold State.rollback
  repeat' first
    | with_reducible assumption
    | (with_reducible refine Keeps.intro (fun s_ y_ h_ => ?_))
    | (focus ((try lift_lets); intro x_; refine (fun (h_ : State.Tidy x_) => ?_) ?_; clear_value x_))
    | (subst x_)
    | (focus ((try lift_lets); intro x_; (first | (have q_ : Snp := x_)); clear q_; subst x_))
    | (focus ((try lift_lets); intro x_; (fail_if_success (have q_ : x_ = fun a_ => x_ a_ := rfl)); clear_value x_))
    | ((try lift_lets); intro x_)
    | with_reducible apply State.checkPage_tidy
    | with_reducible apply State.refillEnd_tidy
    | with_reducible apply State.refillRun_tidy
    | with_reducible apply State.Tidy.ite
    | with_reducible apply State.Tidy.each
    | (with_reducible refine State.mk_tidy rfl ?_; first | with_reducible assumption)
    | split

theorem execRollback_tidy (n : Fin 8) (s : State) (h_s : s.Tidy) : ∀ t_, execRollback n s = .next t_ → t_.Tidy := by
  intro t_ h_
  unfold execRollback at h_
  repeat' first
    | (injection h_ with h_; subst h_)
    | split at h_
    | cases h_
  all_goals
    repeat' first
      | with_reducible assumption
      | with_reducible apply State.rollback_tidy

theorem State.verify_tidy (s : State) (n : Nat) (h_s : s.Tidy) : (State.verify s n).Tidy := by
  unfold State.verify
  repeat' first
    | with_reducible assumption
    | (with_reducible refine Keeps.intro (fun s_ y_ h_ => ?_))
    | (focus ((try lift_lets); intro x_; refine (fun (h_ : State.Tidy x_) => ?_) ?_; clear_value x_))
    | (subst x_)
    | (focus ((try lift_lets); intro x_; (fail_if_success (have q_ : x_ = fun a_ => x_ a_ := rfl)); clear_value x_))
    | ((try lift_lets); intro x_)
    | with_reducible apply State.checkPage_tidy
    | with_reducible apply State.refillEnd_tidy
    | with_reducible apply State.refillRun_tidy
    | with_reducible apply State.Tidy.ite
    | with_reducible apply State.Tidy.each
    | (with_reducible refine State.mk_tidy rfl ?_; first | with_reducible assumption)
    | split

theorem execVerify_tidy (n : Fin 8) (s : State) (h_s : s.Tidy) : ∀ t_, execVerify n s = .next t_ → t_.Tidy := by
  intro t_ h_
  unfold execVerify at h_
  repeat' first
    | (injection h_ with h_; subst h_)
    | split at h_
    | cases h_
  all_goals
    repeat' first
      | with_reducible assumption
      | with_reducible apply State.verify_tidy

theorem State.restoreStep_tidy (s : State) (b : Nat) (h_s : s.Tidy) : (State.restoreStep s b).Tidy := by
  unfold State.restoreStep
  repeat' first
    | with_reducible assumption
    | (with_reducible refine Keeps.intro (fun s_ y_ h_ => ?_))
    | (focus ((try lift_lets); intro x_; refine (fun (h_ : State.Tidy x_) => ?_) ?_; clear_value x_))
    | (subst x_)
    | with_reducible apply State.noiseTotal_tidy
    | with_reducible apply State.putWords_tidy
    | with_reducible apply State.put_tidy
    | with_reducible apply State.Tidy.each

theorem State.refillComplete_tidy (s : State) (n : Nat) (h_s : s.Tidy) : (State.refillComplete s n).Tidy := by
  unfold State.refillComplete
  repeat' first
    | with_reducible assumption
    | (with_reducible refine Keeps.intro (fun s_ y_ h_ => ?_))
    | (focus ((try lift_lets); intro x_; refine (fun (h_ : State.Tidy x_) => ?_) ?_; clear_value x_))
    | (subst x_)
    | (focus ((try lift_lets); intro x_; (fail_if_success (have q_ : x_ = fun a_ => x_ a_ := rfl)); clear_value x_))
    | with_reducible apply State.intSet_tidy
    | with_reducible apply State.put_tidy
    | with_reducible apply State.refillEnd_tidy
    | with_reducible apply State.restoreStep_tidy
    | with_reducible apply State.sealBank_tidy
    | with_reducible apply State.setBank_tidy
    | with_reducible apply State.Tidy.ite
    | with_reducible apply State.Tidy.each
    | (with_reducible refine State.mk_tidy rfl ?_; first | with_reducible assumption)
    | split

theorem execRefillComplete_tidy (n : Fin 8) (s : State) (h_s : s.Tidy) : ∀ t_, execRefillComplete n s = .next t_ →
    t_.Tidy := by
  intro t_ h_
  unfold execRefillComplete at h_
  repeat' first
    | (injection h_ with h_; subst h_)
    | split at h_
    | cases h_
  all_goals
    repeat' first
      | with_reducible assumption
      | with_reducible apply State.refillComplete_tidy

theorem State.lossLimit_tidy (s : State) (y_ : Option (Fin 8)) (h_s : s.Tidy) : (State.lossLimit s y_).Tidy := by
  unfold State.lossLimit
  repeat' first
    | with_reducible assumption
    | (focus ((try lift_lets); intro x_; refine (fun (h_ : State.Tidy x_) => ?_) ?_; clear_value x_))
    | (subst x_)
    | with_reducible apply State.inPromEnd_tidy
    | with_reducible apply State.promFail_tidy
    | with_reducible apply State.refillAborts_tidy
    | with_reducible apply State.Tidy.ite
    | split

theorem execLossLimitExpiry_tidy (refill : Option (Fin 8)) (s : State) (h_s : s.Tidy) : ∀ t_, execLossLimitExpiry
    refill s = .next t_ → t_.Tidy := by
  intro t_ h_
  unfold execLossLimitExpiry at h_
  repeat' first
    | (injection h_ with h_; subst h_)
    | split at h_
    | cases h_
  all_goals
    repeat' first
      | with_reducible assumption
      | with_reducible apply State.lossLimit_tidy

theorem State.snpLinkFail_tidy (s : State) (e : Nat) (channels : List Nat) (h_s : s.Tidy) : (State.snpLinkFail s e
    channels).Tidy := by
  unfold State.snpLinkFail
  repeat' first
    | with_reducible assumption
    | (with_reducible refine Keeps.intro (fun s_ y_ h_ => ?_))
    | (focus ((try lift_lets); intro x_; refine (fun (h_ : State.Tidy x_) => ?_) ?_; clear_value x_))
    | (subst x_)
    | (focus ((try lift_lets); intro x_; (first | (have q_ : Fig := x_) | (have q_ : Snp := x_)); clear q_; subst x_))
    | (focus ((try lift_lets); intro x_; (fail_if_success (have q_ : x_ = fun a_ => x_ a_ := rfl)); clear_value x_))
    | ((try lift_lets); intro x_)
    | with_reducible apply State.inPromEnd_tidy
    | with_reducible apply State.promFail_tidy
    | with_reducible apply State.refillAborts_tidy
    | with_reducible apply State.Tidy.ite
    | with_reducible apply State.Tidy.each

theorem State.banksLost_tidy (s : State) (h_s : s.Tidy) : (State.banksLost s).Tidy := by
  unfold State.banksLost
  repeat' first
    | with_reducible assumption
    | (with_reducible refine Keeps.intro (fun s_ y_ h_ => ?_))
    | (focus ((try lift_lets); intro x_; refine (fun (h_ : State.Tidy x_) => ?_) ?_; clear_value x_))
    | (subst x_)
    | (focus ((try lift_lets); intro x_; (first | (have q_ : Snp := x_)); clear q_; subst x_))
    | with_reducible apply State.emptyBank_tidy
    | with_reducible apply State.inPromEnd_tidy
    | with_reducible apply State.promFail_tidy
    | with_reducible apply State.refillAborts_tidy
    | with_reducible apply State.report_tidy
    | with_reducible apply State.Tidy.each

end Sys2Proof.Machine
end

