-- ==== Sys2Proof/Laws/TidyOptical.lean ====
section
/-! SUPPORT. Every function of Machine/Optical.lean that answers a state keeps the canonical form (`State.Tidy`): one lemma
per function, named after it. -/

namespace Sys2Proof.Machine

theorem State.otdrEnd_tidy (s : State) (n result events : Nat) (h_s : s.Tidy) : (State.otdrEnd s n result
    events).Tidy := by
  unfold State.otdrEnd
  repeat' first
    | with_reducible assumption
    | (focus ((try lift_lets); intro x_; refine (fun (h_ : State.Tidy x_) => ?_) ?_; clear_value x_))
    | (subst x_)
    | with_reducible apply State.count_tidy
    | with_reducible apply State.intSet_tidy
    | with_reducible apply State.put_tidy

theorem State.selectFeed_tidy (s : State) (n feed : Nat) (h_s : s.Tidy) : (State.selectFeed s n feed).Tidy := by
  unfold State.selectFeed
  repeat' first
    | with_reducible assumption
    | with_reducible apply State.intSet_tidy
    | with_reducible apply State.put_tidy
    | with_reducible apply State.Tidy.ite

theorem State.feedCheck_tidy (s : State) (n : Nat) (h_s : s.Tidy) : (State.feedCheck s n).Tidy := by
  unfold State.feedCheck
  repeat' first
    | with_reducible assumption
    | (focus ((try lift_lets); intro x_; refine (fun (h_ : State.Tidy x_) => ?_) ?_; clear_value x_))
    | (subst x_)
    | with_reducible apply State.count_tidy
    | with_reducible apply State.otdrEnd_tidy
    | with_reducible apply State.selectFeed_tidy
    | with_reducible apply State.trained_tidy
    | with_reducible apply State.Tidy.ite
    | (with_reducible refine State.mk_tidy rfl ?_; first | with_reducible assumption)

theorem State.diagRecord_tidy (s : State) (k : Nat) (h_s : s.Tidy) : (State.diagRecord s k).Tidy := by
  unfold State.diagRecord
  repeat' first
    | with_reducible assumption
    | with_reducible apply State.report_tidy

theorem State.diagRefresh_tidy (s : State) (k : Nat) (field : Bool) (h_s : s.Tidy) : (State.diagRefresh s k
    field).Tidy := by
  unfold State.diagRefresh
  repeat' first
    | with_reducible assumption
    | (focus ((try lift_lets); intro x_; refine (fun (h_ : State.Tidy x_) => ?_) ?_; clear_value x_))
    | (subst x_)
    | with_reducible apply State.count_tidy
    | with_reducible apply State.diagRecord_tidy
    | with_reducible apply State.intSet_tidy
    | with_reducible apply State.put_tidy
    | with_reducible apply State.Tidy.ite

theorem State.diagLanesLost_tidy (s : State) (k : Nat) (h_s : s.Tidy) : (State.diagLanesLost s k).Tidy := by
  unfold State.diagLanesLost
  repeat' first
    | with_reducible assumption
    | (with_reducible refine Keeps.intro (fun s_ y_ h_ => ?_))
    | (subst x_)
    | (focus ((try lift_lets); intro x_; refine (fun (h_ : State.Tidy x_.2) => ?_) ?_; clear_value x_))
    | with_reducible apply State.draw_tidy
    | with_reducible apply State.put_tidy
    | with_reducible apply State.Tidy.ite

theorem State.capDiag_tidy (s : State) (k : Nat) (h_s : s.Tidy) : (State.capDiag s k).Tidy := by
  unfold State.capDiag
  repeat' first
    | with_reducible assumption
    | (subst x_)
    | with_reducible apply State.capPut_tidy
    | with_reducible apply State.Tidy.ite

theorem State.diagLoss_tidy (s : State) (k g w : Nat) (h_s : s.Tidy) : (State.diagLoss s k g w).Tidy := by
  unfold State.diagLoss
  repeat' first
    | with_reducible assumption
    | (focus ((try lift_lets); intro x_; refine (fun (h_ : State.Tidy x_) => ?_) ?_; clear_value x_))
    | (subst x_)
    | with_reducible apply State.capDiag_tidy
    | with_reducible apply State.count_tidy
    | with_reducible apply State.degrade_tidy
    | with_reducible apply State.diagLanesLost_tidy
    | with_reducible apply State.diagRecord_tidy
    | with_reducible apply State.diagRefresh_tidy
    | with_reducible apply State.Tidy.ite
    | (with_reducible refine State.mk_tidy rfl ?_; first | with_reducible assumption)

theorem execDiagLaneLoss_tidy (link : Fin 2) (guide : Fin 40) (wave : Fin 9) (s : State) (h_s : s.Tidy) : ∀ t_,
    execDiagLaneLoss link guide wave s = .next t_ → t_.Tidy := by
  intro t_ h_
  unfold execDiagLaneLoss at h_
  repeat' first
    | (injection h_ with h_; subst h_)
    | split at h_
    | cases h_
  all_goals
    repeat' first
      | with_reducible assumption
      | with_reducible apply State.diagLoss_tidy

theorem State.setLit_tidy (s : State) (n feed wave : Nat) (lit : Bool) (h_s : s.Tidy) : (State.setLit s n feed wave
    lit).Tidy := by
  unfold State.setLit
  repeat' first
    | with_reducible assumption
    | (focus ((try lift_lets); intro x_; refine (fun (h_ : State.Tidy x_) => ?_) ?_; clear_value x_))
    | (subst x_)
    | with_reducible apply State.diagRefresh_tidy
    | with_reducible apply State.feedCheck_tidy
    | with_reducible apply State.put_tidy
    | with_reducible apply State.Tidy.ite

theorem execWavelengthLit_tidy (n : Fin 16) (feed : Fin 2) (wave : Fin 9) (s : State) (h_s : s.Tidy) : ∀ t_,
    execWavelengthLit n feed wave s = .next t_ → t_.Tidy := by
  intro t_ h_
  unfold execWavelengthLit at h_
  repeat' first
    | (injection h_ with h_; subst h_)
    | split at h_
    | cases h_
  all_goals
    repeat' first
      | with_reducible assumption
      | with_reducible apply State.setLit_tidy

theorem execLanesRelocked_tidy (n : Fin 16) (s : State) (h_s : s.Tidy) : ∀ t_, execLanesRelocked n s = .next t_ →
    t_.Tidy := by
  intro t_ h_
  unfold execLanesRelocked at h_
  repeat' first
    | (injection h_ with h_; subst h_)
    | split at h_
    | cases h_
  all_goals
    repeat' first
      | with_reducible assumption
      | (subst x_)
      | with_reducible apply State.feedCheck_tidy
      | with_reducible apply State.Tidy.ite
      | (with_reducible refine State.mk_tidy rfl ?_; first | with_reducible assumption)

theorem State.frameIn_tidy (s : State) (e type : Nat) (f : OptFrame) (run : State → State) (h_s : s.Tidy) (k_run :
    Keeps1 run) : (State.frameIn s e type f run).Tidy := by
  unfold State.frameIn
  repeat' first
    | with_reducible assumption
    | (with_reducible refine Keeps1.intro (fun s_ h_ => ?_))
    | (focus ((try lift_lets); intro x_; refine (fun (h_ : State.Tidy x_) => ?_) ?_; clear_value x_))
    | (subst x_)
    | (refine k_run _ ?_)
    | with_reducible apply State.count_tidy
    | with_reducible apply State.setLink_tidy
    | with_reducible apply State.Tidy.ite

theorem State.dataIn_tidy (s : State) (e : Nat) (f : OptFrame) (h_s : s.Tidy) : (State.dataIn s e f).Tidy := by
  unfold State.dataIn
  repeat' first
    | with_reducible assumption
    | (subst x_)
    | with_reducible apply State.count_tidy
    | with_reducible apply State.setLink_tidy
    | with_reducible apply State.Tidy.ite

theorem execDataFrame_tidy (e : Fin 32) (f : OptFrame) (s : State) (h_s : s.Tidy) : ∀ t_, execDataFrame e f s = .next
    t_ → t_.Tidy := by
  intro t_ h_
  unfold execDataFrame at h_
  repeat' first
    | (injection h_ with h_; subst h_)
    | split at h_
    | cases h_
  all_goals
    repeat' first
      | with_reducible assumption
      | (with_reducible refine Keeps1.intro (fun s_ h_ => ?_))
      | with_reducible apply State.dataIn_tidy
      | with_reducible apply State.frameIn_tidy

theorem execIdleFrame_tidy (e : IdleFrame) (s : State) (h_s : s.Tidy) : ∀ t_, execIdleFrame e s = .next t_ → t_.Tidy
    := by
  intro t_ h_
  unfold execIdleFrame at h_
  repeat' first
    | (injection h_ with h_; subst h_)
    | split at h_
    | cases h_
  all_goals
    repeat' first
      | with_reducible assumption
      | (with_reducible refine Keeps1.intro (fun s_ h_ => ?_))
      | with_reducible apply State.frameIn_tidy

theorem State.resend_tidy (s : State) (e : Nat) (h_s : s.Tidy) : (State.resend s e).Tidy := by
  unfold State.resend
  repeat' first
    | with_reducible assumption
    | (subst x_)
    | with_reducible apply State.count_tidy
    | with_reducible apply State.report_tidy
    | with_reducible apply State.transmit_tidy
    | with_reducible apply State.Tidy.ite

theorem State.controlIn_tidy (s : State) (e : Nat) (p : Nat) (h_s : s.Tidy) : (State.controlIn s e p).Tidy := by
  unfold State.controlIn
  repeat' first
    | with_reducible assumption
    | (focus ((try lift_lets); intro x_; refine (fun (h_ : State.Tidy x_) => ?_) ?_; clear_value x_))
    | (subst x_)
    | with_reducible apply State.pump_tidy
    | with_reducible apply State.refillAllocs_tidy
    | with_reducible apply State.resend_tidy
    | with_reducible apply State.setLink_tidy
    | with_reducible apply State.Tidy.ite

theorem execControlFrame_tidy (e : Fin 32) (f : OptFrame) (s : State) (h_s : s.Tidy) : ∀ t_, execControlFrame e f s =
    .next t_ → t_.Tidy := by
  intro t_ h_
  unfold execControlFrame at h_
  repeat' first
    | (injection h_ with h_; subst h_)
    | split at h_
    | cases h_
  all_goals
    repeat' first
      | with_reducible assumption
      | (with_reducible refine Keeps1.intro (fun s_ h_ => ?_))
      | with_reducible apply State.controlIn_tidy
      | with_reducible apply State.frameIn_tidy

theorem execResendTimeout_tidy (e : Fin 32) (s : State) (h_s : s.Tidy) : ∀ t_, execResendTimeout e s = .next t_ →
    t_.Tidy := by
  intro t_ h_
  unfold execResendTimeout at h_
  repeat' first
    | (injection h_ with h_; subst h_)
    | split at h_
    | cases h_
  all_goals
    repeat' first
      | with_reducible assumption
      | with_reducible apply State.resend_tidy
      | with_reducible apply State.Tidy.ite

theorem State.slChange_tidy (s : State) (e st : Nat) (h_s : s.Tidy) : (State.slChange s e st).Tidy := by
  unfold State.slChange
  repeat' first
    | with_reducible assumption
    | with_reducible apply State.intSet_tidy
    | with_reducible apply State.put_tidy
    | with_reducible apply State.Tidy.ite

theorem State.itemFailed_tidy (s : State) (e id : Nat) (h_s : s.Tidy) : (State.itemFailed s e id).Tidy := by
  unfold State.itemFailed
  repeat' first
    | with_reducible assumption
    | (subst x_)
    | with_reducible apply State.collFail_tidy
    | with_reducible apply State.count_tidy
    | (with_reducible refine State.mk_tidy rfl ?_; first | with_reducible assumption)
    | split

theorem State.failLink_tidy (s : State) (e : Nat) (h_s : s.Tidy) : (State.failLink s e).Tidy := by
  unfold State.failLink
  repeat' first
    | with_reducible assumption
    | (with_reducible refine Keeps.intro (fun s_ y_ h_ => ?_))
    | (focus ((try lift_lets); intro x_; refine (fun (h_ : State.Tidy x_) => ?_) ?_; clear_value x_))
    | (subst x_)
    | (focus ((try lift_lets); intro x_; (first | (have q_ : Snp := x_)); clear q_; subst x_))
    | with_reducible apply State.count_tidy
    | with_reducible apply State.itemFailed_tidy
    | with_reducible apply State.setLink_tidy
    | with_reducible apply State.snpLinkFail_tidy
    | with_reducible apply State.Tidy.each

theorem State.trainFeed_tidy (s : State) (e : Nat) (h_s : s.Tidy) : (State.trainFeed s e).Tidy := by
  unfold State.trainFeed
  repeat' first
    | with_reducible assumption
    | (subst x_)
    | with_reducible apply State.selectFeed_tidy
    | with_reducible apply State.Tidy.ite

theorem State.slTrain_tidy (s : State) (e : Nat) (field : Bool) (h_s : s.Tidy) : (State.slTrain s e field).Tidy := by
  unfold State.slTrain
  repeat' first
    | with_reducible assumption
    | (focus ((try lift_lets); intro x_; refine (fun (h_ : State.Tidy x_) => ?_) ?_; clear_value x_))
    | (subst x_)
    | with_reducible apply State.count_tidy
    | with_reducible apply State.setLink_tidy
    | with_reducible apply State.slChange_tidy
    | with_reducible apply State.trainFeed_tidy
    | with_reducible apply State.trained_tidy
    | with_reducible apply State.Tidy.ite

theorem State.slDown_tidy (s : State) (e : Nat) (h_s : s.Tidy) : (State.slDown s e).Tidy := by
  unfold State.slDown
  repeat' first
    | with_reducible assumption
    | (focus ((try lift_lets); intro x_; refine (fun (h_ : State.Tidy x_) => ?_) ?_; clear_value x_))
    | (subst x_)
    | with_reducible apply State.count_tidy
    | with_reducible apply State.failLink_tidy
    | with_reducible apply State.peersLost_tidy
    | with_reducible apply State.setLink_tidy
    | with_reducible apply State.slChange_tidy

theorem State.subOn_tidy (s : State) (e : Nat) (h_s : s.Tidy) : (State.subOn s e).Tidy := by
  unfold State.subOn
  repeat' first
    | with_reducible assumption
    | with_reducible apply State.slDown_tidy
    | with_reducible apply State.slTrain_tidy
    | with_reducible apply State.Tidy.ite

theorem State.subOff_tidy (s : State) (e : Nat) (h_s : s.Tidy) : (State.subOff s e).Tidy := by
  unfold State.subOff
  repeat' first
    | with_reducible assumption
    | (focus ((try lift_lets); intro x_; refine (fun (h_ : State.Tidy x_) => ?_) ?_; clear_value x_))
    | (subst x_)
    | with_reducible apply State.failLink_tidy
    | with_reducible apply State.peersLost_tidy
    | with_reducible apply State.setLink_tidy
    | with_reducible apply State.slChange_tidy
    | with_reducible apply State.Tidy.ite

theorem execDownRetry_tidy (e : Fin 32) (s : State) (h_s : s.Tidy) : ∀ t_, execDownRetry e s = .next t_ → t_.Tidy := by
  intro t_ h_
  unfold execDownRetry at h_
  repeat' first
    | (injection h_ with h_; subst h_)
    | split at h_
    | cases h_
  all_goals
    repeat' first
      | with_reducible assumption
      | with_reducible apply State.slTrain_tidy
      | with_reducible apply State.Tidy.ite

theorem execLaneFault_tidy (e : Fin 32) (s : State) (h_s : s.Tidy) : ∀ t_, execLaneFault e s = .next t_ → t_.Tidy := by
  intro t_ h_
  unfold execLaneFault at h_
  repeat' first
    | (injection h_ with h_; subst h_)
    | split at h_
    | cases h_
  all_goals
    repeat' first
      | with_reducible assumption
      | with_reducible apply State.slTrain_tidy
      | with_reducible apply State.Tidy.ite

theorem State.putLanes_tidy (s : State) (n f : Nat) (x : Lanes) (h_s : s.Tidy) : (State.putLanes s n f x).Tidy := by
  unfold State.putLanes
  repeat' first
    | with_reducible assumption
    | (focus ((try lift_lets); intro x_; refine (fun (h_ : State.Tidy x_) => ?_) ?_; clear_value x_))
    | (subst x_)
    | with_reducible apply State.flag_tidy
    | with_reducible apply State.lost_tidy
    | with_reducible apply State.put_tidy

theorem State.trained_tidy (s : State) (e : Nat) (tx rx : Lanes) (h_s : s.Tidy) : (State.trained s e tx rx).Tidy := by
  unfold State.trained
  repeat' first
    | with_reducible assumption
    | (focus ((try lift_lets); intro x_; refine (fun (h_ : State.Tidy x_) => ?_) ?_; clear_value x_))
    | (subst x_)
    | (focus ((try lift_lets); intro x_; (first | (have q_ : Fig := x_)); clear q_; subst x_))
    | with_reducible apply State.count_tidy
    | with_reducible apply State.intSet_tidy
    | with_reducible apply State.putLanes_tidy
    | with_reducible apply State.put_tidy
    | with_reducible apply State.Tidy.ite
    | (with_reducible refine State.mk_tidy rfl ?_; first | with_reducible assumption)

theorem State.meet_tidy (s : State) (e : Nat) (peer : Nat) (h_s : s.Tidy) : (State.meet s e peer).Tidy := by
  unfold State.meet
  repeat' first
    | with_reducible assumption
    | (focus ((try lift_lets); intro x_; refine (fun (h_ : State.Tidy x_) => ?_) ?_; clear_value x_))
    | (subst x_)
    | (focus ((try lift_lets); intro x_; (first | (have q_ : Fig := x_)); clear q_; subst x_))
    | with_reducible apply State.count_tidy
    | with_reducible apply State.failLink_tidy
    | with_reducible apply State.put_tidy
    | with_reducible apply State.resetCredits_tidy
    | with_reducible apply State.setLink_tidy
    | with_reducible apply State.writeAlloc_tidy
    | with_reducible apply State.Tidy.ite

theorem State.joinDrain_tidy (s : State) (e : Nat) (h_s : s.Tidy) : (State.joinDrain s e).Tidy := by
  unfold State.joinDrain
  repeat' first
    | with_reducible assumption
    | (subst x_)
    | (focus ((try lift_lets); intro x_; (first | (have q_ : Fig := x_)); clear q_; subst x_))
    | with_reducible apply State.Tidy.ite
    | (with_reducible refine State.mk_tidy rfl ?_; first | with_reducible assumption)
    | split

theorem State.trainEnd_tidy (s : State) (e : Nat) (t : TrainResult) (h_s : s.Tidy) : (State.trainEnd s e t).Tidy := by
  unfold State.trainEnd
  repeat' first
    | with_reducible assumption
    | (focus ((try lift_lets); intro x_; refine (fun (h_ : State.Tidy x_) => ?_) ?_; clear_value x_))
    | (subst x_)
    | with_reducible apply State.count_tidy
    | with_reducible apply State.flag_tidy
    | with_reducible apply State.flushUnsent_tidy
    | with_reducible apply State.joinDrain_tidy
    | with_reducible apply State.meet_tidy
    | with_reducible apply State.pump_tidy
    | with_reducible apply State.put_tidy
    | with_reducible apply State.slChange_tidy
    | with_reducible apply State.slDown_tidy
    | with_reducible apply State.trained_tidy
    | with_reducible apply State.Tidy.ite

theorem execTrainingComplete_tidy (e : Fin 32) (t : TrainResult) (s : State) (h_s : s.Tidy) : ∀ t_,
    execTrainingComplete e t s = .next t_ → t_.Tidy := by
  intro t_ h_
  unfold execTrainingComplete at h_
  repeat' first
    | (injection h_ with h_; subst h_)
    | split at h_
    | cases h_
  all_goals
    repeat' first
      | with_reducible assumption
      | with_reducible apply State.trainEnd_tidy

theorem State.laneRecord_tidy (s : State) (e row : Nat) (h_s : s.Tidy) : (State.laneRecord s e row).Tidy := by
  unfold State.laneRecord
  repeat' first
    | with_reducible assumption
    | with_reducible apply State.report_tidy

theorem State.fieldLane_tidy (s : State) (e f : Nat) (spareOk : Bool) (l : Nat) (h_s : s.Tidy) : (State.fieldLane s e
    f spareOk l).Tidy := by
  unfold State.fieldLane
  repeat' first
    | with_reducible assumption
    | (focus ((try lift_lets); intro x_; refine (fun (h_ : State.Tidy x_) => ?_) ?_; clear_value x_))
    | (subst x_)
    | with_reducible apply State.count_tidy
    | with_reducible apply State.degrade_tidy
    | with_reducible apply State.intSet_tidy
    | with_reducible apply State.laneRecord_tidy
    | with_reducible apply State.lost_tidy
    | with_reducible apply State.putLanes_tidy
    | with_reducible apply State.Tidy.ite

theorem State.fieldFibre_tidy (s : State) (e f : Nat) (fails : List (Fin 9)) (gen1 : Bool) (h_s : s.Tidy) :
    (State.fieldFibre s e f fails gen1).Tidy := by
  unfold State.fieldFibre
  repeat' first
    | with_reducible assumption
    | (with_reducible refine Keeps.intro (fun s_ y_ h_ => ?_))
    | (subst x_)
    | with_reducible apply State.fieldLane_tidy
    | with_reducible apply State.lost_tidy
    | with_reducible apply State.Tidy.each

theorem State.fieldEnd_tidy (s : State) (e : Nat) (t : TrainResult) (h_s : s.Tidy) : (State.fieldEnd s e t).Tidy := by
  unfold State.fieldEnd
  repeat' first
    | with_reducible assumption
    | (focus ((try lift_lets); intro x_; refine (fun (h_ : State.Tidy x_) => ?_) ?_; clear_value x_))
    | (subst x_)
    | with_reducible apply State.count_tidy
    | with_reducible apply State.fieldFibre_tidy
    | with_reducible apply State.flushUnsent_tidy
    | with_reducible apply State.laneRecord_tidy
    | with_reducible apply State.pump_tidy
    | with_reducible apply State.setLink_tidy
    | with_reducible apply State.slChange_tidy
    | with_reducible apply State.slDown_tidy
    | with_reducible apply State.trained_tidy
    | with_reducible apply State.Tidy.ite

theorem execFieldRetrainingDone_tidy (e : Fin 32) (t : TrainResult) (s : State) (h_s : s.Tidy) : ∀ t_,
    execFieldRetrainingDone e t s = .next t_ → t_.Tidy := by
  intro t_ h_
  unfold execFieldRetrainingDone at h_
  repeat' first
    | (injection h_ with h_; subst h_)
    | split at h_
    | cases h_
  all_goals
    repeat' first
      | with_reducible assumption
      | with_reducible apply State.fieldEnd_tidy

theorem State.otdrBegin_tidy (s : State) (n : Nat) (h_s : s.Tidy) : (State.otdrBegin s n).Tidy := by
  unfold State.otdrBegin
  repeat' first
    | with_reducible assumption
    | (subst x_)
    | with_reducible apply State.put_tidy
    | with_reducible apply State.Tidy.ite

theorem State.otdrFinish_tidy (s : State) (n : Nat) (events : List (Nat × Nat)) (h_s : s.Tidy) : (State.otdrFinish s
    n events).Tidy := by
  unfold State.otdrFinish
  repeat' first
    | with_reducible assumption
    | (with_reducible refine Keeps.intro (fun s_ y_ h_ => ?_))
    | (focus ((try lift_lets); intro x_; refine (fun (h_ : State.Tidy x_) => ?_) ?_; clear_value x_))
    | (subst x_)
    | (focus ((try lift_lets); intro x_; refine (fun (h_ : State.Tidy x_.2) => ?_) ?_; clear_value x_))
    | with_reducible apply State.draw_tidy
    | with_reducible apply State.otdrEnd_tidy
    | with_reducible apply State.put_tidy
    | with_reducible apply State.take_tidy
    | with_reducible apply State.Tidy.ite
    | with_reducible apply State.Tidy.foldl
    | (with_reducible refine forUpto_tidy (fun i_ s_ h_ => ?_) _ ?_)
    | split

theorem execOtdrDone_tidy (n : Fin 16) (events : List (BitVec 20 × BitVec 8)) (s : State) (h_s : s.Tidy) : ∀ t_,
    execOtdrDone n events s = .next t_ → t_.Tidy := by
  intro t_ h_
  unfold execOtdrDone at h_
  repeat' first
    | (injection h_ with h_; subst h_)
    | split at h_
    | cases h_
  all_goals
    repeat' first
      | with_reducible assumption
      | with_reducible apply State.otdrFinish_tidy

end Sys2Proof.Machine
end

