-- ==== Sys2Proof/Laws/TidyBundle.lean ====
section
/-! SUPPORT. Every function of Machine/Bundle.lean that answers a state keeps the canonical form (`State.Tidy`): one lemma
per function, named after it. -/

namespace Sys2Proof.Machine

theorem State.countD2d_tidy (s : State) (d : Nat) (c : Fld) (k : Nat) (h_s : s.Tidy) : (State.countD2d s d c k).Tidy
    := by
  unfold State.countD2d
  repeat' first
    | with_reducible assumption
    | with_reducible apply State.count_tidy

theorem State.relay_tidy (s : State) (d b : Nat) (f : BundleFrame) (h_s : s.Tidy) :
    ∀ t_, State.relay s d b f = some t_ → t_.Tidy := by
  intro t h
  unfold State.relay at h
  dsimp only at h
  split at h
  · cases h; exact h_s
  split at h
  · cases h
  · rename_i p items _
    have hp := State.setPart_tidy d b p h_s
    split at h
    · cases h; exact State.setCrossed_tidy _ _ hp
    split at h
    · cases h; exact State.setCrossed_tidy _ _ hp
    split at h
    · cases h; exact hp
    · obtain ⟨l, _, rfl⟩ := Option.map_eq_some_iff.mp h
      exact State.setCrossed_tidy _ _ hp

theorem State.bundleData_tidy (s : State) (d b : Nat) (f : BundleFrame) (h_s : s.Tidy) : (State.bundleData s d b
    f).Tidy := by
  unfold State.bundleData
  dsimp only
  split
  · exact h_s
  split
  · exact State.setBundle_tidy _ _ _ h_s
  split
  · exact h_s
  split
  · exact h_s
  · rename_i t h
    have ht : t.Tidy := by
      split at h
      · exact State.relay_tidy _ _ _ _ h_s _ h
      · cases h; exact h_s
    exact State.setBundle_tidy _ _ _ (State.Tidy.when (fun _ h => State.setMoved_tidy _ _ h) ht)

theorem execBundleDataFrame_tidy (d : Fin 4) (b : Fin 1024) (f : BundleFrame) (s : State) (h_s : s.Tidy) : ∀ t_,
    execBundleDataFrame d b f s = .next t_ → t_.Tidy := by
  intro t_ h_
  unfold execBundleDataFrame at h_
  repeat' first
    | (injection h_ with h_; subst h_)
    | split at h_
    | cases h_
  all_goals
    repeat' first
      | with_reducible assumption
      | with_reducible apply State.bundleData_tidy

theorem State.bundleHandshake_tidy (s : State) (d b : Nat) (f : HandshakeFrame) (h_s : s.Tidy) :
    (State.bundleHandshake s d b f).Tidy := by
  unfold State.bundleHandshake
  repeat' first
    | with_reducible assumption
    | (subst x_)
    | with_reducible apply State.countD2d_tidy
    | with_reducible apply State.report_tidy
    | with_reducible apply State.setBundle_tidy
    | with_reducible apply State.Tidy.ite

theorem execBundleHandshakeFrame_tidy (d : Fin 4) (b : Fin 1024) (f : HandshakeFrame) (s : State) (h_s : s.Tidy) : ∀
    t_, execBundleHandshakeFrame d b f s = .next t_ → t_.Tidy := by
  intro t_ h_
  unfold execBundleHandshakeFrame at h_
  repeat' first
    | (injection h_ with h_; subst h_)
    | split at h_
    | cases h_
  all_goals
    repeat' first
      | with_reducible assumption
      | with_reducible apply State.bundleHandshake_tidy

theorem State.setLane_tidy (s : State) (d b w : Nat) (h_s : s.Tidy) : (State.setLane s d b w).Tidy := by
  unfold State.setLane
  repeat' first
    | with_reducible assumption
    | (subst x_)
    | (focus ((try lift_lets); intro x_; (fail_if_success (have q_ : x_ = fun a_ => x_ a_ := rfl)); clear_value x_))
    | with_reducible apply State.put_tidy
    | with_reducible apply State.setWord_tidy
    | with_reducible apply State.Tidy.ite

theorem State.laneTo_tidy (s : State) (d b w : Nat) (h_s : s.Tidy) : (State.laneTo s d b w).Tidy := by
  unfold State.laneTo
  repeat' first
    | with_reducible assumption
    | (focus ((try lift_lets); intro x_; refine (fun (h_ : State.Tidy x_) => ?_) ?_; clear_value x_))
    | (subst x_)
    | with_reducible apply State.intSet_tidy
    | with_reducible apply State.setLane_tidy
    | with_reducible apply State.Tidy.ite

theorem State.bundleRecord_tidy (s : State) (d b : Nat) (flags : ErrFlags) (h_s : s.Tidy) : (State.bundleRecord s d b
    flags).Tidy := by
  unfold State.bundleRecord
  repeat' first
    | with_reducible assumption
    | (subst x_)
    | with_reducible apply State.report_tidy

theorem State.moveTraffic_tidy (s : State) (d b : Nat) (h_s : s.Tidy) : (State.moveTraffic s d b).Tidy := by
  unfold State.moveTraffic
  repeat' first
    | with_reducible assumption
    | (with_reducible refine Keeps.intro (fun s_ y_ h_ => ?_))
    | (subst x_)
    | with_reducible apply State.setBundle_tidy
    | with_reducible apply State.setMoved_tidy

theorem State.borrow_tidy (s : State) (d b : Nat) (field : Bool) (h_s : s.Tidy) : (State.borrow s d b field).Tidy := by
  unfold State.borrow
  repeat' first
    | with_reducible assumption
    | (focus ((try lift_lets); intro x_; refine (fun (h_ : State.Tidy x_) => ?_) ?_; clear_value x_))
    | (subst x_)
    | (focus ((try lift_lets); intro x_; (fail_if_success (have q_ : x_ = fun a_ => x_ a_ := rfl)); clear_value x_))
    | ((try lift_lets); intro x_)
    | with_reducible apply State.bundleRecord_tidy
    | with_reducible apply State.countD2d_tidy
    | with_reducible apply State.laneTo_tidy
    | with_reducible apply State.moveTraffic_tidy
    | with_reducible apply State.setMoved_tidy
    | with_reducible apply State.setPart_tidy
    | with_reducible apply State.Tidy.ite
    | (with_reducible refine State.mk_tidy rfl ?_; first | with_reducible assumption)
    | split

theorem State.dropBundles_tidy (s : State) (d : Nat) (h_s : s.Tidy) : (State.dropBundles s d).Tidy :=
  { h_s with
    bundles := Table.wf_filter _ _ _ h_s.bundles, moved := Table.wf_filter _ _ _ h_s.moved
    parts := Table.wf_filter _ _ _ h_s.parts }

theorem State.trainBundles_tidy (s : State) (d : Nat) (tests : List BundleTest) (h_s : s.Tidy) : (State.trainBundles
    s d tests).Tidy := by
  unfold State.trainBundles
  repeat' first
    | with_reducible assumption
    | (with_reducible refine Keeps.intro (fun s_ y_ h_ => ?_))
    | (focus ((try lift_lets); intro x_; refine (fun (h_ : State.Tidy x_) => ?_) ?_; clear_value x_))
    | (subst x_)
    | with_reducible apply State.borrow_tidy
    | with_reducible apply State.dropBundles_tidy
    | with_reducible apply State.intSet_tidy
    | with_reducible apply State.setBundle_tidy
    | with_reducible apply State.setLane_tidy
    | with_reducible apply State.Tidy.ite
    | with_reducible apply State.Tidy.each

theorem State.bundleTo_tidy (s : State) (d b st : Nat) (spares : List Nat) (mapped : Nat) (flags : ErrFlags) (h_s :
    s.Tidy) : (State.bundleTo s d b st spares mapped flags).Tidy := by
  unfold State.bundleTo
  repeat' first
    | with_reducible assumption
    | (focus ((try lift_lets); intro x_; refine (fun (h_ : State.Tidy x_) => ?_) ?_; clear_value x_))
    | (subst x_)
    | with_reducible apply State.borrow_tidy
    | with_reducible apply State.bundleRecord_tidy
    | with_reducible apply State.countD2d_tidy
    | with_reducible apply State.degrade_tidy
    | with_reducible apply State.laneTo_tidy
    | with_reducible apply State.moveTraffic_tidy
    | with_reducible apply State.Tidy.ite

theorem State.retrainOver_tidy (s : State) (d b : Nat) (h_s : s.Tidy) : (State.retrainOver s d b).Tidy := by
  unfold State.retrainOver
  repeat' first
    | with_reducible assumption
    | with_reducible apply State.actionEnd_tidy
    | with_reducible apply State.winClose_tidy

theorem State.retrainDone_tidy (s : State) (d : Nat) (t : BundleTest) (h_s : s.Tidy) : (State.retrainDone s d t).Tidy
    := by
  unfold State.retrainDone
  repeat' first
    | with_reducible assumption
    | (focus ((try lift_lets); intro x_; refine (fun (h_ : State.Tidy x_) => ?_) ?_; clear_value x_))
    | (subst x_)
    | (focus ((try lift_lets); intro x_; (fail_if_success (have q_ : x_ = fun a_ => x_ a_ := rfl)); clear_value x_))
    | ((try lift_lets); intro x_)
    | with_reducible apply State.bundleTo_tidy
    | with_reducible apply State.retrainOver_tidy
    | with_reducible apply State.retrain_tidy
    | with_reducible apply State.setBundle_tidy
    | with_reducible apply State.Tidy.ite
    | (with_reducible refine State.mk_tidy rfl ?_; first | with_reducible assumption)
    | split

theorem execBundleRetrainDone_tidy (d : Fin 4) (t : BundleTest) (s : State) (h_s : s.Tidy) : ∀ t_,
    execBundleRetrainDone d t s = .next t_ → t_.Tidy := by
  intro t_ h_
  unfold execBundleRetrainDone at h_
  repeat' first
    | (injection h_ with h_; subst h_)
    | split at h_
    | cases h_
  all_goals
    repeat' first
      | with_reducible assumption
      | with_reducible apply State.retrainDone_tidy

theorem State.bundleFence_tidy (s : State) (d b : Nat) (second : Bool) (h_s : s.Tidy) : (State.bundleFence s d b
    second).Tidy := by
  unfold State.bundleFence
  repeat' first
    | with_reducible assumption
    | (focus ((try lift_lets); intro x_; refine (fun (h_ : State.Tidy x_) => ?_) ?_; clear_value x_))
    | (subst x_)
    | (focus ((try lift_lets); intro x_; (fail_if_success (have q_ : x_ = fun a_ => x_ a_ := rfl)); clear_value x_))
    | ((try lift_lets); intro x_)
    | with_reducible apply State.bundleTo_tidy
    | with_reducible apply State.retrainOver_tidy
    | with_reducible apply State.setBundle_tidy
    | with_reducible apply State.Tidy.ite
    | (with_reducible refine State.mk_tidy rfl ?_; first | with_reducible assumption)
    | split

theorem State.dieTo_tidy (s : State) (d st : Nat) (h_s : s.Tidy) : (State.dieTo s d st).Tidy := by
  unfold State.dieTo
  repeat' first
    | with_reducible assumption
    | with_reducible apply State.intSet_tidy
    | with_reducible apply State.put_tidy
    | with_reducible apply State.Tidy.ite

theorem State.stopFloorWork_tidy (s : State) (c : Cmd) (h_s : s.Tidy) : (State.stopFloorWork s c).Tidy := by
  unfold State.stopFloorWork
  repeat' first
    | with_reducible assumption
    | (with_reducible refine Keeps.intro (fun s_ y_ h_ => ?_))
    | (focus ((try lift_lets); intro x_; refine (fun (h_ : State.Tidy x_) => ?_) ?_; clear_value x_))
    | (subst x_)
    | with_reducible apply State.caddStop_tidy
    | with_reducible apply State.drainHeld_tidy
    | with_reducible apply State.dropCmd_tidy
    | with_reducible apply State.undefine_tidy
    | with_reducible apply State.Tidy.ite
    | with_reducible apply State.Tidy.each
    | (with_reducible refine State.mk_tidy rfl ?_; first | with_reducible assumption)
    | split

theorem State.dropClaims_tidy (s : State) (gone : List Cmd) (h_s : s.Tidy) : (State.dropClaims s gone).Tidy := by
  unfold State.dropClaims
  repeat' first
    | with_reducible assumption
    | (with_reducible refine Keeps.intro (fun s_ y_ h_ => ?_))
    | (focus ((try lift_lets); intro x_; refine (fun (h_ : State.Tidy x_) => ?_) ?_; clear_value x_))
    | (subst x_)
    | with_reducible apply State.flag_tidy
    | with_reducible apply State.Tidy.each
    | (with_reducible refine State.mk_tidy rfl ?_; first | with_reducible assumption)

theorem State.dropRetrains_tidy (s : State) (d : Nat) (h_s : s.Tidy) : (State.dropRetrains s d).Tidy := by
  unfold State.dropRetrains
  repeat' first
    | with_reducible assumption
    | (focus ((try lift_lets); intro x_; refine (fun (h_ : State.Tidy x_) => ?_) ?_; clear_value x_))
    | (subst x_)
    | (focus ((try lift_lets); intro x_; (fail_if_success (have q_ : x_ = fun a_ => x_ a_ := rfl)); clear_value x_))
    | ((try lift_lets); intro x_)
    | with_reducible apply State.setActs_tidy
    | (with_reducible refine State.mk_tidy rfl ?_; first | with_reducible assumption)

theorem State.declareAbsent_tidy (s : State) (d cause : Nat) (h_s : s.Tidy) : (State.declareAbsent s d cause).Tidy := by
  unfold State.declareAbsent
  lift_lets
  intro s1 s2 s3 grand own s4 s5 c1 c2 s6
  have h3 : s3.Tidy := State.winOpen_tidy _ _ (State.count_tidy _ _ _ _ (State.put_tidy _ _ _ (State.dieTo_tidy _ _ _ h_s)))
  have h4 : s4.Tidy := State.Tidy.each (fun _ _ h => State.arrayRelease_tidy _ _ h) h3
  have h5 : s5.Tidy := State.dropRetrains_tidy _ _ (State.dropClaims_tidy _ _
    (State.Tidy.each (fun _ _ h => State.dropCmd_tidy _ _ h) h4))
  clear_value s5
  have h6 : s6.Tidy := h5.cmds ((mapIf_id _ (fun c => { c with orphan := true }) (fun _ => rfl) _).trans
    (mapIf_id grand (fun c => { c with error := some (Err.DIE_ABSENT, d) }) (fun _ => rfl) _))
  exact { h6 with }

theorem State.clearDie_tidy (s : State) (d : Nat) (h_s : s.Tidy) : (State.clearDie s d).Tidy := by
  unfold State.clearDie
  lift_lets
  intro s1 mine th s2
  have h1 : s1.Tidy := State.rebase_tidy _ _ _ h_s
  clear_value s1
  have h2 : s2.Tidy := h1.cut
    (Table.wf_filter _ _ _ h1.regs) (Table.wf_filter _ _ _ h1.chosen) (Table.wf_filter _ _ _ h1.cells)
    (Table.wf_filter _ _ _ h1.queues) (Table.wf_filter _ _ _ h1.jobs) (Table.wf_filter _ _ _ h1.units)
    (Table.wf_filter _ _ _ h1.sampled) (Table.wf_filter _ _ _ h1.markers) (Table.wf_filter _ _ _ h1.actions)
    (Table.wf_filter _ _ _ h1.crossing)
  exact State.dropBundles_tidy _ _ h2

theorem State.enterReset_tidy (s : State) (d : Nat) (h_s : s.Tidy) : (State.enterReset s d).Tidy := by
  unfold State.enterReset
  repeat' first
    | with_reducible assumption
    | (with_reducible refine Keeps.intro (fun s_ y_ h_ => ?_))
    | with_reducible apply State.clearDie_tidy
    | with_reducible apply State.dieTo_tidy
    | with_reducible apply State.endStorm_tidy
    | with_reducible apply State.resumeMaybe_tidy
    | with_reducible apply State.Tidy.each

theorem State.resetMaybe_tidy (s : State) (d : Nat) (h_s : s.Tidy) : (State.resetMaybe s d).Tidy := by
  unfold State.resetMaybe
  repeat' first
    | with_reducible assumption
    | with_reducible apply State.enterReset_tidy
    | with_reducible apply State.Tidy.ite

theorem State.causeAbsent_tidy (s : State) (h_s : s.Tidy) : (State.causeAbsent s).Tidy := by
  unfold State.causeAbsent
  repeat' first
    | with_reducible assumption
    | (with_reducible refine Keeps.intro (fun s_ y_ h_ => ?_))
    | (focus ((try lift_lets); intro x_; refine (fun (h_ : State.Tidy x_) => ?_) ?_; clear_value x_))
    | (subst x_)
    | with_reducible apply State.setCause_tidy
    | with_reducible apply State.Tidy.ite
    | with_reducible apply State.Tidy.each
    | split
    | (with_reducible apply State.mk_wf <;> (repeat' first | exact Table.wf_nil _ | (exact queueWaits_wf Wait.queue (fun _ q => { q with wait := WaitSt.absent }) _ _ (State.Tidy.queues (by with_reducible assumption))) | exact List.Pairwise.nil | (with_reducible apply Table.wf_filter) | (with_reducible apply Table.wf_set) | (with_reducible apply pairwise_setInsert) | (with_reducible apply pairwise_setErase) | (with_reducible apply List.Pairwise.filter) | (exact State.Tidy.regs (by with_reducible assumption)) | (exact State.Tidy.mem (by with_reducible assumption)) | (exact State.Tidy.cells (by with_reducible assumption)) | (exact State.Tidy.queues (by with_reducible assumption)) | (exact State.Tidy.jobs (by with_reducible assumption)) | (exact State.Tidy.gates (by with_reducible assumption)) | (exact State.Tidy.pages (by with_reducible assumption)) | (exact State.Tidy.poison (by with_reducible assumption)) | (exact State.Tidy.units (by with_reducible assumption)) | (exact State.Tidy.links (by with_reducible assumption)) | (exact State.Tidy.bundles (by with_reducible assumption)) | (exact State.Tidy.actions (by with_reducible assumption)) | (exact State.Tidy.ports (by with_reducible assumption)) | (exact State.Tidy.sampled (by with_reducible assumption)) | (exact State.Tidy.markers (by with_reducible assumption)) | (exact State.Tidy.lostGen (by with_reducible assumption)) | (exact State.Tidy.lostSet (by with_reducible assumption)) | (exact State.Tidy.chosen (by with_reducible assumption)) | (exact State.Tidy.causes (by with_reducible assumption)) | (exact State.Tidy.moved (by with_reducible assumption)) | (exact State.Tidy.parts (by with_reducible assumption)) | (exact State.Tidy.crossing (by with_reducible assumption)) | (exact State.Tidy.image (by with_reducible assumption)) | (exact State.Tidy.chain (by with_reducible assumption)) | (exact State.Tidy.steps (by with_reducible assumption)) | (exact State.Tidy.reading (by with_reducible assumption)) | (exact State.Tidy.weights (by with_reducible assumption)) | (exact State.Tidy.dealt (by with_reducible assumption)) | (exact State.Tidy.health (by with_reducible assumption)) | (exact State.Tidy.meas (by with_reducible assumption)) | (exact State.Tidy.sums (by with_reducible assumption)) | (exact State.Tidy.spdm (by with_reducible assumption)) | (exact State.Tidy.ide (by with_reducible assumption)) | (exact State.Tidy.ids (by with_reducible assumption)) | (simp only [List.map_nil, List.nil_append, List.pairwise_singleton]; done) | (refine forUpto_wf (fun i_ m_ h_ => ?_) _ ?_) | with_reducible assumption | (intro p_ hp_; first | (exact State.Tidy.order (by with_reducible assumption) p_ hp_) | (exact State.Tidy.order (by with_reducible assumption) p_ (List.mem_filter.mp hp_).1) | (exact absurd hp_ (List.not_mem_nil)))))

theorem State.learn_tidy (s : State) (d : Nat) (h_s : s.Tidy) : (State.learn s d).Tidy := by
  unfold State.learn
  repeat' first
    | with_reducible assumption
    | (with_reducible refine Keeps.intro (fun s_ y_ h_ => ?_))
    | (focus ((try lift_lets); intro x_; refine (fun (h_ : State.Tidy x_) => ?_) ?_; clear_value x_))
    | (subst x_)
    | (focus ((try lift_lets); intro x_; refine (fun (h_ : State.Tidy x_.2) => ?_) ?_; clear_value x_))
    | (focus ((try lift_lets); intro x_; refine (fun (h_ : State.Tidy x_.1) => ?_) ?_; clear_value x_))
    | (focus ((try lift_lets); intro x_; (fail_if_success (have q_ : x_ = fun a_ => x_ a_ := rfl)); clear_value x_))
    | ((try lift_lets); intro x_)
    | with_reducible apply State.actionEnd_tidy
    | with_reducible apply State.arrayRelease_tidy
    | with_reducible apply State.aryUndefined_tidy
    | with_reducible apply State.capPut_tidy
    | with_reducible apply State.causeAbsent_tidy
    | with_reducible apply State.clxNext_tidy
    | with_reducible apply State.commitMaybe_tidy
    | with_reducible apply State.count_tidy
    | with_reducible apply State.dropBundles_tidy
    | with_reducible apply State.dropCmd_tidy
    | with_reducible apply State.endGroup_tidy
    | with_reducible apply State.fail_tidy
    | with_reducible apply State.gateSettle_tidy
    | with_reducible apply State.lost_tidy
    | with_reducible apply State.moveSlots_tidy
    | with_reducible apply State.pose_tidy
    | with_reducible apply State.refreshGrand_tidy
    | with_reducible apply State.report_tidy
    | with_reducible apply State.resetMaybe_tidy
    | with_reducible apply State.stopFloorWork_tidy
    | with_reducible apply State.Tidy.ite
    | with_reducible apply State.Tidy.each
    | with_reducible apply State.Tidy.foldl
    | (with_reducible refine State.mk_tidy rfl ?_; first | with_reducible assumption)
    | split
    | (with_reducible apply State.mk_wf <;> (repeat' first | exact Table.wf_nil _ | (exact queueWaits_wf Wait.queue (fun _ q => { q with wait := WaitSt.absent }) _ _ (State.Tidy.queues (by with_reducible assumption))) | exact List.Pairwise.nil | (with_reducible apply Table.wf_filter) | (with_reducible apply Table.wf_set) | (with_reducible apply pairwise_setInsert) | (with_reducible apply pairwise_setErase) | (with_reducible apply List.Pairwise.filter) | (exact State.Tidy.regs (by with_reducible assumption)) | (exact State.Tidy.mem (by with_reducible assumption)) | (exact State.Tidy.cells (by with_reducible assumption)) | (exact State.Tidy.queues (by with_reducible assumption)) | (exact State.Tidy.jobs (by with_reducible assumption)) | (exact State.Tidy.gates (by with_reducible assumption)) | (exact State.Tidy.pages (by with_reducible assumption)) | (exact State.Tidy.poison (by with_reducible assumption)) | (exact State.Tidy.units (by with_reducible assumption)) | (exact State.Tidy.links (by with_reducible assumption)) | (exact State.Tidy.bundles (by with_reducible assumption)) | (exact State.Tidy.actions (by with_reducible assumption)) | (exact State.Tidy.ports (by with_reducible assumption)) | (exact State.Tidy.sampled (by with_reducible assumption)) | (exact State.Tidy.markers (by with_reducible assumption)) | (exact State.Tidy.lostGen (by with_reducible assumption)) | (exact State.Tidy.lostSet (by with_reducible assumption)) | (exact State.Tidy.chosen (by with_reducible assumption)) | (exact State.Tidy.causes (by with_reducible assumption)) | (exact State.Tidy.moved (by with_reducible assumption)) | (exact State.Tidy.parts (by with_reducible assumption)) | (exact State.Tidy.crossing (by with_reducible assumption)) | (exact State.Tidy.image (by with_reducible assumption)) | (exact State.Tidy.chain (by with_reducible assumption)) | (exact State.Tidy.steps (by with_reducible assumption)) | (exact State.Tidy.reading (by with_reducible assumption)) | (exact State.Tidy.weights (by with_reducible assumption)) | (exact State.Tidy.dealt (by with_reducible assumption)) | (exact State.Tidy.health (by with_reducible assumption)) | (exact State.Tidy.meas (by with_reducible assumption)) | (exact State.Tidy.sums (by with_reducible assumption)) | (exact State.Tidy.spdm (by with_reducible assumption)) | (exact State.Tidy.ide (by with_reducible assumption)) | (exact State.Tidy.ids (by with_reducible assumption)) | (simp only [List.map_nil, List.nil_append, List.pairwise_singleton]; done) | (refine forUpto_wf (fun i_ m_ h_ => ?_) _ ?_) | with_reducible assumption | (intro p_ hp_; first | (exact State.Tidy.order (by with_reducible assumption) p_ hp_) | (exact State.Tidy.order (by with_reducible assumption) p_ (List.mem_filter.mp hp_).1) | (exact absurd hp_ (List.not_mem_nil)))))

theorem execAbsenceLearned_tidy (d : Fin 4) (s : State) (h_s : s.Tidy) : ∀ t_, execAbsenceLearned d s = .next t_ →
    t_.Tidy := by
  intro t_ h_
  unfold execAbsenceLearned at h_
  repeat' first
    | (injection h_ with h_; subst h_)
    | split at h_
    | cases h_
  all_goals
    repeat' first
      | with_reducible assumption
      | with_reducible apply State.learn_tidy
      | with_reducible apply State.Tidy.ite

theorem State.loseFloor_tidy (s : State) (d : Nat) (h_s : s.Tidy) : (State.loseFloor s d).Tidy := by
  unfold State.loseFloor
  repeat' first
    | with_reducible assumption
    | (with_reducible refine Keeps.intro (fun s_ y_ h_ => ?_))
    | with_reducible apply State.halt_tidy
    | with_reducible apply State.put_tidy
    | with_reducible apply State.Tidy.each

theorem execFloorLost_tidy (d : Fin 4) (s : State) (h_s : s.Tidy) : ∀ t_, execFloorLost d s = .next t_ → t_.Tidy := by
  intro t_ h_
  unfold execFloorLost at h_
  repeat' first
    | (injection h_ with h_; subst h_)
    | split at h_
    | cases h_
  all_goals
    repeat' first
      | with_reducible assumption
      | with_reducible apply State.loseFloor_tidy
      | with_reducible apply State.Tidy.ite

theorem State.resetRequest_tidy (s : State) (d : Nat) (h_s : s.Tidy) : (State.resetRequest s d).Tidy := by
  unfold State.resetRequest
  repeat' first
    | with_reducible assumption
    | (focus ((try lift_lets); intro x_; refine (fun (h_ : State.Tidy x_) => ?_) ?_; clear_value x_))
    | (subst x_)
    | with_reducible apply State.declareAbsent_tidy
    | with_reducible apply State.put_tidy
    | with_reducible apply State.resetMaybe_tidy
    | with_reducible apply State.Tidy.ite

theorem execDieResetHoldEnd_tidy (d : Fin 4) (s : State) (h_s : s.Tidy) : ∀ t_, execDieResetHoldEnd d s = .next t_ →
    t_.Tidy := by
  intro t_ h_
  unfold execDieResetHoldEnd at h_
  repeat' first
    | (injection h_ with h_; subst h_)
    | split at h_
    | cases h_
  all_goals
    repeat' first
      | with_reducible assumption
      | with_reducible apply State.dieTo_tidy
      | with_reducible apply State.put_tidy
      | with_reducible apply State.Tidy.ite

theorem State.dieFailed_tidy (s : State) (d : Nat) (second : Bool) (h_s : s.Tidy) : (State.dieFailed s d second).Tidy
    := by
  unfold State.dieFailed
  repeat' first
    | with_reducible assumption
    | with_reducible apply State.dieTo_tidy
    | with_reducible apply State.report_tidy
    | with_reducible apply State.winClose_tidy

theorem State.dieTrained_tidy (s : State) (d : Nat) (tests : List BundleTest) (h_s : s.Tidy) : (State.dieTrained s d
    tests).Tidy := by
  unfold State.dieTrained
  repeat' first
    | with_reducible assumption
    | (focus ((try lift_lets); intro x_; refine (fun (h_ : State.Tidy x_) => ?_) ?_; clear_value x_))
    | (subst x_)
    | with_reducible apply State.dieFailed_tidy
    | with_reducible apply State.dieTo_tidy
    | with_reducible apply State.trainBundles_tidy
    | with_reducible apply State.Tidy.ite

theorem execDieTrainingDone_tidy (d : Fin 4) (tests : List BundleTest) (s : State) (h_s : s.Tidy) : ∀ t_,
    execDieTrainingDone d tests s = .next t_ → t_.Tidy := by
  intro t_ h_
  unfold execDieTrainingDone at h_
  repeat' first
    | (injection h_ with h_; subst h_)
    | split at h_
    | cases h_
  all_goals
    repeat' first
      | with_reducible assumption
      | with_reducible apply State.dieTrained_tidy

theorem State.applyDieTest_tidy (s : State) (d : Nat) (t : DieTest) (h_s : s.Tidy) : (State.applyDieTest s d t).Tidy
    := by
  unfold State.applyDieTest
  repeat' first
    | with_reducible assumption
    | (with_reducible refine Keeps.intro (fun s_ y_ h_ => ?_))
    | (focus ((try lift_lets); intro x_; refine (fun (h_ : State.Tidy x_) => ?_) ?_; clear_value x_))
    | (subst x_)
    | (focus ((try lift_lets); intro x_; refine (fun (h_ : State.Tidy x_.2) => ?_) ?_; clear_value x_))
    | (focus ((try lift_lets); intro x_; refine (fun (h_ : State.Tidy x_.1) => ?_) ?_; clear_value x_))
    | (focus ((try lift_lets); intro x_; (fail_if_success (have q_ : x_ = fun a_ => x_ a_ := rfl)); clear_value x_))
    | ((try lift_lets); intro x_)
    | with_reducible apply State.capDie_tidy
    | with_reducible apply State.flag_tidy
    | with_reducible apply State.put_tidy
    | with_reducible apply State.setWord_tidy
    | with_reducible apply State.spareCounts_tidy
    | with_reducible apply State.Tidy.ite
    | with_reducible apply State.Tidy.each
    | with_reducible apply State.Tidy.foldl
    | (with_reducible refine forUpto_tidy (fun i_ s_ h_ => ?_) _ ?_)
    | (with_reducible refine State.mk_tidy rfl ?_; first | with_reducible assumption)
    | split

theorem State.showStep_tidy (s : State) (d : Nat) (h_s : s.Tidy) : (State.showStep s d).Tidy := by
  unfold State.showStep
  repeat' first
    | with_reducible assumption
    | (with_reducible refine Keeps.intro (fun s_ y_ h_ => ?_))
    | (subst x_)
    | with_reducible apply State.setWord_tidy
    | with_reducible apply State.Tidy.ite
    | with_reducible apply State.Tidy.each

theorem State.stepsBegin_tidy (s : State) (d : Nat) (h_s : s.Tidy) : (State.stepsBegin s d).Tidy :=
  State.showStep_tidy _ _ { h_s with steps := Table.wf_set _ _ _ _ h_s.steps }

theorem State.dieTested_tidy (s : State) (d : Nat) (t : DieTest) (h_s : s.Tidy) : (State.dieTested s d t).Tidy := by
  unfold State.dieTested
  repeat' first
    | with_reducible assumption
    | (focus ((try lift_lets); intro x_; refine (fun (h_ : State.Tidy x_) => ?_) ?_; clear_value x_))
    | (subst x_)
    | with_reducible apply State.applyDieTest_tidy
    | with_reducible apply State.capPut_tidy
    | with_reducible apply State.count_tidy
    | with_reducible apply State.dieFailed_tidy
    | with_reducible apply State.dieTo_tidy
    | with_reducible apply State.flag_tidy
    | with_reducible apply State.lost_tidy
    | with_reducible apply State.put_tidy
    | with_reducible apply State.refreshGrand_tidy
    | with_reducible apply State.stepsBegin_tidy
    | with_reducible apply State.winClose_tidy
    | with_reducible apply State.Tidy.ite
    | (with_reducible refine forUpto_tidy (fun i_ s_ h_ => ?_) _ ?_)

theorem execDieSelftestDone_tidy (d : Fin 4) (t : DieTest) (s : State) (h_s : s.Tidy) : ∀ t_, execDieSelftestDone d t
    s = .next t_ → t_.Tidy := by
  intro t_ h_
  unfold execDieSelftestDone at h_
  repeat' first
    | (injection h_ with h_; subst h_)
    | split at h_
    | cases h_
  all_goals
    repeat' first
      | with_reducible assumption
      | with_reducible apply State.dieTested_tidy

end Sys2Proof.Machine
end

