-- ==== Sys2Proof/Laws/TidyErrors.lean ====
section
/-! SUPPORT. Every function of Machine/Errors.lean that answers a state keeps the canonical form (`State.Tidy`): one lemma
per function, named after it. -/

namespace Sys2Proof.Machine

theorem State.capStack_tidy (s : State) (n : Nat) (h_s : s.Tidy) : (State.capStack s n).Tidy := by
  unfold State.capStack
  repeat' first
    | with_reducible assumption
    | with_reducible apply State.capPut_tidy

theorem State.fenceStack_tidy (s : State) (n : Nat) (second : Bool) (h_s : s.Tidy) : (State.fenceStack s n
    second).Tidy := by
  unfold State.fenceStack
  repeat' first
    | with_reducible assumption
    | (with_reducible refine Keeps.intro (fun s_ y_ h_ => ?_))
    | (focus ((try lift_lets); intro x_; refine (fun (h_ : State.Tidy x_) => ?_) ?_; clear_value x_))
    | (subst x_)
    | (focus ((try lift_lets); intro x_; refine (fun (h_ : State.Tidy x_.2) => ?_) ?_; clear_value x_))
    | (focus ((try lift_lets); intro x_; refine (fun (h_ : State.Tidy x_.1) => ?_) ?_; clear_value x_))
    | (focus ((try lift_lets); intro x_; (fail_if_success (have q_ : x_ = fun a_ => x_ a_ := rfl)); clear_value x_))
    | ((try lift_lets); intro x_)
    | with_reducible apply State.banksLost_tidy
    | with_reducible apply State.capPut_tidy
    | with_reducible apply State.capStack_tidy
    | with_reducible apply State.hwFence_tidy
    | with_reducible apply State.intSet_tidy
    | with_reducible apply State.report_tidy
    | with_reducible apply State.Tidy.ite
    | with_reducible apply State.Tidy.foldl
    | (with_reducible refine State.mk_tidy rfl ?_; first | with_reducible assumption)
    | split

theorem State.fencePch_tidy (s : State) (p : Nat) (second : Bool) (h_s : s.Tidy) : (State.fencePch s p second).Tidy
    := by
  unfold State.fencePch
  repeat' first
    | with_reducible assumption
    | (focus ((try lift_lets); intro x_; refine (fun (h_ : State.Tidy x_) => ?_) ?_; clear_value x_))
    | (subst x_)
    | (focus ((try lift_lets); intro x_; (fail_if_success (have q_ : x_ = fun a_ => x_ a_ := rfl)); clear_value x_))
    | ((try lift_lets); intro x_)
    | with_reducible apply State.banksLost_tidy
    | with_reducible apply State.capStack_tidy
    | with_reducible apply State.degrade_tidy
    | with_reducible apply State.fenceStack_tidy
    | with_reducible apply State.intSet_tidy
    | with_reducible apply State.report_tidy
    | with_reducible apply State.winClose_tidy
    | with_reducible apply State.Tidy.ite
    | (with_reducible refine State.mk_tidy rfl ?_; first | with_reducible assumption)
    | split

theorem State.retireSettled_tidy (s : State) (page : Nat) (h_s : s.Tidy) : (State.retireSettled s page).Tidy := by
  unfold State.retireSettled
  repeat' first
    | with_reducible assumption
    | (subst x_)
    | with_reducible apply State.setActs_tidy
    | with_reducible apply State.winClose_tidy
    | with_reducible apply State.Tidy.ite
    | (with_reducible refine State.mk_tidy rfl ?_; first | with_reducible assumption)
    | split

theorem State.retireDenied_tidy (s : State) (r : RetireReq) (h_s : s.Tidy) : (State.retireDenied s r).Tidy := by
  unfold State.retireDenied
  repeat' first
    | with_reducible assumption
    | (focus ((try lift_lets); intro x_; refine (fun (h_ : State.Tidy x_) => ?_) ?_; clear_value x_))
    | (subst x_)
    | with_reducible apply State.count_tidy
    | with_reducible apply State.intSet_tidy
    | with_reducible apply State.report_tidy
    | with_reducible apply State.retireSettled_tidy

theorem State.retireStart_tidy (s : State) (r : RetireReq) (h_s : s.Tidy) : (State.retireStart s r).Tidy := by
  unfold State.retireStart
  repeat' first
    | with_reducible assumption
    | (focus ((try lift_lets); intro x_; refine (fun (h_ : State.Tidy x_) => ?_) ?_; clear_value x_))
    | (subst x_)
    | (focus ((try lift_lets); intro x_; (fail_if_success (have q_ : x_ = fun a_ => x_ a_ := rfl)); clear_value x_))
    | ((try lift_lets); intro x_)
    | with_reducible apply State.put_tidy
    | with_reducible apply State.retireDenied_tidy
    | with_reducible apply State.retireSettled_tidy
    | with_reducible apply State.Tidy.ite
    | (with_reducible refine State.mk_tidy rfl ?_; first | with_reducible assumption)
    | split

theorem State.retireNext_tidy (s : State) (y_ : Nat) (h_s : s.Tidy) : (State.retireNext s y_).Tidy := by
  induction y_ generalizing s with
  | zero => unfold State.retireNext; assumption
  | succ n_ ih_ =>
    unfold State.retireNext
    repeat' first
      | with_reducible assumption
      | (subst x_)
      | with_reducible apply ih_
      | with_reducible apply State.retireStart_tidy
      | with_reducible apply State.Tidy.ite
      | (with_reducible refine State.mk_tidy rfl ?_; first | with_reducible assumption)
      | split

theorem State.retire_tidy (s : State) (r : RetireReq) (h_s : s.Tidy) : (State.retire s r).Tidy := by
  unfold State.retire
  repeat' first
    | with_reducible assumption
    | (focus ((try lift_lets); intro x_; refine (fun (h_ : State.Tidy x_) => ?_) ?_; clear_value x_))
    | (subst x_)
    | with_reducible apply State.retireNext_tidy
    | with_reducible apply State.Tidy.ite
    | (with_reducible refine State.mk_tidy rfl ?_; first | with_reducible assumption)

theorem State.openPch_tidy (s : State) (stack : Nat) (h_s : s.Tidy) : (State.openPch s stack).2.Tidy := by
  unfold State.openPch
  repeat' first
    | with_reducible assumption
    | (subst x_)
    | (focus ((try lift_lets); intro x_; refine (fun (h_ : State.Tidy x_.2) => ?_) ?_; clear_value x_))
    | with_reducible apply State.draw_tidy

theorem State.retireDone_tidy (s : State) (h_s : s.Tidy) : (State.retireDone s).Tidy := by
  unfold State.retireDone
  repeat' first
    | with_reducible assumption
    | (focus ((try lift_lets); intro x_; refine (fun (h_ : State.Tidy x_) => ?_) ?_; clear_value x_))
    | (subst x_)
    | (focus ((try lift_lets); intro x_; (first | (have q_ : Clx := x_) | (have q_ : Snp := x_)); clear q_; subst x_))
    | (focus ((try lift_lets); intro x_; (fail_if_success (have q_ : x_ = fun a_ => x_ a_ := rfl)); clear_value x_))
    | ((try lift_lets); intro x_)
    | with_reducible apply State.clxLanded_tidy
    | with_reducible apply State.copyPage_tidy
    | with_reducible apply State.count_tidy
    | with_reducible apply State.drainHeld_tidy
    | with_reducible apply State.intSet_tidy
    | with_reducible apply State.report_tidy
    | with_reducible apply State.retireNext_tidy
    | with_reducible apply State.retireSettled_tidy
    | with_reducible apply State.setWord_tidy
    | with_reducible apply State.snpLanded_tidy
    | with_reducible apply State.Tidy.ite
    | (with_reducible refine State.mk_tidy rfl ?_; first | with_reducible assumption)
    | split

theorem execRetireCopyDone_tidy (s : State) (h_s : s.Tidy) : ∀ t_, execRetireCopyDone s = .next t_ → t_.Tidy := by
  intro t_ h_
  unfold execRetireCopyDone at h_
  repeat' first
    | (injection h_ with h_; subst h_)
    | split at h_
    | cases h_
  all_goals
    repeat' first
      | with_reducible assumption
      | with_reducible apply State.retireDone_tidy

theorem State.ceSeen_tidy (s : State) (p : Nat) (h_s : s.Tidy) : (State.ceSeen s p).Tidy := by
  unfold State.ceSeen
  repeat' first
    | with_reducible assumption
    | (with_reducible refine Keeps.intro (fun s_ y_ h_ => ?_))
    | (subst x_)
    | with_reducible apply State.take_tidy
    | (with_reducible refine State.mk_tidy rfl ?_; first | with_reducible assumption)

theorem State.ceReached_tidy (s : State) (p stack : Nat) (h_s : s.Tidy) : (State.ceReached s p stack).Tidy := by
  unfold State.ceReached
  repeat' first
    | with_reducible assumption
    | (focus ((try lift_lets); intro x_; refine (fun (h_ : State.Tidy x_) => ?_) ?_; clear_value x_))
    | (subst x_)
    | (focus ((try lift_lets); intro x_; refine (fun (h_ : State.Tidy x_.2) => ?_) ?_; clear_value x_))
    | with_reducible apply State.openPch_tidy
    | with_reducible apply State.retire_tidy
    | with_reducible apply State.Tidy.ite
    | (with_reducible refine State.mk_tidy rfl ?_; first | with_reducible assumption)

theorem execCeThresholdReached_tidy (pageNo : Fin 786432) (stack : Fin 16) (s : State) (h_s : s.Tidy) : ∀ t_,
    execCeThresholdReached pageNo stack s = .next t_ → t_.Tidy := by
  intro t_ h_
  unfold execCeThresholdReached at h_
  repeat' first
    | (injection h_ with h_; subst h_)
    | split at h_
    | cases h_
  all_goals
    repeat' first
      | with_reducible assumption
      | with_reducible apply State.ceReached_tidy

theorem State.portDown_tidy (s : State) (n : Nat) (h_s : s.Tidy) : (State.portDown s n).Tidy := by
  unfold State.portDown
  repeat' first
    | with_reducible assumption
    | (with_reducible refine Keeps.intro (fun s_ y_ h_ => ?_))
    | with_reducible apply State.slDown_tidy
    | with_reducible apply State.Tidy.ite
    | with_reducible apply State.Tidy.each

theorem State.capPort_tidy (s : State) (n : Nat) (h_s : s.Tidy) : (State.capPort s n).Tidy := by
  unfold State.capPort
  repeat' first
    | with_reducible assumption
    | (subst x_)
    | with_reducible apply State.capPut_tidy

theorem State.fencePort_tidy (s : State) (n e : Nat) (second : Bool) (h_s : s.Tidy) : (State.fencePort s n e
    second).Tidy := by
  unfold State.fencePort
  repeat' first
    | with_reducible assumption
    | (with_reducible refine Keeps.intro (fun s_ y_ h_ => ?_))
    | (focus ((try lift_lets); intro x_; refine (fun (h_ : State.Tidy x_) => ?_) ?_; clear_value x_))
    | (subst x_)
    | with_reducible apply State.capPort_tidy
    | with_reducible apply State.hwFence_tidy
    | with_reducible apply State.report_tidy
    | with_reducible apply State.subOff_tidy
    | with_reducible apply State.Tidy.ite
    | with_reducible apply State.Tidy.each

theorem State.fenceUnit_tidy (s : State) (d u : Nat) (h_s : s.Tidy) : (State.fenceUnit s d u).Tidy := by
  unfold State.fenceUnit
  repeat' first
    | with_reducible assumption
    | (subst x_)
    | with_reducible apply State.capDie_tidy
    | with_reducible apply State.degrade_tidy
    | with_reducible apply State.intSet_tidy
    | with_reducible apply State.put_tidy
    | with_reducible apply State.Tidy.ite

theorem State.fenceFor_tidy (s : State) (e : ErrEvent) (second : Bool) (h_s : s.Tidy) : (State.fenceFor s e
    second).Tidy := by
  unfold State.fenceFor
  repeat' first
    | with_reducible assumption
    | (subst x_)
    | with_reducible apply State.arrayUnusable_tidy
    | with_reducible apply State.bundleFence_tidy
    | with_reducible apply State.dieFailed_tidy
    | with_reducible apply State.fencePch_tidy
    | with_reducible apply State.fencePort_tidy
    | with_reducible apply State.fenceStack_tidy
    | with_reducible apply State.fenceUnit_tidy
    | with_reducible apply State.spareSettled_tidy
    | (with_reducible refine State.mk_tidy rfl ?_; first | with_reducible assumption)
    | split

theorem State.act_tidy (s : State) (e : ErrEvent) (h_s : s.Tidy) : (State.act s e).1.Tidy := by
  unfold State.act
  repeat' first
    | with_reducible assumption
    | (subst x_)
    | with_reducible apply State.arrayUnusable_tidy
    | with_reducible apply State.fenceUnit_tidy
    | with_reducible apply State.portDown_tidy
    | with_reducible apply State.retrain_tidy
    | with_reducible apply State.winClose_tidy
    | with_reducible apply State.winOpen_tidy
    | with_reducible apply State.Tidy.ite
    | (with_reducible refine State.mk_tidy rfl ?_; first | with_reducible assumption)
    | split

theorem State.beginAction_tidy (s : State) (d : Nat) (a : Action) (t : List Action) (h_s : s.Tidy) :
    (State.beginAction s d a t).Tidy := by
  unfold State.beginAction
  repeat' first
    | with_reducible assumption
    | (focus ((try lift_lets); intro x_; refine (fun (h_ : State.Tidy x_) => ?_) ?_; clear_value x_))
    | (subst x_)
    | (focus ((try lift_lets); intro x_; refine (fun (h_ : State.Tidy x_.1) => ?_) ?_; clear_value x_))
    | with_reducible apply State.act_tidy
    | with_reducible apply State.count_tidy
    | with_reducible apply State.fenceFor_tidy
    | with_reducible apply State.retire_tidy
    | with_reducible apply State.setActs_tidy
    | with_reducible apply State.Tidy.ite

theorem State.contain_tidy (s : State) (d : Nat) (h_s : s.Tidy) : (State.contain s d).Tidy := by
  unfold State.contain
  repeat' first
    | with_reducible assumption
    | (subst x_)
    | with_reducible apply State.beginAction_tidy
    | (with_reducible refine State.mk_tidy rfl ?_; first | with_reducible assumption)
    | split

theorem execContainmentAction_tidy (d : Fin 5) (s : State) (h_s : s.Tidy) : ∀ t_, execContainmentAction d s = .next
    t_ → t_.Tidy := by
  intro t_ h_
  unfold execContainmentAction at h_
  repeat' first
    | (injection h_ with h_; subst h_)
    | split at h_
    | cases h_
  all_goals
    repeat' first
      | with_reducible assumption
      | with_reducible apply State.contain_tidy

theorem State.enqueueAs_tidy (s : State) (e : ErrEvent) (second told : Bool) (h_s : s.Tidy) : (State.enqueueAs s e
    second told).Tidy := by
  unfold State.enqueueAs
  repeat' first
    | with_reducible assumption
    | (focus ((try lift_lets); intro x_; refine (fun (h_ : State.Tidy x_) => ?_) ?_; clear_value x_))
    | (subst x_)
    | (focus ((try lift_lets); intro x_; (fail_if_success (have q_ : x_ = fun a_ => x_ a_ := rfl)); clear_value x_))
    | with_reducible apply State.arrayUnusable_tidy
    | with_reducible apply State.beginStorm_tidy
    | with_reducible apply State.count_tidy
    | with_reducible apply State.fenceFor_tidy
    | with_reducible apply State.report_tidy
    | with_reducible apply State.setActs_tidy
    | with_reducible apply State.Tidy.ite

theorem State.enqueue_tidy (s : State) (e : ErrEvent) (told : Bool) (h_s : s.Tidy) : (State.enqueue s e told).Tidy := by
  unfold State.enqueue
  repeat' first
    | with_reducible assumption
    | with_reducible apply State.enqueueAs_tidy

theorem State.retrain_tidy (s : State) (d b : Nat) (silent : Bool) (h_s : s.Tidy) : (State.retrain s d b silent).Tidy
    := by
  unfold State.retrain
  repeat' first
    | with_reducible assumption
    | (focus ((try lift_lets); intro x_; refine (fun (h_ : State.Tidy x_) => ?_) ?_; clear_value x_))
    | (subst x_)
    | with_reducible apply State.countD2d_tidy
    | with_reducible apply State.enqueue_tidy
    | with_reducible apply State.setBundle_tidy
    | with_reducible apply State.winOpen_tidy
    | with_reducible apply State.Tidy.ite

theorem execBundleRetrain_tidy (d : Fin 4) (b : RetrainAsk) (s : State) (h_s : s.Tidy) : ∀ t_, execBundleRetrain d b
    s = .next t_ → t_.Tidy := by
  intro t_ h_
  unfold execBundleRetrain at h_
  repeat' first
    | (injection h_ with h_; subst h_)
    | split at h_
    | cases h_
  all_goals
    repeat' first
      | with_reducible assumption
      | with_reducible apply State.retrain_tidy

theorem State.goAbsent_tidy (s : State) (d cause : Nat) (h_s : s.Tidy) : (State.goAbsent s d cause).Tidy := by
  unfold State.goAbsent
  repeat' first
    | with_reducible assumption
    | (subst x_)
    | with_reducible apply State.declareAbsent_tidy
    | with_reducible apply State.enqueueAs_tidy

theorem State.absence_tidy (s : State) (d : Nat) (bundleLoss : Bool) (h_s : s.Tidy) : (State.absence s d
    bundleLoss).Tidy := by
  unfold State.absence
  repeat' first
    | with_reducible assumption
    | with_reducible apply State.goAbsent_tidy
    | with_reducible apply State.Tidy.ite

theorem execDieAbsent_tidy (d : Fin 4) (bundleLoss : Bool) (s : State) (h_s : s.Tidy) : ∀ t_, execDieAbsent d
    bundleLoss s = .next t_ → t_.Tidy := by
  intro t_ h_
  unfold execDieAbsent at h_
  repeat' first
    | (injection h_ with h_; subst h_)
    | split at h_
    | cases h_
  all_goals
    repeat' first
      | with_reducible assumption
      | with_reducible apply State.absence_tidy

theorem State.hitOperation_tidy (s : State) (e : ErrEvent) (h_s : s.Tidy) : (State.hitOperation s e).Tidy := by
  unfold State.hitOperation
  repeat' first
    | with_reducible assumption
    | (focus ((try lift_lets); intro x_; refine (fun (h_ : State.Tidy x_) => ?_) ?_; clear_value x_))
    | (subst x_)
    | (focus ((try lift_lets); intro x_; (fail_if_success (have q_ : x_ = fun a_ => x_ a_ := rfl)); clear_value x_))
    | with_reducible apply State.arrayUnusable_tidy
    | with_reducible apply State.drainHeld_tidy
    | with_reducible apply State.kernelStop_tidy
    | with_reducible apply State.vecUndefined_tidy
    | with_reducible apply State.vectorRun_tidy
    | (with_reducible refine State.mk_tidy rfl ?_; first | with_reducible assumption)
    | (with_reducible refine State.Tidy.mapIf ?_ ?_; rotate_left; (intro _; rfl))
    | split

theorem State.uncorrectable_tidy (s : State) (address : Nat) (scrub : Option Nat) (h_s : s.Tidy) :
    (State.uncorrectable s address scrub).Tidy := by
  unfold State.uncorrectable
  repeat' first
    | with_reducible assumption
    | (focus ((try lift_lets); intro x_; refine (fun (h_ : State.Tidy x_) => ?_) ?_; clear_value x_))
    | (subst x_)
    | (focus ((try lift_lets); intro x_; refine (fun (h_ : State.Tidy x_.2) => ?_) ?_; clear_value x_))
    | (focus ((try lift_lets); intro x_; refine (fun (h_ : State.Tidy x_.1) => ?_) ?_; clear_value x_))
    | (focus ((try lift_lets); intro x_; (fail_if_success (have q_ : x_ = fun a_ => x_ a_ := rfl)); clear_value x_))
    | ((try lift_lets); intro x_)
    | with_reducible apply State.count_tidy
    | with_reducible apply State.enqueue_tidy
    | with_reducible apply State.intSet_tidy
    | with_reducible apply State.report_tidy
    | with_reducible apply State.winOpen_tidy
    | with_reducible apply State.Tidy.ite
    | (with_reducible refine State.mk_tidy rfl ?_; first | with_reducible assumption)
    | split
    | (with_reducible apply State.mk_wf <;> (repeat' first | exact Table.wf_nil _ | (exact queueWaits_wf Wait.queue (fun _ q => { q with wait := WaitSt.absent }) _ _ (State.Tidy.queues (by with_reducible assumption))) | exact List.Pairwise.nil | (with_reducible apply Table.wf_filter) | (with_reducible apply Table.wf_set) | (with_reducible apply pairwise_setInsert) | (with_reducible apply pairwise_setErase) | (with_reducible apply List.Pairwise.filter) | (exact State.Tidy.regs (by with_reducible assumption)) | (exact State.Tidy.mem (by with_reducible assumption)) | (exact State.Tidy.cells (by with_reducible assumption)) | (exact State.Tidy.queues (by with_reducible assumption)) | (exact State.Tidy.jobs (by with_reducible assumption)) | (exact State.Tidy.gates (by with_reducible assumption)) | (exact State.Tidy.pages (by with_reducible assumption)) | (exact State.Tidy.poison (by with_reducible assumption)) | (exact State.Tidy.units (by with_reducible assumption)) | (exact State.Tidy.links (by with_reducible assumption)) | (exact State.Tidy.bundles (by with_reducible assumption)) | (exact State.Tidy.actions (by with_reducible assumption)) | (exact State.Tidy.ports (by with_reducible assumption)) | (exact State.Tidy.sampled (by with_reducible assumption)) | (exact State.Tidy.markers (by with_reducible assumption)) | (exact State.Tidy.lostGen (by with_reducible assumption)) | (exact State.Tidy.lostSet (by with_reducible assumption)) | (exact State.Tidy.chosen (by with_reducible assumption)) | (exact State.Tidy.causes (by with_reducible assumption)) | (exact State.Tidy.moved (by with_reducible assumption)) | (exact State.Tidy.parts (by with_reducible assumption)) | (exact State.Tidy.crossing (by with_reducible assumption)) | (exact State.Tidy.image (by with_reducible assumption)) | (exact State.Tidy.chain (by with_reducible assumption)) | (exact State.Tidy.steps (by with_reducible assumption)) | (exact State.Tidy.reading (by with_reducible assumption)) | (exact State.Tidy.weights (by with_reducible assumption)) | (exact State.Tidy.dealt (by with_reducible assumption)) | (exact State.Tidy.health (by with_reducible assumption)) | (exact State.Tidy.meas (by with_reducible assumption)) | (exact State.Tidy.sums (by with_reducible assumption)) | (exact State.Tidy.spdm (by with_reducible assumption)) | (exact State.Tidy.ide (by with_reducible assumption)) | (exact State.Tidy.ids (by with_reducible assumption)) | (simp only [List.map_nil, List.nil_append, List.pairwise_singleton]; done) | (refine forUpto_wf (fun i_ m_ h_ => ?_) _ ?_) | with_reducible assumption | (intro p_ hp_; first | (exact State.Tidy.order (by with_reducible assumption) p_ hp_) | (exact State.Tidy.order (by with_reducible assumption) p_ (List.mem_filter.mp hp_).1) | (exact absurd hp_ (List.not_mem_nil)))))

theorem State.fatalStop_tidy (s : State) (e : ErrEvent) (h_s : s.Tidy) : (State.fatalStop s e).Tidy := by
  unfold State.fatalStop
  repeat' first
    | with_reducible assumption
    | (with_reducible refine Keeps.intro (fun s_ y_ h_ => ?_))
    | (focus ((try lift_lets); intro x_; refine (fun (h_ : State.Tidy x_) => ?_) ?_; clear_value x_))
    | (subst x_)
    | (focus ((try lift_lets); intro x_; (first | (have q_ : Clx := x_) | (have q_ : Fig := x_) | (have q_ : Snp := x_)); clear q_; subst x_))
    | with_reducible apply State.loseFloor_tidy
    | with_reducible apply State.report_tidy
    | with_reducible apply State.tell_tidy
    | with_reducible apply State.Tidy.ite
    | with_reducible apply State.Tidy.each
    | split
    | (with_reducible apply State.mk_wf <;> (repeat' first | exact Table.wf_nil _ | (exact queueWaits_wf Wait.queue (fun _ q => { q with wait := WaitSt.absent }) _ _ (State.Tidy.queues (by with_reducible assumption))) | exact List.Pairwise.nil | (with_reducible apply Table.wf_filter) | (with_reducible apply Table.wf_set) | (with_reducible apply pairwise_setInsert) | (with_reducible apply pairwise_setErase) | (with_reducible apply List.Pairwise.filter) | (exact State.Tidy.regs (by with_reducible assumption)) | (exact State.Tidy.mem (by with_reducible assumption)) | (exact State.Tidy.cells (by with_reducible assumption)) | (exact State.Tidy.queues (by with_reducible assumption)) | (exact State.Tidy.jobs (by with_reducible assumption)) | (exact State.Tidy.gates (by with_reducible assumption)) | (exact State.Tidy.pages (by with_reducible assumption)) | (exact State.Tidy.poison (by with_reducible assumption)) | (exact State.Tidy.units (by with_reducible assumption)) | (exact State.Tidy.links (by with_reducible assumption)) | (exact State.Tidy.bundles (by with_reducible assumption)) | (exact State.Tidy.actions (by with_reducible assumption)) | (exact State.Tidy.ports (by with_reducible assumption)) | (exact State.Tidy.sampled (by with_reducible assumption)) | (exact State.Tidy.markers (by with_reducible assumption)) | (exact State.Tidy.lostGen (by with_reducible assumption)) | (exact State.Tidy.lostSet (by with_reducible assumption)) | (exact State.Tidy.chosen (by with_reducible assumption)) | (exact State.Tidy.causes (by with_reducible assumption)) | (exact State.Tidy.moved (by with_reducible assumption)) | (exact State.Tidy.parts (by with_reducible assumption)) | (exact State.Tidy.crossing (by with_reducible assumption)) | (exact State.Tidy.image (by with_reducible assumption)) | (exact State.Tidy.chain (by with_reducible assumption)) | (exact State.Tidy.steps (by with_reducible assumption)) | (exact State.Tidy.reading (by with_reducible assumption)) | (exact State.Tidy.weights (by with_reducible assumption)) | (exact State.Tidy.dealt (by with_reducible assumption)) | (exact State.Tidy.health (by with_reducible assumption)) | (exact State.Tidy.meas (by with_reducible assumption)) | (exact State.Tidy.sums (by with_reducible assumption)) | (exact State.Tidy.spdm (by with_reducible assumption)) | (exact State.Tidy.ide (by with_reducible assumption)) | (exact State.Tidy.ids (by with_reducible assumption)) | (simp only [List.map_nil, List.nil_append, List.pairwise_singleton]; done) | (refine forUpto_wf (fun i_ m_ h_ => ?_) _ ?_) | with_reducible assumption | (intro p_ hp_; first | (exact State.Tidy.order (by with_reducible assumption) p_ hp_) | (exact State.Tidy.order (by with_reducible assumption) p_ (List.mem_filter.mp hp_).1) | (exact absurd hp_ (List.not_mem_nil)))))

theorem State.detect_tidy (s : State) (e : ErrEvent) (h_s : s.Tidy) : (State.detect s e).Tidy := by
  unfold State.detect
  repeat' first
    | with_reducible assumption
    | (focus ((try lift_lets); intro x_; refine (fun (h_ : State.Tidy x_) => ?_) ?_; clear_value x_))
    | (subst x_)
    | with_reducible apply State.arrayUnusable_tidy
    | with_reducible apply State.banksLost_tidy
    | with_reducible apply State.ceSeen_tidy
    | with_reducible apply State.count_tidy
    | with_reducible apply State.dieFailed_tidy
    | with_reducible apply State.doubleFault_tidy
    | with_reducible apply State.enqueue_tidy
    | with_reducible apply State.fatalStop_tidy
    | with_reducible apply State.hitOperation_tidy
    | with_reducible apply State.report_tidy
    | with_reducible apply State.retireDenied_tidy
    | with_reducible apply State.uncorrectable_tidy
    | with_reducible apply State.winOpen_tidy
    | with_reducible apply State.Tidy.ite
    | (with_reducible refine State.mk_tidy rfl ?_; first | with_reducible assumption)
    | split

theorem execErrorDetected_tidy (e : ErrEvent) (s : State) (h_s : s.Tidy) : ∀ t_, execErrorDetected e s = .next t_ →
    t_.Tidy := by
  intro t_ h_
  unfold execErrorDetected at h_
  repeat' first
    | (injection h_ with h_; subst h_)
    | split at h_
    | cases h_
  all_goals
    repeat' first
      | with_reducible assumption
      | with_reducible apply State.detect_tidy

theorem State.portDark_tidy (s : State) (n : Nat) (h_s : s.Tidy) : (State.portDark s n).Tidy := by
  unfold State.portDark
  repeat' first
    | with_reducible assumption
    | with_reducible apply State.detect_tidy
    | with_reducible apply State.Tidy.ite

theorem execWavelengthUnlit_tidy (n : Fin 16) (feed : Fin 2) (wave : Fin 9) (s : State) (h_s : s.Tidy) : ∀ t_,
    execWavelengthUnlit n feed wave s = .next t_ → t_.Tidy := by
  intro t_ h_
  unfold execWavelengthUnlit at h_
  repeat' first
    | (injection h_ with h_; subst h_)
    | split at h_
    | cases h_
  all_goals
    repeat' first
      | with_reducible assumption
      | (subst x_)
      | with_reducible apply State.portDark_tidy
      | with_reducible apply State.setLit_tidy
      | with_reducible apply State.Tidy.ite

theorem State.stackRetrained_tidy (s : State) (n : Nat) (ok : Bool) (h_s : s.Tidy) : (State.stackRetrained s n
    ok).Tidy := by
  unfold State.stackRetrained
  repeat' first
    | with_reducible assumption
    | (focus ((try lift_lets); intro x_; refine (fun (h_ : State.Tidy x_) => ?_) ?_; clear_value x_))
    | (subst x_)
    | with_reducible apply State.actionEnd_tidy
    | with_reducible apply State.fenceStack_tidy
    | with_reducible apply State.winClose_tidy
    | with_reducible apply State.Tidy.ite

theorem execStackRetrainDone_tidy (n : Fin 16) (ok : Bool) (s : State) (h_s : s.Tidy) : ∀ t_, execStackRetrainDone n
    ok s = .next t_ → t_.Tidy := by
  intro t_ h_
  unfold execStackRetrainDone at h_
  repeat' first
    | (injection h_ with h_; subst h_)
    | split at h_
    | cases h_
  all_goals
    repeat' first
      | with_reducible assumption
      | with_reducible apply State.stackRetrained_tidy

theorem State.scrub_tidy (s : State) (n : Nat) (found : Ecc) (h_s : s.Tidy) : (State.scrub s n found).Tidy := by
  unfold State.scrub
  repeat' first
    | with_reducible assumption
    | (focus ((try lift_lets); intro x_; refine (fun (h_ : State.Tidy x_) => ?_) ?_; clear_value x_))
    | (subst x_)
    | with_reducible apply State.ceSeen_tidy
    | with_reducible apply State.count_tidy
    | with_reducible apply State.put_tidy
    | with_reducible apply State.report_tidy
    | with_reducible apply State.uncorrectable_tidy
    | with_reducible apply State.Tidy.ite
    | (with_reducible refine State.mk_tidy rfl ?_; first | with_reducible assumption)
    | split

theorem execScrubRead_tidy (n : Fin 16) (found : Ecc) (s : State) (h_s : s.Tidy) : ∀ t_, execScrubRead n found s =
    .next t_ → t_.Tidy := by
  intro t_ h_
  unfold execScrubRead at h_
  repeat' first
    | (injection h_ with h_; subst h_)
    | split at h_
    | cases h_
  all_goals
    repeat' first
      | with_reducible assumption
      | with_reducible apply State.scrub_tidy

theorem State.errTail_tidy (s : State) (d v : Nat) (h_s : s.Tidy) : (State.errTail s d v).Tidy := by
  unfold State.errTail
  repeat' first
    | with_reducible assumption
    | (with_reducible refine Keeps.intro (fun s_ y_ h_ => ?_))
    | (focus ((try lift_lets); intro x_; refine (fun (h_ : State.Tidy x_) => ?_) ?_; clear_value x_))
    | (subst x_)
    | ((try lift_lets); intro x_)
    | with_reducible apply State.endStorm_tidy
    | with_reducible apply State.put_tidy
    | with_reducible apply State.resumeMaybe_tidy
    | with_reducible apply State.Tidy.ite
    | with_reducible apply State.Tidy.each

end Sys2Proof.Machine
end

