-- ==== Sys2Proof/Laws/TidyPerhal.lean ====
section
/-! SUPPORT. Every function of Machine/Perhal.lean that answers a state keeps the canonical form (`State.Tidy`): one lemma
per function, named after it. -/

namespace Sys2Proof.Machine

theorem State.putRegBytes_tidy (s : State) (a : Nat) (l : List Byte) (h_s : s.Tidy) : (State.putRegBytes s a l).Tidy
    := by
  unfold State.putRegBytes
  repeat' first
    | with_reducible assumption
    | (with_reducible refine Keeps.intro (fun s_ y_ h_ => ?_))
    | (subst x_)
    | ((try lift_lets); intro x_)
    | with_reducible apply State.setWord_tidy
    | with_reducible apply State.take_tidy
    | (with_reducible refine forUpto_tidy (fun i_ s_ h_ => ?_) _ ?_)

theorem State.extendMr_tidy (s : State) (n : Nat) (d : List Byte) (h_s : s.Tidy) : (State.extendMr s n d).Tidy := by
  unfold State.extendMr
  repeat' first
    | with_reducible assumption
    | with_reducible apply State.putRegBytes_tidy

theorem State.showZero_tidy (s : State) (h_s : s.Tidy) : (State.showZero s).Tidy := by
  unfold State.showZero
  repeat' first
    | with_reducible assumption
    | (subst x_)
    | (focus ((try lift_lets); intro x_; (first | (have q_ : Perhal := x_)); clear q_; subst x_))
    | with_reducible apply State.flag_tidy

theorem State.derive_tidy (s : State) (f : State → State) (h_s : s.Tidy) (k_f : Keeps1 f) : (State.derive s f).Tidy
    := by
  unfold State.derive
  repeat' first
    | with_reducible assumption
    | (with_reducible refine Keeps1.intro (fun s_ h_ => ?_))
    | (focus ((try lift_lets); intro x_; refine (fun (h_ : State.Tidy x_) => ?_) ?_; clear_value x_))
    | (subst x_)
    | (focus ((try lift_lets); intro x_; (first | (have q_ : Perhal := x_)); clear q_; subst x_))
    | (refine k_f _ ?_)
    | with_reducible apply State.showZero_tidy
    | (with_reducible refine State.mk_tidy rfl ?_; first | with_reducible assumption)

theorem State.loadKeys_tidy (s : State) (h_s : s.Tidy) : (State.loadKeys s).Tidy := by
  unfold State.loadKeys
  repeat' first
    | with_reducible assumption
    | (with_reducible refine Keeps1.intro (fun s_ h_ => ?_))
    | (focus ((try lift_lets); intro x_; refine (fun (h_ : State.Tidy x_) => ?_) ?_; clear_value x_))
    | (subst x_)
    | (focus ((try lift_lets); intro x_; (first | (have q_ : Perhal := x_)); clear q_; subst x_))
    | ((try lift_lets); intro x_)
    | with_reducible apply State.count_tidy
    | with_reducible apply State.derive_tidy
    | with_reducible apply State.Tidy.ite
    | (with_reducible refine State.mk_tidy rfl ?_; first | with_reducible assumption)

theorem State.withSeal_tidy (s : State) (f : Option (List Byte) → State → State) (hf : ∀ k s, s.Tidy → (f k s).Tidy)
    (h_s : s.Tidy) : (State.withSeal s f).Tidy := by
  unfold State.withSeal
  exact State.Tidy.ite (hf _ _ h_s)
    (State.derive_tidy _ _ h_s (Keeps1.intro fun _ h => hf _ _ (State.count_tidy _ _ _ _ h)))

theorem State.clearPairs_tidy (s : State) (h_s : s.Tidy) : (State.clearPairs s).Tidy := by
  unfold State.clearPairs
  repeat' first
    | with_reducible assumption
    | (focus ((try lift_lets); intro x_; refine (fun (h_ : State.Tidy x_) => ?_) ?_; clear_value x_))
    | (subst x_)
    | (focus ((try lift_lets); intro x_; (first | (have q_ : Perhal := x_)); clear q_; subst x_))
    | with_reducible apply State.showZero_tidy
    | (with_reducible refine State.mk_tidy rfl ?_; first | with_reducible assumption)

theorem State.clearPort_tidy (s : State) (hp : Nat) (h_s : s.Tidy) : (State.clearPort s hp).Tidy := by
  unfold State.clearPort
  repeat' first
    | with_reducible assumption
    | (focus ((try lift_lets); intro x_; refine (fun (h_ : State.Tidy x_) => ?_) ?_; clear_value x_))
    | (subst x_)
    | (focus ((try lift_lets); intro x_; (first | (have q_ : Perhal := x_)); clear q_; subst x_))
    | with_reducible apply State.put_tidy
    | with_reducible apply State.showZero_tidy
    | (with_reducible apply State.mk_wf <;> (repeat' first | exact Table.wf_nil _ | (exact queueWaits_wf Wait.queue (fun _ q => { q with wait := WaitSt.absent }) _ _ (State.Tidy.queues (by with_reducible assumption))) | exact List.Pairwise.nil | (with_reducible apply Table.wf_filter) | (with_reducible apply Table.wf_set) | (with_reducible apply pairwise_setInsert) | (with_reducible apply pairwise_setErase) | (with_reducible apply List.Pairwise.filter) | (exact State.Tidy.regs (by with_reducible assumption)) | (exact State.Tidy.mem (by with_reducible assumption)) | (exact State.Tidy.cells (by with_reducible assumption)) | (exact State.Tidy.queues (by with_reducible assumption)) | (exact State.Tidy.jobs (by with_reducible assumption)) | (exact State.Tidy.gates (by with_reducible assumption)) | (exact State.Tidy.pages (by with_reducible assumption)) | (exact State.Tidy.poison (by with_reducible assumption)) | (exact State.Tidy.units (by with_reducible assumption)) | (exact State.Tidy.links (by with_reducible assumption)) | (exact State.Tidy.bundles (by with_reducible assumption)) | (exact State.Tidy.actions (by with_reducible assumption)) | (exact State.Tidy.ports (by with_reducible assumption)) | (exact State.Tidy.sampled (by with_reducible assumption)) | (exact State.Tidy.markers (by with_reducible assumption)) | (exact State.Tidy.lostGen (by with_reducible assumption)) | (exact State.Tidy.lostSet (by with_reducible assumption)) | (exact State.Tidy.chosen (by with_reducible assumption)) | (exact State.Tidy.causes (by with_reducible assumption)) | (exact State.Tidy.moved (by with_reducible assumption)) | (exact State.Tidy.parts (by with_reducible assumption)) | (exact State.Tidy.crossing (by with_reducible assumption)) | (exact State.Tidy.image (by with_reducible assumption)) | (exact State.Tidy.chain (by with_reducible assumption)) | (exact State.Tidy.steps (by with_reducible assumption)) | (exact State.Tidy.reading (by with_reducible assumption)) | (exact State.Tidy.weights (by with_reducible assumption)) | (exact State.Tidy.dealt (by with_reducible assumption)) | (exact State.Tidy.health (by with_reducible assumption)) | (exact State.Tidy.meas (by with_reducible assumption)) | (exact State.Tidy.sums (by with_reducible assumption)) | (exact State.Tidy.spdm (by with_reducible assumption)) | (exact State.Tidy.ide (by with_reducible assumption)) | (exact State.Tidy.ids (by with_reducible assumption)) | (simp only [List.map_nil, List.nil_append, List.pairwise_singleton]; done) | (refine forUpto_wf (fun i_ m_ h_ => ?_) _ ?_) | with_reducible assumption | (intro p_ hp_; first | (exact State.Tidy.order (by with_reducible assumption) p_ hp_) | (exact State.Tidy.order (by with_reducible assumption) p_ (List.mem_filter.mp hp_).1) | (exact absurd hp_ (List.not_mem_nil)))))

theorem State.zeroise_tidy (s : State) (h_s : s.Tidy) : (State.zeroise s).Tidy := by
  unfold State.zeroise
  repeat' first
    | with_reducible assumption
    | with_reducible apply State.clearPairs_tidy
    | with_reducible apply State.clearPort_tidy
    | with_reducible apply State.count_tidy

theorem State.signDigest_tidy (s : State) (seed digest : List Byte) (h_s : s.Tidy) : (State.signDigest s seed
    digest).2.Tidy := by
  unfold State.signDigest
  repeat' first
    | with_reducible assumption
    | (subst x_)
    | (focus ((try lift_lets); intro x_; refine (fun (h_ : State.Tidy x_.2) => ?_) ?_; clear_value x_))
    | with_reducible apply State.draw_tidy

theorem State.sign_tidy (s : State) (seed msg : List Byte) (h_s : s.Tidy) : (State.sign s seed msg).2.Tidy := by
  unfold State.sign
  repeat' first
    | with_reducible assumption
    | with_reducible apply State.signDigest_tidy

theorem State.runFirmware_tidy (s : State) (h_s : s.Tidy) : (State.runFirmware s).Tidy := by
  unfold State.runFirmware
  repeat' first
    | with_reducible assumption
    | (with_reducible refine Keeps.intro (fun s_ y_ h_ => ?_))
    | (focus ((try lift_lets); intro x_; refine (fun (h_ : State.Tidy x_) => ?_) ?_; clear_value x_))
    | (subst x_)
    | with_reducible apply State.extendMr_tidy
    | with_reducible apply State.loadKeys_tidy
    | with_reducible apply State.put_tidy
    | with_reducible apply State.Tidy.each

theorem State.measureStart_tidy (s : State) (h_s : s.Tidy) : (State.measureStart s).Tidy := by
  unfold State.measureStart
  repeat' first
    | with_reducible assumption
    | with_reducible apply State.extendMr_tidy

theorem State.endRequest_tidy (s : State) (hp result : Nat) (h_s : s.Tidy) : (State.endRequest s hp result).Tidy := by
  unfold State.endRequest
  repeat' first
    | with_reducible assumption
    | (focus ((try lift_lets); intro x_; refine (fun (h_ : State.Tidy x_) => ?_) ?_; clear_value x_))
    | (subst x_)
    | (focus ((try lift_lets); intro x_; (first | (have q_ : Perhal := x_)); clear q_; subst x_))
    | with_reducible apply State.count_tidy
    | with_reducible apply State.intSet_tidy
    | with_reducible apply State.put_tidy
    | with_reducible apply State.Tidy.ite
    | split
    | (with_reducible apply State.mk_wf <;> (repeat' first | exact Table.wf_nil _ | (exact queueWaits_wf Wait.queue (fun _ q => { q with wait := WaitSt.absent }) _ _ (State.Tidy.queues (by with_reducible assumption))) | exact List.Pairwise.nil | (with_reducible apply Table.wf_filter) | (with_reducible apply Table.wf_set) | (with_reducible apply pairwise_setInsert) | (with_reducible apply pairwise_setErase) | (with_reducible apply List.Pairwise.filter) | (exact State.Tidy.regs (by with_reducible assumption)) | (exact State.Tidy.mem (by with_reducible assumption)) | (exact State.Tidy.cells (by with_reducible assumption)) | (exact State.Tidy.queues (by with_reducible assumption)) | (exact State.Tidy.jobs (by with_reducible assumption)) | (exact State.Tidy.gates (by with_reducible assumption)) | (exact State.Tidy.pages (by with_reducible assumption)) | (exact State.Tidy.poison (by with_reducible assumption)) | (exact State.Tidy.units (by with_reducible assumption)) | (exact State.Tidy.links (by with_reducible assumption)) | (exact State.Tidy.bundles (by with_reducible assumption)) | (exact State.Tidy.actions (by with_reducible assumption)) | (exact State.Tidy.ports (by with_reducible assumption)) | (exact State.Tidy.sampled (by with_reducible assumption)) | (exact State.Tidy.markers (by with_reducible assumption)) | (exact State.Tidy.lostGen (by with_reducible assumption)) | (exact State.Tidy.lostSet (by with_reducible assumption)) | (exact State.Tidy.chosen (by with_reducible assumption)) | (exact State.Tidy.causes (by with_reducible assumption)) | (exact State.Tidy.moved (by with_reducible assumption)) | (exact State.Tidy.parts (by with_reducible assumption)) | (exact State.Tidy.crossing (by with_reducible assumption)) | (exact State.Tidy.image (by with_reducible assumption)) | (exact State.Tidy.chain (by with_reducible assumption)) | (exact State.Tidy.steps (by with_reducible assumption)) | (exact State.Tidy.reading (by with_reducible assumption)) | (exact State.Tidy.weights (by with_reducible assumption)) | (exact State.Tidy.dealt (by with_reducible assumption)) | (exact State.Tidy.health (by with_reducible assumption)) | (exact State.Tidy.meas (by with_reducible assumption)) | (exact State.Tidy.sums (by with_reducible assumption)) | (exact State.Tidy.spdm (by with_reducible assumption)) | (exact State.Tidy.ide (by with_reducible assumption)) | (exact State.Tidy.ids (by with_reducible assumption)) | (simp only [List.map_nil, List.nil_append, List.pairwise_singleton]; done) | (refine forUpto_wf (fun i_ m_ h_ => ?_) _ ?_) | with_reducible assumption | (intro p_ hp_; first | (exact State.Tidy.order (by with_reducible assumption) p_ hp_) | (exact State.Tidy.order (by with_reducible assumption) p_ (List.mem_filter.mp hp_).1) | (exact absurd hp_ (List.not_mem_nil)))))

theorem State.dropBadOps_tidy (s : State) (y_ : Nat) (h_s : s.Tidy) : (State.dropBadOps s y_).Tidy := by
  induction y_ generalizing s with
  | zero => unfold State.dropBadOps; assumption
  | succ n_ ih_ =>
    unfold State.dropBadOps
    repeat' first
      | with_reducible assumption
      | (subst x_)
      | (focus ((try lift_lets); intro x_; (first | (have q_ : Perhal := x_)); clear q_; subst x_))
      | ((try lift_lets); intro x_)
      | with_reducible apply ih_
      | with_reducible apply State.endRequest_tidy
      | with_reducible apply State.Tidy.ite
      | (with_reducible refine State.mk_tidy rfl ?_; first | with_reducible assumption)
      | split

theorem State.settle_tidy (s : State) (h_s : s.Tidy) : (State.settle s).Tidy := by
  unfold State.settle
  repeat' first
    | with_reducible assumption
    | with_reducible apply State.dropBadOps_tidy

theorem State.submit_tidy (s : State) (hp : Nat) (h_hp : hp < 2) (h_s : s.Tidy) : (State.submit s hp).Tidy := by
  unfold State.submit
  refine State.settle_tidy _ (State.put_tidy _ _ _ (State.put_tidy _ _ _ { h_s with order := fun p hp_ => ?_ }))
  rcases List.mem_append.mp hp_ with h | h
  · exact h_s.order p h
  · rw [List.mem_singleton.mp h]; exact h_hp

theorem State.request_tidy (s : State) (hp op : Nat) (run : State → State × Nat) (h_s : s.Tidy) (k_run : ∀ s, s.Tidy
    → (run s).1.Tidy) : (State.request s hp op run).Tidy := by
  unfold State.request
  repeat' first
    | with_reducible assumption
    | (subst x_)
    | (focus ((try lift_lets); intro x_; refine (fun (h_ : State.Tidy x_.1) => ?_) ?_; clear_value x_))
    | (focus ((try lift_lets); intro x_; (first | (have q_ : Perhal := x_)); clear q_; subst x_))
    | (refine k_run _ ?_)
    | with_reducible apply State.endRequest_tidy
    | with_reducible apply State.settle_tidy
    | with_reducible apply State.Tidy.ite
    | split

theorem State.extend_tidy (s : State) (hp : Nat) (h_s : s.Tidy) : (State.extend s hp).1.Tidy := by
  unfold State.extend
  repeat' first
    | with_reducible assumption
    | (focus ((try lift_lets); intro x_; refine (fun (h_ : State.Tidy x_) => ?_) ?_; clear_value x_))
    | (subst x_)
    | (focus ((try lift_lets); intro x_; (fail_if_success (have q_ : x_ = fun a_ => x_ a_ := rfl)); clear_value x_))
    | ((try lift_lets); intro x_)
    | with_reducible apply State.count_tidy
    | with_reducible apply State.extendMr_tidy
    | with_reducible apply State.Tidy.ite
    | split

theorem execExtend_tidy (hp : Fin 2) (s : State) (h_s : s.Tidy) : ∀ t_, execExtend hp s = .next t_ → t_.Tidy := by
  intro t_ h_
  unfold execExtend at h_
  repeat' first
    | (injection h_ with h_; subst h_)
    | split at h_
    | cases h_
  all_goals
    repeat' first
      | with_reducible assumption
      | (intro s_ h_; show State.Tidy (Prod.fst _))
      | with_reducible apply State.extend_tidy
      | with_reducible apply State.request_tidy

theorem State.quote_tidy (s : State) (hp : Nat) (h_s : s.Tidy) : (State.quote s hp).1.Tidy := by
  unfold State.quote
  repeat' first
    | with_reducible assumption
    | (subst x_)
    | (focus ((try lift_lets); intro x_; refine (fun (h_ : State.Tidy x_.2) => ?_) ?_; clear_value x_))
    | (focus ((try lift_lets); intro x_; (first | (have q_ : Perhal := x_)); clear q_; subst x_))
    | with_reducible apply State.count_tidy
    | with_reducible apply State.putRegBytes_tidy
    | with_reducible apply State.sign_tidy
    | (with_reducible refine State.mk_tidy rfl ?_; first | with_reducible assumption)
    | split

theorem execQuote_tidy (hp : Fin 2) (s : State) (h_s : s.Tidy) : ∀ t_, execQuote hp s = .next t_ → t_.Tidy := by
  intro t_ h_
  unfold execQuote at h_
  repeat' first
    | (injection h_ with h_; subst h_)
    | split at h_
    | cases h_
  all_goals
    repeat' first
      | with_reducible assumption
      | (intro s_ h_; show State.Tidy (Prod.fst _))
      | with_reducible apply State.quote_tidy
      | with_reducible apply State.request_tidy

theorem State.getDik_tidy (s : State) (hp : Nat) (h_s : s.Tidy) : (State.getDik s hp).1.Tidy := by
  unfold State.getDik
  repeat' first
    | with_reducible assumption
    | (subst x_)
    | (focus ((try lift_lets); intro x_; (first | (have q_ : Perhal := x_)); clear q_; subst x_))
    | with_reducible apply State.putRegBytes_tidy
    | (with_reducible refine State.mk_tidy rfl ?_; first | with_reducible assumption)
    | split

theorem execGetDik_tidy (hp : Fin 2) (s : State) (h_s : s.Tidy) : ∀ t_, execGetDik hp s = .next t_ → t_.Tidy := by
  intro t_ h_
  unfold execGetDik at h_
  repeat' first
    | (injection h_ with h_; subst h_)
    | split at h_
    | cases h_
  all_goals
    repeat' first
      | with_reducible assumption
      | (intro s_ h_; show State.Tidy (Prod.fst _))
      | with_reducible apply State.getDik_tidy
      | with_reducible apply State.request_tidy

theorem State.akCert_tidy (s : State) (dik ak : List Byte) (h_s : s.Tidy) : (State.akCert s dik ak).2.Tidy := by
  unfold State.akCert
  repeat' first
    | with_reducible assumption
    | (subst x_)
    | (focus ((try lift_lets); intro x_; refine (fun (h_ : State.Tidy x_.2) => ?_) ?_; clear_value x_))
    | with_reducible apply State.sign_tidy

theorem State.getAkCert_tidy (s : State) (hp : Nat) (h_s : s.Tidy) : (State.getAkCert s hp).1.Tidy := by
  unfold State.getAkCert
  repeat' first
    | with_reducible assumption
    | (subst x_)
    | (focus ((try lift_lets); intro x_; refine (fun (h_ : State.Tidy x_.2) => ?_) ?_; clear_value x_))
    | (focus ((try lift_lets); intro x_; (first | (have q_ : Perhal := x_)); clear q_; subst x_))
    | with_reducible apply State.akCert_tidy
    | with_reducible apply State.putRegBytes_tidy
    | (with_reducible refine State.mk_tidy rfl ?_; first | with_reducible assumption)
    | split

theorem execGetAkCert_tidy (hp : Fin 2) (s : State) (h_s : s.Tidy) : ∀ t_, execGetAkCert hp s = .next t_ → t_.Tidy := by
  intro t_ h_
  unfold execGetAkCert at h_
  repeat' first
    | (injection h_ with h_; subst h_)
    | split at h_
    | cases h_
  all_goals
    repeat' first
      | with_reducible assumption
      | (intro s_ h_; show State.Tidy (Prod.fst _))
      | with_reducible apply State.getAkCert_tidy
      | with_reducible apply State.request_tidy

theorem State.blow_tidy (s : State) (f : State → State) (h_s : s.Tidy) (k_f : Keeps1 f) : (State.blow s f).1.Tidy := by
  unfold State.blow
  repeat' first
    | with_reducible assumption
    | (with_reducible refine Keeps1.intro (fun s_ h_ => ?_))
    | (subst x_)
    | (focus ((try lift_lets); intro x_; refine (fun (h_ : State.Tidy x_.2) => ?_) ?_; clear_value x_))
    | (refine k_f _ ?_)
    | with_reducible apply State.draw_tidy
    | with_reducible apply State.Tidy.ite
    | split

theorem State.showFuses_tidy (s : State) (h_s : s.Tidy) : (State.showFuses s).Tidy := by
  unfold State.showFuses
  repeat' first
    | with_reducible assumption
    | with_reducible apply State.put_tidy

theorem State.svnCommit_tidy (s : State) (h_s : s.Tidy) : (State.svnCommit s).1.Tidy := by
  unfold State.svnCommit
  repeat' first
    | with_reducible assumption
    | (with_reducible refine Keeps1.intro (fun s_ h_ => ?_))
    | (focus ((try lift_lets); intro x_; refine (fun (h_ : State.Tidy x_) => ?_) ?_; clear_value x_))
    | (subst x_)
    | (focus ((try lift_lets); intro x_; (fail_if_success (have q_ : x_ = fun a_ => x_ a_ := rfl)); clear_value x_))
    | ((try lift_lets); intro x_)
    | with_reducible apply State.blow_tidy
    | with_reducible apply State.showFuses_tidy
    | with_reducible apply State.Tidy.ite
    | (with_reducible refine State.mk_tidy rfl ?_; first | with_reducible assumption)
    | split

theorem execSvnCommit_tidy (hp : Fin 2) (s : State) (h_s : s.Tidy) : ∀ t_, execSvnCommit hp s = .next t_ → t_.Tidy := by
  intro t_ h_
  unfold execSvnCommit at h_
  repeat' first
    | (injection h_ with h_; subst h_)
    | split at h_
    | cases h_
  all_goals
    repeat' first
      | with_reducible assumption
      | (intro s_ h_; show State.Tidy (Prod.fst _))
      | with_reducible apply State.request_tidy
      | with_reducible apply State.svnCommit_tidy

theorem State.lcAccept_tidy (s : State) (new : Nat) (h_s : s.Tidy) : (State.lcAccept s new).1.Tidy := by
  unfold State.lcAccept
  repeat' first
    | with_reducible assumption
    | (with_reducible refine Keeps1.intro (fun s_ h_ => ?_))
    | (focus ((try lift_lets); intro x_; refine (fun (h_ : State.Tidy x_) => ?_) ?_; clear_value x_))
    | (subst x_)
    | (focus ((try lift_lets); intro x_; (first | (have q_ : Perhal := x_)); clear q_; subst x_))
    | ((try lift_lets); intro x_)
    | with_reducible apply State.blow_tidy
    | with_reducible apply State.put_tidy
    | with_reducible apply State.zeroise_tidy
    | with_reducible apply State.Tidy.ite
    | (with_reducible refine State.mk_tidy rfl ?_; first | with_reducible assumption)

theorem State.lcTransition_tidy (s : State) (hp : Nat) (h_s : s.Tidy) : (State.lcTransition s hp).1.Tidy := by
  unfold State.lcTransition
  repeat' first
    | with_reducible assumption
    | (focus ((try lift_lets); intro x_; refine (fun (h_ : State.Tidy x_) => ?_) ?_; clear_value x_))
    | (subst x_)
    | (focus ((try lift_lets); intro x_; (first | (have q_ : Perhal := x_)); clear q_; subst x_))
    | (focus ((try lift_lets); intro x_; (fail_if_success (have q_ : x_ = fun a_ => x_ a_ := rfl)); clear_value x_))
    | ((try lift_lets); intro x_)
    | with_reducible apply State.lcAccept_tidy
    | with_reducible apply State.Tidy.ite
    | (with_reducible refine State.mk_tidy rfl ?_; first | with_reducible assumption)
    | split

theorem execLcTransition_tidy (hp : Fin 2) (s : State) (h_s : s.Tidy) : ∀ t_, execLcTransition hp s = .next t_ →
    t_.Tidy := by
  intro t_ h_
  unfold execLcTransition at h_
  repeat' first
    | (injection h_ with h_; subst h_)
    | split at h_
    | cases h_
  all_goals
    repeat' first
      | with_reducible assumption
      | (intro s_ h_; show State.Tidy (Prod.fst _))
      | with_reducible apply State.lcTransition_tidy
      | with_reducible apply State.request_tidy

theorem State.scanRequest_tidy (s : State) (h_s : s.Tidy) : (State.scanRequest s).Tidy := by
  unfold State.scanRequest
  repeat' first
    | with_reducible assumption
    | (focus ((try lift_lets); intro x_; refine (fun (h_ : State.Tidy x_) => ?_) ?_; clear_value x_))
    | (subst x_)
    | (focus ((try lift_lets); intro x_; (first | (have q_ : Perhal := x_)); clear q_; subst x_))
    | with_reducible apply State.zeroise_tidy
    | with_reducible apply State.Tidy.ite
    | (with_reducible refine State.mk_tidy rfl ?_; first | with_reducible assumption)

theorem execScanRequest_tidy (s : State) (h_s : s.Tidy) : ∀ t_, execScanRequest s = .next t_ → t_.Tidy := by
  intro t_ h_
  unfold execScanRequest at h_
  repeat' first
    | (injection h_ with h_; subst h_)
    | split at h_
    | cases h_
  all_goals
    repeat' first
      | with_reducible assumption
      | with_reducible apply State.scanRequest_tidy

theorem State.spdmSession_tidy (s : State) (hp : Nat) (transcript : List Byte) (h_s : s.Tidy) : (State.spdmSession s
    hp transcript).Tidy := by
  unfold State.spdmSession
  repeat' first
    | with_reducible assumption
    | (focus ((try lift_lets); intro x_; refine (fun (h_ : State.Tidy x_) => ?_) ?_; clear_value x_))
    | (subst x_)
    | (focus ((try lift_lets); intro x_; refine (fun (h_ : State.Tidy x_.2) => ?_) ?_; clear_value x_))
    | (focus ((try lift_lets); intro x_; refine (fun (h_ : State.Tidy x_.1) => ?_) ?_; clear_value x_))
    | (focus ((try lift_lets); intro x_; (first | (have q_ : Perhal := x_)); clear q_; subst x_))
    | (focus ((try lift_lets); intro x_; (fail_if_success (have q_ : x_ = fun a_ => x_ a_ := rfl)); clear_value x_))
    | ((try lift_lets); intro x_)
    | with_reducible apply State.akCert_tidy
    | with_reducible apply State.count_tidy
    | with_reducible apply State.showZero_tidy
    | with_reducible apply State.sign_tidy
    | with_reducible apply State.spdm_tidy
    | with_reducible apply State.tell_tidy
    | (with_reducible refine State.mk_tidy rfl ?_; first | with_reducible assumption)
    | split
    | (with_reducible apply State.mk_wf <;> (repeat' first | exact Table.wf_nil _ | (exact queueWaits_wf Wait.queue (fun _ q => { q with wait := WaitSt.absent }) _ _ (State.Tidy.queues (by with_reducible assumption))) | exact List.Pairwise.nil | (with_reducible apply Table.wf_filter) | (with_reducible apply Table.wf_set) | (with_reducible apply pairwise_setInsert) | (with_reducible apply pairwise_setErase) | (with_reducible apply List.Pairwise.filter) | (exact State.Tidy.regs (by with_reducible assumption)) | (exact State.Tidy.mem (by with_reducible assumption)) | (exact State.Tidy.cells (by with_reducible assumption)) | (exact State.Tidy.queues (by with_reducible assumption)) | (exact State.Tidy.jobs (by with_reducible assumption)) | (exact State.Tidy.gates (by with_reducible assumption)) | (exact State.Tidy.pages (by with_reducible assumption)) | (exact State.Tidy.poison (by with_reducible assumption)) | (exact State.Tidy.units (by with_reducible assumption)) | (exact State.Tidy.links (by with_reducible assumption)) | (exact State.Tidy.bundles (by with_reducible assumption)) | (exact State.Tidy.actions (by with_reducible assumption)) | (exact State.Tidy.ports (by with_reducible assumption)) | (exact State.Tidy.sampled (by with_reducible assumption)) | (exact State.Tidy.markers (by with_reducible assumption)) | (exact State.Tidy.lostGen (by with_reducible assumption)) | (exact State.Tidy.lostSet (by with_reducible assumption)) | (exact State.Tidy.chosen (by with_reducible assumption)) | (exact State.Tidy.causes (by with_reducible assumption)) | (exact State.Tidy.moved (by with_reducible assumption)) | (exact State.Tidy.parts (by with_reducible assumption)) | (exact State.Tidy.crossing (by with_reducible assumption)) | (exact State.Tidy.image (by with_reducible assumption)) | (exact State.Tidy.chain (by with_reducible assumption)) | (exact State.Tidy.steps (by with_reducible assumption)) | (exact State.Tidy.reading (by with_reducible assumption)) | (exact State.Tidy.weights (by with_reducible assumption)) | (exact State.Tidy.dealt (by with_reducible assumption)) | (exact State.Tidy.health (by with_reducible assumption)) | (exact State.Tidy.meas (by with_reducible assumption)) | (exact State.Tidy.sums (by with_reducible assumption)) | (exact State.Tidy.spdm (by with_reducible assumption)) | (exact State.Tidy.ide (by with_reducible assumption)) | (exact State.Tidy.ids (by with_reducible assumption)) | (simp only [List.map_nil, List.nil_append, List.pairwise_singleton]; done) | (refine forUpto_wf (fun i_ m_ h_ => ?_) _ ?_) | with_reducible assumption | (intro p_ hp_; first | (exact State.Tidy.order (by with_reducible assumption) p_ hp_) | (exact State.Tidy.order (by with_reducible assumption) p_ (List.mem_filter.mp hp_).1) | (exact absurd hp_ (List.not_mem_nil)))))

theorem State.ideKeys_tidy (s : State) (hp stream : Nat) (set : Bool) (h_s : s.Tidy) : (State.ideKeys s hp stream
    set).Tidy := by
  unfold State.ideKeys
  repeat' first
    | with_reducible assumption
    | (focus ((try lift_lets); intro x_; refine (fun (h_ : State.Tidy x_) => ?_) ?_; clear_value x_))
    | (subst x_)
    | (focus ((try lift_lets); intro x_; (first | (have q_ : Perhal := x_)); clear q_; subst x_))
    | with_reducible apply State.flag_tidy
    | with_reducible apply State.showZero_tidy
    | (with_reducible apply State.mk_wf <;> (repeat' first | exact Table.wf_nil _ | (exact queueWaits_wf Wait.queue (fun _ q => { q with wait := WaitSt.absent }) _ _ (State.Tidy.queues (by with_reducible assumption))) | exact List.Pairwise.nil | (with_reducible apply Table.wf_filter) | (with_reducible apply Table.wf_set) | (with_reducible apply pairwise_setInsert) | (with_reducible apply pairwise_setErase) | (with_reducible apply List.Pairwise.filter) | (exact State.Tidy.regs (by with_reducible assumption)) | (exact State.Tidy.mem (by with_reducible assumption)) | (exact State.Tidy.cells (by with_reducible assumption)) | (exact State.Tidy.queues (by with_reducible assumption)) | (exact State.Tidy.jobs (by with_reducible assumption)) | (exact State.Tidy.gates (by with_reducible assumption)) | (exact State.Tidy.pages (by with_reducible assumption)) | (exact State.Tidy.poison (by with_reducible assumption)) | (exact State.Tidy.units (by with_reducible assumption)) | (exact State.Tidy.links (by with_reducible assumption)) | (exact State.Tidy.bundles (by with_reducible assumption)) | (exact State.Tidy.actions (by with_reducible assumption)) | (exact State.Tidy.ports (by with_reducible assumption)) | (exact State.Tidy.sampled (by with_reducible assumption)) | (exact State.Tidy.markers (by with_reducible assumption)) | (exact State.Tidy.lostGen (by with_reducible assumption)) | (exact State.Tidy.lostSet (by with_reducible assumption)) | (exact State.Tidy.chosen (by with_reducible assumption)) | (exact State.Tidy.causes (by with_reducible assumption)) | (exact State.Tidy.moved (by with_reducible assumption)) | (exact State.Tidy.parts (by with_reducible assumption)) | (exact State.Tidy.crossing (by with_reducible assumption)) | (exact State.Tidy.image (by with_reducible assumption)) | (exact State.Tidy.chain (by with_reducible assumption)) | (exact State.Tidy.steps (by with_reducible assumption)) | (exact State.Tidy.reading (by with_reducible assumption)) | (exact State.Tidy.weights (by with_reducible assumption)) | (exact State.Tidy.dealt (by with_reducible assumption)) | (exact State.Tidy.health (by with_reducible assumption)) | (exact State.Tidy.meas (by with_reducible assumption)) | (exact State.Tidy.sums (by with_reducible assumption)) | (exact State.Tidy.spdm (by with_reducible assumption)) | (exact State.Tidy.ide (by with_reducible assumption)) | (exact State.Tidy.ids (by with_reducible assumption)) | (simp only [List.map_nil, List.nil_append, List.pairwise_singleton]; done) | (refine forUpto_wf (fun i_ m_ h_ => ?_) _ ?_) | with_reducible assumption | (intro p_ hp_; first | (exact State.Tidy.order (by with_reducible assumption) p_ hp_) | (exact State.Tidy.order (by with_reducible assumption) p_ (List.mem_filter.mp hp_).1) | (exact absurd hp_ (List.not_mem_nil)))))

theorem State.spdm_tidy (s : State) (hp : Nat) (y_ : Spdm) (h_s : s.Tidy) : (State.spdm s hp y_).Tidy := by
  unfold State.spdm
  repeat' first
    | with_reducible assumption
    | with_reducible apply State.ideKeys_tidy
    | with_reducible apply State.spdmSession_tidy
    | with_reducible apply State.Tidy.ite
    | split

theorem execSpdmMessage_tidy (hp : Fin 2) (m : Spdm) (s : State) (h_s : s.Tidy) : ∀ t_, execSpdmMessage hp m s =
    .next t_ → t_.Tidy := by
  intro t_ h_
  unfold execSpdmMessage at h_
  repeat' first
    | (injection h_ with h_; subst h_)
    | split at h_
    | cases h_
  all_goals
    repeat' first
      | with_reducible assumption
      | with_reducible apply State.spdm_tidy

end Sys2Proof.Machine
end

