-- ==== Sys2Proof/Laws/TidyPower.lean ====
section
/-! SUPPORT. Every function of Machine/Power.lean that answers a state keeps the canonical form (`State.Tidy`): one lemma
per function, named after it. -/

namespace Sys2Proof.Machine

theorem State.resetPackage_tidy (s : State) (h_s : s.Tidy) : (State.resetPackage s).Tidy := by
  unfold State.resetPackage
  repeat' first
    | with_reducible assumption
    | (with_reducible apply State.mk_wf <;> (repeat' first | exact Table.wf_nil _ | (exact queueWaits_wf Wait.queue (fun _ q => { q with wait := WaitSt.absent }) _ _ (State.Tidy.queues (by with_reducible assumption))) | exact List.Pairwise.nil | (with_reducible apply Table.wf_filter) | (with_reducible apply Table.wf_set) | (with_reducible apply pairwise_setInsert) | (with_reducible apply pairwise_setErase) | (with_reducible apply List.Pairwise.filter) | (exact State.Tidy.regs (by with_reducible assumption)) | (exact State.Tidy.mem (by with_reducible assumption)) | (exact State.Tidy.cells (by with_reducible assumption)) | (exact State.Tidy.queues (by with_reducible assumption)) | (exact State.Tidy.jobs (by with_reducible assumption)) | (exact State.Tidy.gates (by with_reducible assumption)) | (exact State.Tidy.pages (by with_reducible assumption)) | (exact State.Tidy.poison (by with_reducible assumption)) | (exact State.Tidy.units (by with_reducible assumption)) | (exact State.Tidy.links (by with_reducible assumption)) | (exact State.Tidy.bundles (by with_reducible assumption)) | (exact State.Tidy.actions (by with_reducible assumption)) | (exact State.Tidy.ports (by with_reducible assumption)) | (exact State.Tidy.sampled (by with_reducible assumption)) | (exact State.Tidy.markers (by with_reducible assumption)) | (exact State.Tidy.lostGen (by with_reducible assumption)) | (exact State.Tidy.lostSet (by with_reducible assumption)) | (exact State.Tidy.chosen (by with_reducible assumption)) | (exact State.Tidy.causes (by with_reducible assumption)) | (exact State.Tidy.moved (by with_reducible assumption)) | (exact State.Tidy.parts (by with_reducible assumption)) | (exact State.Tidy.crossing (by with_reducible assumption)) | (exact State.Tidy.image (by with_reducible assumption)) | (exact State.Tidy.chain (by with_reducible assumption)) | (exact State.Tidy.steps (by with_reducible assumption)) | (exact State.Tidy.reading (by with_reducible assumption)) | (exact State.Tidy.weights (by with_reducible assumption)) | (exact State.Tidy.dealt (by with_reducible assumption)) | (exact State.Tidy.health (by with_reducible assumption)) | (exact State.Tidy.meas (by with_reducible assumption)) | (exact State.Tidy.sums (by with_reducible assumption)) | (exact State.Tidy.spdm (by with_reducible assumption)) | (exact State.Tidy.ide (by with_reducible assumption)) | (exact State.Tidy.ids (by with_reducible assumption)) | (simp only [List.map_nil, List.nil_append, List.pairwise_singleton]; done) | (refine forUpto_wf (fun i_ m_ h_ => ?_) _ ?_) | with_reducible assumption | (intro p_ hp_; first | (exact State.Tidy.order (by with_reducible assumption) p_ hp_) | (exact State.Tidy.order (by with_reducible assumption) p_ (List.mem_filter.mp hp_).1) | (exact absurd hp_ (List.not_mem_nil)))))

theorem execPackageReset_tidy (s : State) (h_s : s.Tidy) : ∀ t_, execPackageReset s = .next t_ → t_.Tidy := by
  intro t_ h_
  unfold execPackageReset at h_
  repeat' first
    | (injection h_ with h_; subst h_)
    | split at h_
    | cases h_
  all_goals
    repeat' first
      | with_reducible assumption
      | with_reducible apply State.resetPackage_tidy

theorem execPowerRemoved_tidy (s : State) (h_s : s.Tidy) : ∀ t_, execPowerRemoved s = .next t_ → t_.Tidy := by
  intro t_ h_
  unfold execPowerRemoved at h_
  repeat' first
    | (injection h_ with h_; subst h_)
    | split at h_
    | cases h_
  all_goals
    repeat' first
      | with_reducible assumption
      | with_reducible apply State.resetPackage_tidy

theorem State.start_tidy (s : State) (h_s : s.Tidy) : (State.start s).Tidy := by
  unfold State.start
  repeat' first
    | with_reducible assumption
    | (focus ((try lift_lets); intro x_; refine (fun (h_ : State.Tidy x_) => ?_) ?_; clear_value x_))
    | (subst x_)
    | with_reducible apply State.put_tidy
    | with_reducible apply State.showFuses_tidy
    | with_reducible apply State.Tidy.ite

theorem execStart_tidy (s : State) (h_s : s.Tidy) : ∀ t_, execStart s = .next t_ → t_.Tidy := by
  intro t_ h_
  unfold execStart at h_
  repeat' first
    | (injection h_ with h_; subst h_)
    | split at h_
    | cases h_
  all_goals
    repeat' first
      | with_reducible assumption
      | with_reducible apply State.start_tidy

theorem State.find_tidy (s : State) (r : TestResult) (h_s : s.Tidy) : (State.find s r).Tidy := by
  unfold State.find
  repeat' first
    | with_reducible assumption
    | (subst x_)
    | (with_reducible refine State.mk_tidy rfl ?_; first | with_reducible assumption)

theorem State.startFails_tidy (s : State) (h_s : s.Tidy) : (State.startFails s).Tidy := by
  unfold State.startFails
  repeat' first
    | with_reducible assumption
    | (focus ((try lift_lets); intro x_; refine (fun (h_ : State.Tidy x_) => ?_) ?_; clear_value x_))
    | (subst x_)
    | with_reducible apply State.intSet_tidy
    | with_reducible apply State.put_tidy
    | with_reducible apply State.tell_tidy

theorem State.rowRecord_tidy (s : State) (h_s : s.Tidy) : (State.rowRecord s).Tidy := by
  unfold State.rowRecord
  repeat' first
    | with_reducible assumption
    | (focus ((try lift_lets); intro x_; refine (fun (h_ : State.Tidy x_) => ?_) ?_; clear_value x_))
    | (subst x_)
    | (focus ((try lift_lets); intro x_; (fail_if_success (have q_ : x_ = fun a_ => x_ a_ := rfl)); clear_value x_))
    | ((try lift_lets); intro x_)
    | with_reducible apply State.count_tidy
    | with_reducible apply State.flag_tidy
    | with_reducible apply State.put_tidy
    | with_reducible apply State.withSeal_tidy
    | with_reducible apply State.Tidy.ite
    | (with_reducible refine State.mk_tidy rfl ?_; first | with_reducible assumption)
    | split

theorem State.rowBundles_tidy (s : State) (r : TestResult) (h_s : s.Tidy) : (State.rowBundles s r).Tidy := by
  unfold State.rowBundles
  repeat' first
    | with_reducible assumption
    | (with_reducible refine Keeps.intro (fun s_ y_ h_ => ?_))
    | (focus ((try lift_lets); intro x_; refine (fun (h_ : State.Tidy x_) => ?_) ?_; clear_value x_))
    | (subst x_)
    | with_reducible apply State.dieTo_tidy
    | with_reducible apply State.trainBundles_tidy
    | with_reducible apply State.Tidy.ite
    | with_reducible apply State.Tidy.each

theorem State.markMemory_tidy (s : State) (h_s : s.Tidy) : (State.markMemory s).Tidy := by
  unfold State.markMemory
  repeat' first
    | with_reducible assumption
    | (with_reducible refine Keeps.intro (fun s_ y_ h_ => ?_))
    | (focus ((try lift_lets); intro x_; refine (fun (h_ : State.Tidy x_) => ?_) ?_; clear_value x_))
    | (subst x_)
    | with_reducible apply State.hwFence_tidy
    | with_reducible apply State.intSet_tidy
    | with_reducible apply State.Tidy.ite
    | with_reducible apply State.Tidy.each
    | with_reducible apply State.Tidy.foldl
    | (with_reducible refine State.mk_tidy rfl ?_; first | with_reducible assumption)

theorem State.rowUnits_tidy (s : State) (r : TestResult) (h_s : s.Tidy) : (State.rowUnits s r).Tidy := by
  unfold State.rowUnits
  repeat' first
    | with_reducible assumption
    | (with_reducible refine Keeps.intro (fun s_ y_ h_ => ?_))
    | (subst x_)
    | with_reducible apply State.applyDieTest_tidy
    | with_reducible apply State.dieTo_tidy
    | with_reducible apply State.markMemory_tidy
    | with_reducible apply State.stepsBegin_tidy
    | with_reducible apply State.Tidy.ite
    | with_reducible apply State.Tidy.each

theorem State.rowOptics_tidy (s : State) (r : TestResult) (h_s : s.Tidy) : (State.rowOptics s r).Tidy := by
  unfold State.rowOptics
  repeat' first
    | with_reducible assumption
    | (with_reducible refine Keeps.intro (fun s_ y_ h_ => ?_))
    | (focus ((try lift_lets); intro x_; refine (fun (h_ : State.Tidy x_) => ?_) ?_; clear_value x_))
    | (subst x_)
    | (focus ((try lift_lets); intro x_; (fail_if_success (have q_ : x_ = fun a_ => x_ a_ := rfl)); clear_value x_))
    | ((try lift_lets); intro x_)
    | with_reducible apply State.diagLanesLost_tidy
    | with_reducible apply State.find_tidy
    | with_reducible apply State.hwFence_tidy
    | with_reducible apply State.slTrain_tidy
    | with_reducible apply State.Tidy.ite
    | with_reducible apply State.Tidy.each
    | (with_reducible refine State.mk_tidy rfl ?_; first | with_reducible assumption)
    | split

theorem State.capability_tidy (s : State) (h_s : s.Tidy) : (State.capability s).Tidy := by
  unfold State.capability
  repeat' first
    | with_reducible assumption
    | (with_reducible refine Keeps.intro (fun s_ y_ h_ => ?_))
    | (focus ((try lift_lets); intro x_; refine (fun (h_ : State.Tidy x_) => ?_) ?_; clear_value x_))
    | (subst x_)
    | (focus ((try lift_lets); intro x_; (fail_if_success (have q_ : x_ = fun a_ => x_ a_ := rfl)); clear_value x_))
    | with_reducible apply State.put_tidy
    | with_reducible apply State.setWord_tidy
    | with_reducible apply State.take_tidy
    | with_reducible apply State.Tidy.ite
    | with_reducible apply State.Tidy.each
    | with_reducible apply State.Tidy.foldl
    | (with_reducible refine forUpto_tidy (fun i_ s_ h_ => ?_) _ ?_)

theorem State.ready_tidy (s : State) (h_s : s.Tidy) : (State.ready s).Tidy := by
  unfold State.ready
  repeat' first
    | with_reducible assumption
    | (with_reducible refine Keeps.intro (fun s_ y_ h_ => ?_))
    | with_reducible apply State.put_tidy
    | with_reducible apply State.Tidy.each

theorem State.startEnds_tidy (s : State) (h_s : s.Tidy) : (State.startEnds s).Tidy := by
  unfold State.startEnds
  repeat' first
    | with_reducible assumption
    | (with_reducible refine Keeps.intro (fun s_ y_ h_ => ?_))
    | (focus ((try lift_lets); intro x_; refine (fun (h_ : State.Tidy x_) => ?_) ?_; clear_value x_))
    | (subst x_)
    | with_reducible apply State.capability_tidy
    | with_reducible apply State.diagRefresh_tidy
    | with_reducible apply State.intSet_tidy
    | with_reducible apply State.measureStart_tidy
    | with_reducible apply State.put_tidy
    | with_reducible apply State.ready_tidy
    | with_reducible apply State.refreshGrand_tidy
    | with_reducible apply State.settle_tidy
    | with_reducible apply State.tell_tidy
    | with_reducible apply State.Tidy.ite
    | with_reducible apply State.Tidy.each

theorem State.beginRow_tidy (s : State) (n : Nat) (h_s : s.Tidy) : (State.beginRow s n).Tidy := by
  unfold State.beginRow
  repeat' first
    | with_reducible assumption
    | (with_reducible refine Keeps.intro (fun s_ y_ h_ => ?_))
    | (focus ((try lift_lets); intro x_; refine (fun (h_ : State.Tidy x_) => ?_) ?_; clear_value x_))
    | (subst x_)
    | with_reducible apply State.clearPairs_tidy
    | with_reducible apply State.dieTo_tidy
    | with_reducible apply State.put_tidy
    | with_reducible apply State.Tidy.ite
    | with_reducible apply State.Tidy.each

theorem State.rowWork_tidy (s : State) (n : Nat) (r : TestResult) (h_s : s.Tidy) : (State.rowWork s n r).Tidy := by
  unfold State.rowWork
  repeat' first
    | with_reducible assumption
    | (subst x_)
    | with_reducible apply State.find_tidy
    | with_reducible apply State.loadKeys_tidy
    | with_reducible apply State.rowBundles_tidy
    | with_reducible apply State.rowOptics_tidy
    | with_reducible apply State.rowRecord_tidy
    | with_reducible apply State.rowUnits_tidy
    | with_reducible apply State.runFirmware_tidy
    | (with_reducible refine State.mk_tidy rfl ?_; first | with_reducible assumption)
    | split

theorem State.rowDone_tidy (s : State) (r : TestResult) (h_s : s.Tidy) : (State.rowDone s r).Tidy := by
  unfold State.rowDone
  repeat' first
    | with_reducible assumption
    | (focus ((try lift_lets); intro x_; refine (fun (h_ : State.Tidy x_) => ?_) ?_; clear_value x_))
    | (subst x_)
    | with_reducible apply State.beginRow_tidy
    | with_reducible apply State.put_tidy
    | with_reducible apply State.rowWork_tidy
    | with_reducible apply State.startEnds_tidy
    | with_reducible apply State.startFails_tidy
    | with_reducible apply State.Tidy.ite

theorem execStartRowDone_tidy (r : TestResult) (s : State) (h_s : s.Tidy) : ∀ t_, execStartRowDone r s = .next t_ →
    t_.Tidy := by
  intro t_ h_
  unfold execStartRowDone at h_
  repeat' first
    | (injection h_ with h_; subst h_)
    | split at h_
    | cases h_
  all_goals
    repeat' first
      | with_reducible assumption
      | with_reducible apply State.rowDone_tidy

theorem State.lwTo_tidy (s : State) (st : Nat) (h_s : s.Tidy) : (State.lwTo s st).Tidy := by
  unfold State.lwTo
  repeat' first
    | with_reducible assumption
    | (focus ((try lift_lets); intro x_; refine (fun (h_ : State.Tidy x_) => ?_) ?_; clear_value x_))
    | (subst x_)
    | with_reducible apply State.intSet_tidy
    | with_reducible apply State.put_tidy
    | with_reducible apply State.Tidy.ite

theorem State.lwBegin_tidy (s : State) (h_s : s.Tidy) : (State.lwBegin s).Tidy := by
  unfold State.lwBegin
  repeat' first
    | with_reducible assumption
    | (with_reducible refine Keeps.intro (fun s_ y_ h_ => ?_))
    | (focus ((try lift_lets); intro x_; refine (fun (h_ : State.Tidy x_) => ?_) ?_; clear_value x_))
    | (subst x_)
    | (focus ((try lift_lets); intro x_; (first | (have q_ : Perhal := x_)); clear q_; subst x_))
    | with_reducible apply State.endRequest_tidy
    | with_reducible apply State.lwTo_tidy
    | with_reducible apply State.put_tidy
    | with_reducible apply State.resetRequest_tidy
    | with_reducible apply State.Tidy.ite
    | with_reducible apply State.Tidy.each
    | (with_reducible refine State.mk_tidy rfl ?_; first | with_reducible assumption)

theorem State.lwWrite_tidy (s : State) (v : Nat) (h_s : s.Tidy) : (State.lwWrite s v).Tidy := by
  unfold State.lwWrite
  repeat' first
    | with_reducible assumption
    | (focus ((try lift_lets); intro x_; refine (fun (h_ : State.Tidy x_) => ?_) ?_; clear_value x_))
    | (subst x_)
    | with_reducible apply State.lwBegin_tidy
    | with_reducible apply State.lwTo_tidy
    | with_reducible apply State.Tidy.ite
    | (with_reducible refine State.mk_tidy rfl ?_; first | with_reducible assumption)

theorem State.lwFails_tidy (s : State) (h_s : s.Tidy) : (State.lwFails s).Tidy := by
  unfold State.lwFails
  repeat' first
    | with_reducible assumption
    | (focus ((try lift_lets); intro x_; refine (fun (h_ : State.Tidy x_) => ?_) ?_; clear_value x_))
    | (subst x_)
    | with_reducible apply State.count_tidy
    | with_reducible apply State.lwTo_tidy
    | with_reducible apply State.Tidy.ite
    | (with_reducible refine State.mk_tidy rfl ?_; first | with_reducible assumption)

theorem State.marched_tidy (s : State) (parts : List Nat) (h_s : s.Tidy) : (State.marched s parts).Tidy := by
  unfold State.marched
  repeat' first
    | with_reducible assumption
    | (subst x_)
    | with_reducible apply State.lost_tidy
    | (with_reducible apply State.mk_wf <;> (repeat' first | exact Table.wf_nil _ | (exact queueWaits_wf Wait.queue (fun _ q => { q with wait := WaitSt.absent }) _ _ (State.Tidy.queues (by with_reducible assumption))) | exact List.Pairwise.nil | (with_reducible apply Table.wf_filter) | (with_reducible apply Table.wf_set) | (with_reducible apply pairwise_setInsert) | (with_reducible apply pairwise_setErase) | (with_reducible apply List.Pairwise.filter) | (exact State.Tidy.regs (by with_reducible assumption)) | (exact State.Tidy.mem (by with_reducible assumption)) | (exact State.Tidy.cells (by with_reducible assumption)) | (exact State.Tidy.queues (by with_reducible assumption)) | (exact State.Tidy.jobs (by with_reducible assumption)) | (exact State.Tidy.gates (by with_reducible assumption)) | (exact State.Tidy.pages (by with_reducible assumption)) | (exact State.Tidy.poison (by with_reducible assumption)) | (exact State.Tidy.units (by with_reducible assumption)) | (exact State.Tidy.links (by with_reducible assumption)) | (exact State.Tidy.bundles (by with_reducible assumption)) | (exact State.Tidy.actions (by with_reducible assumption)) | (exact State.Tidy.ports (by with_reducible assumption)) | (exact State.Tidy.sampled (by with_reducible assumption)) | (exact State.Tidy.markers (by with_reducible assumption)) | (exact State.Tidy.lostGen (by with_reducible assumption)) | (exact State.Tidy.lostSet (by with_reducible assumption)) | (exact State.Tidy.chosen (by with_reducible assumption)) | (exact State.Tidy.causes (by with_reducible assumption)) | (exact State.Tidy.moved (by with_reducible assumption)) | (exact State.Tidy.parts (by with_reducible assumption)) | (exact State.Tidy.crossing (by with_reducible assumption)) | (exact State.Tidy.image (by with_reducible assumption)) | (exact State.Tidy.chain (by with_reducible assumption)) | (exact State.Tidy.steps (by with_reducible assumption)) | (exact State.Tidy.reading (by with_reducible assumption)) | (exact State.Tidy.weights (by with_reducible assumption)) | (exact State.Tidy.dealt (by with_reducible assumption)) | (exact State.Tidy.health (by with_reducible assumption)) | (exact State.Tidy.meas (by with_reducible assumption)) | (exact State.Tidy.sums (by with_reducible assumption)) | (exact State.Tidy.spdm (by with_reducible assumption)) | (exact State.Tidy.ide (by with_reducible assumption)) | (exact State.Tidy.ids (by with_reducible assumption)) | (simp only [List.map_nil, List.nil_append, List.pairwise_singleton]; done) | (refine forUpto_wf (fun i_ m_ h_ => ?_) _ ?_) | with_reducible assumption | (intro p_ hp_; first | (exact State.Tidy.order (by with_reducible assumption) p_ hp_) | (exact State.Tidy.order (by with_reducible assumption) p_ (List.mem_filter.mp hp_).1) | (exact absurd hp_ (List.not_mem_nil)))))

theorem State.lwSeal_tidy (s : State) (h_s : s.Tidy) : (State.lwSeal s).Tidy := by
  unfold State.lwSeal
  repeat' first
    | with_reducible assumption
    | (with_reducible refine Keeps.intro (fun s_ y_ h_ => ?_))
    | (focus ((try lift_lets); intro x_; refine (fun (h_ : State.Tidy x_) => ?_) ?_; clear_value x_))
    | (subst x_)
    | (focus ((try lift_lets); intro x_; refine (fun (h_ : State.Tidy x_.2) => ?_) ?_; clear_value x_))
    | (focus ((try lift_lets); intro x_; refine (fun (h_ : State.Tidy x_.1) => ?_) ?_; clear_value x_))
    | (focus ((try lift_lets); intro x_; (fail_if_success (have q_ : x_ = fun a_ => x_ a_ := rfl)); clear_value x_))
    | ((try lift_lets); intro x_)
    | with_reducible apply State.signDigest_tidy
    | with_reducible apply State.take_tidy
    | with_reducible apply State.withSeal_tidy
    | (with_reducible refine State.mk_tidy rfl ?_; first | with_reducible assumption)
    | split

theorem State.scannedDies_tidy (s : State) (h_s : s.Tidy) : (State.scannedDies s).Tidy := by
  unfold State.scannedDies
  repeat' first
    | with_reducible assumption
    | (with_reducible refine Keeps.intro (fun s_ y_ h_ => ?_))
    | with_reducible apply State.clearDie_tidy
    | with_reducible apply State.dieTo_tidy
    | with_reducible apply State.Tidy.ite
    | with_reducible apply State.Tidy.each

theorem State.scannedFloor_tidy (s : State) (h_s : s.Tidy) : (State.scannedFloor s).Tidy :=
  { State.resetPackage_tidy s h_s with
    regs := Table.wf_filter _ _ _ h_s.regs, mem := h_s.mem, poison := h_s.poison, lostGen := h_s.lostGen
    lostSet := h_s.lostSet, image := h_s.image, chain := h_s.chain, steps := h_s.steps, reading := h_s.reading
    spdm := h_s.spdm, ide := h_s.ide, order := h_s.order, ids := List.pairwise_singleton _ _ }

theorem State.elementWork_tidy (s : State) (n : Nat) (r : TestResult) (h_s : s.Tidy) : (State.elementWork s n r).Tidy
    := by
  unfold State.elementWork
  repeat' first
    | with_reducible assumption
    | (with_reducible refine Keeps.intro (fun s_ y_ h_ => ?_))
    | (subst x_)
    | with_reducible apply State.applyDieTest_tidy
    | with_reducible apply State.find_tidy
    | with_reducible apply State.marched_tidy
    | with_reducible apply State.scannedDies_tidy
    | with_reducible apply State.scannedFloor_tidy
    | with_reducible apply State.zeroise_tidy
    | with_reducible apply State.Tidy.each
    | (with_reducible refine State.mk_tidy rfl ?_; first | with_reducible assumption)
    | split

theorem State.elementDone_tidy (s : State) (r : TestResult) (h_s : s.Tidy) : (State.elementDone s r).Tidy := by
  unfold State.elementDone
  repeat' first
    | with_reducible assumption
    | (focus ((try lift_lets); intro x_; refine (fun (h_ : State.Tidy x_) => ?_) ?_; clear_value x_))
    | (subst x_)
    | with_reducible apply State.count_tidy
    | with_reducible apply State.elementWork_tidy
    | with_reducible apply State.lwFails_tidy
    | with_reducible apply State.lwSeal_tidy
    | with_reducible apply State.lwTo_tidy
    | with_reducible apply State.put_tidy
    | with_reducible apply State.Tidy.ite
    | (with_reducible refine State.mk_tidy rfl ?_; first | with_reducible assumption)

theorem execLwElementDone_tidy (r : TestResult) (s : State) (h_s : s.Tidy) : ∀ t_, execLwElementDone r s = .next t_ →
    t_.Tidy := by
  intro t_ h_
  unfold execLwElementDone at h_
  repeat' first
    | (injection h_ with h_; subst h_)
    | split at h_
    | cases h_
  all_goals
    repeat' first
      | with_reducible assumption
      | with_reducible apply State.elementDone_tidy

theorem State.railTo_tidy (s : State) (rail : Nat) (valid : Bool) (h_s : s.Tidy) : (State.railTo s rail valid).Tidy
    := by
  unfold State.railTo
  repeat' first
    | with_reducible assumption
    | (subst x_)
    | with_reducible apply State.count_tidy
    | with_reducible apply State.intSet_tidy
    | with_reducible apply State.lwFails_tidy
    | with_reducible apply State.put_tidy
    | with_reducible apply State.Tidy.ite

theorem execRailExcursion_tidy (rail : RailChange) (s : State) (h_s : s.Tidy) : ∀ t_, execRailExcursion rail s =
    .next t_ → t_.Tidy := by
  intro t_ h_
  unfold execRailExcursion at h_
  repeat' first
    | (injection h_ with h_; subst h_)
    | split at h_
    | cases h_
  all_goals
    repeat' first
      | with_reducible assumption
      | with_reducible apply State.railTo_tidy
      | with_reducible apply State.Tidy.ite

theorem execPowerPause_tidy (s : State) (h_s : s.Tidy) : ∀ t_, execPowerPause s = .next t_ → t_.Tidy := by
  intro t_ h_
  unfold execPowerPause at h_
  repeat' first
    | (injection h_ with h_; subst h_)
    | split at h_
    | cases h_
  all_goals
    repeat' first
      | with_reducible assumption
      | (subst x_)
      | with_reducible apply State.count_tidy
      | with_reducible apply State.Tidy.ite
      | (with_reducible refine State.mk_tidy rfl ?_; first | with_reducible assumption)

theorem execPowerPauseEnd_tidy (s : State) (h_s : s.Tidy) : ∀ t_, execPowerPauseEnd s = .next t_ → t_.Tidy := by
  intro t_ h_
  unfold execPowerPauseEnd at h_
  repeat' first
    | (injection h_ with h_; subst h_)
    | split at h_
    | cases h_
  all_goals
    repeat' first
      | with_reducible assumption
      | (subst x_)
      | with_reducible apply State.Tidy.ite
      | (with_reducible refine State.mk_tidy rfl ?_; first | with_reducible assumption)

theorem State.showSteps_tidy (s : State) (h_s : s.Tidy) : (State.showSteps s).Tidy := by
  unfold State.showSteps
  repeat' first
    | with_reducible assumption
    | (with_reducible refine Keeps.intro (fun s_ y_ h_ => ?_))
    | with_reducible apply State.showStep_tidy
    | with_reducible apply State.Tidy.each

theorem State.setSteps_tidy (s : State) (d n : Nat) (h_s : s.Tidy) : (State.setSteps s d n).Tidy := by
  unfold State.setSteps
  repeat' first
    | with_reducible assumption
    | (focus ((try lift_lets); intro x_; refine (fun (h_ : State.Tidy x_) => ?_) ?_; clear_value x_))
    | (subst x_)
    | (focus ((try lift_lets); intro x_; (first | (have q_ : Thermal := x_)); clear q_; subst x_))
    | with_reducible apply State.showSteps_tidy
    | (with_reducible apply State.mk_wf <;> (repeat' first | exact Table.wf_nil _ | (exact queueWaits_wf Wait.queue (fun _ q => { q with wait := WaitSt.absent }) _ _ (State.Tidy.queues (by with_reducible assumption))) | exact List.Pairwise.nil | (with_reducible apply Table.wf_filter) | (with_reducible apply Table.wf_set) | (with_reducible apply pairwise_setInsert) | (with_reducible apply pairwise_setErase) | (with_reducible apply List.Pairwise.filter) | (exact State.Tidy.regs (by with_reducible assumption)) | (exact State.Tidy.mem (by with_reducible assumption)) | (exact State.Tidy.cells (by with_reducible assumption)) | (exact State.Tidy.queues (by with_reducible assumption)) | (exact State.Tidy.jobs (by with_reducible assumption)) | (exact State.Tidy.gates (by with_reducible assumption)) | (exact State.Tidy.pages (by with_reducible assumption)) | (exact State.Tidy.poison (by with_reducible assumption)) | (exact State.Tidy.units (by with_reducible assumption)) | (exact State.Tidy.links (by with_reducible assumption)) | (exact State.Tidy.bundles (by with_reducible assumption)) | (exact State.Tidy.actions (by with_reducible assumption)) | (exact State.Tidy.ports (by with_reducible assumption)) | (exact State.Tidy.sampled (by with_reducible assumption)) | (exact State.Tidy.markers (by with_reducible assumption)) | (exact State.Tidy.lostGen (by with_reducible assumption)) | (exact State.Tidy.lostSet (by with_reducible assumption)) | (exact State.Tidy.chosen (by with_reducible assumption)) | (exact State.Tidy.causes (by with_reducible assumption)) | (exact State.Tidy.moved (by with_reducible assumption)) | (exact State.Tidy.parts (by with_reducible assumption)) | (exact State.Tidy.crossing (by with_reducible assumption)) | (exact State.Tidy.image (by with_reducible assumption)) | (exact State.Tidy.chain (by with_reducible assumption)) | (exact State.Tidy.steps (by with_reducible assumption)) | (exact State.Tidy.reading (by with_reducible assumption)) | (exact State.Tidy.weights (by with_reducible assumption)) | (exact State.Tidy.dealt (by with_reducible assumption)) | (exact State.Tidy.health (by with_reducible assumption)) | (exact State.Tidy.meas (by with_reducible assumption)) | (exact State.Tidy.sums (by with_reducible assumption)) | (exact State.Tidy.spdm (by with_reducible assumption)) | (exact State.Tidy.ide (by with_reducible assumption)) | (exact State.Tidy.ids (by with_reducible assumption)) | (simp only [List.map_nil, List.nil_append, List.pairwise_singleton]; done) | (refine forUpto_wf (fun i_ m_ h_ => ?_) _ ?_) | with_reducible assumption | (intro p_ hp_; first | (exact State.Tidy.order (by with_reducible assumption) p_ hp_) | (exact State.Tidy.order (by with_reducible assumption) p_ (List.mem_filter.mp hp_).1) | (exact absurd hp_ (List.not_mem_nil)))))

theorem State.excursion_tidy (s : State) (d : Nat) (h_s : s.Tidy) : (State.excursion s d).Tidy := by
  unfold State.excursion
  repeat' first
    | with_reducible assumption
    | (focus ((try lift_lets); intro x_; refine (fun (h_ : State.Tidy x_) => ?_) ?_; clear_value x_))
    | (subst x_)
    | with_reducible apply State.count_tidy
    | with_reducible apply State.intSet_tidy
    | with_reducible apply State.Tidy.ite

theorem State.sense_tidy (s : State) (x : Sensor) (v : Nat) (h_s : s.Tidy) : (State.sense s x v).Tidy := by
  unfold State.sense
  repeat' first
    | with_reducible assumption
    | (with_reducible refine Keeps.intro (fun s_ y_ h_ => ?_))
    | (focus ((try lift_lets); intro x_; refine (fun (h_ : State.Tidy x_) => ?_) ?_; clear_value x_))
    | (subst x_)
    | (focus ((try lift_lets); intro x_; (first | (have q_ : Thermal := x_)); clear q_; subst x_))
    | (focus ((try lift_lets); intro x_; (fail_if_success (have q_ : x_ = fun a_ => x_ a_ := rfl)); clear_value x_))
    | ((try lift_lets); intro x_)
    | with_reducible apply State.draw_tidy
    | with_reducible apply State.excursion_tidy
    | with_reducible apply State.setSteps_tidy
    | with_reducible apply State.Tidy.ite
    | with_reducible apply State.Tidy.each
    | (with_reducible refine State.mk_tidy rfl ?_; first | with_reducible assumption)
    | split
    | (with_reducible apply State.mk_wf <;> (repeat' first | exact Table.wf_nil _ | (exact queueWaits_wf Wait.queue (fun _ q => { q with wait := WaitSt.absent }) _ _ (State.Tidy.queues (by with_reducible assumption))) | exact List.Pairwise.nil | (with_reducible apply Table.wf_filter) | (with_reducible apply Table.wf_set) | (with_reducible apply pairwise_setInsert) | (with_reducible apply pairwise_setErase) | (with_reducible apply List.Pairwise.filter) | (exact State.Tidy.regs (by with_reducible assumption)) | (exact State.Tidy.mem (by with_reducible assumption)) | (exact State.Tidy.cells (by with_reducible assumption)) | (exact State.Tidy.queues (by with_reducible assumption)) | (exact State.Tidy.jobs (by with_reducible assumption)) | (exact State.Tidy.gates (by with_reducible assumption)) | (exact State.Tidy.pages (by with_reducible assumption)) | (exact State.Tidy.poison (by with_reducible assumption)) | (exact State.Tidy.units (by with_reducible assumption)) | (exact State.Tidy.links (by with_reducible assumption)) | (exact State.Tidy.bundles (by with_reducible assumption)) | (exact State.Tidy.actions (by with_reducible assumption)) | (exact State.Tidy.ports (by with_reducible assumption)) | (exact State.Tidy.sampled (by with_reducible assumption)) | (exact State.Tidy.markers (by with_reducible assumption)) | (exact State.Tidy.lostGen (by with_reducible assumption)) | (exact State.Tidy.lostSet (by with_reducible assumption)) | (exact State.Tidy.chosen (by with_reducible assumption)) | (exact State.Tidy.causes (by with_reducible assumption)) | (exact State.Tidy.moved (by with_reducible assumption)) | (exact State.Tidy.parts (by with_reducible assumption)) | (exact State.Tidy.crossing (by with_reducible assumption)) | (exact State.Tidy.image (by with_reducible assumption)) | (exact State.Tidy.chain (by with_reducible assumption)) | (exact State.Tidy.steps (by with_reducible assumption)) | (exact State.Tidy.reading (by with_reducible assumption)) | (exact State.Tidy.weights (by with_reducible assumption)) | (exact State.Tidy.dealt (by with_reducible assumption)) | (exact State.Tidy.health (by with_reducible assumption)) | (exact State.Tidy.meas (by with_reducible assumption)) | (exact State.Tidy.sums (by with_reducible assumption)) | (exact State.Tidy.spdm (by with_reducible assumption)) | (exact State.Tidy.ide (by with_reducible assumption)) | (exact State.Tidy.ids (by with_reducible assumption)) | (simp only [List.map_nil, List.nil_append, List.pairwise_singleton]; done) | (refine forUpto_wf (fun i_ m_ h_ => ?_) _ ?_) | with_reducible assumption | (intro p_ hp_; first | (exact State.Tidy.order (by with_reducible assumption) p_ hp_) | (exact State.Tidy.order (by with_reducible assumption) p_ (List.mem_filter.mp hp_).1) | (exact absurd hp_ (List.not_mem_nil)))))

theorem execSensorThreshold_tidy (x : Sensor) (reading : Nat) (s : State) (h_s : s.Tidy) : ∀ t_, execSensorThreshold
    x reading s = .next t_ → t_.Tidy := by
  intro t_ h_
  unfold execSensorThreshold at h_
  repeat' first
    | (injection h_ with h_; subst h_)
    | split at h_
    | cases h_
  all_goals
    repeat' first
      | with_reducible assumption
      | with_reducible apply State.sense_tidy
      | with_reducible apply State.Tidy.ite

theorem State.stepDown_tidy (s : State) (y_ : Trigger) (h_s : s.Tidy) : (State.stepDown s y_).Tidy := by
  unfold State.stepDown
  repeat' first
    | with_reducible assumption
    | with_reducible apply State.draw_tidy
    | with_reducible apply State.setSteps_tidy
    | with_reducible apply State.Tidy.ite
    | split

theorem execThrottleStepDown_tidy (t : Trigger) (s : State) (h_s : s.Tidy) : ∀ t_, execThrottleStepDown t s = .next
    t_ → t_.Tidy := by
  intro t_ h_
  unfold execThrottleStepDown at h_
  repeat' first
    | (injection h_ with h_; subst h_)
    | split at h_
    | cases h_
  all_goals
    repeat' first
      | with_reducible assumption
      | with_reducible apply State.stepDown_tidy
      | with_reducible apply State.Tidy.ite

theorem State.stepUp_tidy (s : State) (y_ : Trigger) (h_s : s.Tidy) : (State.stepUp s y_).Tidy := by
  unfold State.stepUp
  repeat' first
    | with_reducible assumption
    | with_reducible apply State.draw_tidy
    | with_reducible apply State.setSteps_tidy
    | with_reducible apply State.Tidy.ite
    | split

theorem execThrottleStepUp_tidy (t : Trigger) (s : State) (h_s : s.Tidy) : ∀ t_, execThrottleStepUp t s = .next t_ →
    t_.Tidy := by
  intro t_ h_
  unfold execThrottleStepUp at h_
  repeat' first
    | (injection h_ with h_; subst h_)
    | split at h_
    | cases h_
  all_goals
    repeat' first
      | with_reducible assumption
      | with_reducible apply State.stepUp_tidy
      | with_reducible apply State.Tidy.ite

theorem State.clockStop_tidy (s : State) (d : Nat) (h_s : s.Tidy) : (State.clockStop s d).Tidy := by
  unfold State.clockStop
  repeat' first
    | with_reducible assumption
    | with_reducible apply State.fatalStop_tidy
    | with_reducible apply State.goAbsent_tidy
    | with_reducible apply State.Tidy.ite

theorem execClockStop_tidy (d : Fin 5) (s : State) (h_s : s.Tidy) : ∀ t_, execClockStop d s = .next t_ → t_.Tidy := by
  intro t_ h_
  unfold execClockStop at h_
  repeat' first
    | (injection h_ with h_; subst h_)
    | split at h_
    | cases h_
  all_goals
    repeat' first
      | with_reducible assumption
      | with_reducible apply State.clockStop_tidy

end Sys2Proof.Machine
end

