-- ==== Sys2Proof/Laws/TidyPort.lean ====
section
/-! SUPPORT. Every function of Machine/Port.lean that answers a state keeps the canonical form (`State.Tidy`): one lemma
per function, named after it. -/

namespace Sys2Proof.Machine

theorem State.drainEnd_tidy (s : State) (hp st result : Nat) (h_s : s.Tidy) : (State.drainEnd s hp st result).Tidy := by
  unfold State.drainEnd
  repeat' first
    | with_reducible assumption
    | with_reducible apply State.intSet_tidy
    | with_reducible apply State.put_tidy

theorem State.postWrites_tidy (s : State) (hp dst : Nat) (l : List Byte) (h_s : s.Tidy) : (State.postWrites s hp dst
    l).Tidy := by
  unfold State.postWrites
  repeat' first
    | with_reducible assumption
    | (with_reducible refine Keeps.intro (fun s_ y_ h_ => ?_))
    | (subst x_)
    | with_reducible apply State.take_tidy
    | with_reducible apply State.tell_tidy
    | with_reducible apply State.write_tidy
    | (with_reducible refine forUpto_tidy (fun i_ s_ h_ => ?_) _ ?_)

theorem State.drainPage_tidy (s : State) (hp k : Nat) (h_s : s.Tidy) : (State.drainPage s hp k).Tidy := by
  unfold State.drainPage
  simp only
  split
  all_goals
    repeat' first
      | with_reducible assumption
      | with_reducible apply State.put_tidy
      | with_reducible apply State.count_tidy
      | with_reducible apply State.tell_tidy
      | with_reducible apply State.postWrites_tidy
      | with_reducible apply State.countRead_tidy

theorem State.drainCopy_tidy (s : State) (hp : Nat) (h_s : s.Tidy) : (State.drainCopy s hp).Tidy := by
  unfold State.drainCopy
  repeat' first
    | with_reducible assumption
    | (subst x_)
    | with_reducible apply State.drainPage_tidy
    | with_reducible apply State.tell_tidy
    | (with_reducible refine forUpto_tidy (fun i_ s_ h_ => ?_) _ ?_)

theorem State.drainGo_tidy (s : State) (hp : Nat) (h_s : s.Tidy) : (State.drainGo s hp).Tidy := by
  unfold State.drainGo
  repeat' first
    | with_reducible assumption
    | (focus ((try lift_lets); intro x_; refine (fun (h_ : State.Tidy x_) => ?_) ?_; clear_value x_))
    | (subst x_)
    | with_reducible apply State.drainCopy_tidy
    | with_reducible apply State.drainEnd_tidy
    | with_reducible apply State.put_tidy
    | with_reducible apply State.Tidy.ite

theorem State.drainAbort_tidy (s : State) (hp : Nat) (h_s : s.Tidy) : (State.drainAbort s hp).Tidy := by
  unfold State.drainAbort
  repeat' first
    | with_reducible assumption
    | with_reducible apply State.drainEnd_tidy
    | with_reducible apply State.Tidy.ite

theorem State.drainFlushed_tidy (s : State) (hp : Nat) (h_s : s.Tidy) : (State.drainFlushed s hp).Tidy := by
  unfold State.drainFlushed
  repeat' first
    | with_reducible assumption
    | (subst x_)
    | with_reducible apply State.drainEnd_tidy
    | with_reducible apply State.Tidy.ite

theorem execDrainFlushComplete_tidy (hp : Fin 2) (s : State) (h_s : s.Tidy) : ∀ t_, execDrainFlushComplete hp s =
    .next t_ → t_.Tidy := by
  intro t_ h_
  unfold execDrainFlushComplete at h_
  repeat' first
    | (injection h_ with h_; subst h_)
    | split at h_
    | cases h_
  all_goals
    repeat' first
      | with_reducible assumption
      | with_reducible apply State.drainFlushed_tidy

theorem State.hostUp_tidy (s : State) (hp gen width : Nat) (h_s : s.Tidy) : (State.hostUp s hp gen width).Tidy := by
  unfold State.hostUp
  repeat' first
    | with_reducible assumption
    | (focus ((try lift_lets); intro x_; refine (fun (h_ : State.Tidy x_) => ?_) ?_; clear_value x_))
    | (subst x_)
    | with_reducible apply State.intSet_tidy
    | with_reducible apply State.put_tidy
    | with_reducible apply State.Tidy.ite

theorem execHostLinkUp_tidy (hp : Fin 2) (gen width : Nat) (s : State) (h_s : s.Tidy) : ∀ t_, execHostLinkUp hp gen
    width s = .next t_ → t_.Tidy := by
  intro t_ h_
  unfold execHostLinkUp at h_
  repeat' first
    | (injection h_ with h_; subst h_)
    | split at h_
    | cases h_
  all_goals
    repeat' first
      | with_reducible assumption
      | with_reducible apply State.hostUp_tidy

theorem State.resetPort_tidy (s : State) (hp : Nat) (h_s : s.Tidy) : (State.resetPort s hp).Tidy := by
  unfold State.resetPort
  repeat' first
    | with_reducible assumption
    | (with_reducible refine Keeps.intro (fun s_ y_ h_ => ?_))
    | (focus ((try lift_lets); intro x_; refine (fun (h_ : State.Tidy x_) => ?_) ?_; clear_value x_))
    | (subst x_)
    | (focus ((try lift_lets); intro x_; refine (fun (h_ : State.Tidy x_.1) => ?_) ?_; clear_value x_))
    | (focus ((try lift_lets); intro x_; (first | (have q_ : Perhal := x_)); clear q_; subst x_))
    | (focus ((try lift_lets); intro x_; (fail_if_success (have q_ : x_ = fun a_ => x_ a_ := rfl)); clear_value x_))
    | ((try lift_lets); intro x_)
    | with_reducible apply State.clearPort_tidy
    | with_reducible apply State.put_tidy
    | with_reducible apply State.setPort_tidy
    | with_reducible apply State.setWord_tidy
    | with_reducible apply State.settle_tidy
    | with_reducible apply State.Tidy.ite
    | with_reducible apply State.Tidy.each
    | (with_reducible refine State.mk_tidy rfl ?_; first | with_reducible assumption)
    | split
    | (with_reducible apply State.mk_wf <;> (repeat' first | exact Table.wf_nil _ | (exact queueWaits_wf Wait.queue (fun _ q => { q with wait := WaitSt.absent }) _ _ (State.Tidy.queues (by with_reducible assumption))) | exact List.Pairwise.nil | (with_reducible apply Table.wf_filter) | (with_reducible apply Table.wf_set) | (with_reducible apply pairwise_setInsert) | (with_reducible apply pairwise_setErase) | (with_reducible apply List.Pairwise.filter) | (exact State.Tidy.regs (by with_reducible assumption)) | (exact State.Tidy.mem (by with_reducible assumption)) | (exact State.Tidy.cells (by with_reducible assumption)) | (exact State.Tidy.queues (by with_reducible assumption)) | (exact State.Tidy.jobs (by with_reducible assumption)) | (exact State.Tidy.gates (by with_reducible assumption)) | (exact State.Tidy.pages (by with_reducible assumption)) | (exact State.Tidy.poison (by with_reducible assumption)) | (exact State.Tidy.units (by with_reducible assumption)) | (exact State.Tidy.links (by with_reducible assumption)) | (exact State.Tidy.bundles (by with_reducible assumption)) | (exact State.Tidy.actions (by with_reducible assumption)) | (exact State.Tidy.ports (by with_reducible assumption)) | (exact State.Tidy.sampled (by with_reducible assumption)) | (exact State.Tidy.markers (by with_reducible assumption)) | (exact State.Tidy.lostGen (by with_reducible assumption)) | (exact State.Tidy.lostSet (by with_reducible assumption)) | (exact State.Tidy.chosen (by with_reducible assumption)) | (exact State.Tidy.causes (by with_reducible assumption)) | (exact State.Tidy.moved (by with_reducible assumption)) | (exact State.Tidy.parts (by with_reducible assumption)) | (exact State.Tidy.crossing (by with_reducible assumption)) | (exact State.Tidy.image (by with_reducible assumption)) | (exact State.Tidy.chain (by with_reducible assumption)) | (exact State.Tidy.steps (by with_reducible assumption)) | (exact State.Tidy.reading (by with_reducible assumption)) | (exact State.Tidy.weights (by with_reducible assumption)) | (exact State.Tidy.dealt (by with_reducible assumption)) | (exact State.Tidy.health (by with_reducible assumption)) | (exact State.Tidy.meas (by with_reducible assumption)) | (exact State.Tidy.sums (by with_reducible assumption)) | (exact State.Tidy.spdm (by with_reducible assumption)) | (exact State.Tidy.ide (by with_reducible assumption)) | (exact State.Tidy.ids (by with_reducible assumption)) | (simp only [List.map_nil, List.nil_append, List.pairwise_singleton]; done) | (refine forUpto_wf (fun i_ m_ h_ => ?_) _ ?_) | with_reducible assumption | (intro p_ hp_; first | (exact State.Tidy.order (by with_reducible assumption) p_ hp_) | (exact State.Tidy.order (by with_reducible assumption) p_ (List.mem_filter.mp hp_).1) | (exact absurd hp_ (List.not_mem_nil)))))

theorem State.portReset_tidy (s : State) (hp : Nat) (h_s : s.Tidy) : (State.portReset s hp).Tidy := by
  unfold State.portReset
  repeat' first
    | with_reducible assumption
    | (focus ((try lift_lets); intro x_; refine (fun (h_ : State.Tidy x_) => ?_) ?_; clear_value x_))
    | (subst x_)
    | with_reducible apply State.count_tidy
    | with_reducible apply State.drainEnd_tidy
    | with_reducible apply State.intSet_tidy
    | with_reducible apply State.resetPort_tidy
    | with_reducible apply State.Tidy.ite

theorem execHostLinkDown_tidy (hp : Fin 2) (s : State) (h_s : s.Tidy) : ∀ t_, execHostLinkDown hp s = .next t_ →
    t_.Tidy := by
  intro t_ h_
  unfold execHostLinkDown at h_
  repeat' first
    | (injection h_ with h_; subst h_)
    | split at h_
    | cases h_
  all_goals
    repeat' first
      | with_reducible assumption
      | with_reducible apply State.portReset_tidy
      | with_reducible apply State.Tidy.ite

theorem execHostPortReset_tidy (hp : Fin 2) (s : State) (h_s : s.Tidy) : ∀ t_, execHostPortReset hp s = .next t_ →
    t_.Tidy := by
  intro t_ h_
  unfold execHostPortReset at h_
  repeat' first
    | (injection h_ with h_; subst h_)
    | split at h_
    | cases h_
  all_goals
    repeat' first
      | with_reducible assumption
      | with_reducible apply State.portReset_tidy

theorem State.flushRecords_tidy (s : State) (hp : Nat) (h_s : s.Tidy) : (State.flushRecords s hp).Tidy := by
  unfold State.flushRecords
  repeat' first
    | with_reducible assumption
    | (with_reducible refine Keeps.intro (fun s_ y_ h_ => ?_))
    | (focus ((try lift_lets); intro x_; refine (fun (h_ : State.Tidy x_) => ?_) ?_; clear_value x_))
    | (subst x_)
    | (focus ((try lift_lets); intro x_; (fail_if_success (have q_ : x_ = fun a_ => x_ a_ := rfl)); clear_value x_))
    | ((try lift_lets); intro x_)
    | with_reducible apply State.cplRecord_tidy
    | with_reducible apply State.refreshOutstanding_tidy
    | with_reducible apply State.Tidy.each
    | (with_reducible refine State.mk_tidy rfl ?_; first | with_reducible assumption)

theorem State.busMaster_tidy (s : State) (hp : Nat) (c : PortConfig) (h_s : s.Tidy) : (State.busMaster s hp c).Tidy
    := by
  unfold State.busMaster
  repeat' first
    | with_reducible assumption
    | (with_reducible refine Keeps.intro (fun s_ y_ h_ => ?_))
    | (focus ((try lift_lets); intro x_; refine (fun (h_ : State.Tidy x_) => ?_) ?_; clear_value x_))
    | (subst x_)
    | with_reducible apply State.drainCopy_tidy
    | with_reducible apply State.flushRecords_tidy
    | with_reducible apply State.msix_tidy
    | with_reducible apply State.setPort_tidy
    | with_reducible apply State.Tidy.ite
    | with_reducible apply State.Tidy.each

theorem execBusMasterEnable_tidy (hp : Fin 2) (c : PortConfig) (s : State) (h_s : s.Tidy) : ∀ t_, execBusMasterEnable
    hp c s = .next t_ → t_.Tidy := by
  intro t_ h_
  unfold execBusMasterEnable at h_
  repeat' first
    | (injection h_ with h_; subst h_)
    | split at h_
    | cases h_
  all_goals
    repeat' first
      | with_reducible assumption
      | with_reducible apply State.busMaster_tidy

theorem State.i3cAnswer_tidy (s : State) (status : Nat) (data : List Byte) (h_s : s.Tidy) : (State.i3cAnswer s status
    data).Tidy := by
  unfold State.i3cAnswer
  repeat' first
    | with_reducible assumption
    | (subst x_)
    | with_reducible apply State.tell_tidy
    | (with_reducible refine State.mk_tidy rfl ?_; first | with_reducible assumption)

theorem State.i3cOther_tidy (s : State) (byte : Nat) (h_s : s.Tidy) : (State.i3cOther s byte).Tidy := by
  unfold State.i3cOther
  repeat' first
    | with_reducible assumption
    | with_reducible apply State.i3cAnswer_tidy
    | with_reducible apply State.Tidy.ite

theorem State.imgWrite_tidy (s : State) (region off : Nat) (data : List Byte) (h_s : s.Tidy) :
    (State.imgWrite s region off data).Tidy := by
  have put : ∀ m : Table Byte, Table.wf (fun _ => 0) m → Table.wf (fun _ => 0)
      (forUpto (fun i t => Table.set (fun _ => 0) t (off + i) (data.getD i 0)) 256 m) :=
    fun m h => forUpto_wf (fun i t h => Table.wf_set _ _ _ _ h) 256 h
  have ha := put _ h_s.image
  have hb := put _ h_s.chain
  clear put
  unfold State.imgWrite
  simp only
  generalize forUpto (fun i t => Table.set (fun _ => 0) t (off + i) (data.getD i 0)) 256 s.perhal.img = a at *
  generalize forUpto (fun i t => Table.set (fun _ => 0) t (off + i) (data.getD i 0)) 256 s.perhal.chain = b at *
  repeat' with_reducible apply State.Tidy.ite
  all_goals first
    | exact h_s
    | with_reducible exact State.i3cAnswer_tidy _ _ _ h_s
    | exact State.i3cAnswer_tidy _ _ _ { h_s with image := ha }
    | exact State.i3cAnswer_tidy _ _ _ { h_s with chain := hb }

theorem execImgWrite_tidy (region offset : Nat) (data : List Byte) (s : State) (h_s : s.Tidy) : ∀ t_, execImgWrite
    region offset data s = .next t_ → t_.Tidy := by
  intro t_ h_
  unfold execImgWrite at h_
  repeat' first
    | (injection h_ with h_; subst h_)
    | split at h_
    | cases h_
  all_goals
    repeat' first
      | with_reducible assumption
      | with_reducible apply State.imgWrite_tidy

theorem State.imgDone_tidy (s : State) (region len : Nat) (h_s : s.Tidy) : (State.imgDone s region len).Tidy := by
  unfold State.imgDone
  repeat' first
    | with_reducible assumption
    | (subst x_)
    | (focus ((try lift_lets); intro x_; (first | (have q_ : Perhal := x_)); clear q_; subst x_))
    | with_reducible apply State.i3cAnswer_tidy
    | with_reducible apply State.Tidy.ite
    | (with_reducible refine State.mk_tidy rfl ?_; first | with_reducible assumption)

theorem execImgDone_tidy (region length : Nat) (s : State) (h_s : s.Tidy) : ∀ t_, execImgDone region length s = .next
    t_ → t_.Tidy := by
  intro t_ h_
  unfold execImgDone at h_
  repeat' first
    | (injection h_ with h_; subst h_)
    | split at h_
    | cases h_
  all_goals
    repeat' first
      | with_reducible assumption
      | with_reducible apply State.imgDone_tidy

theorem State.imgStatus_tidy (s : State) (h_s : s.Tidy) : (State.imgStatus s).Tidy := by
  unfold State.imgStatus
  repeat' first
    | with_reducible assumption
    | with_reducible apply State.i3cAnswer_tidy
    | with_reducible apply State.Tidy.ite

theorem execImgStatus_tidy (s : State) (h_s : s.Tidy) : ∀ t_, execImgStatus s = .next t_ → t_.Tidy := by
  intro t_ h_
  unfold execImgStatus at h_
  repeat' first
    | (injection h_ with h_; subst h_)
    | split at h_
    | cases h_
  all_goals
    repeat' first
      | with_reducible assumption
      | with_reducible apply State.imgStatus_tidy

end Sys2Proof.Machine
end

