-- ==== Sys2Proof/Laws/TidyPerf.lean ====
section
/-! SUPPORT. Every function of Machine/Perf.lean that answers a state keeps the canonical form (`State.Tidy`): one lemma
per function, named after it. -/

namespace Sys2Proof.Machine

theorem State.overflow_tidy (s : State) (d index : Nat) (h_s : s.Tidy) : (State.overflow s d index).Tidy := by
  unfold State.overflow
  repeat' first
    | with_reducible assumption
    | (focus ((try lift_lets); intro x_; refine (fun (h_ : State.Tidy x_) => ?_) ?_; clear_value x_))
    | (subst x_)
    | (focus ((try lift_lets); intro x_; (fail_if_success (have q_ : x_ = fun a_ => x_ a_ := rfl)); clear_value x_))
    | ((try lift_lets); intro x_)
    | with_reducible apply State.countAtBy_tidy
    | with_reducible apply State.msix_tidy
    | with_reducible apply State.Tidy.ite
    | (with_reducible refine State.mk_tidy rfl ?_; first | with_reducible assumption)
    | split

theorem execCounterOverflow_tidy (d : Fin 5) (index : Nat) (s : State) (h_s : s.Tidy) : ∀ t_, execCounterOverflow d
    index s = .next t_ → t_.Tidy := by
  intro t_ h_
  unfold execCounterOverflow at h_
  repeat' first
    | (injection h_ with h_; subst h_)
    | split at h_
    | cases h_
  all_goals
    repeat' first
      | with_reducible assumption
      | with_reducible apply State.overflow_tidy

theorem execSampleTag_tidy (d : Fin 4) (s : State) (h_s : s.Tidy) : ∀ t_, execSampleTag d s = .next t_ → t_.Tidy := by
  intro t_ h_
  unfold execSampleTag at h_
  repeat' first
    | (injection h_ with h_; subst h_)
    | split at h_
    | cases h_
  all_goals
    repeat' first
      | with_reducible assumption
      | with_reducible apply State.resolveTag_tidy

theorem State.floorMarker_tidy (s : State) (t : Token) (part : Nat) (h_s : s.Tidy) : (State.floorMarker s t
    part).Tidy := by
  unfold State.floorMarker
  repeat' first
    | with_reducible assumption
    | (subst x_)
    | (focus ((try lift_lets); intro x_; refine (fun (h_ : State.Tidy x_.2) => ?_) ?_; clear_value x_))
    | with_reducible apply State.pmuRecord_tidy
    | with_reducible apply State.stampIslands_tidy

theorem State.markerToken_tidy (s : State) (d : Nat) (h_s : s.Tidy) : (State.markerToken s d).Tidy := by
  unfold State.markerToken
  repeat' first
    | with_reducible assumption
    | (focus ((try lift_lets); intro x_; refine (fun (h_ : State.Tidy x_) => ?_) ?_; clear_value x_))
    | (subst x_)
    | with_reducible apply State.count_tidy
    | with_reducible apply State.floorMarker_tidy
    | with_reducible apply State.Tidy.ite
    | (with_reducible refine State.mk_tidy rfl ?_; first | with_reducible assumption)
    | split

theorem execMarkerToken_tidy (d : Fin 4) (s : State) (h_s : s.Tidy) : ∀ t_, execMarkerToken d s = .next t_ → t_.Tidy
    := by
  intro t_ h_
  unfold execMarkerToken at h_
  repeat' first
    | (injection h_ with h_; subst h_)
    | split at h_
    | cases h_
  all_goals
    repeat' first
      | with_reducible assumption
      | with_reducible apply State.markerToken_tidy

theorem State.ringCtl_tidy (s : State) (pg : Nat) (base : Fld) (off lo hi rec v : Nat) (h_s : s.Tidy) :
    (State.ringCtl s pg base off lo hi rec v).Tidy := by
  unfold State.ringCtl
  repeat' first
    | with_reducible assumption
    | (subst x_)
    | with_reducible apply State.setWord_tidy

theorem State.sampleCtl_tidy (s : State) (d v : Nat) (h_s : s.Tidy) : (State.sampleCtl s d v).Tidy := by
  unfold State.sampleCtl
  repeat' first
    | with_reducible assumption
    | (focus ((try lift_lets); intro x_; refine (fun (h_ : State.Tidy x_) => ?_) ?_; clear_value x_))
    | (subst x_)
    | with_reducible apply State.put_tidy
    | with_reducible apply State.setSampler_tidy
    | with_reducible apply State.Tidy.ite

end Sys2Proof.Machine
end

