-- ==== Sys2Proof/Laws/TidyHostRegs.lean ====
section
/-! SUPPORT. Every function of Machine/HostRegs.lean that answers a state keeps the canonical form (`State.Tidy`): one lemma
per function, named after it. -/

namespace Sys2Proof.Machine

theorem State.plain_tidy (s : State) (a v : Nat) (h_s : s.Tidy) : (State.plain s a v).Tidy := by
  unfold State.plain
  repeat' first
    | with_reducible assumption
    | (subst x_)
    | with_reducible apply State.setWord_tidy

theorem State.ranged_tidy (s : State) (pg : Nat) (f : Fld) (lo hi v : Nat) (h_s : s.Tidy) : (State.ranged s pg f lo
    hi v).Tidy := by
  unfold State.ranged
  repeat' first
    | with_reducible assumption
    | with_reducible apply State.put_tidy
    | with_reducible apply State.Tidy.ite

theorem State.intStsWrite_tidy (s : State) (pg v : Nat) (h_s : s.Tidy) : (State.intStsWrite s pg v).Tidy := by
  unfold State.intStsWrite
  repeat' first
    | with_reducible assumption
    | (with_reducible refine Keeps1.intro (fun s_ h_ => ?_))
    | with_reducible apply State.intChange_tidy
    | with_reducible apply State.put_tidy

theorem State.intEnable_tidy (s : State) (pg v : Nat) (h_s : s.Tidy) : (State.intEnable s pg v).Tidy := by
  unfold State.intEnable
  repeat' first
    | with_reducible assumption
    | (with_reducible refine Keeps1.intro (fun s_ h_ => ?_))
    | with_reducible apply State.intChange_tidy
    | with_reducible apply State.put_tidy

theorem State.fenceArray_tidy (s : State) (d : Nat) (fence : Bool) (h_s : s.Tidy) : (State.fenceArray s d fence).Tidy
    := by
  unfold State.fenceArray
  repeat' first
    | with_reducible assumption
    | (focus ((try lift_lets); intro x_; refine (fun (h_ : State.Tidy x_) => ?_) ?_; clear_value x_))
    | (subst x_)
    | with_reducible apply State.arrayUnusable_tidy
    | with_reducible apply State.capDie_tidy
    | with_reducible apply State.hitOperation_tidy
    | with_reducible apply State.intSet_tidy
    | with_reducible apply State.put_tidy
    | with_reducible apply State.refreshGrand_tidy
    | with_reducible apply State.report_tidy
    | with_reducible apply State.Tidy.ite

theorem State.fenceOptical_tidy (s : State) (n : Nat) (fence : Bool) (h_s : s.Tidy) : (State.fenceOptical s n
    fence).Tidy := by
  unfold State.fenceOptical
  repeat' first
    | with_reducible assumption
    | (focus ((try lift_lets); intro x_; refine (fun (h_ : State.Tidy x_) => ?_) ?_; clear_value x_))
    | (subst x_)
    | with_reducible apply State.capPort_tidy
    | with_reducible apply State.portDown_tidy
    | with_reducible apply State.put_tidy
    | with_reducible apply State.report_tidy
    | with_reducible apply State.Tidy.ite

theorem State.fenceReg_tidy (s : State) (die i v : Nat) (h_s : s.Tidy) : (State.fenceReg s die i v).Tidy := by
  unfold State.fenceReg
  repeat' first
    | with_reducible assumption
    | (subst x_)
    | with_reducible apply State.fenceArray_tidy
    | with_reducible apply State.fenceOptical_tidy
    | with_reducible apply State.fenceStack_tidy
    | with_reducible apply State.put_tidy
    | with_reducible apply State.Tidy.ite

theorem State.forgetHead_tidy (s : State) (d q : Nat) (h_s : s.Tidy) : (State.forgetHead s d q).Tidy := by
  unfold State.forgetHead
  repeat' first
    | with_reducible assumption
    | (focus ((try lift_lets); intro x_; refine (fun (h_ : State.Tidy x_) => ?_) ?_; clear_value x_))
    | (subst x_)
    | with_reducible apply State.setQueue_tidy
    | (with_reducible refine State.mk_tidy rfl ?_; first | with_reducible assumption)

theorem State.enable_tidy (s : State) (d q : Nat) (h_s : s.Tidy) : (State.enable s d q).Tidy := by
  unfold State.enable
  repeat' first
    | with_reducible assumption
    | (focus ((try lift_lets); intro x_; refine (fun (h_ : State.Tidy x_) => ?_) ?_; clear_value x_))
    | (subst x_)
    | with_reducible apply State.mapBracket_tidy
    | with_reducible apply State.qput_tidy
    | with_reducible apply State.setQueue_tidy

theorem State.disable_tidy (s : State) (d q : Nat) (h_s : s.Tidy) : (State.disable s d q).Tidy := by
  unfold State.disable
  repeat' first
    | with_reducible assumption
    | (focus ((try lift_lets); intro x_; refine (fun (h_ : State.Tidy x_) => ?_) ?_; clear_value x_))
    | (subst x_)
    | with_reducible apply State.choose_tidy
    | with_reducible apply State.forgetHead_tidy
    | with_reducible apply State.qput_tidy
    | with_reducible apply State.Tidy.ite

theorem State.queueCtl_tidy (s : State) (d q v : Nat) (h_s : s.Tidy) : (State.queueCtl s d q v).Tidy := by
  unfold State.queueCtl
  repeat' first
    | with_reducible assumption
    | (focus ((try lift_lets); intro x_; refine (fun (h_ : State.Tidy x_) => ?_) ?_; clear_value x_))
    | (subst x_)
    | (focus ((try lift_lets); intro x_; (fail_if_success (have q_ : x_ = fun a_ => x_ a_ := rfl)); clear_value x_))
    | ((try lift_lets); intro x_)
    | with_reducible apply State.disable_tidy
    | with_reducible apply State.enable_tidy
    | with_reducible apply State.forgetHead_tidy
    | with_reducible apply State.qput_tidy
    | with_reducible apply State.ranged_tidy
    | with_reducible apply State.Tidy.ite
    | split

theorem State.queueWrite_tidy (s : State) (d q w v : Nat) (h_s : s.Tidy) : (State.queueWrite s d q w v).Tidy := by
  unfold State.queueWrite
  repeat' first
    | with_reducible assumption
    | (subst x_)
    | with_reducible apply State.put_tidy
    | with_reducible apply State.queueCtl_tidy
    | with_reducible apply State.ranged_tidy
    | with_reducible apply State.Tidy.ite
    | (with_reducible refine State.mk_tidy rfl ?_; first | with_reducible assumption)
    | split

theorem State.resume_tidy (s : State) (d v : Nat) (h_s : s.Tidy) : (State.resume s d v).Tidy := by
  unfold State.resume
  repeat' first
    | with_reducible assumption
    | (subst x_)
    | with_reducible apply State.put_tidy
    | with_reducible apply State.resumeMaybe_tidy

theorem State.calWrite_tidy (s : State) (d off v : Nat) (h_s : s.Tidy) : (State.calWrite s d off v).Tidy := by
  unfold State.calWrite
  repeat' first
    | with_reducible assumption
    | with_reducible apply State.queueWrite_tidy
    | with_reducible apply State.ranged_tidy
    | with_reducible apply State.resume_tidy
    | with_reducible apply State.Tidy.ite

theorem State.synOp_tidy (s : State) (d p v : Nat) (h_s : s.Tidy) : (State.synOp s d p v).Tidy := by
  unfold State.synOp
  repeat' first
    | with_reducible assumption
    | (focus ((try lift_lets); intro x_; refine (fun (h_ : State.Tidy x_) => ?_) ?_; clear_value x_))
    | (subst x_)
    | with_reducible apply State.put_tidy
    | with_reducible apply State.signal_tidy
    | with_reducible apply State.Tidy.ite

theorem State.synWrite_tidy (s : State) (port d off v : Nat) (h_s : s.Tidy) : (State.synWrite s port d off v).Tidy := by
  unfold State.synWrite
  repeat' first
    | with_reducible assumption
    | (subst x_)
    | with_reducible apply State.plain_tidy
    | with_reducible apply State.synOp_tidy
    | with_reducible apply State.testWatches_tidy
    | with_reducible apply State.Tidy.ite

theorem State.partition_tidy (s : State) (d ctx n v : Nat) (h_s : s.Tidy) : (State.partition s d ctx n v).Tidy := by
  unfold State.partition
  repeat' first
    | with_reducible assumption
    | (focus ((try lift_lets); intro x_; refine (fun (h_ : State.Tidy x_) => ?_) ?_; clear_value x_))
    | (subst x_)
    | with_reducible apply State.intSet_tidy
    | with_reducible apply State.put_tidy
    | with_reducible apply State.Tidy.ite

theorem State.stepWrite_tidy (s : State) (d ctx v : Nat) (h_s : s.Tidy) : (State.stepWrite s d ctx v).Tidy := by
  unfold State.stepWrite
  repeat' first
    | with_reducible assumption
    | with_reducible apply State.put_tidy

theorem State.jcxWrite_tidy (s : State) (d off v : Nat) (h_s : s.Tidy) : (State.jcxWrite s d off v).Tidy := by
  unfold State.jcxWrite
  repeat' first
    | with_reducible assumption
    | (subst x_)
    | with_reducible apply State.partition_tidy
    | with_reducible apply State.plain_tidy
    | with_reducible apply State.setCause_tidy
    | with_reducible apply State.stepWrite_tidy
    | with_reducible apply State.Tidy.ite

theorem State.numWrite_tidy (s : State) (d off v : Nat) (h_s : s.Tidy) : (State.numWrite s d off v).Tidy := by
  unfold State.numWrite
  repeat' first
    | with_reducible assumption
    | (focus ((try lift_lets); intro x_; refine (fun (h_ : State.Tidy x_) => ?_) ?_; clear_value x_))
    | (subst x_)
    | with_reducible apply State.plain_tidy
    | with_reducible apply State.put_tidy
    | with_reducible apply State.ranged_tidy
    | with_reducible apply State.ringCtl_tidy
    | with_reducible apply State.Tidy.ite

theorem State.pmuWrite_tidy (s : State) (d off v : Nat) (h_s : s.Tidy) : (State.pmuWrite s d off v).Tidy := by
  unfold State.pmuWrite
  repeat' first
    | with_reducible assumption
    | (subst x_)
    | with_reducible apply State.plain_tidy
    | with_reducible apply State.ringCtl_tidy
    | with_reducible apply State.sampleCtl_tidy
    | with_reducible apply State.Tidy.ite

theorem State.retireWrite_tidy (s : State) (n v : Nat) (h_s : s.Tidy) : (State.retireWrite s n v).Tidy := by
  unfold State.retireWrite
  repeat' first
    | with_reducible assumption
    | (focus ((try lift_lets); intro x_; refine (fun (h_ : State.Tidy x_) => ?_) ?_; clear_value x_))
    | (subst x_)
    | (focus ((try lift_lets); intro x_; refine (fun (h_ : State.Tidy x_.2) => ?_) ?_; clear_value x_))
    | with_reducible apply State.openPch_tidy
    | with_reducible apply State.put_tidy
    | with_reducible apply State.retire_tidy
    | with_reducible apply State.Tidy.ite

theorem State.mctWrite_tidy (s : State) (n off v : Nat) (h_s : s.Tidy) : (State.mctWrite s n off v).Tidy := by
  unfold State.mctWrite
  repeat' first
    | with_reducible assumption
    | with_reducible apply State.plain_tidy
    | with_reducible apply State.retireWrite_tidy
    | with_reducible apply State.Tidy.ite

theorem State.portCtl_tidy (s : State) (n v : Nat) (h_s : s.Tidy) : (State.portCtl s n v).Tidy := by
  unfold State.portCtl
  repeat' first
    | with_reducible assumption
    | (with_reducible refine Keeps.intro (fun s_ y_ h_ => ?_))
    | (focus ((try lift_lets); intro x_; refine (fun (h_ : State.Tidy x_) => ?_) ?_; clear_value x_))
    | (subst x_)
    | with_reducible apply State.put_tidy
    | with_reducible apply State.subOff_tidy
    | with_reducible apply State.subOn_tidy
    | with_reducible apply State.Tidy.ite
    | with_reducible apply State.Tidy.each

theorem State.opxWrite_tidy (s : State) (n off v : Nat) (h_s : s.Tidy) : (State.opxWrite s n off v).Tidy := by
  unfold State.opxWrite
  repeat' first
    | with_reducible assumption
    | (focus ((try lift_lets); intro x_; refine (fun (h_ : State.Tidy x_) => ?_) ?_; clear_value x_))
    | (subst x_)
    | with_reducible apply State.otdrBegin_tidy
    | with_reducible apply State.plain_tidy
    | with_reducible apply State.portCtl_tidy
    | with_reducible apply State.Tidy.ite

theorem State.d2dWrite_tidy (s : State) (off v : Nat) (h_s : s.Tidy) : (State.d2dWrite s off v).Tidy := by
  unfold State.d2dWrite
  repeat' first
    | with_reducible assumption
    | with_reducible apply State.plain_tidy
    | with_reducible apply State.resetRequest_tidy
    | with_reducible apply State.Tidy.ite

theorem State.clearStats_tidy (s : State) (h_s : s.Tidy) : (State.clearStats s).Tidy := by
  unfold State.clearStats
  repeat' first
    | with_reducible assumption
    | with_reducible apply State.noiseTotal_tidy
    | with_reducible apply State.setWord_tidy
    | (with_reducible refine forUpto_tidy (fun i_ s_ h_ => ?_) _ ?_)

theorem State.clxWrite_tidy (s : State) (off v : Nat) (h_s : s.Tidy) : (State.clxWrite s off v).Tidy := by
  unfold State.clxWrite
  repeat' first
    | with_reducible assumption
    | (subst x_)
    | (focus ((try lift_lets); intro x_; (first | (have q_ : Clx := x_)); clear q_; subst x_))
    | with_reducible apply State.clearStats_tidy
    | with_reducible apply State.plain_tidy
    | with_reducible apply State.put_tidy
    | with_reducible apply State.Tidy.ite
    | (with_reducible refine State.mk_tidy rfl ?_; first | with_reducible assumption)

theorem State.figWrite_tidy (s : State) (off v : Nat) (h_s : s.Tidy) : (State.figWrite s off v).Tidy := by
  unfold State.figWrite
  repeat' first
    | with_reducible assumption
    | (focus ((try lift_lets); intro x_; refine (fun (h_ : State.Tidy x_) => ?_) ?_; clear_value x_))
    | (subst x_)
    | (focus ((try lift_lets); intro x_; (first | (have q_ : Clx := x_) | (have q_ : Fig := x_)); clear q_; subst x_))
    | with_reducible apply State.plain_tidy
    | with_reducible apply State.put_tidy
    | with_reducible apply State.Tidy.ite
    | (with_reducible refine State.mk_tidy rfl ?_; first | with_reducible assumption)

theorem State.refillWrite_tidy (s : State) (n v : Nat) (h_s : s.Tidy) : (State.refillWrite s n v).Tidy := by
  unfold State.refillWrite
  repeat' first
    | with_reducible assumption
    | (focus ((try lift_lets); intro x_; refine (fun (h_ : State.Tidy x_) => ?_) ?_; clear_value x_))
    | (subst x_)
    | with_reducible apply State.plain_tidy
    | with_reducible apply State.put_tidy
    | with_reducible apply State.refillAborts_tidy
    | with_reducible apply State.refillEnd_tidy
    | with_reducible apply State.Tidy.ite

theorem State.snpWrite_tidy (s : State) (off v : Nat) (h_s : s.Tidy) : (State.snpWrite s off v).Tidy := by
  unfold State.snpWrite
  repeat' first
    | with_reducible assumption
    | (focus ((try lift_lets); intro x_; refine (fun (h_ : State.Tidy x_) => ?_) ?_; clear_value x_))
    | (subst x_)
    | (focus ((try lift_lets); intro x_; (first | (have q_ : Clx := x_) | (have q_ : Snp := x_)); clear q_; subst x_))
    | with_reducible apply State.plain_tidy
    | with_reducible apply State.put_tidy
    | with_reducible apply State.refillWrite_tidy
    | with_reducible apply State.Tidy.ite
    | (with_reducible refine State.mk_tidy rfl ?_; first | with_reducible assumption)

theorem State.secWrite_tidy (s : State) (port off v : Nat) (h_s : s.Tidy) : (State.secWrite s port off v).Tidy := by
  unfold State.secWrite
  split
  · exact State.plain_tidy _ _ _ h_s
  split
  · rename_i ho
    have hp : (off - 0x120) / 8 < 2 := by omega
    simp only
    split
    · exact h_s
    · split
      · exact State.submit_tidy _ _ hp (State.put_tidy _ _ _ (State.put_tidy _ _ _ h_s))
      · exact State.put_tidy _ _ _ (State.put_tidy _ _ _ h_s)
  · split
    · split
      · exact State.setWord_tidy _ _ h_s
      · exact h_s
    · exact h_s

theorem State.hifWrite_tidy (s : State) (hp off v : Nat) (h_s : s.Tidy) : (State.hifWrite s hp off v).Tidy := by
  unfold State.hifWrite
  repeat' first
    | with_reducible assumption
    | (focus ((try lift_lets); intro x_; refine (fun (h_ : State.Tidy x_) => ?_) ?_; clear_value x_))
    | (subst x_)
    | with_reducible apply State.drainAbort_tidy
    | with_reducible apply State.drainGo_tidy
    | with_reducible apply State.plain_tidy
    | with_reducible apply State.put_tidy
    | with_reducible apply State.Tidy.ite

theorem State.blockWrite_tidy (s : State) (port die i off v : Nat) (h_s : s.Tidy) : (State.blockWrite s port die i
    off v).Tidy := by
  unfold State.blockWrite
  repeat' first
    | with_reducible assumption
    | (subst x_)
    | (focus ((try lift_lets); intro x_; (first | (have q_ : Clx := x_) | (have q_ : Fig := x_) | (have q_ : Snp := x_)); clear q_; subst x_))
    | with_reducible apply State.calWrite_tidy
    | with_reducible apply State.clxWrite_tidy
    | with_reducible apply State.d2dWrite_tidy
    | with_reducible apply State.errTail_tidy
    | with_reducible apply State.figWrite_tidy
    | with_reducible apply State.hifWrite_tidy
    | with_reducible apply State.jcxWrite_tidy
    | with_reducible apply State.lwWrite_tidy
    | with_reducible apply State.mctWrite_tidy
    | with_reducible apply State.numWrite_tidy
    | with_reducible apply State.opxWrite_tidy
    | with_reducible apply State.plain_tidy
    | with_reducible apply State.pmuWrite_tidy
    | with_reducible apply State.ranged_tidy
    | with_reducible apply State.refreshGrand_tidy
    | with_reducible apply State.secWrite_tidy
    | with_reducible apply State.snpWrite_tidy
    | with_reducible apply State.synWrite_tidy
    | with_reducible apply State.Tidy.ite
    | (with_reducible refine State.mk_tidy rfl ?_; first | with_reducible assumption)
    | split

theorem State.counterSet_tidy (s : State) (a v : Nat) (h_s : s.Tidy) : (State.counterSet s a v).Tidy := by
  unfold State.counterSet
  repeat' first
    | with_reducible assumption
    | with_reducible apply State.rebase_tidy
    | with_reducible apply State.setWord_tidy
    | with_reducible apply State.Tidy.ite

theorem State.writeReg_tidy (s : State) (port a v : Nat) (h_s : s.Tidy) : (State.writeReg s port a v).Tidy := by
  unfold State.writeReg
  repeat' first
    | with_reducible assumption
    | (subst x_)
    | with_reducible apply State.blockWrite_tidy
    | with_reducible apply State.counterSet_tidy
    | with_reducible apply State.fenceReg_tidy
    | with_reducible apply State.intEnable_tidy
    | with_reducible apply State.intStsWrite_tidy
    | with_reducible apply State.plain_tidy
    | with_reducible apply State.Tidy.ite

end Sys2Proof.Machine
end

