-- ==== Sys2Proof/Laws/TidyAccess.lean ====
section
/-! SUPPORT. Every function of Machine/Access.lean that answers a state keeps the canonical form (`State.Tidy`): one lemma
per function, named after it. -/

namespace Sys2Proof.Machine

theorem State.admitted_tidy (s : State) (x : Access) (n : Nat) (h_s : s.Tidy) : (State.admitted s x n).2.Tidy := by
  unfold State.admitted
  repeat' first
    | with_reducible assumption
    | (focus ((try lift_lets); intro x_; refine (fun (h_ : State.Tidy x_) => ?_) ?_; clear_value x_))
    | (subst x_)
    | with_reducible apply State.count_tidy
    | with_reducible apply State.tell_tidy
    | with_reducible apply State.Tidy.ite
    | split

theorem State.hostWrite_tidy (s : State) (x : Access) (off v : Nat) (h_s : s.Tidy) :
    ∀ t_, State.hostWrite s x off v = .next t_ → t_.Tidy := by
  intro t_ h
  have hr := State.admitted_tidy s x x.size h_s
  unfold State.hostWrite at h
  simp only at h
  split at h
  · cases h; exact hr
  split at h
  · cases h; exact State.tell_tidy _ hr
  split at h
  · cases h
  · cases h; exact State.writeReg_tidy _ _ _ _ hr

theorem State.hostRead_tidy (s : State) (x : Access) (bar4 : Bool) (off : Nat) (h_s : s.Tidy) : (State.hostRead s x
    bar4 off).Tidy := by
  unfold State.hostRead
  repeat' first
    | with_reducible assumption
    | (subst x_)
    | (focus ((try lift_lets); intro x_; refine (fun (h_ : State.Tidy x_.2) => ?_) ?_; clear_value x_))
    | with_reducible apply State.admitted_tidy
    | with_reducible apply State.count_tidy
    | with_reducible apply State.tell_tidy
    | with_reducible apply State.Tidy.ite

theorem execRegisterWrite_tidy (x : Access) (offset : Nat) (value : Word) (s : State) (h_s : s.Tidy) : ∀ t_,
    execRegisterWrite x offset value s = .next t_ → t_.Tidy := by
  intro t_ h_
  unfold execRegisterWrite at h_
  repeat' first
    | (injection h_ with h_; subst h_)
    | split at h_
    | cases h_
  all_goals
    repeat' first
      | with_reducible assumption
      | with_reducible apply State.hostWrite_tidy

theorem execFenceWrite_tidy (x : Access) (pageNo : Nat) (value : Word) (s : State) (h_s : s.Tidy) : ∀ t_,
    execFenceWrite x pageNo value s = .next t_ → t_.Tidy := by
  intro t_ h_
  unfold execFenceWrite at h_
  repeat' first
    | (injection h_ with h_; subst h_)
    | split at h_
    | cases h_
  all_goals
    repeat' first
      | with_reducible assumption
      | with_reducible apply State.hostWrite_tidy

theorem execIntEnWrite_tidy (x : Access) (pageNo : Nat) (value : Word) (s : State) (h_s : s.Tidy) : ∀ t_,
    execIntEnWrite x pageNo value s = .next t_ → t_.Tidy := by
  intro t_ h_
  unfold execIntEnWrite at h_
  repeat' first
    | (injection h_ with h_; subst h_)
    | split at h_
    | cases h_
  all_goals
    repeat' first
      | with_reducible assumption
      | with_reducible apply State.hostWrite_tidy

theorem State.ring_tidy (s : State) (port d q tail : Nat) (h_s : s.Tidy) : (State.ring s port d q tail).Tidy := by
  unfold State.ring
  repeat' first
    | with_reducible assumption
    | (subst x_)
    | with_reducible apply State.count_tidy
    | with_reducible apply State.intSet_tidy
    | with_reducible apply State.qput_tidy
    | with_reducible apply State.Tidy.ite

theorem State.doorbell_tidy (s : State) (x : Access) (wide : Bool) (d q tail : Nat) (h_s : s.Tidy) : (State.doorbell
    s x wide d q tail).Tidy := by
  unfold State.doorbell
  repeat' first
    | with_reducible assumption
    | (focus ((try lift_lets); intro x_; refine (fun (h_ : State.Tidy x_) => ?_) ?_; clear_value x_))
    | (subst x_)
    | (focus ((try lift_lets); intro x_; refine (fun (h_ : State.Tidy x_.2) => ?_) ?_; clear_value x_))
    | with_reducible apply State.admitted_tidy
    | with_reducible apply State.count_tidy
    | with_reducible apply State.ring_tidy
    | with_reducible apply State.Tidy.ite

theorem execDoorbell_tidy (x : Access) (wide : Bool) (d : Fin 4) (q : Fin 64) (tail : BitVec 32) (s : State) (h_s :
    s.Tidy) : ∀ t_, execDoorbell x wide d q tail s = .next t_ → t_.Tidy := by
  intro t_ h_
  unfold execDoorbell at h_
  repeat' first
    | (injection h_ with h_; subst h_)
    | split at h_
    | cases h_
  all_goals
    repeat' first
      | with_reducible assumption
      | with_reducible apply State.doorbell_tidy

theorem execQueueEnable_tidy (x : Access) (d : Fin 4) (q : Fin 64) (value : Word) (s : State) (h_s : s.Tidy) : ∀ t_,
    execQueueEnable x d q value s = .next t_ → t_.Tidy := by
  intro t_ h_
  unfold execQueueEnable at h_
  repeat' first
    | (injection h_ with h_; subst h_)
    | split at h_
    | cases h_
  all_goals
    repeat' first
      | with_reducible assumption
      | with_reducible apply State.hostWrite_tidy

theorem execQueueDisable_tidy (x : Access) (d : Fin 4) (q : Fin 64) (value : Word) (s : State) (h_s : s.Tidy) : ∀ t_,
    execQueueDisable x d q value s = .next t_ → t_.Tidy := by
  intro t_ h_
  unfold execQueueDisable at h_
  repeat' first
    | (injection h_ with h_; subst h_)
    | split at h_
    | cases h_
  all_goals
    repeat' first
      | with_reducible assumption
      | with_reducible apply State.hostWrite_tidy

theorem execProgramRun_tidy (x : Access) (d : Fin 4) (q : Fin 64) (value : Word) (s : State) (h_s : s.Tidy) : ∀ t_,
    execProgramRun x d q value s = .next t_ → t_.Tidy := by
  intro t_ h_
  unfold execProgramRun at h_
  repeat' first
    | (injection h_ with h_; subst h_)
    | split at h_
    | cases h_
  all_goals
    repeat' first
      | with_reducible assumption
      | with_reducible apply State.hostWrite_tidy

theorem execResume_tidy (x : Access) (d : Fin 4) (value : Word) (s : State) (h_s : s.Tidy) : ∀ t_, execResume x d
    value s = .next t_ → t_.Tidy := by
  intro t_ h_
  unfold execResume at h_
  repeat' first
    | (injection h_ with h_; subst h_)
    | split at h_
    | cases h_
  all_goals
    repeat' first
      | with_reducible assumption
      | with_reducible apply State.hostWrite_tidy

theorem State.takeover_tidy (s : State) (c : Cmd) (h_s : s.Tidy) : (State.takeover s c).Tidy := by
  unfold State.takeover
  repeat' first
    | with_reducible assumption
    | (with_reducible refine Keeps.intro (fun s_ y_ h_ => ?_))
    | (focus ((try lift_lets); intro x_; refine (fun (h_ : State.Tidy x_) => ?_) ?_; clear_value x_))
    | (subst x_)
    | with_reducible apply State.count_tidy
    | with_reducible apply State.done_tidy
    | with_reducible apply State.put_tidy
    | with_reducible apply State.qput_tidy
    | with_reducible apply State.Tidy.ite
    | with_reducible apply State.Tidy.each

theorem execTakeover_tidy (d : Fin 4) (q : Fin 64) (ext : HostSlot) (s : State) (h_s : s.Tidy) : ∀ t_, execTakeover d
    q ext s = .next t_ → t_.Tidy := by
  intro t_ h_
  unfold execTakeover at h_
  repeat' first
    | (injection h_ with h_; subst h_)
    | split at h_
    | cases h_
  all_goals
    repeat' first
      | with_reducible assumption
      | (with_reducible refine Keeps.intro (fun s_ y_ h_ => ?_))
      | with_reducible apply State.takeover_tidy
      | with_reducible apply State.v2_tidy

theorem State.synAccess_tidy (s : State) (x : Access) (d op : Nat) (index : Fin 16384) (v : Nat) (h_s : s.Tidy) : ∀
    t_, State.synAccess s x d op index v = .next t_ → t_.Tidy := by
  intro t_ h_
  unfold State.synAccess at h_
  repeat' first
    | (injection h_ with h_; subst h_)
    | split at h_
    | cases h_
  all_goals
    repeat' first
      | with_reducible assumption
      | with_reducible apply State.hostWrite_tidy

theorem execSynOpRead_tidy (x : Access) (d : Fin 4) (index : Fin 16384) (s : State) (h_s : s.Tidy) : ∀ t_,
    execSynOpRead x d index s = .next t_ → t_.Tidy := by
  intro t_ h_
  unfold execSynOpRead at h_
  repeat' first
    | (injection h_ with h_; subst h_)
    | split at h_
    | cases h_
  all_goals
    repeat' first
      | with_reducible assumption
      | with_reducible apply State.synAccess_tidy

theorem execSynOpSet_tidy (x : Access) (d : Fin 4) (index : Fin 16384) (value : BitVec 32) (s : State) (h_s : s.Tidy)
    : ∀ t_, execSynOpSet x d index value s = .next t_ → t_.Tidy := by
  intro t_ h_
  unfold execSynOpSet at h_
  repeat' first
    | (injection h_ with h_; subst h_)
    | split at h_
    | cases h_
  all_goals
    repeat' first
      | with_reducible assumption
      | with_reducible apply State.synAccess_tidy

theorem execSynOpAdd_tidy (x : Access) (d : Fin 4) (index : Fin 16384) (value : BitVec 32) (s : State) (h_s : s.Tidy)
    : ∀ t_, execSynOpAdd x d index value s = .next t_ → t_.Tidy := by
  intro t_ h_
  unfold execSynOpAdd at h_
  repeat' first
    | (injection h_ with h_; subst h_)
    | split at h_
    | cases h_
  all_goals
    repeat' first
      | with_reducible assumption
      | with_reducible apply State.synAccess_tidy

theorem execSyncUpdate_tidy (d : Fin 4) (index : Fin 16384) (set : Bool) (value : BitVec 32) (src : Origin) (s :
    State) (h_s : s.Tidy) : ∀ t_, execSyncUpdate d index set value src s = .next t_ → t_.Tidy := by
  intro t_ h_
  unfold execSyncUpdate at h_
  repeat' first
    | (injection h_ with h_; subst h_)
    | split at h_
    | cases h_
  all_goals
    repeat' first
      | with_reducible assumption
      | with_reducible apply State.signalLive_tidy
      | with_reducible apply State.Tidy.ite

theorem State.promoteCmd_tidy (s : State) (d : Nat) (l : List Cmd) (h_s : s.Tidy) : (State.promoteCmd s d l).Tidy := by
  unfold State.promoteCmd
  repeat' first
    | with_reducible assumption
    | (subst x_)
    | with_reducible apply State.count_tidy
    | with_reducible apply State.mapCmd_tidy
    | (with_reducible refine State.mk_tidy rfl ?_; first | with_reducible assumption)
    | split

theorem State.promoteFloor_tidy (s : State) (waited : Nat) (h_s : s.Tidy) : (State.promoteFloor s waited).Tidy := by
  unfold State.promoteFloor
  repeat' first
    | with_reducible assumption
    | with_reducible apply State.count_tidy
    | with_reducible apply State.Tidy.ite

theorem State.promoteMove_tidy (s : State) (q waited : Nat) (h_s : s.Tidy) : (State.promoteMove s q waited).Tidy := by
  unfold State.promoteMove
  repeat' first
    | with_reducible assumption
    | (subst x_)
    | with_reducible apply State.count_tidy
    | with_reducible apply State.mapCmd_tidy
    | with_reducible apply State.Tidy.ite
    | (with_reducible refine State.mk_tidy rfl ?_; first | with_reducible assumption)
    | split

theorem State.promoteFrame_tidy (s : State) (n : Nat) (h_s : s.Tidy) : (State.promoteFrame s n).Tidy := by
  unfold State.promoteFrame
  dsimp only
  split
  · exact State.count_tidy _ _ _ _ (State.setLink_tidy _ _ h_s)
  · exact h_s

theorem State.promote_tidy (s : State) (y_ : Arbiter) (h_s : s.Tidy) : (State.promote s y_).Tidy := by
  unfold State.promote
  repeat' first
    | with_reducible assumption
    | (subst x_)
    | ((try lift_lets); intro x_)
    | with_reducible apply State.count_tidy
    | with_reducible apply State.promoteCmd_tidy
    | with_reducible apply State.promoteFloor_tidy
    | with_reducible apply State.promoteFrame_tidy
    | with_reducible apply State.promoteMove_tidy
    | with_reducible apply State.setQueue_tidy
    | (with_reducible refine State.mk_tidy rfl ?_; first | with_reducible assumption)
    | split

theorem execLowPromotion_tidy (a : Arbiter) (s : State) (h_s : s.Tidy) : ∀ t_, execLowPromotion a s = .next t_ →
    t_.Tidy := by
  intro t_ h_
  unfold execLowPromotion at h_
  repeat' first
    | (injection h_ with h_; subst h_)
    | split at h_
    | cases h_
  all_goals
    repeat' first
      | with_reducible assumption
      | with_reducible apply State.promote_tidy

theorem execPartitionWrite_tidy (x : Access) (d : Fin 4) (c : Ctx) (n : Fin 16) (value : Word) (s : State) (h_s :
    s.Tidy) : ∀ t_, execPartitionWrite x d c n value s = .next t_ → t_.Tidy := by
  intro t_ h_
  unfold execPartitionWrite at h_
  repeat' first
    | (injection h_ with h_; subst h_)
    | split at h_
    | cases h_
  all_goals
    repeat' first
      | with_reducible assumption
      | with_reducible apply State.hostWrite_tidy

theorem execForceShut_tidy (x : Access) (d : Fin 4) (c : Ctx) (s : State) (h_s : s.Tidy) : ∀ t_, execForceShut x d c
    s = .next t_ → t_.Tidy := by
  intro t_ h_
  unfold execForceShut at h_
  repeat' first
    | (injection h_ with h_; subst h_)
    | split at h_
    | cases h_
  all_goals
    repeat' first
      | with_reducible assumption
      | with_reducible apply State.hostWrite_tidy

theorem execJcxStepWrite_tidy (x : Access) (d : Fin 4) (c : Ctx) (value : Word) (s : State) (h_s : s.Tidy) : ∀ t_,
    execJcxStepWrite x d c value s = .next t_ → t_.Tidy := by
  intro t_ h_
  unfold execJcxStepWrite at h_
  repeat' first
    | (injection h_ with h_; subst h_)
    | split at h_
    | cases h_
  all_goals
    repeat' first
      | with_reducible assumption
      | with_reducible apply State.hostWrite_tidy

theorem execNumEvtEnable_tidy (x : Access) (d : Fin 4) (value : Word) (s : State) (h_s : s.Tidy) : ∀ t_,
    execNumEvtEnable x d value s = .next t_ → t_.Tidy := by
  intro t_ h_
  unfold execNumEvtEnable at h_
  repeat' first
    | (injection h_ with h_; subst h_)
    | split at h_
    | cases h_
  all_goals
    repeat' first
      | with_reducible assumption
      | with_reducible apply State.hostWrite_tidy

theorem execRetireRequest_tidy (x : Access) (n : Fin 1024) (value : Word) (s : State) (h_s : s.Tidy) : ∀ t_,
    execRetireRequest x n value s = .next t_ → t_.Tidy := by
  intro t_ h_
  unfold execRetireRequest at h_
  repeat' first
    | (injection h_ with h_; subst h_)
    | split at h_
    | cases h_
  all_goals
    repeat' first
      | with_reducible assumption
      | with_reducible apply State.hostWrite_tidy

theorem State.preserved_tidy (s : State) (p : Nat) (h_s : s.Tidy) : (State.preserved s p).Tidy := by
  unfold State.preserved
  repeat' first
    | with_reducible assumption
    | (focus ((try lift_lets); intro x_; refine (fun (h_ : State.Tidy x_) => ?_) ?_; clear_value x_))
    | (subst x_)
    | (focus ((try lift_lets); intro x_; (first | (have q_ : Clx := x_) | (have q_ : Snp := x_)); clear q_; subst x_))
    | (focus ((try lift_lets); intro x_; (fail_if_success (have q_ : x_ = fun a_ => x_ a_ := rfl)); clear_value x_))
    | ((try lift_lets); intro x_)
    | with_reducible apply State.clxLanded_tidy
    | with_reducible apply State.copyPage_tidy
    | with_reducible apply State.drainHeld_tidy
    | with_reducible apply State.setPageSt_tidy
    | with_reducible apply State.snpLanded_tidy
    | with_reducible apply State.Tidy.ite
    | (with_reducible refine State.mk_tidy rfl ?_; first | with_reducible assumption)
    | split

theorem execPreserveCopyDone_tidy (page : Fin 786432) (s : State) (h_s : s.Tidy) : ∀ t_, execPreserveCopyDone page s
    = .next t_ → t_.Tidy := by
  intro t_ h_
  unfold execPreserveCopyDone at h_
  repeat' first
    | (injection h_ with h_; subst h_)
    | split at h_
    | cases h_
  all_goals
    repeat' first
      | with_reducible assumption
      | with_reducible apply State.preserved_tidy

theorem State.apertureRefuse_tidy (s : State) (p : Nat) (h_s : s.Tidy) : (State.apertureRefuse s p).Tidy := by
  unfold State.apertureRefuse
  repeat' first
    | with_reducible assumption
    | with_reducible apply State.count_tidy
    | with_reducible apply State.tell_tidy

theorem State.bar2Read_tidy (s : State) (x : Access) (off len : Nat) (h_s : s.Tidy) : (State.bar2Read s x off
    len).Tidy := by
  unfold State.bar2Read
  repeat' first
    | with_reducible assumption
    | (focus ((try lift_lets); intro x_; refine (fun (h_ : State.Tidy x_) => ?_) ?_; clear_value x_))
    | (subst x_)
    | (focus ((try lift_lets); intro x_; refine (fun (h_ : State.Tidy x_.2) => ?_) ?_; clear_value x_))
    | with_reducible apply State.admitted_tidy
    | with_reducible apply State.apertureRefuse_tidy
    | with_reducible apply State.countRead_tidy
    | with_reducible apply State.count_tidy
    | with_reducible apply State.tell_tidy
    | with_reducible apply State.Tidy.ite

theorem execBar2Read_tidy (x : Access) (offset len : Nat) (s : State) (h_s : s.Tidy) : ∀ t_, execBar2Read x offset
    len s = .next t_ → t_.Tidy := by
  intro t_ h_
  unfold execBar2Read at h_
  repeat' first
    | (injection h_ with h_; subst h_)
    | split at h_
    | cases h_
  all_goals
    repeat' first
      | with_reducible assumption
      | with_reducible apply State.bar2Read_tidy

theorem State.bar2Write_tidy (s : State) (x : Access) (off : Nat) (data : List Byte) (h_s : s.Tidy) :
    (State.bar2Write s x off data).Tidy := by
  unfold State.bar2Write
  repeat' first
    | with_reducible assumption
    | (subst x_)
    | (focus ((try lift_lets); intro x_; refine (fun (h_ : State.Tidy x_.2) => ?_) ?_; clear_value x_))
    | with_reducible apply State.admitted_tidy
    | with_reducible apply State.apertureRefuse_tidy
    | with_reducible apply State.useId_tidy
    | with_reducible apply State.write_tidy
    | with_reducible apply State.Tidy.ite

theorem execBar2Write_tidy (x : Access) (offset : Nat) (data : List Byte) (s : State) (h_s : s.Tidy) : ∀ t_,
    execBar2Write x offset data s = .next t_ → t_.Tidy := by
  intro t_ h_
  unfold execBar2Write at h_
  repeat' first
    | (injection h_ with h_; subst h_)
    | split at h_
    | cases h_
  all_goals
    repeat' first
      | with_reducible assumption
      | with_reducible apply State.bar2Write_tidy

theorem execDieResetRequest_tidy (x : Access) (d : Fin 4) (s : State) (h_s : s.Tidy) : ∀ t_, execDieResetRequest x d
    s = .next t_ → t_.Tidy := by
  intro t_ h_
  unfold execDieResetRequest at h_
  repeat' first
    | (injection h_ with h_; subst h_)
    | split at h_
    | cases h_
  all_goals
    repeat' first
      | with_reducible assumption
      | with_reducible apply State.hostWrite_tidy

theorem State.sublinkWrite_tidy (s : State) (x : Access) (e : Nat) (v : Nat) (h_s : s.Tidy) : ∀ t_,
    State.sublinkWrite s x e v = .next t_ → t_.Tidy := by
  intro t_ h_
  unfold State.sublinkWrite at h_
  repeat' first
    | (injection h_ with h_; subst h_)
    | split at h_
    | cases h_
  all_goals
    repeat' first
      | with_reducible assumption
      | (subst x_)
      | with_reducible apply State.hostWrite_tidy

theorem execSublinkEnable_tidy (x : Access) (e : Fin 32) (s : State) (h_s : s.Tidy) : ∀ t_, execSublinkEnable x e s =
    .next t_ → t_.Tidy := by
  intro t_ h_
  unfold execSublinkEnable at h_
  repeat' first
    | (injection h_ with h_; subst h_)
    | split at h_
    | cases h_
  all_goals
    repeat' first
      | with_reducible assumption
      | with_reducible apply State.sublinkWrite_tidy

theorem execSublinkDisable_tidy (x : Access) (e : Fin 32) (s : State) (h_s : s.Tidy) : ∀ t_, execSublinkDisable x e s
    = .next t_ → t_.Tidy := by
  intro t_ h_
  unfold execSublinkDisable at h_
  repeat' first
    | (injection h_ with h_; subst h_)
    | split at h_
    | cases h_
  all_goals
    repeat' first
      | with_reducible assumption
      | with_reducible apply State.sublinkWrite_tidy

theorem execOtdrStart_tidy (x : Access) (n : Fin 16) (value : Word) (s : State) (h_s : s.Tidy) : ∀ t_, execOtdrStart
    x n value s = .next t_ → t_.Tidy := by
  intro t_ h_
  unfold execOtdrStart at h_
  repeat' first
    | (injection h_ with h_; subst h_)
    | split at h_
    | cases h_
  all_goals
    repeat' first
      | with_reducible assumption
      | with_reducible apply State.hostWrite_tidy

theorem execLayoutWrite_tidy (x : Access) (pos : Bool) (value : Word) (s : State) (h_s : s.Tidy) : ∀ t_,
    execLayoutWrite x pos value s = .next t_ → t_.Tidy := by
  intro t_ h_
  unfold execLayoutWrite at h_
  repeat' first
    | split at h_
    | cases h_
  all_goals
    repeat' first
      | with_reducible assumption
      | with_reducible apply State.hostWrite_tidy

theorem execPeerTableWrite_tidy (x : Access) (partner : Bool) (e : Fin 32) (value : Word) (s : State) (h_s : s.Tidy)
    : ∀ t_, execPeerTableWrite x partner e value s = .next t_ → t_.Tidy := by
  intro t_ h_
  unfold execPeerTableWrite at h_
  repeat' first
    | split at h_
    | cases h_
  all_goals
    repeat' first
      | with_reducible assumption
      | with_reducible apply State.hostWrite_tidy

theorem execShardValidSet_tidy (x : Access) (n : Fin 1024) (value : Word) (s : State) (h_s : s.Tidy) : ∀ t_,
    execShardValidSet x n value s = .next t_ → t_.Tidy := by
  intro t_ h_
  unfold execShardValidSet at h_
  repeat' first
    | (injection h_ with h_; subst h_)
    | split at h_
    | cases h_
  all_goals
    repeat' first
      | with_reducible assumption
      | with_reducible apply State.hostWrite_tidy

theorem execStatsClear_tidy (x : Access) (value : Word) (s : State) (h_s : s.Tidy) : ∀ t_, execStatsClear x value s =
    .next t_ → t_.Tidy := by
  intro t_ h_
  unfold execStatsClear at h_
  repeat' first
    | (injection h_ with h_; subst h_)
    | split at h_
    | cases h_
  all_goals
    repeat' first
      | with_reducible assumption
      | with_reducible apply State.hostWrite_tidy

theorem execRefillQueue_tidy (x : Access) (n : Fin 8) (value : Word) (s : State) (h_s : s.Tidy) : ∀ t_,
    execRefillQueue x n value s = .next t_ → t_.Tidy := by
  intro t_ h_
  unfold execRefillQueue at h_
  repeat' first
    | (injection h_ with h_; subst h_)
    | split at h_
    | cases h_
  all_goals
    repeat' first
      | with_reducible assumption
      | with_reducible apply State.hostWrite_tidy

theorem execRefillAbort_tidy (x : Access) (n : Fin 8) (s : State) (h_s : s.Tidy) : ∀ t_, execRefillAbort x n s =
    .next t_ → t_.Tidy := by
  intro t_ h_
  unfold execRefillAbort at h_
  repeat' first
    | (injection h_ with h_; subst h_)
    | split at h_
    | cases h_
  all_goals
    repeat' first
      | with_reducible assumption
      | with_reducible apply State.hostWrite_tidy

theorem execDrainRequest_tidy (x : Access) (s : State) (h_s : s.Tidy) : ∀ t_, execDrainRequest x s = .next t_ →
    t_.Tidy := by
  intro t_ h_
  unfold execDrainRequest at h_
  repeat' first
    | (injection h_ with h_; subst h_)
    | split at h_
    | cases h_
  all_goals
    repeat' first
      | with_reducible assumption
      | with_reducible apply State.hostWrite_tidy

theorem execErrTailWrite_tidy (x : Access) (d : Fin 5) (value : Word) (s : State) (h_s : s.Tidy) : ∀ t_,
    execErrTailWrite x d value s = .next t_ → t_.Tidy := by
  intro t_ h_
  unfold execErrTailWrite at h_
  repeat' first
    | (injection h_ with h_; subst h_)
    | split at h_
    | cases h_
  all_goals
    repeat' first
      | with_reducible assumption
      | with_reducible apply State.hostWrite_tidy

theorem execLwStart_tidy (x : Access) (value : Word) (s : State) (h_s : s.Tidy) : ∀ t_, execLwStart x value s = .next
    t_ → t_.Tidy := by
  intro t_ h_
  unfold execLwStart at h_
  repeat' first
    | (injection h_ with h_; subst h_)
    | split at h_
    | cases h_
  all_goals
    repeat' first
      | with_reducible assumption
      | with_reducible apply State.hostWrite_tidy

theorem execLwInvalidate_tidy (x : Access) (value : Word) (s : State) (h_s : s.Tidy) : ∀ t_, execLwInvalidate x value
    s = .next t_ → t_.Tidy := by
  intro t_ h_
  unfold execLwInvalidate at h_
  repeat' first
    | (injection h_ with h_; subst h_)
    | split at h_
    | cases h_
  all_goals
    repeat' first
      | with_reducible assumption
      | with_reducible apply State.hostWrite_tidy

theorem execDrainGo_tidy (x : Access) (hp : Fin 2) (value : Word) (s : State) (h_s : s.Tidy) : ∀ t_, execDrainGo x hp
    value s = .next t_ → t_.Tidy := by
  intro t_ h_
  unfold execDrainGo at h_
  repeat' first
    | (injection h_ with h_; subst h_)
    | split at h_
    | cases h_
  all_goals
    repeat' first
      | with_reducible assumption
      | with_reducible apply State.hostWrite_tidy

theorem execDrainAbort_tidy (x : Access) (hp : Fin 2) (s : State) (h_s : s.Tidy) : ∀ t_, execDrainAbort x hp s =
    .next t_ → t_.Tidy := by
  intro t_ h_
  unfold execDrainAbort at h_
  repeat' first
    | (injection h_ with h_; subst h_)
    | split at h_
    | cases h_
  all_goals
    repeat' first
      | with_reducible assumption
      | with_reducible apply State.hostWrite_tidy

theorem execCounterWrite_tidy (x : Access) (offset : Nat) (value : Word) (s : State) (h_s : s.Tidy) : ∀ t_,
    execCounterWrite x offset value s = .next t_ → t_.Tidy := by
  intro t_ h_
  unfold execCounterWrite at h_
  repeat' first
    | (injection h_ with h_; subst h_)
    | split at h_
    | cases h_
  all_goals
    repeat' first
      | with_reducible assumption
      | with_reducible apply State.hostWrite_tidy

theorem execSamplerEnable_tidy (x : Access) (d : Fin 4) (value : Word) (s : State) (h_s : s.Tidy) : ∀ t_,
    execSamplerEnable x d value s = .next t_ → t_.Tidy := by
  intro t_ h_
  unfold execSamplerEnable at h_
  repeat' first
    | (injection h_ with h_; subst h_)
    | split at h_
    | cases h_
  all_goals
    repeat' first
      | with_reducible assumption
      | with_reducible apply State.hostWrite_tidy

theorem execPmuBufEnable_tidy (x : Access) (d : Fin 5) (value : Word) (s : State) (h_s : s.Tidy) : ∀ t_,
    execPmuBufEnable x d value s = .next t_ → t_.Tidy := by
  intro t_ h_
  unfold execPmuBufEnable at h_
  repeat' first
    | (injection h_ with h_; subst h_)
    | split at h_
    | cases h_
  all_goals
    repeat' first
      | with_reducible assumption
      | with_reducible apply State.hostWrite_tidy

theorem State.vectorWrite_tidy (s : State) (x : Access) (e : VectorWrite) (h_s : s.Tidy) : (State.vectorWrite s x
    e).Tidy := by
  unfold State.vectorWrite
  repeat' first
    | with_reducible assumption
    | (focus ((try lift_lets); intro x_; refine (fun (h_ : State.Tidy x_) => ?_) ?_; clear_value x_))
    | (subst x_)
    | (focus ((try lift_lets); intro x_; refine (fun (h_ : State.Tidy x_.2) => ?_) ?_; clear_value x_))
    | with_reducible apply State.admitted_tidy
    | with_reducible apply State.msix_tidy
    | with_reducible apply State.setPort_tidy
    | with_reducible apply State.Tidy.ite

theorem execMsixVectorUnmask_tidy (x : Access) (e : VectorWrite) (s : State) (h_s : s.Tidy) : ∀ t_,
    execMsixVectorUnmask x e s = .next t_ → t_.Tidy := by
  intro t_ h_
  unfold execMsixVectorUnmask at h_
  repeat' first
    | (injection h_ with h_; subst h_)
    | split at h_
    | cases h_
  all_goals
    repeat' first
      | with_reducible assumption
      | with_reducible apply State.vectorWrite_tidy

theorem State.i3cRead_tidy (s : State) (off : Nat) (h_s : s.Tidy) : (State.i3cRead s off).Tidy := by
  unfold State.i3cRead
  repeat' first
    | with_reducible assumption
    | (subst x_)
    | with_reducible apply State.i3cAnswer_tidy
    | with_reducible apply State.Tidy.ite

theorem execRegRead_tidy (offset : Nat) (s : State) (h_s : s.Tidy) : ∀ t_, execRegRead offset s = .next t_ → t_.Tidy
    := by
  intro t_ h_
  unfold execRegRead at h_
  repeat' first
    | (injection h_ with h_; subst h_)
    | split at h_
    | cases h_
  all_goals
    repeat' first
      | with_reducible assumption
      | with_reducible apply State.i3cRead_tidy

theorem State.i3cWrite_tidy (s : State) (off v : Nat) (h_s : s.Tidy) : (State.i3cWrite s off v).Tidy := by
  unfold State.i3cWrite
  repeat' first
    | with_reducible assumption
    | with_reducible apply State.i3cAnswer_tidy
    | with_reducible apply State.lwWrite_tidy
    | with_reducible apply State.Tidy.ite

theorem execRegWrite_tidy (offset : Nat) (value : Word) (s : State) (h_s : s.Tidy) : ∀ t_, execRegWrite offset value
    s = .next t_ → t_.Tidy := by
  intro t_ h_
  unfold execRegWrite at h_
  repeat' first
    | (injection h_ with h_; subst h_)
    | split at h_
    | cases h_
  all_goals
    repeat' first
      | with_reducible assumption
      | with_reducible apply State.i3cWrite_tidy

end Sys2Proof.Machine
end

