-- ==== Sys2Proof/WellFormed.lean ====
section
/-! DEFINITION. Well-formed commands: operands within the bounds that the manual sets and that their types do not. The
meanings take every command, well-formed or not. -/

namespace Sys2Proof

/-- A fetched slot has at most eight words (R248). -/
def HostSlot.wf (x : HostSlot) : Bool := decide (x.words.length ≤ 8)

/-- An item carries whole frames of 64 bytes (R369). -/
def Item.wf (i : Item) : Bool := decide (i.payload.length % 64 = 0)

/-- Whether a command's operands are within bounds: slots of a queue, items, accesses of a BAR (R573, R574) and of I3C
(R583), frames (R299, R337), and error records (R499). -/
def Instr.wf : Instr → Bool
  | .nop _ _ ext | .jump _ _ ext | .progEnd _ _ ext | .syncRemote _ _ ext | .marker _ _ ext | .arrayOp _ _ ext
  | .vectorOp _ _ ext | .moveCopy _ _ ext | .move2d _ _ ext | .moveFill _ _ ext | .layerOpen _ _ ext
  | .layerClose _ _ ext | .stepGate _ _ ext | .gather _ _ ext | .reduceScatter _ _ ext | .allReduce _ _ ext
  | .pipeSend _ _ ext | .seqPass _ _ ext | .dieReduce _ _ ext | .bucketReduce _ _ ext | .figureChange _ _ ext
  | .pose _ _ ext | .takeover _ _ ext | .v1Nop _ _ ext | .v1Array _ _ ext | .v1Vector _ _ ext | .v1Copy _ _ ext
  | .v1Marker _ _ ext | .v1BucketReduce _ _ ext => ext.wf
  | .gatherItem _ i | .reduce _ i | .result _ i | .bucket _ i | .pipe _ i | .seq _ i => i.wf
  | .bar2Read _ offset len => decide (offset + len ≤ 2 ^ 36)
  | .bar2Write _ offset data => decide (offset + data.length ≤ 2 ^ 36)
  | .registerWrite _ offset _ => decide (offset < 2 ^ 27)
  | .fenceWrite _ pageNo _ => decide (pageNo < 2048)
  | .intEnWrite _ pageNo _ => decide (pageNo < 2048)
  | .dataFrame _ f | .controlFrame _ f | .idleFrame ⟨_, f⟩ => !f.decoded || f.bad == 0
  | .bundleDataFrame _ _ f => f.carries != .idle || f.itemStart == 0
  | .summary _ i => decide (i.stage < 8192) && (i.sums.map SlotSum.slot).Nodup
  | .page _ i =>
      decide (i.payload.length = 4096) && decide (i.offset % 64 = 0) && (decide (i.digest.length = 0) || decide (i.digest.length = 64))
  | .seal _ _ h => decide (h.stats.length = 256)
  | .errorDetected e =>
      decide (e.block < 256) && decide (e.inst < 256) && decide (e.index < 65536) && decide (e.detail < 2 ^ 32)
  | .hostLinkUp _ gen width => [4, 5, 6].contains gen && [1, 2, 4, 8].contains width
  | .regRead offset => decide (offset < 2 ^ 32)
  | .regWrite offset _ => decide (offset < 2 ^ 32)
  | .imgWrite region offset data =>
      decide (region ≤ 1) && decide (offset % 256 = 0) && decide (offset < 2 ^ 32) && decide (data.length = 256)
  | .imgDone region length => decide (region ≤ 1) && decide (length < 2 ^ 32)
  | .counterWrite _ offset _ => decide (offset < 2 ^ 27)
  | .grandClaim | .arrayOpStart _ | .arrayOpComplete _ | .kernel _ | .epilogue _ | .softmax _ | .rmsnorm _
  | .layernorm _ | .quant _ | .adamw _ | .attnMerge _ | .xent _ | .vectorOpComplete _ _
  | .scalarIntegerOp _ _ _ _ _ _ | .scalarFp32Op _ _ _ _ _ _ _ | .branch _ _ | .conditionalBranch _ _ | .call _ _
  | .ret _ _ | .halt _ _ | .ubar _ _ | .ubarRelease _ _ | .numReport _ _ | .tileLoad _ _ | .tileStore _ _
  | .transposedLoad _ _ | .transposedStore _ _ | .packedNarrowStore _ _ | .tileElementwise _ _ _
  | .tileFunction _ _ _ | .rowSum _ _ | .columnSum _ _ | .rowMax _ _ | .columnMax _ _ | .tileConversion _ _ _
  | .quantise _ _ _ _ | .split _ _ | .transpose _ _ | .laneRotate _ _ | .rowRotate _ _ | .moveComplete _
  | .bracketOutcome _ _ | .commitAddDone _ _ | .gateWordForm _ | .gateEvaluation _ _ | .collectiveComplete _ _ _
  | .figureSwap | .figDrainTimeout | .reweight _ | .poseArm | .doorbell _ _ _ _ _ | .queueEnable _ _ _ _
  | .queueDisable _ _ _ _ | .programRun _ _ _ _ | .resume _ _ _ | .synOpRead _ _ _ | .synOpSet _ _ _ _
  | .synOpAdd _ _ _ _ | .syncUpdate _ _ _ _ _ | .lowPromotion _ | .partitionWrite _ _ _ _ _ | .forceShut _ _ _
  | .jcxStepWrite _ _ _ _ | .numEvtEnable _ _ _ | .scrubRead _ _ | .ceThresholdReached _ _ | .retireRequest _ _ _
  | .retireCopyDone | .preserveCopyDone _ | .bundleHandshakeFrame _ _ _ | .bundleRetrain _ _
  | .bundleRetrainDone _ _ | .dieAbsent _ _ | .absenceLearned _ | .floorLost _ | .dieResetRequest _ _
  | .dieResetHoldEnd _ | .dieTrainingDone _ _ | .dieSelftestDone _ _ | .diagLaneLoss _ _ _ | .wavelengthLit _ _ _
  | .wavelengthUnlit _ _ _ | .lanesRelocked _ | .resendTimeout _ | .sublinkEnable _ _
  | .sublinkDisable _ _ | .trainingComplete _ _ | .downRetry _ | .laneFault _ | .fieldRetrainingDone _ _
  | .otdrStart _ _ _ | .otdrDone _ _ | .sync _ _ | .abort _ _ _ | .landed _ _ _ _ _ | .layoutWrite _ _ _
  | .peerTableWrite _ _ _ _ | .layoutApply | .shardValidSet _ _ _ | .statsClear _ _ | .promenadePage | .pageSent
  | .openItem _ _ | .accept _ _ | .refuse _ _ | .sealed _ _ | .pctlAbort _ _ | .lossLimitExpiry _
  | .refillQueue _ _ _ | .restore _ | .replicate _ | .handover _ | .rollback _ | .verify _ | .refillComplete _
  | .refillAbort _ _ | .drainRequest _ | .containmentAction _ | .errTailWrite _ _ _ | .packageReset | .start
  | .startRowDone _ | .powerRemoved | .railExcursion _ | .lwStart _ _ | .lwInvalidate _ _ | .lwElementDone _
  | .powerPause | .powerPauseEnd | .sensorThreshold _ _ | .throttleStepDown _ | .throttleStepUp _ | .clockStop _
  | .extend _ | .quote _ | .getDik _ | .getAkCert _ | .svnCommit _ | .lcTransition _ | .scanRequest
  | .spdmMessage _ _ | .hostLinkDown _ | .hostPortReset _ | .imgStatus | .drainGo _ _ _ | .drainAbort _ _
  | .drainFlushComplete _ | .counterOverflow _ _ | .samplerEnable _ _ _ | .sampleTag _ | .pmuBufEnable _ _ _
  | .markerToken _ | .busMasterEnable _ _ | .msixVectorUnmask _ _ | .stackRetrainDone _ _ => true

end Sys2Proof
end

