-- ==== Sys2Proof/Tests/Slice0.lean ====
section
/-! SUPPORT. Tests: a smoke test of the checks of WellFormed, a witness for the hypotheses of each statement, and small
tests of commands. -/

set_option maxRecDepth 100000


namespace Sys2Proof.Tests

set_option Elab.async false

open Sys2Proof Sys2Proof.Machine

/-! The states of the witnesses. -/

/-- Fields of registers set one after another. -/
@[irreducible] def puts (s : State) (l : List (Nat × Fld × Nat)) : State := l.foldl (fun s x => s.put x.1 x.2.1 x.2.2) s

/-- A package that has started, with all dies present and both host ports up. -/
@[irreducible] def up : State :=
  let s := puts State.reset
    ([(capPage, R.CAP_START_STEP, 15), (capPage, R.CAP_START_RESULT, 1), (hifPage 0, R.HIF_LINK_STS_LINK_UP, 1),
      (hifPage 1, R.HIF_LINK_STS_LINK_UP, 1), (pwrPage, R.PWR_RAIL_STS_VALID, 0x3FF),
      (capPage, R.CAP_FLOOR_UNITS_HP_OK, 3)]
      ++ (List.range 4).map fun d => (d2dFloor, R.D2D_DIE_CTL_STATE d, 0))
  (s.setPort 0 { busMaster := true }).setPort 1 { busMaster := true }

/-- A queue of a die in the memory of host 0 with a command at its head; `legacy` and `program` as bits. -/
@[irreducible] def queueOn (s : State) (d q legacy program ctx : Nat) : State :=
  let p := page d B.CAL
  puts s [(p, R.QUEUE_W1_EN q, 1), (p, R.QUEUE_W1_SPACE q, 1), (p, R.QUEUE_W1_SIZE q, 4), (p, R.QUEUE_W2_TAIL q, 3),
    (p, R.QUEUE_W4_CPL_SIZE q, 4), (p, R.QUEUE_W3_CPL_BASE q, 64), (p, R.QUEUE_W1_LEGACY q, legacy),
    (p, R.QUEUE_W1_PROGRAM q, program), (p, R.QUEUE_W1_RUN q, program), (p, R.QUEUE_W1_CONTEXT q, ctx)]

/-- `up` with queue 0 of die 0. -/
@[irreducible] def s0 : State := queueOn up 0 0 0 0 0

/-- What a fetch from host memory answers. -/
@[irreducible] def slot (l : List Nat) : HostSlot := { words := l.map (BitVec.ofNat 64) }

/-- The words of a v2 command: header word 0, header word 1, operands. -/
@[irreducible] def cmd (l : List Nat) : List Nat := tabulate (fun i => l.getD i 0) 8

/-- The head that a fetch of these words gives. -/
@[irreducible] def head (l : List Nat) : Head := mkHead 0 false false (cmd l)

/-- The head that a fetch of a legacy command gives. -/
@[irreducible] def head1 (l : List Nat) : Head := mkHead 0 true false (tabulate (fun i => l.getD i 0) 4)

/-- Sub-link `e` in service to a rank, serving the groups of a mask in slot 0. -/
@[irreducible] def join (s : State) (e rank groups : Nat) : State :=
  puts s [(figPage, R.PEER_TABLE_VALID e, 1), (figPage, R.PEER_TABLE_RANK e, rank), (figPage, R.FIG_ENTRY_GROUPS 0 e, groups),
    (opxPage (e / 2), slField e, Sl.UP)]

/-- `s0` with sub-link 3 to rank 7. -/
@[irreducible] def sSync : State := join s0 3 7 0

/-- `s0` with queue 1 of die 0 a program. -/
@[irreducible] def sProg : State := queueOn up 0 1 0 1 0

/-- `s0` with queue 2 of die 0 legacy. -/
@[irreducible] def sOld : State := queueOn up 0 2 1 0 0

/-- `s0` with a wait of queue 0 on cell 5, which holds 7 or 2. -/
def sWait (v : Nat) : State := { s0.setCell 5 v with waits := [⟨0, 5, 3, true⟩] }

theorem s0_tidy : s0.Tidy := State.tidy_of_tidyB _ (by decide +kernel)
theorem sSync_tidy : sSync.Tidy := State.tidy_of_tidyB _ (by decide +kernel)
theorem sProg_tidy : sProg.Tidy := State.tidy_of_tidyB _ (by decide +kernel)
theorem sOld_tidy : sOld.Tidy := State.tidy_of_tidyB _ (by decide +kernel)

/-- R536: a pause ends below 2,200 W. -/
theorem test_powerPauseEnd (s : State) (h : s.reading 32 < 2200) (k : s.fatal = false) :
    step { s with pending := [.powerPauseEnd] } = .next { s with pending := [], paused := false } := by
  show Host.Outcome.next (if s.reading 32 < 2200 ∧ s.fatal = false then _ else _) = _
  rw [if_pos ⟨h, k⟩]

theorem witness_StepKeepsTidy : s0.Tidy
    ∧ step { s0 with pending := [.powerPauseEnd] } = .next { s0 with pending := [], paused := false } :=
  ⟨s0_tidy, test_powerPauseEnd s0 (by decide +kernel) (by decide +kernel)⟩

theorem witness_ResetsLeaveResetWords : s0.Tidy ∧ s0.startStep ≠ 0 ∧ State.reset.Tidy ∧ State.reset.startStep = 0 :=
  ⟨s0_tidy, by decide +kernel, State.tidy_of_tidyB _ (by decide +kernel), by decide +kernel⟩

theorem witness_CallerCommandsAndTheirFrame :
    (s0.Tidy ∧ s0.takes 0 0 (slot [0]) (head [0]) false Opc.NOP = true)
    ∧ (sProg.Tidy ∧ sProg.takes 0 1 (slot [1, 0, 5]) (head [1, 0, 5]) false Opc.JUMP = true
      ∧ sProg.takes 0 1 (slot [2]) (head [2]) false Opc.PROG_END = true)
    ∧ (sOld.Tidy ∧ sOld.takes 0 2 (slot [1]) (head1 [1]) true 1 = true)
    ∧ hSigEn (head [0]).cmdWords = false ∧ hCr (head [0]).cmdWords = false ∧ hIrq (head [0]).cmdWords = false
    ∧ s0.on (page (0 : Fin 4) B.PMU) R.PMU_SAMPLE_CTL_EN = false ∧ (s0.sampler 0).due = none ∧ (s0.sampler 0).tagged = none
    ∧ s0.bracketOf 0 0 = none ∧ (s0.queue (queueNo 0 0)).haltAfter = false :=
  ⟨⟨s0_tidy, by decide +kernel⟩, ⟨sProg_tidy, by decide +kernel⟩, ⟨sOld_tidy, by decide +kernel⟩, by decide +kernel⟩

/-- A NOP that signals: it sets cell 9 of die 1 to 4, or adds 4 to it. -/
@[irreducible] def nopSignal (set : Nat) : List Nat := [2 ^ 62 + 9 * 2 ^ 48 + set * 2 ^ 15 + 2 ^ 10, 4 * 2 ^ 32]

/-- A command of an opcode that has reached a stage, with a signal that adds 4 to cell 9 of die 1. -/
@[irreducible] def signalling (opc : Nat) (stage : Stage) (units : List Nat) : Cmd :=
  { id := 0, die := 0, queue := 0, context := 0, number := 0, words := cmd [opc + (nopSignal 0).getD 0 0, 4 * 2 ^ 32]
    arrays := if stage = .arrayRun then [0] else [], units := units, stage := stage, begun := true, landed := true }

/-- `s0` with that command dispatched. -/
def sSignal (opc : Nat) (stage : Stage) (units : List Nat) : State :=
  { s0 with cmds := [signalling opc stage units], nextId := 5 }

theorem sSignal_tidy (opc : Nat) (stage : Stage) (units : List Nat) : (sSignal opc stage units).Tidy :=
  { s0_tidy with ids := by simp [sSignal, signalling] }

theorem witness_SignalSetsOrAdds :
    (∀ set ∈ [0, 1],
      let h := head (nopSignal set)
      s0.Tidy ∧ s0.takes 0 0 (slot (nopSignal set)) h false Opc.NOP = true ∧ hSigEn h.cmdWords = true
      ∧ s0.bracketOf 0 0 = none ∧ s0.present ((hSignal h.cmdWords).cell / 16384) = true
      ∧ s0.waits.all (fun w => w.cell != (hSignal h.cmdWords).cell) = true)
    ∧ (∀ x ∈ [(Opc.MOVE_COPY, Stage.moving, []), (Opc.ARRAY_OP, .arrayRun, []), (Opc.VECTOR_OP, .vectorDone, [1]),
        (Opc.SYNC_REMOTE, .collRun, [])],
      let c := signalling x.1 x.2.1 x.2.2
      let s := sSignal x.1 x.2.1 x.2.2;
      s.Tidy ∧ hSigEn c.words = true ∧ c.attempt = none ∧ c.error = none ∧ s.cmds = [c]
      ∧ s.present ((hSignal c.words).cell / 16384) = true ∧ s.waits.all (fun w => w.cell != (hSignal c.words).cell) = true)
    ∧ (sSignal Opc.MOVE_COPY .moving []).moveReady 0 = some (signalling Opc.MOVE_COPY .moving [])
    ∧ (let s := sSignal Opc.ARRAY_OP .arrayRun []
      let c := signalling Opc.ARRAY_OP .arrayRun [];
      (s.cmds.find? fun x => x.stage == .arrayRun && x.arrays.contains 0) = some c ∧ c.orphan = false
      ∧ c.arrays.any s.floorLost = false)
    ∧ (let s := sSignal Opc.VECTOR_OP .vectorDone [1]
      let c := signalling Opc.VECTOR_OP .vectorDone [1];
      (s.cmds.find? fun x => x.stage == .vectorDone && x.die == 0 && x.units.contains 1) = some c
      ∧ s.floorLost 0 = false ∧ s.allLanded c.id = true)
    ∧ (let s := sSignal 0x23 .collRun []
      let c := signalling 0x23 .collRun [];
      c.die = 0 ∧ c.queue = 0 ∧ c.number = 0 ∧ s.cmds = [c] ∧ s.collReady c = true ∧ s.clx.answers = []) := by
  refine ⟨fun n h => ?_, fun n h => ?_, by decide +kernel⟩ <;> simp only [List.mem_cons, List.not_mem_nil, or_false] at h
  · obtain rfl | rfl := h <;> exact ⟨s0_tidy, by decide +kernel⟩
  · obtain rfl | rfl | rfl | rfl := h <;> exact ⟨sSignal_tidy _ _ _, by decide +kernel⟩

/-- Where no write waits and no page is guarded, copied or retired, no page holds. -/
theorem no_page_holds {s : State} (h : s.heldWrites = [] ∧ s.pages = [] ∧ s.preserving = [] ∧ s.retiring = none) (p : Nat) :
    s.pageHolds p = false := by
  simp [State.pageHolds, State.pageShut, State.pageSt, Table.get, Page.guarded, h]

theorem witness_InvalidCommandHaltsCaller :
    s0.Tidy ∧ (∀ p, s0.pageHolds p = false) ∧ ∀ l ∈ [[7], [0, 0, 1]],
      let h := head l
      s0.hasHead 0 0 = true ∧ s0.callerRuns 0 0 = true ∧ (s0.queue (queueNo 0 0)).drain = false
      ∧ (s0.queue (queueNo 0 0)).skip = 0 ∧ s0.bracketOf 0 0 = none ∧ s0.headOf 0 0 (slot l) = some h ∧ h.poisoned = false
      ∧ h.legacy = false ∧ s0.eligible 0 0 h = true ∧ s0.outranked 0 0 = false ∧ s0.chosenOf 0 (s0.callerOf 0 0) = none
      ∧ s0.recordOpen 0 0 = true ∧ bitOn (s0.fld (page (0 : Fin 4) B.CAL) R.CAL_RESUME_RESUME) (s0.callerOf 0 0) = false
      ∧ (if l = [7] then operandMask h.opc = none else h.opc = Opc.NOP ∧ badForm h.cmdWords = true) := by
  exact ⟨s0_tidy, no_page_holds (by decide +kernel), by decide +kernel⟩

theorem witness_WaitComparesModulo :
    ((sWait 7).Tidy ∧ ⟨0, 5, 3, true⟩ ∈ (sWait 7).waits ∧ meets ((sWait 7).cell 5) 3 = true)
    ∧ ((sWait 2).Tidy ∧ ⟨0, 5, 3, true⟩ ∈ (sWait 2).waits ∧ meets ((sWait 2).cell 5) 3 = false) :=
  ⟨⟨State.tidy_of_tidyB _ (by decide +kernel), by decide +kernel⟩, State.tidy_of_tidyB _ (by decide +kernel), by decide +kernel⟩

/-- An earlier SYNC_REMOTE to rank 7, of another queue of the caller, waits, sent on a sub-link. -/
def sMate (e : Nat) : State :=
  { sSync with nextId := 5, cmds := [{ id := 0, die := 0, queue := 1, context := 0, number := 0, words := cmd [3, 0, 7, 9]
                                       stage := .syncRemote, link := some e }] }

theorem sMate_tidy (e : Nat) : (sMate e).Tidy := { sSync_tidy with ids := by simp [sMate] }

theorem witness_MarkersAndRemoteSignalsAreSent :
    (s0.Tidy ∧ s0.takes 0 0 (slot [4, 0, 77]) (head [4, 0, 77]) false Opc.MARKER = true)
    ∧ (sOld.Tidy ∧ sOld.takes 0 2 (slot [5, 0, 0, 77]) (head1 [5, 0, 0, 77]) true 5 = true)
    ∧ (sSync.Tidy ∧ sSync.takes 0 0 (slot [3, 0, 7, 9]) (head [3, 0, 7, 9]) false Opc.SYNC_REMOTE = true
      ∧ sSync.cmds = [] ∧ (sSync.rankLinks (wf (head [3, 0, 7, 9]).cmdWords 2 0 16)).head? = some 3)
    ∧ ∀ e ∈ [3, 4],
      let s := sMate e
      let w := (head [3, 0, 7, 9]).cmdWords
      let rank := wf w 2 0 16
      let mates := (s.cmds.filter fun x => x.stage == .syncRemote && x.die == 0
        && s.qf x.die x.queue R.QUEUE_W1_CALLER == s.qf 0 0 R.QUEUE_W1_CALLER && wf x.words 2 0 16 == rank).filterMap Cmd.link;
      s.Tidy ∧ s.takes 0 0 (slot [3, 0, 7, 9]) (head [3, 0, 7, 9]) false Opc.SYNC_REMOTE = true
      ∧ mates.head? = some e ∧ s.rankLinks rank ≠ [] ∧ (s.rankLinks rank).contains e = (e == 3) := by
  refine ⟨⟨s0_tidy, by decide +kernel⟩, ⟨sOld_tidy, by decide +kernel⟩, ⟨sSync_tidy, by decide +kernel⟩, fun e h => ?_⟩
  simp only [List.mem_cons, List.not_mem_nil, or_false] at h
  obtain rfl | rfl := h <;> exact ⟨sMate_tidy _, by decide +kernel⟩

/-- Memory holds these words at these addresses, in rising order. -/
@[irreducible] def poke (s : State) (l : List (Nat × List Nat)) : State :=
  { s with mem := l.flatMap fun x => ((x.2.flatMap (leBytes 8)).zipIdx.filter fun b => b.1 != 0).map fun b => (x.1 + b.2, b.1) }

/-- One partition of a context on a die covers the whole map. -/
@[irreducible] def part (s : State) (d ctx : Nat) : State :=
  puts s [(partBase d ctx, R.PARTITION_W0_VALID 0, 1), (partBase d ctx, R.PARTITION_W1_LIMIT 0, 2 ^ 36 - 1)]

/-- An array descriptor: BF16 operands, FP32 output, M = N = K = 1; `mode` 1 is quad, 0 grand. -/
@[irreducible] def aryDesc (mode : Nat) : List Nat :=
  tabulate (fun i => [2 ^ 28 + 17 * 2 ^ 16 + mode * 256 + 2, 2 ^ 32 + 1, 1, 0, stgBase + 0x1000, stgBase + 0x1040, 0, 0,
    64 * 2 ^ 32 + 64, 0, 65536 * 2 ^ 32 + 128].getD i 0) 16

/-- The grand one with its output on two dies (R106). -/
@[irreducible] def aryMirrored : List Nat := (aryDesc 0).set 0 ((aryDesc 0).getD 0 0 + 2 ^ 36)

/-- The operation of a kind on a 1 × 1 region at the start of an ACC, with the output at 4096 and units 0 and 1. -/
@[irreducible] def vecDesc (kind p : Nat) (aux : List Nat) : List Nat :=
  tabulate (fun i => [kind * 256 + 2, 3, 2 ^ 32 + 1, 0, 4096, 64 * 2 ^ 32 + 64, aux.getD 0 0, aux.getD 1 0, aux.getD 2 0,
    p * 2 ^ 32 + p, p * 2 ^ 32 + p, p * 2 ^ 32 + p, 0, 0, 0, p * 2 ^ 32 + p].getD i 0) 16

/-- A command of an ARRAY_OP or VECTOR_OP with a descriptor. -/
@[irreducible] def opCmd (opc : Nat) (desc : List Nat) (stage : Stage) : Cmd :=
  { id := 0, die := 0, queue := 0, context := 0, number := 0, words := cmd [opc, 0, stgBase], desc := desc, stage := stage }

/-- Queue 0 of die 0 with its context's partition, the arrays and two units of each die usable, and operands 1.0 and 2.0. -/
@[irreducible] def sOp (desc : List Nat) : State :=
  let s := puts (part s0 0 0) ((List.range 4).flatMap fun d =>
    [(page d B.ARY, R.ARY_MODE_ARRAY_USABLE, 1), (page d B.ARY, R.ARY_MODE_GRAND_AVAIL, 1),
     (page d B.VEC, R.VEC_UNIT_USABLE_USABLE, 3)])
  poke s [(stgBase, desc), (stgBase + 0x1000, [0x3F80]), (stgBase + 0x1040, [0x4000])]

/-- The same with a legacy queue 2. -/
@[irreducible] def sOpOld (desc : List Nat) : State := queueOn (sOp desc) 0 2 1 0 0

/-- `sOp` with commands dispatched. -/
def sCmds (l : List Cmd) : State := { sOp [] with cmds := l, nextId := 5 }

theorem sOp_tidy (desc : List Nat) (h : desc ∈ [aryDesc 0, aryDesc 1, vecDesc 0 0 [stgBase + 0x2000]]) : (sOp desc).Tidy := by
  simp only [List.mem_cons, List.not_mem_nil, or_false] at h
  obtain rfl | rfl | rfl := h <;> exact State.tidy_of_tidyB _ (by decide +kernel)

theorem tidy_cmds {s : State} (h : s.Tidy) (l : List Cmd) (n : Nat) (k : (l.map Cmd.id ++ [n]).Pairwise (· < ·)) :
    State.Tidy { s with cmds := l, nextId := n } := { h with ids := k }

theorem tidy_claims {s : State} (h : s.Tidy) (l : List Nat) : State.Tidy { s with claims := l } := { h with }

theorem tidy_poison {s : State} (h : s.Tidy) (a : Nat) : State.Tidy { s with poison := [a] } :=
  { h with poison := List.pairwise_singleton _ _ }

theorem sCmds_tidy (l : List Cmd) (k : (l.map Cmd.id ++ [5]).Pairwise (· < ·) := by decide +kernel) : (sCmds l).Tidy :=
  tidy_cmds (State.tidy_of_tidyB (sOp []) (by decide +kernel)) l 5 k

theorem witness_OperationsEnterTheirArbiters :
    (∀ mode ∈ [0, 1],
      (sOp (aryDesc mode)).Tidy
      ∧ (sOp (aryDesc mode)).clears 0 0 (head [8, 0, stgBase]) (prepDesc aryOutTensor State.aryCheck) = true
      ∧ (sOp (aryDesc mode)).takes 0 0 (slot [8, 0, stgBase]) (head [8, 0, stgBase]) false Opc.ARRAY_OP = true
      ∧ aryGrand ((sOp (aryDesc mode)).words ((sOp (aryDesc mode)).descAt ((sOp (aryDesc mode)).mkCmd 0 0 (head [8, 0, stgBase]))) 16)
          = (mode == 0))
    ∧ ((sOpOld (aryDesc 1)).Tidy
      ∧ (sOpOld (aryDesc 1)).clears 0 2 (head1 [2, 0, stgBase]) (prepDesc aryOutTensor State.aryCheck) = true
      ∧ (sOpOld (aryDesc 1)).takes 0 2 (slot [2, 0, stgBase]) (head1 [2, 0, stgBase]) true 2 = true)
    ∧ ((sOp (vecDesc 0 0 [stgBase + 0x2000])).Tidy
      ∧ (sOp (vecDesc 0 0 [stgBase + 0x2000])).clears 0 0 (head [9, 0, stgBase]) (prepDesc vOutTensor State.vecCheck) = true
      ∧ (sOp (vecDesc 0 0 [stgBase + 0x2000])).takes 0 0 (slot [9, 0, stgBase]) (head [9, 0, stgBase]) false Opc.VECTOR_OP = true)
    ∧ ((sOpOld (vecDesc 0 0 [stgBase + 0x2000])).Tidy
      ∧ (sOpOld (vecDesc 0 0 [stgBase + 0x2000])).clears 0 2 (head1 [3, 0, stgBase]) (prepDesc vOutTensor State.vecCheck) = true
      ∧ (sOpOld (vecDesc 0 0 [stgBase + 0x2000])).takes 0 2 (slot [3, 0, stgBase]) (head1 [3, 0, stgBase]) true 3 = true) := by
  refine ⟨fun mode h => ?_, ⟨State.tidy_of_tidyB _ (by decide +kernel), by decide +kernel⟩,
    ⟨sOp_tidy _ (by decide +kernel), by decide +kernel⟩, State.tidy_of_tidyB _ (by decide +kernel), by decide +kernel⟩
  simp only [List.mem_cons, List.not_mem_nil, or_false] at h
  obtain rfl | rfl := h <;> exact ⟨sOp_tidy _ (by decide +kernel), by decide +kernel⟩

theorem witness_ArraysAreGrantedAndStart :
    (let s := { sCmds [opCmd 8 (aryDesc 0) .arrayWait] with claims := [0] };
      s.Tidy ∧ s.claims = 0 :: [] ∧ s.granted = none ∧ ∀ d : Fin 4, s.arrayFree d = true)
    ∧ (let c := opCmd 8 (aryDesc 1) .arrayWait;
      (sCmds [c]).Tidy ∧ (sCmds [c]).arrayNext 0 = some c ∧ (sCmds [c]).spareDue = []
      ∧ (sCmds [c]).aryUsable c.die c.desc = none ∧ (sCmds [c]).present (aryDie c.desc) = true) :=
  ⟨⟨tidy_claims (sCmds_tidy _) _, by decide +kernel⟩, sCmds_tidy _, by decide +kernel⟩

/-- A quad or grand operation that runs and holds the accumulator 1.0 or NaN, with an error or none. -/
@[irreducible] def aryRun (desc : List Nat) (acc : Nat) (err : Option (Nat × Nat)) : Cmd :=
  { opCmd 8 desc .arrayRun with arrays := if aryGrand desc then [0, 1, 2, 3] else [0], acc := [acc], error := err }

theorem witness_ArrayOperationsEnd :
    ∀ x ∈ [(aryDesc 1, 0x3FF0000000000000, none), (aryDesc 1, 0x7FF8000000000000, none), (aryDesc 0, 0x3FF0000000000000, none),
        (aryMirrored, 0x7FF8000000000000, none), (aryDesc 1, 0x3FF0000000000000, some (Err.ARRAY_FAULT, 0))],
      let c := aryRun x.1 x.2.1 x.2.2
      let s := sCmds [c]
      let grand := aryGrand c.desc
      s.Tidy ∧ (s.cmds.find? fun c => c.stage == .arrayRun && c.arrays.contains 0) = some c ∧ c.error = x.2.2 ∧ c.orphan = false
      ∧ c.arrays.any s.floorLost = false ∧ c.arrays.all (fun e => decide (e < 4)) = true ∧ c.die < 4 ∧ c.queue < 64 ∧ c.context < 2
      ∧ hCr c.words = false ∧ hSigEn c.words = false ∧ (s.sampler c.die).due = none ∧ (s.sampler c.die).tagged = none
      ∧ s.poison = [] ∧ (∀ e : Fin 4, s.on (page e B.NUM) R.NUM_EVT_CTL_EN = false)
      ∧ (if grand then ceilDiv (aryN c.desc) 1280 * 640 else aryN c.desc) * aryElem c.desc ≤ wf c.desc 10 32 32
      ∧ wf c.desc 10 0 26 + aryM c.desc * wf c.desc 10 32 32 ≤ 0x3000000 ∧ c.acc.length = aryM c.desc * aryN c.desc
      ∧ aryMirror c.desc = (x.1 == aryMirrored) ∧ 0 < aryM c.desc ∧ 0 < aryN c.desc
      ∧ vfinite (decode (if aryElem c.desc = 8 then .fp64 else .fp32) (aryResult c.desc (c.acc.getD 0 0)))
          = (x.2.1 == 0x3FF0000000000000)
      ∧ c.attempt = none ∧ bitOn (s.fld (page c.die B.CAL) R.CAL_RESUME_RESUME) (s.callerOf c.die c.queue) = false := by
  intro x h
  simp only [List.mem_cons, List.not_mem_nil, or_false] at h
  obtain rfl | rfl | rfl | rfl | rfl := h <;> exact ⟨sCmds_tidy _, by decide +kernel⟩

theorem witness_KernelsStartAndOperationsEnd :
    (let c := opCmd 9 (vecDesc 0 0 [stgBase + 0x2000]) .vectorWait;
      (sCmds [c]).Tidy ∧ (sCmds [c]).starts 0 c OpKind.KERNEL = true ∧ c.die = 0)
    ∧ (let c := { opCmd 9 (vecDesc 0 0 [stgBase + 0x2000]) .vectorDone with units := [0, 1] };
      (sCmds [c]).Tidy
      ∧ ((sCmds [c]).cmds.find? fun c => c.stage == .vectorDone && c.die == 0 && c.units.contains 1) = some c
      ∧ (sCmds [c]).allLanded c.id = true ∧ (sCmds [c]).floorLost 0 = false ∧ ∀ u ∈ c.units, u < 64) :=
  ⟨⟨sCmds_tidy _, by decide +kernel⟩, sCmds_tidy _, by decide +kernel⟩

/-- The row operations on one element each; parameters of 0.5, auxiliary regions in staging. -/
@[irreducible] def rowCmd (kind : Nat) : Cmd :=
  opCmd 9 (vecDesc kind 0x3F000000 (if kind = 6 ∨ kind = 7 then [stgBase + 0x2000, stgBase + 0x3000]
    else if kind = 8 ∨ kind = OpKind.QUANT then [stgBase + 0x2000] else [])) .vectorWait

/-- The row operations of one statement, with their effects. -/
def rowKinds : List (Nat × (State → Cmd → VecEffect)) :=
  [(OpKind.EPILOGUE, State.epilogueEffect), (OpKind.SOFTMAX, State.softmaxEffect), (OpKind.RMSNORM, State.rmsnormEffect),
    (OpKind.LAYERNORM, State.layernormEffect), (OpKind.ADAMW, State.adamwEffect), (OpKind.ATTN_MERGE, State.mergeEffect),
    (OpKind.XENT, State.xentEffect)]

theorem witness_RowOperationsComputeTheirRows :
    (∀ k ∈ rowKinds,
      let c := rowCmd k.1
      let s := sCmds [c]
      let x : Cmd := { c with units := unitList (vMask c.desc &&& s.unitsUsable 0) }
      let e := k.2 s x
      s.Tidy ∧ s.starts 0 c k.1 = true ∧ c.die = 0 ∧ s.vecPoison x = false ∧ e.bad = false ∧ e.stores ≠ []
      ∧ s.allLanded c.id = true
      ∧ (∀ p ∈ e.stores, s.open p.1 p.2.2.length = true)
      ∧ e.stores.Pairwise fun p q => p.1 + p.2.2.length ≤ q.1 ∨ q.1 + q.2.2.length ≤ p.1)
    ∧ (let c := rowCmd OpKind.QUANT
      let s := sCmds [c]
      let x : Cmd := { c with units := unitList (vMask c.desc &&& s.unitsUsable 0) }
      let e := (s.quantEffect x).1;
      s.Tidy ∧ s.starts 0 c OpKind.QUANT = true ∧ c.die = 0 ∧ s.vecPoison x = false ∧ s.allLanded c.id = true
      ∧ s.on (page 0 B.NUM) R.NUM_EVT_CTL_EN = false ∧ (∀ p ∈ e.stores, s.open p.1 p.2.2.length = true)
      ∧ e.stores.Pairwise (fun p q => p.1 + p.2.2.length ≤ q.1 ∨ q.1 + q.2.2.length ≤ p.1)
      ∧ s.entryAddr 0 c.context c.tensor = some 0 ∧ (∀ p ∈ e.stores, 128 ≤ p.1) ∧ 0 < vRows c.desc)
    ∧ (let c := rowCmd OpKind.QUANT
      let s := { sCmds [c] with poison := [accAddr 0 0] }
      let x : Cmd := { c with units := unitList (vMask c.desc &&& s.unitsUsable 0) };
      s.Tidy ∧ s.starts 0 c OpKind.QUANT = true ∧ s.vecPoison x = true)
    ∧ [some nan32, some 0].filterMap id ≠ [] ∧ [some inf32, none].filterMap id = [inf32]
      ∧ (∀ c ∈ [some ninf32, none].filterMap id, c = ninf32) ∧ ∃ c ∈ [some 0x3F800000, none].filterMap id, c ≠ ninf32 := by
  refine ⟨fun k h => ?_, ⟨sCmds_tidy _, by decide +kernel⟩, ⟨tidy_poison (sCmds_tidy _) _, by decide +kernel⟩, by decide +kernel⟩
  simp only [rowKinds, List.mem_cons, List.not_mem_nil, or_false] at h
  obtain rfl | rfl | rfl | rfl | rfl | rfl | rfl := h <;> exact ⟨sCmds_tidy _, by decide +kernel⟩

/-- An instruction word: opcode, TD, TA, TB, TC, format, SB, address space. -/
@[irreducible] def inst (opc td ta tb tc fmt sb space : Nat) : Nat :=
  opc * 2 ^ 56 + td * 2 ^ 50 + ta * 2 ^ 44 + tb * 2 ^ 38 + tc * 2 ^ 32 + fmt * 2 ^ 28 + sb * 2 ^ 19 + space * 2 ^ 16

/-- A KERNEL operation that runs on units 1 and 2 of die 0. -/
@[irreducible] def kern : Cmd := { opCmd 9 (vecDesc 0 0 [stgBase + 0x2000]) .vectorRun with units := [1, 2] }

/-- A unit of that operation: S4, S5 an address and a pitch, S6 the scale 1.0, tiles 1 and 2 with numbers, 3 with shifts. -/
@[irreducible] def core (mode : UnitMode) : UnitCore :=
  { op := some 0, mode := mode, pc := stgBase + 0x1000
    scalars := [(4, some (BitVec.ofNat 64 (stgBase + 0x4000))), (5, some 128), (6, some 0x3F800000), (7, some 0)]
    tiles := [(1, fun r k => 0x3F800000 + r * 2 ^ 20 + k * 2 ^ 16), (2, fun r k => 0x40000000 + k * 2 ^ 17 + r * 2 ^ 3),
        (3, fun r _ => r % 3)].flatMap fun (x : Nat × (Nat → Nat → Nat)) =>
      (List.range 32).map fun r => (32 * x.1 + r, some (packElems 32 (tabulate (x.2 r) 32))) }

/-- A unit that runs and stands at an instruction; the other unit of its operation is in a mode. -/
@[irreducible] def sUnit (w : Nat) (mine other : UnitMode) : State :=
  { poke (sOp []) [(stgBase + 0x1000, [w]), (stgBase + 0x4000, [0x4000000041000000, 0x3F80BF80]), (stgBase + 0x4080, [1, 2, 3])] with
    cmds := [kern], nextId := 5, units := [(1, core mine), (2, core other)] }

/-- The same, with the operation in an attempt whose tensor table lies in staging. -/
@[irreducible] def sAmax : State :=
  { puts (sUnit (inst 0x18 0 0 0 0 0 6 0) .running .running) [(page 0 B.NUM, R.NUM_TABLE_BASE 0, stgBase + 0x8000)] with
    cmds := [{ kern with attempt := some 0 }] }

/-- The rows that a load or store reaches. -/
def okAddrs : Except Nat (Nat → Nat) → Nat → Nat
  | .ok a => a
  | .error _ => fun _ => 0

theorem ok_addrs (e : Except Nat (Nat → Nat)) (h : e.isOk = true) : e = .ok (okAddrs e) := by
  cases e with
  | ok a => rfl
  | error n => cases h

theorem witness_ScalarInstructionsAndReports :
    (sUnit (inst 1 0 0 0 0 0 0 0) .running .running).issues 0 1 kern (inst 1 0 0 0 0 0 0 0) 0x00 0x0F = true
    ∧ (sUnit (inst 0x11 0 0 0 0 0 0 0) .running .running).issues 0 1 kern (inst 0x11 0 0 0 0 0 0 0) 0x10 0x17 = true
    ∧ (let w := inst 0x18 0 0 0 0 0 6 0;
      let c := { kern with attempt := some 0 }
      sAmax.issues 0 1 c w 0x18 0x1F = true ∧ iSb w ≠ 31
        ∧ (sAmax.entryAddr 0 c.context (((sAmax.unit 0 1).scalar (iSb w + 1)).toNat % 65536)).isSome = true) := by
  decide +kernel

theorem witness_ControlHaltsAndBarriers :
    (let w := inst 0x18 0 0 0 0 0 6 0;
      (sUnit w .running .running).issues 0 1 kern w 0x18 0x1F = true ∧ ((sUnit w .running .running).unit 0 1).calls = []
      ∧ 2 ∈ kern.units ∧ ((sUnit w .running .running).unit 0 2).mode ≠ .halted
      ∧ (let s := { sUnit w .running .halted with units := [(1, { core .running with calls := [64, 128] }), (2, core .halted)] }
        s.issues 0 1 kern w 0x18 0x1F = true ∧ (s.unit 0 1).calls = 64 :: [128]
        ∧ ∀ v ∈ kern.units, v ≠ 1 → (s.unit 0 v).mode = .halted))
    ∧ (let s := sUnit 0 .barrier .barrier;
      ((s.unit 0 1).op.bind s.cmdOf) = some kern ∧ (∀ v ∈ kern.units, v < 64)
      ∧ (∀ v ∈ kern.units, (s.unit 0 v).mode = .barrier) ∧ s.allLanded kern.id = true)
    ∧ (let s := sUnit 0 .barrier .running;
      ((s.unit 0 1).op.bind s.cmdOf) = some kern ∧ ∃ v ∈ kern.units, (s.unit 0 v).mode ≠ .barrier) := by
  decide +kernel

theorem witness_TilesMoveThroughMemoryAndPermute :
    (let w := inst 0x20 9 1 0 0 0 4 1
      let s := sUnit w .running .running
      let y := { s.unit 0 1 with pc := (s.unit 0 1).pc + 8 }
      let e := s.tileAddrs 0 kern y w 32 128;
      (s.Tidy ∧ s.issues 0 1 kern w 0x20 0x27 = true ∧ s.allLanded kern.id = true ∧ iFmt w = some .fp32 ∧ (s.unit 0 1).nonFinite (iTa w) .fp32 = false)
      ∧ e = .ok (okAddrs e)
      ∧ (∀ r, r < 32 → (s.loadOf (some kern.id) (okAddrs e r) 128).1 = false ∧ s.open (okAddrs e r) 128 = true)
      ∧ ∀ r, r < 32 → ∀ q, q < 32 → r < q → okAddrs e r + 128 ≤ okAddrs e q ∨ okAddrs e q + 128 ≤ okAddrs e r)
    ∧ (let w := inst 0x20 9 1 0 0 2 4 1
      let s := sUnit w .running .running
      let y := { s.unit 0 1 with pc := (s.unit 0 1).pc + 8 }
      let n := viewCols .e4m3 * fmtWidth .e4m3 / 8
      let e := s.tileAddrs 0 kern y w 32 n
      s.issues 0 1 kern w 0x20 0x27 = true ∧ iFmt w = some .e4m3 ∧ isNarrow .e4m3 = true ∧ e = .ok (okAddrs e)
      ∧ (s.unit 0 1).nonFinite (iTa w) .e4m3 = false ∧ s.Tidy ∧ s.allLanded kern.id = true
      ∧ (∀ r, r < 32 → s.open (okAddrs e r) n = true)
      ∧ ∀ r, r < 32 → ∀ q, q < 32 → r < q → okAddrs e r + n ≤ okAddrs e q ∨ okAddrs e q + n ≤ okAddrs e r)
    ∧ (let w := inst 0x60 9 1 0 0 1 4 0;
      (sUnit w .running .running).issues 0 1 kern w 0x60 0x67 = true ∧ iFmt w = some .bf16) := by
  refine ⟨⟨⟨State.tidy_of_tidyB _ (by decide +kernel), by decide +kernel⟩, ok_addrs _ (by decide +kernel), by decide +kernel⟩,
    ⟨by decide +kernel, by decide +kernel, by decide +kernel, ok_addrs _ (by decide +kernel), by decide +kernel,
      State.tidy_of_tidyB _ (by decide +kernel), by decide +kernel⟩, by decide +kernel⟩

theorem witness_ElementwiseAndReductions :
    (let w := inst 0x28 9 1 2 3 0 4 0;
      (sUnit w .running .running).issues 0 1 kern w 0x28 0x3F = true ∧ iFmt w = some .fp32 ∧ isNarrow .fp32 = false)
    ∧ (let w := inst 0x4F 9 1 2 3 0 4 0;
      (sUnit w .running .running).issues 0 1 kern w 0x40 0x4F = true ∧ iFmt w = some .fp32)
    ∧ (let w := inst 0x57 9 1 2 3 0 4 0;
      (sUnit w .running .running).issues 0 1 kern w 0x50 0x57 = true ∧ iFmt w = some .fp32) := by
  decide +kernel

theorem witness_ConversionsAndQuantisation :
    (let w := inst 0x58 9 1 0 3 1 6 0;
      (sUnit w .running .running).issues 0 1 kern w 0x58 0x5F = true ∧ iFmt w = some .bf16
      ∧ convertible .fp32 .bf16 (iRnd w) = true)
    ∧ (let w := inst 0x58 9 1 0 3 0 6 0;
      (sUnit w .running .running).issues 0 1 kern w 0x58 0x5F = true ∧ iFmt w = some .fp32
      ∧ convertible .e4m3 .fp32 (iRnd w) = true ∧ isNarrow .e4m3 = true
      ∧ scaleValid ((((sUnit w .running .running).unit 0 1).scalar (iSb w)).toNat % 2 ^ 32) = true)
    ∧ (let w := inst 0x58 9 1 0 3 0 7 0;
      (sUnit w .running .running).issues 0 1 kern w 0x58 0x5F = true ∧ iFmt w = some .fp32
      ∧ convertible .e4m3 .fp32 (iRnd w) = true
      ∧ scaleValid ((((sUnit w .running .running).unit 0 1).scalar (iSb w)).toNat % 2 ^ 32) = false)
    ∧ (let w := inst 0x5F 9 1 0 3 2 6 0
      let s := sUnit w .running .running
      s.issues 0 1 kern w 0x58 0x5F = true ∧ iFmt w = some .e4m3 ∧ isNarrow .e4m3 = true ∧ iRnd w < 2 ∧ iTc w ≠ iTd w
      ∧ scaleValid (((s.unit 0 1).scalar (iSb w)).toNat % 2 ^ 32) = true) := by
  decide +kernel

theorem witness_MaxAndMinOfNanAndZeros :
    ∀ f ∈ [Fmt.fp32, .bf16, .fp64], decode f (nanOf f) = .nan ∧ decode f 0 ≠ .nan := by decide +kernel

theorem witness_ReservedOpcodeFaultsKernel :
    (sUnit (inst 0xFF 0 0 0 0 0 0 0) .running .running).issues 0 1 kern (inst 0xFF 0 0 0 0 0 0 0) 0x68 0xFF = true
    ∧ (sUnit (inst 0x68 0 0 0 0 0 0 0) .running .running).issues 0 1 kern (inst 0x68 0 0 0 0 0 0 0) 0x68 0xFF = true
    ∧ kern.die = 0 ∧ ∀ u ∈ kern.units, u < 64 := by decide +kernel

/-- A move of 64 bytes from the first operand to the address after the descriptor's: copy, fill, or one row. -/
@[irreducible] def moveW (opc : Nat) : List Nat :=
  [opc, 0, if opc = 0x12 then 0 else stgBase + 0x1000, stgBase + 0x2000, if opc = 0x11 then 64 * 2 ^ 32 + 2 else 64,
    if opc = 0x10 then 0 else 128 * 2 ^ 32 + 128]

/-- The legacy COPY of one 4 KiB block. -/
@[irreducible] def copyW : List Nat := [4, 2 ^ 48, stgBase + 0x1000, stgBase + 0x2000]

/-- A move that waits for its granules; one that read poison. -/
@[irreducible] def moving (err : Option (Nat × Nat)) : Cmd :=
  { opCmd 0x10 [] .moving with words := cmd (moveW 0x10), error := err }

theorem witness_MovesWriteAndComplete :
    (∀ opc ∈ [0x10, 0x12],
      let h := head (moveW opc)
      let w := h.cmdWords
      let s := sOp []
      s.Tidy ∧ s.clears 0 0 h moveCheck = true ∧ s.takes 0 0 (slot (moveW opc)) h false opc = true ∧ wf w 4 0 48 = 64 ∧ s.allLanded s.nextId = true
      ∧ s.open (wf w 3 0 52) 64 = true ∧ s.absentAt (wf w 3 0 52) = none ∧ s.absentAt (wf w 2 0 52) = none
      ∧ s.badRange (wf w 2 0 52) 64 = false ∧ (opc = 0x10 → wf w 2 0 52 + 64 ≤ wf w 3 0 52))
    ∧ (let h := head1 copyW
      let w := h.cmdWords
      let s := sOpOld []
      s.Tidy ∧ s.clears 0 2 h moveCheck = true ∧ s.takes 0 2 (slot copyW) h true 4 = true ∧ wf w 4 0 48 = 4096 ∧ s.allLanded s.nextId = true
      ∧ s.open (wf w 3 0 52) 4096 = true ∧ s.absentAt (wf w 3 0 52) = none ∧ s.absentAt (wf w 2 0 52) = none
      ∧ s.badRange (wf w 2 0 52) 4096 = false ∧ wf w 2 0 52 + 4096 ≤ wf w 3 0 52)
    ∧ (let h := head (moveW 0x11)
      let w := h.cmdWords
      let s := sOp []
      let src (r : Nat) : Nat := wf w 2 0 52 + r * wf w 5 0 32
      let dst (r : Nat) : Nat := wf w 3 0 52 + r * wf w 5 32 32
      s.Tidy ∧ s.clears 0 0 h moveCheck = true ∧ s.takes 0 0 (slot (moveW 0x11)) h false Opc.MOVE_2D = true
      ∧ wf w 4 0 32 = 2 ∧ wf w 4 32 32 = 64 ∧ s.allLanded s.nextId = true
      ∧ (∀ r, r < 2 → s.open (dst r) 64 = true ∧ s.absentAt (dst r) = none ∧ s.absentAt (src r) = none
        ∧ s.badRange (src r) 64 = false)
      ∧ (∀ r, r < 2 → ∀ p, p < 2 → r < p → dst r + 64 ≤ dst p ∨ dst p + 64 ≤ dst r)
      ∧ ∀ r, r < 2 → ∀ p, p < 2 → src r + 64 ≤ dst p ∨ dst p + 64 ≤ src r)
    ∧ ∀ err ∈ [none, some (Err.MEM_POISON, 0)],
      let c := moving err
      let s := sCmds [c]
      s.Tidy ∧ s.moveReady 0 = some c ∧ c.attempt = none ∧ c.error = err
      ∧ bitOn (s.fld (page 0 B.CAL) R.CAL_RESUME_RESUME) (s.callerOf 0 c.queue) = false := by
  have h : (sOp []).Tidy := State.tidy_of_tidyB _ (by decide +kernel)
  refine ⟨fun opc ho => ?_, ⟨State.tidy_of_tidyB _ (by decide +kernel), by decide +kernel⟩, ⟨h, by decide +kernel⟩,
    fun err he => ?_⟩
  · simp only [List.mem_cons, List.not_mem_nil, or_false] at ho
    obtain rfl | rfl := ho <;> exact ⟨h, by decide +kernel⟩
  · simp only [List.mem_cons, List.not_mem_nil, or_false] at he
    obtain rfl | rfl := he <;> exact ⟨sCmds_tidy _, by decide +kernel⟩

/-- A LAYER_OPEN of dies 0 and 1 with local cells 10 and 11 and the commit cell 12. -/
@[irreducible] def openW : List Nat := [0x18, 0, 3 * 2 ^ 36 + 12 * 2 ^ 42 + 2 * 2 ^ 56, 10]

/-- The bracket of a member after two commands, with overflow counts and errors; the commit-add list as said. -/
@[irreducible] def brk (ov : List (Nat × Nat)) (errs : List (Nat × Nat × Nat)) (adding added : Bool) : Bracket :=
  { id := 3, queue := 0, words := cmd openW, number := 0, fetch := 1, level := 1, taken := 2, overflow := ov, errors := errs,
    adding := adding, added := added }

/-- The group of that bracket. -/
@[irreducible] def grp : Group := ⟨3, 0, cmd openW, [], []⟩

/-- The bracket of a queue 0 of dies 0 and 1, whose LAYER_CLOSE commands wait. -/
@[irreducible] def sBr (x y : Bracket) : State :=
  let s := queueOn s0 1 0 0 0 0;
  { (s.setJob 0 0 { bracket := some x }).setJob 1 0 { bracket := some y } with
    groups := [grp], nextGroup := 4, nextId := 5
    cmds := [0, 1].map fun d => ({ id := d, die := d, queue := 0, context := 0, number := 2, words := cmd [0x19], stage := .close } : Cmd) }

theorem witness_BracketsOpenAndWait :
    (s0.Tidy ∧ s0.takes 0 0 (slot openW) (head openW) false Opc.LAYER_OPEN = true
      ∧ (openDies (head openW).cmdWords).contains 0 = true ∧ hSigEn (head openW).cmdWords = false ∧ s0.waits = [])
    ∧ (let s := { sBr (brk [] [] false false) (brk [] [] false false) with cmds := [] };
      s.Tidy ∧ s.takes 0 0 (slot [0x19]) (head [0x19]) false Opc.LAYER_CLOSE = true) :=
  ⟨⟨s0_tidy, by decide +kernel⟩, State.tidy_of_tidyB _ (by decide +kernel), by decide +kernel⟩

/-- A LAYER_OPEN as before, with a commit-add list of one entry. -/
@[irreducible] def addW : List Nat := openW ++ [stgBase + 0x5000, 1]

/-- The bracket of dies 0 and 1; die 0 has the list, whose entry adds 16 numbers to others, or stores them. -/
@[irreducible] def sAdd (store : Nat) : State :=
  let s := queueOn (part s0 0 0) 1 0 0 0 0
  let s := poke s [(stgBase + 0x5000, [stgBase + 0x6000, stgBase + 0x7000, store * 2 ^ 32 + 16]), (stgBase + 0x6000, [0x3F800000]),
    (stgBase + 0x7000, [0x40000000])];
  { (s.setJob 0 0 { bracket := some { brk [] [] false false with words := cmd addW } }).setJob 1 0 { bracket := some (brk [] [] false false) } with
    groups := [grp], nextGroup := 4, nextId := 5
    cmds := [0, 1].map fun d => ({ id := d, die := d, queue := 0, context := 0, number := 2, words := cmd [0x19], stage := .close } : Cmd) }

theorem witness_BracketsCommitReplayOrFail :
    (∀ o ∈ [(([] : List (Nat × Nat)), ([] : List (Nat × Nat × Nat)), Outcome.commit), ([(1, 1)], [], .replay),
        ([], [(1, Err.MEM_POISON, 0)], .failed Err.MEM_POISON)],
      let s := sBr (brk o.1 o.2.1 false false) (brk [] [] false false);
      s.Tidy ∧ s.groupOf 0 (ctxNo .primary) = some grp ∧ grp.ctx = ctxNo .primary
      ∧ (openDies grp.words).all (s.reached grp) = true ∧ (s.members grp).any (fun x => x.2.adding) = false
      ∧ s.outcomeOf grp = o.2.2 ∧ (∀ x ∈ s.members grp, caddList x.2.words = none)
      ∧ ∀ x ∈ s.members grp, s.sampled x.1 grp.ctx = false ∧ x.2.queue < 64 ∧ s.fld (page x.1 B.CAL) R.CAL_RESUME_RESUME = 0
        ∧ ((s.closeOf x.1 x.2).all fun y => y.attempt.isNone) = true)
    ∧ (∀ store ∈ [0, 1],
      let s := sAdd store
      let es := (s.members grp).flatMap fun x => match caddList x.2.words with
        | none => []
        | some l => tabulate (fun i => s.words (l.1 + 32 * i) 4) l.2
      let len (e : List Nat) : Nat := 4 * wf e 2 0 32
      let dst (e : List Nat) : Nat := wf e 1 0 52
      let apart (a n : Nat) (e : List Nat) : Bool := decide (a + n ≤ dst e ∨ dst e + len e ≤ a);
      s.Tidy ∧ s.groupOf 0 (ctxNo .primary) = some grp ∧ grp.ctx = ctxNo .primary
      ∧ (openDies grp.words).all (s.reached grp) = true ∧ (s.members grp).any (fun x => x.2.adding) = false
      ∧ s.outcomeOf grp = .commit ∧ (∃ x ∈ s.members grp, caddList x.2.words ≠ none) ∧ es.length = 1
      ∧ (∀ e ∈ es, s.open (dst e) (len e) = true ∧ s.absentAt (dst e) = none ∧ s.absentAt (caddSrc e) = none
        ∧ s.badRange (caddSrc e) (len e) = false ∧ wf e 2 0 32 = 16 ∧ wf e 2 32 1 = store)
      ∧ (∀ e ∈ es, ∀ f ∈ es, apart (caddSrc f) (len f) e = true)
      ∧ (∀ e ∈ es, ∀ x ∈ s.members grp, ((caddList x.2.words).all fun l => apart l.1 (32 * l.2) e) = true)
      ∧ (∀ x ∈ s.members grp, ((s.closeOf x.1 x.2).all fun y => s.allLanded y.id) = true)
      ∧ ∀ e : Fin 4, s.on (page e B.NUM) R.NUM_EVT_CTL_EN = false)
    ∧ ∀ added ∈ [true, false],
      let b := brk [] [] true false
      let s := sBr b (brk [] [] true added);
      s.Tidy ∧ s.groupOf 0 (ctxNo .primary) = some grp ∧ grp.ctx = ctxNo .primary
      ∧ (s.job 0 (ctxNo .primary)).bracket = some b ∧ b.adding = true ∧ b.added = false ∧ ((s.closeOf 0 b).all fun x => s.allLanded x.id) = true
      ∧ if added then ∀ x ∈ s.members grp, x.1 ≠ 0 → x.2.added = true else ∃ x ∈ s.members grp, x.1 ≠ 0 ∧ x.2.added = false := by
  refine ⟨fun o h => ?_, fun o h => ?_, fun o h => ?_⟩ <;> simp only [List.mem_cons, List.not_mem_nil, or_false] at h
  · obtain rfl | rfl | rfl := h <;> exact ⟨State.tidy_of_tidyB _ (by decide +kernel), by decide +kernel⟩
  · obtain rfl | rfl := h <;> exact ⟨State.tidy_of_tidyB _ (by decide +kernel), by decide +kernel⟩
  · obtain rfl | rfl := h <;> exact ⟨State.tidy_of_tidyB _ (by decide +kernel), by decide +kernel⟩

/-- A STEP_GATE: open cell 20, shut cell 21, two commands after it. -/
@[irreducible] def gateW : List Nat := [0x1A, 0, 20 + 21 * 2 ^ 16 + 2 ^ 32 + 2 * 2 ^ 48]

/-- `s0` where the gate of the step is done, open or shut. -/
@[irreducible] def sDone (opens : Nat) : State :=
  puts s0 [(page 0 B.JCX, R.JCX_NUM_STS_GATE_DONE 0, 1), (page 0 B.JCX, R.JCX_GATE_OPEN 0, opens)]

/-- A STEP_GATE of each die and context waits; the gates hold the words as said. -/
@[irreducible] def sGate (g : Gate) : State :=
  let s := s0;
  { (s.setGate 0 g).setGate 1 g with
    nextId := 9
    cmds := (List.range 8).map fun i =>
      ({ id := i, die := i / 2, queue := i % 2, context := i % 2, number := 0, words := cmd gateW, stage := .gate } : Cmd) }

theorem witness_GatesTakeTheirOutcome :
    (s0.Tidy ∧ s0.takes 0 0 (slot gateW) (head gateW) false Opc.STEP_GATE = true
      ∧ s0.on (page 0 B.JCX) (R.JCX_NUM_STS_GATE_DONE (s0.ctxOf 0 0)) = false)
    ∧ (∀ o ∈ [0, 1],
      (sDone o).Tidy ∧ (sDone o).takes 0 0 (slot gateW) (head gateW) false Opc.STEP_GATE = true
      ∧ (sDone o).on (page 0 B.JCX) (R.JCX_NUM_STS_GATE_DONE ((sDone o).ctxOf 0 0)) = true
      ∧ (sDone o).on (page 0 B.JCX) (R.JCX_GATE_OPEN ((sDone o).ctxOf 0 0)) = (o == 1)
      ∧ (∀ e : Fin 4, (sDone o).present e = true) ∧ (sDone o).waits = [])
    ∧ ∀ word ∈ [0, 5],
      let s := sGate { word := some word, job := some word };
      s.Tidy ∧ (s.gate (ctxNo .primary)).job = some word ∧ s.present 0 = true
      ∧ (s.gate (ctxNo .primary)).done.contains 0 = false ∧ s.gateCmds 0 (ctxNo .primary) ≠ []
      ∧ ∀ e ∈ s.presentDies, (s.job e (ctxNo .primary)).bracket = none := by
  refine ⟨⟨s0_tidy, by decide +kernel⟩, fun o h => ?_, fun o h => ?_⟩ <;>
    simp only [List.mem_cons, List.not_mem_nil, or_false] at h
  · obtain rfl | rfl := h <;> exact ⟨State.tidy_of_tidyB _ (by decide +kernel), by decide +kernel⟩
  · obtain rfl | rfl := h <;> exact ⟨State.tidy_of_tidyB _ (by decide +kernel), by decide +kernel⟩

theorem witness_GateWordIsTheOr (c : Ctx) :
    (sGate {}).Tidy ∧ ((sGate {}).gate (ctxNo c)).word = none ∧ (sGate {}).presentDies ≠ []
    ∧ ∀ d ∈ (sGate {}).presentDies, (sGate {}).gateCmds d (ctxNo c) ≠ [] := by
  refine ⟨State.tidy_of_tidyB _ (by decide +kernel), ?_⟩
  cases c <;> decide +kernel

/-- A layout of two sequence by two data positions in two stages; the package stands at the positions given, in stage 0, and
has sub-links to its peers in every group. -/
@[irreducible] def ringAt (s : State) (seq data : Nat) : State :=
  let s := puts s [(figPage, R.FIG_STS_STALE, 0), (clxPage, R.CLX_LAYOUT_DATA_SIZE, 2), (clxPage, R.CLX_LAYOUT_SEQ_SIZE, 2), (clxPage, R.CLX_LAYOUT_STAGES, 2),
    (clxPage, R.CLX_POS_SEQ_POS, seq), (clxPage, R.CLX_POS_DATA_POS, data), (clxPage, R.SHARD_W0_VALID 1, 1),
    (clxPage, R.SHARD_W0_BASE 1, stgBase + 0x1000), (clxPage, R.SHARD_W1_UNITS 1, 1)];
  join (join (join (join s 3 1 1) 5 3 2) 7 4 4) 9 2 0x30

/-- `ringAt` at position 0. -/
@[irreducible] def sRing : State := ringAt (sOpOld []) 0 0

/-- Collective commands by opcode: one unit, in and out of staging. -/
@[irreducible] def collW (opc : Nat) : List Nat :=
  if opc = 0x20 then [opc, 0, stgBase + 0x4000, stgBase + 0x5000, 2 ^ 32]
  else if opc = 0x23 ∨ opc = 0x24 then [opc, 0, stgBase + 0x1000, stgBase + 0x6000, 1, 9 * 2 ^ 16, 3]
  else if opc = 0x25 then
    [opc, 0, stgBase + 0x1000, stgBase + 0x1040, stgBase + 0x1080, stgBase + 0x10C0, stgBase + 0x4000, 1]
  else if opc = 0x26 then [opc, 0, stgBase + 0x3000]
  else [opc, 0, stgBase + 0x1000, stgBase + 0x4000, 1, 0x3F800000]

/-- The descriptor of a BUCKET_REDUCE of 1 MiB that keeps every chunk. -/
@[irreducible] def bktDesc : List Nat := [2 + 256, stgBase + 0x10000, stgBase + 0x200000, 2 ^ 14, 0x3F800000, 0, 0, 0]

/-- `sRing` with that descriptor. -/
@[irreducible] def sBkt : State := poke sRing [(stgBase + 0x3000, bktDesc)]

/-- A state in which a command meets its checks and finds nothing at CLX. -/
abbrev collOk (s : State) (q : Fin 64) (h : Head) : Prop :=
  s.Tidy ∧ s.clears 0 q h collCheck = true ∧ s.clxHolds = false ∧ s.clx.answers = [] ∧ s.clx.owed = []
  ∧ s.collUnlearned (collCheck s (s.mkCmd (0 : Fin 4) q h)).1 = false
  ∧ s.startError (collCheck s (s.mkCmd (0 : Fin 4) q h)).1 = none ∧ s.gatheredBefore (collCheck s (s.mkCmd (0 : Fin 4) q h)).1 = false
  ∧ s.cmds = []

theorem sRing_tidy : sRing.Tidy := State.tidy_of_tidyB _ (by decide +kernel)
theorem sBkt_tidy : sBkt.Tidy := State.tidy_of_tidyB _ (by decide +kernel)

/-- Where nothing is poisoned or fenced, no range is bad. -/
theorem badRange_clean (s : State)
    (h : s.poison = [] ∧ s.fencedPch = [] ∧ s.fencedStg = [] ∧ s.fencedWbf = [] ∧ s.retiring = none) (a n : Nat) :
    s.badRange a n = false := by
  obtain ⟨h1, h2, h3, h4, h5⟩ := h
  have k : ∀ b, s.bad b = false := by
    intro b
    have r : s.readBehind b = [] := by simp [State.readBehind, h5]
    simp only [State.bad, r, State.badAt, State.fencedAt, h1, h2, h3, h4]
    split <;> simp
  simp [State.badRange, k]

theorem sBkt_start (c : Cmd) (k : hOpc c.words = 0x26)
    (l : (sBkt.reductionOf c).chunk ≠ 0 ∧ finite32 (sBkt.reductionOf c).scale = true ∧ (sBkt.reductionOf c).stats = none)
    (l4 : sBkt.collAbsent c = none) :
    sBkt.startError c = none := by
  obtain ⟨l1, l2, l3⟩ := l
  have m : sBkt.unreachable Grp.ringNext = none ∧ sBkt.unreachable Grp.ringPrev = none := by decide +kernel
  simp [State.startError, k, l1, l2, l3, l4, m.1, m.2, badRange_clean sBkt (by decide +kernel)]

theorem sBkt_ok (q : Fin 64) (h : Head)
    (k : sBkt.clears 0 q h collCheck = true ∧ sBkt.clxHolds = false ∧ sBkt.clx.answers = [] ∧ sBkt.clx.owed = []
      ∧ sBkt.collUnlearned (collCheck sBkt (sBkt.mkCmd (0 : Fin 4) q h)).1 = false
      ∧ sBkt.gatheredBefore (collCheck sBkt (sBkt.mkCmd (0 : Fin 4) q h)).1 = false ∧ sBkt.cmds = [])
    (l : let c := (collCheck sBkt (sBkt.mkCmd (0 : Fin 4) q h)).1
      hOpc c.words = 0x26 ∧ ((sBkt.reductionOf c).chunk ≠ 0 ∧ finite32 (sBkt.reductionOf c).scale = true
        ∧ (sBkt.reductionOf c).stats = none) ∧ sBkt.collAbsent c = none) : collOk sBkt q h :=
  ⟨sBkt_tidy, k.1, k.2.1, k.2.2.1, k.2.2.2.1, k.2.2.2.2.1, sBkt_start _ l.1 l.2.1 l.2.2, k.2.2.2.2.2⟩

theorem witness_CollectivesStart :
    (∀ opc ∈ [0x20, 0x21, 0x22, 0x23, 0x24], collOk sRing 0 (head (collW opc))
      ∧ sRing.takes 0 0 (slot (collW opc)) (head (collW opc)) false opc = true)
    ∧ (collOk sBkt 0 (head (collW 0x26)) ∧ sBkt.takes 0 0 (slot (collW 0x26)) (head (collW 0x26)) false 0x26 = true)
    ∧ (collOk sBkt 2 (head1 [6, 0, stgBase + 0x3000])
      ∧ sBkt.takes 0 2 (slot [6, 0, stgBase + 0x3000]) (head1 [6, 0, stgBase + 0x3000]) true 6 = true)
    ∧ (let h := head (collW 0x25)
      let w := h.cmdWords
      let src (i : Nat) : Nat := wf w (2 + i) 0 52
      let dst := wf w 6 0 52
      let x (k i : Nat) : List Nat := codes16 (sRing.load (src k + 64 * i) 64)
      let y (i : Nat) : List Nat :=
        List.zipWith (fadd .fp32) (List.zipWith (fadd .fp32) (List.zipWith (fadd .fp32) (x 0 i) (x 1 i)) (x 2 i)) (x 3 i)
      collOk sRing 0 h ∧ sRing.takes 0 0 (slot (collW 0x25)) h false 0x25 = true ∧ sRing.heldWrites = []
      ∧ wf w 7 0 32 = 1 ∧ sRing.open dst 64 = true ∧ sRing.absentAt dst = none
      ∧ (∀ k, k < 4 → sRing.absentAt (src k) = none ∧ sRing.badRange (src k) 64 = false
        ∧ (src k + 64 ≤ dst ∨ dst + 64 ≤ src k))
      ∧ ∀ v ∈ y 0, finite32 v = true) := by
  refine ⟨fun opc h => ?_, ⟨sBkt_ok _ _ (by decide +kernel) (by decide +kernel), by decide +kernel⟩,
    ⟨sBkt_ok _ _ (by decide +kernel) (by decide +kernel), by decide +kernel⟩, ⟨sRing_tidy, by decide +kernel⟩, by decide +kernel⟩
  simp only [List.mem_cons, List.not_mem_nil, or_false] at h
  obtain rfl | rfl | rfl | rfl | rfl := h <;> exact ⟨⟨sRing_tidy, by decide +kernel⟩, by decide +kernel⟩

/-- A collective command that runs. -/
@[irreducible] def coll (opc sent : Nat) (landed : Bool) : Cmd :=
  { id := 0, die := 0, queue := 0, context := 0, number := 0, words := cmd (collW opc), stage := .collRun, begun := true
    desc := if opc = 0x26 then bktDesc else [], pass := 1, sent := sent, landed := landed }

/-- The header of an item of epoch `epoch` for chunk 1, from origin 1, for the region at 0x6000. -/
@[irreducible] def ihdr (epoch : Nat) (chunk : Nat) : ItemHdr :=
  ⟨BitVec.ofNat 16 epoch, 0, 0, 1, BitVec.ofNat 13 chunk, 0, 0, BitVec.ofNat 52 (stgBase + 0x6000), 0, 9, true, 3⟩

/-- An item of one unit. -/
@[irreducible] def item (epoch chunk : Nat) : Item := ⟨ihdr epoch chunk, leBytes 64 0x3F800000⟩

/-- An item of a kind: of 127 units for a bucket. -/
@[irreducible] def itemOf (kind epoch : Nat) : Item :=
  ⟨{ ihdr epoch 1 with last := false }, leBytes (if kind = 4 then 64 * 127 else 64) 0x3F800000⟩

/-- `s` with a message in the receive buffer of a sub-link. -/
@[irreducible] def withMsg (s : State) (e : Nat) (m : Msg) : State :=
  let w := msgFrames m
  s.setLink e { rx := (w.2.zipIdx 1).map fun x => ⟨w.1, x.2 == w.2.length, x.1.value⟩ }

/-- The opcode that takes the ring items of each kind. -/
@[irreducible] def kindOpc (kind : Nat) : Nat := if kind = 1 then 0x20 else if kind = 4 then 0x26 else if kind = 6 then 0x24 else 0x22

/-- A command of that opcode runs, and an item of the kind has arrived on sub-link 5. -/
@[irreducible] def sKind (kind epoch : Nat) : State :=
  { withMsg sBkt 5 (.item kind (itemOf kind epoch)) with cmds := [coll (kindOpc kind) 0 false], nextId := 5 }

/-- What an item of a kind must be for its command. -/
def itemFits (kind : Nat) (u : State) (i : Item) (c : Cmd) : Bool :=
  let k := i.hdr.chunk.toNat
  let r := u.reductionOf c
  let inside (units : Nat) (one : Bool) : Bool := itemInside i u.ringSize units one
  let readable : Bool := !u.badRange (r.src + (k * r.chunk + i.hdr.offset.toNat) * 64) (i.payload.length / 64 * 64)
  match kind with
  | 1 => inside (u.shardOf c).2 true && k != u.ringPos
  | 2 => inside r.chunk (!r.all) && k != u.prevPos && readable
  | 3 => inside r.chunk false && r.all && k != u.ringPos
  | 4 => inside r.chunk (!r.all) && (r.all || k != u.prevPos) && readable
  | _ => itemSized i (wf c.words 4 0 32) true
      && i.hdr.origin.toNat == (u.seqPos + u.seqSize - c.pass % u.seqSize) % u.seqSize

theorem getD_of_isSome {α : Type} (o : Option α) (d : α) (h : o.isSome = true) : o = some (o.getD d) := by
  cases o with
  | some a => rfl
  | none => cases h

theorem witness_RingItemsReachTheirCommand :
    (∀ k ∈ [1, 2, 3, 4, 6],
      let s := sKind k 0
      let i := itemOf k 0
      let o := s.clxItem 5 i.hdr (.item k i)
      let u := o.getD s
      let c := coll (kindOpc k) 0 false
      s.Tidy ∧ o = some u ∧ i.hdr.epoch.toNat = u.epoch ∧ u.headColl (kindChannel k) = some c
      ∧ i.hdr.step.toNat = c.step % 2 ^ 32 ∧ i.hdr.tensor.toNat = collTensor c.words c.desc ∧ u.collAbsent c = none
      ∧ u.cutShort 5 i c = false ∧ itemFits k u i c = true)
    ∧ ∀ k ∈ [1, 2, 3, 4, 6],
      let s := sKind k 1
      let i := itemOf k 1
      let o := s.clxItem 5 i.hdr (.item k i)
      let u := o.getD s
      s.Tidy ∧ o = some u ∧ i.hdr.epoch.toNat ≠ u.epoch
      ∧ u.headColl (kindChannel k) = some (coll (kindOpc k) 0 false) := by
  constructor <;> intro k h <;> simp only [List.mem_cons, List.not_mem_nil, or_false] at h <;>
    obtain rfl | rfl | rfl | rfl | rfl := h <;>
    exact ⟨State.tidy_of_tidyB _ (by decide +kernel), getD_of_isSome _ _ (by decide +kernel), by decide +kernel⟩

/-- A command runs, and a message has arrived on sub-link 5. -/
@[irreducible] def sCtl (c : Cmd) (m : Msg) : State := { withMsg sRing 5 m with cmds := [c], nextId := 5 }

/-- A SYNC_REMOTE to rank 3 that waits for its answer. -/
@[irreducible] def remote : Cmd :=
  { id := 0, die := 0, queue := 0, context := 0, number := 0, words := cmd [3, 0, 3, 9], stage := .syncRemote }

theorem witness_CollectivesCompleteOrAbort :
    (let s := sCtl (coll 0x23 1 true) (.abort .pipeNext (ihdr 0 1));
      s.Tidy ∧ (s.clxLanded.cmds.find? fun c => c.die == 0 && c.queue == 0 && c.number == 0 && s.clxLanded.collReady c)
        = some (coll 0x23 1 true))
    ∧ (let m := Msg.abort .pipeNext (ihdr 0 1)
      let s := sCtl (coll 0x23 1 false) m
      let o := s.clxItem 5 (ihdr 0 1) m
      let u := o.getD s
      s.Tidy ∧ o = some u ∧ (ihdr 0 1).epoch.toNat = u.epoch ∧ u.pathCmd .pipeNext (ihdr 0 1) = some (coll 0x23 1 false)
      ∧ u.clx.aborted = [])
    ∧ (let m := Msg.landed .pipeNext (ihdr 0 1) false false
      let s := sCtl (coll 0x23 1 false) m
      let o := s.clxItem 5 (ihdr 0 1) m
      let u := o.getD s
      s.Tidy ∧ o = some u ∧ (ihdr 0 1).epoch.toNat = u.epoch ∧ u.landedCmd 5 .pipeNext (ihdr 0 1) = some (coll 0x23 1 false))
    ∧ (let m := Msg.landed .sync (ihdr 0 1) false false
      let s := sCtl remote m
      let o := s.clxItem 5 (ihdr 0 1) m
      let u := o.getD s
      s.Tidy ∧ o = some u ∧ (ihdr 0 1).epoch.toNat = u.epoch ∧ u.landedCmd 5 .sync (ihdr 0 1) = some remote) :=
  ⟨⟨State.tidy_of_tidyB _ (by decide +kernel), by decide +kernel⟩,
    ⟨State.tidy_of_tidyB _ (by decide +kernel), getD_of_isSome _ _ (by decide +kernel), by decide +kernel⟩,
    ⟨State.tidy_of_tidyB _ (by decide +kernel), getD_of_isSome _ _ (by decide +kernel), by decide +kernel⟩,
    State.tidy_of_tidyB _ (by decide +kernel), getD_of_isSome _ _ (by decide +kernel), by decide +kernel⟩

/-- A SYNC item that sets or adds to cell 9 of die 1. -/
@[irreducible] def syncOf (set : Bool) : SyncItem := ⟨ihdr 0 0, 1, 9, set, 3⟩

/-- `sRing` with a PIPE item on sub-link 5. -/
@[irreducible] def sPipe : State := withMsg sRing 5 (.item 5 (item 0 0))

theorem witness_ItemsLandInMemoryAndCells :
    (let s := sKind 1 0
      let i := itemOf 1 0
      let o := s.clxItem 5 i.hdr (.item 1 i)
      let u := o.getD s
      let c := coll 0x20 0 false
      let a := wf c.words 2 0 52 + (i.hdr.chunk.toNat * (u.shardOf c).2 + i.hdr.offset.toNat) * 64
      let tag := wf c.words 3 0 52 + 16 * i.hdr.chunk.toNat
      s.Tidy ∧ o = some u ∧ i.hdr.epoch.toNat = u.epoch ∧ u.headColl 2 = some c ∧ i.hdr.step.toNat = c.step % 2 ^ 32
      ∧ i.hdr.tensor.toNat = collTensor c.words c.desc ∧ itemInside i u.ringSize (u.shardOf c).2 true = true
      ∧ u.collAbsent c = none ∧ u.cutShort 5 i c = false ∧ s.allLanded c.id = true
      ∧ i.hdr.chunk.toNat ≠ u.ringPos ∧ s.clx.answers = [] ∧ s.cmds = [c]
      ∧ s.on (page c.die B.NUM) R.NUM_EVT_CTL_EN = false ∧ s.open a i.payload.length = true ∧ s.open tag 16 = true
      ∧ (tag + 16 ≤ a ∨ a + i.payload.length ≤ tag))
    ∧ (let s := sPipe
      let i := item 0 0
      let o := s.clxItem 5 i.hdr (.item 5 i)
      let u := o.getD s
      let a := i.hdr.remote.toNat
      s.Tidy ∧ o = some u ∧ i.hdr.epoch.toNat = u.epoch ∧ s.clx.inbound = [] ∧ i.hdr.last = true ∧ i.hdr.offset = 0
      ∧ i.payload.length % 64 = 0 ∧ s.presentDies.head? = some 0 ∧ a % 64 = 0 ∧ s.named 0 0 a i.payload.length = true
      ∧ s.open a i.payload.length = true ∧ s.absentAt a = none ∧ s.allLanded s.nextId = true)
    ∧ ∀ set ∈ [true, false],
      let i := syncOf set
      let s := sCtl remote (.sync i)
      let o := s.clxItem 5 i.hdr (.sync i)
      let u := o.getD s
      s.Tidy ∧ o = some u ∧ i.hdr.epoch.toNat = u.epoch ∧ s.cellOf i.die 0 i.index = true ∧ s.present i.die = true
      ∧ s.waits = [] := by
  refine ⟨⟨State.tidy_of_tidyB _ (by decide +kernel), getD_of_isSome _ _ (by decide +kernel), by decide +kernel⟩,
    ⟨State.tidy_of_tidyB _ (by decide +kernel), getD_of_isSome _ _ (by decide +kernel), by decide +kernel⟩, fun set h => ?_⟩
  simp only [List.mem_cons, List.not_mem_nil, or_false] at h
  obtain rfl | rfl := h <;>
    exact ⟨State.tidy_of_tidyB _ (by decide +kernel), getD_of_isSome _ _ (by decide +kernel), by decide +kernel⟩

/-- A summary item of a leg, of stage 1, with the sums of slot 4. -/
@[irreducible] def sumItem (leg : SummaryLeg) : SummaryItem := ⟨ihdr 0 0, leg, 1, 2, true, [⟨4, 0x3FF0000000000000, 0, 3⟩]⟩

/-- Position 0, or the last one, of the ring, with a summary in progress and a summary item on sub-link 5. -/
@[irreducible] def sSum (last : Nat) (i : SummaryItem) : State :=
  { withMsg (ringAt s0 last last) 5 (.summary i) with clx := { summary := true, own := (⟨1, false⟩, [(4, ⟨0x3FF0000000000000, 0, 1⟩)]) } }

theorem witness_SummaryAndWeightsFollow :
    (∀ leg ∈ [SummaryLeg.accumulate, .passBack, .chainFromPrev, .chainFromNext],
      let i := sumItem leg
      let s := sSum (if leg = .accumulate then 1 else 0) i
      let o := s.clxItem 5 i.hdr (.summary i)
      let u := o.getD s
      s.Tidy ∧ o = some u ∧ i.hdr.epoch.toNat = u.epoch ∧ u.summaryFits i = true ∧ i.leg = leg
      ∧ (leg = .accumulate → u.ringSize ≤ u.ringPos + 1))
    ∧ (let s := { sRing with fig := { due := [3] } };
      s.Tidy ∧ 3 ∈ s.fig.due) := by
  refine ⟨fun leg h => ?_, State.tidy_of_tidyB _ (by decide +kernel), by decide +kernel⟩
  simp only [List.mem_cons, List.not_mem_nil, or_false] at h
  obtain rfl | rfl | rfl | rfl := h <;>
    exact ⟨State.tidy_of_tidyB _ (by decide +kernel), getD_of_isSome _ _ (by decide +kernel), by decide +kernel⟩

/-- A FIGURE_CHANGE to phase 2, a POSE that asks for pose 7, a figure change that waits. -/
@[irreducible] def figW : List Nat := [0x30, 0, 2]
@[irreducible] def poseW (governed : Nat) : List Nat := [0x31, 0, 7 * 2 ^ 32 + governed * 2 ^ 31 + 2 ^ 30 + 30]
@[irreducible] def figCmd : Cmd :=
  { id := 0, die := 0, queue := 0, context := 0, number := 0, words := cmd figW, stage := .figure }

/-- A change to slot 0 runs that drains sub-link 3, which has `n` frames unacknowledged; `more` commands beside it. -/
@[irreducible] def sChange (n : Nat) (more : List Cmd) : State :=
  { sRing.setLink 3 { replay := List.replicate n { channel := 2, last := true, payload := ⟨0, 0⟩, owner := none, cls := 0 } } with
    cmds := figCmd :: more, nextId := 5, fig := { running := some (0, 0, 2), drains := [3] } }

theorem witness_FigureChangesRunToTheirEnd :
    (∀ w ∈ [0, 4],
      let s := puts s0 [(figPage, R.FIG_ENTRY_WEIGHT 0 4, w)];
      s.Tidy ∧ (∀ p, s.pageHolds p = false)
      ∧ s.takes 0 0 (slot figW) (head figW) false Opc.FIGURE_CHANGE = true ∧ s.fig.running = none ∧ s.fig.waiting = []
      ∧ s.on clxPage R.CLX_EPOCH_STS_SWITCH_PENDING = false ∧ s.recordOpen 0 0 = true
      ∧ bitOn (s.fld (page (0 : Fin 4) B.CAL) R.CAL_RESUME_RESUME) (s.callerOf 0 0) = false
      ∧ (s.figureError (s.phaseSlot (wf (head figW).cmdWords 2 0 3))).isNone = (w == 0))
    ∧ (∀ n ∈ [0, 1], let s := sChange n [];
      s.Tidy ∧ (∀ p, s.pageHolds p = false)
      ∧ s.fig.running = some (0, 0, 2) ∧ s.fig.waiting = [] ∧ s.inflight = 0 ∧ s.fig.drains.all s.drained = (n == 0)
      ∧ s.cmds = [figCmd] ∧ figCmd.id = 0 ∧ figCmd.stage = .figure ∧ hOpc figCmd.words = Opc.FIGURE_CHANGE
      ∧ figCmd.attempt = none ∧ figCmd.level = 0 ∧ figCmd.die = 0 ∧ figCmd.queue = 0 ∧ s.recordOpen 0 0 = true
      ∧ bitOn (s.fld (page 0 B.CAL) R.CAL_RESUME_RESUME) (s.callerOf 0 0) = false)
    ∧ (let s := sChange 0 [{ coll 0x23 0 false with id := 1, queue := 1 }];
      s.Tidy ∧ s.fig.running = some (0, 0, 2) ∧ s.fig.waiting = [] ∧ s.inflight ≠ 0) := by
  refine ⟨fun w h => ?_, fun w h => ?_, State.tidy_of_tidyB _ (by decide +kernel), by decide +kernel⟩ <;>
    simp only [List.mem_cons, List.not_mem_nil, or_false] at h <;> obtain rfl | rfl := h <;>
    exact ⟨State.tidy_of_tidyB _ (by decide +kernel), no_page_holds (by decide +kernel), by decide +kernel⟩

/-- Accesses of host 0. -/
@[irreducible] def acc0 : Access := { port := 0 }

/-- A layout and a position are held, and due. -/
@[irreducible] def sLayout (l : Nat) : State :=
  { sRing with clx := { layout := some l, pos := some 0, switchDue := true, peers := [(3, 5)], partner := some 9 } }

/-- `up` with shard entry 1 valid or not. -/
@[irreducible] def sShard (v : Nat) : State := puts up [(clxPage, R.SHARD_W0_VALID 1, v)]

theorem witness_LayoutsWaitAndApply :
    (∀ v ∈ [0, 1],
      let s := sShard v;
      s.Tidy ∧ s.writes acc0 (clxPage + R.CLX_LAYOUT.off) = true ∧ s.writes acc0 (clxPage + R.CLX_POS.off) = true
      ∧ s.writes acc0 (figPage + (R.PEER_TABLE (3 : Fin 32)).off) = true ∧ s.writes acc0 (snpPage + R.SNP_PARTNER.off) = true
      ∧ s.writes acc0 (clxPage + (R.SHARD_W0 (1 : Fin 1024)).off) = true
      ∧ s.on clxPage (R.SHARD_W0_VALID (1 : Fin 1024)) = (v == 1))
    ∧ (∀ l ∈ [0, 2 ^ 32 + 2 ^ 16 + 1],
      let s := sLayout l;
      s.Tidy ∧ s.clx.switchDue = true ∧ s.inflight = 0 ∧ s.fig.running = none ∧ s.fig.waiting = [] ∧ s.clx.layout = some l
      ∧ s.clx.pos = some 0 ∧ s.clx.peers.all (fun x => decide (x.1 < 32)) = true ∧ (s.clx.peers.map Prod.fst).Nodup
      ∧ s.clx.peers ≠ [] ∧ s.clx.partner = some 9 ∧ l < 2 ^ 64 ∧ badLayout l 0 = (l == 0)) := by
  constructor <;> intro w h <;> simp only [List.mem_cons, List.not_mem_nil, or_false] at h <;> obtain rfl | rfl := h <;>
    exact ⟨State.tidy_of_tidyB _ (by decide +kernel), by decide +kernel⟩

/-- A package whose state region is pages 10 and 11 and whose banks lie from page 100 on, with sub-link 11 to its partner,
rank 2; the phase as said. -/
@[irreducible] def snpOn (phase : Nat) : State :=
  join (puts s0 ([(figPage, R.FIG_STS_STALE, 0), (figPage, R.FIG_STS_PHASE, phase), (snpPage, R.SNP_CTL_DOMAIN_ID, 1),
    (snpPage, R.EXTENT_TABLE_VALID 0, 1), (snpPage, R.EXTENT_TABLE_COUNT 0, 2), (snpPage, R.EXTENT_TABLE_FIRST_PAGE 0, 10),
    (snpPage, R.SNP_PBANK_PAGES_PAGES, 2), (snpPage, R.SNP_PARTNER_NEXT_VALID, 1), (snpPage, R.SNP_PARTNER_NEXT_RANK, 2)]
    ++ (List.range 4).map fun b => (snpPage, R.SNP_BANK_BASE b, 100 + 10 * b))) 11 2 64

/-- The four POSE commands have executed; that of die 3 asks for another pose where `other` is 1. -/
@[irreducible] def sPose (phase governed other : Nat) : State :=
  { snpOn phase with
    nextId := 5
    cmds := (List.range 4).map fun d =>
      ({ id := d, die := d, queue := 0, context := 0, number := 0, stage := .pose
         words := cmd (if d = 3 ∧ other = 1 then [0x31, 0, 8 * 2 ^ 32] else poseW governed) } : Cmd) }

theorem witness_PosesStopAndArm :
    (s0.Tidy ∧ s0.takes 0 0 (slot (poseW 0)) (head (poseW 0)) false Opc.POSE = true ∧ ∀ e : Fin 4, s0.knownAbsent e = false)
    ∧ ∀ x ∈ [(4, 0, 0), (4, 1, 0), (4, 0, 1), (2, 0, 0)],
      let s := sPose x.1 x.2.1 x.2.2
      let w := cmd (poseW x.2.1);
      s.Tidy ∧ s.poseReady = true ∧ ((s.poseOf 0).map Cmd.words) = some w
      ∧ ([0, 1, 2, 3].all fun d => (s.poseOf d).any fun c => wordAt c.words 2 == wordAt w 2) = (x.2.2 == 0)
      ∧ (wf w 2 31 1 == 1 && !s.on snpPage R.SNP_GOV_STS_JOB_DUE) = (x.2.1 == 1) ∧ s.poseError.isNone = (x.1 == 4) := by
  refine ⟨⟨s0_tidy, by decide +kernel⟩, fun x h => ?_⟩
  simp only [List.mem_cons, List.not_mem_nil, or_false] at h
  obtain rfl | rfl | rfl | rfl := h <;> exact ⟨State.tidy_of_tidyB _ (by decide +kernel), by decide +kernel⟩

/-- The promenade of pose 7 at its source. -/
@[irreducible] def prom : Prom := { pose := 7, keep := 0, pages := [10, 11], cell := some 30, accepted := true, sealSent := true }

/-- A promenade that arrives from rank 2, with `n` items of its one page landed. -/
@[irreducible] def inProm (n : Nat) : InProm := { origin := 2, pose := 7, pages := 1, bank := 2, got := List.range n }

/-- That promenade is sent, with page `p` on its way; a message has arrived on sub-link 11. -/
@[irreducible] def sProm (p : Option Nat) (m : Msg) : State :=
  { withMsg (snpOn 4) 11 m with snp := { prom := some prom }, sending := p }

/-- The other promenade arrives, and its bank fills. -/
@[irreducible] def sInProm (n : Nat) (m : Msg) : State :=
  { puts (withMsg (snpOn 4) 11 m) [(snpPage, bankField 2, Bank.FILLING)] with snp := { inProm := some (inProm n) } }

/-- A write to the second page of a bank at page `p` waits where `held` is 1. -/
@[irreducible] def holdIn (s : State) (held p : Nat) : State :=
  { s with heldWrites := if held = 1 then
      [{ owner := none, via := .engine, addr := (p + 1) * pageBytes, data := 0, mask := fullMask, atPage := true }] else [] }

/-- A PCTL item of pose 7. -/
@[irreducible] def pctl (origin pages domain : Nat) : PctlItem := ⟨0, 0, BitVec.ofNat 13 origin, 5, 7, pages, 0, BitVec.ofNat 16 domain⟩

/-- An item of page 0: its first granule, or the last one with a digest entry of `n` bytes. -/
@[irreducible] def pageItem (n : Nat) : PageItem :=
  ⟨0, 0, 2, 7, 0, if n = 0 then 0 else 64 * 511, List.replicate 4096 3, List.replicate n 7⟩

theorem tidy_snp {s : State} (h : s.Tidy) (x : Snp) (k : x.health = []) : State.Tidy { s with snp := x } :=
  { h with health := by show Table.wf _ x.health; rw [k]; exact Table.wf_nil _ }

theorem witness_PromenadePagesTravel :
    (let s := sProm none (.page 8 (pageItem 0));
      s.Tidy ∧ s.snp.prom = some prom ∧ prom.pages[prom.next]? = some 10 ∧ prom.accepted = true
      ∧ s.sending = none ∧ s.preserving.contains 10 = false ∧ s.promLinks ≠ [])
    ∧ (∀ n ∈ [1, 2], let s := { sProm (some 10) (.page 8 (pageItem 0)) with snp := { prom := some { prom with next := n } } };
      s.Tidy ∧ s.snp.prom = some { prom with next := n } ∧ s.sending = some 10
      ∧ (∀ e : Fin 32, ∀ f ∈ (s.link e).queue, f.channel ≠ 8) ∧ s.groupLinks Grp.partnerNext ≠ []
      ∧ decide (prom.pages.length ≤ n) = (n == 2))
    ∧ (∀ n ∈ [0, 64],
      let i := pageItem n
      let s := sInProm 0 (.page 8 i)
      let o := s.takeItem 11 (.page 8 i)
      let u := o.getD s
      let a := (s.bankPage 2 + 1 + i.pageNo) * pageBytes + 64 * i.offset
      let g := (s.bankPage 2 + 1 + s.fld snpPage R.SNP_PBANK_PAGES_PAGES) * pageBytes + 64 * i.pageNo
      s.Tidy ∧ o = some u ∧ s.snp.inProm = some (inProm 0) ∧ (inProm 0).pose = i.poseId.toNat
      ∧ (inProm 0).origin = i.origin.toNat ∧ (inProm 0).bank = 2 ∧ pageFits i (inProm 0).pages = true
      ∧ (inProm 0).sealed = none ∧ s.poison = [] ∧ s.fencedPch = [] ∧ a + 4096 ≤ dramEnd ∧ s.pageHolds (a / pageBytes) = false
      ∧ i.digest.length = n ∧ g + 64 ≤ dramEnd ∧ s.pageHolds (g / pageBytes) = false
      ∧ (s.phys g + 64 ≤ s.phys a ∨ s.phys a + 4096 ≤ s.phys g))
    ∧ (let m := Msg.pctl .abort (pctl 0 2 0) none
      let s := sProm none m
      let o := s.takeItem 11 m
      let u := o.getD s
      s.Tidy ∧ o = some u ∧ (pctl 0 2 0).kind = 0 ∧ prom.pose = (pctl 0 2 0).poseId.toNat ∧ (pctl 0 2 0).origin.toNat = u.rank)
    ∧ (let m := Msg.pctl .abort (pctl 2 2 0) none
      let s := sInProm 0 m
      let o := s.takeItem 11 m
      s.Tidy ∧ o = some (o.getD s) ∧ (pctl 2 2 0).kind = 0 ∧ s.snp.prom = none ∧ s.snp.inProm = some (inProm 0)
      ∧ (inProm 0).pose = (pctl 2 2 0).poseId.toNat ∧ (inProm 0).origin = (pctl 2 2 0).origin.toNat ∧ (inProm 0).bank < 4
      ∧ s.bankState (inProm 0).bank = Bank.FILLING) :=
  ⟨⟨State.tidy_of_tidyB _ (by decide +kernel), by decide +kernel⟩, fun n h => by
      simp only [List.mem_cons, List.not_mem_nil, or_false] at h
      obtain rfl | rfl := h <;> exact ⟨State.tidy_of_tidyB _ (by decide +kernel), by decide +kernel⟩,
    fun n h => by
      simp only [List.mem_cons, List.not_mem_nil, or_false] at h
      obtain rfl | rfl := h <;>
        exact ⟨State.tidy_of_tidyB _ (by decide +kernel), getD_of_isSome _ _ (by decide +kernel), by decide +kernel⟩,
    ⟨State.tidy_of_tidyB _ (by decide +kernel), getD_of_isSome _ _ (by decide +kernel), by decide +kernel⟩,
    State.tidy_of_tidyB _ (by decide +kernel), getD_of_isSome _ _ (by decide +kernel), by decide +kernel⟩

/-- The header that comes with SEAL. -/
@[irreducible] def bankHdr : BankHdr := ⟨7, 4, 0, 2, 2, 1, []⟩

theorem witness_PromenadeHandshake :
    (∀ domain ∈ [1, 2],
      let m := Msg.pctl .open (pctl 2 1 domain) none
      let s := sProm none m
      let o := s.takeItem 11 m
      let u := o.getD s
      s.Tidy ∧ o = some u ∧ (pctl 2 1 domain).kind = 0
      ∧ (u.inPromEnd none).holderRefuses (pctl 2 1 domain) = if domain = 1 then some Cause.DOMAIN else none)
    ∧ (∀ x ∈ [(PctlKind.accept, 0), (.refuse, 0), (.sealed, 0), (.sealed, 1)],
      let m := Msg.pctl x.1 (pctl 0 2 2) none
      let s := holdIn (sProm none m) x.2 100
      let o := s.takeItem 11 m
      s.Tidy ∧ o = some (o.getD s) ∧ (pctl 0 2 2).kind = 0 ∧ s.snp.prom = some prom ∧ prom.pose = (pctl 0 2 2).poseId.toNat
      ∧ prom.sealSent = true ∧ prom.keep < 2 ∧ s.bankLanded prom.keep prom.pages.length = (x.2 == 0))
    ∧ ∀ x ∈ [(0, 0), (512, 0), (512, 1)],
      let m := Msg.pctl .seal (pctl 2 1 2) (some bankHdr)
      let s := holdIn (sInProm x.1 m) x.2 120
      let o := s.takeItem 11 m
      s.Tidy ∧ o = some (o.getD s) ∧ s.snp.inProm = some (inProm x.1) ∧ (inProm x.1).pose = (pctl 2 1 2).poseId.toNat
      ∧ (inProm x.1).origin = (pctl 2 1 2).origin.toNat ∧ (inProm x.1).bank < 4 ∧ (inProm x.1).got.length = x.1
      ∧ (inProm x.1).pages = 1 ∧ s.bankLanded (inProm x.1).bank (inProm x.1).pages = (x.2 == 0) := by
  refine ⟨fun n h => ?_, fun n h => ?_, fun n h => ?_⟩ <;> simp only [List.mem_cons, List.not_mem_nil, or_false] at h
  · obtain rfl | rfl := h <;>
      exact ⟨State.tidy_of_tidyB _ (by decide +kernel), getD_of_isSome _ _ (by decide +kernel), by decide +kernel⟩
  · obtain rfl | rfl | rfl | rfl := h <;>
      exact ⟨State.tidy_of_tidyB _ (by decide +kernel), getD_of_isSome _ _ (by decide +kernel), by decide +kernel⟩
  · obtain rfl | rfl | rfl := h <;>
      exact ⟨State.tidy_of_tidyB _ (by decide +kernel), getD_of_isSome _ _ (by decide +kernel), by decide +kernel⟩

/-- Refill entry 0 of a kind, a role and a state, for pose 7, over sub-links; keep bank 0 and partner bank 2 are sealed with
pose `sealed`. -/
@[irreducible] def refOn (kind role state links sealedPose : Nat) : State :=
  puts (join (puts up [(figPage, R.FIG_STS_STALE, 0), (snpPage, R.SNP_PARTNER_NEXT_VALID, 1), (snpPage, R.SNP_PARTNER_NEXT_RANK, 2)]) 11 2 64)
    [(snpPage, R.REFILL_W0_VALID 0, 1), (snpPage, R.REFILL_W0_KIND 0, kind), (snpPage, R.REFILL_W0_ROLE 0, role),
     (snpPage, R.REFILL_W0_STATE 0, state), (snpPage, R.REFILL_W0_POSE_ID 0, 7), (snpPage, R.REFILL_W1_SUBLINKS 0, links),
     (snpPage, bankField 0, Bank.SEALED), (snpPage, bankField 2, Bank.SEALED), (snpPage, poseField 0, sealedPose),
     (snpPage, poseField 2, sealedPose)]

theorem witness_RefillsStart :
    (∀ kind ∈ [1, 2, 3], ∀ x ∈ [(1, 7), (0, 7), (0, 8)],
      let s := refOn kind x.1 0 (2 ^ 11) x.2;
      s.Tidy ∧ s.refillNext 0 kind = true ∧ s.fld snpPage R.SNP_DRAIN_STATE ≠ 2 ∧ (s.refillLinks 0).all s.refillLinkOk = true
      ∧ s.on snpPage (R.REFILL_W0_ROLE 0) = (x.1 == 1) ∧ (s.sourceBanks 0).isSome = (x.2 == 7))
    ∧ (∀ pose ∈ [7, 8],
      let s := refOn 4 0 0 0 pose;
      s.Tidy ∧ s.refillNext 0 4 = true ∧ s.fld snpPage R.SNP_DRAIN_STATE ≠ 2 ∧ s.primaryBusy = false
      ∧ (keepBanks.find? fun b => s.bankState b == Bank.SEALED && s.bankPose b == s.refillPose 0)
        = (if pose = 7 then some 0 else none)
      ∧ s.hdrPages 0 = s.npages ∧ s.bankIn 0 s.npages = true ∧ s.regionIn = true)
    ∧ ∀ pose ∈ [7, 8],
      let s := refOn 5 0 0 0 pose
      let of (st : Nat) : Option Nat := [0, 1, 2, 3].find? fun b => s.bankState b == st && s.bankPose b == s.refillPose 0 && s.bankIn b (s.hdrPages b);
      s.Tidy ∧ s.refillNext 0 5 = true ∧ s.fld snpPage R.SNP_DRAIN_STATE ≠ 2
      ∧ (of Bank.VERIFYING).or (of Bank.SEALED) = if pose = 7 then some 0 else none := by
  refine ⟨fun k hk x h => ?_, fun x h => ?_, fun x h => ?_⟩ <;> simp only [List.mem_cons, List.not_mem_nil, or_false] at h
  · simp only [List.mem_cons, List.not_mem_nil, or_false] at hk
    obtain rfl | rfl | rfl := hk <;> obtain rfl | rfl | rfl := h <;>
      exact ⟨State.tidy_of_tidyB _ (by decide +kernel), by decide +kernel⟩
  · obtain rfl | rfl := h <;> exact ⟨State.tidy_of_tidyB _ (by decide +kernel), by decide +kernel⟩
  · obtain rfl | rfl := h <;> exact ⟨State.tidy_of_tidyB _ (by decide +kernel), by decide +kernel⟩

/-- Entry 0 runs. -/
@[irreducible] def sRefill (kind role state links : Nat) : State :=
  { refOn kind role state links 7 with snp := { refills := [{ entry := 0, accepted := true }] } }

theorem witness_RefillsEnd :
    (let s := sRefill 5 0 1 0;
      s.Tidy ∧ s.refill 0 = some { entry := 0, accepted := true } ∧ s.refillReady 0 { entry := 0, accepted := true } = true)
    ∧ (let s := { s0 with snp := { prom := some prom, inProm := some (inProm 0) } };
      s.Tidy ∧ s.snp.prom = some prom ∧ s.groupLinks Grp.partnerNext = [] ∧ s.groupLinks Grp.partnerPrev = []
      ∧ (∀ y, s.snp.inProm = some y → y.bank < 4))
    ∧ (let s := join (puts (snpOn 4) [(snpPage, R.SNP_PARTNER_PREV_VALID, 1), (snpPage, R.SNP_PARTNER_PREV_RANK, 6)]) 13 6 128;
      s.Tidy ∧ s.groupLinks Grp.partnerNext ≠ [] ∧ s.groupLinks Grp.partnerPrev ≠ [] ∧ s.snp.inProm = none)
    ∧ (let s := sRefill 1 1 1 (2 ^ 20);
      s.Tidy ∧ s.refill 0 = some { entry := 0, accepted := true } ∧ s.refillKind 0 ≤ 3 ∧ (s.refillLinks 0).any s.slUp = false)
    ∧ (∀ st ∈ [0, 1, 2],
      let s := sRefill 1 1 st 0;
      s.Tidy ∧ s.writes acc0 (snpPage + (R.REFILL_W0 0).off) = true ∧ s.on snpPage (R.REFILL_W0_VALID 0) = true
      ∧ s.fld snpPage (R.REFILL_W0_STATE 0) = st ∧ (s.refill 0).isSome = true)
    ∧ (∀ abort ∈ [0, 1],
      let s := puts up [(snpPage, R.REFILL_W0_ABORT 0, abort)];
      s.Tidy ∧ s.writes acc0 (snpPage + (R.REFILL_W0 0).off) = true ∧ s.on snpPage (R.REFILL_W0_VALID 0) = false
      ∧ s.on snpPage (R.REFILL_W0_ABORT 0) = (abort == 1) ∧ s.writes acc0 (snpPage + R.SNP_DRAIN.off) = true) := by
  refine ⟨⟨State.tidy_of_tidyB _ (by decide +kernel), by decide +kernel⟩, ⟨tidy_snp s0_tidy _ rfl, rfl, by decide +kernel, by decide +kernel,
      fun y h => by cases h; decide +kernel⟩,
    ⟨State.tidy_of_tidyB _ (by decide +kernel), by decide +kernel⟩, ⟨State.tidy_of_tidyB _ (by decide +kernel), by decide +kernel⟩,
    fun st h => ?_, fun st h => ?_⟩ <;> simp only [List.mem_cons, List.not_mem_nil, or_false] at h
  · obtain rfl | rfl | rfl := h <;> exact ⟨State.tidy_of_tidyB _ (by decide +kernel), by decide +kernel⟩
  · obtain rfl | rfl := h <;> exact ⟨State.tidy_of_tidyB _ (by decide +kernel), by decide +kernel⟩

/-- Wavelength 0 of input 0 of port 0 is lit or not. -/
@[irreducible] def sLit (b : Nat) : State := { puts s0 [(opxPage 0, litField 0, b)] with relocking := [0] }

/-- The first waveguide of a diagonal link has lost a wavelength. -/
@[irreducible] def sLost : State := { up with diagLost := [(0, 0, 0)] }

/-- The first direction of a diagonal link has one lane left. -/
@[irreducible] def sLastLane : State :=
  { up with diagLost := ((List.range 180).drop 1).map fun i => (0, i / 9, i % 9) }

/-- A state in which FATAL holds. -/
@[irreducible] def stopped : State := { s0 with fatal := true }

theorem witness_LightAndDiagonals :
    (∀ b ∈ [0, 1],
      let s := sLit b;
      s.Tidy ∧ bitOn (s.fld (opxPage (0 : Fin 16)) (litField (0 : Fin 2))) 0 = (b == 1) ∧ s.relocking.contains 0 = true
      ∧ s.litCount 0 (1 - s.feed 0) ≤ s.litCount 0 (s.feed 0) ∧ s.fatal = false)
    ∧ (stopped.Tidy ∧ stopped.fatal = true)
    ∧ (s0.Tidy ∧ s0.diagLost.contains (0, 0, 0) = false ∧ s0.fatal = false) ∧ sLost.Tidy ∧ sLost.diagLost.contains (0, 0, 0) = true
    ∧ sLastLane.Tidy ∧ sLastLane.diagLost.contains (0, 0, 0) = false ∧ sLastLane.fatal = false
    ∧ ({ sLastLane with diagLost := sLastLane.diagLost ++ [(0, 0, 0)] } : State).diagLit 0 0 = false := by
  refine ⟨fun b h => ?_, ⟨State.tidy_of_tidyB _ (by decide +kernel), by decide +kernel⟩, ⟨s0_tidy, by decide +kernel⟩, State.tidy_of_tidyB _ (by decide +kernel), by decide +kernel,
    State.tidy_of_tidyB _ (by decide +kernel), by decide +kernel⟩
  simp only [List.mem_cons, List.not_mem_nil, or_false] at h
  obtain rfl | rfl := h <;> exact ⟨State.tidy_of_tidyB _ (by decide +kernel), by decide +kernel⟩

/-- A data frame with END set, an idle frame, and a control frame that acknowledges frame 4. -/
@[irreducible] def dframe (seq : Nat) (decoded : Bool) : OptFrame :=
  ⟨BitVec.ofNat 28 (2 ^ 25 + seq * 16), 5, decoded, 0, (!decoded).toNat⟩
@[irreducible] def iframe : OptFrame := ⟨BitVec.ofNat 28 (2 ^ 27), 0, true, 0, 0⟩
@[irreducible] def cframe (nak decoded : Bool) : OptFrame :=
  ⟨BitVec.ofNat 28 (2 ^ 26), BitVec.ofNat 512 (4 * 2 ^ 48 + nak.toNat * 2 ^ 47), decoded, 1, 0⟩

/-- `sSync` with frames 4 and 5 in the replay buffer of sub-link 3. -/
@[irreducible] def sSent : State :=
  sSync.setLink 3 { replay := [⟨0, true, ⟨0, 0⟩, some 1, 0, 4, 0, false⟩, ⟨0, true, ⟨0, 0⟩, some 2, 0, 5, 0, false⟩], txSeq := 5 }

theorem witness_FramesArriveInOrder :
    (sSync.Tidy ∧ sSync.slUp 3 = true
      ∧ ∀ x ∈ [(0, true, 1), (5, true, 6), (0xFFFF, true, 0), (0x8000, true, 0x8001), (0, false, 1)],
        let f := dframe x.1 x.2.1;
        f.decoded = x.2.1 ∧ frameType f.header = FrameType.DATA ∧ (frameSeq f.header + 65536 - (sSync.link 3).rxSeq) % 65536 = x.2.2)
    ∧ (iframe.decoded = true ∧ frameType iframe.header = FrameType.IDLE) ∧ sSent.Tidy ∧ sSent.slUp 3 = true
      ∧ (cframe true true).decoded = true ∧ frameType (cframe true true).header = FrameType.CONTROL
      ∧ ctlAck (cframe true true).payload.toNat = 4 ∧ ctlNak (cframe true true).payload.toNat = true ∧ (sSent.link 3).queue = []
      ∧ (cframe true false).decoded = false :=
  ⟨⟨sSync_tidy, by decide +kernel, by decide +kernel⟩, by decide +kernel, State.tidy_of_tidyB _ (by decide +kernel), by decide +kernel⟩

/-- Sub-link 3 in a state, enabled. -/
@[irreducible] def sSub (st : Nat) (retraining : Bool) : State :=
  (puts s0 [(opxPage 1, slField 3, st), (opxPage 1, slEnField 3, 1)]).setLink 3 { retraining := retraining }

/-- A training whose lanes of one direction pass, but for a number of them. -/
@[irreducible] def trained (failing : Nat) : TrainResult := ⟨(List.finRange 9).take failing, [], false, 5, 0⟩

theorem witness_SubLinksTrain :
    ((sSub Sl.TRAINING false).Tidy ∧ (sSub Sl.TRAINING false).fatal = false ∧ (sSub Sl.TRAINING false).slState 3 = Sl.TRAINING
      ∧ ((sSub Sl.TRAINING false).link 3).retraining = false
      ∧ ∀ n ∈ [0, 8], decide (2 ≤ (trainLanes (trained n).txFail (trained n).peerGen1 ((sSub Sl.TRAINING false).lanes 1 1).field).count)
        = (n == 0))
    ∧ (sSync.Tidy ∧ sSync.slUp 3 = true)
    ∧ ((sSub Sl.DOWN false).Tidy ∧ (sSub Sl.DOWN false).slState 3 = Sl.DOWN ∧ (sSub Sl.DOWN false).on (opxPage 1) (slEnField 3) = true
      ∧ (sSub Sl.DOWN false).portOut 1 = false)
    ∧ (sSub Sl.TRAINING true).Tidy ∧ (sSub Sl.TRAINING true).fatal = false ∧ (sSub Sl.TRAINING true).slState 3 = Sl.TRAINING
      ∧ ((sSub Sl.TRAINING true).link 3).retraining = true :=
  ⟨⟨State.tidy_of_tidyB _ (by decide +kernel), by decide +kernel⟩, ⟨sSync_tidy, by decide +kernel⟩,
    ⟨State.tidy_of_tidyB _ (by decide +kernel), by decide +kernel⟩, State.tidy_of_tidyB _ (by decide +kernel), by decide +kernel⟩

/-- The reflectometer of port 1 runs. -/
@[irreducible] def sOtdr : State := puts s0 [(opxPage 1, R.OPX_OTDR_STS_BUSY, 1)]

theorem witness_OpticalRegistersAndReflectometry :
    (∀ x ∈ [(Sl.OFF, false), (Sl.UP, true)],
      let s := puts s0 [(opxPage 1, slField 3, x.1), (opxPage 1, slEnField 3, x.2.toNat)];
      s.Tidy ∧ s.writes acc0 (opxPage (3 / 2) + R.OPX_PORT_CTL.off) = true ∧ s.portFenced (3 / 2) = false
      ∧ s.on (opxPage (3 / 2)) (slEnField 3) = x.2)
    ∧ (∀ b ∈ [0, 1],
      let s := sLit b;
      s.Tidy ∧ s.writes acc0 (opxPage (0 : Fin 16) + R.OPX_OTDR_CTL.off) = true ∧ s.on (opxPage (0 : Fin 16)) R.OPX_OTDR_STS_BUSY = false
      ∧ bitOn (s.fld (opxPage (0 : Fin 16)) (litField (s.feed (0 : Fin 16)))) 0 = (b == 1))
    ∧ sOtdr.Tidy ∧ sOtdr.on (opxPage (1 : Fin 16)) R.OPX_OTDR_STS_BUSY = true := by
  refine ⟨fun b h => ?_, fun b h => ?_, State.tidy_of_tidyB _ (by decide +kernel), by decide +kernel⟩ <;>
    simp only [List.mem_cons, List.not_mem_nil, or_false] at h <;> obtain rfl | rfl := h <;>
    exact ⟨State.tidy_of_tidyB _ (by decide +kernel), by decide +kernel⟩

/-- Caller 0 of die 0 is halted, or not; a command of it is dispatched, or not. -/
@[irreducible] def sHalt (h : Bool) (busy : Bool) : State :=
  { puts s0 [(page 0 B.CAL, R.CAL_RESUME_HALTED, h.toNat)] with nextId := 5, cmds := if busy then [figCmd] else [] }

/-- Accesses of host 1. -/
@[irreducible] def acc1 : Access := { port := 1 }

theorem witness_HostRunsQueues :
    (s0.Tidy ∧ s0.hears acc0 = true ∧ s0.hears acc1 = true ∧ s0.started = true ∧ s0.present 0 = true ∧ s0.lwState ≠ 2
      ∧ s0.qf 0 0 R.QUEUE_W1_EN = 1
      ∧ s0.qf 0 0 R.QUEUE_W1_PROGRAM = 0 ∧ s0.qf 0 0 R.QUEUE_W1_OWNER = acc0.port ∧ s0.qf 0 0 R.QUEUE_W1_OWNER ≠ acc1.port
      ∧ (∀ x ∈ [(7, true), (40, false)],
        decide (((BitVec.ofNat 32 x.1).toNat + 2 ^ 32 - s0.qf 0 0 R.QUEUE_W2_HEAD) % 2 ^ 32 ≤ 2 ^ s0.qf 0 0 R.QUEUE_W1_SIZE) = x.2)
      ∧ s0.qf 0 3 R.QUEUE_W1_EN = 0 ∧ s0.qf 0 3 R.QUEUE_W1_OUTSTANDING = 0 ∧ s0.qf 0 3 R.QUEUE_W1_RUN = 0
      ∧ s0.writes acc0 (page (0 : Fin 4) B.CAL + (R.QUEUE_W1 (0 : Fin 64)).off) = true
      ∧ s0.writes acc0 (page (0 : Fin 4) B.CAL + (R.QUEUE_W1 (3 : Fin 64)).off) = true)
    ∧ ∀ x ∈ [(true, false), (true, true), (false, false)],
      let s := sHalt x.1 x.2;
      s.Tidy ∧ s.writes acc0 (page (0 : Fin 4) B.CAL + R.CAL_RESUME.off) = true ∧ s.halted 0 0 = x.1
      ∧ bitOn (s.fld (page (0 : Fin 4) B.CAL) R.CAL_RESUME_RESUME) 0 = false ∧ s.on (page (0 : Fin 4) B.ERR) R.ERR_STS_STORM_PKG = false
      ∧ (s.cmds.any fun c => c.die == 0 && s.callerOf 0 c.queue == 0 && !c.orphan) = x.2 := by
  refine ⟨⟨s0_tidy, by decide +kernel⟩, fun x h => ?_⟩
  simp only [List.mem_cons, List.not_mem_nil, or_false] at h
  obtain rfl | rfl | rfl := h <;> exact ⟨State.tidy_of_tidyB _ (by decide +kernel), by decide +kernel⟩

/-- Die 2 is not present. -/
@[irreducible] def sGone (st : Nat) : State := puts s0 [(d2dFloor, R.D2D_DIE_CTL_STATE 2, st)]

theorem witness_HostsOperateOnCells :
    (s0.Tidy ∧ s0.writes acc0 (page (0 : Fin 4) B.SYN + (R.SYN_OP acc0.port).off) = true ∧ s0.present 0 = true
      ∧ s0.accepts 0 (.caller 2) = true ∧ (sGone 1).accepts 0 (.caller 2) = false
      ∧ s0.waits.all (fun w => w.cell != cellNo 0 5) = true)
    ∧ (sGone 1).Tidy ∧ (sGone 1).present 2 = false :=
  ⟨⟨s0_tidy, by decide +kernel⟩, State.tidy_of_tidyB _ (by decide +kernel), by decide +kernel⟩

/-- Partition entry 2 of the primary context is valid or not, and entry 0 of the cut-in context covers units 0 to 9; the
gate word of the step has formed or not. -/
@[irreducible] def sCtx (v : Nat) (gate : Bool) : State :=
  (puts s0 [(partBase 0 0, R.PARTITION_W0_VALID 2, v), (partBase 0 0, R.PARTITION_W1_LIMIT 2, 20), (partBase 0 1, R.PARTITION_W0_VALID 0, 1),
    (partBase 0 1, R.PARTITION_W1_LIMIT 0, 9)]).setGate 0 { word := if gate then some 0 else none }

theorem witness_ContextRegistersFollowWrites :
    ∀ x ∈ [(0, false), (1, true)],
      let s := sCtx x.1 x.2
      let jcx := page (0 : Fin 4) B.JCX;
      s.Tidy ∧ s.writes acc0 (partBase (0 : Fin 4) (ctxNo .primary) + (R.PARTITION_W0 (2 : Fin 16)).off) = true
      ∧ s.writes acc0 (jcx + (R.JCX_NUM_STS (ctxNo .primary)).off) = true ∧ s.writes acc0 (jcx + (R.JCX_STEP (ctxNo .primary)).off) = true
      ∧ s.on (partBase 0 0) (R.PARTITION_W0_VALID (2 : Fin 16)) = (x.1 == 1) ∧ s.sampled 0 0 = x.2
      ∧ s.overlaps 0 1 3 (s.fld (partBase 0 0) (R.PARTITION_W1_LIMIT (2 : Fin 16))) = true
      ∧ s.overlaps 0 1 12 (s.fld (partBase 0 0) (R.PARTITION_W1_LIMIT (2 : Fin 16))) = false := by
  intro x h
  simp only [List.mem_cons, List.not_mem_nil, or_false] at h
  obtain rfl | rfl := h <;> exact ⟨State.tidy_of_tidyB _ (by decide +kernel), by decide +kernel⟩

/-- A TAKEOVER of queues 0 and 5. -/
@[irreducible] def takeW : List Nat := [0x32, 0, 33]

/-- An array operation, a vector operation and a move of class LOW that wait, and queue 0 of class LOW whose head has waited. -/
@[irreducible] def lowCmd : Cmd :=
  { id := 2, die := 0, queue := 0, context := 0, number := 0, words := [], desc := aryDesc 1, cls := 2, stage := .arrayWait, waited := 1000 }
@[irreducible] def lowVec : Cmd := { lowCmd with id := 3, queue := 1, stage := .vectorWait }
@[irreducible] def lowMove : Cmd := { lowCmd with id := 4, queue := 2, stage := .moving }
@[irreducible] def sLow : State :=
  { puts s0 [(page 0 B.CAL, R.QUEUE_W1_CLASS 0, 2), (page 0 B.CAL, R.CAL_ARB_BOUND_BOUND, 10)] with
    nextId := 5, cmds := [lowCmd, lowVec, lowMove], queues := Table.set (fun _ => {}) s0.queues 0 { waited := 1000 } }

theorem witness_TakeoverMovesOwnersAndLowIsPromoted :
    (s0.Tidy ∧ s0.takes 0 0 (slot takeW) (head takeW) false Opc.TAKEOVER = true)
    ∧ sLow.Tidy ∧ (List.range 64).find? (sLow.dueHead 0 0) = some 0
      ∧ ((sLow.arrayRequests 0).find? fun c => c.cls == 2 && !c.promoted && decide (sLow.bound 0 < c.waited)) = some lowCmd
      ∧ ((sLow.cmds.filter fun c => c.die == 0 && c.stage == .vectorWait).find? fun c =>
          c.cls == 2 && !c.promoted && decide (sLow.bound 0 < c.waited)) = some lowVec
      ∧ ((sLow.moveRequests 0).find? fun c => c.cls == 2) = some lowMove
      ∧ sLow.fld (page 4 B.STG) R.STG_ARB_BOUND_BOUND < 5000 :=
  ⟨⟨s0_tidy, by decide +kernel⟩, State.tidy_of_tidyB _ (by decide +kernel), by decide +kernel⟩

/-- A marker token. -/
@[irreducible] def tok : Token := ⟨[0], 0, 7⟩

/-- A DISPATCH is due to be sampled, the buffers are disabled or run, and a marker of die 0 is on its way to the floor. -/
@[irreducible] def sMon (en : Nat) : State :=
  { (puts s0 [(hifPage 0, R.HIF_INT_CTL_BLOCK_INT_EN, 0), (hifPage 1, R.HIF_INT_CTL_BLOCK_INT_EN, 0), (page 0 B.PMU, R.PMU_BUF_CTL_EN, en), (page 0 B.NUM, R.NUM_EVT_CTL_EN, en), (page 4 B.PMU, R.PMU_BUF_CTL_EN, en),
      (page 4 B.PMU, R.PMU_BUF_CTL_SIZE, 4), (page 0 B.PMU, R.PMU_SAMPLE_CTL_EN, en)]).setSampler 0 { due := if en = 1 then some 3 else none }
    with tokens := [(0, tok)] }

theorem witness_MonitoringFollows :
    ∀ en ∈ [0, 1],
      let s := sMon en
      let a := page 0 B.CAL + C.CAL_LOW_PROMOTIONS.off;
      s.Tidy ∧ counterAddr (a / 0x1000000) (counterIndex a) = some a ∧ s.writes acc0 a = true ∧ s.fatal = false ∧ s.present 0 = true
      ∧ s.chained 0 (counterIndex a) = false ∧ s.on (hifPage 0) R.HIF_INT_CTL_BLOCK_INT_EN = false
      ∧ s.on (hifPage 1) R.HIF_INT_CTL_BLOCK_INT_EN = false ∧ (s.sampler 0).due = (if en = 1 then some 3 else none)
      ∧ s.writes acc0 (page (0 : Fin 4) B.NUM + R.NUM_EVT_CTL.off) = true ∧ s.on (page (0 : Fin 4) B.NUM) R.NUM_EVT_CTL_EN = (en == 1)
      ∧ s.writes acc0 (page (0 : Fin 5) B.PMU + R.PMU_BUF_CTL.off) = true ∧ s.on (page (0 : Fin 5) B.PMU) R.PMU_BUF_CTL_EN = (en == 1)
      ∧ s.writes acc0 (page (0 : Fin 4) B.PMU + R.PMU_SAMPLE_CTL.off) = true ∧ s.on (page (0 : Fin 4) B.PMU) R.PMU_SAMPLE_CTL_EN = (en == 1)
      ∧ (s.tokens.find? fun y => y.1 == 0) = some (0, tok) ∧ s.on (page 4 B.PMU) R.PMU_BUF_CTL_EN = (en == 1)
      ∧ (s.fld (page 4 B.PMU) R.PMU_BUF_HEAD_HEAD + 2 ^ 32 - s.fld (page 4 B.PMU) R.PMU_BUF_TAIL_TAIL) % 2 ^ 32 + 2
        ≤ 2 ^ s.fld (page 4 B.PMU) R.PMU_BUF_CTL_SIZE := by
  intro x h
  simp only [List.mem_cons, List.not_mem_nil, or_false] at h
  obtain rfl | rfl := h <;> exact ⟨State.tidy_of_tidyB _ (by decide +kernel), by decide +kernel⟩

theorem witness_HeaderFencesAndTails :
    ((sGone 1).Tidy ∧ (sGone 1).hears acc0 = true ∧ (page 2 B.VEC + 0x10) % 8 = 0 ∧ (page 2 B.VEC + 0x10) / 0x1000000 < 4
      ∧ (sGone 1).present ((page 2 B.VEC + 0x10) / 0x1000000) = false ∧ (sGone 1).started = true)
    ∧ (s0.Tidy ∧ (∀ a ∈ [0x10, 0x20, 0x28, 0xC000], s0.writes acc0 (page 0 B.VEC + a) = true ∧ (page 0 B.VEC + a) % 0x10000 = a)
      ∧ s0.writes acc0 (0x10000 * B.VEC + R.INT_EN.off) = true ∧ s0.debugOpen = true
      ∧ s0.writes acc0 (page (0 : Fin 4) B.ARY + R.FENCE.off) = true ∧ s0.hwFences.contains (page (0 : Fin 4) B.ARY) = false
      ∧ s0.on (page (0 : Fin 4) B.ARY) R.FENCE_HOST_FENCE = false
      ∧ s0.writes acc0 (page (0 : Fin 5) B.ERR + R.ERR_TAIL.off) = true ∧ s0.fld (page (0 : Fin 5) B.ERR) R.ERR_HEAD_HEAD = 0
      ∧ (s0.acts 0).waiting.length < 64 ∧ s0.writes acc0 (clxPage + R.CLX_STAT_CTL.off) = true) :=
  ⟨⟨State.tidy_of_tidyB _ (by decide +kernel), by decide +kernel⟩, s0_tidy, by decide +kernel⟩

/-- The aperture of port 0 lies in the staging window. -/
@[irreducible] def sBar : State := puts s0 [(hifPage 0, R.HIF_APERTURE_BASE, stgBase / pageBytes)]

/-- The drain of port 1 in a state, its link up or not, Bus Master Enable set or not. -/
@[irreducible] def sDrain (st link : Nat) (master : Bool) : State :=
  (puts s0 [(hifPage 1, R.HIF_DRAIN_CTL_STATE, st), (hifPage 1, R.HIF_LINK_STS_LINK_UP, link)]).setPort 1 { busMaster := master }

theorem witness_ApertureAndDrain :
    (sBar.Tidy ∧ sBar.hears acc0 = true ∧ sBar.apertureOk acc0.port 64 128 = true ∧ sBar.apertureOk acc0.port (2 ^ 36 - 1) 2 = false
      ∧ sBar.open (sBar.aperture acc0.port 64) 128 = true ∧ sBar.allLanded sBar.nextId = true)
    ∧ (∀ x ∈ [(0, 0, false), (0, 1, false), (0, 1, true), (1, 1, true)],
      let s := sDrain x.1 x.2.1 x.2.2;
      s.Tidy ∧ s.writes acc0 (hifPage (1 : Fin 2) + R.HIF_DRAIN_CTL.off) = true ∧ decide (s.drainState 1 = Drain.RUNNING) = (x.1 == 1)
      ∧ s.linkUp 1 = (x.2.1 == 1) ∧ s.hostReach 1 = x.2.2 ∧ s.fld (hifPage (1 : Fin 2)) R.HIF_DRAIN_SRC_SRC + 1 ≤ dramEnd / pageBytes
      ∧ s.fld (hifPage (1 : Fin 2)) R.HIF_DRAIN_CTL_PAGES_DONE = s.fld (hifPage (1 : Fin 2)) R.HIF_DRAIN_CTL_PAGES ∧ s.fatal = false) := by
  refine ⟨⟨State.tidy_of_tidyB _ (by decide +kernel), by decide +kernel⟩, fun x h => ?_⟩
  simp only [List.mem_cons, List.not_mem_nil, or_false] at h
  obtain rfl | rfl | rfl | rfl := h <;> exact ⟨State.tidy_of_tidyB _ (by decide +kernel), by decide +kernel⟩

/-- Vector 3 of port 0 pends, with MSI-X enabled. -/
@[irreducible] def sVec : State := s0.setPort 0 { busMaster := true, msix := true, vectors := [(2, (64, 5))], unmasked := [2], pendingV := [3] }

theorem witness_HostPortsComeAndGo :
    (let s := sDrain 0 0 false;
      s.Tidy ∧ s.linkUp 1 = false ∧ 6 ≤ s.startStep ∧ s.startResult ≠ 3 ∧ s.fatal = false
      ∧ s.hostBad 1 = false ∧ [4, 5, 6].contains 5 = true ∧ [1, 2, 4, 8].contains 4 = true ∧ (puts s [(capPage, R.CAP_FLOOR_UNITS_HP_OK, 1)]).hostBad 1 = true)
    ∧ (let s := sDrain 1 1 true; s.Tidy ∧ s.linkUp 1 = true ∧ s.fatal = false ∧ Table.wf (fun _ => 0) (s.port 1).bars)
    ∧ sVec.Tidy ∧ sVec.hears acc0 = true ∧ Table.wf (fun _ => (0, 0)) (sVec.port acc0.port).vectors
    ∧ (sVec.port acc0.port).unmasked.Pairwise (· < ·) ∧ (sVec.port acc0.port).pendingV.contains 3 = true ∧ (sVec.port acc0.port).msix = true :=
  ⟨⟨State.tidy_of_tidyB _ (by decide +kernel), by decide +kernel⟩, ⟨State.tidy_of_tidyB _ (by decide +kernel), by decide +kernel⟩,
    State.tidy_of_tidyB _ (by decide +kernel), by decide +kernel⟩

/-- An image of 256 bytes is complete, and a last waltz is DONE or not. -/
@[irreducible] def sImage (st : Nat) : State :=
  { puts s0 [(pwrPage, R.PWR_LW_STS_STATE, st)] with perhal := { imgLen := some 256, received := 256 } }

theorem witness_I3cTargetAnswers :
    (∀ st ∈ [0, 2], let s := sImage st;
      s.Tidy ∧ s.startStep ≠ 0 ∧ s.perhal.imgLen.isSome = true ∧ decide (s.lwState = 2) = (st == 2))
    ∧ s0.Tidy ∧ s0.startStep ≠ 0 ∧ capPage % 8 = 0 ∧ capPage / 0x10000 * 0x10000 = capPage ∧ pwrPage / 0x10000 * 0x10000 = pwrPage
    ∧ capPage ≠ pwrPage + R.PWR_LW_CTL.off ∧ clxPage / 0x10000 * 0x10000 = clxPage ∧ clxPage ≠ capPage ∧ clxPage ≠ pwrPage ∧ clxPage ≠ secPage
    ∧ s0.lwState ≠ 2 ∧ s0.perhal.imgLen = none ∧ (List.replicate 256 (7 : Byte)).length = 256 := by
  refine ⟨fun x h => ?_, s0_tidy, by decide +kernel⟩
  simp only [List.mem_cons, List.not_mem_nil, or_false] at h
  obtain rfl | rfl := h <;> exact ⟨State.tidy_of_tidyB _ (by decide +kernel), by decide +kernel⟩

/-- A frame of one item, or an idle frame, with its two checks, of which the data's is wrong where `good` is not set. -/
@[irreducible] def bframe (c : Carried) (seq : Nat) (good : Bool) : BundleFrame :=
  let start := if c = .idle then 0 else 1
  ⟨c, BitVec.ofNat 8 seq, BitVec.ofNat 8 start, BitVec.ofNat 16 (crc16 (bitList 32 (seq % 256 + 256 * start))),
    BitVec.ofNat 16 (crc16 (bitList 4096 5) + if good then 0 else 1), 5⟩

/-- A handshake frame with its check, wrong where `good` is not set. -/
@[irreducible] def hframe (ack : Nat) (nak good : Bool) : HandshakeFrame :=
  ⟨true, 3, BitVec.ofNat 8 ack, nak,
    BitVec.ofNat 16 (crc16 (true :: (bitList 16 3 ++ bitList 8 (ack % 256) ++ [nak] ++ bitList 22 0)) + if good then 0 else 1)⟩

/-- The retrain of bundle 0 of die 0 runs. -/
@[irreducible] def retrains : Action := ⟨⟨.bundleChanged, 0, B.D2D, 0, bundleKey 0 0, 0, 0⟩, false⟩

/-- Bundle 0 of die 0, which carries a stream, has frames 0 to 2 sent and none acknowledged, and keeps the first; `fails`
resends have failed, or it retrains, in a state of its lanes. Bundle 100, which carries packets, has a credit and nothing sent. -/
@[irreducible] def sBundle (fails : Nat) (retrain : Bool) (st : Nat) : State :=
  (((puts s0 [(d2dPage 0, R.LANE_MAP_GROUP 0, 2), (d2dPage 0, R.LANE_MAP_STATE 0, st)]).setBundle 0 0
    { sent := 2, next := 2, fails := fails, retrain := retrain, kept := [⟨0, some (bframe .stream 0 true)⟩, ⟨1, none⟩, ⟨2, none⟩]
      spent := 3, taken := 3, toggle := some false, failing := if st = Lane.DEGRADED then [0] else [] }).setBundle 0 100 { credits := 1 }).setActs
    0 { running := if retrain then some retrains else none }

/-- Its tests: on so many failing wires. -/
@[irreducible] def btest (n : Nat) (ctl : Bool) : BundleTest := ⟨0, (List.finRange 68).take n, ctl⟩

theorem witness_BundlesCheckAndRetrain :
    (let s := sBundle 0 false Lane.FULL
      let y := s.bundle 0 0
      let z := s.bundle 0 100
      let window := (y.sent + 256 - y.ack) % 256
      let place (n : Nat) : Nat := (n + 255 - y.ack) % 256
      let kept (n : Nat) := (y.kept.find? fun k => k.seq == n).bind Kept.frame
      let f := bframe .packets 0 true
      let g := bframe .packets 3 true
      let i := bframe .stream 0 true
      let carried (b : Nat) (f : BundleFrame) : Bool := s.groupTakes 0 b f && s.bundleCredit 0 b (onesOf f.itemStart.toNat);
      s.Tidy ∧ s.bundleRuns 0 0 = true ∧ s.bundleRuns 0 100 = true
      ∧ (frameIntact (bframe .idle 3 true) = true ∧ (bframe .idle 3 true).carries = .idle ∧ frameIntact (bframe .idle 3 false) = false)
      ∧ (frameIntact (bframe .packets 0 false) = false ∧ place y.next < 8 ∧ place y.next < window
        ∧ z.next = (z.ack + 1) % 256 ∧ z.sent = z.ack ∧ s.movedOf (s.movedKey 0 100) = [])
      ∧ (frameIntact f = true ∧ f.carries = .packets ∧ (f.seq.toNat + 255 - z.ack) % 256 = (z.sent + 256 - z.ack) % 256
        ∧ f.seq.toNat = (z.rxSeq + 1) % 256 ∧ carried 100 f = true)
      ∧ (frameIntact i = true ∧ i.carries ≠ .idle ∧ place i.seq.toNat < window ∧ place i.seq.toNat < 8
        ∧ i.seq.toNat = (y.rxSeq + 1) % 256 ∧ (s.relay 0 0 i).isSome = true ∧ kept 0 = some i ∧ sameBits i i = true ∧ sameBits i f = false)
      ∧ (frameIntact g = true ∧ g.carries ≠ .idle ∧ place g.seq.toNat = window ∧ carried 0 g = false)
      ∧ (let h := hframe 0 true true; handIntact h = true ∧ y.toggle ≠ some h.toggle ∧ y.credits + h.credits.toNat ≤ y.taken
        ∧ (h.ackSeq.toNat + 256 - y.ack) % 256 ≤ window ∧ h.nak = true ∧ (y.sent + 256 - h.ackSeq.toNat) % 256 ≠ 0
        ∧ z.taken < z.credits + h.credits.toNat)
      ∧ handIntact (hframe 0 true false) = false)
    ∧ (∀ n ∈ [0, 4],
      let s := sBundle n false Lane.FULL
      let t := s.setActs 0 { waiting := List.replicate 64 retrains };
      s.Tidy ∧ s.bundleRuns 0 0 = true ∧ decide (4 ≤ (s.bundle 0 0).fails) = (n == 4) ∧ (s.acts (bundleRing 0 0)).waiting = []
      ∧ t.Tidy ∧ t.bundleRuns 0 0 = true ∧ decide (4 ≤ (t.bundle 0 0).fails) = (n == 4) ∧ (t.acts (bundleRing 0 0)).waiting.length = 64)
    ∧ ∀ st ∈ [Lane.FULL, Lane.DEGRADED],
      let s := sBundle 0 true st
      let spare (i : Nat) : Nat := (s.spares 0 0).getD i 0
      let wire (l : Nat) : Nat := (((List.range 4).find? fun i => spare i == 64 + l).map (64 + ·)).getD l
      let bad (n : Nat) := (btest n false).failing.map Fin.val
      let lost (n : Nat) := (List.range 64).filter fun l => (bad n).contains (wire l)
      let free (n : Nat) := (List.range 4).filter fun i => spare i == 0 && !(bad n).contains (64 + i)
      let first48 (l : List Nat) : List Nat := ((List.range 68).filter fun w => !l.contains w).take 48;
      s.Tidy ∧ s.bundleRuns 0 0 = false ∧ (s.bundle 0 0).retrain = true ∧ s.present 0 = true ∧ s.fatal = false
      ∧ ((s.acts (bundleRing 0 0)).running.any fun a => retrainOf 0 0 a.event) = true ∧ (btest 0 true).ctlFails = true
      ∧ (btest 0 false).bundle = 0 ∧ s.bundleState 0 0 = st ∧ lost 0 = [] ∧ (lost 2 ≠ [] ∧ (lost 2).length ≤ (free 2).length)
      ∧ ((free 9).length < (lost 9).length ∧ (first48 (bad 9)).length = 48) ∧ (free 30).length < (lost 30).length
      ∧ (first48 (bad 30)).length < 48
      ∧ (st = Lane.DEGRADED → ((first48 (s.bundle 0 0).failing).any (bad 1).contains) = false
        ∧ ((first48 (s.bundle 0 0).failing).any (bad 2).contains) = true) := by
  refine ⟨⟨State.tidy_of_tidyB _ (by decide +kernel), by decide +kernel⟩, fun x h => ?_, fun x h => ?_⟩ <;>
    simp only [List.mem_cons, List.not_mem_nil, or_false] at h
  · obtain rfl | rfl := h <;> exact ⟨State.tidy_of_tidyB _ (by decide +kernel), by decide +kernel, by decide +kernel, by decide +kernel,
      State.tidy_of_tidyB _ (by decide +kernel), by decide +kernel⟩
  · obtain rfl | rfl := h <;> exact ⟨State.tidy_of_tidyB _ (by decide +kernel), by decide +kernel⟩

/-- 380 packet bundles of die 0 are fenced. -/
@[irreducible] def sNoBundles : State :=
  puts s0 ((List.range 380).reverse.map fun i => (d2dPage 0, R.LANE_MAP_STATE (78 + i), Lane.FENCED))

/-- Die 2 in a state whose absence the other dies have yet to learn. -/
@[irreducible] def sDue (st : Nat) : State := { sGone st with absentDue := [2] }

/-- Die 2 in a state, a reset requested. -/
@[irreducible] def sReq (st : Nat) : State :=
  puts s0 [(d2dFloor, R.D2D_DIE_CTL_STATE 2, st), (d2dFloor, R.D2D_DIE_CTL_RESET_REQ 2, 1)]

theorem witness_DiesLeaveAndRejoin :
    (s0.Tidy ∧ s0.present 2 = true ∧ s0.fatal = false ∧ s0.cmds = [] ∧ (s0.acts 4).waiting = [] ∧ s0.on (d2dPage (2 : Fin 4)) R.D2D_LINK_STS_FLOOR_LOST = false
      ∧ s0.fld (page (2 : Fin 4) B.CAL) R.CAL_RESUME_RESUME = 0 ∧ s0.dieState 2 = Die.PRESENT ∧ s0.absentDue.contains 2 = false
      ∧ s0.writes acc0 (d2dFloor + (R.D2D_DIE_CTL (2 : Fin 4)).off) = true)
    ∧ (sNoBundles.Tidy ∧ sNoBundles.present 0 = true ∧ sNoBundles.fatal = false ∧ sNoBundles.bundlesFail 0 = true
      ∧ sNoBundles.cmds = [] ∧ (sNoBundles.acts 4).waiting = [])
    ∧ (∀ st ∈ [1, 2, 3, 4, 5],
      let s := sGone st;
      s.Tidy ∧ s.present 2 = false ∧ s.dieState 2 = st ∧ s.absentDue.contains 2 = false
      ∧ s.on d2dFloor (R.D2D_DIE_CTL_RESET_REQ (2 : Fin 4)) = false ∧ s.writes acc0 (d2dFloor + (R.D2D_DIE_CTL (2 : Fin 4)).off) = true
      ∧ s.started = true ∧ s.fatal = false ∧ (s.recordDie 2).dieFails = false ∧ s.cmds = [])
    ∧ (∀ st ∈ [1, 5],
      let s := sDue st;
      s.Tidy ∧ s.dieState 2 = st ∧ s.absentDue.contains 2 = true ∧ s.fatal = false ∧ s.cmds = [] ∧ s.on d2dFloor (R.D2D_DIE_CTL_RESET_REQ (2 : Fin 4)) = false
      ∧ s.writes acc0 (d2dFloor + (R.D2D_DIE_CTL (2 : Fin 4)).off) = true)
    ∧ (sReq 2).Tidy ∧ (sReq 2).dieState 2 = Die.RESET ∧ (sReq 2).on d2dFloor (R.D2D_DIE_CTL_RESET_REQ (2 : Fin 4)) = true
      ∧ (sReq 2).fatal = false ∧ (sReq 2).cmds = [] := by
  refine ⟨⟨s0_tidy, by decide +kernel⟩, ⟨State.tidy_of_tidyB _ (by decide +kernel), by decide +kernel⟩, fun x h => ?_, fun x h => ?_,
    State.tidy_of_tidyB _ (by decide +kernel), by decide +kernel⟩ <;>
    simp only [List.mem_cons, List.not_mem_nil, or_false] at h
  · obtain rfl | rfl | rfl | rfl | rfl := h <;> exact ⟨State.tidy_of_tidyB _ (by decide +kernel), by decide +kernel⟩
  · obtain rfl | rfl := h <;> exact ⟨State.tidy_of_tidyB _ (by decide +kernel), by decide +kernel⟩

/-- A retirement of page 5 into a spare. -/
@[irreducible] def retir : Retiring := ⟨5, 3, 700000, true, 0, 0⟩

/-- A reserve of pages; 16 correctable errors in page 5; the scrub on or off; table entry 7 valid or not; the window of stack
3 open or not, page 5 preserved, a retirement on its way or not. -/
@[irreducible] def sMct (b : Nat) : State :=
  State.setActs { puts s0 [(mctPage 0, R.MCT_RETIRE_CTL_POOL_COUNT, 9), (mctPage 0, R.MCT_RETIRE_CTL_POOL_PAGE, 700000), (mctPage 3, R.MCT_SCRUB_CTL_EN, b),
      (mctPage 0, R.RETIRE_TABLE_VALID 7, 1 - b)] with
    ceCounts := [(5, 16)]
    ceFired := if b = 1 then [] else [5]
    windows := if b = 1 then [winKey 7 4 3] else []
    preserving := if b = 1 then [5] else []
    retiring := if b = 1 then none else some retir } 4 { running := if b = 1 then some ⟨⟨.stackRetrain, 4, 0, 0, 3, 0, 0⟩, false⟩ else none }

theorem witness_ScrubRetirementAndStacks :
    (let s := sMct 1
      let a := scrubAddr 3 (s.fld (mctPage (3 : Fin 16)) R.MCT_SCRUB_STS_POSITION);
      s.Tidy ∧ s.on (mctPage (3 : Fin 16)) R.MCT_SCRUB_CTL_EN = true ∧ 10 ≤ s.startStep ∧ s.fatal = false
      ∧ s.fld (mctPage (3 : Fin 16)) R.MCT_SCRUB_STS_POSITION < stackWords ∧ s.cmds = []
      ∧ s.fld (mctPage 0) R.MCT_RETIRE_CTL_POOL_PAGE + s.fld (mctPage 0) R.MCT_RETIRE_STS_USED < dramEnd / pageBytes
      ∧ ((s.acts 4).running.any fun a => a.event.kind == .stackRetrain && a.event.index == 3) = true
      ∧ (s.acts 4).waiting.length < 64 ∧ s.fencedAt a = false ∧ s.ceFired.contains 5 = false ∧ s.fencedPch = []
      ∧ s.fld (mctPage 0) R.MCT_RETIRE_CTL_CE_THRESH ≠ 0 ∧ s.fld (mctPage 0) R.MCT_RETIRE_CTL_CE_THRESH ≤ s.ceCount 5
      ∧ s.hwFences.contains (mctPage (3 : Fin 16)) = false ∧ s.retiring = none ∧ s.retireDue = []
      ∧ s.fld (mctPage 0) R.MCT_RETIRE_STS_USED < s.fld (mctPage 0) R.MCT_RETIRE_CTL_POOL_COUNT ∧ s.retireFree.isSome = true
      ∧ s.writes acc0 (mctPage 0 + (R.RETIRE_TABLE (7 : Fin 1024)).off) = true ∧ s.on (mctPage 0) (R.RETIRE_TABLE_VALID (7 : Fin 1024)) = false
      ∧ s.preserving.contains 5 = true ∧ s.windows.contains (winKey 7 4 (3 : Fin 16)) = true)
    ∧ (let s := sMct 0;
      s.Tidy ∧ s.on (mctPage (3 : Fin 16)) R.MCT_SCRUB_CTL_EN = false ∧ s.on (mctPage 0) (R.RETIRE_TABLE_VALID (7 : Fin 1024)) = true
      ∧ s.writes acc0 (mctPage 0 + (R.RETIRE_TABLE (7 : Fin 1024)).off) = true ∧ s.retiring = some retir ∧ s.retireDue = [] ∧ s.cmds = []
      ∧ s.ceFired.contains 5 = true
      ∧ retir.entry < 1024 ∧ retir.page < 2 ^ 20 ∧ retir.spare < 2 ^ 20 ∧ s.preserving.contains 5 = false
      ∧ s.windows.contains (winKey 7 4 (3 : Fin 16)) = false) :=
  ⟨⟨State.tidy_of_tidyB _ (by decide +kernel), by decide +kernel⟩, State.tidy_of_tidyB _ (by decide +kernel), by decide +kernel⟩

/-- An error of a kind, of unit 9 of die 2 or at granule 64. -/
@[irreducible] def err (k : ErrKind) : ErrEvent := ⟨k, 2, B.VEC, 0, 9, 64, 0⟩

/-- A fault of a vector unit waits in the action queue of die 2. -/
@[irreducible] def sAct : State := s0.setActs 2 { waiting := [⟨err .vuFault, false⟩] }

theorem witness_ErrorsAreContained :
    (s0.Tidy ∧ s0.fatal = false ∧ s0.present 2 = true ∧ s0.fencedAt (s0.phys ((err .memUe).address / 64 * 64)) = false
      ∧ (regionOf (s0.phys ((err .memUe).address / 64 * 64))).isSome = true ∧ (s0.acts 4).waiting = []
      ∧ (err .memUe).kind = .memUe ∧ (err .memUe).die = 2 ∧ (err .vuFault).kind = .vuFault ∧ (err .fatal).kind = .fatal
      ∧ (s0.acts 2).waiting = [])
    ∧ ((sGone 1).Tidy ∧ (sGone 1).present 2 = false)
    ∧ sAct.Tidy ∧ (sAct.acts 2).running = none ∧ (sAct.acts 2).waiting = ⟨err .vuFault, false⟩ :: [] ∧ (err .vuFault).die = 2 :=
  ⟨⟨s0_tidy, by decide +kernel⟩, ⟨State.tidy_of_tidyB _ (by decide +kernel), by decide +kernel⟩,
    State.tidy_of_tidyB _ (by decide +kernel), by decide +kernel⟩

/-- The start at a row: a quick start or not, with its scan enabled or not; the record in force has a failed scan of the floor
where it is quick. -/
@[irreducible] def sRow (n quick scan : Nat) : State :=
  { puts s0 [(capPage, R.CAP_START_STEP, n), (capPage, R.CAP_START_RESULT, 0), (capPage, R.CAP_START_KIND, quick),
      (secPage, R.SEC_FW_STS_ZEROISED, scan)] with found := { floor := quick == 1 } }

theorem witness_StartGoesRowByRow :
    ∀ x ∈ [(1, 0, 0), (2, 0, 0), (3, 0, 0), (3, 1, 0), (4, 0, 0), (4, 0, 1), (5, 0, 0), (8, 0, 0), (8, 0, 1), (9, 1, 0), (13, 0, 0), (14, 0, 0)],
      let s := sRow x.1 x.2.1 x.2.2
      let n := s.startStep;
      s.Tidy ∧ s.startResult ≠ 3 ∧ s.paused = false ∧ s.fatal = false ∧ n = x.1
      ∧ ((n = 3 ∧ s.quickStart = true ∧ s.found.floor = true) ↔ x = (3, 1, 0))
      ∧ (s.quickStart && [4, 8, 10, 11].contains n) = false ∧ (n = 5 → s.firmwareCheck ≠ 0)
      ∧ (n = 4 ∨ n = 8 → s.scanEnabled = (x.2.2 == 1)) := by
  intro x h
  simp only [List.mem_cons, List.not_mem_nil, or_false] at h
  obtain rfl | rfl | rfl | rfl | rfl | rfl | rfl | rfl | rfl | rfl | rfl | rfl := h <;>
    exact ⟨State.tidy_of_tidyB _ (by decide +kernel), by decide +kernel⟩

/-- A last waltz runs at an element, with its scan enabled or not. -/
@[irreducible] def sWaltz (n scan : Nat) : State :=
  puts s0 [(pwrPage, R.PWR_LW_STS_STATE, 1), (pwrPage, R.PWR_LW_STS_ELEMENT, n), (secPage, R.SEC_FW_STS_ZEROISED, scan), (secPage, R.SEC_LC_STATE, 2)]

theorem witness_LastWaltzRunsToItsRecord :
    ((s0.Tidy ∧ up.Tidy) ∧ ∀ s ∈ [s0, up],
      s.writes acc0 (pwrPage + R.PWR_LW_CTL.off) = true ∧ s.started = true ∧ s.lwRuns = false)
    ∧ (s0.lwRefused = true ∧ up.lwRefused = false)
    ∧ (let v : Word := 0x57A1000000000000; bits v.toNat 48 16 = 0x57A1 ∧ bitOn v.toNat 0 = false)
    ∧ (∀ v ∈ [0x3FF, 0x3F7], let s := puts s0 [(pwrPage, R.PWR_RAIL_STS_VALID, v)];
      s.Tidy ∧ s.startStep ≠ 0 ∧ s.fatal = false ∧ bitOn (s.fld pwrPage R.PWR_RAIL_STS_VALID) 3 = (v == 0x3FF))
    ∧ ∀ x ∈ [(1, 0), (5, 0), (5, 1), (6, 0), (6, 1), (7, 0), (8, 0)],
      let s := sWaltz x.1 x.2;
      s.Tidy ∧ s.lwRuns = true ∧ s.paused = false ∧ s.fatal = false ∧ s.fld pwrPage R.PWR_LW_STS_ELEMENT = x.1
      ∧ (x.1 = 5 ∨ x.1 = 6 → s.scanEnabled = (x.2 == 1)) ∧ s.perhal.noKeys = false ∧ 1 ≤ s.lifeCycle ∧ s.lifeCycle ≤ 3
      ∧ bitOn (s.fld pwrPage R.PWR_RAIL_STS_VALID) 3 = true := by
  refine ⟨⟨⟨s0_tidy, State.tidy_of_tidyB _ (by decide +kernel)⟩, by decide +kernel⟩, by decide +kernel, by decide +kernel,
    fun x h => ?_, fun x h => ?_⟩ <;> simp only [List.mem_cons, List.not_mem_nil, or_false] at h
  · obtain rfl | rfl := h <;> exact ⟨State.tidy_of_tidyB _ (by decide +kernel), by decide +kernel⟩
  · obtain rfl | rfl | rfl | rfl | rfl | rfl | rfl := h <;> exact ⟨State.tidy_of_tidyB _ (by decide +kernel), by decide +kernel⟩

/-- The package draws 4,000 W, or the sensor 0 of die 2 reads 97 °C. -/
@[irreducible] def sHot (k v : Nat) : State := { s0 with thermal := { reading := Table.set (fun _ => 0) [] k v } }

theorem witness_ThrottleFollowsSensors :
    (s0.Tidy ∧ s0.testing = false ∧ s0.startStep ≠ 0 ∧ s0.fatal = false ∧ s0.present 2 = true ∧ s0.dieBelow 2 95 = true
      ∧ s0.dieBelow 2 90 = true ∧ s0.thermal.stack = false ∧ s0.cmds = [] ∧ (s0.acts 4).waiting = [] ∧ s0.reading 32 < 2200)
    ∧ (stopped.Tidy ∧ stopped.fatal = true)
    ∧ (let s := { sWaltz 1 0 with thermal := { reading := Table.set (fun _ => 0) [] 32 3000 } };
      s.Tidy ∧ s.testing = true ∧ s.paused = false ∧ s.fatal = false ∧ 2400 < s.reading 32)
    ∧ ((sHot 66 97).Tidy ∧ (sHot 66 97).present 2 = true ∧ (sHot 66 97).dieBelow 2 95 = false)
    ∧ (∀ st ∈ [3, 4, 5], (sGone st).Tidy ∧ (sGone st).dieState 2 = st ∧ (sGone st).fatal = false ∧ (sGone st).cmds = []
      ∧ ((sGone st).acts 4).waiting = [])
    ∧ (sHot 32 4000).Tidy ∧ (sHot 32 4000).fatal = false ∧ 3600 < (sHot 32 4000).reading 32 := by
  refine ⟨⟨s0_tidy, by decide +kernel⟩, ⟨State.tidy_of_tidyB _ (by decide +kernel), by decide +kernel⟩,
    ⟨State.tidy_of_tidyB _ (by decide +kernel), by decide +kernel⟩, ⟨State.tidy_of_tidyB _ (by decide +kernel), by decide +kernel⟩, fun x h => ?_, State.tidy_of_tidyB _ (by decide +kernel), by decide +kernel⟩
  simp only [List.mem_cons, List.not_mem_nil, or_false] at h
  obtain rfl | rfl | rfl := h <;> exact ⟨State.tidy_of_tidyB _ (by decide +kernel), by decide +kernel⟩

/-- Port 1 asks for an operation with an argument; the life cycle in force, the keys, the fused SVN as said. -/
@[irreducible] def sReqOp (op arg lc : Nat) (keys : Bool) : State :=
  { puts s0 [(secPage, R.SEC_REQ_OP 1, op), (secPage, R.SEC_REQ_ARG 1, arg), (secPage, R.SEC_REQ_STATE 1, 1), (secPage, R.SEC_LC_STATE, lc)] with
    perhal := { order := [1], dik := if keys then some [1] else none, ak := if keys then some [2] else none
                sessions := if op = 6 then [1] else [], img := if op = 5 ∧ arg = 1 then [(4, 3)] else [] }
    fuses := { lc := lc } }

theorem witness_RequestsReadAndExtend :
    (∀ n ∈ [7, 8, 15, 16],
      let s := sReqOp 1 n 2 true; s.Tidy ∧ s.asks 1 1 = true ∧ s.fld secPage (R.SEC_REQ_ARG (1 : Fin 2)) = n)
    ∧ ∀ op ∈ [2, 3, 4], ∀ keys ∈ [true, false],
      let s := sReqOp op 0 2 keys;
      s.Tidy ∧ s.asks 1 op = true ∧ s.perhal.ak = (if keys then some [2] else none) ∧ s.perhal.dik = if keys then some [1] else none := by
  constructor <;> intro x h <;> simp only [List.mem_cons, List.not_mem_nil, or_false] at h
  · obtain rfl | rfl | rfl | rfl := h <;> exact ⟨State.tidy_of_tidyB _ (by decide +kernel), by decide +kernel⟩
  · intro k hk
    simp only [List.mem_cons, List.not_mem_nil, or_false] at hk
    obtain rfl | rfl | rfl := h <;> obtain rfl | rfl := hk <;> exact ⟨State.tidy_of_tidyB _ (by decide +kernel), by decide +kernel⟩

theorem witness_FusesAndKeysFollow :
    (∀ a ∈ [0, 1],
      let s := sReqOp 5 a 2 true; s.Tidy ∧ s.asks 1 5 = true ∧ decide (s.fuses.svn < min 64 (s.imageNat 4 4)) = (a == 1))
    ∧ (∀ n ∈ [5, 1, 4],
      let s := sReqOp 6 n 2 true;
      s.Tidy ∧ s.asks 1 6 = true ∧ s.fld secPage (R.SEC_REQ_ARG (1 : Fin 2)) = n ∧ s.fuses.lc = 2)
    ∧ (∀ lc ∈ [1, 2], ∀ keys ∈ [true, false],
      let s := sReqOp 6 (lc + 1) lc keys;
      s.Tidy ∧ s.asks 1 6 = true ∧ s.fld secPage (R.SEC_REQ_ARG (1 : Fin 2)) = lc + 1 ∧ s.fuses.lc = lc
      ∧ s.perhal.dik = (if keys then some [1] else none) ∧ (keys = true → s.tokenOk 1 (lc + 1) [1] = false))
    ∧ (∀ lc ∈ [0, 1, 3, 2, 4],
      let s := sReqOp 1 0 lc true; s.Tidy ∧ s.startStep ≠ 0 ∧ s.lifeCycle = lc)
    ∧ ∀ op ∈ [5, 6],
      let s := sReqOp op 0 2 true;
      s.Tidy ∧ s.linkUp 1 = true ∧ s.scanAsked = false ∧ s.fatal = false ∧ s.perhal.ak.isSome = true ∧ s.perhal.dik.isSome = true
      ∧ s.perhal.sessions.contains 1 = (op == 6) ∧ s.linkUp 0 = true ∧ (sDrain 0 0 false).Tidy ∧ (sDrain 0 0 false).linkUp 1 = false := by
  refine ⟨fun x h => ?_, fun x h => ?_, fun x h y k => ?_, fun x h => ?_, fun x h => ?_⟩ <;>
    simp only [List.mem_cons, List.not_mem_nil, or_false] at h
  · obtain rfl | rfl := h <;> exact ⟨State.tidy_of_tidyB _ (by decide +kernel), by decide +kernel⟩
  · obtain rfl | rfl | rfl := h <;> exact ⟨State.tidy_of_tidyB _ (by decide +kernel), by decide +kernel⟩
  · simp only [List.mem_cons, List.not_mem_nil, or_false] at k
    obtain rfl | rfl := h <;> obtain rfl | rfl := k <;> exact ⟨State.tidy_of_tidyB _ (by decide +kernel), by decide +kernel⟩
  · obtain rfl | rfl | rfl | rfl | rfl := h <;> exact ⟨State.tidy_of_tidyB _ (by decide +kernel), by decide +kernel⟩
  · obtain rfl | rfl := h <;> exact ⟨State.tidy_of_tidyB _ (by decide +kernel), by decide +kernel, by decide +kernel,
      by decide +kernel, by decide +kernel, by decide +kernel, by decide +kernel, by decide +kernel,
      State.tidy_of_tidyB _ (by decide +kernel), by decide +kernel⟩

/-! The checks of WellFormed, each with a command that it takes and one that it refuses. -/

theorem test_wf_slot : (Instr.nop 0 0 { words := List.replicate 8 0 }).wf = true
    ∧ (Instr.nop 0 0 { words := List.replicate 9 0 }).wf = false := by decide
theorem test_wf_item : (Instr.reduce 0 ⟨ihdr 1 1, List.replicate 64 0⟩).wf = true
    ∧ (Instr.reduce 0 ⟨ihdr 1 1, List.replicate 63 0⟩).wf = false := by decide +kernel
theorem test_wf_bar2Read : (Instr.bar2Read acc0 (2 ^ 36 - 8) 8).wf = true ∧ (Instr.bar2Read acc0 (2 ^ 36 - 8) 9).wf = false := by decide
theorem test_wf_bar2Write : (Instr.bar2Write acc0 (2 ^ 36 - 1) [0]).wf = true
    ∧ (Instr.bar2Write acc0 (2 ^ 36 - 1) [0, 0]).wf = false := by decide
theorem test_wf_registerWrite : (Instr.registerWrite acc0 (2 ^ 27 - 8) 0).wf = true
    ∧ (Instr.registerWrite acc0 (2 ^ 27) 0).wf = false := by decide
theorem test_wf_fenceWrite : (Instr.fenceWrite acc0 2047 0).wf = true ∧ (Instr.fenceWrite acc0 2048 0).wf = false := by decide
theorem test_wf_intEnWrite : (Instr.intEnWrite acc0 2047 0).wf = true ∧ (Instr.intEnWrite acc0 2048 0).wf = false := by decide
theorem test_wf_controlFrame :
    ∀ c ∈ [Instr.dataFrame 0, Instr.controlFrame 0, fun f => Instr.idleFrame ⟨0, f⟩],
      (c ⟨0, 0, true, 3, 0⟩).wf = true ∧ (c ⟨0, 0, false, 0, 2⟩).wf = true ∧ (c ⟨0, 0, true, 0, 2⟩).wf = false := by
  simp only [List.forall_mem_cons]
  decide
theorem test_wf_bundleDataFrame : (Instr.bundleDataFrame 0 0 ⟨.idle, 0, 0, 0, 0, 0⟩).wf = true
    ∧ (Instr.bundleDataFrame 0 0 ⟨.idle, 0, 1, 0, 0, 0⟩).wf = false := by decide +kernel
theorem test_wf_summary :
    let sum (slot : Fin 64) : SlotSum := ⟨slot, 0, 0, 1⟩;
    (Instr.summary 0 ⟨ihdr 1 1, .accumulate, 8191, 0, false, [sum 1, sum 2]⟩).wf = true
    ∧ (Instr.summary 0 ⟨ihdr 1 1, .accumulate, 8192, 0, false, []⟩).wf = false
    ∧ (Instr.summary 0 ⟨ihdr 1 1, .accumulate, 0, 0, false, [sum 1, sum 1]⟩).wf = false := by decide
theorem test_wf_page : (Instr.page 0 ⟨0, 0, 0, 0, 0, 64, List.replicate 4096 0, List.replicate 64 0⟩).wf = true
    ∧ (Instr.page 0 ⟨0, 0, 0, 0, 0, 64, List.replicate 4095 0, []⟩).wf = false
    ∧ (Instr.page 0 ⟨0, 0, 0, 0, 0, 63, List.replicate 4096 0, []⟩).wf = false
    ∧ (Instr.page 0 ⟨0, 0, 0, 0, 0, 64, List.replicate 4096 0, [0]⟩).wf = false := by decide +kernel
theorem test_wf_seal : (Instr.seal 0 ⟨0, 0, 0, 0, 0, 0, 0, 0⟩ ⟨0, 0, 0, 0, 0, 0, List.replicate 256 0⟩).wf = true
    ∧ (Instr.seal 0 ⟨0, 0, 0, 0, 0, 0, 0, 0⟩ ⟨0, 0, 0, 0, 0, 0, List.replicate 255 0⟩).wf = false := by decide +kernel
theorem test_wf_errorDetected :
    (Instr.errorDetected ⟨.vuFault, 0, 255, 255, 65535, 0, 2 ^ 32 - 1⟩).wf = true
    ∧ (Instr.errorDetected ⟨.vuFault, 0, 256, 0, 0, 0, 0⟩).wf = false ∧ (Instr.errorDetected ⟨.vuFault, 0, 0, 256, 0, 0, 0⟩).wf = false
    ∧ (Instr.errorDetected ⟨.vuFault, 0, 0, 0, 65536, 0, 0⟩).wf = false
    ∧ (Instr.errorDetected ⟨.vuFault, 0, 0, 0, 0, 0, 2 ^ 32⟩).wf = false := by decide
theorem test_wf_hostLinkUp : (Instr.hostLinkUp 0 6 8).wf = true ∧ (Instr.hostLinkUp 0 3 8).wf = false
    ∧ (Instr.hostLinkUp 0 6 3).wf = false := by decide
theorem test_wf_regRead : (Instr.regRead (2 ^ 32 - 1)).wf = true ∧ (Instr.regRead (2 ^ 32)).wf = false := by decide
theorem test_wf_regWrite : (Instr.regWrite (2 ^ 32 - 1) 0).wf = true ∧ (Instr.regWrite (2 ^ 32) 0).wf = false := by decide
theorem test_wf_imgWrite : (Instr.imgWrite 1 256 (List.replicate 256 0)).wf = true
    ∧ (Instr.imgWrite 2 256 (List.replicate 256 0)).wf = false ∧ (Instr.imgWrite 1 255 (List.replicate 256 0)).wf = false
    ∧ (Instr.imgWrite 1 (2 ^ 32) (List.replicate 256 0)).wf = false ∧ (Instr.imgWrite 1 256 [0]).wf = false := by decide +kernel
theorem test_wf_imgDone : (Instr.imgDone 1 5).wf = true ∧ (Instr.imgDone 2 5).wf = false ∧ (Instr.imgDone 1 (2 ^ 32)).wf = false := by decide
theorem test_wf_counterWrite : (Instr.counterWrite acc0 (2 ^ 27 - 8) 0).wf = true ∧ (Instr.counterWrite acc0 (2 ^ 27) 0).wf = false := by decide

/-! Small tests, with results worked out by hand from the manual. -/

/-- An empty queue leaves the package as it is (log entry 1). -/
theorem test_idle (s : State) : step { s with pending := [] } = .next { s with pending := [] } := rfl

/-- FP32 addition: 1 + 1 = 2, 1 + 2⁻²⁴ ties to even, the largest number doubled overflows (R132). -/
theorem test_fadd : fadd .fp32 0x3F800000 0x3F800000 = 0x40000000 ∧ fadd .fp32 0x3F800000 0x33800000 = 0x3F800000
    ∧ fadd .fp32 0x7F7FFFFF 0x7F7FFFFF = 0x7F800000 := by decide +kernel

/-- The comparison of a sync cell takes the difference modulo 2³² as signed (R255). -/
theorem test_meets : meets 0 0xFFFFFFFF = true ∧ meets 0xFFFFFFFF 0 = false ∧ meets 5 5 = true := by decide

/-- r of the sampler shifts right and folds the polynomial in where bit 0 was 1 (R602). -/
theorem test_nextR : nextR 2 = 1 ∧ nextR 1 = 0x80200003 := by decide

end Sys2Proof.Tests
end

section
/-! Resets (R9, R261, R521, R524, R528, R566). -/

namespace Sys2Proof.Machine

/-! A register space that lists nothing reads its reset words. -/

/-- R9: a word that nothing has written reads its reset word. -/
theorem State.word_of_regs_nil {s : State} (h : s.regs = []) (a : Nat) : s.word a = resetNat a % 2 ^ 64 := by
  rw [State.word, h]
  exact BitVec.toNat_ofNat _ _

/-- R261: a cell that nothing has written reads 0. -/
theorem State.cell_of_cells_nil {s : State} (h : s.cells = []) (c : Nat) : s.cell c = 0 := by
  rw [State.cell, h]
  rfl

/-! START (R528, R566). -/

theorem State.start_of_started {s : State} (h : s.startStep ≠ 0) : s.start = s := if_pos h

/-- The registers as row 1 begins, before the fuses show. -/
def State.rowOne (s : State) : State :=
  ((s.put capPage R.CAP_START_STEP 1).put pwrPage R.PWR_RAIL_STS_VALID 0x3FF).put secPage R.SEC_LC_STATE s.fuses.lc

theorem State.start_of_reset {s : State} (h : s.startStep = 0) : s.start = s.rowOne.showFuses := by
  rw [State.start, if_neg (not_not.2 h)]
  rfl

theorem State.rowOne_tidy {s : State} (h : s.Tidy) : s.rowOne.Tidy :=
  State.put_tidy _ _ _ (State.put_tidy _ _ _ (State.put_tidy _ _ _ h))

/-- START writes registers only. -/
theorem State.start_partsKept (s : State) : PartsKept s s.start := by
  by_cases h : s.startStep = 0
  · rw [State.start_of_reset h]
    rfl
  · rw [State.start_of_started h]
    exact .refl s

/-- Showing the fuses keeps every field outside SEC_LC and SEC_SERIAL. -/
theorem State.showFuses_fld {s : State} (pg : Nat) (f : Fld)
    (h1 : pg + f.off ≠ secPage + R.SEC_LC.off) (h2 : pg + f.off ≠ secPage + R.SEC_SERIAL.off) :
    s.showFuses.fld pg f = s.fld pg f := by
  unfold State.showFuses State.fld
  rw [State.word_put_other _ _ _ _ h2, State.word_put_other secPage R.SEC_LC_SVN_FUSED _ _ h1,
    State.word_put_other secPage R.SEC_LC_REVOKED _ _ h1]

/-- SEC_LC shows the security version of the fuses. -/
theorem State.showFuses_svn {s : State} (h : s.Tidy) : s.showFuses.fld secPage R.SEC_LC_SVN_FUSED = s.fuses.svn % 128 := by
  have hr := State.put_tidy secPage R.SEC_LC_REVOKED s.fuses.revoke h
  have hv := State.put_tidy secPage R.SEC_LC_SVN_FUSED s.fuses.svn hr
  unfold State.showFuses
  rw [State.fld_put_apart hv.regs _ _ _ _ _ (by decide) (by decide)]
  exact State.fld_put_same hr.regs _ _ _ (by decide)

/-- Showing the fuses keeps the life cycle. -/
theorem State.showFuses_lifeCycle {s : State} (h : s.Tidy) : s.showFuses.lifeCycle = s.lifeCycle := by
  have hr := State.put_tidy secPage R.SEC_LC_REVOKED s.fuses.revoke h
  have hv := State.put_tidy secPage R.SEC_LC_SVN_FUSED s.fuses.svn hr
  unfold State.showFuses State.lifeCycle
  rw [State.fld_put_apart hv.regs _ _ _ _ _ (by decide) (by decide),
    State.fld_put_apart hr.regs _ _ _ _ _ (by decide) (by decide),
    State.fld_put_apart h.regs _ _ _ _ _ (by decide) (by decide)]

theorem State.start_startStep {s : State} (h : s.Tidy) (h0 : s.startStep = 0) : s.start.startStep = 1 := by
  rw [State.start_of_reset h0, State.startStep, State.showFuses_fld _ _ (by decide) (by decide), State.rowOne,
    State.fld, State.word_put_other _ _ _ _ (by decide), State.word_put_other _ _ _ _ (by decide)]
  exact State.fld_put_same h.regs _ _ _ (by decide)

theorem State.start_rails {s : State} (h : s.Tidy) (h0 : s.startStep = 0) :
    s.start.fld pwrPage R.PWR_RAIL_STS_VALID = 0x3FF := by
  have hc := State.put_tidy capPage R.CAP_START_STEP 1 h
  rw [State.start_of_reset h0, State.showFuses_fld _ _ (by decide) (by decide), State.rowOne,
    State.fld, State.word_put_other _ _ _ _ (by decide)]
  exact State.fld_put_same hc.regs _ _ _ (by decide)

theorem State.start_lifeCycle {s : State} (h : s.Tidy) (h0 : s.startStep = 0) : s.start.lifeCycle = s.fuses.lc % 16 := by
  have hc := State.put_tidy capPage R.CAP_START_STEP 1 h
  have hp := State.put_tidy pwrPage R.PWR_RAIL_STS_VALID 0x3FF hc
  rw [State.start_of_reset h0, State.showFuses_lifeCycle (State.rowOne_tidy h)]
  exact State.fld_put_same hp.regs _ _ _ (by decide)

theorem State.start_svn {s : State} (h : s.Tidy) (h0 : s.startStep = 0) :
    s.start.fld secPage R.SEC_LC_SVN_FUSED = s.fuses.svn % 128 := by
  rw [State.start_of_reset h0]
  exact State.showFuses_svn (State.rowOne_tidy h)

/-- Settles O4: a package that lists no register and no cell reads reset words, and START puts the fields of row 1. -/
theorem resetsLeaveResetWords : Obligations.ResetsLeaveResetWords := by
  unfold Obligations.ResetsLeaveResetWords
  refine ⟨⟨State.word_of_regs_nil rfl, State.cell_of_cells_nil rfl⟩, fun s hs => ?_⟩
  have hw := State.word_of_regs_nil (s := s.resetPackage) rfl
  have hc := State.cell_of_cells_nil (s := s.resetPackage) rfl
  refine ⟨⟨s.resetPackage, rfl, hw, rfl, rfl, hc, rfl, rfl, rfl, rfl, rfl, rfl, rfl, rfl⟩,
    ⟨s.resetPackage, rfl, hw, rfl, rfl, hc, rfl, rfl, rfl, rfl, rfl, rfl, rfl, rfl⟩, fun h0 => ?_, fun h0 => ?_⟩
  · exact ⟨s.start, rfl, s.start_startStep hs h0, s.start_rails hs h0, s.start_lifeCycle hs h0, s.start_svn hs h0,
      s.start_partsKept⟩
  · exact congrArg Host.Outcome.next (State.start_of_started h0)

end Sys2Proof.Machine
end

section
/-! What a change of the state leaves as it is, field by field: interrupts, counters, the refresh of GRAND_AVAIL, storms,
error records and the capability record write fields of their own. -/

namespace Sys2Proof.Machine

variable {s t u : State} {l : List Nat} {pg : Nat} {f : Fld}

/-! What `OnlyWords` says of fields and parts. -/

/-- A part that registers, messages and port configurations do not enter is as before. -/
theorem PartsKept.part {α : Type} (p : State → α)
    (hp : ∀ (x : State) r o q, p { x with regs := r, hostOut := o, hostPorts := q } = p x) (h : PartsKept s t) : p t = p s := by
  unfold PartsKept at h
  rw [← hp t s.regs s.hostOut s.hostPorts, h]

theorem PartsKept.fatal (h : PartsKept s t) : t.fatal = s.fatal := h.part State.fatal fun _ _ _ _ => rfl
theorem PartsKept.perhal (h : PartsKept s t) : t.perhal = s.perhal := h.part State.perhal fun _ _ _ _ => rfl
theorem PartsKept.hwFences (h : PartsKept s t) : t.hwFences = s.hwFences := h.part State.hwFences fun _ _ _ _ => rfl
theorem PartsKept.acts (h : PartsKept s t) (d : Nat) : t.acts d = s.acts d := h.part (State.acts · d) fun _ _ _ _ => rfl

/-- A word outside the list that counts nothing reads as before. -/
theorem OnlyWords.word (h : OnlyWords s t l) (a : Nat) (ha : accounting a = false) (hl : a ∉ l) : t.word a = s.word a :=
  h.2 a ha (by simpa [words] using hl)

/-- A field of such a word reads as before. -/
theorem OnlyWords.fld (h : OnlyWords s t l) (pg : Nat) (f : Fld) (ha : accounting (pg + f.off) = false)
    (hl : pg + f.off ∉ l) : t.fld pg f = s.fld pg f := by
  rw [State.fld, State.fld, h.word _ ha hl]

/-- What changes no word but accounting ones changes no other word than those of a list. -/
theorem OnlyWords.of_nil (h : OnlyWords s t []) (l : List Nat) : OnlyWords s t l := ⟨h.1, fun a ha _ => h.2 a ha rfl⟩

/-! Pages and the offsets in them. -/

theorem page_offset (d : Nat) {i off : Nat} (hi : i < 0x100) (ho : off < 0x10000) :
    (page d i + off) / 0x1000000 = d ∧ (page d i + off) / 0x10000 % 0x100 = i ∧ (page d i + off) % 0x10000 = off := by
  unfold page
  omega

/-- An offset below the counters, other than INT_STS, on a page that is not PMU's holds no accounting word. -/
theorem accounting_page (d : Nat) {i off : Nat} (hi : i < 0x100) (hp : i ≠ B.PMU) (ho : off < 0x8000)
    (h : off ≠ R.INT_STS.off) : accounting (page d i + off) = false := by
  obtain ⟨-, h2, h3⟩ := page_offset d hi (off := off) (by omega)
  simp [accounting, h2, h3, hp, h, ho]

/-- Different offsets are different words, on whichever pages. -/
theorem page_add_ne (d i e j : Nat) {m n : Nat} (hm : m < 0x10000) (hn : n < 0x10000) (h : m ≠ n) :
    page d i + m ≠ page e j + n := by
  unfold page
  omega

/-! Changes that keep a field. -/

/-- Two fields share no bit. -/
abbrev FldApart (pg : Nat) (f : Fld) (pg' : Nat) (g : Fld) : Prop :=
  pg + f.off ≠ pg' + g.off ∨ f.lsb + f.width ≤ g.lsb ∨ g.lsb + g.width ≤ f.lsb

/-- Fields on pages of different blocks share no bit. -/
theorem FldApart.of_block {d i : Nat} {g : Fld} (hi : i < 0x100) (hg : g.off < 0x10000)
    (h : (pg + f.off) / 0x10000 % 0x100 ≠ i) : FldApart pg f (page d i) g := by
  refine .inl fun he => h ?_
  rw [he]
  exact (page_offset d hi hg).2.1

/-- Fields at different offsets of their pages share no bit. -/
theorem FldApart.of_off {d i e j : Nat} {g : Fld} (hf : f.off < 0x10000) (hg : g.off < 0x10000) (h : f.off ≠ g.off) :
    FldApart (page d i) f (page e j) g := .inl (page_add_ne d i e j hf hg h)

/-- From a tidy state the change leads to a tidy one, and leaves a field as it is. -/
def KeepsFld (pg : Nat) (f : Fld) (s t : State) : Prop := s.Tidy → t.Tidy ∧ t.fld pg f = s.fld pg f

theorem KeepsFld.refl (s : State) : KeepsFld pg f s s := fun h => ⟨h, rfl⟩

theorem KeepsFld.trans (h1 : KeepsFld pg f s t) (h2 : KeepsFld pg f t u) : KeepsFld pg f s u := fun h => by
  obtain ⟨ht, e1⟩ := h1 h
  obtain ⟨hu, e2⟩ := h2 ht
  exact ⟨hu, e2.trans e1⟩

theorem KeepsFld.ite {c : Prop} [Decidable c] (ht : KeepsFld pg f s t) (hu : KeepsFld pg f s u) :
    KeepsFld pg f s (if c then t else u) := by
  split <;> assumption

/-- A fold keeps a field when each of its steps does. -/
theorem KeepsFld.each {α : Type} {g : State → α → State} :
    ∀ (l : List α) (s : State), (∀ s, ∀ x ∈ l, KeepsFld pg f s (g s x)) → KeepsFld pg f s (s.each l g)
  | [], s, _ => .refl s
  | x :: l, s, h => (h s x List.mem_cons_self).trans (KeepsFld.each l (g s x) fun s y hy => h s y (List.mem_cons_of_mem _ hy))

theorem KeepsFld.forUpto {g : Nat → State → State} :
    ∀ (n : Nat) (s : State), (∀ i < n, ∀ s, KeepsFld pg f s (g i s)) → KeepsFld pg f s (forUpto g n s)
  | 0, s, _ => .refl s
  | n + 1, s, h => (KeepsFld.forUpto n s fun i hi => h i (by omega)).trans (h n (by omega) _)

theorem KeepsFld.setWord (s : State) (a n : Nat) (h : pg + f.off ≠ a) : KeepsFld pg f s (s.setWord a n) := fun hs =>
  ⟨State.setWord_tidy a n hs, by rw [State.fld, State.fld, State.word_setWord_other _ _ _ h]⟩

theorem KeepsFld.put (s : State) (pg' : Nat) (g : Fld) (n : Nat) (hg : g.lsb + g.width ≤ 64) (h : FldApart pg f pg' g) :
    KeepsFld pg f s (s.put pg' g n) := fun hs =>
  ⟨State.put_tidy pg' g n hs, State.fld_put_apart hs.regs _ _ _ _ _ hg h⟩

theorem KeepsFld.putWords (s : State) (a : Nat) (w : List Nat) (h : ∀ i < w.length, pg + f.off ≠ a + 8 * i) :
    KeepsFld pg f s (s.putWords a w) := .forUpto _ _ fun i hi s => .setWord s _ _ (h i hi)

section Accounting
variable (ha : accounting (pg + f.off) = false)
include ha

theorem KeepsFld.of_onlyWords (ht : s.Tidy → t.Tidy) (h : OnlyWords s t []) : KeepsFld pg f s t := fun hs =>
  ⟨ht hs, h.fld pg f ha List.not_mem_nil⟩

theorem KeepsFld.intSet (s : State) (pg' b : Nat) (hp : pg' % 0x10000 = 0) : KeepsFld pg f s (s.intSet pg' b) :=
  .of_onlyWords ha (State.intSet_tidy s pg' b) (.intSet s pg' b [] hp)

theorem KeepsFld.count (s : State) (pg' : Nat) (c : Fld) (k : Nat)
    (h : counterAddr ((pg' + c.off) / 0x1000000) (counterIndex (pg' + c.off)) = some (pg' + c.off)) :
    KeepsFld pg f s (s.count pg' c k) :=
  .of_onlyWords ha (State.count_tidy s pg' c k) (.count s pg' c k [] h)

/-- A refresh of GRAND_AVAIL writes that field of the arrays only, and raises interrupts. -/
theorem KeepsFld.refreshGrand (hg : ∀ d, FldApart pg f (page d B.ARY) R.ARY_MODE_GRAND_AVAIL) (s : State) :
    KeepsFld pg f s s.refreshGrand :=
  .each _ _ fun t d _ => .ite (.refl t) ((KeepsFld.put t _ _ _ (by decide) (hg d)).trans (.intSet ha _ _ _ (page_mod _ _)))

/-- The capability record of a die follows the package: its two fields, and CAP's interrupt. -/
theorem KeepsFld.capDie (hc : (pg + f.off) / 0x10000 % 0x100 ≠ B.CAP) (s : State) (d : Nat) :
    KeepsFld pg f s (s.capDie d) := by
  have hput (s : State) (g : Fld) (v : Nat) (hg : g.off < 0x10000) (hw : g.lsb + g.width ≤ 64) :
      KeepsFld pg f s (s.capPut d g v) :=
    .ite (.refl s) (.ite ((KeepsFld.put s _ _ _ hw (.of_block (by decide) hg hc)).trans (.intSet ha _ _ _ (page_mod _ _)))
      (.put s _ _ _ hw (.of_block (by decide) hg hc)))
  exact (hput s _ _ (by decide) (by decide)).trans (hput _ _ _ (by decide) (by decide))

end Accounting

/-! Error records and storms (R493–R499, R511). -/

/-- A field that counts nothing, lies outside the pages of ERR, and is no GRAND_AVAIL. -/
structure Unreported (pg : Nat) (f : Fld) : Prop where
  plain : accounting (pg + f.off) = false
  noErr : (pg + f.off) / 0x10000 % 0x100 ≠ B.ERR
  noGrand : ∀ d, FldApart pg f (page d B.ARY) R.ARY_MODE_GRAND_AVAIL

/-- The counters of ERR are counters of each die. -/
theorem counterAddr_err (r : Fin 5) (c : Fld) (h : c ∈ [C.ERR_DETECTED_CORRECTED, C.ERR_DETECTED_DEGRADED,
    C.ERR_DETECTED_CONTAINED, C.ERR_RECORDS, C.ERR_LOST_RECORDS, C.ERR_STORMS]) :
    counterAddr ((page r B.ERR + c.off) / 0x1000000) (counterIndex (page r B.ERR + c.off)) = some (page r B.ERR + c.off) := by
  revert r c
  decide

section Reports
variable (h : Unreported pg f)
include h

theorem KeepsFld.beginStorm (s : State) (r : Fin 5) : KeepsFld pg f s (s.beginStorm r) := by
  have hput (s : State) (d n : Nat) (g : Fld) (hw : g.lsb + g.width ≤ 64) (hg : g.off < 0x10000) :
      KeepsFld pg f s (s.put (page d B.ERR) g n) := .put s _ _ _ hw (.of_block (by decide) hg h.noErr)
  refine .ite (.refl s) ?_
  have h1 := hput s r 1 R.ERR_STS_STORM (by decide) (by decide)
  have h2 := h1.trans (.count h.plain _ _ C.ERR_STORMS 1 (counterAddr_err r _ (by simp)))
  have h3 := h2.trans (.intSet h.plain _ (page r B.ERR) 1 (page_mod _ _))
  exact (h3.trans (.each _ _ fun t e _ => hput t e 1 _ (by decide) (by decide))).trans (.refreshGrand h.plain h.noGrand _)

theorem KeepsFld.errRecord (s : State) (e : ErrEvent) (g : ErrFlags) : KeepsFld pg f s (s.errRecord e g) := by
  have hw (s : State) (d off : Nat) (w : List Nat) (hl : off + 8 * w.length ≤ 0x10000) :
      KeepsFld pg f s (s.putWords (page d B.ERR + off) w) := .putWords s _ w fun i hi he => h.noErr (by
    rw [he, Nat.add_assoc]
    exact (page_offset d (by decide) (by omega)).2.1)
  have hc (s : State) (c : Fld) (hm) : KeepsFld pg f s (s.count (page e.die B.ERR) c 1) :=
    .count h.plain s _ _ _ (counterAddr_err e.die c hm)
  unfold State.errRecord
  extract_lets r pg' head tl step w s1 s2
  split
  · exact (hc s _ (by simp)).trans (.beginStorm h _ e.die)
  · have h1 : KeepsFld pg f s s1 := by
      refine KeepsFld.trans (t := tl.2) (fun hs => ⟨State.stamp_tidy hs, rfl⟩) ?_
      show KeepsFld pg f tl.2 (tl.2.putWords (page e.die B.ERR + 0x1000 + 64 * (head % 256)) w)
      rw [Nat.add_assoc]
      exact hw _ _ _ _ (by simp only [w, List.length_cons, List.length_nil]; omega)
    have h2 : KeepsFld pg f s s2 := h1.trans
      (((KeepsFld.put s1 _ _ _ (by decide) (.of_block (by decide) (by decide) h.noErr)).trans
        (.intSet h.plain _ _ _ (page_mod _ _))).trans (hc _ _ (by simp)))
    split
    · refine h2.trans ?_
      rw [Nat.add_assoc, Nat.add_assoc]
      exact hw _ _ _ _ (by simp only [w, List.length_cons, List.length_nil]; omega)
    · exact h2

/-- A report sets ERR_SUM of the page, and writes pages of ERR, GRAND_AVAIL and what counts and flags. -/
theorem KeepsFld.report (s : State) (e : ErrEvent) (g : ErrFlags)
    (hs : FldApart pg f (page e.die e.block) ⟨0x20, 0, 4⟩) : KeepsFld pg f s (s.report e g) := by
  have hc (s : State) (c : Fld) (hm) : KeepsFld pg f s (s.count (page e.die B.ERR) c 1) :=
    .count h.plain s _ _ _ (counterAddr_err e.die c hm)
  unfold State.report
  extract_lets pg' err c masked s1 s2 s3
  have h1 : KeepsFld pg f s s1 := .put s _ _ _ (by decide) hs
  have h2 : KeepsFld pg f s s2 := by
    refine h1.trans ?_
    simp only [s2]
    clear_value c
    split
    · exact hc s1 _ (by simp)
    · exact hc s1 _ (by simp)
    · exact hc s1 _ (by simp)
    · exact .refl s1
  have h3 : KeepsFld pg f s s3 := h2.trans (.ite (fun hs => ⟨{ hs with }, rfl⟩) (.refl s2))
  exact .ite h3 (h3.trans (.errRecord h s3 e g))

end Reports

/-- The end of the storms writes STORM_PKG, GRAND_AVAIL and what flags. -/
theorem KeepsFld.endStorm (ha : accounting (pg + f.off) = false)
    (hs : ∀ d, FldApart pg f (page d B.ERR) R.ERR_STS_STORM_PKG)
    (hg : ∀ d, FldApart pg f (page d B.ARY) R.ARY_MODE_GRAND_AVAIL) (s : State) : KeepsFld pg f s s.endStorm :=
  .ite (.refl s) ((KeepsFld.each _ _ fun t e _ => .put t _ _ _ (by decide) (hs e)).trans (.refreshGrand ha hg _))

/-- The resumption of the callers of a die writes CAL_RESUME. -/
theorem KeepsFld.resumeMaybe (hc : (pg + f.off) / 0x10000 % 0x100 ≠ B.CAL) (s : State) (d : Nat) :
    KeepsFld pg f s (s.resumeMaybe d) :=
  .each _ _ fun t _ _ => .ite
    ((KeepsFld.put t _ _ _ (by decide) (.of_block (by decide) (by decide) hc)).trans
      (.put _ _ _ _ (by decide) (.of_block (by decide) (by decide) hc))) (.refl t)

end Sys2Proof.Machine
end

section
/-! Host writes of BAR0 (R9, R19, R573, R613, R614): what a write that is taken does, by the range that it reaches. -/

namespace Sys2Proof.Machine

variable {s t : State} {x : Access} {a : Nat}

/-! A request that is taken is counted, and what decides where it goes stays. -/

theorem OnlyWords.startResult (h : OnlyWords s t []) : t.startResult = s.startResult :=
  h.fld capPage R.CAP_START_RESULT (by decide) List.not_mem_nil
theorem OnlyWords.startStep (h : OnlyWords s t []) : t.startStep = s.startStep :=
  h.fld capPage R.CAP_START_STEP (by decide) List.not_mem_nil
theorem OnlyWords.lwState (h : OnlyWords s t []) : t.lwState = s.lwState :=
  h.fld pwrPage R.PWR_LW_STS_STATE (by decide) List.not_mem_nil
theorem OnlyWords.lifeCycle (h : OnlyWords s t []) : t.lifeCycle = s.lifeCycle :=
  h.fld secPage R.SEC_LC_STATE (by decide) List.not_mem_nil
theorem OnlyWords.started (h : OnlyWords s t []) : t.started = s.started :=
  congrArg (· == 15) (h.fld (page 4 B.CAP) R.CAP_START_STEP (by decide) List.not_mem_nil)
theorem OnlyWords.present (h : OnlyWords s t []) {d : Nat} (hd : d < 4) : t.present d = s.present d :=
  congrArg (· == 0) (h.fld (page 4 B.D2D) (R.D2D_DIE_CTL_STATE d)
    (accounting_page 4 (by decide) (by decide) (by simp only [R.D2D_DIE_CTL_STATE]; omega)
      (by simp only [R.D2D_DIE_CTL_STATE, R.INT_STS]; omega)) List.not_mem_nil)

theorem OnlyWords.debugOpen (h : OnlyWords s t []) : t.debugOpen = s.debugOpen := by
  rw [State.debugOpen, State.debugOpen, h.lifeCycle]

/-- Which pages answer does not depend on what counts and flags. -/
theorem OnlyWords.pageReads (h : OnlyWords s t []) (d i : Nat) : t.pageReads d i = s.pageReads d i := by
  by_cases hd : d < 4
  · simp only [State.pageReads, h.1.fatal, h.startResult, h.lwState, h.started, h.startStep, h.present hd]
  · by_cases h4 : d = 4
    · simp only [State.pageReads, h.1.fatal, h.startResult, h.lwState, h.started, h.startStep, h4, beq_self_eq_true,
        Bool.true_or]
    · have hd4 : (d == 4) = false := beq_false_of_ne h4
      simp [State.pageReads, pageExists, hd, hd4]

theorem OnlyWords.pageWrites (h : OnlyWords s t []) (d i : Nat) : t.pageWrites d i = s.pageWrites d i := by
  rw [State.pageWrites, State.pageWrites, h.pageReads, h.lwState]

theorem OnlyWords.ideRefuses (h : OnlyWords s t []) (x : Access) : t.ideRefuses x = s.ideRefuses x := by
  have hf (f : Fld) (hf : accounting (secPage + f.off) = false) : t.on secPage f = s.on secPage f :=
    congrArg (· != 0) (h.fld secPage f hf List.not_mem_nil)
  unfold State.ideRefuses
  rw [h.1.perhal, hf]
  split <;> decide

/-- A request that is taken counts its bytes, and goes on. -/
theorem State.admitted_of_hears (h : s.hears x = true) (n : Nat) :
    ∃ u, s.admitted x n = (true, u) ∧ (s.Tidy → u.Tidy) ∧ OnlyWords s u [] := by
  have hc : ∀ p : Fin 2, counterAddr ((hifPage p + C.HIF_RX_BYTES.off) / 0x1000000)
      (counterIndex (hifPage p + C.HIF_RX_BYTES.off)) = some (hifPage p + C.HIF_RX_BYTES.off) := by decide
  have ho : OnlyWords s (s.count (hifPage x.port) C.HIF_RX_BYTES n) [] := .count s _ _ _ _ (hc x.port)
  simp only [State.hears, Bool.and_eq_true, Bool.not_eq_true'] at h
  obtain ⟨⟨hup, hfatal⟩, hide⟩ := h
  refine ⟨_, ?_, fun hs => State.count_tidy s (hifPage x.port) C.HIF_RX_BYTES n hs, ho⟩
  simp [State.admitted, hup, hfatal, ho.ideRefuses, hide]

/-! Where a write goes. -/

/-- A write that reaches the word of a page, outside the debug range: the word is written in a state that has counted it. -/
theorem State.hostWrite_of_writes (hs : s.Tidy) (h : s.writes x a = true) (v : Nat) (ho : a % 0x10000 < 0xC000) :
    ∃ u : State, u.Tidy ∧ OnlyWords s u [] ∧ u.pageWrites (a / 0x1000000) (a / 0x10000 % 0x100) = true
      ∧ s.hostWrite x a v = .next (u.writeReg x.port a v) := by
  simp only [State.writes, Bool.and_eq_true, beq_iff_eq, decide_eq_true_eq] at h
  obtain ⟨⟨⟨⟨hhears, hsize⟩, hal⟩, hlt⟩, hpage⟩ := h
  obtain ⟨u, hu, htidy, hkept⟩ := State.admitted_of_hears hhears x.size
  refine ⟨u, htidy hs, hkept, (hkept.pageWrites _ _).trans hpage, ?_⟩
  have hd : u.debugHit a = false := by simp [State.debugHit, ho]
  have hok : ¬(x.size ≠ 8 ∨ a % 8 ≠ 0 ∨ 0x8000000 ≤ a) := by omega
  simp [State.hostWrite, hu, hd, hok]

/-- R613: a write that reaches the debug range while it answers stops. -/
theorem State.hostWrite_debug (h : s.writes x a = true) (v : Nat) (ho : 0xC000 ≤ a % 0x10000) (hd : s.debugOpen = true) :
    s.hostWrite x a v = .fault .debugWrite := by
  simp only [State.writes, Bool.and_eq_true, beq_iff_eq, decide_eq_true_eq] at h
  obtain ⟨⟨⟨⟨hhears, hsize⟩, hal⟩, hlt⟩, hpage⟩ := h
  obtain ⟨u, hu, -, hkept⟩ := State.admitted_of_hears hhears x.size
  have hd : u.debugHit a = true := by
    simp [State.debugHit, hkept.pageWrites, hpage, hkept.debugOpen, hd, ho]
  have hok : ¬(x.size ≠ 8 ∨ a % 8 ≠ 0 ∨ 0x8000000 ≤ a) := by omega
  simp [State.hostWrite, hu, hd, hok]

/-- A write to a page that takes none changes only what counts. -/
theorem State.hostWrite_of_shut (h : s.hears x = true) (hp : s.pageWrites (a / 0x1000000) (a / 0x10000 % 0x100) = false)
    (v : Nat) : ∃ t, s.hostWrite x a v = .next t ∧ OnlyWords s t [] := by
  obtain ⟨u, hu, -, hkept⟩ := State.admitted_of_hears h x.size
  have hp := (hkept.pageWrites _ _).trans hp
  have hd : u.debugHit a = false := by simp [State.debugHit, hp]
  by_cases hok : x.size ≠ 8 ∨ a % 8 ≠ 0 ∨ 0x8000000 ≤ a
  · exact ⟨u.tell (.unsupported x.port), by simp [State.hostWrite, hu, hok], hkept.trans (.tell u _ _)⟩
  · exact ⟨u, by simp [State.hostWrite, hu, hok, hd, State.writeReg, hp], hkept⟩

/-- R614: a page of a die that is not present does not answer. -/
theorem State.pageReads_of_absent (hst : s.started = true) {d : Nat} (hd : d < 4) (hp : s.present d = false) (i : Nat) :
    s.pageReads d i = false := by
  have h4 : d ≠ 4 := by omega
  simp [State.pageReads, hst, h4, hp]

/-! What the write of a word does, by its offset. -/

section Offsets
variable (h : s.pageWrites (a / 0x1000000) (a / 0x10000 % 0x100) = true)
include h

theorem State.writeReg_plain (p v : Nat) (ho : a % 0x10000 = 0x10 ∨ a % 0x10000 = 0x20 ∨ a % 0x10000 = 0x28) :
    s.writeReg p a v = s.plain a v := by
  simp [State.writeReg, h, ho]

theorem State.writeReg_intEn (p v : Nat) (ho : a % 0x10000 = R.INT_EN.off) :
    s.writeReg p a v = s.intEnable (a / 0x10000 * 0x10000) v := by
  have hpg : page (a / 0x1000000) (a / 0x10000 % 0x100) = a / 0x10000 * 0x10000 := by unfold page; omega
  simp [State.writeReg, h, ho, R.INT_EN, hpg]

theorem State.writeReg_fence (p v : Nat) (ho : a % 0x10000 = R.FENCE.off) :
    s.writeReg p a v = s.fenceReg (a / 0x1000000) (a / 0x10000 % 0x100) v := by
  simp [State.writeReg, h, ho, R.FENCE]

theorem State.writeReg_block (p v : Nat) (h1 : 0x100 ≤ a % 0x10000) (h2 : a % 0x10000 < 0x8000) :
    s.writeReg p a v = s.blockWrite p (a / 0x1000000) (a / 0x10000 % 0x100) (a % 0x10000) v := by
  unfold State.writeReg
  simp only [h]
  rw [if_neg (by simp), if_neg (by omega), if_neg (by omega), if_neg (by omega), if_neg (by omega), if_neg (by omega),
    if_pos h2]

end Offsets

/-! Plain writes (R9). -/

theorem bitOn_eq_testBit (n i : Nat) : bitOn n i = n.testBit i := by
  rw [bitOn, bits, Nat.testBit_eq_decide_div_mod_eq, Nat.shiftRight_eq_div_pow]
  rfl

/-- R9: a RW bit takes the value's, a W1C bit clears on a 1, and another bit stays. -/
theorem State.bitOn_plain (hs : s.Tidy) (a v : Nat) {i : Nat} (hi : i < 64) :
    let masks := writeMasks (a / 0x1000000) ((blockOf (a / 0x10000 % 0x100)).getD 0) (a % 0x10000)
    bitOn ((s.plain a v).word a) i =
      if bitOn masks.1 i then bitOn v i else bitOn (s.word a) i && !(bitOn masks.2 i && bitOn v i) := by
  intro masks
  rw [State.plain, State.word_setWord_same hs.regs, Nat.mod_eq_of_lt (BitVec.isLt _)]
  simp only [bitOn_eq_testBit, BitVec.testBit_toNat, BitVec.getLsbD_or, BitVec.getLsbD_and, BitVec.getLsbD_not,
    BitVec.getLsbD_ofNat, hi, decide_true, Bool.true_and]
  show ((s.word a).testBit i && !masks.1.testBit i && !(masks.2.testBit i && v.testBit i) || v.testBit i && masks.1.testBit i) = _
  cases masks.1.testBit i <;> cases v.testBit i <;> simp

theorem OnlyWords.plain (s : State) (a v : Nat) : OnlyWords s (s.plain a v) [a] :=
  .setWord s a _ _ (.inr List.mem_cons_self)

/-! INT_EN (R623). -/

/-- A write of INT_EN changes its word, and may raise interrupts. -/
theorem OnlyWords.intEnable (s : State) (pg v : Nat) : OnlyWords s (s.intEnable pg v) [pg + R.INT_EN.off] :=
  .intChange s pg _ _ (.put s pg _ _ _ (.inr List.mem_cons_self))

/-- INT_EN takes the bits of the value that the page defines. -/
theorem State.intEnable_fld (hs : s.Tidy) (n v : Nat) :
    (s.intEnable (0x10000 * n) v).fld (0x10000 * n) R.INT_EN_ENABLE = bits v 0 16 &&& bits (s.word (0x10000 * n + 8)) 0 16 := by
  have ha : accounting (0x10000 * n + R.INT_EN_ENABLE.off) = false := by
    have h1 : (0x10000 * n + 0x38) % 0x10000 = 0x38 := by omega
    simp [accounting, R.INT_EN_ENABLE, R.INT_STS, h1]
  have hlt : bits v 0 16 &&& bits (s.word (0x10000 * n + 8)) 0 16 < 2 ^ 16 :=
    Nat.lt_of_le_of_lt Nat.and_le_left (bits_lt _ _ _)
  have hput := State.fld_put_same hs.regs (0x10000 * n) R.INT_EN_ENABLE
    (bits v 0 16 &&& bits (s.word (0x10000 * n + 8)) 0 16) (by decide)
  replace hput := hput.trans (Nat.mod_eq_of_lt hlt)
  unfold State.intEnable State.intChange State.intChangeBy
  extract_lets t
  split
  · exact ((OnlyWords.blockIntBy (sends_msix []) t).fld _ _ ha List.not_mem_nil).trans hput
  · exact hput

/-! Host fences of arrays (R119, R505). -/

/-- A field of an array's page that no report, no capability record and no refresh of GRAND_AVAIL writes. -/
def arrayOwn (f : Fld) : Bool :=
  decide (f.off < 0x8000) && f.off != 0x20 && f.off != R.INT_STS.off
    && (f.off != R.ARY_MODE_GRAND_AVAIL.off || decide (f.lsb + f.width ≤ 2) || decide (3 ≤ f.lsb))

theorem unreported_of_arrayOwn (d : Nat) {f : Fld} (hf : arrayOwn f = true) : Unreported (page d B.ARY) f := by
  simp only [arrayOwn, Bool.and_eq_true, Bool.or_eq_true, decide_eq_true_eq, bne_iff_ne] at hf
  obtain ⟨⟨⟨hlow, -⟩, hint⟩, hgrand⟩ := hf
  refine ⟨accounting_page d (by decide) (by decide) hlow hint, ?_, fun e => ?_⟩
  · rw [(page_offset d (by decide) (by omega)).2.1]
    decide
  · rcases hgrand with (hoff | hbelow) | habove
    · exact .of_off (by omega) (by decide) hoff
    · exact .inr (.inl hbelow)
    · exact .inr (.inr habove)

/-- The capability record of a die and GRAND_AVAIL follow; such a field stays. -/
theorem KeepsFld.capGrand {d : Nat} {f : Fld} (hf : arrayOwn f = true) (s : State) (k : Nat) :
    KeepsFld (page d B.ARY) f s (s.capDie k).refreshGrand := by
  have h := unreported_of_arrayOwn d hf
  have hlow : f.off < 0x10000 := by simp [arrayOwn] at hf; omega
  have hcap : (page d B.ARY + f.off) / 0x10000 % 0x100 ≠ B.CAP := by
    rw [(page_offset d (by decide) hlow).2.1]
    decide
  exact (KeepsFld.capDie h.plain hcap s k).trans (.refreshGrand h.plain h.noGrand _)

/-- The record of an error of an array leaves such a field as it is. -/
theorem KeepsFld.reportArray {d : Nat} {f : Fld} (hf : arrayOwn f = true) (s : State) (e : ErrEvent)
    (g : ErrFlags) : KeepsFld (page d B.ARY) f s (s.report e g) := by
  refine .report (unreported_of_arrayOwn d hf) s e g ?_
  simp only [arrayOwn, Bool.and_eq_true, decide_eq_true_eq, bne_iff_ne] at hf
  obtain ⟨⟨⟨hlow, hsum⟩, -⟩, -⟩ := hf
  exact .of_off (by omega) (by decide) hsum

/-- The event that a host fence of an array stands for (R119). -/
def fenceEvent (d : Nat) : ErrEvent := ⟨.arrayUnusable, Fin.ofNat 5 d, B.ARY, 0, d, 0, 0⟩

/-- The state in which the running operation of a fenced array has failed. -/
def State.fenceHit (s : State) (d : Nat) : State := (s.put (page d B.ARY) R.FENCE_HOST_FENCE 1).hitOperation (fenceEvent d)

/-- ARRAY_USABLE of an array clears, with ARY's interrupt where it was set. -/
def State.usableOff (s : State) (d : Nat) : State :=
  if s.on (page d B.ARY) R.ARY_MODE_ARRAY_USABLE then
    (s.put (page d B.ARY) R.ARY_MODE_ARRAY_USABLE 0).intSet (page d B.ARY) 1
  else s

/-- R119: a host fence of an array that nothing fences sets HOST_FENCE, fails the running operation, and makes the array
unusable; the error is recorded. -/
theorem State.fenceArray_begins (d : Nat) (hw : s.hwFences.contains (page d B.ARY) = false)
    (hf : s.on (page d B.ARY) R.FENCE_HOST_FENCE = false) :
    s.fenceArray d true = ((((s.fenceHit d).usableOff d).report (fenceEvent d) { fenced := true }).capDie d).refreshGrand := by
  have hw' : (s.fenceHit d).hwFences.contains (page d B.ARY) = false := hw
  unfold State.fenceArray
  simp only [if_true]
  rw [if_neg (by simp [hf])]
  exact if_neg (Bool.eq_false_iff.1 hw')

theorem State.fenceArray_ends (d : Nat) (hw : s.hwFences.contains (page d B.ARY) = false) :
    s.fenceArray d false = (((s.put (page d B.ARY) R.FENCE_HOST_FENCE 0).put (page d B.ARY) R.ARY_MODE_ARRAY_USABLE 1).capDie
      d).refreshGrand := if_neg (Bool.eq_false_iff.1 hw)

end Sys2Proof.Machine
end

section
/-! Fences, tails and statistics, and the common header (R9, R119, R402, R505, R511, R614). -/

namespace Sys2Proof.Machine

variable {s t : State} {x : Access} {a : Nat}

/-! Host fences of arrays: what they leave. -/

theorem State.usableOff_tidy (h : s.Tidy) (d : Nat) : (s.usableOff d).Tidy :=
  .ite (State.intSet_tidy _ _ _ (State.put_tidy _ _ _ h)) h

/-- The array is not usable after it. -/
theorem State.usableOff_usable (h : s.Tidy) (d : Nat) : (s.usableOff d).on (page d B.ARY) R.ARY_MODE_ARRAY_USABLE = false := by
  have hu := (unreported_of_arrayOwn d (f := R.ARY_MODE_ARRAY_USABLE) (by decide)).plain
  unfold State.usableOff
  split
  · have hput := State.fld_put_same h.regs (page d B.ARY) R.ARY_MODE_ARRAY_USABLE 0 (by decide)
    obtain ⟨-, hint⟩ := KeepsFld.intSet hu _ (page d B.ARY) 1 (page_mod _ _)
      (State.put_tidy (page d B.ARY) R.ARY_MODE_ARRAY_USABLE 0 h)
    rw [State.on, hint, hput]
    rfl
  · exact Bool.not_eq_true _ ▸ ‹_›

theorem State.usableOff_fence (h : s.Tidy) (d : Nat) :
    (s.usableOff d).fld (page d B.ARY) R.FENCE_HOST_FENCE = s.fld (page d B.ARY) R.FENCE_HOST_FENCE := by
  have hu := (unreported_of_arrayOwn d (f := R.FENCE_HOST_FENCE) (by decide)).plain
  have hk : KeepsFld (page d B.ARY) R.FENCE_HOST_FENCE s (s.usableOff d) :=
    .ite ((KeepsFld.put s _ _ _ (by decide) (.of_off (by decide) (by decide) (by decide))).trans
      (.intSet hu _ _ _ (page_mod _ _))) (.refl s)
  exact (hk h).2

/-- R119, R505: a host fence makes the array unusable. -/
theorem State.fenceArray_true (h : s.Tidy) (d : Nat) (hw : s.hwFences.contains (page d B.ARY) = false)
    (hf : s.on (page d B.ARY) R.FENCE_HOST_FENCE = false) :
    (s.fenceArray d true).on (page d B.ARY) R.FENCE_HOST_FENCE = true
      ∧ (s.fenceArray d true).on (page d B.ARY) R.ARY_MODE_ARRAY_USABLE = false := by
  have hhit : (s.fenceHit d).Tidy := State.hitOperation_tidy _ _ (State.put_tidy _ _ _ h)
  have hset : (s.fenceHit d).fld (page d B.ARY) R.FENCE_HOST_FENCE = 1 :=
    State.fld_put_same h.regs (page d B.ARY) R.FENCE_HOST_FENCE 1 (by decide)
  have htold {f : Fld} (hf : arrayOwn f = true) := (((KeepsFld.reportArray (d := d) hf ((s.fenceHit d).usableOff d) (fenceEvent d)
    { fenced := true }).trans (.capGrand hf _ d)) (State.usableOff_tidy hhit d)).2
  rw [State.fenceArray_begins d hw hf]
  constructor
  · rw [State.on, htold (by decide), State.usableOff_fence hhit, hset]
    rfl
  · rw [State.on, htold (by decide)]
    exact State.usableOff_usable hhit d

/-- R505: the end of a host fence makes the array usable while no fault fences it. -/
theorem State.fenceArray_false (h : s.Tidy) (d : Nat) (hw : s.hwFences.contains (page d B.ARY) = false) :
    (s.fenceArray d false).on (page d B.ARY) R.FENCE_HOST_FENCE = false
      ∧ (s.fenceArray d false).on (page d B.ARY) R.ARY_MODE_ARRAY_USABLE = true := by
  have h1 := State.put_tidy (page d B.ARY) R.FENCE_HOST_FENCE 0 h
  have h2 := State.put_tidy (page d B.ARY) R.ARY_MODE_ARRAY_USABLE 1 h1
  have htold {f : Fld} (hf : arrayOwn f = true) := (KeepsFld.capGrand (d := d) hf
    ((s.put (page d B.ARY) R.FENCE_HOST_FENCE 0).put (page d B.ARY) R.ARY_MODE_ARRAY_USABLE 1) d h2).2
  rw [State.fenceArray_ends d hw]
  constructor
  · rw [State.on, htold (by decide), State.fld_put_apart h1.regs _ _ _ _ _ (by decide)
      (FldApart.of_off (by decide) (by decide) (by decide)), State.fld_put_same h.regs _ _ _ (by decide)]
    rfl
  · rw [State.on, htold (by decide), State.fld_put_same h1.regs _ _ _ (by decide)]
    rfl

/-! ERR_TAIL (R511, R515). -/

/-- The records that TAIL would leave in the ring of a die. -/
def State.errDepth (s : State) (d v : Nat) : Nat := (s.fld (page d B.ERR) R.ERR_HEAD_HEAD + 2 ^ 32 - v % 2 ^ 32) % 2 ^ 32

theorem State.errTail_refused {d v : Nat} (h : 256 < s.errDepth d v) : s.errTail d v = s := if_pos h

/-- What follows the end of a die's storm leaves TAIL and STORM of the dies as they are. -/
theorem KeepsFld.stormEnds (d : Nat) {f : Fld} (hf : f = R.ERR_TAIL_TAIL ∨ f = R.ERR_STS_STORM) (s : State) :
    KeepsFld (page d B.ERR) f s (s.endStorm.each [0, 1, 2, 3] State.resumeMaybe) := by
  have hoff : f.off = 0x108 ∨ f.off = 0x110 := by rcases hf with rfl | rfl <;> decide
  have hpkg (e : Nat) : FldApart (page d B.ERR) f (page e B.ERR) R.ERR_STS_STORM_PKG := by
    rcases hf with rfl | rfl
    · exact .of_off (by decide) (by decide) (by decide)
    · exact .inr (.inl (by decide))
  have hblock := (page_offset d (i := B.ERR) (off := f.off) (by decide) (by omega)).2.1
  have hplain : accounting (page d B.ERR + f.off) = false :=
    accounting_page d (by decide) (by decide) (by omega) (by simp only [R.INT_STS]; omega)
  exact (KeepsFld.endStorm hplain hpkg (fun e => .of_block (by decide) (by decide) (by rw [hblock]; decide)) s).trans
    (.each _ _ fun t k _ => .resumeMaybe (by rw [hblock]; decide) t k)

/-- An accepted TAIL shows, and ends the storm of its die when the ring is empty and the action queue has room. -/
theorem State.errTail_accepted (h : s.Tidy) {d v : Nat} (hd : s.errDepth d v ≤ 256) :
    (s.errTail d v).fld (page d B.ERR) R.ERR_TAIL_TAIL = v % 2 ^ 32
      ∧ (s.errDepth d v = 0 → (s.acts d).waiting.length < 64 → (s.errTail d v).on (page d B.ERR) R.ERR_STS_STORM = false) := by
  have htail := State.fld_put_same h.regs (page d B.ERR) R.ERR_TAIL_TAIL v (by decide)
  have h1 := State.put_tidy (page d B.ERR) R.ERR_TAIL_TAIL v h
  have h2 := State.put_tidy (page d B.ERR) R.ERR_STS_STORM 0 h1
  have hends {f : Fld} (hf : f = R.ERR_TAIL_TAIL ∨ f = R.ERR_STS_STORM) := (KeepsFld.stormEnds d hf
    ((s.put (page d B.ERR) R.ERR_TAIL_TAIL v).put (page d B.ERR) R.ERR_STS_STORM 0) h2).2
  have hbranch : s.errTail d v = _ := if_neg (Nat.not_lt.2 hd)
  rw [hbranch]
  split
  next hc =>
    refine ⟨?_, fun _ _ => ?_⟩
    · rw [hends (.inl rfl), State.fld_put_apart h1.regs _ _ _ _ _ (by decide)
        (FldApart.of_off (by decide) (by decide) (by decide))]
      exact htail
    · rw [State.on, hends (.inr rfl), State.fld_put_same h1.regs _ _ _ (by decide)]
      rfl
  next hc =>
    refine ⟨htail, fun h0 hroom => ?_⟩
    simp only [Bool.and_eq_true, decide_eq_true_eq, not_and, Bool.not_eq_true] at hc
    exact hc ⟨h0, hroom⟩

/-! Statistics (R402). -/

theorem State.word_zeroWords (b : Nat) :
    ∀ (n : Nat) {s : State}, s.Tidy → ∀ i < n, (forUpto (fun i s => s.setWord (b + 8 * i) 0) n s).word (b + 8 * i) = 0
  | 0, _, _, _, hi => absurd hi (Nat.not_lt_zero _)
  | n + 1, s, h, i, hi => by
    have ht := forUpto_tidy (f := fun i s => s.setWord (b + 8 * i) 0) (fun i s hs => State.setWord_tidy _ _ hs) n h
    by_cases he : i = n
    · subst he
      exact State.word_setWord_same ht.regs _ _
    · refine (State.word_setWord_other _ _ _ (by omega)).trans ?_
      exact State.word_zeroWords b n h i (by omega)

/-- CLEAR zeroes every statistics entry. -/
theorem State.word_clearStats (h : s.Tidy) {i : Nat} (hi : i < 256) : s.clearStats.word (clxPage + 0x5000 + 8 * i) = 0 := by
  refine (State.word_put_other clxPage R.CLX_NOISE_TOTAL_BNOISE_TOTAL _ _ ?_).trans (State.word_zeroWords _ 256 h i hi)
  simp only [R.CLX_NOISE_TOTAL_BNOISE_TOTAL]
  omega

/-- A write of CLX_STAT_CTL with CLEAR zeroes the statistics. -/
theorem State.clxWrite_clear (s : State) {v : Nat} (hv : bitOn v 9 = true) :
    s.clxWrite R.CLX_STAT_CTL.off v = (s.plain (clxPage + R.CLX_STAT_CTL.off) v).clearStats := by
  rw [State.clxWrite, if_neg (by decide), if_neg (by decide), if_pos (by rfl), if_pos hv]

/-! The commands of the common header. -/

theorem State.blockWrite_errTail (s : State) (p d v : Nat) :
    s.blockWrite p d B.ERR R.ERR_TAIL.off v = s.errTail d (bits v 0 32) := by
  have hb : (blockOf B.ERR).getD 0 = 0x02 := rfl
  simp only [State.blockWrite, hb, R.ERR_TAIL, if_true]

theorem State.blockWrite_clx (s : State) (p d off v : Nat) : s.blockWrite p d B.CLX off v = s.clxWrite off v := by
  have hb : (blockOf B.CLX).getD 0 = 0x13 := rfl
  simp only [State.blockWrite, hb]

/-- R9: a plain write of a header register changes its word only, bit by bit. -/
theorem registerWrite_header (hs : s.Tidy) (h : s.writes x a = true) (v : Word)
    (ho : a % 0x10000 = 0x10 ∨ a % 0x10000 = 0x20 ∨ a % 0x10000 = 0x28) :
    let masks := writeMasks (a / 0x1000000) ((blockOf (a / 0x10000 % 0x100)).getD 0) (a % 0x10000)
    Answers (.registerWrite x a v) s fun t => OnlyWords s t [a] ∧ ∀ i, i < 64 → bitOn (t.word a) i =
      if bitOn masks.1 i then bitOn v.toNat i else bitOn (s.word a) i && !(bitOn masks.2 i && bitOn v.toNat i) := by
  obtain ⟨u, hu, hkept, hpage, hwrite⟩ := State.hostWrite_of_writes hs h v.toNat (by omega)
  rw [State.writeReg_plain hpage _ _ ho] at hwrite
  refine ⟨_, hwrite, (hkept.of_nil _).trans (.plain u a _), fun i hi => ?_⟩
  have hword : u.word a = s.word a := hkept.word a (by simp [accounting, R.INT_STS]; omega) List.not_mem_nil
  rw [← hword]
  exact State.bitOn_plain hu a _ hi

/-- R623: a write of INT_EN sets the bits that the page defines, and changes no other word. -/
theorem intEnWrite_enables (hs : s.Tidy) {n : Nat} (h : s.writes x (0x10000 * n + R.INT_EN.off) = true) (v : Word) :
    Answers (.intEnWrite x n v) s fun t => OnlyWords s t [0x10000 * n + R.INT_EN.off]
      ∧ t.fld (0x10000 * n) R.INT_EN_ENABLE = bits v.toNat 0 16 &&& bits (s.word (0x10000 * n + 8)) 0 16 := by
  have hoff : (0x10000 * n + R.INT_EN.off) % 0x10000 = R.INT_EN.off := by simp only [R.INT_EN]; omega
  have hbase : (0x10000 * n + R.INT_EN.off) / 0x10000 * 0x10000 = 0x10000 * n := by simp only [R.INT_EN]; omega
  have hcaps : accounting (0x10000 * n + 8) = false := by simp [accounting, R.INT_STS]
  obtain ⟨u, hu, hkept, hpage, hwrite⟩ := State.hostWrite_of_writes hs h v.toNat (by rw [hoff]; decide)
  rw [State.writeReg_intEn hpage _ _ hoff, hbase] at hwrite
  refine ⟨_, hwrite, (hkept.of_nil _).trans (.intEnable u _ _), ?_⟩
  rw [State.intEnable_fld hu, hkept.word _ hcaps List.not_mem_nil]

/-- R614: the page of a die that is not present reads zero and ignores writes. -/
theorem absent_page (h : s.hears x = true) (hd : a / 0x1000000 < 4) (hp : s.present (a / 0x1000000) = false)
    (hst : s.started = true) (v : Word) :
    s.readReg a = 0 ∧ Answers (.registerWrite x a v) s fun t => OnlyWords s t [] := by
  have hshut := State.pageReads_of_absent hst hd hp (a / 0x10000 % 0x100)
  refine ⟨by simp [State.readReg, hshut], State.hostWrite_of_shut h ?_ v.toNat⟩
  rw [State.pageWrites, hshut, Bool.false_and]

/-- A write of FENCE of an array fences it, or ends its host fence (R119, R505). -/
theorem fenceWrite_array (hs : s.Tidy) (d : Fin 4) (h : s.writes x (page d B.ARY + R.FENCE.off) = true) (v : Word) :
    ∃ u : State, u.Tidy ∧ OnlyWords s u []
      ∧ exec (.fenceWrite x (256 * d + B.ARY) v) s = .next (u.fenceArray d (bitOn v.toNat 0)) := by
  obtain ⟨hdie, hblock, hoff⟩ := page_offset d (i := B.ARY) (off := R.FENCE.off) (by decide) (by decide)
  obtain ⟨u, hu, hkept, hpage, hwrite⟩ := State.hostWrite_of_writes hs h v.toNat (by rw [hoff]; decide)
  rw [State.writeReg_fence hpage _ _ hoff, hdie, hblock] at hwrite
  have haddr : 0x10000 * (256 * d.val + B.ARY) + R.FENCE.off = page d B.ARY + R.FENCE.off := by unfold page; omega
  have hfence : u.fenceReg d B.ARY v.toNat = u.fenceArray d (bitOn v.toNat 0) := if_pos ⟨d.isLt, rfl⟩
  rw [hfence, ← haddr] at hwrite
  exact ⟨u, hu, hkept, hwrite⟩

/-- A write of ERR_TAIL of a die. -/
theorem errTailWrite_errTail (hs : s.Tidy) (e : Fin 5) (h : s.writes x (page e B.ERR + R.ERR_TAIL.off) = true) (v : Word) :
    ∃ u : State, u.Tidy ∧ OnlyWords s u [] ∧ exec (.errTailWrite x e v) s = .next (u.errTail e (bits v.toNat 0 32)) := by
  obtain ⟨hdie, hblock, hoff⟩ := page_offset e (i := B.ERR) (off := R.ERR_TAIL.off) (by decide) (by decide)
  obtain ⟨u, hu, hkept, hpage, hwrite⟩ := State.hostWrite_of_writes hs h v.toNat (by rw [hoff]; decide)
  rw [State.writeReg_block hpage _ _ (by rw [hoff]; decide) (by rw [hoff]; decide), hdie, hblock, hoff,
    State.blockWrite_errTail] at hwrite
  exact ⟨u, hu, hkept, hwrite⟩

/-- STATS_CLEAR writes CLX_STAT_CTL with CLEAR, and zeroes the statistics (R402). -/
theorem statsClear_zeroes (hs : s.Tidy) (h : s.writes x (clxPage + R.CLX_STAT_CTL.off) = true) (v : Word) :
    Answers (.statsClear x v) s fun t => ∀ i, i < 256 → t.word (clxPage + 0x5000 + 8 * i) = 0 := by
  obtain ⟨hdie, hblock, hoff⟩ := page_offset 4 (i := B.CLX) (off := R.CLX_STAT_CTL.off) (by decide) (by decide)
  rw [← clxPage] at hdie hblock hoff
  have hclear : bitOn (setBits v.toNat 9 1 1) 9 = true := by rw [bitOn, bits_setBits_same]; rfl
  obtain ⟨u, hu, -, hpage, hwrite⟩ := State.hostWrite_of_writes hs h (setBits v.toNat 9 1 1) (by rw [hoff]; decide)
  rw [State.writeReg_block hpage _ _ (by rw [hoff]; decide) (by rw [hoff]; decide), hdie, hblock, hoff,
    State.blockWrite_clx, State.clxWrite_clear _ hclear] at hwrite
  exact ⟨_, hwrite, fun i hi => State.word_clearStats (State.plain_tidy _ _ _ hu) hi⟩

/-- Settles O48: each write that is taken counts itself, and then does what its register's rule says. -/
theorem headerFencesAndTails : Obligations.HeaderFencesAndTails := by
  unfold Obligations.HeaderFencesAndTails
  refine ⟨fun s x a n v hs => ⟨fun hhears _ hd hp hst => absent_page hhears hd hp hst v, fun h =>
    ⟨registerWrite_header hs h v, ?_, State.hostWrite_debug h v.toNat⟩⟩, fun s x d e v hs => ⟨?_, ?_, ?_⟩⟩
  · rintro rfl
    exact intEnWrite_enables hs h v
  · intro h hw
    obtain ⟨u, hu, hkept, hexec⟩ := fenceWrite_array hs d h v
    have hw : u.hwFences.contains (page d B.ARY) = false := hkept.1.hwFences ▸ hw
    have hplain := (unreported_of_arrayOwn d (f := R.FENCE_HOST_FENCE) (by decide)).plain
    have hon : u.on (page d B.ARY) R.FENCE_HOST_FENCE = s.on (page d B.ARY) R.FENCE_HOST_FENCE :=
      congrArg (· != 0) (hkept.fld _ _ hplain List.not_mem_nil)
    refine ⟨_, hexec, fun hv hoff => ?_, fun hv => ?_⟩
    · rw [hv]
      exact State.fenceArray_true hu d hw (hon.trans hoff)
    · rw [hv]
      exact State.fenceArray_false hu d hw
  · intro h
    obtain ⟨u, hu, hkept, hexec⟩ := errTailWrite_errTail hs e h v
    have hlow : bits v.toNat 0 32 % 2 ^ 32 = v.toNat % 2 ^ 32 := by simp [bits]
    have hhead : u.fld (page e B.ERR) R.ERR_HEAD_HEAD = s.fld (page e B.ERR) R.ERR_HEAD_HEAD :=
      hkept.fld _ _ (accounting_page e (by decide) (by decide) (by decide) (by decide)) List.not_mem_nil
    have hdepth : u.errDepth e (bits v.toNat 0 32) = s.errDepth e v.toNat := by
      rw [State.errDepth, State.errDepth, hlow, hhead]
    refine ⟨_, hexec, fun hle => ?_, fun h0 hroom => ?_, fun hgt => ?_⟩
    · exact (State.errTail_accepted hu (hdepth ▸ hle)).1.trans hlow
    · have h0 : u.errDepth e (bits v.toNat 0 32) = 0 := hdepth.trans h0
      exact (State.errTail_accepted hu (by omega)).2 h0 (hkept.1.acts e ▸ hroom)
    · rw [State.errTail_refused (hdepth ▸ hgt)]
      exact hkept
  · exact fun h => statsClear_zeroes hs h v

end Sys2Proof.Machine
end

section
/-! Unit cores of a die that has lost the floor (R312): its units stop where they stand, so no instruction issues there. -/

namespace Sys2Proof.Machine

variable {s : State} {d : Nat}

/-- R312: on a die that has lost the floor an instruction changes nothing, whatever it would do. -/
theorem State.issue_of_floorLost (h : s.floorLost d = true) (u lo hi : Nat) (run : State → Cmd → Nat → Issue) :
    s.issue d u lo hi run = s := by
  unfold State.issue
  extract_lets x
  split
  next => rfl
  next c _ => exact if_pos (Or.inr h)

/-- On such a die TILE_CONVERSION leaves the program counter of its unit where it is. -/
theorem tileConversion_pc_of_floorLost {t : State} {d : Fin 4} {vu : Fin 64} {src : Blocked} (h : s.floorLost d = true)
    (ht : exec (.tileConversion d vu src) s = .next t) : (t.unit d vu).pc = (s.unit d vu).pc := by
  have hstays : exec (.tileConversion d vu src) s = .next s :=
    congrArg Host.Outcome.next (State.issue_of_floorLost h _ _ _ _)
  rw [Host.Outcome.next.inj (ht.symm.trans hstays)]

/-- The statement fails of a unit on such a die that stands at a conversion from FP32 to BF16. -/
theorem not_conversionsAndQuantisation_of_floorLost {d : Fin 4} {vu : Fin 64} {c : Cmd} {w : Nat}
    (hfloor : s.floorLost d = true) (hissues : s.issues d vu c w 0x58 0x5F = true) (hfmt : iFmt w = some .bf16)
    (hrnd : convertible .fp32 .bf16 (iRnd w) = true) : ¬ Obligations.ConversionsAndQuantisation := by
  unfold Obligations.ConversionsAndQuantisation
  rintro ⟨hunit, -⟩
  obtain ⟨hconverts, -⟩ := hunit s d vu c w hissues
  obtain ⟨t, hexec, -, hbecomes, -⟩ := hconverts .fp32 .bf16 .rows hfmt hrnd nofun
  have hpassed : (t.unit d vu).pc = (s.unit d vu).pc + 8 := congrArg UnitCore.pc hbecomes
  rw [tileConversion_pc_of_floorLost hfloor hexec] at hpassed
  omega

/-- TILE_CONVERSION with destination BF16, to nearest, of tile 0 into itself. -/
def conversionToBf16 : Nat := 0x58 * 2 ^ 56 + fmtCode .bf16 * 2 ^ 28

/-- A KERNEL of die 0 that holds unit 0. -/
def kernelOfUnit0 : Cmd :=
  { id := 0, die := 0, queue := 0, context := 0, number := 0, words := [], units := [0], stage := .vectorRun }

/-- Unit 0 of die 0 runs that KERNEL and stands at the conversion, which staging holds; the die is present, and one
partition of the context covers the map. -/
def unitAtConversion : State :=
  (({ State.reset with
      mem := [(stgBase + 3, 0x10), (stgBase + 7, 0x58)]
      units := [(0, { op := some 0, mode := .running, pc := stgBase })]
      cmds := [kernelOfUnit0]
      nextId := 1 }.put d2dFloor (R.D2D_DIE_CTL_STATE 0) 0).put (partBase 0 0) (R.PARTITION_W0_VALID 0) 1).put
    (partBase 0 0) (R.PARTITION_W1_LIMIT 0) (2 ^ 36 - 1)

/-- The same after the die has declared the floor lost. -/
def stoppedAtConversion : State := unitAtConversion.loseFloor 0

/-- FLOOR_LOST leads there. -/
theorem exec_floorLost_unitAtConversion : exec (.floorLost 0) unitAtConversion = .next stoppedAtConversion :=
  congrArg Host.Outcome.next (if_pos (by decide +kernel))

theorem stoppedAtConversion_tidy : stoppedAtConversion.Tidy := State.tidy_of_tidyB _ (by decide +kernel)

theorem stoppedAtConversion_floorLost : stoppedAtConversion.floorLost (0 : Fin 4) = true := by decide +kernel

/-- The unit still stands at the conversion, with its KERNEL running. -/
theorem stoppedAtConversion_issues : stoppedAtConversion.issues 0 0 kernelOfUnit0 conversionToBf16 0x58 0x5F = true := by
  decide +kernel

/-- Refutes O19: `State.issues` does not ask that the die has the floor. Once FLOOR_LOST has stopped the units of die 0
(R312), unit 0 stands at a conversion from FP32 to BF16 that R51 allows, and TILE_CONVERSION leaves its program counter where
it is. -/
theorem not_conversionsAndQuantisation : ¬ Obligations.ConversionsAndQuantisation :=
  not_conversionsAndQuantisation_of_floorLost stoppedAtConversion_floorLost stoppedAtConversion_issues
    (by decide) (by decide)

end Sys2Proof.Machine
end

section
/-! What an operation may change as it starts: some words of the registers, and parts of the state that a projection does
not see. -/

namespace Sys2Proof.Machine

variable {α : Type} {p : State → α} {W : Nat → Prop} {s t u : State}

/-- A projection that does not see registers and messages. -/
def RegBlind (p : State → α) : Prop := ∀ s t, PartsKept s t → p t = p s

/-- From a tidy state the change leads to a tidy one; the projection is as before, and so is every word outside `W` that
counts nothing. -/
structure Changes (p : State → α) (W : Nat → Prop) (s t : State) : Prop where
  tidy  : s.Tidy → t.Tidy
  part  : p t = p s
  words : ∀ a, accounting a = false → ¬ W a → t.word a = s.word a

theorem Changes.refl (s : State) : Changes p W s s := ⟨id, rfl, fun _ _ _ => rfl⟩

theorem Changes.trans (h1 : Changes p W s t) (h2 : Changes p W t u) : Changes p W s u :=
  ⟨h2.tidy ∘ h1.tidy, h2.part.trans h1.part, fun a ha hw => (h2.words a ha hw).trans (h1.words a ha hw)⟩

theorem Changes.ite {c : Prop} [Decidable c] (ht : Changes p W s t) (hu : Changes p W s u) :
    Changes p W s (if c then t else u) := by
  split <;> assumption

/-- A fold makes no change that none of its steps makes. -/
theorem Changes.each {β : Type} {f : State → β → State} :
    ∀ (l : List β) (s : State), (∀ s, ∀ x ∈ l, Changes p W s (f s x)) → Changes p W s (s.each l f)
  | [], s, _ => .refl s
  | x :: l, s, h => (h s x List.mem_cons_self).trans (Changes.each l (f s x) fun s y hy => h s y (List.mem_cons_of_mem _ hy))

/-- A field of a word outside `W` that counts nothing reads as before. -/
theorem Changes.fld (h : Changes p W s t) (pg : Nat) (f : Fld) (ha : accounting (pg + f.off) = false) (hw : ¬ W (pg + f.off)) :
    t.fld pg f = s.fld pg f := by
  rw [State.fld, State.fld, h.words _ ha hw]

theorem Changes.on (h : Changes p W s t) (pg : Nat) (f : Fld) (ha : accounting (pg + f.off) = false) (hw : ¬ W (pg + f.off)) :
    t.on pg f = s.on pg f := congrArg (· != 0) (h.fld pg f ha hw)

section Registers
variable (hp : RegBlind p)
include hp

theorem Changes.of_onlyWords (ht : s.Tidy → t.Tidy) (h : OnlyWords s t []) : Changes p W s t :=
  ⟨ht, hp s t h.1, fun a ha _ => h.2 a ha rfl⟩

theorem Changes.setWord (s : State) (a n : Nat) (h : W a) : Changes p W s (s.setWord a n) :=
  ⟨State.setWord_tidy a n, hp _ _ rfl, fun _ _ hb => State.word_setWord_other _ _ _ fun he => hb (he ▸ h)⟩

theorem Changes.put (s : State) (pg : Nat) (f : Fld) (n : Nat) (h : W (pg + f.off)) : Changes p W s (s.put pg f n) :=
  .setWord hp s _ _ h

theorem Changes.count (s : State) (pg : Nat) (c : Fld) (k : Nat)
    (h : counterAddr ((pg + c.off) / 0x1000000) (counterIndex (pg + c.off)) = some (pg + c.off)) :
    Changes p W s (s.count pg c k) := .of_onlyWords hp (State.count_tidy s pg c k) (.count s pg c k [] h)

end Registers

/-! What counts the bytes that are read and written. -/

theorem stackOf_lt (a : Nat) : stackOf a < 16 := Nat.xor_lt_two_pow (n := 4) (bits_lt _ _ _) (bits_lt _ _ _)

/-- The quadrants and dies that addresses reach. -/
theorem regionOf_staging_lt {a q : Nat} (h : regionOf a = some (.staging q)) : q < 4 := by
  unfold regionOf at h
  split_ifs at h <;> simp only [Option.some.injEq, Region.staging.injEq, reduceCtorEq] at h
  simp only [stgBase] at *
  omega

theorem regionOf_acc_lt {a d : Nat} (h : regionOf a = some (.acc d)) : d < 4 := by
  unfold regionOf at h
  split_ifs at h <;> simp only [Option.some.injEq, Region.acc.injEq, reduceCtorEq] at h
  simp only [accBase] at *
  omega

theorem counterAddr_mct (r : Fin 16) (c : Fld) (h : c ∈ [C.MCT_READ_BYTES, C.MCT_WRITE_BYTES, C.MCT_POISON_READS]) :
    counterAddr ((page 4 (B.MCT + r) + c.off) / 0x1000000) (counterIndex (page 4 (B.MCT + r) + c.off))
      = some (page 4 (B.MCT + r) + c.off) := by
  revert r c
  decide

theorem counterAddr_stg (q : Fin 4) (c : Fld) (h : c ∈ [C.STG_READ_BYTES_0, C.STG_WRITE_BYTES_0]) :
    counterAddr ((page 4 B.STG + (nth c q).off) / 0x1000000) (counterIndex (page 4 B.STG + (nth c q).off))
      = some (page 4 B.STG + (nth c q).off) := by
  revert q c
  decide

theorem counterAddr_acc (d : Fin 4) (c : Fld) (h : c ∈ [C.ACC_VECTOR_WRITE_BYTES, C.ACC_VECTOR_READ_BYTES,
    C.ACC_ARRAY_WRITE_BYTES, C.ACC_WINDOW_BYTES]) :
    counterAddr ((page d B.ACC + c.off) / 0x1000000) (counterIndex (page d B.ACC + c.off)) = some (page d B.ACC + c.off) := by
  revert d c
  decide

/-- Counting the bytes of a granule counts and flags only. -/
theorem OnlyWords.countBytes (s : State) (via : Via) (write : Bool) (g n : Nat) : OnlyWords s (s.countBytes via write g n) [] := by
  unfold State.countBytes
  split
  · exact .refl s []
  · split
    next =>
      extract_lets pg t
      have ht : OnlyWords s t [] :=
        .count s _ _ _ _ (counterAddr_mct ⟨stackOf g, stackOf_lt g⟩ _ (by cases write <;> simp))
      split
      · exact ht.trans (.count t _ _ _ _ (counterAddr_mct ⟨stackOf g, stackOf_lt g⟩ _ (by simp)))
      · exact ht
    next q hq =>
      have hc := counterAddr_stg ⟨q, regionOf_staging_lt hq⟩ (if write then C.STG_WRITE_BYTES_0 else C.STG_READ_BYTES_0)
        (by cases write <;> simp)
      cases write <;> exact .count s _ _ _ _ hc
    next d hd =>
      refine .count s _ _ _ _ (counterAddr_acc ⟨d, regionOf_acc_lt hd⟩ _ ?_)
      cases via <;> cases write <;> simp
    next => exact .refl s []

theorem OnlyWords.countRead (s : State) (via : Via) (a len : Nat) : OnlyWords s (s.countRead via a len) [] := by
  unfold State.countRead
  split
  · exact .refl s []
  · exact .each _ (fun t i => .countBytes t via false _ _) _ s

end Sys2Proof.Machine
end

section
/-! Reads of memory do not see what counts and flags: the spares of the retired pages (R217), which stand in the registers of
MCT0, are found among the listed words whatever else is listed. -/

namespace Sys2Proof.Machine

variable {α β : Type} {s t : State}

/-- What a canonical table lists is what its keys read as, unless it is what an unlisted key reads as. -/
theorem Table.mem_iff_get (dflt : Nat → α) (e : Nat × α) :
    ∀ t : Table α, Table.wf dflt t → (e ∈ t ↔ Table.get dflt t e.1 = e.2 ∧ e.2 ≠ dflt e.1)
  | [], _ => by simp [Table.get, eq_comm]
  | (j, w) :: t, h => by
    have hp := List.pairwise_cons.1 h.1
    have ht : Table.wf dflt t := ⟨hp.2, fun e he => h.2 e (List.mem_cons_of_mem _ he)⟩
    have ih := Table.mem_iff_get dflt e t ht
    by_cases hj : e.1 = j
    · have hnot : e ∉ t := fun he => absurd (hj ▸ hp.1 e he) (Nat.lt_irrefl _)
      have hw := h.2 (j, w) List.mem_cons_self
      simp only [List.mem_cons, hnot, or_false, Table.get, if_pos hj]
      refine ⟨fun he => ?_, fun he => Prod.ext hj he.1.symm⟩
      subst he
      exact ⟨rfl, hw⟩
    · have hne : e ≠ (j, w) := fun he => hj (congrArg Prod.fst he)
      simp only [List.mem_cons, hne, false_or, Table.get, if_neg hj, ih]

/-- Two canonical tables that read alike at some keys list alike there. -/
theorem Table.filter_eq_of_get (dflt : Nat → α) (P : Nat → Bool) {t u : Table α} (ht : Table.wf dflt t) (hu : Table.wf dflt u)
    (h : ∀ k, P k = true → Table.get dflt t k = Table.get dflt u k) :
    t.filter (fun e => P e.1) = u.filter (fun e => P e.1) := by
  have hirrefl : Std.Irrefl fun a b : Nat × α => a.1 < b.1 := ⟨fun a => Nat.lt_irrefl a.1⟩
  have hantisymm : Std.Antisymm fun a b : Nat × α => a.1 < b.1 := ⟨fun a b h1 h2 => absurd h1 (Nat.lt_asymm h2)⟩
  refine List.Pairwise.eq_of_mem_iff (ht.1.filter _) (hu.1.filter _) fun e => ?_
  simp only [List.mem_filter, Table.mem_iff_get dflt e t ht, Table.mem_iff_get dflt e u hu]
  refine and_congr_left fun he => ?_
  rw [h e.1 he]

/-- A search passes over what it does not look at. -/
theorem findSome?_filter (f : α → Option β) (P : α → Bool) (h : ∀ a, P a = false → f a = none) :
    ∀ l : List α, (l.filter P).findSome? f = l.findSome? f
  | [] => rfl
  | a :: l => by
    cases hP : P a
    · rw [List.filter_cons_of_neg (by simp [hP]), List.findSome?_cons_of_isNone (by simp [h a hP]), findSome?_filter f P h l]
    · rw [List.filter_cons_of_pos hP, List.findSome?_cons, List.findSome?_cons, findSome?_filter f P h l]

/-- The words of the retirement table, on the first page of MCT (R244). -/
def retireWord (a : Nat) : Bool :=
  a / 0x10000 % 0x100 == B.MCT && decide (0x1000 ≤ a % 0x10000) && decide (a % 0x10000 < 0x3000)

/-- They count nothing. -/
theorem accounting_retireWord {a : Nat} (h : retireWord a = true) : accounting a = false := by
  simp only [retireWord, Bool.and_eq_true, decide_eq_true_eq, beq_iff_eq] at h
  obtain ⟨⟨hblock, hlow⟩, hhigh⟩ := h
  have hint : a % 0x10000 ≠ R.INT_STS.off := by simp only [R.INT_STS]; omega
  simp [accounting, hblock, hint]
  omega

theorem retireWord_of_bounds {a : Nat} (h : page 4 B.MCT + 0x1000 ≤ a ∧ a < page 4 B.MCT + 0x1000 + 8192) :
    retireWord a = true := by
  simp only [page, B.MCT] at h
  simp only [retireWord, B.MCT, Bool.and_eq_true, decide_eq_true_eq, beq_iff_eq]
  omega

/-- The search for the spare of a page looks at the retirement table alone. -/
theorem State.spareOf_eq (s : State) (n : Nat) : s.spareOf n = (s.regs.filter fun e => retireWord e.1).findSome? fun e =>
    if page 4 B.MCT + 0x1000 ≤ e.1 ∧ e.1 < page 4 B.MCT + 0x1000 + 8192 ∧ bitOn e.2.toNat 63 ∧ bits e.2.toNat 0 20 = n
    then some (bits e.2.toNat 32 20) else none := by
  refine (findSome?_filter _ _ (fun e he => if_neg fun hin => ?_) s.regs).symm
  rw [retireWord_of_bounds ⟨hin.1, hin.2.1⟩] at he
  cases he

theorem OnlyWords.spareOf (h : OnlyWords s t []) (hs : s.Tidy) (ht : t.Tidy) (n : Nat) : t.spareOf n = s.spareOf n := by
  have hword (k : Nat) (hk : retireWord k = true) : Table.get resetWord t.regs k = Table.get resetWord s.regs k :=
    BitVec.eq_of_toNat_eq (h.word k (accounting_retireWord hk) List.not_mem_nil)
  rw [State.spareOf_eq, State.spareOf_eq, Table.filter_eq_of_get resetWord retireWord ht.regs hs.regs hword]

section Reads
variable (h : PartsKept s t) (hspare : ∀ n, t.spareOf n = s.spareOf n)

include hspare in
theorem State.phys_of_spareOf (a : Nat) : t.phys a = s.phys a := by
  rw [State.phys, State.phys, hspare]

include h hspare

theorem PartsKept.badAt (a : Nat) : t.badAt a = s.badAt a := by
  have hf (b : Nat) : t.fencedAt b = s.fencedAt b := h.part (State.fencedAt · b) fun _ _ _ _ => rfl
  have hp : t.poison = s.poison := h.part State.poison fun _ _ _ _ => rfl
  rw [State.badAt, State.badAt, State.phys_of_spareOf hspare, hf, hp]

theorem PartsKept.byteAt (a : Nat) : t.byteAt a = s.byteAt a := by
  have hraw (b : Nat) : t.rawByte b = s.rawByte b := h.part (State.rawByte · b) fun _ _ _ _ => rfl
  rw [State.byteAt, State.byteAt, h.badAt hspare, State.phys_of_spareOf hspare, hraw]

/-- A read delivers what it delivered before. -/
theorem PartsKept.byte : t.byte = s.byte := by
  funext a
  have hbehind (b : Nat) : t.readBehind b = s.readBehind b := h.part (State.readBehind · b) fun _ _ _ _ => rfl
  have hf (b : Nat) : t.fencedAt b = s.fencedAt b := h.part (State.fencedAt · b) fun _ _ _ _ => rfl
  have hwith (b : Nat) (l : List HeldWrite) : t.granuleWith b l = s.granuleWith b l := by
    simp only [State.granuleWith, h.badAt hspare, h.byteAt hspare]
  have hbad (b : Nat) : t.bad b = s.bad b := by
    rw [State.bad, State.bad, hbehind, h.badAt hspare]
    simp only [State.phys_of_spareOf hspare, hf, hwith]
  rw [State.byte, State.byte, hbehind]
  simp only [h.byteAt hspare, hbad, hwith]

end Reads

/-- Reads of memory do not see what counts and flags. -/
theorem OnlyWords.byte (h : OnlyWords s t []) (hs : s.Tidy) (ht : t.Tidy) : t.byte = s.byte :=
  h.1.byte fun n => h.spareOf hs ht n

/-- The accumulator of an output element follows from the bytes that are read. -/
theorem State.aryAcc_of_byte (h : t.byte = s.byte) (d : List Nat) (i j : Nat) : t.aryAcc d i j = s.aryAcc d i j := by
  simp only [State.aryAcc, State.elem, State.load, State.bytes, h]

end Sys2Proof.Machine
end

section
/-! Fields on the pages of several dies, and the stamps of sampled commands: shared by starts and ends of operations. -/

namespace Sys2Proof.Machine

variable {α : Type} {p : State → α} {W : Nat → Prop} {s t : State}

/-! A field set on the pages of several dies. -/

theorem setBits_setBits (n lsb width v : Nat) : setBits (setBits n lsb width v) lsb width v = setBits n lsb width v := by
  refine Nat.eq_of_testBit_eq fun i => ?_
  simp only [testBit_setBits]
  split <;> rfl

theorem page_add_inj {d e i m : Nat} : page d i + m = page e i + m ↔ d = e := by
  unfold page
  omega

/-- The words of a block at an offset, on the dies of a list. -/
def onPages (l : List Nat) (i off : Nat) (a : Nat) : Prop := ∃ d ∈ l, a = page d i + off

theorem State.word_eachPut_other (i : Nat) (f : Fld) (n : Nat) :
    ∀ (l : List Nat) (s : State) (a : Nat), ¬ onPages l i f.off a →
      (s.each l fun s d => s.put (page d i) f n).word a = s.word a
  | [], _, _, _ => rfl
  | e :: l, _, a, h => (State.word_eachPut_other i f n l _ a fun ⟨d, hd, ha⟩ => h ⟨d, List.mem_cons_of_mem _ hd, ha⟩).trans
      (State.word_put_other _ _ _ _ fun ha => h ⟨e, List.mem_cons_self, ha⟩)

/-- The word of each of these dies has the field set and its other bits as before. -/
theorem State.word_eachPut (i : Nat) (f : Fld) (n : Nat) (hf : f.lsb + f.width ≤ 64) :
    ∀ (l : List Nat) {s : State}, s.Tidy → ∀ d ∈ l,
      (s.each l fun s d => s.put (page d i) f n).word (page d i + f.off) = setBits (s.word (page d i + f.off)) f.lsb f.width n
  | [], _, _, _, hd => nomatch hd
  | e :: l, s, h, d, hd => by
    have hsame := State.word_put_same h.regs (page e i) f n hf
    by_cases hl : d ∈ l
    · refine (State.word_eachPut i f n hf l (State.put_tidy (page e i) f n h) d hl).trans ?_
      by_cases he : d = e
      · subst he
        rw [hsame, setBits_setBits]
      · rw [State.word_put_other _ _ _ _ fun h => he (page_add_inj.1 h)]
    · obtain rfl : d = e := (List.mem_cons.1 hd).resolve_right hl
      exact (State.word_eachPut_other i f n l _ _ fun ⟨e, he, hde⟩ => hl (page_add_inj.1 hde ▸ he)).trans hsame

theorem State.fld_eachPut (i : Nat) (f : Fld) (n : Nat) (hf : f.lsb + f.width ≤ 64) (l : List Nat) (h : s.Tidy) {d : Nat}
    (hd : d ∈ l) : (s.each l fun s d => s.put (page d i) f n).fld (page d i) f = n % 2 ^ f.width := by
  rw [State.fld, State.word_eachPut i f n hf l h d hd, bits_setBits_same]

/-- Setting a field on the pages of some dies changes nothing else. -/
theorem Changes.eachPut (hp : RegBlind p) (s : State) (l : List Nat) (i : Nat) (f : Fld) (n : Nat)
    (hW : ∀ a, onPages l i f.off a → W a) : Changes p W s (s.each l fun s d => s.put (page d i) f n) :=
  .each l s fun t d hd => .put hp t _ _ _ (hW _ ⟨d, hd, rfl⟩)

/-! Stamps (R602–R604). -/

/-- A dispatched command without the stamps collected for its record. -/
def Cmd.unstamped (c : Cmd) : Cmd := { c with stamps := [] }

/-- A projection that sees neither registers, nor draws of free values, nor the stamps of commands. -/
structure StampBlind (p : State → α) : Prop where
  regs : RegBlind p
  stamps : ∀ (s : State) (n : Nat) (l : List Cmd), l.map Cmd.unstamped = s.cmds.map Cmd.unstamped →
    p { s with free := n, cmds := l } = p s

/-- What projects each command without its stamps does not see them. -/
theorem map_eq_of_unstamped {β : Type} {g : Cmd → β} (hg : ∀ c, g c.unstamped = g c) {l m : List Cmd}
    (h : l.map Cmd.unstamped = m.map Cmd.unstamped) : l.map g = m.map g := by
  have hfactor (k : List Cmd) : k.map g = (k.map Cmd.unstamped).map g := by
    rw [List.map_map]
    exact List.map_congr_left fun c _ => (hg c).symm
  rw [hfactor, hfactor m, h]

/-- Collecting a stamp changes the stamps of a command, and draws free values. -/
theorem Changes.stampCmd (hp : StampBlind p) (s : State) (c : Cmd) (word island : Nat) :
    Changes p W s (s.stampCmd c word island) := by
  have hmap (t : State) (f : Cmd → Cmd) (hf : ∀ x, { f x with id := x.id }.unstamped = x.unstamped) :
      Changes p W t (t.mapCmd c.id f) := by
    refine ⟨State.mapCmd_tidy t c.id f, hp.stamps t t.free _ ?_, fun _ _ _ => rfl⟩
    simp only [mapIf, List.map_map]
    refine List.map_congr_left fun x _ => ?_
    simp only [Function.comp]
    split
    · exact hf x
    · rfl
  unfold State.stampCmd
  split
  · have hdraw : Changes p W s (s.stampWord island).2 :=
      ⟨State.stampWord_tidy s island, hp.stamps s _ s.cmds rfl, fun _ _ _ => rfl⟩
    exact (hdraw.trans (.count hp.regs _ _ _ _ (by decide))).trans (hmap _ _ fun _ => rfl)
  · exact .refl s

end Sys2Proof.Machine
end

section
/-! Grants and starts of array operations (R71–R94, R102, R107, R111, R112, R124, R229). -/

namespace Sys2Proof.Machine

variable {s t : State} {c : Cmd} {d : Nat}

/-! Claims (R111). -/

/-- The oldest claim is granted, and GRAND_PENDING shows whether others wait. -/
theorem State.grandClaim_eq {id : Nat} {l : List Nat} (hc : s.claims = id :: l) (hg : s.granted = none)
    (hf : ∀ d : Fin 4, s.arrayFree d = true) :
    s.grandClaim = ({ s with claims := l, granted := some id } : State).each [0, 1, 2, 3] fun s d =>
      s.put (page d B.ARY) R.ARY_MODE_GRAND_PENDING (if l = [] then 0 else 1) := by
  have hfree : [0, 1, 2, 3].all s.arrayFree = true := by simpa using ⟨hf 0, hf 1, hf 2, hf 3⟩
  unfold State.grandClaim
  rw [hc]
  simp only [hg, hfree]
  cases l <;> rfl

theorem grandClaim_grantsOldest {id : Nat} {l : List Nat} (hs : s.Tidy) (hc : s.claims = id :: l) (hg : s.granted = none)
    (hf : ∀ d : Fin 4, s.arrayFree d = true) :
    Answers .grandClaim s fun t =>
      PartsKept s { t with claims := s.claims, granted := s.granted } ∧ t.claims = l ∧ t.granted = some id
      ∧ (∀ d : Fin 4, Sets s t (page d B.ARY) R.ARY_MODE_GRAND_PENDING (if l = [] then 0 else 1))
      ∧ WordsKept s t (words ((List.range 4).map fun d => page d B.ARY + R.ARY_MODE.off)) := by
  have hgranted : ({ s with claims := l, granted := some id } : State).Tidy := { hs with }
  have hmem (d : Fin 4) : d.val ∈ [0, 1, 2, 3] := by
    revert d
    decide
  refine ⟨_, congrArg Host.Outcome.next (State.grandClaim_eq hc hg hf), ?_, rfl, rfl, fun d => ?_, fun a _ ha => ?_⟩
  · rfl
  · rw [Sets, State.word_eachPut _ _ _ (by decide) _ hgranted d (hmem d), State.word_put_same hs.regs _ _ _ (by decide)]
    rfl
  · refine State.word_eachPut_other _ _ _ _ ({ s with claims := l, granted := some id } : State) a ?_
    rintro ⟨d, hd, rfl⟩
    have hin : page d B.ARY + R.ARY_MODE_GRAND_PENDING.off ∈ (List.range 4).map fun d => page d B.ARY + R.ARY_MODE.off :=
      List.mem_map.2 ⟨d, hd, rfl⟩
    rw [words, List.contains_iff_mem.2 hin] at ha
    cases ha

/-! Starts (R102, R107). -/

theorem State.mem_arrayRequests (h : c ∈ s.arrayRequests d) : c ∈ s.cmds := by
  unfold State.arrayRequests at h
  extract_lets all at h
  have hall : c ∈ all := by
    split at h
    · exact (List.mem_filter.1 h).1
    · exact h
  exact (List.mem_filter.1 hall).1

theorem firstByClass_mem {l : List Cmd} (h : firstByClass l = some c) : c ∈ l := by
  obtain ⟨k, -, hk⟩ := List.exists_of_findSome?_eq_some h
  exact List.mem_of_find?_eq_some hk

/-- What an array takes next is a dispatched command. -/
theorem State.mem_of_arrayNext (h : s.arrayNext d = some c) : c ∈ s.cmds := by
  unfold State.arrayNext at h
  split at h
  next x hx =>
    obtain ⟨id, -, hid⟩ := Option.bind_eq_some_iff.1 hx
    split at h
    · obtain rfl := Option.some.inj h
      exact List.mem_of_find?_eq_some hid
    · cases h
  next =>
    split at h
    · exact State.mem_arrayRequests (List.mem_filter.1 (firstByClass_mem h)).1
    · cases h

/-- Without a mapping due the spares of an array stay as they are. -/
theorem State.mapDue_of_none (h : s.spareDue = []) (d : Nat) : s.mapDue d = s := by
  unfold State.mapDue
  rw [h]
  exact ite_self s

/-- The dies whose arrays an operation takes. -/
def aryDies (d : List Nat) : List Nat := if aryGrand d then [0, 1, 2, 3] else [aryDie d]

/-- Whether an operation has no element. -/
def aryEmpty (d : List Nat) : Bool := aryM d == 0 || aryN d == 0

/-- Whether an operand of an operation that has an element is poisoned or fenced (R229). -/
def State.aryPoison (s : State) (d : List Nat) : Bool :=
  !aryEmpty d && (aryOperands d).any fun o => s.badRows o.1 o.2.1 o.2.2.1 o.2.2.2

/-- The accumulators of an operation, row by row (R89). -/
def State.aryAccs (s : State) (d : List Nat) (poison : Bool) : List Nat :=
  if aryEmpty d || poison then [] else tabulate (fun k => s.aryAcc d (k / aryN d) (k % aryN d)) (aryM d * aryN d)

/-- The state of a grant: the other LOW requests have waited through it (R280), and a granted claim is used up (R111). -/
def State.grantArray (s : State) (d : Nat) (c : Cmd) : State :=
  let aged := (s.arrayRequests d).filterMap fun x => if x.cls = 2 ∧ x.id ≠ c.id then some x.id else none
  { s with
    cmds := mapIf (fun x => aged.contains x.id) (fun x => { x with waited := x.waited + 1 }) s.cmds
    granted := if aryGrand c.desc then none else s.granted }

/-- The operands are counted as they are read. -/
def State.countOperands (s : State) (d : List Nat) : State :=
  if aryEmpty d then s else s.each (aryOperands d) fun s o => s.countRows .array o.1 o.2.1 o.2.2.1 o.2.2.2

/-- The additions of segments are counted (R222). -/
def State.countSegments (s : State) (d : List Nat) (poison : Bool) : State :=
  if arySegments d ≤ 1 || aryEmpty d || poison then s else
    s.each (aryWide d) fun s x =>
      s.count (page 4 B.WBF) (nth C.WBF_SEGMENT_ADDS_0 x) (aryM d * aryOutCols d x * arySegments d)

/-- The accumulators of the segments take the wide buffer (R89, R222). -/
def State.fillWide (s : State) (d : List Nat) : State :=
  if arySegments d ≤ 1 || aryEmpty d then s else s.lost (aryWide d)

/-- The command as it runs on its arrays. -/
def Cmd.onArrays (x : Cmd) (d : List Nat) (acc : List Nat) (poison : Bool) : Cmd :=
  { x with stage := .arrayRun, arrays := aryDies d, acc := acc, error := if poison then some (Err.MEM_POISON, 0) else x.error }

/-- The activations that enter the arrays of an operation are stamped (R603). -/
def State.stampStart (s : State) (c : Cmd) (poison : Bool) : State :=
  s.each (aryDies c.desc) fun s x =>
    (s.stampCmd c (1 + x) (x * 256)).when (!(aryEmpty c.desc || poison || aryK c.desc == 0)) fun s =>
      s.stampCmd c (5 + x) (x * 256)

/-- The command of an operation runs, with the accumulators of its operands (R89). -/
def State.runArray (s : State) (c : Cmd) : State :=
  let d := c.desc
  let poison := s.aryPoison d
  let t := s.countOperands d
  ((t.countSegments d poison).fillWide d).mapCmd c.id fun x => x.onArrays d (t.aryAccs d poison) poison

/-- The state in which an operation has taken its arrays. -/
def State.takeArrays (s : State) (c : Cmd) : State :=
  ((s.runArray c).each (aryDies c.desc) fun s x => s.put (page x B.ARY) R.ARY_MODE_ARRAY_BUSY 1).stampStart c
    (s.aryPoison c.desc)

theorem each_eq_self {α : Type} {f : State → α → State} : ∀ (l : List α), (∀ x ∈ l, f s x = s) → s.each l f = s
  | [], _ => rfl
  | x :: l, h => by
    show (f s x).each l f = s
    rw [h x List.mem_cons_self]
    exact each_eq_self l fun y hy => h y (List.mem_cons_of_mem _ hy)

/-- R102, R107: an operation whose arrays are usable and present, with no mapping of a spare due, is granted and takes them. -/
theorem State.arrayStart_eq (hnext : s.arrayNext d = some c) (hdue : s.spareDue = [])
    (husable : s.aryUsable c.die c.desc = none) (hpres : ∀ e ∈ aryDies c.desc, s.present e = true) :
    s.arrayStart d = (s.grantArray d c).takeArrays c := by
  unfold State.arrayStart
  split
  next h => rw [hnext] at h; cases h
  next x hx =>
    obtain rfl : c = x := Option.some.inj (hnext.symm.trans hx)
    extract_lets aged s1 s2 dies s3
    have hgrant : s2 = s.grantArray d c := by
      unfold State.grantArray
      simp only [s2, s1, aged]
      split <;> rfl
    have hmap : s3 = s.grantArray d c := by
      rw [← hgrant]
      exact each_eq_self dies fun e _ => State.mapDue_of_none (hgrant ▸ hdue) e
    clear_value s3
    subst hmap
    have husable' : (s.grantArray d c).aryUsable c.die c.desc = none := husable
    split
    next e he => rw [husable'] at he; cases he
    next =>
      rename_i desc empty n spans lost poison s4 acc s5 s6 s7 s8 _ _
      have hlost : lost = none := List.find?_eq_none.2 fun e he => by
        rw [show (s.grantArray d c).present e = s.present e from rfl, hpres e he]
        decide
      clear_value lost
      subst hlost
      rfl

/-! What the start of an operation leaves. -/

theorem OnlyWords.countOperands (s : State) (d : List Nat) : OnlyWords s (s.countOperands d) [] := by
  unfold State.countOperands
  split
  · exact .refl s []
  · exact .each _ (fun t _ => .each _ (fun u _ => .countRead u .array _ _) _ t) _ s

theorem State.countOperands_tidy (h : s.Tidy) (d : List Nat) : (s.countOperands d).Tidy :=
  .ite h (.each (fun _ _ ht => .each (fun u _ hu => State.countRead_tidy u .array _ _ hu) ht) h)

/-- The accumulators are the dot products of the operands as they stood. -/
theorem State.aryAccs_countOperands (h : s.Tidy) (d : List Nat) (poison : Bool) :
    (s.countOperands d).aryAccs d poison = s.aryAccs d poison := by
  have hbyte := (OnlyWords.countOperands s d).byte h (State.countOperands_tidy h d)
  simp only [State.aryAccs, State.aryAcc_of_byte hbyte]

theorem counterAddr_wbf (x : Fin 4) :
    counterAddr ((page 4 B.WBF + (nth C.WBF_SEGMENT_ADDS_0 x).off) / 0x1000000)
      (counterIndex (page 4 B.WBF + (nth C.WBF_SEGMENT_ADDS_0 x).off)) = some (page 4 B.WBF + (nth C.WBF_SEGMENT_ADDS_0 x).off) := by
  revert x
  decide

theorem aryWide_lt {d : List Nat} {x : Nat} (h : x ∈ aryWide d) : x < 4 := by
  have hdie : aryDie d < 4 := bits_lt _ _ _
  unfold aryWide at h
  split at h <;> simp only [List.mem_cons, List.not_mem_nil, or_false] at h <;> omega

/-- What the start of an operation shows of a dispatched command. -/
def Cmd.runView (c : Cmd) : Nat × Stage × List Nat × List Nat × Option (Nat × Nat) := (c.id, c.stage, c.arrays, c.acc, c.error)

/-- Memory, its poison, and what runs. -/
def State.runView (s : State) : Table Byte × List Nat × List (Nat × Stage × List Nat × List Nat × Option (Nat × Nat)) :=
  (s.mem, s.poison, s.cmds.map Cmd.runView)

theorem State.runView_stampBlind : StampBlind State.runView where
  regs s t h := h.part State.runView fun _ _ _ _ => rfl
  stamps s n l h := by
    unfold State.runView
    rw [map_eq_of_unstamped (g := Cmd.runView) (fun _ => rfl) h]

variable {W : Nat → Prop}

theorem Changes.countSegments (s : State) (d : List Nat) (poison : Bool) :
    Changes State.runView W s (s.countSegments d poison) := by
  unfold State.countSegments
  split
  · exact .refl s
  · exact .each _ s fun t x hx => .count State.runView_stampBlind.regs t _ _ _ (counterAddr_wbf ⟨x, aryWide_lt hx⟩)

theorem Changes.fillWide (s : State) (d : List Nat) : Changes State.runView W s (s.fillWide d) :=
  .ite (.refl s) ⟨State.lost_tidy s _, rfl, fun _ _ _ => rfl⟩

theorem Changes.stampStart (s : State) (c : Cmd) (poison : Bool) : Changes State.runView W s (s.stampStart c poison) :=
  .each _ s fun t _ _ => (Changes.stampCmd State.runView_stampBlind t c _ _).trans
    (.ite (.stampCmd State.runView_stampBlind _ c _ _) (.refl _))

/-- Where memory and what runs look alike, the same commands run. -/
theorem State.mem_of_runView (h : t.runView = s.runView) {x : Cmd} (hx : x ∈ s.cmds) : ∃ y ∈ t.cmds, y.runView = x.runView := by
  have hcmds : t.cmds.map Cmd.runView = s.cmds.map Cmd.runView := congrArg (fun v => v.2.2) h
  exact List.mem_map.1 (hcmds ▸ List.mem_map_of_mem hx)

/-- The reads of the operands and the additions of segments only count, and take the wide buffer. -/
theorem State.readOperands_kept (h : s.Tidy) (d : List Nat) (poison : Bool) :
    let t := ((s.countOperands d).countSegments d poison).fillWide d
    t.Tidy ∧ t.runView = s.runView := by
  have hlater := (Changes.countSegments (W := fun _ => False) (s.countOperands d) d poison).trans (Changes.fillWide _ d)
  exact ⟨hlater.tidy (State.countOperands_tidy h d),
    hlater.part.trans (State.runView_stampBlind.regs _ _ (OnlyWords.countOperands s d).1)⟩

theorem State.runArray_kept (h : s.Tidy) (c : Cmd) :
    (s.runArray c).Tidy ∧ (s.runArray c).mem = s.mem ∧ (s.runArray c).poison = s.poison := by
  obtain ⟨ht, hview⟩ := State.readOperands_kept h c.desc (s.aryPoison c.desc)
  exact ⟨State.mapCmd_tidy _ _ _ ht, congrArg (fun v => v.1) hview, congrArg (fun v => v.2.1) hview⟩

/-- The accumulators hold, for every element of the output, the dot product of the operands as they stand. -/
theorem State.mem_runArray (h : s.Tidy) {x : Cmd} (hx : x ∈ s.cmds) (hid : x.id = c.id) :
    ∃ y ∈ (s.runArray c).cmds,
      y.runView = (x.onArrays c.desc (s.aryAccs c.desc (s.aryPoison c.desc)) (s.aryPoison c.desc)).runView := by
  obtain ⟨z, hz, hzx⟩ := State.mem_of_runView (State.readOperands_kept h c.desc (s.aryPoison c.desc)).2 hx
  simp only [Cmd.runView, Prod.mk.injEq] at hzx
  obtain ⟨hzid, -, -, -, hzerr⟩ := hzx
  refine ⟨_, List.mem_map_of_mem hz, ?_⟩
  simp only [hzid, hid, beq_self_eq_true, if_true, State.aryAccs_countOperands h, Cmd.runView, Cmd.onArrays, hzerr]

/-- An operation takes its arrays: memory stays, the arrays turn busy, and its command runs on them. -/
theorem State.takeArrays_spec (h : s.Tidy) {x : Cmd} (hx : x ∈ s.cmds) (hid : x.id = c.id) :
    let t := s.takeArrays c
    t.mem = s.mem ∧ t.poison = s.poison ∧ (∀ e ∈ aryDies c.desc, t.on (page e B.ARY) R.ARY_MODE_ARRAY_BUSY = true)
    ∧ ∃ y ∈ t.cmds, y.runView = (x.onArrays c.desc (s.aryAccs c.desc (s.aryPoison c.desc)) (s.aryPoison c.desc)).runView := by
  intro t
  obtain ⟨hrun, hmem, hpoison⟩ := State.runArray_kept h c
  obtain ⟨y, hy, hyx⟩ := State.mem_runArray (c := c) h hx hid
  have hbusy := Changes.eachPut (W := fun _ => True) State.runView_stampBlind.regs (s.runArray c) (aryDies c.desc) B.ARY
    R.ARY_MODE_ARRAY_BUSY 1 fun _ _ => trivial
  have hstamp {W : Nat → Prop} := Changes.stampStart (W := W)
    ((s.runArray c).each (aryDies c.desc) fun s x => s.put (page x B.ARY) R.ARY_MODE_ARRAY_BUSY 1) c (s.aryPoison c.desc)
  have hview : t.runView = (s.runArray c).runView := (hbusy.trans hstamp).part
  refine ⟨(congrArg (fun v => v.1) hview).trans hmem, (congrArg (fun v => v.2.1) hview).trans hpoison, fun e he => ?_, ?_⟩
  · have hplain := (unreported_of_arrayOwn e (f := R.ARY_MODE_ARRAY_BUSY) (by decide)).plain
    rw [show t.on _ _ = _ from (hstamp (W := fun _ => False)).on _ _ hplain id, State.on,
      State.fld_eachPut _ _ _ (by decide) _ hrun he]
    rfl
  · obtain ⟨z, hz, hzy⟩ := State.mem_of_runView hview hy
    exact ⟨z, hz, hzy.trans hyx⟩

/-- The grant ages requests and uses up the claim: what the operation reads is as before. -/
theorem State.grantArray_tidy (h : s.Tidy) (d : Nat) (c : Cmd) : (s.grantArray d c).Tidy := by
  have haged := h.mapIf (p := fun x => ((s.arrayRequests d).filterMap fun x =>
    if x.cls = 2 ∧ x.id ≠ c.id then some x.id else none).contains x.id) (f := fun x => { x with waited := x.waited + 1 })
    fun _ => rfl
  exact { haged with }

/-- The granted command still waits there. -/
theorem State.mem_grantArray (hc : c ∈ s.cmds) (d : Nat) :
    ∃ x ∈ (s.grantArray d c).cmds, x.id = c.id ∧ x.error = c.error := by
  refine ⟨_, List.mem_map_of_mem hc, ?_⟩
  split <;> exact ⟨rfl, rfl⟩

/-- Settles O11: the grant of a claim writes GRAND_PENDING of the dies, and the start of an operation is the grant followed
by the reads of its operands, which change neither memory nor what it holds. -/
theorem arraysAreGrantedAndStart : Obligations.ArraysAreGrantedAndStart := by
  unfold Obligations.ArraysAreGrantedAndStart
  refine ⟨fun s id l hs hc hg hf => grandClaim_grantsOldest hs hc hg hf, ?_⟩
  intro s d c hs hnext hdue husable dies hpres n empty poison
  obtain ⟨x, hx, hid, -⟩ := State.mem_grantArray (State.mem_of_arrayNext hnext) d
  obtain ⟨hmem, hpoison, hbusy, y, hy, hyx⟩ := State.takeArrays_spec (c := c) (State.grantArray_tidy hs d c) hx hid
  refine ⟨_, congrArg Host.Outcome.next (State.arrayStart_eq hnext hdue husable hpres), hmem, hpoison, hbusy, y, hy, ?_⟩
  simp only [Cmd.runView, Cmd.onArrays, Prod.mk.injEq] at hyx
  obtain ⟨hyid, hystage, hyarrays, hyacc, hyerr⟩ := hyx
  exact ⟨hyid.trans hid, hystage, hyarrays, hyacc, fun hp => hyerr.trans (if_pos hp)⟩

end Sys2Proof.Machine
end

section
/-! An array operation that ends with an error in a context that is none of the two. ARY keeps the pending slot counts of
contexts 0 and 1 (R126); a larger number leads to a word of another block. -/

namespace Sys2Proof.Machine

/-- A quad ARRAY_OP of die 0 with M = N = K = 1 that runs inside a bracket and has met ARRAY_FAULT. Under its context, 0x6000,
the word of the pending slot count of die 0 is the word of RESUME and HALTED in CAL. -/
def strayOp : Cmd :=
  { id := 0, die := 0, queue := 0, context := (page 0 B.CAL - page 0 B.ARY) / 8, number := 0, words := [Opc.ARRAY_OP]
    inLayer := true, stage := .arrayRun
    desc := [2 ^ 28 + 2 ^ 8, 2 ^ 32 + 1, 1], arrays := [0], acc := [0], error := some (Err.ARRAY_FAULT, 0) }

/-- After reset die 0 runs that operation. -/
def strayState : State := { State.reset with cmds := [strayOp], nextId := 1 }

theorem strayState_tidy : strayState.Tidy := { State.Tidy.reset with ids := by decide }

/-- Its one slot is counted as RESUME of caller 0: the operation halts its caller, and RESUME ends that at once (R516). -/
theorem arrayComplete_strayOp : (strayState.arrayComplete 0).halted 0 (strayState.callerOf 0 0) = false := by
  decide +kernel

/-- Refutes O12: its second part, on operations that end with an error, lacks the premise `c.context < 2` of the first part.
The operation of context 0x6000, which no dispatch gives, meets the other premises, and when it has ended its caller is not
halted. -/
theorem not_arrayOperationsEnd : ¬ Obligations.ArrayOperationsEnd := by
  unfold Obligations.ArrayOperationsEnd
  rintro ⟨-, hends⟩
  have hfree : bitOn (strayState.fld (page 0 B.CAL) R.CAL_RESUME_RESUME) (strayState.callerOf 0 0) = false := by decide +kernel
  obtain ⟨t, hexec, -, -, hhalted⟩ :=
    hends strayState 0 strayOp (Err.ARRAY_FAULT, 0) strayState_tidy rfl rfl rfl (by decide +kernel) rfl (by decide) (by decide)
      rfl hfree
  have hend : strayState.arrayComplete 0 = t := Host.Outcome.next.inj hexec
  rw [← hend, show strayOp.die = 0 from rfl, show strayOp.queue = 0 from rfl, arrayComplete_strayOp] at hhalted
  exact Bool.false_ne_true hhalted

end Sys2Proof.Machine
end

section
/-! What a caller keeps of its queues (R251, R278, R280): the head as fetched, the age of a head and the grants it has waited
for enter neither the checks of a command nor whether its head may be taken. -/

namespace Sys2Proof.Machine

variable {s t u : State} {d q : Nat}

/-- What a caller keeps of a queue, without the fetched head, its age and the grants it has waited for. -/
def Queue.core (k : Queue) : Queue := { k with fetched := none, since := 0, waited := 0 }

/-- From `s` to a tidy `u`, of what callers keep of queues no core changes, and beside it nothing but the count of
arbitrations. -/
structure Requeued (s u : State) : Prop where
  tidy : u.Tidy
  rest : { u with queues := s.queues, arrivals := s.arrivals } = s
  core : ∀ k, (u.queue k).core = (s.queue k).core

theorem Requeued.refl (hs : s.Tidy) : Requeued s s := ⟨hs, rfl, fun _ => rfl⟩

theorem Requeued.part {α : Type} (p : State → α) (hp : ∀ (x : State) l n, p { x with queues := l, arrivals := n } = p x)
    (h : Requeued s u) : p u = p s := by
  rw [← hp u s.queues s.arrivals, h.rest]

theorem Requeued.trans (h1 : Requeued s t) (h2 : Requeued t u) : Requeued s u :=
  ⟨h2.tidy, (h2.part (fun x => { x with queues := s.queues, arrivals := s.arrivals }) fun _ _ _ => rfl).trans h1.rest,
    fun k => (h2.core k).trans (h1.core k)⟩

theorem State.queue_setQueue_same (hs : s.Tidy) (k : Nat) (x : Queue) : (s.setQueue k x).queue k = x :=
  Table.get_set_same _ _ _ _ hs.queues

theorem State.queue_setQueue_other {k m : Nat} (h : m ≠ k) (x : Queue) : (s.setQueue k x).queue m = s.queue m :=
  Table.get_set_other _ _ _ _ h _

theorem Requeued.setQueue (hs : s.Tidy) {k : Nat} {x : Queue} (hx : x.core = (s.queue k).core) :
    Requeued s (s.setQueue k x) := by
  refine ⟨State.setQueue_tidy k x hs, rfl, fun m => ?_⟩
  by_cases hm : m = k
  · rw [hm, State.queue_setQueue_same hs, hx]
  · rw [State.queue_setQueue_other hm]

theorem Requeued.each {α : Type} {f : State → α → State} (hf : ∀ s x, s.Tidy → Requeued s (f s x)) :
    ∀ (l : List α) {s : State}, s.Tidy → Requeued s (s.each l f)
  | [], _, hs => .refl hs
  | x :: l, s, hs => (hf s x hs).trans (Requeued.each hf l (hf s x hs).tidy)

/-- An arbitration that finds heads eligible notes their age (R278). -/
theorem Requeued.noteHeads (hs : s.Tidy) (d c : Nat) : Requeued s (s.noteHeads d c) := by
  unfold State.noteHeads
  extract_lets new t
  have ht : Requeued s t := ⟨{ hs with }, rfl, fun _ => rfl⟩
  split
  · exact .refl hs
  · exact ht.trans (.each (fun x r hx =>
      .setQueue hx (x := { x.queue (queueNo d r) with since := s.arrivals + 1 }) rfl) new ht.tidy)

/-! What does not see such a change. -/

section Blind
variable (h : Requeued s u)
include h

theorem Requeued.skip (k : Nat) : (u.queue k).skip = (s.queue k).skip := (congrArg Queue.skip (h.core k) :)
theorem Requeued.opt (k : Nat) : (u.queue k).opt = (s.queue k).opt := (congrArg Queue.opt (h.core k) :)
theorem Requeued.wait (k : Nat) : (u.queue k).wait = (s.queue k).wait := (congrArg Queue.wait (h.core k) :)
theorem Requeued.promoted (k : Nat) : (u.queue k).promoted = (s.queue k).promoted := (congrArg Queue.promoted (h.core k) :)

theorem Requeued.bracketOf : u.bracketOf = s.bracketOf := h.part State.bracketOf fun _ _ _ => rfl

theorem Requeued.fixedOutcome (d q : Nat) (x : Head) : u.fixedOutcome d q x = s.fixedOutcome d q x := by
  have hrefusal : u.refusal = s.refusal := h.part State.refusal fun _ _ _ => rfl
  unfold State.fixedOutcome
  rw [h.bracketOf, hrefusal]
  dsimp only
  rw [h.skip]

theorem Requeued.eligible (d q : Nat) (x : Head) : u.eligible d q x = s.eligible d q x := by
  have hcmds : u.queueCmds = s.queueCmds := h.part State.queueCmds fun _ _ _ => rfl
  have hjob : u.job = s.job := h.part State.job fun _ _ _ => rfl
  have hctx : u.ctxOf = s.ctxOf := h.part State.ctxOf fun _ _ _ => rfl
  have hslot : u.slotFree = s.slotFree := h.part State.slotFree fun _ _ _ => rfl
  unfold State.eligible State.waitMet State.fenceMet State.openMet
  rw [h.fixedOutcome, h.wait, h.skip, h.bracketOf, hcmds, hjob, hctx, hslot]

theorem Requeued.mkCmd (d q : Nat) (x : Head) : u.mkCmd d q x = s.mkCmd d q x := by
  have hopt : decide (0 < (u.queue (queueNo d q)).opt) = decide (0 < (s.queue (queueNo d q)).opt) := by rw [h.opt]
  have hrest := h.part (fun y : State => { y.mkCmd d q x with opt := decide (0 < (s.queue (queueNo d q)).opt) })
    fun _ _ _ => rfl
  exact (congrArg (fun b => { u.mkCmd d q x with opt := b }) hopt).trans hrest

/-- The head that a caller holds, where the fetched one stays. -/
theorem Requeued.headHeld (hf : (u.queue (queueNo d q)).fetched = (s.queue (queueNo d q)).fetched) :
    u.headHeld d q = s.headHeld d q := by
  have hqf : u.qf = s.qf := h.part State.qf fun _ _ _ => rfl
  have haddr : u.slotAddr = s.slotAddr := h.part State.slotAddr fun _ _ _ => rfl
  have hbytes : u.slotBytes = s.slotBytes := h.part State.slotBytes fun _ _ _ => rfl
  have hbad : u.badRange = s.badRange := h.part State.badRange fun _ _ _ => rfl
  have hwords : u.words = s.words := h.part State.words fun _ _ _ => rfl
  have hreach : u.hostReach = s.hostReach := h.part State.hostReach fun _ _ _ => rfl
  unfold State.headHeld State.headOf
  rw [hqf, haddr, hbytes, hbad, hwords, hreach, hf]

theorem Requeued.contends {r : Nat} (c : Nat) (hf : (u.queue (queueNo d r)).fetched = (s.queue (queueNo d r)).fetched) :
    u.contends d c r = s.contends d c r := by
  have hhas : u.hasHead = s.hasHead := h.part State.hasHead fun _ _ _ => rfl
  have hcaller : u.callerOf = s.callerOf := h.part State.callerOf fun _ _ _ => rfl
  unfold State.contends
  rw [hhas, hcaller, h.headHeld hf]
  simp only [h.eligible]

/-- Whether a rival is granted first, where the fetched heads of rivals and the ages of heads stay. -/
theorem Requeued.outranked (hf : ∀ r, r ≠ q → (u.queue (queueNo d r)).fetched = (s.queue (queueNo d r)).fetched)
    (hsince : ∀ k, (u.queue k).since = (s.queue k).since) (ha : u.arrivals = s.arrivals) :
    u.outranked d q = s.outranked d q := by
  have hcaller : u.callerOf = s.callerOf := h.part State.callerOf fun _ _ _ => rfl
  have hclass : u.classOf = s.classOf := h.part State.classOf fun _ _ _ => rfl
  have hrivals : u.rivals d q = s.rivals d q := by
    refine List.filter_congr fun r _ => ?_
    by_cases hr : r = q
    · simp [hr]
    · rw [hcaller, h.contends _ (hf r hr)]
  unfold State.outranked State.headClass
  simp only [hrivals, hsince, h.promoted, hclass, ha]

/-- The outcome of a head that is not dispatched, where the checks of its command see no such change. -/
theorem Requeued.outcome {prep : Prep} (hprep : prep u = prep s) (d q : Nat) (x : Head) :
    u.outcome d q x prep = s.outcome d q x prep := by
  unfold State.outcome
  rw [h.mkCmd, h.fixedOutcome, h.wait, h.bracketOf, hprep]

theorem Requeued.prepDesc {out : List Nat → Nat} {check : State → Cmd → Cmd × Option (Nat × Nat)} (hc : check u = check s) :
    prepDesc out check u = prepDesc out check s := by
  have hdesc : u.descAt = s.descAt := h.part State.descAt fun _ _ _ => rfl
  have hin : u.inPartitions = s.inPartitions := h.part State.inPartitions fun _ _ _ => rfl
  have hwords : u.words = s.words := h.part State.words fun _ _ _ => rfl
  have hbad : u.badRange = s.badRange := h.part State.badRange fun _ _ _ => rfl
  unfold Machine.prepDesc
  rw [hc, hdesc, hin, hwords, hbad]

theorem Requeued.aryCheck : u.aryCheck = s.aryCheck := h.part State.aryCheck fun _ _ _ => rfl

theorem Requeued.vecCheck : u.vecCheck = s.vecCheck := by
  have hcoarse : u.coarse = s.coarse := h.part State.coarse fun _ _ _ => rfl
  have hfmt : u.quantFmt = s.quantFmt := h.part State.quantFmt fun _ _ _ => rfl
  have hentries : u.vecEntries = s.vecEntries := h.part State.vecEntries fun _ _ _ => rfl
  have hplaced : u.vecPlaced = s.vecPlaced := h.part State.vecPlaced fun _ _ _ => rfl
  have husable : u.unitsUsable = s.unitsUsable := h.part State.unitsUsable fun _ _ _ => rfl
  have hsalt : u.saltOf = s.saltOf := h.part State.saltOf fun _ _ _ => rfl
  have hfld : u.fld = s.fld := h.part State.fld fun _ _ _ => rfl
  have hon : u.on = s.on := h.part State.on fun _ _ _ => rfl
  have hscales : u.vecScales = s.vecScales := by
    unfold State.vecScales
    rw [hcoarse]
  unfold State.vecCheck
  rw [hscales, hfmt, hentries, hplaced, husable, hsalt, hfld, hon]

end Blind

end Sys2Proof.Machine
end

section
/-! The head that a caller takes (R161, R162, R253, R278): where it is taken and its command meets its checks, the row of the
command leads to `State.take`, with nothing changed before but what the caller keeps of its queues. -/

namespace Sys2Proof.Machine

variable {s u : State} {h : Head} {prep : Prep}

/-- A caller has chosen the head of a queue, or grants it (R162, R278). -/
def State.grantsQueue (s : State) (d c q : Nat) : Bool :=
  match s.chosenOf d c with
  | some r => r == q
  | none => !s.outranked d q

/-- What it is that a head is taken. -/
theorem State.taken_iff {d : Fin 4} {q : Fin 64} {ext : HostSlot} : s.taken d q ext h = true ↔
    s.hasHead d q = true ∧ s.callerRuns d q = true ∧ (s.queue (queueNo d q)).drain = false ∧ s.headOf d q ext = some h
    ∧ s.fixedOutcome d q h = none
    ∧ (if hWaitEn h.cmdWords then (s.queue (queueNo d q)).wait = .satisfied else (s.queue (queueNo d q)).wait ≠ .absent)
    ∧ s.eligible d q h = true
    ∧ s.grantsQueue d (s.callerOf d q) q = true
    ∧ ((s.bracketOf d q).isNone = true ∨ bracketAdmits (hOpc h.cmdWords) = true) := by
  have htaken : s.taken d q ext h = (s.hasHead d q && s.callerRuns d q && !(s.queue (queueNo d q)).drain
      && s.headOf d q ext == some h && (s.fixedOutcome d q h).isNone
      && (if hWaitEn h.cmdWords then (s.queue (queueNo d q)).wait == .satisfied else (s.queue (queueNo d q)).wait != .absent)
      && s.eligible d q h && s.grantsQueue d (s.callerOf d q) q
      && ((s.bracketOf d q).isNone || bracketAdmits (hOpc h.cmdWords))) := rfl
  rw [htaken]
  simp only [Bool.and_eq_true, Bool.not_eq_true', beq_iff_eq, Option.isNone_iff_eq_none, Bool.or_eq_true, and_assoc]
  cases hWaitEn h.cmdWords <;> simp

/-- A head with no outcome fixed before dispatch did not arrive poisoned. -/
theorem State.not_poisoned_of_fixedOutcome {d q : Nat} (hf : s.fixedOutcome d q h = none) : h.poisoned = false := by
  unfold State.fixedOutcome at hf
  extract_lets k b close at hf
  split at hf
  · cases hf
  · split at hf
    · cases hf
    · split at hf
      · cases hf
      next hr =>
        by_contra hp
        rw [State.refusal, if_pos (by simpa using hp)] at hr
        cases hr

/-- A head that is taken, with a command that meets its checks, has no outcome before dispatch. -/
theorem State.outcome_of_taken {d : Fin 4} {q : Fin 64} {ext : HostSlot} (ht : s.taken d q ext h = true)
    (hc : (prep s (s.mkCmd d q h)).2 = none) : s.outcome d q h prep = ((prep s (s.mkCmd d q h)).1, none) := by
  obtain ⟨-, -, -, -, hfixed, hwait, -, -, hbracket⟩ := State.taken_iff.1 ht
  have habsent : (s.queue (queueNo d q)).wait ≠ .absent := by
    split at hwait
    · simp [hwait]
    · exact hwait
  have hadmits : ((s.bracketOf d q).isSome && !bracketAdmits (hOpc h.cmdWords)) = false := by
    rcases hbracket with hb | hb
    · simp [Option.isNone_iff_eq_none.1 hb]
    · simp [hb]
  simp only [State.outcome, hfixed, if_neg habsent, hadmits, hc]
  rfl

/-- A caller keeps a head of host memory as it was fetched (R251). -/
def State.fetchHead (s : State) (d q : Nat) (ext : HostSlot) : State :=
  if s.qf d q R.QUEUE_W1_SPACE = 0 ∨ (s.queue (queueNo d q)).fetched.isSome then s
  else s.setQueue (queueNo d q) { s.queue (queueNo d q) with fetched := some ext }

theorem Requeued.fetchHead (hs : s.Tidy) (d q : Nat) (ext : HostSlot) : Requeued s (s.fetchHead d q ext) := by
  unfold State.fetchHead
  split
  · exact .refl hs
  · exact .setQueue hs rfl

theorem queueNo_ne {d q r : Nat} (h : r ≠ q) : queueNo d r ≠ queueNo d q := by
  unfold queueNo
  omega

/-- The fetch of a head changes nothing at its arbitration. -/
theorem State.outranked_fetchHead (hs : s.Tidy) (d q : Nat) (ext : HostSlot) :
    (s.fetchHead d q ext).outranked d q = s.outranked d q := by
  have hre := Requeued.fetchHead hs d q ext
  unfold State.fetchHead at *
  split
  · rfl
  next hsp =>
    rw [if_neg hsp] at hre
    refine hre.outranked (fun r hr => ?_) (fun k => ?_) rfl
    · rw [State.queue_setQueue_other (queueNo_ne hr)]
    · by_cases hk : k = queueNo d q
      · rw [hk, State.queue_setQueue_same hs]
      · rw [State.queue_setQueue_other hk]

theorem State.grantsQueue_fetchHead (hs : s.Tidy) (d c q : Nat) (ext : HostSlot) :
    (s.fetchHead d q ext).grantsQueue d c q = s.grantsQueue d c q := by
  have hchosen : (s.fetchHead d q ext).chosenOf = s.chosenOf :=
    (Requeued.fetchHead hs d q ext).part State.chosenOf fun _ _ _ => rfl
  rw [State.grantsQueue, State.grantsQueue, hchosen, State.outranked_fetchHead hs]

/-- The end of the row of a head: where it is eligible and granted its caller takes it, or stalls on it for a credit (R162). -/
def State.arbitrate (s : State) (d q c : Nat) (h : Head) (granted : Bool) (prep : Prep) (run : State → Cmd → State) : State :=
  if s.eligible d q h && granted then
    if (s.outcome d q h prep).2.isSome || s.credit d (hOpc h.cmdWords) then s.take d q h prep run
    else if (s.chosenOf d c).isSome then s
    else (s.ageRivals d q).choose d c (some q)
  else s

/-- The row of a head whose wait is not to be registered: the head is fetched, and the caller arbitrates. -/
theorem State.dispatch_of_head {d q : Nat} {ext : HostSlot} {isRow : Head → Bool} {run : State → Cmd → State} (hs : s.Tidy)
    (hhas : s.hasHead d q = true) (hruns : s.callerRuns d q = true) (hdrain : (s.queue (queueNo d q)).drain = false)
    (hhead : s.headOf d q ext = some h) (hrow : isRow h = true)
    (hidle : (hWaitEn h.cmdWords && (s.queue (queueNo d q)).wait == .idle) = false) :
    s.dispatch d q ext h.legacy isRow prep run = ((s.fetchHead d q ext).noteHeads d (s.callerOf d q)).arbitrate d q
      (s.callerOf d q) h (s.grantsQueue d (s.callerOf d q) q) prep run := by
  have hfetch := Requeued.fetchHead hs d q ext
  unfold State.dispatch
  rw [if_pos (by simp [hhas, hruns]), hhead]
  dsimp -zeta only
  rw [if_pos (by simp [hrow]), if_neg (by simp [hdrain])]
  extract_lets c k s1 s2 granted s3
  have hs1 : s1 = s.fetchHead d q ext := rfl
  have hs2 : s2 = s.fetchHead d q ext := by
    refine (if_neg ?_).trans hs1
    rw [hs1, hfetch.wait, Bool.and_assoc, hidle, Bool.and_false]
    decide
  have hgranted : granted = s.grantsQueue d c q :=
    (congrArg (State.grantsQueue · d c q) hs2).trans (State.grantsQueue_fetchHead hs d c q ext)
  have hs3 : s3 = (s.fetchHead d q ext).noteHeads d (s.callerOf d q) := by rw [← hs2]
  rw [← hs3, ← hgranted]
  rfl

/-- R161, R253: the row of a head that is taken, with a command that meets its checks and a free entry at its engine, is the
take of that head. -/
theorem State.dispatch_of_taken {d : Fin 4} {q : Fin 64} {ext : HostSlot} {isRow : Head → Bool} {run : State → Cmd → State}
    (hs : s.Tidy) (ht : s.taken d q ext h = true) (hrow : isRow h = true) (hc : s.clears d q h prep = true)
    (hprep : ∀ u, Requeued s u → prep u = prep s) :
    ∃ u, Requeued s u ∧ u.outcome d q h prep = ((prep s (s.mkCmd d q h)).1, none)
      ∧ s.dispatch d q ext h.legacy isRow prep run = u.take d q h prep run := by
  obtain ⟨hmeets, hcredit⟩ := Bool.and_eq_true_iff.1 hc
  have houtcome := State.outcome_of_taken ht (Option.isNone_iff_eq_none.1 hmeets)
  obtain ⟨hhas, hruns, hdrain, hhead, -, hwait, heligible, hgrant, -⟩ := State.taken_iff.1 ht
  have hfetch := Requeued.fetchHead hs d q ext
  have hu := hfetch.trans (.noteHeads hfetch.tidy d (s.callerOf d q))
  have houtcome := (hu.outcome (hprep _ hu) d q h).trans houtcome
  have hcredit := (congrFun (congrFun (hu.part State.credit fun _ _ _ => rfl) d) (hOpc h.cmdWords)).trans hcredit
  have hidle : (hWaitEn h.cmdWords && (s.queue (queueNo d q)).wait == .idle) = false := by
    cases hw : hWaitEn h.cmdWords
    · rfl
    · rw [hw, if_pos rfl] at hwait
      simp [hwait]
  refine ⟨_, hu, houtcome, ?_⟩
  rw [State.dispatch_of_head hs hhas hruns hdrain hhead hrow hidle, State.arbitrate, hu.eligible, heligible, hgrant, houtcome,
    hcredit]
  rfl

end Sys2Proof.Machine
end

section
/-! What the take of a head leaves (R161, R246, R250, R252, R602): its queue stands at the next command, the command joins the
dispatched ones, and beside it registers, samplers, the counts of brackets and what callers keep change, but neither memory
nor claims. -/

namespace Sys2Proof.Machine

variable {s t u : State} {c : Cmd} {d : Fin 4} {q : Fin 64} {W : Nat → Prop}

/-! The view. -/

/-- What a statement says of a dispatched command that waits. -/
def Cmd.request (c : Cmd) : Nat × Stage × Nat × Nat × List Nat × List Nat :=
  (c.id, c.stage, c.die, c.queue, c.words, c.desc)

/-- What the dispatch of a command shows of the state: where its queue stands, the dies on which a claim is pending, memory,
claims, and the dispatched commands. -/
structure TakeView where
  headNo   : Nat
  pending  : Fin 4 → Bool
  mem      : Table Byte
  poison   : List Nat
  claims   : List Nat
  nextId   : Nat
  requests : List (Nat × Stage × Nat × Nat × List Nat × List Nat)

/-- The queue stands at its next command. -/
def TakeView.passed (v : TakeView) : TakeView := { v with headNo := (v.headNo + 1) % 2 ^ 32 }

/-- A command has joined the dispatched ones. -/
def TakeView.joined (v : TakeView) (c : Cmd) : TakeView :=
  { v with nextId := v.nextId + 1, requests := v.requests ++ [c.request] }

def State.takeView (s : State) (d : Fin 4) (q : Fin 64) : TakeView where
  headNo   := s.headNo d q
  pending  := fun e => s.on (page e B.ARY) R.ARY_MODE_GRAND_PENDING
  mem      := s.mem
  poison   := s.poison
  claims   := s.claims
  nextId   := s.nextId
  requests := s.cmds.map Cmd.request

/-- From a tidy state the change leads to a tidy one that shows the same. -/
def KeepsTake (d : Fin 4) (q : Fin 64) (s t : State) : Prop := s.Tidy → t.Tidy ∧ t.takeView d q = s.takeView d q

theorem KeepsTake.refl (s : State) : KeepsTake d q s s := fun h => ⟨h, rfl⟩

theorem KeepsTake.trans (h1 : KeepsTake d q s t) (h2 : KeepsTake d q t u) : KeepsTake d q s u := fun hs =>
  have ⟨ht, e1⟩ := h1 hs
  have ⟨hu, e2⟩ := h2 ht
  ⟨hu, e2.trans e1⟩

theorem KeepsTake.ite {p : Prop} [Decidable p] (ht : KeepsTake d q s t) (hu : KeepsTake d q s u) :
    KeepsTake d q s (if p then t else u) := by
  split <;> assumption

theorem KeepsTake.each {α : Type} {f : State → α → State} (hf : ∀ s x, KeepsTake d q s (f s x)) :
    ∀ (l : List α) (s : State), KeepsTake d q s (s.each l f)
  | [], s => .refl s
  | x :: l, s => (hf s x).trans (KeepsTake.each hf l (f s x))

/-- The parts of the view that registers, draws of free values and stamps do not enter. -/
def State.takeParts (s : State) : Table Byte × List Nat × List Nat × Nat × Table Job ×
    List (Nat × Stage × Nat × Nat × List Nat × List Nat) :=
  (s.mem, s.poison, s.claims, s.nextId, s.jobs, s.cmds.map Cmd.request)

theorem State.takeParts_stampBlind : StampBlind State.takeParts where
  regs s t h := h.part State.takeParts fun _ _ _ _ => rfl
  stamps s n l h := by
    unfold State.takeParts
    rw [map_eq_of_unstamped (g := Cmd.request) (fun _ => rfl) h]

/-- The words of the queue table count nothing. -/
theorem accounting_queueWord (d : Nat) (q : Fin 64) {off : Nat} (h : off < 0x2000) (h0 : 0x1000 ≤ off) :
    accounting (page d B.CAL + (off + 64 * q)) = false :=
  accounting_page d (by decide) (by decide) (by omega) (by simp only [R.INT_STS]; omega)

/-- Where a queue stands follows from its context, its HEAD and the brackets. -/
theorem State.headNo_of_flds (hctx : t.qf d q R.QUEUE_W1_CONTEXT = s.qf d q R.QUEUE_W1_CONTEXT)
    (hhead : t.qf d q R.QUEUE_W2_HEAD = s.qf d q R.QUEUE_W2_HEAD) (hjobs : t.jobs = s.jobs) : t.headNo d q = s.headNo d q := by
  rw [State.headNo, State.headNo, State.bracketOf, State.bracketOf, State.job, State.job, State.ctxOf, State.ctxOf, hctx, hhead,
    hjobs]

/-- A change of words that hold none of its fields, and of parts that it does not show, keeps the view. -/
theorem Changes.headNo (h : Changes State.takeParts W s t) (h1 : ¬ W (page d B.CAL + (0x1008 + 64 * q)))
    (h2 : ¬ W (page d B.CAL + (0x1010 + 64 * q))) : t.headNo d q = s.headNo d q :=
  State.headNo_of_flds (h.fld _ _ (accounting_queueWord d q (by decide) (by decide)) h1)
    (h.fld _ _ (accounting_queueWord d q (by decide) (by decide)) h2) (congrArg (fun v => v.2.2.2.2.1) h.part)

theorem plain_grandPending (e : Nat) : accounting (page e B.ARY + R.ARY_MODE_GRAND_PENDING.off) = false :=
  accounting_page e (by decide) (by decide) (by decide) (by decide)

/-- What changes words that hold none of its fields, and parts that it does not show, keeps the view. -/
theorem KeepsTake.of_changes (h : Changes State.takeParts (fun _ => False) s t) : KeepsTake d q s t := fun hs => by
  have hhead : t.headNo d q = s.headNo d q := h.headNo id id
  have hpending (e : Fin 4) := h.on (page e B.ARY) R.ARY_MODE_GRAND_PENDING (plain_grandPending e) id
  have hparts := h.part
  simp only [State.takeParts, Prod.mk.injEq] at hparts
  obtain ⟨hmem, hpoison, hclaims, hnext, -, hcmds⟩ := hparts
  refine ⟨h.tidy hs, ?_⟩
  simp only [State.takeView, hhead, hpending, hmem, hpoison, hclaims, hnext, hcmds]

theorem KeepsTake.of_onlyWords (ht : s.Tidy → t.Tidy) (h : OnlyWords s t []) : KeepsTake d q s t :=
  .of_changes (.of_onlyWords State.takeParts_stampBlind.regs ht h)

/-! Counts (R591–R594). -/

/-- A count on a word that counts, whether or not a counter of the map, changes nothing but what counts and flags. -/
theorem OnlyWords.count_of_accounting (s : State) (pg : Nat) (f : Fld) (k : Nat) (l : List Nat)
    (ha : accounting (pg + f.off) = true) (hn : counterIndex (pg + f.off) < 2048) : OnlyWords s (s.count pg f k) l := by
  unfold State.count State.countBy
  extract_lets a die n
  split
  · exact .refl s l
  · unfold State.countAtBy
    extract_lets v t u
    have ht : OnlyWords s t l := .setWord s _ _ l (.inl ha)
    have hu : OnlyWords s u l := ht.trans (.setOvfBy (sends_msix l) t _ _ hn)
    split
    · exact ht
    · split
      · split
        next b hb =>
          obtain ⟨hdie, hindex, -, -⟩ := counterAddr_facts _ _ _ hb
          exact hu.trans (.countAtBy (sends_msix l) _ _ _ _ (by rw [hdie, hindex]; exact hb))
        next => exact hu
      · exact hu

theorem KeepsTake.count (s : State) (pg : Nat) (f : Fld) (k : Nat) (ha : accounting (pg + f.off) = true)
    (hn : counterIndex (pg + f.off) < 2048) : KeepsTake d q s (s.count pg f k) :=
  .of_onlyWords (State.count_tidy s pg f k) (.count_of_accounting s pg f k [] ha hn)

theorem KeepsTake.countRead (s : State) (via : Via) (a len : Nat) : KeepsTake d q s (s.countRead via a len) :=
  .of_onlyWords (State.countRead_tidy s via a len) (.countRead s via a len)

/-! The sampler (R602). -/

theorem KeepsTake.setSampler (s : State) (e : Nat) (x : Sampler) : KeepsTake d q s (s.setSampler e x) := fun hs =>
  ⟨State.setSampler_tidy e x hs, rfl⟩

theorem KeepsTake.resolveTag (s : State) (e : Fin 4) : KeepsTake d q s (s.resolveTag e) := by
  have hcount (f : Fld) (h : f ∈ [C.PMU_TAGS, C.PMU_TAGS_SKIPPED]) (s : State) :
      KeepsTake d q s (s.count (page e B.PMU) f 1) := by
    refine .count s _ _ _ ?_ ?_
    · revert e f
      decide
    · revert e f
      decide
  unfold State.resolveTag
  extract_lets x pg r y
  split
  · exact .refl s
  · extract_lets s1
    split
    · exact (KeepsTake.setSampler s e y).trans (hcount _ (by simp) _)
    · have h1 : KeepsTake d q s s1 := (KeepsTake.setSampler s e _).trans (hcount _ (by simp) _)
      clear_value s1
      split
      · exact h1.trans (.of_changes (.stampCmd State.takeParts_stampBlind s1 _ _ _))
      · exact h1

theorem KeepsTake.sampleDispatch (s : State) (e : Fin 4) (kind id : Nat) : KeepsTake d q s (s.sampleDispatch e kind id) := by
  unfold State.sampleDispatch
  extract_lets pg t x
  split
  · exact (KeepsTake.resolveTag s e).trans (.ite (.setSampler t e _) (.setSampler t e _))
  · exact .refl s

/-! The queue. -/

theorem KeepsTake.ageRivals (s : State) (e r : Nat) : KeepsTake d q s (s.ageRivals e r) :=
  .each (fun _ _ hs => ⟨State.setQueue_tidy _ _ hs, rfl⟩) _ s

theorem KeepsTake.choose (s : State) (e k : Nat) (r : Option Nat) : KeepsTake d q s (s.choose e k r) := fun hs =>
  ⟨State.choose_tidy s e k r hs, rfl⟩

theorem KeepsTake.closeWindow (s : State) (e r : Nat) : KeepsTake d q s (s.closeWindow e r).1 := fun hs =>
  ⟨State.closeWindow_tidy s e r hs, rfl⟩

/-- A change on a page of CAL leaves GRAND_PENDING as it is. -/
theorem State.grandPending_putCal (hs : s.Tidy) (f : Fld) (n : Nat) (hw : f.lsb + f.width ≤ 64) (ho : f.off < 0x10000)
    (e : Fin 4) : (s.put (page d B.CAL) f n).on (page e B.ARY) R.ARY_MODE_GRAND_PENDING
      = s.on (page e B.ARY) R.ARY_MODE_GRAND_PENDING := by
  have hblock : (page e B.ARY + R.ARY_MODE_GRAND_PENDING.off) / 0x10000 % 0x100 ≠ B.CAL := by
    rw [(page_offset e (by decide) (by decide)).2.1]
    decide
  exact congrArg (· != 0) (State.fld_put_apart hs.regs _ _ _ _ n hw (FldApart.of_block (by decide) ho hblock))

/-- A field of CAL that is neither CONTEXT nor HEAD of the queue does not enter the view. -/
theorem KeepsTake.putCal (s : State) (f : Fld) (n : Nat) (hw : f.lsb + f.width ≤ 64) (ho : f.off < 0x10000)
    (h1 : FldApart (page d B.CAL) (R.QUEUE_W1_CONTEXT q) (page d B.CAL) f)
    (h2 : FldApart (page d B.CAL) (R.QUEUE_W2_HEAD q) (page d B.CAL) f) : KeepsTake d q s (s.put (page d B.CAL) f n) :=
  fun hs => by
    have hhead : (s.put (page d B.CAL) f n).headNo d q = s.headNo d q :=
      State.headNo_of_flds (State.fld_put_apart hs.regs _ _ _ _ n hw h1) (State.fld_put_apart hs.regs _ _ _ _ n hw h2) rfl
    refine ⟨State.put_tidy _ _ n hs, ?_⟩
    simp only [State.takeView, hhead, State.grandPending_putCal hs f n hw ho]
    rfl

/-- FETCH of a program queue goes on (R252). -/
def State.passFetch (s : State) (d q : Nat) : State :=
  if s.qf d q R.QUEUE_W1_PROGRAM = 1 then
    s.qput d q R.QUEUE_W5_FETCH ((s.qf d q R.QUEUE_W5_FETCH + 1) % 2 ^ s.qf d q R.QUEUE_W1_SIZE) else s

theorem queueWord_lt (q : Fin 64) {off : Nat} (h : off < 0x2000) : off + 64 * q < 0x10000 := by omega

/-- Words of a queue's entry at different offsets are different words. -/
theorem FldApart.of_queueWord {pg m n : Nat} {f g : Fld} (hf : f.off = m + 64 * q) (hg : g.off = n + 64 * q) (h : m ≠ n) :
    FldApart pg f pg g := .inl (by omega)

theorem KeepsTake.passFetch (s : State) : KeepsTake d q s (s.passFetch d q) :=
  .ite (.putCal s _ _ (show 32 + 16 ≤ 64 by decide) (queueWord_lt q (by decide)) (.of_queueWord rfl rfl (by decide))
    (.of_queueWord rfl rfl (by decide))) (.refl s)

theorem State.qf_passFetch (hs : s.Tidy) {f : Nat → Fld} {m : Nat} (hf : (f q).off = m + 64 * q) (hm : m ≠ 0x1028) :
    (s.passFetch d q).qf d q f = s.qf d q f := by
  unfold State.passFetch
  split
  · exact State.fld_put_apart hs.regs _ _ _ _ _ (show 32 + 16 ≤ 64 by decide) (FldApart.of_queueWord hf rfl hm)
  · rfl

theorem State.jobs_passFetch (s : State) : (s.passFetch d q).jobs = s.jobs := by
  unfold State.passFetch
  split <;> rfl

/-! Brackets. -/

theorem State.job_mapBracket_same (hs : s.Tidy) (e ctx : Nat) (f : Bracket → Bracket) :
    (s.mapBracket e ctx f).job e ctx = { s.job e ctx with bracket := (s.job e ctx).bracket.map f } :=
  Table.get_set_same _ _ _ _ hs.jobs

theorem State.job_mapBracket_other {e ctx k : Nat} (h : k ≠ ctx) (f : Bracket → Bracket) :
    (s.mapBracket e ctx f).job e k = s.job e k :=
  Table.get_set_other _ _ _ _ (by unfold jobKey; omega) _

/-- The bracket that a queue holds open changes as the bracket of its context does. -/
theorem State.bracketOf_mapBracket (hs : s.Tidy) {f : Bracket → Bracket} (hf : ∀ b, (f b).queue = b.queue) :
    (s.mapBracket d (s.ctxOf d q) f).bracketOf d q = (s.bracketOf d q).map f := by
  show ((s.mapBracket d (s.ctxOf d q) f).job d (s.ctxOf d q)).bracket.filter _ = _
  rw [State.job_mapBracket_same hs, State.bracketOf]
  cases hb : (s.job d (s.ctxOf d q)).bracket with
  | none => rfl
  | some b => by_cases hq : b.queue = q <;> simp [Option.filter, hf, hq]

/-- A change of brackets that keeps their queues and the count of their commands keeps the view. -/
theorem KeepsTake.mapBracket (s : State) (ctx : Nat) (f : Bracket → Bracket) (hq : ∀ b, (f b).queue = b.queue)
    (ht : ∀ b, (f b).taken = b.taken) : KeepsTake d q s (s.mapBracket d ctx f) := fun hs => by
  have hbracket : ((s.mapBracket d ctx f).bracketOf d q).map Bracket.taken = (s.bracketOf d q).map Bracket.taken := by
    by_cases hc : s.ctxOf d q = ctx
    · subst hc
      rw [State.bracketOf_mapBracket hs hq, Option.map_map]
      exact congrArg (Option.map · _) (funext ht)
    · have hjob := congrArg Job.bracket (State.job_mapBracket_other (s := s) (e := d) hc f)
      exact congrArg (fun o : Option Bracket => (o.filter fun b => b.queue == q.val).map Bracket.taken) hjob
  have hhead : (s.mapBracket d ctx f).headNo d q = s.headNo d q :=
    congrArg (fun o : Option Nat => (s.qf d q R.QUEUE_W2_HEAD + o.getD 0) % 2 ^ 32) hbracket
  refine ⟨State.mapBracket_tidy s d ctx f hs, ?_⟩
  simp only [State.takeView, hhead]
  rfl

/-- R275: a halt of a caller keeps the view. -/
theorem KeepsTake.halt (s : State) (k : Nat) : KeepsTake d q s (s.halt d k) := by
  have hoff : FldApart (page d B.CAL) (R.QUEUE_W1_CONTEXT q) (page d B.CAL) R.CAL_RESUME_HALTED
      ∧ FldApart (page d B.CAL) (R.QUEUE_W2_HEAD q) (page d B.CAL) R.CAL_RESUME_HALTED := by
    refine ⟨.of_off (queueWord_lt q (by decide)) (by decide) ?_, .of_off (queueWord_lt q (by decide)) (by decide) ?_⟩ <;>
      simp only [R.QUEUE_W1_CONTEXT, R.QUEUE_W2_HEAD, R.CAL_RESUME_HALTED] <;> omega
  unfold State.halt
  extract_lets pg was s1 s2
  have h1 : KeepsTake d q s s1 := .putCal s _ _ (by decide) (by decide) hoff.1 hoff.2
  have hint : KeepsTake d q s1 (s1.intSet pg 0) :=
    .of_onlyWords (State.intSet_tidy s1 pg 0) (.intSet s1 pg 0 [] (page_mod _ _))
  have h2 : KeepsTake d q s1 s2 := (KeepsTake.ite (.refl s1) hint).trans (.choose _ _ _ _)
  refine (h1.trans h2).trans (.each (fun t ctx => .mapBracket t ctx _ (fun b => ?_) fun b => ?_) _ s2) <;>
    split <;> rfl

/-! The take. -/

/-- A bracket with one more command taken. -/
def Bracket.takeOne (b : Bracket) : Bracket := { b with taken := b.taken + 1 }

/-- The queue of a head that leaves stands at the next command, by its HEAD or by the count of its bracket (R185, R250). -/
theorem State.headNo_consume (hs : s.Tidy) : (s.consume d q).headNo d q = (s.headNo d q + 1) % 2 ^ 32 := by
  have ht := (KeepsTake.passFetch (d := d) (q := q) s hs).1
  have hctx : (s.passFetch d q).ctxOf d q = s.ctxOf d q := State.qf_passFetch hs (q := q) rfl (by decide)
  have hhead : (s.passFetch d q).qf d q R.QUEUE_W2_HEAD = s.qf d q R.QUEUE_W2_HEAD := State.qf_passFetch hs rfl (by decide)
  have hbracket : (s.passFetch d q).bracketOf d q = s.bracketOf d q := by
    rw [State.bracketOf, State.bracketOf, State.job, State.job, hctx, s.jobs_passFetch]
  have hconsume : s.consume d q = if (s.bracketOf d q).isSome
      then (s.passFetch d q).mapBracket d ((s.passFetch d q).ctxOf d q) Bracket.takeOne
      else (s.passFetch d q).qput d q R.QUEUE_W2_HEAD (s.qf d q R.QUEUE_W2_HEAD + 1) := by
    rw [hctx]
    rfl
  rw [hconsume, State.headNo, State.headNo]
  generalize s.passFetch d q = t at ht hctx hhead hbracket
  cases hb : s.bracketOf d q with
  | some b =>
    rw [Option.isSome_some, if_pos rfl, State.bracketOf_mapBracket ht (f := Bracket.takeOne) fun _ => rfl, hbracket, hb,
      show (t.mapBracket d (t.ctxOf d q) _).qf d q R.QUEUE_W2_HEAD = t.qf d q R.QUEUE_W2_HEAD from rfl, hhead]
    simp only [Option.map_some, Option.getD_some, Bracket.takeOne]
    omega
  | none =>
    have hctx' : (t.qput d q R.QUEUE_W2_HEAD (s.qf d q R.QUEUE_W2_HEAD + 1)).ctxOf d q = t.ctxOf d q :=
      State.fld_put_apart ht.regs _ _ _ _ _ (show 0 + 32 ≤ 64 by decide) (FldApart.of_queueWord rfl rfl (by decide))
    have hnone : (t.qput d q R.QUEUE_W2_HEAD (s.qf d q R.QUEUE_W2_HEAD + 1)).bracketOf d q = none := by
      rw [State.bracketOf, hctx', ← hb, ← hbracket]
      rfl
    have hput : (t.qput d q R.QUEUE_W2_HEAD (s.qf d q R.QUEUE_W2_HEAD + 1)).qf d q R.QUEUE_W2_HEAD
        = (s.qf d q R.QUEUE_W2_HEAD + 1) % 2 ^ 32 :=
      State.fld_put_same ht.regs _ _ _ (show 0 + 32 ≤ 64 by decide)
    rw [Option.isSome_none, if_neg Bool.false_ne_true, hnone, hput]
    simp only [Option.map_none, Option.getD_none]
    omega

/-- The rest of the view stays. -/
theorem State.consume_takeView (hs : s.Tidy) : (s.consume d q).Tidy ∧
    (s.consume d q).takeView d q = (s.takeView d q).passed := by
  refine ⟨State.consume_tidy s d q hs, ?_⟩
  obtain ⟨ht, hview⟩ := KeepsTake.passFetch (d := d) (q := q) s hs
  have hpassed : (s.takeView d q).passed = { (s.passFetch d q).takeView d q with headNo := (s.consume d q).headNo d q } := by
    rw [State.headNo_consume hs, hview]
    rfl
  rw [hpassed]
  have hpending := State.grandPending_putCal (d := d) ht (R.QUEUE_W2_HEAD q) (s.qf d q R.QUEUE_W2_HEAD + 1)
    (show 0 + 32 ≤ 64 by decide) (queueWord_lt q (by decide))
  by_cases hb : (s.bracketOf d q).isSome
  · simp only [State.takeView, State.consume, hb]
    rfl
  · have hconsume : s.consume d q = (s.passFetch d q).put (page d B.CAL) (R.QUEUE_W2_HEAD q) (s.qf d q R.QUEUE_W2_HEAD + 1) :=
      if_neg hb
    simp only [State.takeView, hconsume, hpending]
    rfl

/-- The command that joins the dispatched ones bears the next identifier. -/
theorem State.enlist_takeView (s : State) (c : Cmd) (hid : c.id = s.nextId) :
    (s.enlist c).takeView d q = (s.takeView d q).joined c := by
  have hcmds : (s.enlist c).cmds.map Cmd.request = s.cmds.map Cmd.request ++ [c.request] := by
    rw [State.enlist, ← hid]
    exact List.map_append
  unfold State.takeView
  rw [hcmds]
  rfl

/-- What the take of a head reads is counted (R246, R248, R590). -/
def State.chargeHead (s : State) (d q : Nat) (c : Cmd) : State :=
  let space := s.qf d q R.QUEUE_W1_SPACE
  let t := if space = 0 then s.countRead .engine (s.slotAddr d q) (s.slotBytes d q)
    else s.count (hifPage (space - 1)) C.HIF_RX_BYTES (s.slotBytes d q)
  let t := if c.desc.isEmpty then t else t.countRead .engine c.descAddr (8 * c.desc.length)
  t.each c.reads fun t r => t.countRead .num r.1 r.2

/-- The head leaves its queue. -/
def State.passHead (s : State) (d q : Nat) (c : Cmd) : State :=
  let k := s.callerOf d q
  let t := s.chargeHead d q c
  ((if s.chosenOf d k = some q then t else t.ageRivals d q).choose d k none).consume d q

/-- The command of the head joins the dispatched ones, and is counted (R286, R602). -/
def State.enrolHead (s : State) (d q : Nat) (h : Head) (c : Cmd) : State :=
  let s := ((s.passHead d q c).closeWindow d q).1.enlist c
  let s := s.qput d q R.QUEUE_W1_OUTSTANDING 1
  let s := s.count (page d B.CAL) C.CAL_CMDS_DISPATCHED 1
  let s := if h.legacy then s.count (page d B.CAL) C.CAL_LEGACY_CMDS 1 else s
  let s := s.count (page d B.PMU) (C.PMU_CALLER_DISPATCHED (s.callerOf d q)) 1
  s.sampleDispatch d (sampleKind (hOpc h.cmdWords)) c.id

/-- A head with no outcome before dispatch leaves its queue and is dispatched; its caller halts with the last command of a
window that asks for it (R264). -/
theorem State.take_eq {h : Head} {prep : Prep} {d q : Nat} (ho : s.outcome d q h prep = (c, none))
    (run : State → Cmd → State) : s.take d q h prep run =
      let t := run (s.enrolHead d q h c) c
      if ((s.passHead d q c).closeWindow d q).2 then t.halt d (t.callerOf d q) else t := by
  unfold State.take
  rw [ho]
  rfl

theorem KeepsTake.chargeHead (s : State) (c : Cmd) : KeepsTake d q s (s.chargeHead d q c) := by
  unfold State.chargeHead
  extract_lets space t1 t2
  have hhif : accounting (hifPage (space - 1) + C.HIF_RX_BYTES.off) = true
      ∧ counterIndex (hifPage (space - 1) + C.HIF_RX_BYTES.off) < 2048 := by
    have hspace : space < 4 := State.fld_lt s (page d B.CAL) (R.QUEUE_W1_SPACE q)
    clear_value space
    revert space
    decide
  have h1 : KeepsTake d q s t1 := .ite (.countRead s _ _ _) (.count s _ _ _ hhif.1 hhif.2)
  have h2 : KeepsTake d q t1 t2 := .ite (.refl t1) (.countRead t1 _ _ _)
  exact (h1.trans h2).trans (.each (fun t r => .countRead t _ _ _) _ t2)

theorem State.passHead_takeView (hs : s.Tidy) (c : Cmd) : (s.passHead d q c).Tidy ∧
    (s.passHead d q c).takeView d q = (s.takeView d q).passed := by
  unfold State.passHead
  extract_lets k t
  have ht : KeepsTake d q s t := .chargeHead s c
  have haged : KeepsTake d q t (if s.chosenOf d k = some q.val then t else t.ageRivals d q) :=
    .ite (.refl t) (.ageRivals t d q)
  obtain ⟨hu, hview⟩ := (ht.trans (haged.trans (.choose _ d k none))) hs
  obtain ⟨hconsume, hconsumed⟩ := State.consume_takeView (d := d) (q := q) hu
  exact ⟨hconsume, hconsumed.trans (congrArg TakeView.passed hview)⟩

/-- The counters of CAL and PMU that count a dispatch. -/
theorem KeepsTake.countDispatch (s : State) (f : Fld) (h : f ∈ [C.CAL_CMDS_DISPATCHED, C.CAL_LEGACY_CMDS]) :
    KeepsTake d q s (s.count (page d B.CAL) f 1) := by
  refine .count s _ _ _ ?_ ?_
  · revert d f
    decide
  · revert d f
    decide

theorem KeepsTake.countCaller (s : State) (k : Fin 8) :
    KeepsTake d q s (s.count (page d B.PMU) (C.PMU_CALLER_DISPATCHED k) 1) := by
  refine .count s _ _ _ ?_ ?_
  · revert d k
    decide
  · revert d k
    decide

theorem State.callerOf_lt (s : State) (d q : Nat) : s.callerOf d q < 8 := s.fld_lt _ _

/-- R161: the command of a head has joined the dispatched ones, and its queue stands at the next command. -/
theorem State.enrolHead_takeView (hs : s.Tidy) (h : Head) (hid : c.id = s.nextId) : (s.enrolHead d q h c).Tidy ∧
    (s.enrolHead d q h c).takeView d q = (s.takeView d q).passed.joined c := by
  obtain ⟨hpass, hpassed⟩ := State.passHead_takeView (d := d) (q := q) hs c
  obtain ⟨hclose, hclosed⟩ := KeepsTake.closeWindow (d := d) (q := q) _ d q hpass
  have hview := hclosed.trans hpassed
  have hnext : _ = s.nextId := congrArg TakeView.nextId hview
  have hlisted := State.enlist_takeView (d := d) (q := q) _ c (hid.trans hnext.symm)
  unfold State.enrolHead
  extract_lets s0 s1 s2 s3 s4
  have h0 : s0.Tidy := State.enlist_tidy _ c hclose
  have h1 : KeepsTake d q s0 s1 := .putCal s0 _ _ (show 44 + 1 ≤ 64 by decide) (queueWord_lt q (by decide))
    (.inr (.inr (show 44 + 1 ≤ 59 by decide))) (.of_queueWord rfl rfl (by decide))
  have h2 : KeepsTake d q s1 s2 := .countDispatch s1 _ (by simp)
  have h3 : KeepsTake d q s2 s3 := .ite (.countDispatch s2 _ (by simp)) (.refl s2)
  have h4 : KeepsTake d q s3 s4 := .countCaller s3 ⟨_, s3.callerOf_lt d q⟩
  obtain ⟨ht, hkept⟩ := (h1.trans (h2.trans (h3.trans (h4.trans (.sampleDispatch s4 d _ _))))) h0
  exact ⟨ht, hkept.trans (hlisted.trans (congrArg (TakeView.joined · c) hview))⟩

/-- The take of a head with no outcome before dispatch runs its command once that has joined the dispatched ones. -/
theorem KeepsTake.take {h : Head} {prep : Prep} (ho : s.outcome d q h prep = (c, none)) (run : State → Cmd → State) :
    KeepsTake d q (run (s.enrolHead d q h c) c) (s.take d q h prep run) := by
  rw [State.take_eq ho]
  exact .ite (.halt _ _) (.refl _)

end Sys2Proof.Machine
end

section
/-! ARRAY_OP and VECTOR_OP enter their arbiters (R100, R111, R146, R161, R162). -/

namespace Sys2Proof.Machine

variable {s t : State} {c : Cmd} {d : Fin 4} {q : Fin 64} {ext : HostSlot} {h : Head}

/-! The command as its checks leave it. -/

/-- A command that the checks of its descriptor let pass is as the check of its kind leaves it, with the descriptor as read. -/
theorem prepDesc_of_none {out : List Nat → Nat} {check : State → Cmd → Cmd × Option (Nat × Nat)}
    (hnone : (prepDesc out check s c).2 = none) : prepDesc out check s c =
      check s { c with descAddr := s.descAt c, desc := s.words (s.descAt c) 16, tensor := out (s.words (s.descAt c) 16) } := by
  unfold prepDesc at *
  dsimp only at *
  split at hnone
  · cases hnone
  next hplaced =>
    split at hnone
    · cases hnone
    next hclean => rw [if_neg hplaced, if_neg hclean]

theorem State.aryCheck_request (s : State) (c : Cmd) : (s.aryCheck c).1.request = c.request := rfl

theorem request_ite {p : Prop} [Decidable p] {x y : Cmd × Option (Nat × Nat)} (hx : x.1.request = c.request)
    (hy : y.1.request = c.request) : (if p then x else y).1.request = c.request := by
  split <;> assumption

/-- The checks of a VECTOR_OP note the salt, the entries and the scales that they read (R65, R171, R174). -/
theorem State.vecCheck_request (s : State) (c : Cmd) : (s.vecCheck c).1.request = c.request := by
  unfold State.vecCheck
  extract_lets d k usable mask c1 auxBad c2
  have h1 : c1.request = c.request := rfl
  have h2 : c2.request = c.request := rfl
  clear_value c1 c2
  refine request_ite h1 (request_ite h1 (request_ite h1 (request_ite h1 ?_)))
  split
  · exact h2
  · refine request_ite h2 (request_ite h2 ?_)
    split
    · exact h2
    next l _ =>
      have h3 : { c2 with scales := l }.request = c.request := h2
      exact request_ite h3 (request_ite h3 (request_ite h3 (request_ite h3 (request_ite h3 h3))))

/-! The arbiters. -/

/-- A dispatched command that stands at a stage. -/
def State.Stands (s : State) (c : Cmd) (x : Stage) : Prop := ∃ y ∈ s.cmds, y.request = { c with stage := x }.request

theorem State.stands_of_cmds (h : t.cmds.map Cmd.request = s.cmds.map Cmd.request) {x : Stage} (hs : s.Stands c x) :
    t.Stands c x := by
  obtain ⟨y, hy, hyc⟩ := hs
  obtain ⟨z, hz, hzy⟩ := List.mem_map.1 (h ▸ List.mem_map_of_mem hy)
  exact ⟨z, hz, hzy.trans hyc⟩

/-- A dispatched command moves to a stage. -/
theorem State.stands_mapCmd (hc : c.request ∈ s.cmds.map Cmd.request) (x : Stage) :
    (s.mapCmd c.id fun y => { y with stage := x }).Stands c x := by
  obtain ⟨y, hy, hyc⟩ := List.mem_map.1 hc
  simp only [Cmd.request, Prod.mk.injEq] at hyc
  obtain ⟨hid, -, hdie, hqueue, hwords, hdesc⟩ := hyc
  refine ⟨_, List.mem_map_of_mem hy, ?_⟩
  simp only [hid, beq_self_eq_true, if_true, Cmd.request, hdie, hqueue, hwords, hdesc]

/-- The withdrawal of the waiting cut-in requests of an arbiter (R281). -/
def State.withdraw (s : State) (gone : Cmd → Bool) : State :=
  { s with cmds := mapIf gone (fun x => { x with waited := 0, promoted := false }) s.cmds }

theorem State.withdraw_requests (s : State) (gone : Cmd → Bool) :
    (s.withdraw gone).cmds.map Cmd.request = s.cmds.map Cmd.request := by
  simp only [State.withdraw, mapIf, List.map_map]
  refine List.map_congr_left fun x _ => ?_
  simp only [Function.comp]
  split <;> rfl

/-- What the entry of an operation into an arbiter leaves of the view. -/
structure Enters (s t : State) (d : Fin 4) (q : Fin 64) (c : Cmd) (x : Stage) : Prop where
  tidy   : t.Tidy
  headNo : t.headNo d q = s.headNo d q
  mem    : t.mem = s.mem
  poison : t.poison = s.poison
  nextId : t.nextId = s.nextId
  stands : t.Stands c x

/-- A command moves to the stage of its arbiter. -/
theorem Enters.mapCmd (hs : s.Tidy) (hc : c.request ∈ s.cmds.map Cmd.request) (x : Stage) :
    Enters s (s.mapCmd c.id fun y => { y with stage := x }) d q c x :=
  ⟨State.mapCmd_tidy s c.id _ hs, rfl, rfl, rfl, rfl, State.stands_mapCmd hc x⟩

theorem Enters.withdraw {x : Stage} (h : Enters s t d q c x) (gone : Cmd → Bool) : Enters s (t.withdraw gone) d q c x :=
  ⟨h.tidy.mapIf fun _ => rfl, h.headNo, h.mem, h.poison, h.nextId, State.stands_of_cmds (t.withdraw_requests gone) h.stands⟩

/-- A grand operation sends its claim, and GRAND_PENDING rises on every compute die (R111). -/
def State.claimGrand (s : State) (id : Nat) : State :=
  ({ s with claims := s.claims ++ [id] } : State).each [0, 1, 2, 3] fun s e => s.put (page e B.ARY) R.ARY_MODE_GRAND_PENDING 1

/-- GRAND_PENDING of the dies stands in no word of the queue table. -/
theorem not_onPages_queueWord (l : List Nat) {m : Nat} (hm : m < 0x2000) (h0 : 0x1000 ≤ m) :
    ¬ onPages l B.ARY R.ARY_MODE_GRAND_PENDING.off (page d B.CAL + (m + 64 * q)) := by
  rintro ⟨e, -, he⟩
  simp only [page, B.ARY, B.CAL, R.ARY_MODE_GRAND_PENDING] at he
  omega

theorem State.claimGrand_changes (s : State) (id : Nat) :
    Changes State.takeParts (onPages [0, 1, 2, 3] B.ARY R.ARY_MODE_GRAND_PENDING.off) { s with claims := s.claims ++ [id] }
      (s.claimGrand id) :=
  .eachPut State.takeParts_stampBlind.regs _ _ _ _ _ fun _ h => h

theorem Enters.claimGrand {x : Stage} (h : Enters s t d q c x) (id : Nat) : Enters s (t.claimGrand id) d q c x := by
  have hput := t.claimGrand_changes id
  have hhead := hput.headNo (d := d) (q := q) (not_onPages_queueWord _ (by decide) (by decide))
    (not_onPages_queueWord _ (by decide) (by decide))
  have hparts := hput.part
  simp only [State.takeParts, Prod.mk.injEq] at hparts
  obtain ⟨hmem, hpoison, -, hnext, -, hcmds⟩ := hparts
  exact ⟨hput.tidy { h.tidy with }, hhead.trans h.headNo, hmem.trans h.mem, hpoison.trans h.poison, hnext.trans h.nextId,
    State.stands_of_cmds hcmds h.stands⟩

theorem State.claimGrand_claims (hs : s.Tidy) (id : Nat) : (s.claimGrand id).claims = s.claims ++ [id]
    ∧ ∀ e : Fin 4, (s.claimGrand id).on (page e B.ARY) R.ARY_MODE_GRAND_PENDING = true := by
  refine ⟨congrArg (fun v => v.2.2.1) (s.claimGrand_changes id).part, fun e => ?_⟩
  have hmem : e.val ∈ [0, 1, 2, 3] := by
    revert e
    decide
  have hput : (s.claimGrand id).fld (page e B.ARY) R.ARY_MODE_GRAND_PENDING = 1 :=
    State.fld_eachPut B.ARY R.ARY_MODE_GRAND_PENDING 1 (by decide) _ (s := { s with claims := s.claims ++ [id] })
      { hs with } hmem
  rw [State.on, hput]
  rfl

/-- R111, R281: what the entry of an operation into the array dispatch arbiter is. -/
theorem State.arrayOp_eq (s : State) (c : Cmd) : s.arrayOp c =
    let t := s.mapCmd c.id fun x => { x with stage := .arrayWait }
    if aryGrand c.desc then t.claimGrand c.id
    else if c.context = 0 then
      t.withdraw fun x => x.stage == .arrayWait && x.context == 1 && aryDie x.desc == aryDie c.desc
    else t := rfl

theorem State.arrayOp_enters (hs : s.Tidy) (hc : c.request ∈ s.cmds.map Cmd.request) :
    Enters s (s.arrayOp c) d q c .arrayWait := by
  have hseat := Enters.mapCmd (d := d) (q := q) hs hc .arrayWait
  rw [State.arrayOp_eq]
  dsimp only
  split
  · exact hseat.claimGrand c.id
  · split
    · exact hseat.withdraw _
    · exact hseat

/-- R111: a grand operation raises its claim, a quad one raises none. -/
theorem State.arrayOp_claims (hs : s.Tidy) (c : Cmd) :
    (aryGrand c.desc = true → (s.arrayOp c).claims = s.claims ++ [c.id]
      ∧ ∀ e : Fin 4, (s.arrayOp c).on (page e B.ARY) R.ARY_MODE_GRAND_PENDING = true)
    ∧ (aryGrand c.desc = false → (s.arrayOp c).claims = s.claims) := by
  rw [State.arrayOp_eq]
  refine ⟨fun hgrand => ?_, fun hquad => ?_⟩
  · rw [if_pos hgrand]
    exact State.claimGrand_claims (State.mapCmd_tidy s c.id _ hs) c.id
  · rw [hquad, if_neg Bool.false_ne_true]
    split <;> rfl

theorem State.vectorOp_enters (hs : s.Tidy) (hc : c.request ∈ s.cmds.map Cmd.request) :
    Enters s (s.vectorOp c) d q c .vectorWait := by
  have hseat := Enters.mapCmd (d := d) (q := q) hs hc .vectorWait
  have hentry : s.vectorOp c = if c.context = 0
      then (s.mapCmd c.id fun x => { x with stage := .vectorWait }).withdraw fun x =>
        x.stage == .vectorWait && x.context == 1 && x.die == c.die
      else s.mapCmd c.id fun x => { x with stage := .vectorWait } := rfl
  rw [hentry]
  split
  · exact hseat.withdraw _
  · exact hseat

/-! The rows. -/

/-- What the checks of the two operations are to a dispatch: they see nothing that callers keep of queues, and leave what a
statement says of the command. -/
structure OpCheck (check : State → Cmd → Cmd × Option (Nat × Nat)) : Prop where
  blind   : ∀ s u, Requeued s u → check u = check s
  request : ∀ s c, (check s c).1.request = c.request

theorem opCheck_ary : OpCheck State.aryCheck := ⟨fun _ _ h => h.aryCheck, State.aryCheck_request⟩
theorem opCheck_vec : OpCheck State.vecCheck := ⟨fun _ _ h => h.vecCheck, State.vecCheck_request⟩

/-- The row of an operation that is taken and meets its checks runs it on a state in which it has joined the dispatched
commands, and its queue stands at the next one. -/
theorem State.dispatch_enrols {legacy : Bool} {opc : Nat} {out : List Nat → Nat}
    {check : State → Cmd → Cmd × Option (Nat × Nat)} (hs : s.Tidy) (hcheck : OpCheck check)
    (ht : s.takes d q ext h legacy opc = true) (hc : s.clears d q h (prepDesc out check) = true) (run : State → Cmd → State) :
    ∃ u c, c.request = (s.nextId, .moving, d.val, q.val, h.cmdWords, s.words (s.descAt (s.mkCmd d q h)) 16)
      ∧ u.Tidy ∧ u.takeView d q = (s.takeView d q).passed.joined c
      ∧ KeepsTake d q (run u c) (s.dispatch d q ext legacy (rowOf opc) (prepDesc out check) run) := by
  simp only [State.takes, Bool.and_eq_true, beq_iff_eq] at ht
  obtain ⟨⟨htaken, rfl⟩, hopc⟩ := ht
  obtain ⟨-, -, -, -, hfixed, -, -, -, -⟩ := State.taken_iff.1 htaken
  have hrow : rowOf opc h = true := by simp [rowOf, State.not_poisoned_of_fixedOutcome hfixed, hopc]
  obtain ⟨u, hu, houtcome, hdispatch⟩ := State.dispatch_of_taken (run := run) hs htaken hrow hc
    fun u hu => hu.prepDesc (hcheck.blind s u hu)
  have hmeets : (prepDesc out check s (s.mkCmd d q h)).2 = none :=
    Option.isNone_iff_eq_none.1 (Bool.and_eq_true_iff.1 hc).1
  have hrequest : (prepDesc out check s (s.mkCmd d q h)).1.request
      = (s.nextId, .moving, d.val, q.val, h.cmdWords, s.words (s.descAt (s.mkCmd d q h)) 16) := by
    rw [prepDesc_of_none hmeets, hcheck.request]
    rfl
  have hview : u.takeView d q = s.takeView d q := hu.part (State.takeView · d q) fun _ _ _ => rfl
  have hnext : u.nextId = s.nextId := congrArg TakeView.nextId hview
  obtain ⟨htidy, henrolled⟩ := State.enrolHead_takeView (d := d) (q := q) hu.tidy h
    ((congrArg Prod.fst hrequest).trans hnext.symm)
  refine ⟨_, _, hrequest, htidy, ?_, hdispatch ▸ .take houtcome run⟩
  rw [henrolled, hview]

/-- What a statement says of an operation that waits at an arbiter. -/
theorem State.waits_of_stands {x : Stage} {n : Nat} {w l : List Nat} (hc : c.request = (n, .moving, d.val, q.val, w, l))
    (hs : t.Stands c x) :
    ∃ y ∈ t.cmds, y.id = n ∧ y.stage = x ∧ y.die = d ∧ y.queue = q ∧ y.words = w ∧ y.desc = l := by
  obtain ⟨y, hy, hyc⟩ := hs
  simp only [Cmd.request, Prod.mk.injEq] at hc hyc
  obtain ⟨hid, -, hdie, hqueue, hwords, hdesc⟩ := hc
  obtain ⟨yid, ystage, ydie, yqueue, ywords, ydesc⟩ := hyc
  exact ⟨y, hy, yid.trans hid, ystage, ydie.trans hdie, yqueue.trans hqueue, ywords.trans hwords, ydesc.trans hdesc⟩

/-- The row of an operation that enters an arbiter: its queue stands at the next command, the command waits, and memory stays.
What the entry leaves of claims, the row leaves. -/
theorem State.dispatch_enters {legacy : Bool} {opc : Nat} {out : List Nat → Nat} {x : Stage}
    {check : State → Cmd → Cmd × Option (Nat × Nat)} (hs : s.Tidy) (hcheck : OpCheck check)
    (ht : s.takes d q ext h legacy opc = true) (hc : s.clears d q h (prepDesc out check) = true) {run : State → Cmd → State}
    (hrun : ∀ (u : State) (c : Cmd), u.Tidy → c.request ∈ u.cmds.map Cmd.request → Enters u (run u c) d q c x) :
    let t := s.dispatch d q ext legacy (rowOf opc) (prepDesc out check) run
    let desc := s.words (s.descAt (s.mkCmd d q h)) 16
    (Consumed s t d q ∧ t.mem = s.mem ∧ t.poison = s.poison
      ∧ ∃ y ∈ t.cmds, y.id = s.nextId ∧ y.stage = x ∧ y.die = d ∧ y.queue = q ∧ y.words = h.cmdWords ∧ y.desc = desc)
    ∧ ∃ u c, c.id = s.nextId ∧ c.desc = desc ∧ u.Tidy ∧ u.claims = s.claims ∧ t.claims = (run u c).claims
      ∧ ∀ e : Fin 4, t.on (page e B.ARY) R.ARY_MODE_GRAND_PENDING = (run u c).on (page e B.ARY) R.ARY_MODE_GRAND_PENDING := by
  intro t desc
  obtain ⟨u, c, hrequest, hu, hjoined, hkept⟩ := State.dispatch_enrols hs hcheck ht hc run
  obtain ⟨hid, -, -, -, -, hdesc⟩ : c.id = s.nextId ∧ c.stage = .moving ∧ c.die = d ∧ c.queue = q ∧ c.words = h.cmdWords
      ∧ c.desc = desc := by
    simpa only [Cmd.request, Prod.mk.injEq] using hrequest
  simp only [State.takeView, TakeView.passed, TakeView.joined, TakeView.mk.injEq] at hjoined
  obtain ⟨hhead, -, hmem, hpoison, hclaims, hnext, hrequests⟩ := hjoined
  have henters := hrun u c hu (by rw [hrequests]; simp)
  obtain ⟨-, hview⟩ := hkept henters.tidy
  simp only [State.takeView, TakeView.mk.injEq] at hview
  obtain ⟨thead, tpending, tmem, tpoison, tclaims, tnext, trequests⟩ := hview
  refine ⟨⟨⟨thead.trans (henters.headNo.trans hhead), tnext.trans (henters.nextId.trans hnext)⟩,
    tmem.trans (henters.mem.trans hmem), tpoison.trans (henters.poison.trans hpoison),
    State.waits_of_stands hrequest (State.stands_of_cmds trequests henters.stands)⟩,
    u, c, hid, hdesc, hu, hclaims, tclaims, congrFun tpending⟩

/-- An ARRAY_OP, legacy or not, that is taken and meets its checks waits at the array dispatch arbiter. -/
theorem State.arrayRow_enters {legacy : Bool} {opc : Nat} (hs : s.Tidy) (ht : s.takes d q ext h legacy opc = true)
    (hc : s.clears d q h (prepDesc aryOutTensor State.aryCheck) = true) :
    let t := s.dispatch d q ext legacy (rowOf opc) (prepDesc aryOutTensor State.aryCheck) State.arrayOp
    let desc := s.words (s.descAt (s.mkCmd d q h)) 16
    Consumed s t d q ∧ t.mem = s.mem ∧ t.poison = s.poison
      ∧ (∃ c ∈ t.cmds, c.id = s.nextId ∧ c.stage = .arrayWait ∧ c.die = d ∧ c.queue = q ∧ c.words = h.cmdWords ∧ c.desc = desc)
      ∧ (aryGrand desc = true → t.claims = s.claims ++ [s.nextId]
          ∧ ∀ e : Fin 4, t.on (page e B.ARY) R.ARY_MODE_GRAND_PENDING = true)
      ∧ (aryGrand desc = false → t.claims = s.claims) := by
  intro t desc
  obtain ⟨⟨hconsumed, hmem, hpoison, hwaits⟩, u, c, hid, hdesc, hu, huclaims, hclaims, hpending⟩ :=
    State.dispatch_enters hs opCheck_ary ht hc fun u c hu hmem => State.arrayOp_enters hu hmem
  obtain ⟨hgrand, hquad⟩ := State.arrayOp_claims hu c
  rw [hdesc, huclaims, hid] at hgrand
  rw [hdesc, huclaims] at hquad
  refine ⟨hconsumed, hmem, hpoison, hwaits, fun h => ?_, fun h => hclaims.trans (hquad h)⟩
  obtain ⟨hraised, hshown⟩ := hgrand h
  exact ⟨hclaims.trans hraised, fun e => (hpending e).trans (hshown e)⟩

/-- Settles O10: a head that is taken, with a command that meets its checks, leaves its queue and joins the dispatched
commands, and its entry into the arbiter moves it to the waiting stage and, for a grand operation, raises the claim. -/
theorem operationsEnterTheirArbiters : Obligations.OperationsEnterTheirArbiters := by
  unfold Obligations.OperationsEnterTheirArbiters
  refine ⟨fun s d q ext h hs hc => ⟨fun ht => ?_, fun ht => ?_⟩, fun s d q ext h hs hc => ⟨fun ht => ?_, fun ht => ?_⟩⟩
  · exact ⟨_, rfl, State.arrayRow_enters hs ht hc⟩
  · exact ⟨_, rfl, State.arrayRow_enters hs ht hc⟩
  · exact ⟨_, rfl, (State.dispatch_enters hs opCheck_vec ht hc fun u c hu hmem => State.vectorOp_enters hu hmem).1⟩
  · exact ⟨_, rfl, (State.dispatch_enters hs opCheck_vec ht hc fun u c hu hmem => State.vectorOp_enters hu hmem).1⟩

end Sys2Proof.Machine
end

section
/-! MAX and MIN on NaNs and on zeros (R133). -/

namespace Sys2Proof.Machine

variable {f : Fmt} {a b : Nat}

theorem fmax_of_nan (h : decode f a = .nan ∨ decode f b = .nan) : fmax f a b = nanOf f := by
  unfold fmax
  rcases h with h | h
  · rw [h]
  · rw [h]
    cases decode f a <;> rfl

theorem fmin_of_nan (h : decode f a = .nan ∨ decode f b = .nan) : fmin f a b = nanOf f := by
  unfold fmin
  rcases h with h | h
  · rw [h]
  · rw [h]
    cases decode f a <;> rfl

/-- Of two zeros MAX is −0 where both are. -/
theorem fmax_of_zeros {s t : Bool} {e e' : Int} (ha : decode f a = .fin s 0 e) (hb : decode f b = .fin t 0 e') :
    fmax f a b = withSign f (s && t) 0 := by
  simp only [fmax, ha, hb]

/-- Of two zeros MIN is −0 where one is. -/
theorem fmin_of_zeros {s t : Bool} {e e' : Int} (ha : decode f a = .fin s 0 e) (hb : decode f b = .fin t 0 e') :
    fmin f a b = withSign f (s || t) 0 := by
  simp only [fmin, ha, hb]

/-- In a wide format the codes of +0 and −0 are 0 and the sign bit. -/
theorem decode_zeros (hf : f ∈ [Fmt.fp32, .bf16, .fp64]) :
    ∃ e, decode f 0 = .fin false 0 e ∧ decode f (signBit f) = .fin true 0 e := by
  simp only [List.mem_cons, List.not_mem_nil, or_false] at hf
  rcases hf with rfl | rfl | rfl
  · exact ⟨_, rfl, rfl⟩
  · exact ⟨_, rfl, rfl⟩
  · exact ⟨_, rfl, rfl⟩

/-- Settles O20: the cases of MAX and MIN that R133 names. -/
theorem maxAndMinOfNanAndZeros : Obligations.MaxAndMinOfNanAndZeros := by
  unfold Obligations.MaxAndMinOfNanAndZeros
  intro f hf a b neg
  obtain ⟨e, hpos, hneg⟩ := decode_zeros hf
  exact ⟨fun h => ⟨fmax_of_nan h, fmin_of_nan h⟩, fmax_of_zeros hneg hpos, fmax_of_zeros hpos hneg, fmin_of_zeros hneg hpos,
    fmin_of_zeros hpos hneg⟩

end Sys2Proof.Machine
end

section
/-! Instructions of units on a die that has lost the floor (R312): the statements about single instructions take a unit that
stands at one (`State.issues`), which does not say that its die has the floor. -/

namespace Sys2Proof.Machine

variable {s : State} {i : Instr} {d : Fin 4} {u : Fin 64}

/-- What holds of the answer of a command that changes nothing holds of the state as it is. -/
theorem Answers.of_stays {P : State → Prop} (h : Answers i s P) (hstays : exec i s = .next s) : P s := by
  obtain ⟨t, hexec, hP⟩ := h
  exact Host.Outcome.next.inj (hstays.symm.trans hexec) ▸ hP

/-- A unit that stays where it is has not passed its instruction. -/
theorem not_unitBecomes_passed {x : UnitCore} (hx : x.pc = (s.unit d u).pc + 8) : ¬ UnitBecomes s s d u x := by
  rintro ⟨hunit, -⟩
  rw [← hunit] at hx
  omega

theorem not_tileBecomes_self {n : Nat} {f : Fmt} {g : Nat → Nat → Nat} : ¬ TileBecomes s s d u n f g := by
  rintro ⟨-, -, -, hunit⟩
  exact not_unitBecomes_passed rfl hunit

/-- An instruction of an opcode with every other bit 0: its format is FP32, and its operands are tile 0. -/
def wordOfOpcode (opc : Nat) : Nat := opc * 2 ^ 56

/-- Unit 0 of die 0 runs a KERNEL and stands at the instruction of an opcode, after FLOOR_LOST has stopped the die. -/
def stoppedAtOpcode (opc : Nat) : State := { stoppedAtConversion with mem := [(stgBase + 7, BitVec.ofNat 8 opc)] }

/-- Its KERNEL still runs, and the unit stands at an instruction of the class of the opcode: scalar FP32, control, reductions,
movement, and the reserved range. -/
theorem stoppedAtOpcode_issues : ∀ x ∈ [(0x10, 0x10, 0x17), (0x18, 0x18, 0x1F), (0x50, 0x50, 0x57), (0x60, 0x60, 0x67),
    (0x68, 0x68, 0xFF)],
    (stoppedAtOpcode x.1).issues 0 0 kernelOfUnit0 (wordOfOpcode x.1) x.2.1 x.2.2 = true := by
  decide +kernel

theorem stoppedAtOpcode_floorLost (opc : Nat) : (stoppedAtOpcode opc).floorLost (0 : Fin 4) = true :=
  stoppedAtConversion_floorLost

/-- R312: no unit of the die issues its instruction, whatever that would do. -/
theorem stoppedAtOpcode_stays (opc u lo hi : Nat) (run : State → Cmd → Nat → Issue) :
    (.next ((stoppedAtOpcode opc).issue (0 : Fin 4) u lo hi run) : Host.Outcome State Fault Refusal)
      = .next (stoppedAtOpcode opc) :=
  congrArg Host.Outcome.next (State.issue_of_floorLost (stoppedAtOpcode_floorLost opc) u lo hi run)

/-- Refutes O15: `State.issues` does not ask that the die has the floor. Once FLOOR_LOST has stopped the units of die 0 (R312),
SCALAR_FP32_OP leaves unit 0 at its instruction. -/
theorem not_scalarInstructionsAndReports : ¬ Obligations.ScalarInstructionsAndReports := by
  unfold Obligations.ScalarInstructionsAndReports
  rintro ⟨hscalar, -⟩
  obtain ⟨-, hfp⟩ := hscalar (stoppedAtOpcode 0x10) 0 0 kernelOfUnit0 (wordOfOpcode 0x10) 0 0 0 0
  exact not_unitBecomes_passed rfl
    ((hfp .add (stoppedAtOpcode_issues (0x10, 0x10, 0x17) (by simp))).of_stays (stoppedAtOpcode_stays ..))

/-- Refutes O16 in the same way: UBAR leaves unit 0 of a stopped die at its instruction. -/
theorem not_controlHaltsAndBarriers : ¬ Obligations.ControlHaltsAndBarriers := by
  unfold Obligations.ControlHaltsAndBarriers
  rintro ⟨hcontrol, -⟩
  obtain ⟨-, -, -, -, -, hubar⟩ := hcontrol (stoppedAtOpcode 0x18) 0 0 kernelOfUnit0 (wordOfOpcode 0x18)
    (stoppedAtOpcode_issues (0x18, 0x18, 0x1F) (by simp))
  exact not_unitBecomes_passed rfl (hubar.of_stays (stoppedAtOpcode_stays ..))

/-- Refutes O17 in the same way: LANE_ROTATE leaves unit 0 of a stopped die at its instruction. -/
theorem not_tilesMoveThroughMemoryAndPermute : ¬ Obligations.TilesMoveThroughMemoryAndPermute := by
  unfold Obligations.TilesMoveThroughMemoryAndPermute
  rintro ⟨-, -, hmoves⟩
  obtain ⟨-, hlanes, -⟩ := hmoves (stoppedAtOpcode 0x60) 0 0 kernelOfUnit0 (wordOfOpcode 0x60) .fp32
    (stoppedAtOpcode_issues (0x60, 0x60, 0x67) (by simp)) (by decide)
  exact not_tileBecomes_self (hlanes.of_stays (stoppedAtOpcode_stays ..))

/-- Refutes O18 in the same way: ROW_SUM leaves unit 0 of a stopped die at its instruction. -/
theorem not_elementwiseAndReductions : ¬ Obligations.ElementwiseAndReductions := by
  unfold Obligations.ElementwiseAndReductions
  rintro ⟨-, hreduces⟩
  obtain ⟨hsum, -⟩ := hreduces (stoppedAtOpcode 0x50) 0 0 kernelOfUnit0 (wordOfOpcode 0x50)
    (stoppedAtOpcode_issues (0x50, 0x50, 0x57) (by simp)) (by decide)
  exact not_tileBecomes_self (hsum.of_stays (stoppedAtOpcode_stays ..))

/-- Refutes O21 in the same way: on a stopped die the KERNEL of a unit that stands at a reserved opcode still runs. -/
theorem not_reservedOpcodeFaultsKernel : ¬ Obligations.ReservedOpcodeFaultsKernel := by
  unfold Obligations.ReservedOpcodeFaultsKernel
  intro hreserved
  have hfaults := hreserved (stoppedAtOpcode 0x68) 0 0 kernelOfUnit0 (wordOfOpcode 0x68)
    (stoppedAtOpcode_issues (0x68, 0x68, 0xFF) (by simp)) rfl (by decide)
  obtain ⟨⟨x, hx, -, hdone, -⟩, -⟩ := hfaults.of_stays (stoppedAtOpcode_stays ..)
  obtain rfl : x = kernelOfUnit0 := List.mem_singleton.1 hx
  cases hdone

end Sys2Proof.Machine
end
section
/-! What the completion of a command leaves to the units (R150, R256, R270–R275): their cores and UNIT_BUSY of the command's
die stay, and of the dispatched commands the completed one alone goes. -/

namespace Sys2Proof.Machine

variable {s t u : State} {d : Fin 4} {c : Cmd}

/-- The cores of the units, and the identifiers of the dispatched commands. -/
def State.unitView (s : State) : Table UnitCore × List Nat := (s.units, s.cmds.map Cmd.id)

theorem State.unitView_stampBlind : StampBlind State.unitView where
  regs s t h := h.part State.unitView fun _ _ _ _ => rfl
  stamps s n l h := by
    unfold State.unitView
    rw [map_eq_of_unstamped (g := Cmd.id) (fun _ => rfl) h]

/-- A word that is not UNIT_BUSY of a die. -/
def offBusy (d a : Nat) : Prop := a ≠ page d B.VEC + R.VEC_UNIT_BUSY_BUSY.off

theorem offBusy_block {e i off : Nat} (hi : i < 0x100) (h : i ≠ B.VEC) (ho : off < 0x10000) : offBusy d (page e i + off) := by
  intro he
  obtain ⟨-, hblock, -⟩ := page_offset e hi ho
  obtain ⟨-, hvec, -⟩ := page_offset d (i := B.VEC) (off := R.VEC_UNIT_BUSY_BUSY.off) (by decide) (by decide)
  rw [he, hvec] at hblock
  exact h hblock.symm

/-- The entries of the queue table lie beyond UNIT_BUSY, whatever the queue. -/
theorem offBusy_queueWord (q m : Nat) : offBusy d (page d B.CAL + (m + 64 * q)) := by
  simp only [offBusy, page, B.CAL, B.VEC, R.VEC_UNIT_BUSY_BUSY]
  omega

/-- UNIT_BUSY is read from the registers. -/
theorem State.unitsBusy_of_regs (h : t.regs = s.regs) (e : Nat) : t.unitsBusy e = s.unitsBusy e := by
  rw [State.unitsBusy, State.unitsBusy, State.fld, State.fld, State.word, State.word, h]

/-- A change leaves the cores of the units, the identifiers of the dispatched commands, and UNIT_BUSY of a die. -/
structure KeepsUnits (d : Fin 4) (s t : State) : Prop where
  view : t.unitView = s.unitView
  busy : t.unitsBusy d = s.unitsBusy d

theorem KeepsUnits.refl (s : State) : KeepsUnits d s s := ⟨rfl, rfl⟩

theorem KeepsUnits.trans (h1 : KeepsUnits d s t) (h2 : KeepsUnits d t u) : KeepsUnits d s u :=
  ⟨h2.view.trans h1.view, h2.busy.trans h1.busy⟩

theorem KeepsUnits.ite {p : Prop} [Decidable p] (ht : KeepsUnits d s t) (hu : KeepsUnits d s u) :
    KeepsUnits d s (if p then t else u) := by
  split <;> assumption

theorem KeepsUnits.each {α : Type} {f : State → α → State} :
    ∀ (l : List α) (s : State), (∀ s, ∀ x ∈ l, KeepsUnits d s (f s x)) → KeepsUnits d s (s.each l f)
  | [], s, _ => .refl s
  | x :: l, s, h => (h s x List.mem_cons_self).trans
      (KeepsUnits.each l (f s x) fun s y hy => h s y (List.mem_cons_of_mem _ hy))

/-- What changes neither units nor identifiers, and no word but those that are not UNIT_BUSY or count, keeps them. -/
theorem KeepsUnits.of_changes (h : Changes State.unitView (offBusy d) s t) : KeepsUnits d s t :=
  ⟨h.part, h.fld (page d B.VEC) R.VEC_UNIT_BUSY_BUSY
    (accounting_page d (by decide) (by decide) (by decide) (by decide)) fun hoff => hoff rfl⟩

/-- What writes no register keeps UNIT_BUSY. -/
theorem KeepsUnits.of_view (hv : t.unitView = s.unitView) (hr : t.regs = s.regs) : KeepsUnits d s t :=
  ⟨hv, State.unitsBusy_of_regs hr d⟩

/-- What first changes neither units nor identifiers nor a register. -/
theorem KeepsUnits.after (h : KeepsUnits d u t) (hv : u.unitView = s.unitView) (hr : u.regs = s.regs) : KeepsUnits d s t :=
  (KeepsUnits.of_view hv hr).trans h

theorem KeepsUnits.before (h : KeepsUnits d s t) (hv : u.unitView = t.unitView) (hr : u.regs = t.regs) : KeepsUnits d s u :=
  h.trans (.of_view hv hr)

theorem KeepsUnits.of_onlyWords (h : OnlyWords s t []) : KeepsUnits d s t :=
  ⟨State.unitView_stampBlind.regs s t h.1, h.fld (page d B.VEC) R.VEC_UNIT_BUSY_BUSY
    (accounting_page d (by decide) (by decide) (by decide) (by decide)) List.not_mem_nil⟩

theorem KeepsUnits.setWord (s : State) (a n : Nat) (h : offBusy d a) : KeepsUnits d s (s.setWord a n) :=
  ⟨rfl, by rw [State.unitsBusy, State.unitsBusy, State.fld, State.fld, State.word_setWord_other _ _ _ h.symm]⟩

theorem KeepsUnits.put (s : State) (pg : Nat) (f : Fld) (n : Nat) (h : offBusy d (pg + f.off)) :
    KeepsUnits d s (s.put pg f n) := .setWord s _ _ h

/-- A word that counts, whether or not a counter of the map. -/
def Counts (pg : Nat) (f : Fld) : Prop := accounting (pg + f.off) = true ∧ counterIndex (pg + f.off) < 2048

theorem KeepsUnits.count (s : State) (k : Nat) {pg : Nat} {f : Fld} (h : Counts pg f) : KeepsUnits d s (s.count pg f k) :=
  .of_onlyWords (.count_of_accounting s pg f k [] h.1 h.2)

theorem KeepsUnits.msix (s : State) {p : Nat} (hp : p < 2) (v : Nat) : KeepsUnits d s (s.msix p v) :=
  .of_onlyWords (sends_msix [] s p v hp)

theorem KeepsUnits.intSet (s : State) (e i b : Nat) : KeepsUnits d s (s.intSet (page e i) b) :=
  .of_onlyWords (.intSet s (page e i) b [] (page_mod e i))

/-! Sync cells (R255, R262, R268). -/

theorem counts_syn {e : Nat} (he : e < 4) {f : Fld} (hf : f ∈ [C.SYN_WATCH_FIRES, C.SYN_WAITS_SATISFIED, C.SYN_CONSUMES,
    C.SYN_UPDATES_LOCAL, C.SYN_UPDATES_DIE, C.SYN_UPDATES_REMOTE]) : Counts (page e B.SYN) f := by
  unfold Counts
  revert e f
  decide

theorem originCounter_mem (e : Nat) (o : Origin) :
    originCounter e o ∈ [C.SYN_UPDATES_LOCAL, C.SYN_UPDATES_DIE, C.SYN_UPDATES_REMOTE] := by
  unfold originCounter
  split
  · simp
  · split <;> simp
  · split <;> simp
  · simp

theorem KeepsUnits.countOrigin (s : State) {e : Nat} (he : e < 4) (o : Origin) :
    KeepsUnits d s (s.count (page e B.SYN) (originCounter e o) 1) :=
  .count s _ (counts_syn he (List.mem_append_right [C.SYN_WATCH_FIRES, C.SYN_WAITS_SATISFIED, C.SYN_CONSUMES]
    (originCounter_mem e o)))

theorem KeepsUnits.testWatches (s : State) {n : Nat} (hn : n / 16384 < 4) : KeepsUnits d s (s.testWatches n) := by
  refine .each _ s fun t k hk => .ite ?_ (.refl t)
  have hoff : (R.WATCH_TABLE_FIRED k).off < 0x10000 := by
    have := List.mem_range.1 hk
    simp only [R.WATCH_TABLE_FIRED]
    omega
  have hput : KeepsUnits d t (t.put (page (n / 16384) B.SYN) (R.WATCH_TABLE_FIRED k) 1) :=
    .put t _ _ _ (offBusy_block (by decide) (by decide) hoff)
  exact (hput.trans (.count _ _ (counts_syn hn (by simp)))).trans (.msix _ (State.fld_lt t _ _) _)

theorem KeepsUnits.testWait (s : State) (w : Wait) (hw : w.cell / 16384 < 4) : KeepsUnits d s (s.testWait w) := by
  unfold State.testWait
  extract_lets pg s1 q s2 s3
  have h2 : KeepsUnits d s s2 := (KeepsUnits.count (s1.setQueue _ _) _ (counts_syn hw (by simp))).after rfl rfl
  have h3 (x : State) (v : Nat) : KeepsUnits d x ((x.setCell w.cell v).count pg C.SYN_CONSUMES 1) :=
    (KeepsUnits.count (x.setCell _ _) _ (counts_syn hw (by simp))).after rfl rfl
  exact .ite (h2.trans (.ite (((h3 s2 _).trans (.countOrigin s3 hw _)).trans (.testWatches _ hw)) (.refl s2))) (.refl s)

theorem KeepsUnits.updateCell (s : State) {n : Nat} (hn : n / 16384 < 4) (v : Nat) : KeepsUnits d s (s.updateCell n v) := by
  have hset : KeepsUnits d s (s.setCell n v) := .of_view rfl rfl
  refine (hset.trans (.testWatches _ hn)).trans (.each _ _ fun t w hw => .testWait t w ?_)
  obtain ⟨-, hcell⟩ := List.mem_filter.1 hw
  rwa [beq_iff_eq.1 hcell]

theorem KeepsUnits.signal (s : State) (g : Signal) (o : Origin) (hg : g.cell / 16384 < 4) : KeepsUnits d s (s.signal g o) :=
  (KeepsUnits.updateCell s hg _).trans (.countOrigin _ hg o)

theorem KeepsUnits.mapBracket (s : State) (e ctx : Nat) (f : Bracket → Bracket) : KeepsUnits d s (s.mapBracket e ctx f) :=
  .of_view rfl rfl

/-- The cell of a command's signal lies on a compute die. -/
theorem hSignal_die (w : List Nat) : (hSignal w).cell / 16384 < 4 := by
  have hdie : wf w 0 62 2 < 4 := bits_lt _ _ _
  have hindex : wf w 0 48 14 < 16384 := bits_lt _ _ _
  simp only [hSignal, cellNo]
  omega

theorem KeepsUnits.cmdSignal (s : State) (c : Cmd) : KeepsUnits d s (s.cmdSignal c).1 := by
  unfold State.cmdSignal
  extract_lets g src e direct
  have hdirect (t : State) : KeepsUnits d t (direct t).1 := by
    simp only [direct]
    split
    · exact .signal t _ _ (hSignal_die c.words)
    · exact .refl t
  split
  · exact hdirect s
  · split
    · exact .refl s
    · split
      · exact hdirect s
      · split
        · exact .refl s
        · exact .mapBracket s _ _ _

/-! Errors and resumption (R275, R513, R516). -/

theorem KeepsUnits.halt (s : State) (e k : Nat) : KeepsUnits d s (s.halt e k) := by
  unfold State.halt
  extract_lets pg was s1 s2
  have h1 : KeepsUnits d s s1 := .put s _ _ _ (offBusy_block (by decide) (by decide) (by decide))
  have h2 : KeepsUnits d s1 s2 := (KeepsUnits.ite (.refl s1) (.intSet s1 e B.CAL 0)).before rfl rfl
  exact (h1.trans h2).trans (.each _ s2 fun t ctx _ => .mapBracket t e ctx _)

theorem KeepsUnits.cmdError (s : State) (c : Cmd) (err detail : Nat) : KeepsUnits d s (s.cmdError c err detail) := by
  unfold State.cmdError
  split
  · exact .ite (.refl s) (.halt s _ _)
  · exact .mapBracket s _ _ _

theorem KeepsUnits.resumeMaybe (s : State) (e : Nat) : KeepsUnits d s (s.resumeMaybe e) :=
  .each _ s fun t _ _ => .ite ((KeepsUnits.put t _ _ _ (offBusy_block (by decide) (by decide) (by decide))).trans
    (.put _ _ _ _ (offBusy_block (by decide) (by decide) (by decide)))) (.refl t)

theorem KeepsUnits.refreshOutstanding (s : State) (q : Nat) : KeepsUnits d s (s.refreshOutstanding d q) :=
  .put s _ _ _ (offBusy_queueWord q 0x1008)

/-! Items of CLX (R373, R407). -/

theorem counts_opx {e : Nat} (he : e < 32) : Counts (opxPage (e / 2)) C.OPX_DATA_FRAMES_TX := by
  unfold Counts
  revert e
  decide

theorem KeepsUnits.transmit (s : State) {e : Nat} (he : e < 32) (l : List TxFrame) : KeepsUnits d s (s.transmit e l) :=
  (KeepsUnits.count { s with sentFrames := _ } _ (counts_opx he)).after rfl rfl

theorem KeepsUnits.pump (s : State) {e : Nat} (he : e < 32) : KeepsUnits d s (s.pump e) := by
  unfold State.pump
  extract_lets l r other s1
  have h1 : KeepsUnits d s s1 := (KeepsUnits.transmit (s.setLink e r.1) he r.2).after rfl rfl
  exact .ite (.ite h1 (h1.before rfl rfl)) (.refl s)

theorem KeepsUnits.sendOn (s : State) {e : Nat} (he : e < 32) (owner : Option Nat) (m : Msg) :
    KeepsUnits d s (s.sendOn e owner m) := by
  unfold State.sendOn
  exact (KeepsUnits.pump _ he).after rfl rfl

theorem State.rankLink_lt {rank e : Nat} {owner : Option Nat} (h : s.rankLink rank owner = some e) : e < 32 := by
  have hlinks (e : Nat) (h : e ∈ s.rankLinks rank) : e < 32 := List.mem_range.1 (List.mem_filter.1 h).1
  unfold State.rankLink at h
  extract_lets l caller mates at h
  clear_value mates
  cases mates with
  | nil => exact hlinks e (List.mem_of_head? h)
  | cons x _ =>
    dsimp only at h
    split at h
    next hin => exact hlinks e (Option.some.inj h ▸ List.contains_iff_mem.1 hin)
    next => cases h

theorem KeepsUnits.sendRank (s : State) (rank : Nat) (owner : Option Nat) (m : Msg) :
    KeepsUnits d s (s.sendRank rank owner m) := by
  unfold State.sendRank
  split
  next e he =>
    refine (KeepsUnits.sendOn { s with cmds := _ } (State.rankLink_lt he) owner m).after ?_ rfl
    exact congrArg (Prod.mk s.units) (mapIf_id _ (fun x => { x with link := some e }) (fun _ => rfl) s.cmds)
  next => exact .of_view rfl rfl

theorem KeepsUnits.sendAbort (s : State) (c : Cmd) (reached : Bool) : KeepsUnits d s (s.sendAbort c reached) := by
  unfold State.sendAbort
  split
  · exact .refl s
  · exact .each _ s fun t _ _ => (KeepsUnits.sendRank t _ _ _).trans (.count _ _ (by unfold Counts; decide))

theorem KeepsUnits.notePath (s : State) (c : Cmd) (ok : Bool) : KeepsUnits d s (s.notePath c ok) := by
  unfold State.notePath
  split
  · exact .refl s
  · exact .of_view rfl rfl

/-! Memory and completion records (R215, R229–R238, R270, R271, R383). -/

/-- What follows a granule that lands marks entries of the shard table. -/
theorem KeepsUnits.markWritten (s : State) (a : Nat) : KeepsUnits d s (s.markWritten a) := by
  refine .each _ s fun t r hr => .setWord t r _ ?_
  obtain ⟨x, hx, rfl⟩ := List.mem_map.1 hr
  obtain ⟨-, hhit⟩ := List.mem_filter.1 hx
  simp only [Bool.and_eq_true, decide_eq_true_eq] at hhit
  obtain ⟨⟨⟨⟨⟨⟨hbase, -⟩, -⟩, -⟩, -⟩, -⟩, -⟩ := hhit
  simp only [page, B.CLX] at hbase
  simp only [offBusy, page, B.VEC, R.VEC_UNIT_BUSY_BUSY]
  omega

theorem KeepsUnits.land (s : State) (via : Via) (a data mask : Nat) (poison : Bool) :
    KeepsUnits d s (s.land via a data mask poison) := by
  unfold State.land
  extract_lets g s1 x s2
  have h1 : KeepsUnits d s s1 := .of_onlyWords (.countBytes s via true g _)
  have h2 : KeepsUnits d s s2 := KeepsUnits.ite (h1.before rfl rfl) h1
  have hstore (t : State) : KeepsUnits d t ((t.storeGranule g data mask).markWritten a) :=
    (KeepsUnits.markWritten (t.storeGranule g data mask) a).after (by simp only [State.unitView, State.storeGranule])
      (by simp only [State.storeGranule])
  exact .ite (.refl s) (.ite (h2.trans ((hstore { s2 with poison := _ }).after rfl rfl)) (.ite h2 (h2.trans (hstore s2))))

theorem KeepsUnits.reach (s : State) (w : HeldWrite) : KeepsUnits d s (s.reach w).2 := by
  unfold State.reach
  extract_lets p snp w'
  split
  · exact .refl s
  · split
    · exact .ite (.count s _ (by unfold Counts; decide)) (.refl s)
    · split
      · unfold State.claimSlot
        split
        · exact (KeepsUnits.count _ _ (by unfold Counts; decide)).after rfl rfl
        · exact .refl s
      · exact .ite (.count s _ (by unfold Counts; decide)) (.refl s)

theorem KeepsUnits.recorded (s : State) (x : Nat × Bool) : KeepsUnits d s (s.recorded x) := by
  have hput (t : State) (f : Nat → Fld) (n : Nat) (hf : (f (x.1 % 64)).off < 0x10000) :
      KeepsUnits d t (t.qput (x.1 / 64) (x.1 % 64) f n) := .put t _ _ _ (offBusy_block (by decide) (by decide) hf)
  unfold State.recorded
  extract_lets e q s1
  have h1 : KeepsUnits d s s1 := (hput s _ _ (by simp only [R.QUEUE_W4_CPL_HEAD]; omega)).trans
    (hput _ _ _ (by simp only [R.QUEUE_W1_OUTSTANDING]; omega))
  exact .ite (h1.trans (.msix s1 (State.fld_lt s1 _ _) _)) h1

theorem KeepsUnits.arrive (s : State) (w : HeldWrite) : KeepsUnits d s (s.arrive w) := by
  unfold State.arrive
  split
  · exact .of_view rfl rfl
  · split
    · have hreach : KeepsUnits d s _ := .reach s w
      generalize s.reach w = r at hreach ⊢
      exact hreach.before rfl rfl
    · have hland : KeepsUnits d s _ := .land s w.via w.addr w.data w.mask w.poison
      split
      · exact hland.trans (.recorded _ _)
      · exact hland

theorem KeepsUnits.writeFrom (via : Via) (owner : Option Nat) :
    ∀ (fuel : Nat) (s : State) (a : Nat) (l : List Byte), KeepsUnits d s (s.writeFrom via owner a l fuel)
  | 0, s, _, _ => .refl s
  | fuel + 1, s, a, l => by
    unfold State.writeFrom
    exact .ite (.refl s) ((KeepsUnits.arrive s _).trans (KeepsUnits.writeFrom via owner fuel _ _ _))

theorem counts_hif {space : Nat} (h : space < 4) : Counts (hifPage (space - 1)) C.HIF_TX_BYTES := by
  unfold Counts
  revert space
  decide

theorem KeepsUnits.cplRecord (s : State) (e q : Nat) (data : List Byte) (irq : Bool) :
    KeepsUnits d s (s.cplRecord e q data irq) := by
  unfold State.cplRecord
  extract_lets k head a space
  have hspace : space < 4 := State.fld_lt s (page e B.CAL) (R.QUEUE_W3_CPL_SPACE q)
  have htell (m : HostMsg) (n : Nat) : KeepsUnits d s ((s.tell m).count (hifPage (space - 1)) C.HIF_TX_BYTES n) :=
    (KeepsUnits.count (s.tell m) n (counts_hif hspace)).after rfl rfl
  exact .ite (.arrive s _) (.ite ((htell _ _).trans (.recorded _ _)) (.of_view rfl rfl))

/-! The record of a sampled command (R602–R605). -/

theorem counts_pmu {f : Fld} (h : f ∈ [C.PMU_TAGS, C.PMU_TAGS_SKIPPED, C.PMU_RECORDS_DROPPED, C.PMU_RECORDS_WRITTEN]) :
    Counts (page d B.PMU) f := by
  unfold Counts
  revert d f
  decide

theorem KeepsUnits.resolveTag (s : State) : KeepsUnits d s (s.resolveTag d) := by
  unfold State.resolveTag
  extract_lets x pg r y
  split
  · exact .refl s
  · extract_lets s1
    have h1 : KeepsUnits d s s1 := (KeepsUnits.count (s.setSampler d _) _ (counts_pmu (by simp))).after rfl rfl
    refine .ite ((KeepsUnits.count (s.setSampler d _) _ (counts_pmu (by simp))).after rfl rfl) ?_
    split
    · exact h1.trans (.of_changes (.stampCmd State.unitView_stampBlind s1 _ _ _))
    · exact h1

theorem KeepsUnits.pmuRecord (s : State) (w : List Nat) : KeepsUnits d s (s.pmuRecord d w) := by
  have h4 : d.val ≠ 4 := by omega
  unfold State.pmuRecord
  rw [if_neg h4, if_neg h4]
  extract_lets pg head size dropped written s1
  have h1 : KeepsUnits d s s1 := .writeFrom .engine none _ s _ _
  have h2 : KeepsUnits d s1 (s1.put pg R.PMU_BUF_HEAD_HEAD (head + 1)) :=
    .put s1 _ _ _ (offBusy_block (by decide) (by decide) (by decide))
  exact .ite (.count s _ (counts_pmu (by simp [dropped])))
    (((h1.trans h2).trans (.intSet _ d B.PMU 0)).trans (.count _ _ (counts_pmu (by simp [written]))))

theorem KeepsUnits.sampleRecord (hd : c.die = d) (s : State) (caller status err : Nat) :
    KeepsUnits d s (s.sampleRecord c caller status err) := by
  unfold State.sampleRecord
  rw [hd]
  extract_lets s1 t own all value x s2
  have h1 : KeepsUnits d s s1 := .ite (.resolveTag s) (.refl s)
  have h2 : KeepsUnits d s1 s2 := .of_view rfl rfl
  exact .ite ((h1.trans h2).trans (.pmuRecord s2 _)) h1

/-! Completion (R256, R270–R275). -/

theorem counts_completion (d : Fin 4) {i : Nat} {f : Fld} (h : (i, f) ∈ [(B.CAL, C.CAL_CMDS_FAILED),
    (B.CAL, C.CAL_CMDS_SKIPPED), (B.NUM, C.NUM_OPT_SKIPPED), (B.ARY, C.ARY_OPS_FAILED), (B.VEC, C.VEC_OPS_FAILED)]) :
    Counts (page d i) f := by
  have hall : ∀ d : Fin 4, ∀ x ∈ [(B.CAL, C.CAL_CMDS_FAILED), (B.CAL, C.CAL_CMDS_SKIPPED), (B.NUM, C.NUM_OPT_SKIPPED),
      (B.ARY, C.ARY_OPS_FAILED), (B.VEC, C.VEC_OPS_FAILED)],
      accounting (page d x.1 + x.2.off) = true ∧ counterIndex (page d x.1 + x.2.off) < 2048 := by decide
  exact hall d (i, f) h

/-- A command that completes leaves the units and UNIT_BUSY of its die, and it alone is dispatched no longer. -/
theorem State.complete_units (hd : c.die = d) (s : State) (status err detail : Nat) :
    let t := s.complete c status err detail
    t.units = s.units ∧ t.unitsBusy d = s.unitsBusy d
      ∧ t.cmds.map Cmd.id = (s.cmds.map Cmd.id).filter (· != c.id) := by
  unfold State.complete
  rw [hd]
  extract_lets e q r o s1 cal skipped s2 s3 s4 s5 s6 gone isError stamped s7 t
  have h1 : KeepsUnits d s s1 := by
    simp only [s1, r]
    split
    · exact .cmdSignal s c
    · exact .refl s
  clear_value o
  have h2 : KeepsUnits d s1 s2 := by
    have hskipped : KeepsUnits d s1 skipped := .count s1 1 (counts_completion d (by simp))
    simp only [s2]
    clear_value skipped
    split
    · exact .refl s1
    · exact (KeepsUnits.count s1 1 (counts_completion d (by simp))).trans (.cmdError _ c _ _)
    · exact .ite (hskipped.trans (.count _ 1 (counts_completion d (by simp)))) hskipped
  have h3 : KeepsUnits d s2 s3 := .ite (.ite (.count s2 1 (counts_completion d (by simp)))
    (.ite (.count s2 1 (counts_completion d (by simp))) (.refl s2))) (.refl s2)
  have h4 : KeepsUnits d s3 s4 := .ite (.sendAbort s3 c _) (.refl s3)
  have h6 : KeepsUnits d s s6 := (((h1.trans h2).trans h3).trans h4).trans
    ((KeepsUnits.notePath s4 c _).trans (.sampleRecord hd s5 _ _ _))
  have h7 : KeepsUnits d gone s7 := .ite ((KeepsUnits.cplRecord stamped.2 e q _ _).after rfl rfl)
    (.ite (.msix gone (State.fld_lt gone _ _) _) (.refl gone))
  have ht : KeepsUnits d gone t := (h7.trans (.refreshOutstanding s7 q)).trans (.resumeMaybe _ e)
  have hgone : gone.unitView = (s.units, (s.cmds.map Cmd.id).filter (· != c.id)) := by
    have h6 := h6.view
    simp only [State.unitView, Prod.mk.injEq] at h6
    obtain ⟨hunits, hids⟩ := h6
    rw [← hunits, ← hids, List.filter_map]
    rfl
  have hview := ht.view.trans hgone
  exact ⟨congrArg Prod.fst hview, ht.busy.trans h6.busy, congrArg Prod.snd hview⟩

end Sys2Proof.Machine
end
section
/-! Unit cores of an operation (R149, R150, R159): an operation that is granted takes its units, a KERNEL starts each of them,
and one that ends leaves them. -/

namespace Sys2Proof.Machine

variable {s t : State} {d : Fin 4} {c : Cmd}

/-! One unit. -/

theorem State.unit_setUnit_same (hs : s.Tidy) (e u : Nat) (x : UnitCore) : (s.setUnit e u x).unit e u = x :=
  Table.get_set_same _ _ _ _ hs.units

theorem State.unit_setUnit_other {e u v : Nat} (h : v ≠ u) (x : UnitCore) : (s.setUnit e u x).unit e v = s.unit e v :=
  Table.get_set_other _ _ _ _ (by omega) _

theorem UnitCore.scalar_setScalar_same {x : UnitCore} (hx : Table.wf (fun _ => none) x.scalars) (i : Nat) (v : Word) :
    (x.setScalar i v).scalar i = v := by
  rw [UnitCore.scalar, UnitCore.setScalar, Table.get_set_same _ _ _ _ hx, Option.getD_some]

theorem UnitCore.scalar_setScalar_other {x : UnitCore} {i k : Nat} (h : k ≠ i) (v : Word) :
    (x.setScalar i v).scalar k = x.scalar k := by
  rw [UnitCore.scalar, UnitCore.scalar, UnitCore.setScalar, Table.get_set_other _ _ _ _ h]

theorem UnitCore.setScalar_wf {x : UnitCore} (hx : Table.wf (fun _ => none) x.scalars) (i : Nat) (v : Word) :
    Table.wf (fun _ => none) (x.setScalar i v).scalars := Table.wf_set _ _ _ _ hx

/-! The units of a mask. -/

theorem nodup_unitList (mask : Nat) : (unitList mask).Nodup := List.nodup_range.filter _

/-! A KERNEL starts (R159). -/

/-- A unit as a KERNEL starts it, number `i` of its units. -/
def Cmd.startCore (c : Cmd) (i gen : Nat) : UnitCore :=
  ((({ op := some c.id, mode := .running, pc := wf c.desc 3 0 52, gen := gen } : UnitCore).setScalar 0
    (BitVec.ofNat 64 (vAux c.desc 0))).setScalar 1 (BitVec.ofNat 64 i)).setScalar 2 (BitVec.ofNat 64 c.units.length)

theorem Cmd.startCore_scalars (c : Cmd) (i gen : Nat) :
    (c.startCore i gen).scalar 0 = BitVec.ofNat 64 (vAux c.desc 0) ∧ (c.startCore i gen).scalar 1 = BitVec.ofNat 64 i
      ∧ (c.startCore i gen).scalar 2 = BitVec.ofNat 64 c.units.length := by
  let x : UnitCore := { op := some c.id, mode := .running, pc := wf c.desc 3 0 52, gen := gen }
  have h0 : Table.wf (fun _ => none) x.scalars := Table.wf_nil _
  have h1 := UnitCore.setScalar_wf h0 0 (BitVec.ofNat 64 (vAux c.desc 0))
  have h2 := UnitCore.setScalar_wf h1 1 (BitVec.ofNat 64 i)
  refine ⟨?_, ?_, UnitCore.scalar_setScalar_same h2 2 _⟩
  · rw [Cmd.startCore, UnitCore.scalar_setScalar_other (by decide), UnitCore.scalar_setScalar_other (by decide),
      UnitCore.scalar_setScalar_same h0]
  · rw [Cmd.startCore, UnitCore.scalar_setScalar_other (by decide), UnitCore.scalar_setScalar_same h1]

/-- Number `i` of the units of a KERNEL starts. -/
def State.startUnit (c : Cmd) (s : State) (i : Nat) : State :=
  s.draw.2.setUnit c.die (c.units.getD i 0) (c.startCore i s.draw.1)

theorem State.kernelStart_eq (s : State) (c : Cmd) : s.kernelStart c = s.each (List.range c.units.length) (State.startUnit c) :=
  rfl

/-- What the start of a KERNEL leaves: registers, memory and commands. -/
theorem State.kernelStart_frame (s : State) (c : Cmd) :
    (s.kernelStart c).regs = s.regs ∧ (s.kernelStart c).mem = s.mem ∧ (s.kernelStart c).cmds = s.cmds := by
  rw [State.kernelStart_eq]
  generalize List.range c.units.length = l
  induction l generalizing s with
  | nil => exact ⟨rfl, rfl, rfl⟩
  | cons i l ih => exact ih (s.startUnit c i)

/-- The first `n` units have started, each with a draw of its own. -/
theorem State.unit_startUnits (hs : s.Tidy) (hc : c.units.Nodup) :
    ∀ n ≤ c.units.length, let t := s.each (List.range n) (State.startUnit c)
      t.Tidy ∧ ∀ i u, i < n → c.units[i]? = some u → ∃ gen, t.unit c.die u = c.startCore i gen
  | 0, _ => ⟨hs, fun _ _ hi => absurd hi (Nat.not_lt_zero _)⟩
  | n + 1, hn => by
    obtain ⟨ht, hstarted⟩ := State.unit_startUnits hs hc n (by omega)
    have hstep : s.each (List.range (n + 1)) (State.startUnit c)
        = (s.each (List.range n) (State.startUnit c)).startUnit c n := by
      rw [State.each, List.range_succ, List.foldl_append]
      rfl
    have hlast : c.units[n]? = some (c.units.getD n 0) := by
      rw [List.getD_eq_getElem?_getD, List.getElem?_eq_getElem (by omega), Option.getD_some]
    rw [hstep]
    generalize s.each (List.range n) (State.startUnit c) = t at ht hstarted
    have hdrawn := State.draw_tidy ht
    refine ⟨State.setUnit_tidy _ _ _ hdrawn, fun i u hi hu => ?_⟩
    by_cases hin : i = n
    · subst hin
      obtain rfl : u = c.units.getD i 0 := Option.some.inj (hu.symm.trans hlast)
      exact ⟨_, State.unit_setUnit_same hdrawn _ _ _⟩
    · obtain ⟨gen, hgen⟩ := hstarted i u (by omega) hu
      have hne : u ≠ c.units.getD n 0 := by
        rintro rfl
        exact hin ((List.getElem?_inj (show i < c.units.length by omega) hc).1 (hu.trans hlast.symm))
      exact ⟨gen, (State.unit_setUnit_other hne _).trans hgen⟩

/-! The grant (R149, R163). -/

/-- The command of an identifier changes. -/
theorem State.mem_mapCmd {id : Nat} (h : id ∈ s.cmds.map Cmd.id) (f : Cmd → Cmd) :
    ∃ y ∈ s.cmds, y.id = id ∧ { f y with id := id } ∈ (s.mapCmd id f).cmds := by
  obtain ⟨y, hy, rfl⟩ := List.mem_map.1 h
  have hmem := List.mem_map_of_mem (f := fun x => if x.id == y.id then { f x with id := x.id } else x) hy
  rw [beq_self_eq_true, if_pos rfl] at hmem
  exact ⟨y, hy, rfl, hmem⟩

/-- What the vector dispatch arbiter grants next is a dispatched command. -/
theorem State.mem_of_vectorNext {e : Nat} (h : s.vectorNext e = some c) : c ∈ s.cmds := by
  obtain ⟨k, -, hk⟩ := List.exists_of_findSome?_eq_some h
  have hc := (List.mem_filter.1 (List.mem_of_find?_eq_some hk)).1
  unfold State.vectorRequests at hc
  extract_lets all at hc
  have hall : c ∈ all := by
    split at hc
    · exact (List.mem_filter.1 hc).1
    · exact hc
  exact (List.mem_filter.1 hall).1

/-- The row of an operation that starts: it takes its usable units, and runs on them. -/
theorem State.vectorRow_of_starts {kind : Nat} (h : s.starts d c kind = true) (run : State → Cmd → State) :
    let x : Cmd := { c with units := unitList (vMask c.desc &&& s.unitsUsable d) }
    s.vectorRow d kind run = run (s.takeUnits x) x
      ∧ c ∈ s.cmds ∧ (kind = OpKind.KERNEL → vMask c.desc &&& s.unitsUsable d = vMask c.desc) := by
  unfold State.starts at h
  extract_lets usable at h
  simp only [Bool.and_eq_true, Bool.or_eq_true, beq_iff_eq, bne_iff_ne, ne_eq] at h
  obtain ⟨⟨⟨hnext, hkind⟩, hsome⟩, hfull⟩ := h
  have hkernel (hk : kind = OpKind.KERNEL) : usable = vMask c.desc := hfull.resolve_left (not_not.2 hk)
  refine ⟨?_, State.mem_of_vectorNext hnext, hkernel⟩
  have hgo : ¬(usable = 0 ∨ kind = OpKind.KERNEL ∧ usable ≠ vMask c.desc) := by
    rintro (h0 | ⟨hk, hne⟩)
    · exact hsome h0
    · exact hne (hkernel hk)
  rw [State.vectorRow, hnext]
  dsimp only
  rw [if_neg (not_not.2 hkind), if_neg hgo]

/-- The stage and the units of a command. -/
def Cmd.seat (c : Cmd) : Nat × Stage × List Nat := (c.id, c.stage, c.units)

/-- What the grant of an operation shows: memory, and the stage and the units of each command. -/
def State.unitsTaken (s : State) : Table Byte × List (Nat × Stage × List Nat) := (s.mem, s.cmds.map Cmd.seat)

theorem State.unitsTaken_stampBlind : StampBlind State.unitsTaken where
  regs s t h := h.part State.unitsTaken fun _ _ _ _ => rfl
  stamps s n l h := by
    unfold State.unitsTaken
    rw [map_eq_of_unstamped (g := Cmd.seat) (fun _ => rfl) h]

theorem State.unitsBusy_lt (s : State) (e : Nat) : s.unitsBusy e < 2 ^ 64 := s.fld_lt _ _

theorem State.unitsBusy_put (hs : s.Tidy) {n : Nat} (hn : n < 2 ^ 64) :
    (s.put (page d B.VEC) R.VEC_UNIT_BUSY_BUSY n).unitsBusy d = n :=
  (State.fld_put_same hs.regs (page d B.VEC) R.VEC_UNIT_BUSY_BUSY n (by decide)).trans (Nat.mod_eq_of_lt hn)

/-- An operation that is granted takes its units: they turn busy, and it runs on them. -/
theorem State.takeUnits_spec (hs : s.Tidy) (hc : c.id ∈ s.cmds.map Cmd.id) (hd : c.die = d) :
    let units := vMask c.desc &&& s.unitsUsable d
    let t := s.takeUnits c
    t.Tidy ∧ t.mem = s.mem ∧ t.unitsBusy d = (s.unitsBusy d ||| units)
      ∧ ∃ x ∈ t.cmds, x.id = c.id ∧ x.stage = .vectorRun ∧ x.units = unitList units := by
  intro units
  refine ⟨State.takeUnits_tidy s c hs, ?_⟩
  have hlt : s.unitsBusy d ||| units < 2 ^ 64 :=
    Nat.or_lt_two_pow (s.unitsBusy_lt d) (Nat.lt_of_le_of_lt Nat.and_le_right (s.fld_lt _ _))
  unfold State.takeUnits
  rw [hd]
  extract_lets e units' aged s1 s2
  have h1 : s1.Tidy := hs.mapIf fun _ => rfl
  have hbusy : s2.unitsBusy d = (s.unitsBusy d ||| units) := State.unitsBusy_put h1 hlt
  have hids : s2.cmds.map Cmd.id = s.cmds.map Cmd.id :=
    mapIf_id _ (fun x => { x with waited := x.waited + 1 }) (fun _ => rfl) s.cmds
  have hid : c.id ∈ s2.cmds.map Cmd.id := hids ▸ hc
  have hmem : s2.mem = s.mem := rfl
  obtain ⟨y, -, -, hy⟩ := State.mem_mapCmd hid fun x => { x with stage := .vectorRun, units := unitList units' }
  have hstamp := Changes.stampCmd (W := fun _ => False) State.unitsTaken_stampBlind
    (s2.mapCmd c.id fun x => { x with stage := .vectorRun, units := unitList units' }) c 1 (e * 256 + 1)
  generalize State.stampCmd _ c 1 (e * 256 + 1) = t at hstamp ⊢
  have hshown : t.unitsTaken = _ := hstamp.part
  simp only [State.unitsTaken, Prod.mk.injEq] at hshown
  obtain ⟨htmem, htcmds⟩ := hshown
  have hfld := hstamp.fld (page d B.VEC) R.VEC_UNIT_BUSY_BUSY
    (accounting_page d (by decide) (by decide) (by decide) (by decide)) id
  refine ⟨htmem.trans hmem, hfld.trans hbusy, ?_⟩
  obtain ⟨x, hx, hxy⟩ := List.mem_map.1 (htcmds ▸ List.mem_map_of_mem (f := Cmd.seat) hy)
  simp only [Cmd.seat, Prod.mk.injEq] at hxy
  exact ⟨x, hx, hxy⟩

/-! An operation leaves its units (R150). -/

theorem testBit_sub_and (a b i : Nat) : (a - (a &&& b)).testBit i = (a.testBit i && !b.testBit i) := by
  induction i generalizing a b with
  | zero =>
    have hle : a &&& b ≤ a := Nat.and_le_left
    have hodd : (a &&& b) % 2 = 1 ↔ a % 2 = 1 ∧ b % 2 = 1 := Nat.and_mod_two_eq_one
    have hsub : (a - (a &&& b)) % 2 = 1 ↔ a % 2 = 1 ∧ ¬ b % 2 = 1 := by omega
    simp only [Nat.testBit_zero, hsub, Bool.decide_and, decide_not]
  | succ i ih =>
    have hle : a &&& b ≤ a := Nat.and_le_left
    have hodd : (a &&& b) % 2 = 1 ↔ a % 2 = 1 ∧ b % 2 = 1 := Nat.and_mod_two_eq_one
    have hhalf : (a - (a &&& b)) / 2 = a / 2 - (a / 2 &&& b / 2) := by
      rw [← Nat.and_div_two]
      omega
    rw [Nat.testBit_succ, hhalf, ih, Nat.testBit_succ, Nat.testBit_succ]

/-- The mask of a list of units. -/
theorem testBit_unitMask (l : List Nat) (m i : Nat) :
    (l.foldl (fun m u => m ||| 2 ^ u) m).testBit i = (m.testBit i || decide (i ∈ l)) := by
  induction l generalizing m with
  | nil => simp
  | cons u l ih => simp [ih, Nat.testBit_or, Nat.testBit_two_pow, eq_comm (a := u), Bool.or_assoc]

/-- A unit that no operation holds. -/
def UnitCore.freed (x : UnitCore) : UnitCore := { x with op := none, mode := .idle }

/-- A unit leaves the operation that holds it. -/
def State.freeUnit (e : Nat) (s : State) (u : Nat) : State := s.setUnit e u (s.unit e u).freed

/-- The units of a list are freed, and nothing else changes. -/
theorem State.eachFree_spec (e : Nat) : ∀ (l : List Nat) {s : State}, s.Tidy →
    let t := s.each l (State.freeUnit e)
    (t.regs = s.regs ∧ t.cmds = s.cmds)
      ∧ (∀ u ∈ l, t.unit e u = (s.unit e u).freed) ∧ ∀ u, u ∉ l → t.unit e u = s.unit e u
  | [], _, _ => ⟨⟨rfl, rfl⟩, nofun, fun _ _ => rfl⟩
  | v :: l, s, hs => by
    obtain ⟨hframe, hfreed, hkept⟩ := State.eachFree_spec e l (State.setUnit_tidy e v (s.unit e v).freed hs)
    have hv := State.unit_setUnit_same hs e v (s.unit e v).freed
    refine ⟨hframe, fun u hu => ?_, fun u hu => ?_⟩
    · by_cases hl : u ∈ l
      · refine (hfreed u hl).trans ?_
        by_cases huv : u = v
        · rw [huv, hv]
          rfl
        · rw [State.unit_setUnit_other huv]
      · obtain rfl := (List.mem_cons.1 hu).resolve_right hl
        exact (hkept u hl).trans hv
    · rw [List.mem_cons, not_or] at hu
      exact (hkept u hu.2).trans (State.unit_setUnit_other hu.1 _)

/-- The mask of the units of an operation. -/
def Cmd.unitMask (c : Cmd) : Nat := c.units.foldl (fun m u => m ||| 2 ^ u) 0

theorem State.freeUnits_eq (s : State) (c : Cmd) : s.freeUnits c =
    (s.put (page c.die B.VEC) R.VEC_UNIT_BUSY_BUSY (s.unitsBusy c.die - (s.unitsBusy c.die &&& c.unitMask))).each c.units
      (State.freeUnit c.die) := rfl

/-- An operation that leaves its units turns them idle, and no longer busy. -/
theorem State.freeUnits_spec (hs : s.Tidy) (hd : c.die = d) :
    let t := s.freeUnits c
    t.cmds = s.cmds ∧ (∀ u ∈ c.units, t.unit d u = (s.unit d u).freed) ∧ (∀ u, u ∉ c.units → t.unit d u = s.unit d u)
      ∧ ∀ u, bitOn (t.unitsBusy d) u = (bitOn (s.unitsBusy d) u && decide (u ∉ c.units)) := by
  have hput := State.unitsBusy_put (d := d) hs
    (Nat.lt_of_le_of_lt (Nat.sub_le _ (s.unitsBusy d &&& c.unitMask)) (s.unitsBusy_lt d))
  rw [State.freeUnits_eq, hd]
  obtain ⟨⟨hregs, hcmds⟩, hfreed, hkept⟩ := State.eachFree_spec d c.units
    (State.put_tidy (page d B.VEC) R.VEC_UNIT_BUSY_BUSY (s.unitsBusy d - (s.unitsBusy d &&& c.unitMask)) hs)
  refine ⟨hcmds, hfreed, hkept, fun u => ?_⟩
  rw [State.unitsBusy_of_regs hregs, hput, bitOn_eq_testBit, bitOn_eq_testBit, testBit_sub_and, Cmd.unitMask,
    testBit_unitMask, Nat.zero_testBit, Bool.false_or, decide_not]

theorem counts_vectorOps (d : Fin 4) {f : Fld} (h : f ∈ [C.VEC_OPS_KERNEL, C.VEC_OPS_ROW]) : Counts (page d B.VEC) f := by
  unfold Counts
  revert d f
  decide

/-- After an operation has left its units it completes, with its error or with OK. -/
theorem State.vectorEnd_units (hd : c.die = d) (s : State) :
    let t := s.vectorEnd c
    t.units = (s.freeUnits c).units ∧ t.unitsBusy d = (s.freeUnits c).unitsBusy d
      ∧ t.cmds.map Cmd.id = ((s.freeUnits c).cmds.map Cmd.id).filter (· != c.id) := by
  unfold State.vectorEnd
  extract_lets s1 t
  have h1 : KeepsUnits d (s.freeUnits c) s1 := .count _ 1 (by
    rw [hd]
    split <;> exact counts_vectorOps d (by simp))
  have ht : t.units = s1.units ∧ t.unitsBusy d = s1.unitsBusy d
      ∧ t.cmds.map Cmd.id = (s1.cmds.map Cmd.id).filter (· != c.id) := by
    simp only [t]
    split <;> exact State.complete_units hd s1 _ _ _
  obtain ⟨hunits, hbusy, hids⟩ := ht
  have hview := h1.view
  simp only [State.unitView, Prod.mk.injEq] at hview
  obtain ⟨hunits1, hids1⟩ := hview
  exact ⟨hunits.trans hunits1, hbusy.trans h1.busy, by rw [hids, hids1]⟩

/-! The statement. -/

/-- R159: a KERNEL that is granted starts its units. -/
theorem kernel_starts (hs : s.Tidy) (h : s.starts d c OpKind.KERNEL = true) (hd : c.die = d) :
    let l := unitList (vMask c.desc)
    Answers (.kernel d) s fun t =>
      t.mem = s.mem ∧ t.unitsBusy d = (s.unitsBusy d ||| vMask c.desc)
      ∧ (∃ x ∈ t.cmds, x.id = c.id ∧ x.stage = .vectorRun ∧ x.units = l)
      ∧ ∀ i u, l[i]? = some u →
          (t.unit d u).mode = .running ∧ (t.unit d u).op = some c.id ∧ (t.unit d u).pc = wf c.desc 3 0 52
          ∧ (t.unit d u).scalar 0 = BitVec.ofNat 64 (vAux c.desc 0) ∧ (t.unit d u).scalar 1 = BitVec.ofNat 64 i
          ∧ (t.unit d u).scalar 2 = BitVec.ofNat 64 l.length := by
  intro l
  obtain ⟨hrow, hc, hfull⟩ := State.vectorRow_of_starts h State.kernelStart
  rw [hfull rfl] at hrow
  have hid : c.id ∈ s.cmds.map Cmd.id := List.mem_map_of_mem hc
  have hspec := State.takeUnits_spec (c := { c with units := l }) hs hid hd
  simp only [hfull rfl] at hspec
  obtain ⟨htidy, hmem, hbusy, hrun⟩ := hspec
  generalize s.takeUnits { c with units := l } = t at htidy hmem hbusy hrun hrow
  obtain ⟨hregs, hkmem, hcmds⟩ := t.kernelStart_frame { c with units := l }
  obtain ⟨-, hstarted⟩ := State.unit_startUnits (c := { c with units := l }) htidy (nodup_unitList _) _ (Nat.le_refl _)
  refine ⟨_, congrArg Host.Outcome.next hrow, hkmem.trans hmem, ?_, hcmds ▸ hrun, fun i u hi => ?_⟩
  · exact (State.unitsBusy_of_regs hregs d).trans hbusy
  · obtain ⟨gen, hgen⟩ := hstarted i u (List.getElem?_eq_some_iff.1 hi).1 hi
    rw [← hd, show (t.kernelStart { c with units := l }).unit c.die u = _ from hgen]
    exact ⟨rfl, rfl, rfl, Cmd.startCore_scalars { c with units := l } i gen⟩

/-- R150: an operation whose units have finished and whose stores have landed leaves its units, and completes. -/
theorem vectorOpComplete_leaves {vu : Fin 64} (hs : s.Tidy)
    (hfind : (s.cmds.find? fun c => c.stage == .vectorDone && c.die == d.val && c.units.contains vu.val) = some c)
    (hland : s.allLanded c.id = true) (hfloor : s.floorLost d = false) :
    Answers (.vectorOpComplete d vu) s fun t =>
      t.cmds.map Cmd.id = (s.cmds.map Cmd.id).filter (· != c.id)
      ∧ (∀ u ∈ c.units, bitOn (t.unitsBusy d) u = false ∧ (t.unit d u).op = none ∧ (t.unit d u).mode = .idle)
      ∧ ∀ u, u ∉ c.units → bitOn (t.unitsBusy d) u = bitOn (s.unitsBusy d) u ∧ t.unit d u = s.unit d u := by
  have hd : c.die = d := by
    have := List.find?_some hfind
    simp only [Bool.and_eq_true, beq_iff_eq] at this
    exact this.1.2
  have hrow : s.vectorComplete d vu = s.vectorEnd c := by
    rw [State.allLanded, Bool.not_eq_true'] at hland
    rw [State.vectorComplete, hfind]
    simp only [hfloor, hland, Bool.or_self, Bool.false_eq_true, if_false]
  refine ⟨_, congrArg Host.Outcome.next hrow, ?_⟩
  obtain ⟨hcmds, hfreed, hkept, hbits⟩ := State.freeUnits_spec (c := c) hs hd
  obtain ⟨hunits, hbusy, hids⟩ := State.vectorEnd_units hd s
  have hunit (u : Nat) : (s.vectorEnd c).unit d u = (s.freeUnits c).unit d u := by rw [State.unit, State.unit, hunits]
  refine ⟨by rw [hids, hcmds], fun u hu => ?_, fun u hu => ?_⟩
  · rw [hunit, hfreed u hu, hbusy, hbits]
    exact ⟨by simp [hu], rfl, rfl⟩
  · rw [hunit, hbusy, hbits]
    exact ⟨by simp [hu], hkept u hu⟩

/-- Settles O13: the grant of a KERNEL followed by the starts of its units, and the release of the units of an operation
followed by its completion, which leaves them as they are. -/
theorem kernelsStartAndOperationsEnd : Obligations.KernelsStartAndOperationsEnd := by
  unfold Obligations.KernelsStartAndOperationsEnd
  refine ⟨fun s d c hs h hd => kernel_starts hs h hd, fun s d vu c hs hfind hland hfloor _ => ?_⟩
  obtain ⟨t, hexec, hids, hleft, hkept⟩ := vectorOpComplete_leaves hs hfind hland hfloor
  exact ⟨t, hexec, hids, hleft, fun u _ hu => hkept u hu⟩

end Sys2Proof.Machine
end

section
/-! The flag and the causes of a step in JCX_NUM_STS (R196–R198, R210). -/

namespace Sys2Proof.Machine

variable {s : State}

/-- The word of JCX_NUM_STS with the flag and the causes put into it, and STEP_CLEAN and FORCE_SHUT as they follow. -/
def causesWord (w n : Nat) : Nat :=
  setBits (setBits (setBits (setBits (setBits (setBits (setBits w 8 1 (bits n 0 1)) 9 1 (bits n 1 1)) 10 1 (bits n 2 1))
    11 1 (bits n 3 1)) 12 1 (bits n 4 1)) 24 1 (bits n 4 1)) 7 1 (if bits n 1 4 == 0 then 1 else 0)

theorem State.putCauses_word (hs : s.Tidy) (d k n : Nat) : (s.putCauses d k n).word (page d B.JCX + (R.JCX_NUM_STS k).off)
    = causesWord (s.word (page d B.JCX + (R.JCX_NUM_STS k).off)) n := by
  have hput {s : State} (hs : s.Tidy) (lsb v : Nat) (hlsb : lsb + 1 ≤ 64) : (s.put (page d B.JCX) ⟨0x110 + 8 * k, lsb, 1⟩ v).Tidy
      ∧ (s.put (page d B.JCX) ⟨0x110 + 8 * k, lsb, 1⟩ v).word (page d B.JCX + (0x110 + 8 * k))
        = setBits (s.word (page d B.JCX + (0x110 + 8 * k))) lsb 1 v :=
    ⟨State.put_tidy _ _ _ hs, State.word_put_same hs.regs _ _ _ hlsb⟩
  obtain ⟨h1, w1⟩ := hput hs 8 (bits n 0 1) (by decide)
  obtain ⟨h2, w2⟩ := hput h1 9 (bits n 1 1) (by decide)
  obtain ⟨h3, w3⟩ := hput h2 10 (bits n 2 1) (by decide)
  obtain ⟨h4, w4⟩ := hput h3 11 (bits n 3 1) (by decide)
  obtain ⟨h5, w5⟩ := hput h4 12 (bits n 4 1) (by decide)
  obtain ⟨h6, w6⟩ := hput h5 24 (bits n 4 1) (by decide)
  obtain ⟨-, w7⟩ := hput h6 7 (if bits n 1 4 == 0 then 1 else 0) (by decide)
  exact w7.trans (by rw [w6, w5, w4, w3, w2, w1]; rfl)

/-- The flag and the causes write JCX_NUM_STS only. -/
theorem OnlyWords.putCauses (s : State) (d k n : Nat) :
    OnlyWords s (s.putCauses d k n) [page d B.JCX + (R.JCX_NUM_STS k).off] := by
  have hput (s : State) (lsb v : Nat) : OnlyWords s (s.put (page d B.JCX) ⟨0x110 + 8 * k, lsb, 1⟩ v)
      [page d B.JCX + (R.JCX_NUM_STS k).off] := .put s _ _ _ _ (.inr List.mem_cons_self)
  exact ((((((hput s 8 _).trans (hput _ 9 _)).trans (hput _ 10 _)).trans (hput _ 11 _)).trans (hput _ 12 _)).trans
    (hput _ 24 _)).trans (hput _ 7 _)

/-- The flag and the causes that were put read back (R198). -/
theorem State.causes_putCauses (hs : s.Tidy) (d k n : Nat) : (s.putCauses d k n).causes d k = n % 2 ^ 5 := by
  rw [State.causes, State.putCauses_word hs]
  refine Nat.eq_of_testBit_eq fun i => ?_
  rw [Nat.testBit_mod_two_pow]
  by_cases hi : i < 5
  · obtain rfl | rfl | rfl | rfl | rfl : i = 0 ∨ i = 1 ∨ i = 2 ∨ i = 3 ∨ i = 4 := by omega
    all_goals simp [causesWord, testBit_bits, testBit_setBits, -Nat.testBit_zero]
  · simp [testBit_bits, hi]

/-- A bit of JCX_NUM_STS after the causes were put. -/
theorem State.on_putCauses (hs : s.Tidy) (d k n i : Nat) : (s.putCauses d k n).on (page d B.JCX) ⟨0x110 + 8 * k, i, 1⟩
    = (causesWord (s.word (page d B.JCX + (R.JCX_NUM_STS k).off)) n).testBit i := by
  have hword : (s.putCauses d k n).word (page d B.JCX + (0x110 + 8 * k)) = _ := State.putCauses_word hs d k n
  rw [State.on, State.fld, hword, ← bitOn_eq_testBit, bitOn]
  have hlt := bits_lt (causesWord (s.word (page d B.JCX + (R.JCX_NUM_STS k).off)) n) i 1
  generalize bits _ i 1 = b at hlt
  obtain rfl | rfl : b = 0 ∨ b = 1 := by omega
  · rfl
  · rfl

theorem causesWord_bracketFailed (w n : Nat) : (causesWord w n).testBit 10 = n.testBit causeBit.bracketFailed := by
  simp [causesWord, testBit_bits, testBit_setBits, causeBit.bracketFailed, -Nat.testBit_zero]

theorem causesWord_forceShut (w n : Nat) : (causesWord w n).testBit 24 = n.testBit causeBit.forced := by
  simp [causesWord, testBit_bits, testBit_setBits, causeBit.forced, -Nat.testBit_zero]

theorem causesWord_stepClean (w n : Nat) : (causesWord w n).testBit 7 = (bits n 1 4 == 0) := by
  simp only [causesWord, testBit_setBits]
  cases bits n 1 4 == 0 <;> rfl

/-- The flag and the causes are five bits. -/
theorem State.causes_lt (s : State) (d k : Nat) : s.causes d k < 2 ^ 5 := bits_lt _ _ _

/-- The flag and the causes with one more cause. -/
theorem State.causes_or_lt (s : State) (d k : Nat) {b : Nat} (hb : b < 5) : s.causes d k ||| 2 ^ b < 2 ^ 5 :=
  Nat.or_lt_two_pow (s.causes_lt d k) (Nat.pow_lt_pow_right (by decide) hb)

/-- R198: before the gate word of the step has formed a cause joins those of this step, and STEP_CLEAN and FORCE_SHUT follow. -/
theorem State.setCause_now {d k b : Nat} (h : s.sampled d k = false) :
    s.setCause d k b = s.putCauses d k (s.causes d k ||| 2 ^ b) := by
  rw [State.setCause, h]
  rfl

/-- R198: after it a cause is kept apart for the next step. -/
theorem State.setCause_next {d k b : Nat} (h : s.sampled d k = true) :
    s.setCause d k b = s.setJob d k { s.job d k with next := (s.job d k).next ||| 2 ^ b } := by
  rw [State.setCause, h]
  rfl

theorem State.job_setJob_same (hs : s.Tidy) (d k : Nat) (j : Job) : (s.setJob d k j).job d k = j :=
  Table.get_set_same _ _ _ _ hs.jobs

theorem State.job_setJob_other {d k e m : Nat} (h : jobKey e m ≠ jobKey d k) (j : Job) :
    (s.setJob d k j).job e m = s.job e m :=
  Table.get_set_other _ _ _ _ h _

end Sys2Proof.Machine
end


section
/-! The registers of a job context that a host writes (R209, R210, R283, R294): STEP, FORCE_SHUT and the partition entries. -/

namespace Sys2Proof.Machine

variable {s t u : State} {x : Access} {d : Fin 4} {k : Nat}

/-! STEP (R209). -/

/-- A write of STEP shows, and no gate of the new step has been evaluated. -/
theorem State.stepWrite_shows (hs : s.Tidy) (d k v : Nat) : (s.stepWrite d k v).stepOf d k = bits v 0 32
    ∧ (s.stepWrite d k v).on (page d B.JCX) (R.JCX_NUM_STS_GATE_DONE k) = false := by
  have ht := State.put_tidy (page d B.JCX) (R.JCX_STEP_STEP k) (bits v 0 32) hs
  have hapart : page d B.JCX + (R.JCX_STEP_STEP k).off ≠ page d B.JCX + (R.JCX_NUM_STS_GATE_DONE k).off := by
    simp only [R.JCX_STEP_STEP, R.JCX_NUM_STS_GATE_DONE]
    omega
  constructor
  · refine (State.fld_put_apart ht.regs _ _ _ _ _ (show 2 + 1 ≤ 64 by decide) (.inl hapart)).trans ?_
    exact (State.fld_put_same hs.regs _ _ _ (show 0 + 32 ≤ 64 by decide)).trans (Nat.mod_eq_of_lt (bits_lt v 0 32))
  · exact congrArg (· != 0) (State.fld_put_same ht.regs (page d B.JCX) (R.JCX_NUM_STS_GATE_DONE k) 0 (show 2 + 1 ≤ 64 by decide))

theorem OnlyWords.stepWrite (s : State) (d k v : Nat) : OnlyWords s (s.stepWrite d k v)
    [page d B.JCX + (R.JCX_STEP k).off, page d B.JCX + (R.JCX_NUM_STS k).off] :=
  (OnlyWords.put s (page d B.JCX) (R.JCX_STEP_STEP k) _ _ (.inr List.mem_cons_self)).trans
    (.put _ (page d B.JCX) (R.JCX_NUM_STS_GATE_DONE k) 0 _ (.inr (List.mem_cons_of_mem _ List.mem_cons_self)))

/-! FORCE_SHUT (R197, R198). -/

/-- FORCED joins the causes of the step, or those of the next one once the gate word has formed. -/
theorem State.forceShut_shows (hs : s.Tidy) (d k : Nat) :
    (s.sampled d k = false → (s.setCause d k causeBit.forced).causes d k = s.causes d k ||| 2 ^ causeBit.forced
      ∧ (s.setCause d k causeBit.forced).on (page d B.JCX) (R.JCX_NUM_STS_FORCE_SHUT k) = true
      ∧ (s.setCause d k causeBit.forced).on (page d B.JCX) (R.JCX_NUM_STS_STEP_CLEAN k) = false)
    ∧ (s.sampled d k = true → (s.setCause d k causeBit.forced).causes d k = s.causes d k
      ∧ bitOn ((s.setCause d k causeBit.forced).job d k).next causeBit.forced = true) := by
  have hbit (n : Nat) : (n ||| 2 ^ causeBit.forced).testBit 4 = true := by
    rw [Nat.testBit_or, show Nat.testBit (2 ^ causeBit.forced) 4 = true by decide, Bool.or_true]
  constructor
  · intro hnow
    have hclean : (bits (s.causes d k ||| 2 ^ causeBit.forced) 1 4 == 0) = false := by
      refine beq_false_of_ne fun h0 => ?_
      have h3 := congrArg (Nat.testBit · 3) h0
      simp [testBit_bits, hbit] at h3
    rw [State.setCause_now hnow]
    refine ⟨?_, ?_, ?_⟩
    · rw [State.causes_putCauses hs, Nat.mod_eq_of_lt (s.causes_or_lt d k (by decide))]
    · exact (State.on_putCauses hs d k _ 24).trans ((causesWord_forceShut _ _).trans (hbit _))
    · exact (State.on_putCauses hs d k _ 7).trans ((causesWord_stepClean _ _).trans hclean)
  · intro hnext
    rw [State.setCause_next hnext, State.job_setJob_same hs, bitOn_eq_testBit]
    exact ⟨rfl, hbit _⟩

/-! Partition entries (R283, R294). -/

/-- The word of JCX at an offset from a partition table. -/
theorem partBase_add (d k off : Nat) : partBase d k + off = page d B.JCX + (256 * k + off) := by
  unfold partBase
  omega

/-- The valid entries of the other context stand in words of their own. -/
theorem State.overlaps_of_words {d m : Nat} (lo hi : Nat)
    (h : ∀ n < 16, t.word (partBase d m + (0x1000 + 16 * n)) = s.word (partBase d m + (0x1000 + 16 * n))
      ∧ t.word (partBase d m + (0x1008 + 16 * n)) = s.word (partBase d m + (0x1008 + 16 * n))) :
    t.overlaps d m lo hi = s.overlaps d m lo hi := by
  unfold State.overlaps
  rw [Bool.eq_iff_iff, List.any_eq_true, List.any_eq_true]
  refine exists_congr fun n => and_congr_right fun hn => ?_
  obtain ⟨h0, h1⟩ := h n (List.mem_range.1 hn)
  simp only [State.on, State.fld, R.PARTITION_W0_VALID, R.PARTITION_W0_BASE, R.PARTITION_W1_LIMIT, h0, h1]
  exact Iff.rfl

/-- The bit of JCX_CTX_CTL that shows an overlap of a context. -/
def overlapMark (k : Nat) : Fld := if k = 0 then R.JCX_CTX_CTL_OVERLAP_PRI else R.JCX_CTX_CTL_OVERLAP_CUT

theorem overlapMark_cases (k : Nat) : overlapMark k = ⟨0x130, 8, 1⟩ ∨ overlapMark k = ⟨0x130, 9, 1⟩ := by
  unfold overlapMark
  split
  · exact .inl rfl
  · exact .inr rfl

/-- An entry as a write of its word 0 begins: it has its BASE, and is not valid. -/
def State.based (s : State) (d k n v : Nat) : State :=
  (s.put (partBase d k) (R.PARTITION_W0_BASE n) (bits v 0 36)).put (partBase d k) (R.PARTITION_W0_VALID n) 0

/-- Whether an entry overlaps a valid one of the other context. -/
def State.clashes (s : State) (d k n v : Nat) : Bool :=
  s.overlaps d (1 - k) (bits v 0 36) (s.fld (partBase d k) (R.PARTITION_W1_LIMIT n))

/-- A write of VALID to an entry that is not valid. -/
theorem State.partition_of_invalid {d k n v : Nat} (h : s.on (partBase d k) (R.PARTITION_W0_VALID n) = false)
    (hv : bitOn v 63 = true) : s.partition d k n v =
      if (s.based d k n v).clashes d k n v then
        ((s.based d k n v).put (page d B.JCX) (overlapMark k) 1).intSet (page d B.JCX) 2
      else (s.based d k n v).put (partBase d k) (R.PARTITION_W0_VALID n) 1 := by
  unfold State.partition
  simp only [h, hv, Bool.false_and, Bool.false_eq_true, if_false, Bool.not_true]
  rfl

theorem State.partition_of_valid {d k n v : Nat} (h : s.on (partBase d k) (R.PARTITION_W0_VALID n) = true)
    (hv : bitOn v 63 = true) : s.partition d k n v = s := by
  simp only [State.partition, h, hv, Bool.and_self, if_true]

theorem State.word_based_other {d k n v a : Nat} (h : a ≠ partBase d k + (R.PARTITION_W0 n).off) :
    (s.based d k n v).word a = s.word a :=
  (State.word_put_other _ (R.PARTITION_W0_VALID n) _ _ h).trans (State.word_put_other _ (R.PARTITION_W0_BASE n) _ _ h)

/-- What an entry is compared with does not change with its own BASE and VALID. -/
theorem State.clashes_based (d : Nat) {k n : Nat} (hk : k < 2) (hn : n < 16) (v : Nat) :
    (s.based d k n v).clashes d k n v = s.clashes d k n v := by
  have hother {m i off : Nat} (hi : i < 16) (h : m ≠ k ∨ off = 0x1008) (ho : off = 0x1000 ∨ off = 0x1008) (hm : m < 2) :
      (s.based d k n v).word (partBase d m + (off + 16 * i)) = s.word (partBase d m + (off + 16 * i)) := by
    refine State.word_based_other ?_
    rw [partBase_add, partBase_add]
    simp only [R.PARTITION_W0]
    omega
  have hlimit : (s.based d k n v).fld (partBase d k) (R.PARTITION_W1_LIMIT n) = s.fld (partBase d k) (R.PARTITION_W1_LIMIT n) :=
    congrArg (bits · 0 36) (hother hn (.inr rfl) (.inr rfl) hk)
  rw [State.clashes, State.clashes, hlimit]
  exact State.overlaps_of_words _ _ fun i hi =>
    ⟨hother hi (.inl (by omega)) (.inl rfl) (by omega), hother hi (.inr rfl) (.inr rfl) (by omega)⟩

theorem State.based_tidy (hs : s.Tidy) (d k n v : Nat) : (s.based d k n v).Tidy :=
  State.put_tidy _ _ _ (State.put_tidy _ _ _ hs)

/-- R283: an entry that is not valid takes its BASE and becomes valid, unless it overlaps a valid one of the other context,
which is marked. -/
theorem State.partition_shows (hs : s.Tidy) (d : Nat) {k n v : Nat} (hk : k < 2) (hn : n < 16) (hv : bitOn v 63 = true)
    (h : s.on (partBase d k) (R.PARTITION_W0_VALID n) = false) :
    (s.partition d k n v).fld (partBase d k) (R.PARTITION_W0_BASE n) = bits v 0 36
    ∧ (s.partition d k n v).on (partBase d k) (R.PARTITION_W0_VALID n) = !s.clashes d k n v
    ∧ (s.clashes d k n v = true → (s.partition d k n v).on (page d B.JCX) (overlapMark k) = true) := by
  have hb := State.based_tidy hs d k n v
  have hp := State.put_tidy (partBase d k) (R.PARTITION_W0_BASE n) (bits v 0 36) hs
  have hbase : (s.based d k n v).fld (partBase d k) (R.PARTITION_W0_BASE n) = bits v 0 36 := by
    refine (State.fld_put_apart hp.regs _ _ _ _ _ (show 63 + 1 ≤ 64 by decide) (.inr (.inl (show 0 + 36 ≤ 63 by decide)))).trans ?_
    exact (State.fld_put_same hs.regs _ _ _ (show 0 + 36 ≤ 64 by decide)).trans (Nat.mod_eq_of_lt (bits_lt v 0 36))
  have hvalid : (s.based d k n v).on (partBase d k) (R.PARTITION_W0_VALID n) = false :=
    congrArg (· != 0) (State.fld_put_same hp.regs (partBase d k) (R.PARTITION_W0_VALID n) 0 (show 63 + 1 ≤ 64 by decide))
  have hentry : accounting (partBase d k + (0x1000 + 16 * n)) = false := by
    rw [partBase_add]
    exact accounting_page d (by decide) (by decide) (by omega) (by simp only [R.INT_STS]; omega)
  rw [State.partition_of_invalid h hv, State.clashes_based d hk hn]
  cases hc : s.clashes d k n v with
  | false =>
    rw [if_neg Bool.false_ne_true]
    refine ⟨?_, ?_, nofun⟩
    · exact (State.fld_put_apart hb.regs _ _ _ _ _ (show 63 + 1 ≤ 64 by decide)
        (.inr (.inl (show 0 + 36 ≤ 63 by decide)))).trans hbase
    · exact congrArg (· != 0) (State.fld_put_same hb.regs (partBase d k) (R.PARTITION_W0_VALID n) 1 (show 63 + 1 ≤ 64 by decide))
  | true =>
    rw [if_pos rfl]
    have hmark : (overlapMark k).off = 0x130 ∧ (overlapMark k).lsb + (overlapMark k).width ≤ 64 ∧ (overlapMark k).width = 1 := by
      rcases overlapMark_cases k with h | h <;> rw [h] <;> decide
    obtain ⟨hoff, hwidth, hone⟩ := hmark
    have hmarked := State.fld_put_same hb.regs (page d B.JCX) (overlapMark k) 1 hwidth
    have hm := State.put_tidy (page d B.JCX) (overlapMark k) 1 hb
    have hkeep (f : Fld) (hf : f.off = 0x1000 + 16 * n) :
        (((s.based d k n v).put (page d B.JCX) (overlapMark k) 1).intSet (page d B.JCX) 2).fld (partBase d k) f
          = (s.based d k n v).fld (partBase d k) f := by
      obtain ⟨-, hint⟩ := KeepsFld.intSet (f := f) (by rw [hf]; exact hentry) _ (page d B.JCX) 2 (page_mod _ _) hm
      refine hint.trans (State.fld_put_apart hb.regs _ _ _ _ _ hwidth (.inl ?_))
      rw [partBase_add, hf, hoff]
      omega
    refine ⟨(hkeep _ rfl).trans hbase, congrArg (· != 0) (hkeep _ rfl) |>.trans hvalid, fun _ => ?_⟩
    have hplain : accounting (page d B.JCX + (overlapMark k).off) = false := by
      rw [hoff]
      exact accounting_page d (by decide) (by decide) (by decide) (by decide)
    obtain ⟨-, hint⟩ := KeepsFld.intSet hplain _ (page d B.JCX) 2 (page_mod _ _) hm
    rw [State.on, hint, hmarked, hone]
    rfl

/-- A write of word 0 of an entry writes that word, and the marks of JCX_CTX_CTL. -/
theorem OnlyWords.partition (s : State) (d k n v : Nat) : OnlyWords s (s.partition d k n v)
    [partBase d k + (R.PARTITION_W0 n).off, page d B.JCX + R.JCX_CTX_CTL.off] := by
  have hentry : partBase d k + (R.PARTITION_W0 n).off ∈ [partBase d k + (R.PARTITION_W0 n).off, page d B.JCX + R.JCX_CTX_CTL.off] :=
    List.mem_cons_self
  have hctl : page d B.JCX + R.JCX_CTX_CTL.off ∈ [partBase d k + (R.PARTITION_W0 n).off, page d B.JCX + R.JCX_CTX_CTL.off] :=
    List.mem_cons_of_mem _ List.mem_cons_self
  generalize [partBase d k + (R.PARTITION_W0 n).off, page d B.JCX + R.JCX_CTX_CTL.off] = l at hentry hctl
  have hbased : OnlyWords s (s.based d k n v) l :=
    (OnlyWords.put s (partBase d k) (R.PARTITION_W0_BASE n) _ l (.inr hentry)).trans
      (.put _ (partBase d k) (R.PARTITION_W0_VALID n) 0 l (.inr hentry))
  unfold State.partition
  extract_lets pg valid t
  have ht : OnlyWords s t l := hbased
  clear_value t
  have hmark (f : Fld) (hf : f.off = R.JCX_CTX_CTL.off) : OnlyWords s ((t.put (page d B.JCX) f 1).intSet (page d B.JCX) 2) l :=
    (ht.trans (.put t _ f 1 l (.inr (hf ▸ hctl)))).trans (.intSet _ _ 2 l (page_mod _ _))
  split
  · exact .refl s l
  · split
    · exact ht
    · split
      · exact hmark _ (by split <;> rfl)
      · exact ht.trans (.put t _ _ _ _ (.inr hentry))

/-! The commands. -/

/-- A request that is counted changes no word of JCX. -/
theorem OnlyWords.jcx (h : OnlyWords s t []) (d : Nat) {off : Nat} (h0 : 0x100 ≤ off) (h1 : off < 0x8000) :
    t.word (page d B.JCX + off) = s.word (page d B.JCX + off) :=
  h.word _ (accounting_page d (by decide) (by decide) h1 (by simp only [R.INT_STS]; omega)) List.not_mem_nil

theorem ctxNo_lt (c : Ctx) : ctxNo c < 2 := by cases c <;> decide

/-- A write of a register of JCX that is taken is made in a state that has counted it. -/
theorem State.hostWrite_jcx (hs : s.Tidy) {off : Nat} (h0 : 0x100 ≤ off) (h1 : off < 0x8000)
    (h : s.writes x (page d B.JCX + off) = true) (v : Nat) :
    ∃ u : State, u.Tidy ∧ OnlyWords s u [] ∧ s.hostWrite x (page d B.JCX + off) v = .next (u.jcxWrite d off v) := by
  obtain ⟨hdie, hblock, hoff⟩ := page_offset d (i := B.JCX) (off := off) (by decide) (by omega)
  obtain ⟨u, hu, hkept, hpage, hwrite⟩ := State.hostWrite_of_writes hs h v (by omega)
  rw [State.writeReg_block hpage _ _ (by omega) (by omega), hdie, hblock, hoff] at hwrite
  exact ⟨u, hu, hkept, hwrite⟩

/-- JCX_STEP_WRITE (R209). -/
theorem jcxStepWrite_shows (hs : s.Tidy) (hk : k < 2)
    (h : s.writes x (page d B.JCX + (R.JCX_STEP k).off) = true) (v : Nat) :
    ∃ t, s.hostWrite x (page d B.JCX + (R.JCX_STEP k).off) v = .next t ∧ t.stepOf d k = bits v 0 32
      ∧ t.on (page d B.JCX) (R.JCX_NUM_STS_GATE_DONE k) = false
      ∧ OnlyWords s t [page d B.JCX + (R.JCX_STEP k).off, page d B.JCX + (R.JCX_NUM_STS k).off] := by
  have hoff : (R.JCX_STEP k).off = 0x100 + 8 * k := rfl
  obtain ⟨u, hu, hkept, hwrite⟩ := State.hostWrite_jcx hs (by omega) (by omega) h v
  have hrow : u.jcxWrite d (R.JCX_STEP k).off v = u.stepWrite d k v := by
    obtain rfl | rfl : k = 0 ∨ k = 1 := by omega
    · rfl
    · rfl
  obtain ⟨hstep, hdone⟩ := State.stepWrite_shows hu d k v
  exact ⟨_, hwrite.trans (congrArg _ hrow), hstep, hdone, (hkept.of_nil _).trans (.stepWrite u d k v)⟩

/-- FORCE_SHUT (R197, R198). -/
theorem forceShut_causes (hs : s.Tidy) (hk : k < 2) (h : s.writes x (page d B.JCX + (R.JCX_NUM_STS k).off) = true) :
    ∃ t, s.hostWrite x (page d B.JCX + (R.JCX_NUM_STS k).off) (2 ^ 24) = .next t
      ∧ (s.sampled d k = false → t.causes d k = s.causes d k ||| 2 ^ causeBit.forced
        ∧ t.on (page d B.JCX) (R.JCX_NUM_STS_FORCE_SHUT k) = true ∧ t.on (page d B.JCX) (R.JCX_NUM_STS_STEP_CLEAN k) = false)
      ∧ (s.sampled d k = true → t.causes d k = s.causes d k ∧ bitOn (t.job d k).next causeBit.forced = true) := by
  have hoff : (R.JCX_NUM_STS k).off = 0x110 + 8 * k := rfl
  obtain ⟨u, hu, hkept, hwrite⟩ := State.hostWrite_jcx hs (by omega) (by omega) h (2 ^ 24)
  have hrow : u.jcxWrite d (R.JCX_NUM_STS k).off (2 ^ 24) = u.setCause d k causeBit.forced := by
    obtain rfl | rfl : k = 0 ∨ k = 1 := by omega
    · rfl
    · rfl
  have hcauses : u.causes d k = s.causes d k := congrArg (bits · 8 5) (hkept.jcx d (by omega) (by omega))
  have hsampled : u.sampled d k = s.sampled d k := hkept.1.part (State.sampled · d k) fun _ _ _ _ => rfl
  obtain ⟨hnow, hnext⟩ := State.forceShut_shows hu d k
  rw [hcauses, hsampled] at hnow hnext
  exact ⟨_, hwrite.trans (congrArg _ hrow), hnow, hnext⟩

/-- PARTITION_WRITE (R283, R294). -/
theorem partitionWrite_shows {n v : Nat} (hs : s.Tidy) (hk : k < 2) (hn : n < 16) (hv : bitOn v 63 = true)
    (h : s.writes x (partBase d k + (R.PARTITION_W0 n).off) = true) :
    ∃ t, s.hostWrite x (partBase d k + (R.PARTITION_W0 n).off) v = .next t
      ∧ (s.on (partBase d k) (R.PARTITION_W0_VALID n) = false →
          t.fld (partBase d k) (R.PARTITION_W0_BASE n) = bits v 0 36
          ∧ t.on (partBase d k) (R.PARTITION_W0_VALID n) = !s.clashes d k n v
          ∧ (s.clashes d k n v = true → t.on (page d B.JCX) (overlapMark k) = true))
      ∧ (s.on (partBase d k) (R.PARTITION_W0_VALID n) = true → OnlyWords s t [])
      ∧ OnlyWords s t [partBase d k + (R.PARTITION_W0 n).off, page d B.JCX + R.JCX_CTX_CTL.off] := by
  have hoff : (R.PARTITION_W0 n).off = 0x1000 + 16 * n := rfl
  have hplace := partBase_add d k (R.PARTITION_W0 n).off
  obtain ⟨u, hu, hkept, hwrite⟩ := State.hostWrite_jcx hs (off := 256 * k + (R.PARTITION_W0 n).off) (by omega) (by omega)
    (hplace ▸ h) v
  have hrow : u.jcxWrite d (256 * k + (R.PARTITION_W0 n).off) v = u.partition d k n v := by
    have hctx : (256 * k + (0x1000 + 16 * n) - 0x1000) / 0x100 = k := by omega
    have hentry : (256 * k + (0x1000 + 16 * n) - 0x1000) % 0x100 / 16 = n := by omega
    simp only [State.jcxWrite, hoff, hctx, hentry]
    rw [if_neg (by omega), if_neg (by omega), if_neg (by omega), if_pos (by omega), if_pos (by omega)]
  have hword {m i off : Nat} (hi : i < 16) (hm : m < 2) (ho : off = 0x1000 ∨ off = 0x1008) :
      u.word (partBase d m + (off + 16 * i)) = s.word (partBase d m + (off + 16 * i)) := by
    rw [partBase_add]
    exact hkept.jcx d (by omega) (by omega)
  have hvalid : u.on (partBase d k) (R.PARTITION_W0_VALID n) = s.on (partBase d k) (R.PARTITION_W0_VALID n) :=
    congrArg (bits · 63 1 != 0) (hword hn hk (.inl rfl))
  have hlimit : u.fld (partBase d k) (R.PARTITION_W1_LIMIT n) = s.fld (partBase d k) (R.PARTITION_W1_LIMIT n) :=
    congrArg (bits · 0 36) (hword hn hk (.inr rfl))
  have hclash : u.clashes d k n v = s.clashes d k n v := by
    rw [State.clashes, State.clashes, hlimit]
    exact State.overlaps_of_words _ _ fun i hi => ⟨hword hi (Nat.lt_succ_of_le (Nat.sub_le 1 k)) (.inl rfl),
      hword hi (Nat.lt_succ_of_le (Nat.sub_le 1 k)) (.inr rfl)⟩
  rw [hplace, ← hplace]
  refine ⟨_, (congrArg (s.hostWrite x · v) hplace).trans (hwrite.trans (congrArg _ hrow)), fun hinvalid => ?_, fun hset => ?_,
    (hkept.of_nil _).trans (.partition u d k n v)⟩
  · rw [← hclash]
    exact State.partition_shows hu d hk hn hv (hvalid.trans hinvalid)
  · rw [State.partition_of_valid (hvalid.trans hset) hv]
    exact hkept

/-- Settles O45: each write that is taken counts itself, and then does to the words of JCX what the rule of its register
says. -/
theorem contextRegistersFollowWrites : Obligations.ContextRegistersFollowWrites := by
  unfold Obligations.ContextRegistersFollowWrites
  intro s x d c n v hs
  have hset : bitOn (setBits v.toNat 63 1 1) 63 = true := by
    rw [bitOn, bits_setBits_same]
    rfl
  have hbase : bits (setBits v.toNat 63 1 1) 0 36 = bits v.toNat 0 36 := bits_setBits_apart _ _ _ _ _ _ (.inl (by decide))
  refine ⟨fun h => ?_, fun h => forceShut_causes hs (ctxNo_lt c) h, fun h => jcxStepWrite_shows hs (ctxNo_lt c) h v.toNat⟩
  have hmark : overlapMark (ctxNo c) = if c = .cutIn then R.JCX_CTX_CTL_OVERLAP_CUT else R.JCX_CTX_CTL_OVERLAP_PRI := by
    cases c <;> rfl
  have hshows := partitionWrite_shows hs (ctxNo_lt c) n.isLt hset h
  rw [hmark, State.clashes, hbase] at hshows
  exact hshows

end Sys2Proof.Machine
end

section
/-! What the operations of dies and floor leave of dispatch, brackets and gates, and of the words that hold their registers:
signals, stores, records, items and completions write counters and flags, and a few fields of their own. -/

namespace Sys2Proof.Machine

variable {α : Type} {p : Ledger → α} {K : Nat → Nat → Prop} {s t u : State}

/-! The ledger. -/

/-- A dispatched command without what its sample and its items collect. -/
def Cmd.plain (c : Cmd) : Cmd := { c with stamps := [], link := none }

/-- The dispatched commands, what callers keep of queues, the sync cells, and the brackets and gates. -/
structure Ledger where
  cmds      : List Cmd
  nextId    : Nat
  queues    : Table Queue
  cells     : Table Nat
  waits     : List Wait
  jobs      : Table Job
  groups    : List Group
  nextGroup : Nat
  gates     : Table Gate

def State.ledger (s : State) : Ledger where
  cmds      := s.cmds.map Cmd.plain
  nextId    := s.nextId
  queues    := s.queues
  cells     := s.cells
  waits     := s.waits
  jobs      := s.jobs
  groups    := s.groups
  nextGroup := s.nextGroup
  gates     := s.gates

/-- The bits that no operation below writes: those of the job contexts, of the states of the dies, and of words 1 and 2 of the
queue table but OUTSTANDING. CAL_RESUME is one of the words counted in with them; what halts or resumes callers asks for
more. -/
def settled (a i : Nat) : Prop := accounting a = false ∧ ¬ (a % 64 = 8 ∧ i = 44)
  ∧ (a / 0x10000 % 0x100 = B.JCX ∨ a / 0x10000 % 0x100 = B.D2D ∨ (a / 0x10000 % 0x100 = B.CAL ∧ (a % 64 = 8 ∨ a % 64 = 16)))

/-- From a tidy state the change leads to a tidy one; what `p` shows of the ledger and the bits of `K` are as before. -/
def Leaves (p : Ledger → α) (K : Nat → Nat → Prop) (s t : State) : Prop :=
  s.Tidy → t.Tidy ∧ p t.ledger = p s.ledger ∧ ∀ a i, K a i → (t.word a).testBit i = (s.word a).testBit i

theorem Leaves.refl (s : State) : Leaves p K s s := fun h => ⟨h, rfl, fun _ _ _ => rfl⟩

theorem Leaves.trans (h1 : Leaves p K s t) (h2 : Leaves p K t u) : Leaves p K s u := fun hs => by
  obtain ⟨ht, p1, b1⟩ := h1 hs
  obtain ⟨hu, p2, b2⟩ := h2 ht
  exact ⟨hu, p2.trans p1, fun a i ha => (b2 a i ha).trans (b1 a i ha)⟩

theorem Leaves.ite {c : Prop} [Decidable c] (ht : Leaves p K s t) (hu : Leaves p K s u) : Leaves p K s (if c then t else u) := by
  split <;> assumption

theorem Leaves.each {β : Type} {f : State → β → State} :
    ∀ (l : List β) (s : State), (∀ s, ∀ x ∈ l, Leaves p K s (f s x)) → Leaves p K s (s.each l f)
  | [], s, _ => .refl s
  | x :: l, s, h => (h s x List.mem_cons_self).trans (Leaves.each l (f s x) fun s y hy => h s y (List.mem_cons_of_mem _ hy))

/-- What writes no register. -/
theorem Leaves.of_ledger (ht : s.Tidy → t.Tidy) (hp : p t.ledger = p s.ledger) (hr : t.regs = s.regs) : Leaves p K s t :=
  fun hs => ⟨ht hs, hp, fun a i _ => by rw [State.word, State.word, hr]⟩

/-- What first changes neither the ledger nor a register. -/
theorem Leaves.after (h : Leaves p K u t) (hl : u.ledger = s.ledger) (hr : u.regs = s.regs) (hu : s.Tidy → u.Tidy) :
    Leaves p K s t := (Leaves.of_ledger hu (congrArg p hl) hr).trans h

theorem Leaves.before (h : Leaves p K s t) (hl : u.ledger = t.ledger) (hr : u.regs = t.regs) (hu : t.Tidy → u.Tidy) :
    Leaves p K s u := h.trans (.of_ledger hu (congrArg p hl) hr)

/-- Less of the ledger and fewer bits stay too. -/
theorem Leaves.weaken {β : Type} {q : Ledger → β} {L : Nat → Nat → Prop} (h : Leaves p K s t)
    (hq : ∀ x y, p x = p y → q x = q y) (hL : ∀ a i, L a i → K a i) : Leaves q L s t := fun hs => by
  obtain ⟨ht, hp, hb⟩ := h hs
  exact ⟨ht, hq _ _ hp, fun a i ha => hb a i (hL a i ha)⟩

/-- A field all of whose bits stay. -/
theorem Leaves.fld (h : Leaves p K s t) (hs : s.Tidy) {pg : Nat} {f : Fld}
    (hf : ∀ i, f.lsb ≤ i → i < f.lsb + f.width → K (pg + f.off) i) : t.fld pg f = s.fld pg f := by
  obtain ⟨-, -, hb⟩ := h hs
  refine Nat.eq_of_testBit_eq fun i => ?_
  rw [State.fld, State.fld, testBit_bits, testBit_bits]
  by_cases hi : i < f.width
  · rw [hb _ _ (hf (f.lsb + i) (by omega) (by omega))]
  · simp [hi]

theorem Leaves.on (h : Leaves p K s t) (hs : s.Tidy) {pg : Nat} {f : Fld}
    (hf : ∀ i, f.lsb ≤ i → i < f.lsb + f.width → K (pg + f.off) i) : t.on pg f = s.on pg f := congrArg (· != 0) (h.fld hs hf)

theorem Leaves.setWord (s : State) (a n : Nat) (h : ∀ i, ¬ K a i) : Leaves p K s (s.setWord a n) := fun hs =>
  ⟨State.setWord_tidy a n hs, rfl, fun b i hb => by
    rw [State.word_setWord_other]
    rintro rfl
    exact h i hb⟩

/-- A field that holds no bit of `K` is set. -/
theorem Leaves.put (s : State) (pg : Nat) (f : Fld) (n : Nat) (hw : f.lsb + f.width ≤ 64)
    (h : ∀ i, f.lsb ≤ i → i < f.lsb + f.width → ¬ K (pg + f.off) i) : Leaves p K s (s.put pg f n) := fun hs => by
  refine ⟨State.put_tidy pg f n hs, rfl, fun a i hk => ?_⟩
  by_cases ha : a = pg + f.off
  · subst ha
    rw [State.word_put_same hs.regs _ _ _ hw, testBit_setBits, if_neg fun hi => h i hi.1 hi.2 hk]
  · rw [State.word_put_other _ _ _ _ ha]

section Settled
variable (hK : ∀ a i, K a i → settled a i)
include hK

theorem Leaves.of_onlyWords (ht : s.Tidy → t.Tidy) (h : OnlyWords s t []) : Leaves p K s t := fun hs =>
  ⟨ht hs, congrArg p (h.1.part State.ledger fun _ _ _ _ => rfl),
    fun a i ha => by rw [h.word a (hK a i ha).1 List.not_mem_nil]⟩

/-- A word of a block that holds no settled bit is written. -/
theorem Leaves.setWord_block (s : State) {a : Nat} (n : Nat)
    (h : a / 0x10000 % 0x100 ∉ [B.JCX, B.D2D, B.CAL]) : Leaves p K s (s.setWord a n) := .setWord s a n fun i hk => by
  obtain ⟨-, -, hblock⟩ := hK a i hk
  simp only [List.mem_cons, List.not_mem_nil, or_false, not_or] at h
  obtain ⟨h1, h2, h3⟩ := h
  rcases hblock with hb | hb | hb
  · exact h1 hb
  · exact h2 hb
  · exact h3 hb.1

theorem Leaves.put_block (s : State) (e : Nat) {b : Nat} {f : Fld} (n : Nat) (hb : b ∉ [B.JCX, B.D2D, B.CAL])
    (hlt : b < 0x100) (hf : f.off < 0x10000) : Leaves p K s (s.put (page e b) f n) :=
  .setWord_block hK s _ (by rw [(page_offset e hlt hf).2.1]; exact hb)

theorem Leaves.count (s : State) (k : Nat) {pg : Nat} {f : Fld} (h : Counts pg f) : Leaves p K s (s.count pg f k) :=
  .of_onlyWords hK (State.count_tidy s pg f k) (.count_of_accounting s pg f k [] h.1 h.2)

theorem Leaves.msix (s : State) {n : Nat} (hn : n < 2) (v : Nat) : Leaves p K s (s.msix n v) :=
  .of_onlyWords hK (State.msix_tidy s n v) (sends_msix [] s n v hn)

theorem Leaves.intSet (s : State) (e i b : Nat) : Leaves p K s (s.intSet (page e i) b) :=
  .of_onlyWords hK (State.intSet_tidy s _ b) (.intSet s (page e i) b [] (page_mod e i))

/-- OUTSTANDING of a queue follows its commands and records (R286). -/
theorem Leaves.refreshOutstanding (s : State) (e q : Nat) : Leaves p K s (s.refreshOutstanding e q) := by
  refine .put s _ _ _ (show 44 + 1 ≤ 64 by decide) fun i h1 h2 hk => (hK _ i hk).2.1 ⟨?_, ?_⟩
  · simp only [R.QUEUE_W1_OUTSTANDING, page]
    omega
  · simp only [R.QUEUE_W1_OUTSTANDING] at h1 h2
    omega

/-! Items of CLX (R373, R407). -/

theorem Leaves.transmit (s : State) {e : Nat} (he : e < 32) (l : List TxFrame) : Leaves p K s (s.transmit e l) :=
  (Leaves.count hK { s with sentFrames := _ } _ (counts_opx he)).after rfl rfl fun hs => { hs with }

theorem Leaves.pump (s : State) {e : Nat} (he : e < 32) : Leaves p K s (s.pump e) := by
  unfold State.pump
  extract_lets l r other s1
  have h1 : Leaves p K s s1 :=
    (Leaves.transmit hK (s.setLink e r.1) he r.2).after rfl rfl (State.setLink_tidy e r.1)
  exact .ite (.ite h1 (h1.before rfl rfl (State.setLink_tidy _ _))) (.refl s)

theorem Leaves.sendOn (s : State) {e : Nat} (he : e < 32) (owner : Option Nat) (m : Msg) : Leaves p K s (s.sendOn e owner m) := by
  unfold State.sendOn
  exact (Leaves.pump hK _ he).after rfl rfl fun hs => State.setLink_tidy _ _ { hs with }

theorem Leaves.sendRank (s : State) (rank : Nat) (owner : Option Nat) (m : Msg) : Leaves p K s (s.sendRank rank owner m) := by
  unfold State.sendRank
  split
  next e he =>
    refine Leaves.trans (t := { s with cmds := mapIf (fun c => some c.id == owner) (fun c => { c with link := some e }) s.cmds })
      (.of_ledger (fun hs => hs.mapIf fun _ => rfl) ?_ rfl) (.sendOn hK _ (State.rankLink_lt he) owner m)
    have hplain : (mapIf (fun c => some c.id == owner) (fun c => { c with link := some e }) s.cmds).map Cmd.plain
        = s.cmds.map Cmd.plain := by
      simp only [mapIf, List.map_map]
      refine List.map_congr_left fun x _ => ?_
      simp only [Function.comp]
      split <;> rfl
    simp only [State.ledger, hplain]
  next => exact .of_ledger (fun hs => { hs with }) rfl rfl

theorem Leaves.countItem (s : State) : Leaves p K s s.countItem := .count hK s 1 (by unfold Counts; decide)

theorem Leaves.sendAbort (s : State) (c : Cmd) (reached : Bool) : Leaves p K s (s.sendAbort c reached) := by
  unfold State.sendAbort
  split
  · exact .refl s
  · exact .each _ s fun t _ _ => (Leaves.sendRank hK t _ _ _).trans (.countItem hK _)

omit hK in
theorem Leaves.notePath (s : State) (c : Cmd) (ok : Bool) : Leaves p K s (s.notePath c ok) := by
  refine .of_ledger (State.notePath_tidy s c ok) ?_ ?_ <;> unfold State.notePath <;> split <;> rfl

/-! Memory and completion records (R215, R229–R238, R270, R271, R383). -/

theorem Leaves.countBytes (s : State) (via : Via) (write : Bool) (g n : Nat) : Leaves p K s (s.countBytes via write g n) :=
  .of_onlyWords hK (State.countBytes_tidy s via write g n) (.countBytes s via write g n)

theorem Leaves.countRead (s : State) (via : Via) (a n : Nat) : Leaves p K s (s.countRead via a n) :=
  .of_onlyWords hK (State.countRead_tidy s via a n) (.countRead s via a n)

/-- What follows a granule that lands marks entries of the shard table. -/
theorem Leaves.markWritten (s : State) (a : Nat) : Leaves p K s (s.markWritten a) := by
  refine .each _ s fun t r hr => .setWord_block hK t _ ?_
  obtain ⟨x, hx, rfl⟩ := List.mem_map.1 hr
  obtain ⟨-, hhit⟩ := List.mem_filter.1 hx
  simp only [Bool.and_eq_true, decide_eq_true_eq] at hhit
  obtain ⟨⟨⟨⟨⟨⟨hbase, htop⟩, -⟩, -⟩, -⟩, -⟩, -⟩ := hhit
  have hblock : x.1 / 0x10000 % 0x100 = B.CLX := by
    simp only [page, B.CLX] at *
    omega
  rw [hblock]
  decide

theorem Leaves.land (s : State) (via : Via) (a data mask : Nat) (poison : Bool) : Leaves p K s (s.land via a data mask poison) := by
  unfold State.land
  extract_lets g s1 x s2
  have h1 : Leaves p K s s1 := .countBytes hK s via true g _
  have h2 : Leaves p K s s2 := .ite (h1.trans (.of_ledger (State.setPageSt_tidy _ _) rfl rfl)) h1
  have hstore (t : State) : Leaves p K t ((t.storeGranule g data mask).markWritten a) :=
    (Leaves.of_ledger (State.storeGranule_tidy t g data mask) (by simp only [State.ledger, State.storeGranule])
      (by simp only [State.storeGranule])).trans (.markWritten hK _ a)
  have hpoison (hs : s2.Tidy) : (if poison then setInsert g s2.poison else setErase g s2.poison).Pairwise (· < ·) := by
    split
    · exact pairwise_setInsert g _ hs.poison
    · exact pairwise_setErase g _ hs.poison
  exact .ite (.refl s) (.ite (h2.trans ((hstore { s2 with poison := _ }).after rfl rfl fun hs =>
    hs.memory hs.mem (hpoison hs) hs.lostSet)) (.ite h2 (h2.trans (hstore s2))))

theorem Leaves.reach (s : State) (w : HeldWrite) : Leaves p K s (s.reach w).2 := by
  unfold State.reach
  extract_lets n snp w'
  split
  · exact .refl s
  · split
    · exact .ite (.count hK s _ (by unfold Counts; decide)) (.refl s)
    · split
      · unfold State.claimSlot
        split
        · exact (Leaves.count hK _ _ (by unfold Counts; decide)).after rfl rfl fun hs => { State.setPageSt_tidy _ _ hs with }
        · exact .refl s
      · exact .ite (.count hK s _ (by unfold Counts; decide)) (.refl s)

/-- CPL_HEAD stands in word 4 of a queue's entry. -/
theorem Leaves.recorded (s : State) (x : Nat × Bool) : Leaves p K s (s.recorded x) := by
  unfold State.recorded
  extract_lets e q s1
  have h1 : Leaves p K s s1 := by
    refine (Leaves.put s _ _ _ (show 32 + 32 ≤ 64 by decide) fun i _ _ hk => ?_).trans (.refreshOutstanding hK _ e q)
    obtain ⟨-, -, hblock⟩ := hK _ i hk
    have hoff : (page e B.CAL + (R.QUEUE_W4_CPL_HEAD q).off) / 0x10000 % 0x100 = B.CAL
        ∧ (page e B.CAL + (R.QUEUE_W4_CPL_HEAD q).off) % 64 = 32 := by
      simp only [R.QUEUE_W4_CPL_HEAD, page, B.CAL, q]
      omega
    rw [hoff.1, hoff.2] at hblock
    revert hblock
    decide
  exact .ite (h1.trans (.msix hK s1 (State.fld_lt s1 _ _) _)) h1

theorem Leaves.arrive (s : State) (w : HeldWrite) : Leaves p K s (s.arrive w) := by
  unfold State.arrive
  split
  · exact .of_ledger (fun hs => { hs with }) rfl rfl
  · split
    · have hreach : Leaves p K s _ := .reach hK s w
      generalize s.reach w = r at hreach ⊢
      exact hreach.trans (.of_ledger (fun hs => { hs with }) rfl rfl)
    · have hland : Leaves p K s _ := .land hK s w.via w.addr w.data w.mask w.poison
      split
      · exact hland.trans (.recorded hK _ _)
      · exact hland

theorem Leaves.writeFrom (via : Via) (owner : Option Nat) :
    ∀ (fuel : Nat) (s : State) (a : Nat) (l : List Byte), Leaves p K s (s.writeFrom via owner a l fuel)
  | 0, s, _, _ => .refl s
  | fuel + 1, s, a, l => by
    unfold State.writeFrom
    exact .ite (.refl s) ((Leaves.arrive hK s _).trans (Leaves.writeFrom via owner fuel _ _ _))

theorem Leaves.writeWords (s : State) (a : Nat) (w : List Nat) : Leaves p K s (s.writeWords a w) := .writeFrom hK _ _ _ s _ _

theorem Leaves.cplRecord (s : State) (e q : Nat) (data : List Byte) (irq : Bool) : Leaves p K s (s.cplRecord e q data irq) := by
  unfold State.cplRecord
  extract_lets k head a space
  have hspace : space < 4 := State.fld_lt s (page e B.CAL) (R.QUEUE_W3_CPL_SPACE q)
  have htell (m : HostMsg) (n : Nat) : Leaves p K s ((s.tell m).count (hifPage (space - 1)) C.HIF_TX_BYTES n) :=
    (Leaves.count hK (s.tell m) n (counts_hif hspace)).after rfl rfl (State.tell_tidy m)
  exact .ite (.arrive hK s _) (.ite ((htell _ _).trans (.recorded hK _ _)) (.of_ledger (fun hs => { hs with }) rfl rfl))

/-! Records of samples and numeric events (R193, R602–R605). -/

omit hK in
theorem Leaves.setSampler (s : State) (e : Nat) (x : Sampler) : Leaves p K s (s.setSampler e x) :=
  .of_ledger (State.setSampler_tidy e x) rfl rfl

omit hK in
/-- What changes the stamps of a command. -/
theorem Leaves.mapStamps (s : State) (id : Nat) {f : Cmd → Cmd} (hf : ∀ c, (f c).plain = c.plain) : Leaves p K s (s.mapCmd id f) := by
  refine .of_ledger (State.mapCmd_tidy s id f) ?_ rfl
  have hplain : (mapIf (fun c => c.id == id) (fun c => { f c with id := c.id }) s.cmds).map Cmd.plain = s.cmds.map Cmd.plain := by
    simp only [mapIf, List.map_map]
    refine List.map_congr_left fun x _ => ?_
    have hx := hf x
    simp only [Cmd.plain, Cmd.mk.injEq] at hx
    simp only [Function.comp]
    split
    · simp only [Cmd.plain, hx]
    · rfl
  simp only [State.ledger, State.mapCmd, hplain]

theorem Leaves.stampCmd (s : State) (c : Cmd) (word island : Nat) : Leaves p K s (s.stampCmd c word island) := by
  unfold State.stampCmd
  extract_lets t
  have ht : Leaves p K s t.2 := .of_ledger (State.stampWord_tidy s island) rfl rfl
  exact .ite ((ht.trans (.count hK _ _ (by unfold Counts; decide))).trans (.mapStamps _ _ fun _ => rfl)) (.refl s)

theorem Leaves.resolveTag (s : State) {e : Nat} (he : e < 4) : Leaves p K s (s.resolveTag e) := by
  have hcount (t : State) {f : Fld} (hf) : Leaves p K t (t.count (page e B.PMU) f 1) := .count hK t 1 (counts_pmu (d := ⟨e, he⟩) (f := f) hf)
  unfold State.resolveTag
  extract_lets x pg r y
  split
  · exact .refl s
  · extract_lets s1
    have h1 : Leaves p K s s1 := (Leaves.setSampler s e _).trans (hcount _ (by simp))
    refine .ite ((Leaves.setSampler s e _).trans (hcount _ (by simp))) ?_
    split
    · exact h1.trans (.stampCmd hK s1 _ _ _)
    · exact h1

theorem Leaves.pmuRecord (s : State) {e : Nat} (he : e < 4) (w : List Nat) : Leaves p K s (s.pmuRecord e w) := by
  have hcount (t : State) {f : Fld} (hf) : Leaves p K t (t.count (page e B.PMU) f 1) := .count hK t 1 (counts_pmu (d := ⟨e, he⟩) (f := f) hf)
  have h4 : e ≠ 4 := by omega
  unfold State.pmuRecord
  rw [if_neg h4, if_neg h4]
  extract_lets pg head size dropped written s1
  have h1 : Leaves p K s s1 := .writeWords hK s _ _
  exact .ite (hcount s (by simp [dropped]))
    (((h1.trans (.put_block hK s1 e _ (by decide) (by decide) (by decide))).trans (.intSet hK _ e B.PMU 0)).trans
      (hcount _ (by simp [written])))

theorem Leaves.sampleRecord (s : State) {c : Cmd} (hc : c.die < 4) (caller status err : Nat) :
    Leaves p K s (s.sampleRecord c caller status err) := by
  unfold State.sampleRecord
  extract_lets s1 t own all value x s2
  have h1 : Leaves p K s s1 := .ite (.resolveTag hK s hc) (.refl s)
  have hx : Leaves p K s1 t.2 := .of_ledger (State.stampWord_tidy s1 _) rfl rfl
  have h2 : Leaves p K s1 s2 := hx.trans (.setSampler _ _ _)
  exact .ite ((h1.trans h2).trans (.pmuRecord hK s2 hc _)) h1

omit hK in
theorem counts_num {e : Nat} (he : e < 4) {f : Fld} (hf : f ∈ [C.NUM_EVT_LOST, C.NUM_EVT_RECORDS, C.NUM_NONFINITE_SETS,
    C.NUM_BRACKETS_COMMITTED, C.NUM_BRACKETS_FAILED, C.NUM_REPLAYS, C.NUM_STEPS_COMMITTED, C.NUM_STEPS_SHUT,
    C.NUM_COMMIT_ADD_ELEMENTS]) : Counts (page e B.NUM) f := by
  unfold Counts
  revert e f
  decide

theorem Leaves.numRecord (s : State) {e : Nat} (he : e < 4) (w : List Nat) : Leaves p K s (s.numRecord e w) := by
  unfold State.numRecord
  extract_lets pg head size s1
  have h1 : Leaves p K s s1 := .writeWords hK s _ _
  exact .ite (.refl s) (.ite (.count hK s _ (counts_num he (by simp)))
    (((h1.trans (.put_block hK s1 e _ (by decide) (by decide) (by decide))).trans (.intSet hK _ e B.NUM 0)).trans
      (.count hK _ _ (counts_num he (by simp)))))

theorem Leaves.numEvent (s : State) {e : Nat} (he : e < 4) (ctx kind tensor mb layer bwd err gate : Nat) :
    Leaves p K s (s.numEvent e ctx kind tensor mb layer bwd err gate) :=
  (Leaves.of_ledger (fun hs => State.stamp_tidy hs) rfl rfl).trans (.numRecord hK _ he _)

end Settled

end Sys2Proof.Machine
end

section
/-! GATE_WORD_FORM: the summary of the step starts with the word, and keeps it (R198, R199, R393). -/

namespace Sys2Proof.Machine

variable {K : Nat → Nat → Prop} {s : State}

theorem State.gate_setGate_same (hs : s.Tidy) (k : Nat) (g : Gate) : (s.setGate k g).gate k = g :=
  Table.get_set_same _ _ _ _ hs.gates

/-- The package gate word of the primary context, and the dies that have evaluated it. -/
def Ledger.gateWord (l : Ledger) : Option Nat × List Nat :=
  let g := Table.get (fun _ => {}) l.gates 0
  (g.word, g.done)

theorem State.gateWord_ledger (s : State) : s.ledger.gateWord = ((s.gate 0).word, (s.gate 0).done) := rfl

/-- The job gate word is another field of the gate. -/
theorem Leaves.jobWordMaybe (s : State) : Leaves Ledger.gateWord K s s.jobWordMaybe := by
  unfold State.jobWordMaybe
  extract_lets l w x s1
  refine .ite (.trans (t := s1) (.of_ledger (fun hs => { hs with }) rfl rfl) fun h1 => ?_) (.refl s)
  refine ⟨State.setGate_tidy _ _ h1, ?_, fun _ _ _ => rfl⟩
  rw [State.gateWord_ledger, State.gate_setGate_same h1, State.gateWord_ledger]

section Settled
variable (hK : ∀ a i, K a i → settled a i)
include hK

theorem Leaves.sendSummary {α : Type} {p : Ledger → α} (s : State) (g : Nat) (i : SummaryItem) :
    Leaves p K s (s.sendSummary g i) := by
  unfold State.sendSummary
  split
  · exact (Leaves.sendRank hK s _ _ _).trans (.countItem hK _)
  · exact .refl s

theorem Leaves.stageDone (s : State) (w : StageWord) (sums : List (Nat × Stat)) :
    Leaves Ledger.gateWord K s (s.stageDone w sums) := by
  unfold State.stageDone
  extract_lets p good est s1 x s2 s3 s4 s5
  have h1 : Leaves Ledger.gateWord K s s1 :=
    (Leaves.count hK s _ (by unfold Counts; decide)).trans (.count hK _ _ (by unfold Counts; decide))
  have h3 : Leaves Ledger.gateWord K s1 s3 := .of_ledger (fun hs => State.setStageWord_tidy _ _ _ { hs with }) rfl rfl
  have h5 : Leaves Ledger.gateWord K s3 s5 := (Leaves.sendSummary hK s3 _ _).trans (.sendSummary hK s4 _ _)
  exact ((h1.trans h3).trans h5).trans (.jobWordMaybe s5)

theorem Leaves.addOwn (s : State) (w : StageWord) (sums : List (Nat × Stat)) : Leaves Ledger.gateWord K s (s.addOwn w sums) := by
  unfold State.addOwn
  exact .ite (.sendSummary hK s _ _) ((Leaves.sendSummary hK s _ _).trans (.stageDone hK _ _ _))

theorem Leaves.summaryStart (s : State) (word : Nat) : Leaves Ledger.gateWord K s (s.summaryStart word) := by
  unfold State.summaryStart
  extract_lets own x s1
  have h1 : Leaves Ledger.gateWord K s s1 := .of_ledger (fun hs => { hs with meas := Table.wf_nil _ }) rfl rfl
  exact .ite (h1.trans (.addOwn hK s1 _ _)) h1

end Settled

/-- The gate of a context whose present dies all wait, with its word. -/
theorem State.gateWordForm_of_waiting {ctx : Nat} (hnone : (s.gate ctx).word = none) (hdies : s.presentDies ≠ [])
    (hwait : ∀ d ∈ s.presentDies, s.gateCmds d ctx ≠ []) :
    let word := s.presentDies.foldl (fun w d => w ||| s.causes d ctx) 0
    s.gateWordForm ctx = if ctx = 0 then (s.setGate 0 { s.gate 0 with word := some word }).summaryStart word
      else s.setGate ctx { s.gate ctx with word := some word, job := some word } := by
  intro word
  unfold State.gateWordForm
  rw [if_pos]
  simpa [hnone, hdies] using hwait

/-- A gate word keeps flag and causes of the dies that have yet to evaluate it. -/
theorem State.sampled_of_gate {t : State} {ctx d word : Nat} (hword : (t.gate ctx).word = some word)
    (hdone : (t.gate ctx).done.contains d = false) : t.sampled d ctx = true := by
  rw [State.sampled, hword, hdone]
  rfl

/-- Settles O26: the word forms, and starts the summary in the primary context and is the job gate word in the other. -/
theorem gateWordIsTheOr : Obligations.GateWordIsTheOr := by
  unfold Obligations.GateWordIsTheOr
  intro s c hs hnone hdies hwait word
  refine ⟨_, rfl, ?_⟩
  rw [State.gateWordForm_of_waiting hnone hdies hwait]
  cases c with
  | primary =>
    obtain ⟨-, hkeeps, -⟩ := Leaves.summaryStart (K := fun _ _ => False) (fun _ _ h => h.elim)
      (s.setGate 0 { s.gate 0 with word := some word }) word (State.setGate_tidy _ _ hs)
    rw [State.gateWord_ledger, State.gateWord_ledger, State.gate_setGate_same hs] at hkeeps
    obtain ⟨hword, hdone⟩ := Prod.mk.inj hkeeps
    exact ⟨hword, nofun, fun d _ hd => State.sampled_of_gate hword (hdone ▸ hd)⟩
  | cutIn =>
    have hgate := State.gate_setGate_same hs 1 { s.gate 1 with word := some word, job := some word }
    exact ⟨congrArg Gate.word hgate, fun _ => congrArg Gate.job hgate,
      fun d _ hd => State.sampled_of_gate (congrArg Gate.word hgate) ((congrArg Gate.done hgate) ▸ hd)⟩

end Sys2Proof.Machine
end

section
/-! What errors, halts, signals and completions leave of brackets and gates (R187, R255–R275, R513). -/

namespace Sys2Proof.Machine

variable {α : Type} {p : Ledger → α} {K : Nat → Nat → Prop} {s t u : State}

/-- What a bracket keeps when a command of its attempt fails, signals or halts its caller. -/
def Bracket.core (b : Bracket) : Bracket := { b with held := [], failing := false, errors := [], halted := false }

/-- The view does not show what `Bracket.core` leaves out. -/
def JobsBlind (p : Ledger → α) : Prop :=
  ∀ (s : State) (d k : Nat) (f : Bracket → Bracket), s.Tidy → (∀ b, (f b).core = b.core) → p (s.mapBracket d k f).ledger = p s.ledger

/-- The view does not show the cells, their waits, or what callers keep of queues. -/
def SignalBlind (p : Ledger → α) : Prop :=
  ∀ (l : Ledger) (cells : Table Nat) (waits : List Wait) (queues : Table Queue),
    p { l with cells := cells, waits := waits, queues := queues } = p l

/-- No bit of CAL_RESUME is among them. -/
def OffResume (K : Nat → Nat → Prop) : Prop := ∀ e i, ¬ K (page e B.CAL + R.CAL_RESUME.off) i

theorem Leaves.mapBracket (hp : JobsBlind p) (s : State) (d k : Nat) {f : Bracket → Bracket} (hf : ∀ b, (f b).core = b.core) :
    Leaves p K s (s.mapBracket d k f) := fun hs => ⟨State.mapBracket_tidy s d k f hs, hp s d k f hs hf, fun _ _ _ => rfl⟩

theorem Leaves.putResume (hr : OffResume K) (s : State) (e : Nat) {f : Fld} (n : Nat)
    (hf : f.off = R.CAL_RESUME.off ∧ f.lsb + f.width ≤ 64) : Leaves p K s (s.put (page e B.CAL) f n) :=
  .put s _ _ _ hf.2 fun i _ _ => by
    rw [hf.1]
    exact hr e i

theorem Leaves.resumeMaybe (hr : OffResume K) (s : State) (e : Nat) : Leaves p K s (s.resumeMaybe e) :=
  .each _ s fun t _ _ => .ite ((Leaves.putResume hr t e (f := R.CAL_RESUME_RESUME) _ ⟨rfl, by decide⟩).trans
    (.putResume hr _ e (f := R.CAL_RESUME_HALTED) _ ⟨rfl, by decide⟩)) (.refl t)

section Settled
variable (hK : ∀ a i, K a i → settled a i)
include hK

/-- What follows HALTED: the choice of the caller goes, and its brackets short of their close are held. -/
theorem Leaves.haltShown (hp : JobsBlind p) (s : State) (e k : Nat) :
    Leaves p K (s.put (page e B.CAL) R.CAL_RESUME_HALTED (s.fld (page e B.CAL) R.CAL_RESUME_HALTED ||| 2 ^ k)) (s.halt e k) := by
  unfold State.halt
  extract_lets pg was s1 s2
  have h2 : Leaves p K s1 s2 := (Leaves.ite (.refl s1) (.intSet hK s1 e B.CAL 0)).before rfl rfl (State.choose_tidy _ _ _ _)
  refine h2.trans (.each _ s2 fun t ctx _ => .mapBracket hp t e ctx fun b => ?_)
  split <;> rfl

theorem Leaves.halt (hr : OffResume K) (hp : JobsBlind p) (s : State) (e k : Nat) : Leaves p K s (s.halt e k) :=
  (Leaves.putResume hr s e (f := R.CAL_RESUME_HALTED) _ ⟨rfl, by decide⟩).trans (.haltShown hK hp s e k)

theorem Leaves.cmdError (hr : OffResume K) (hp : JobsBlind p) (s : State) (c : Cmd) (err detail : Nat) :
    Leaves p K s (s.cmdError c err detail) := by
  unfold State.cmdError
  split
  · exact .ite (.refl s) (.halt hK hr hp s _ _)
  · refine .mapBracket hp s _ _ fun b => ?_
    split <;> rfl

/-! Signals (R255, R262, R268). -/

omit hK in
theorem counts_cells (e : Nat) {f : Fld} (hf : f ∈ [C.SYN_WATCH_FIRES, C.SYN_WAITS_SATISFIED, C.SYN_CONSUMES,
    C.SYN_UPDATES_LOCAL, C.SYN_UPDATES_DIE, C.SYN_UPDATES_REMOTE]) : Counts (page e B.SYN) f := by
  have hoff : ∀ f ∈ [C.SYN_WATCH_FIRES, C.SYN_WAITS_SATISFIED, C.SYN_CONSUMES, C.SYN_UPDATES_LOCAL, C.SYN_UPDATES_DIE,
      C.SYN_UPDATES_REMOTE], 0x8000 ≤ f.off ∧ f.off < 0x8040 := by decide
  obtain ⟨hlow, hhigh⟩ := hoff f hf
  obtain ⟨hdie, hblock, hrest⟩ := page_offset e (i := B.SYN) (by decide) (show f.off < 0x10000 by omega)
  refine ⟨accounting_high _ (by omega), ?_⟩
  have hbase : counterBase e B.SYN ≤ 1006 := by
    unfold counterBase
    split <;> decide
  have hpos : counterPos e B.SYN f.off = (f.off - 0x8000) / 8 := if_neg fun h => absurd h.2.1 (by decide)
  unfold counterIndex
  simp only [hdie, hblock, hrest, hpos]
  omega

theorem Leaves.countOrigin (s : State) (e : Nat) (o : Origin) :
    Leaves p K s (s.count (page e B.SYN) (originCounter e o) 1) :=
  .count hK s _ (counts_cells e (List.mem_append_right [C.SYN_WATCH_FIRES, C.SYN_WAITS_SATISFIED, C.SYN_CONSUMES]
    (originCounter_mem e o)))

theorem Leaves.testWatches (s : State) (n : Nat) : Leaves p K s (s.testWatches n) := by
  refine .each _ s fun t k hk => .ite ?_ (.refl t)
  have hoff : (R.WATCH_TABLE_FIRED k).off < 0x10000 := by
    have := List.mem_range.1 hk
    simp only [R.WATCH_TABLE_FIRED]
    omega
  exact ((Leaves.put_block hK t (n / 16384) 1 (by decide) (by decide) hoff).trans
    (.count hK _ _ (counts_cells _ (by simp)))).trans (.msix hK _ (State.fld_lt t _ _) _)

theorem Leaves.testWait (hb : SignalBlind p) (s : State) (w : Wait) : Leaves p K s (s.testWait w) := by
  unfold State.testWait
  extract_lets pg s1 q s2 s3
  have h1 : Leaves p K s (s1.setQueue w.queue { q with wait := .satisfied }) := .of_ledger (fun hs => State.setQueue_tidy _ _ { hs with })
    (hb s.ledger s.cells _ _) rfl
  have h2 : Leaves p K s s2 := h1.trans (.count hK _ _ (counts_cells (w.cell / 16384) (by simp)))
  have h3 (x : State) (v : Nat) : Leaves p K x ((x.setCell w.cell v).count pg C.SYN_CONSUMES 1) :=
    (Leaves.of_ledger (State.setCell_tidy w.cell v) (hb x.ledger _ x.waits x.queues) rfl).trans
      (.count hK _ _ (counts_cells (w.cell / 16384) (by simp)))
  refine .ite (h2.trans (.ite ?_ (.refl s2))) (.refl s)
  exact ((h3 s2 _).trans (.countOrigin hK s3 _ _)).trans (.testWatches hK _ _)

theorem Leaves.updateCell (hb : SignalBlind p) (s : State) (n v : Nat) : Leaves p K s (s.updateCell n v) :=
  ((Leaves.of_ledger (State.setCell_tidy n v) (hb s.ledger _ s.waits s.queues) rfl).trans (.testWatches hK _ n)).trans
    (.each _ _ fun t w _ => .testWait hK hb t w)

theorem Leaves.signal (hb : SignalBlind p) (s : State) (g : Signal) (o : Origin) : Leaves p K s (s.signal g o) :=
  (Leaves.updateCell hK hb s _ _).trans (.countOrigin hK _ _ o)

theorem Leaves.signalLive (hb : SignalBlind p) (s : State) (g : Signal) (o : Origin) : Leaves p K s (s.signalLive g o) :=
  .ite (.signal hK hb s g o) (.refl s)

end Settled

/-! Properties that errors, halts and completions leave. -/

/-- The state is tidy, and the view of its ledger and the bits have these values. -/
def State.Shows (p : Ledger → α) (K : Nat → Nat → Prop) (v : α) (w : Nat → Nat → Bool) (s : State) : Prop :=
  s.Tidy ∧ p s.ledger = v ∧ ∀ a i, K a i → (s.word a).testBit i = w a i

theorem State.Shows.refl (hs : s.Tidy) : s.Shows p K (p s.ledger) (fun a i => (s.word a).testBit i) := ⟨hs, rfl, fun _ _ _ => rfl⟩

theorem Leaves.shows {v : α} {w : Nat → Nat → Bool} (h : Leaves p K s t) (hs : s.Shows p K v w) : t.Shows p K v w := by
  obtain ⟨hs, hv, hw⟩ := hs
  obtain ⟨ht, hp, hk⟩ := h hs
  exact ⟨ht, hp.trans hv, fun a i ha => (hk a i ha).trans (hw a i ha)⟩

theorem Leaves.of_shows (h : ∀ v w, s.Shows p K v w → t.Shows p K v w) : Leaves p K s t := fun hs => h _ _ (.refl hs)

/-- A property of tidy states that speaks of the ledger and of settled bits only, and that outlasts what errors, halts and
resumption do to brackets and to CAL_RESUME. -/
structure Stable (P : State → Prop) : Prop where
  tidy    : ∀ s, P s → s.Tidy
  leaves  : ∀ s t, Leaves id settled s t → P s → P t
  halt    : ∀ s e k, P s → P (s.halt e k)
  resume  : ∀ s e, P s → P (s.resumeMaybe e)
  bracket : ∀ s d k f, (∀ b : Bracket, (f b).core = b.core) → P s → P (s.mapBracket d k f)

/-- A property that outlasts signals. -/
def Signalled (P : State → Prop) : Prop := ∀ s g o, P s → P (State.signal s g o)

theorem Stable.shows (hK : ∀ a i, K a i → settled a i) (hr : OffResume K) (hp : JobsBlind p) (v : α) (w : Nat → Nat → Bool) :
    Stable (State.Shows p K v w) where
  tidy _ h := h.1
  leaves _ _ h := (h.weaken (fun _ _ => congrArg p) hK).shows
  halt s e k := (Leaves.halt hK hr hp s e k).shows
  resume s e := (Leaves.resumeMaybe hr s e).shows
  bracket s d k _ hf := (Leaves.mapBracket hp s d k hf).shows

theorem signalled_shows (hK : ∀ a i, K a i → settled a i) (hb : SignalBlind p) (v : α) (w : Nat → Nat → Bool) :
    Signalled (State.Shows p K v w) := fun s g o => (Leaves.signal hK hb s g o).shows

variable {P Q R : State → Prop} {c : Cmd}

theorem Stable.and (hP : Stable P) (hQ : Stable Q) : Stable fun s => P s ∧ Q s where
  tidy s h := hP.tidy s h.1
  leaves s t h := And.imp (hP.leaves s t h) (hQ.leaves s t h)
  halt s e k := And.imp (hP.halt s e k) (hQ.halt s e k)
  resume s e := And.imp (hP.resume s e) (hQ.resume s e)
  bracket s d k f hf := And.imp (hP.bracket s d k f hf) (hQ.bracket s d k f hf)

theorem Signalled.and (hP : Signalled P) (hQ : Signalled Q) : Signalled fun s => P s ∧ Q s :=
  fun s g o => And.imp (hP s g o) (hQ s g o)

section Stays
variable (hP : Stable P)
include hP

theorem Stable.cmdError (s : State) (c : Cmd) (err detail : Nat) (h : P s) : P (s.cmdError c err detail) := by
  unfold State.cmdError
  split
  · split
    · exact h
    · exact hP.halt _ _ _ h
  · refine hP.bracket _ _ _ _ (fun b => ?_) h
    split <;> rfl

theorem Stable.cmdSignal (hsig : Signalled P) (s : State) (c : Cmd) (h : P s) : P (s.cmdSignal c).1 := by
  unfold State.cmdSignal
  extract_lets g src e direct
  have hdirect (t : State) (ht : P t) : P (direct t).1 := by
    simp only [direct]
    split
    · exact hsig _ _ _ ht
    · exact ht
  split
  · exact hdirect s h
  · split
    · exact h
    · split
      · exact hdirect s h
      · split
        · exact h
        · exact hP.bracket _ _ _ _ (fun _ => rfl) h

omit hP in
theorem counts_completed {e : Nat} (he : e < 4) {i : Nat} {f : Fld} (h : (i, f) ∈ [(B.CAL, C.CAL_CMDS_FAILED),
    (B.CAL, C.CAL_CMDS_SKIPPED), (B.NUM, C.NUM_OPT_SKIPPED), (B.ARY, C.ARY_OPS_FAILED), (B.VEC, C.VEC_OPS_FAILED)]) :
    Counts (page e i) f := counts_completion ⟨e, he⟩ h

/-- A command completes: `P` holds before its error or its signal, `R` until it goes, and `Q` after. -/
theorem Stable.complete_by (hR : Stable R) (hQ : Stable Q) (hc : c.die < 4) {status : Nat}
    (hsig : status = Status.OK → hSigEn c.words = true → Signalled P) (hok : status ≠ Status.ERROR → ∀ s, P s → R s)
    (herr : ∀ s err detail, P s → R (s.cmdError c err detail))
    (hgone : ∀ s, R s → Q { s with cmds := s.cmds.filter fun x => x.id != c.id }) (s : State) (err detail : Nat)
    (hs : P s) : Q (s.complete c status err detail) := by
  have hid : ∀ a i, settled a i → settled a i := fun _ _ h => h
  unfold State.complete
  extract_lets e q r o s1 cal skipped s2 s3 s4 s5 s6 gone isError stamped s7
  have h1 : P s1 := by
    simp only [s1, r]
    split
    next hcond => exact hP.cmdSignal (hsig hcond.1 hcond.2) s c hs
    next => exact hs
  have ho : status = Status.ERROR → o.1 = Status.ERROR := by
    rintro rfl
    rfl
  clear_value o
  have hcount {i : Nat} {f : Fld} (t : State) (h : P t) (hf : (i, f) ∈ [(B.CAL, C.CAL_CMDS_FAILED), (B.CAL, C.CAL_CMDS_SKIPPED),
      (B.NUM, C.NUM_OPT_SKIPPED), (B.ARY, C.ARY_OPS_FAILED), (B.VEC, C.VEC_OPS_FAILED)]) : P (t.count (page e i) f 1) :=
    hP.leaves _ _ (.count hid t 1 (counts_completed hc hf)) h
  have hne {n : Nat} (hn : o.1 = n) (h : n ≠ Status.ERROR) : status ≠ Status.ERROR := fun hs => h (hn.symm.trans (ho hs))
  have h2 : R s2 := by
    simp only [s2, skipped]
    split
    next h => exact hok (hne h (by decide)) _ h1
    next => exact herr _ _ _ (hcount s1 h1 (by simp))
    next n _ h1' =>
      refine hok (hne rfl h1') _ ?_
      split
      · exact hcount _ (hcount s1 h1 (by simp)) (by simp)
      · exact hcount s1 h1 (by simp)
  have h3 : R s3 := hR.leaves s2 s3 (.ite (.ite (.count hid s2 1 (counts_completed hc (by simp)))
    (.ite (.count hid s2 1 (counts_completed hc (by simp))) (.refl s2))) (.refl s2)) h2
  have h6 : R s6 := hR.leaves s3 s6 ((Leaves.ite (.sendAbort hid s3 c _) (.refl s3)).trans
    ((Leaves.notePath s4 c _).trans (.sampleRecord hid s5 hc _ _ _))) h3
  have h7 : Leaves id settled gone s7 :=
    .ite ((Leaves.cplRecord hid stamped.2 e q _ _).after rfl rfl fun hs => State.stamp_tidy hs)
      (.ite (.msix hid gone (State.fld_lt gone _ _) _) (.refl gone))
  exact hQ.resume _ _ (hQ.leaves gone _ (h7.trans (.refreshOutstanding hid s7 e q)) (hgone s6 h6))

/-- A command completes: what comes before the command goes, and what comes after. -/
theorem Stable.complete (hQ : Stable Q) (hc : c.die < 4) (hsig : hSigEn c.words = true → Signalled P)
    (hgone : ∀ s, P s → Q { s with cmds := s.cmds.filter fun x => x.id != c.id }) (s : State) (status err detail : Nat)
    (hs : P s) : Q (s.complete c status err detail) :=
  hP.complete_by hP hQ hc (fun _ => hsig) (fun _ _ => id) (fun s err detail => hP.cmdError s c err detail) hgone s err detail hs

end Stays

end Sys2Proof.Machine
end

section
/-! The members of a bracket, and what each step towards its outcome leaves of the others (R187–R190). -/

namespace Sys2Proof.Machine

variable {α : Type} {p : Ledger → α} {K : Nat → Nat → Prop} {s t : State} {g : Group} {P Q : State → Prop}

/-! Members. -/

theorem openDies_lt {w : List Nat} {d : Nat} (h : d ∈ openDies w) : d < 4 := by
  have hmem := (List.mem_filter.1 h).1
  simp only [List.mem_cons, List.not_mem_nil, or_false] at hmem
  omega

theorem State.memberOf_eq_some {d : Nat} {b : Bracket} (h : s.memberOf g d = some b) :
    (s.job d g.ctx).bracket = some b ∧ b.id = g.id := by
  obtain ⟨hb, hid⟩ := Option.filter_eq_some_iff.1 h
  exact ⟨hb, beq_iff_eq.1 hid⟩

theorem State.mem_members {x : Nat × Bracket} (h : x ∈ s.members g) :
    x.1 ∈ openDies g.words ∧ g.gone.contains x.1 = false ∧ s.memberOf g x.1 = some x.2 ∧ s.present x.1 = true := by
  obtain ⟨hopen, hpresent⟩ := List.mem_filter.1 h
  obtain ⟨d, hd, hx⟩ := List.mem_filterMap.1 hopen
  obtain ⟨b, hb, rfl⟩ := Option.map_eq_some_iff.1 hx
  obtain ⟨hdie, hgone⟩ := List.mem_filter.1 hd
  exact ⟨hdie, by simpa using hgone, hb, hpresent⟩

theorem State.members_lt {x : Nat × Bracket} (h : x ∈ s.members g) : x.1 < 4 := openDies_lt (State.mem_members h).1

theorem State.members_bracket {x : Nat × Bracket} (h : x ∈ s.members g) : (s.job x.1 g.ctx).bracket = some x.2 :=
  (State.memberOf_eq_some (State.mem_members h).2.2.1).1

/-- A die is a member once. -/
theorem State.members_nodup (s : State) (g : Group) : ((s.members g).map Prod.fst).Nodup := by
  have hdies : ((openDies g.words).filter fun d => !g.gone.contains d).Nodup :=
    ((show [0, 1, 2, 3].Nodup by decide).filter _).filter _
  have hopen : (s.openMembers g).Nodup := hdies.filterMap fun d e x hd he => by
    obtain ⟨b, -, rfl⟩ := Option.map_eq_some_iff.1 (Option.mem_def.1 hd)
    obtain ⟨c, -, hc⟩ := Option.map_eq_some_iff.1 (Option.mem_def.1 he)
    exact (Prod.mk.inj hc).1.symm
  refine List.Nodup.map_on (fun x hx y hy hxy => ?_) (hopen.filter _)
  obtain ⟨-, -, hxb, -⟩ := State.mem_members hx
  obtain ⟨-, -, hyb, -⟩ := State.mem_members hy
  exact Prod.ext hxy (Option.some.inj (hxb.symm.trans (hxy ▸ hyb)))

/-- Each member in turn goes from `P` to `Q`, and leaves where the others stand. -/
theorem State.each_turns {β : Type} (die : β → Nat) (f : State → β → State) (P Q : β → State → Prop) :
    ∀ (l : List β) (s : State), (l.map die).Nodup →
      (∀ x ∈ l, ∀ y ∈ l, die x ≠ die y → ∀ s, P x s → P x (f s y)) → (∀ x ∈ l, ∀ y ∈ l, die x ≠ die y → ∀ s, Q x s → Q x (f s y)) →
      (∀ x ∈ l, ∀ s, P x s → Q x (f s x)) → (∀ x ∈ l, P x s) → ∀ x ∈ l, Q x (s.each l f)
  | [], _, _, _, _, _, _ => nofun
  | y :: l, s, hnodup, hP, hQ, hturn, hs => by
    obtain ⟨hy, hl⟩ := List.nodup_cons.1 hnodup
    have hne : ∀ x ∈ l, die x ≠ die y := fun x hx h => hy (h ▸ List.mem_map_of_mem hx)
    have hrest : ∀ x ∈ l, Q x ((f s y).each l f) :=
      State.each_turns die f P Q l (f s y) hl (fun x hx z hz => hP x (.tail _ hx) z (.tail _ hz))
        (fun x hx z hz => hQ x (.tail _ hx) z (.tail _ hz)) (fun x hx => hturn x (.tail _ hx))
        fun x hx => hP x (.tail _ hx) y (.head _) (hne x hx) s (hs x (.tail _ hx))
    have hfirst : Q y ((f s y).each l f) :=
      List.foldlRecOn l f (motive := Q y) (hturn y (.head _) s (hs y (.head _)))
        fun t ht x hx => hQ y (.head _) x (.tail _ hx) (fun h => hne x hx h.symm) t ht
    intro x hx
    rcases List.mem_cons.1 hx with rfl | hx
    · exact hfirst
    · exact hrest x hx

/-! Views of the ledger. -/

/-- What does not speak of commands that have gone. -/
def CmdBlind (P : State → Prop) : Prop := ∀ s (l : List Cmd), l.Sublist s.cmds → P s → P { s with cmds := l }

theorem cmdBlind_shows (hc : ∀ l cs, p { l with cmds := cs } = p l) (v : α) (w : Nat → Nat → Bool) :
    CmdBlind (State.Shows p K v w) := fun s l hl ⟨hs, hp, hw⟩ => by
  refine ⟨hs.fewer hl (Nat.le_refl _), ?_, hw⟩
  rw [← hp]
  exact hc s.ledger (l.map Cmd.plain)

/-- Whether a job context on a die has a bracket open. -/
def Ledger.open (key : Nat) (l : Ledger) : Bool := (Table.get (fun _ => ({} : Job)) l.jobs key).bracket.isSome

theorem State.open_ledger (s : State) (d k : Nat) : s.ledger.open (jobKey d k) = (s.job d k).bracket.isSome := rfl

theorem State.open_mapBracket (hs : s.Tidy) (d k : Nat) (f : Bracket → Bracket) (key : Nat) :
    (s.mapBracket d k f).ledger.open key = s.ledger.open key := by
  unfold Ledger.open State.mapBracket State.setJob State.ledger
  by_cases h : key = jobKey d k
  · subst h
    rw [Table.get_set_same _ _ _ _ hs.jobs, Option.isSome_map]
    rfl
  · rw [Table.get_set_other _ _ _ _ h]

theorem jobsBlind_open (key : Nat) : JobsBlind (Ledger.open key) := fun _ d k f hs _ => State.open_mapBracket hs d k f key

/-- The view does not show the bracket of a job context on a die. -/
def JobBlind (p : Ledger → α) (d k : Nat) : Prop := ∀ (s : State) (j : Job), s.Tidy → p (s.setJob d k j).ledger = p s.ledger

theorem jobBlind_open {key d k : Nat} (h : key ≠ jobKey d k) : JobBlind (Ledger.open key) d k := fun _ _ _ =>
  congrArg (fun j : Job => j.bracket.isSome) (Table.get_set_other _ _ _ _ h _)

/-! Words. -/

/-- The bits that show the open bracket of a context (R210). -/
def shownBits (d k a i : Nat) : Prop :=
  a = page d B.JCX + (R.JCX_NUM_STS k).off ∧ (3 ≤ i ∧ i < 6 ∨ 32 ≤ i ∧ i < 48)

/-- The bits of word 2 of a queue's entry, which holds HEAD. -/
def headBits (d q a _i : Nat) : Prop := a = page d B.CAL + (R.QUEUE_W2_HEAD q).off

theorem headBits_settled {d q : Nat} (hq : q < 64) : ∀ a i, headBits d q a i → settled a i := by
  rintro a i rfl
  have hoff : (R.QUEUE_W2_HEAD q).off = 0x1010 + 64 * q := rfl
  obtain ⟨-, hblock, hrest⟩ := page_offset d (i := B.CAL) (off := (R.QUEUE_W2_HEAD q).off) (by decide) (by omega)
  have hmod : (page d B.CAL + (R.QUEUE_W2_HEAD q).off) % 64 = 16 := by omega
  exact ⟨accounting_queueWord d ⟨q, hq⟩ (off := 0x1010) (by decide) (by decide), by omega, .inr (.inr ⟨hblock, .inr hmod⟩)⟩

theorem headBits_offResume {d q : Nat} (hq : q < 64) : OffResume (headBits d q) := fun e i h => by
  have hoff : (R.QUEUE_W2_HEAD q).off = 0x1010 + 64 * q := rfl
  simp only [headBits, page, hoff, R.CAL_RESUME] at h
  omega

theorem headBits_apart {d e q r : Nat} (hq : q < 64) (hr : r < 64) (h : d ≠ e) (i : Nat) :
    ¬ headBits d q (page e B.CAL + (R.QUEUE_W2_HEAD r).off) i := fun hbits => by
  simp only [headBits, page, R.QUEUE_W2_HEAD] at hbits
  omega

end Sys2Proof.Machine
end

section
/-! The outcome commit (R188). -/

namespace Sys2Proof.Machine

variable {α : Type} {p : Ledger → α} {K : Nat → Nat → Prop} {s t : State} {g : Group} {P Q : State → Prop} {c : Cmd}

theorem State.presentDies_lt {d : Nat} (h : d ∈ s.presentDies) : d < 4 := by
  have hmem := (List.mem_filter.1 h).1
  simp only [List.mem_cons, List.not_mem_nil, or_false] at hmem
  omega

theorem counts_slots {d : Nat} (hd : d < 4) {f : Fld} (hf : f ∈ [C.ARY_SLOT_RETIRED, C.ARY_SLOT_WASTED_REPLAY]) :
    Counts (page d B.ARY) f := by
  unfold Counts
  revert d f
  decide

section Settled
variable (hK : ∀ a i, K a i → settled a i)
include hK

theorem Leaves.putEntry (s : State) (a word lsb width v : Nat) : Leaves p K s (s.putEntry a word lsb width v) :=
  (Leaves.countRead hK s _ _ _).trans (.writeFrom hK _ _ _ _ _ _)

theorem Leaves.mergeAmax (s : State) (g : Group) (d : Nat) (b : Bracket) (keep : Bool) :
    Leaves p K s (s.mergeAmax g d b keep) := by
  refine .each _ s fun t n _ => ?_
  split
  · exact .refl t
  · exact (Leaves.ite (.putEntry hK t _ _ _ _ _) (.refl t)).trans (.putEntry hK _ _ _ _ _ _)

theorem Leaves.moveSlots (s : State) (hg : g.ctx < 2) {f : Fld} (hf : f ∈ [C.ARY_SLOT_RETIRED, C.ARY_SLOT_WASTED_REPLAY]) :
    Leaves p K s (s.moveSlots g f) := by
  refine .each _ s fun t d hd => ?_
  have hd : d < 4 := State.presentDies_lt (List.mem_filter.1 hd).1
  have hoff : (pendingFld g.ctx).off < 0x10000 := by
    simp only [pendingFld, nth]
    omega
  exact (Leaves.count hK t _ (counts_slots hd hf)).trans (.put_block hK _ d _ (by decide) (by decide) hoff)

end Settled

/-! A member closes. -/

theorem Leaves.showBracket (d k : Nat) (hk : ∀ a i, K a i → ¬ shownBits d k a i) (s : State) :
    Leaves p K s (s.showBracket d k) := by
  have hput (t : State) (f : Fld) (n : Nat) (hoff : f.off = (R.JCX_NUM_STS k).off)
      (hf : 3 ≤ f.lsb ∧ f.lsb + f.width ≤ 6 ∨ 32 ≤ f.lsb ∧ f.lsb + f.width ≤ 48) : Leaves p K t (t.put (page d B.JCX) f n) :=
    .put t _ _ _ (by omega) fun i h1 h2 hi => hk _ i hi ⟨congrArg _ hoff, by omega⟩
  have hopen := hput s (R.JCX_NUM_STS_BRACKET_OPEN k) (if (s.job d k).bracket.isSome then 1 else 0) rfl
    (.inl (show 3 ≤ 3 ∧ 3 + 1 ≤ 6 by decide))
  exact (hopen.trans (hput _ (R.JCX_NUM_STS_LEVEL k) _ rfl (.inl (show 3 ≤ 4 ∧ 4 + 2 ≤ 6 by decide)))).trans
    (hput _ (R.JCX_NUM_STS_BRACKET_LAYER k) _ rfl (.inr (show 32 ≤ 32 ∧ 32 + 16 ≤ 48 by decide)))

/-- The bracket of a context on a die goes. -/
def State.dropBracket (s : State) (d k : Nat) : State := s.setJob d k { s.job d k with bracket := none }

theorem State.dropBracket_tidy (d k : Nat) (hs : s.Tidy) : (s.dropBracket d k).Tidy := State.setJob_tidy d k _ hs

theorem State.open_dropBracket (hs : s.Tidy) (d k : Nat) : (s.dropBracket d k).ledger.open (jobKey d k) = false := by
  rw [State.open_ledger, State.dropBracket, State.job_setJob_same hs]
  rfl

theorem Leaves.dropBracket (d k : Nat) (hj : JobBlind p d k) (s : State) : Leaves p K s (s.dropBracket d k) :=
  fun hs => ⟨State.dropBracket_tidy d k hs, hj s _ hs, fun _ _ _ => rfl⟩

/-- HEAD goes on, and the bracket is shown closed. -/
theorem Leaves.closeShown (s : State) (x : Nat × Bracket) (hh : ∀ i, ¬ K (page x.1 B.CAL + (R.QUEUE_W2_HEAD x.2.queue).off) i)
    (hk : ∀ a i, K a i → ¬ shownBits x.1 g.ctx a i) : Leaves p K (s.dropBracket x.1 g.ctx) (s.closeMember g x.1 x.2) :=
  (Leaves.put _ _ _ _ (show 0 + 32 ≤ 64 by decide) fun i _ _ => hh i).trans (.showBracket x.1 g.ctx hk _)

theorem Leaves.closeMember (s : State) (x : Nat × Bracket) (hj : JobBlind p x.1 g.ctx)
    (hh : ∀ i, ¬ K (page x.1 B.CAL + (R.QUEUE_W2_HEAD x.2.queue).off) i)
    (hk : ∀ a i, K a i → ¬ shownBits x.1 g.ctx a i) : Leaves p K s (s.closeMember g x.1 x.2) :=
  (Leaves.dropBracket x.1 g.ctx hj s).trans (.closeShown s x hh hk)

/-! The steps of a commit. -/

/-- The steps before the brackets close. -/
def State.commitBefore (s : State) (g : Group) : State :=
  let m := s.members g
  let s := s.moveSlots g C.ARY_SLOT_RETIRED
  let s := s.each m fun s x => s.mergeAmax g x.1 x.2 true
  let s := s.each m fun s x => s.each (heldOrder x.2) fun s h => s.signalLive h.signal (fromDie x.1)
  match m.head? with
    | some (d, _) =>
      (s.count (page d B.NUM) C.NUM_BRACKETS_COMMITTED 1).signalLive
        ⟨cellNo (wf g.words 2 40 2) (wf g.words 2 42 14), false, 1⟩ (fromDie d)
    | none => s

/-- The bracket of a member closes, and its LAYER_CLOSE completes. -/
def State.finishMember (g : Group) (s : State) (x : Nat × Bracket) : State :=
  let close := s.closeOf x.1 x.2
  let s := s.closeMember g x.1 x.2
  match close with
  | some c => match (s.cmdOf c.id).bind Cmd.error with
    | some e => s.fail c e.1 e.2
    | none => s.done c
  | none => s

theorem State.commitFinish_eq (s : State) (g : Group) :
    s.commitFinish g = ((s.commitBefore g).each (s.members g) (State.finishMember g)).endGroup g := rfl

theorem Leaves.commitBefore (hK : ∀ a i, K a i → settled a i) (hb : SignalBlind p) (s : State) (hg : g.ctx < 2) :
    Leaves p K s (s.commitBefore g) := by
  unfold State.commitBefore
  extract_lets m s1 s2 s3
  have h1 : Leaves p K s s1 := .moveSlots hK s hg (by simp)
  have h2 : Leaves p K s1 s2 := .each _ _ fun t x _ => .mergeAmax hK t g x.1 x.2 true
  have h3 : Leaves p K s2 s3 := .each _ _ fun t x _ => .each _ t fun t h _ => .signalLive hK hb t _ _
  have h := (h1.trans h2).trans h3
  split
  next d b hhead =>
    exact (h.trans (.count hK s3 _ (counts_num (State.members_lt (List.mem_of_mem_head? hhead)) (by simp)))).trans
      (.signalLive hK hb _ _ _)
  next => exact h

theorem State.closeOf_eq_some {d : Nat} {b : Bracket} (h : s.closeOf d b = some c) :
    c ∈ s.cmds ∧ c.die = d ∧ c.queue = b.queue ∧ c.stage = .close := by
  have hc := List.find?_some h
  simp only [Bool.and_eq_true, beq_iff_eq] at hc
  obtain ⟨⟨hdie, hqueue⟩, hstage⟩ := hc
  exact ⟨List.mem_of_find?_eq_some h, hdie, hqueue, hstage⟩

/-- What the closed bracket shows stays when its LAYER_CLOSE completes. -/
theorem Stable.finishMember (hQ : Stable Q) (hsig : Signalled Q) (hcmd : CmdBlind Q) {x : Nat × Bracket} (hx : x.1 < 4)
    (hclose : Q (s.closeMember g x.1 x.2)) : Q (s.finishMember g x) := by
  unfold State.finishMember
  extract_lets close s1
  cases hc : close with
  | none => exact hclose
  | some c =>
    have hdie : c.die < 4 := (State.closeOf_eq_some hc).2.1 ▸ hx
    have hend (status err detail : Nat) : Q (s1.complete c status err detail) :=
      hQ.complete hQ hdie (fun _ => hsig) (fun t => hcmd t _ List.filter_sublist) s1 status err detail hclose
    simp only
    split
    · exact hend _ _ _
    · exact hend _ _ _

end Sys2Proof.Machine
end

section
/-! A commit closes the brackets of its members (R188). -/

namespace Sys2Proof.Machine

variable {α : Type} {p : Ledger → α} {K : Nat → Nat → Prop} {s t : State} {g : Group} {c : Cmd}

/-- No bit. -/
def noBits (_ _ : Nat) : Prop := False

theorem noBits_settled : ∀ a i, noBits a i → settled a i := fun _ _ => False.elim

theorem noBits_offResume : OffResume noBits := fun _ _ => id

/-- A view of the ledger alone. -/
def State.Views (p : Ledger → α) (v : α) (s : State) : Prop := s.Shows p noBits v fun _ _ => false

theorem State.Views.mk (hs : s.Tidy) : s.Views p (p s.ledger) := ⟨hs, rfl, fun _ _ => False.elim⟩

theorem Stable.views (hp : JobsBlind p) (v : α) : Stable (State.Views p v) := .shows noBits_settled noBits_offResume hp v _

theorem signalled_views (hb : SignalBlind p) (v : α) : Signalled (State.Views p v) := signalled_shows noBits_settled hb v _

/-! Brackets close. -/

/-- The members' brackets close one by one. -/
theorem State.finishMembers_closed (hs : s.Tidy) {l : List (Nat × Bracket)} (hlt : ∀ x ∈ l, x.1 < 4)
    (hnodup : (l.map Prod.fst).Nodup) : ∀ x ∈ l, ((s.each l (State.finishMember g)).job x.1 g.ctx).bracket = none := by
  have hclosed (x : Nat × Bracket) : Stable (State.Views (Ledger.open (jobKey x.1 g.ctx)) false) := .views (jobsBlind_open _) _
  have hsig (x : Nat × Bracket) : Signalled (State.Views (Ledger.open (jobKey x.1 g.ctx)) false) :=
    signalled_views (fun _ _ _ _ => rfl) _
  have hcmd (x : Nat × Bracket) : CmdBlind (State.Views (Ledger.open (jobKey x.1 g.ctx)) false) :=
    cmdBlind_shows (fun _ _ => rfl) _ _
  have hturns := State.each_turns Prod.fst (State.finishMember g) (fun _ => State.Tidy)
    (fun x => State.Views (Ledger.open (jobKey x.1 g.ctx)) false) l s hnodup
    (fun _ _ y hy _ t ht => ((Stable.views (p := fun _ => ()) (fun _ _ _ _ _ _ => rfl) ()).finishMember
      (signalled_views (fun _ _ _ _ => rfl) _) (cmdBlind_shows (fun _ _ => rfl) _ _) (hlt y hy)
      (.mk (State.closeMember_tidy t g y.1 y.2 ht))).1)
    (fun x _ y hy hxy t ht => (hclosed x).finishMember (hsig x) (hcmd x) (hlt y hy)
      ((Leaves.closeMember t y (jobBlind_open (by unfold jobKey; omega)) (fun _ => id) fun _ _ => False.elim).shows ht))
    (fun x hx t ht => (hclosed x).finishMember (hsig x) (hcmd x) (hlt x hx)
      ((Leaves.closeShown t x (fun _ => id) fun _ _ => False.elim).shows
        ⟨State.dropBracket_tidy x.1 g.ctx ht, State.open_dropBracket ht x.1 g.ctx, fun _ _ => False.elim⟩))
    (fun _ _ => hs)
  intro x hx
  obtain ⟨-, hopen, -⟩ := hturns x hx
  exact Option.isNone_iff_eq_none.1 (by simpa [State.open_ledger] using hopen)

/-- Word 2 of a queue's entry has this value. -/
def State.HeadWord (d q n : Nat) (s : State) : Prop :=
  s.Shows (fun _ => ()) (headBits d q) () fun _ i => n.testBit i

theorem State.headWord_iff {d q n : Nat} :
    s.HeadWord d q n ↔ s.Tidy ∧ s.word (page d B.CAL + (R.QUEUE_W2_HEAD q).off) = n :=
  ⟨fun ⟨hs, _, hw⟩ => ⟨hs, Nat.eq_of_testBit_eq fun i => hw _ i rfl⟩,
    fun ⟨hs, hw⟩ => ⟨hs, rfl, fun a i ha => by rw [show a = _ from ha, hw]⟩⟩

theorem Stable.headWord {d q : Nat} (hq : q < 64) (n : Nat) : Stable (State.HeadWord d q n) :=
  .shows (p := fun _ => ()) (headBits_settled hq) (headBits_offResume hq) (fun _ _ _ _ _ _ => rfl) _ _

theorem headBits_offShown {d q e k a i : Nat} (hq : q < 64) (hk : k < 2) (h : headBits d q a i) :
    ¬ shownBits e k a i := by
  rintro ⟨ha, -⟩
  have hhead : a = d * 0x1000000 + B.CAL * 0x10000 + (0x1010 + 64 * q) := h
  have hjcx : a = e * 0x1000000 + B.JCX * 0x10000 + (0x110 + 8 * k) := ha
  simp only [B.CAL, B.JCX] at hhead hjcx
  omega

/-- HEAD of each member's queue goes past the commands taken. -/
theorem State.finishMembers_head (hs : s.Tidy) (hg : g.ctx < 2) {l : List (Nat × Bracket)} (hlt : ∀ x ∈ l, x.1 < 4 ∧ x.2.queue < 64)
    (hnodup : (l.map Prod.fst).Nodup) : ∀ x ∈ l, (s.each l (State.finishMember g)).qf x.1 x.2.queue R.QUEUE_W2_HEAD
      = (s.qf x.1 x.2.queue R.QUEUE_W2_HEAD + x.2.taken) % 2 ^ 32 := by
  have hsig (x : Nat × Bracket) (hx : x ∈ l) (n : Nat) : Signalled (State.HeadWord x.1 x.2.queue n) :=
    signalled_shows (headBits_settled (hlt x hx).2) (fun _ _ _ _ => rfl) _ _
  have hcmd (x : Nat × Bracket) (n : Nat) : CmdBlind (State.HeadWord x.1 x.2.queue n) := cmdBlind_shows (fun _ _ => rfl) _ _
  let before (x : Nat × Bracket) : Nat := s.word (page x.1 B.CAL + (R.QUEUE_W2_HEAD x.2.queue).off)
  let after (x : Nat × Bracket) : Nat := setBits (before x) 0 32 (bits (before x) 0 32 + x.2.taken)
  have hother (n : Nat × Bracket → Nat) : ∀ x ∈ l, ∀ y ∈ l, x.1 ≠ y.1 → ∀ t, State.HeadWord x.1 x.2.queue (n x) t →
      State.HeadWord x.1 x.2.queue (n x) (State.finishMember g t y) := fun x hx y hy hxy t ht =>
    (Stable.headWord (hlt x hx).2 _).finishMember (hsig x hx _) (hcmd x _) (hlt y hy).1
      ((Leaves.closeMember t y (fun _ _ _ => rfl) (headBits_apart (hlt x hx).2 (hlt y hy).2 hxy)
        fun _ _ h => headBits_offShown (hlt x hx).2 hg h).shows ht)
  have hturns := State.each_turns Prod.fst (State.finishMember g) (fun x => State.HeadWord x.1 x.2.queue (before x))
    (fun x => State.HeadWord x.1 x.2.queue (after x)) l s hnodup (hother before) (hother after)
    (fun x hx t ht => (Stable.headWord (hlt x hx).2 _).finishMember (hsig x hx _) (hcmd x _) (hlt x hx).1 ?_)
    (fun x _ => State.headWord_iff.2 ⟨hs, rfl⟩)
  · intro x hx
    obtain ⟨-, hw⟩ := State.headWord_iff.1 (hturns x hx)
    rw [State.qf, State.fld, hw]
    exact bits_setBits_same _ _ _ _
  · obtain ⟨ht, hw⟩ := State.headWord_iff.1 ht
    have hdrop := State.dropBracket_tidy x.1 g.ctx ht
    have hput : State.HeadWord x.1 x.2.queue (after x)
        ((t.dropBracket x.1 g.ctx).qput x.1 x.2.queue R.QUEUE_W2_HEAD (t.qf x.1 x.2.queue R.QUEUE_W2_HEAD + x.2.taken)) := by
      refine State.headWord_iff.2 ⟨State.qput_tidy _ _ _ _ _ hdrop, ?_⟩
      rw [State.qput, State.word_put_same hdrop.regs _ _ _ (show 0 + 32 ≤ 64 by decide)]
      show setBits (t.word _) 0 32 (bits (t.word _) 0 32 + _) = _
      rw [hw]
    exact (Leaves.showBracket x.1 g.ctx (fun _ _ h => headBits_offShown (hlt x hx).2 hg h) _).shows hput

/-- No member's close changes the brackets of the floor. -/
theorem State.finishMembers_groups (hs : s.Tidy) {l : List (Nat × Bracket)} (hlt : ∀ x ∈ l, x.1 < 4) :
    (s.each l (State.finishMember g)).groups = s.groups := by
  have hstable : Stable (State.Views Ledger.groups s.groups) := .views (fun _ _ _ _ _ _ => rfl) _
  have hkeeps : State.Views Ledger.groups s.groups (s.each l (State.finishMember g)) :=
    List.foldlRecOn l _ (State.Views.mk hs) fun t ht x hx =>
      hstable.finishMember (signalled_views (fun _ _ _ _ => rfl) _) (cmdBlind_shows (fun _ _ => rfl) _ _) (hlt x hx)
        ((Leaves.closeMember t x (fun _ _ _ => rfl) (fun _ => id) fun _ _ => False.elim).shows ht)
  exact hkeeps.2.1

/-- A commit that finishes closes every member's bracket, and the bracket leaves the floor. -/
theorem State.commitFinish_closes (hs : s.Tidy) (hg : g.ctx < 2) :
    (∀ x ∈ s.members g, ((s.commitFinish g).job x.1 g.ctx).bracket = none)
      ∧ (s.commitFinish g).groups = s.groups.filter fun x => x.id != g.id := by
  have hlt : ∀ x ∈ s.members g, x.1 < 4 := fun x hx => State.members_lt hx
  obtain ⟨hbefore, hgroups, -⟩ := Leaves.commitBefore (p := Ledger.groups) noBits_settled (fun _ _ _ _ => rfl) s hg hs
  rw [State.commitFinish_eq]
  exact ⟨State.finishMembers_closed hbefore hlt (s.members_nodup g),
    congrArg (List.filter _) ((State.finishMembers_groups hbefore hlt).trans hgroups)⟩

theorem State.commitFinish_head (hs : s.Tidy) (hg : g.ctx < 2) (hq : ∀ x ∈ s.members g, x.2.queue < 64) :
    ∀ x ∈ s.members g, (s.commitFinish g).qf x.1 x.2.queue R.QUEUE_W2_HEAD
      = (s.qf x.1 x.2.queue R.QUEUE_W2_HEAD + x.2.taken) % 2 ^ 32 := by
  intro x hx
  have hkeeps := Leaves.commitBefore (p := fun _ => ()) (headBits_settled (d := x.1) (hq x hx)) (fun _ _ _ _ => rfl) s hg
  obtain ⟨hbefore, -, -⟩ := hkeeps hs
  have hhead : (s.commitBefore g).qf x.1 x.2.queue R.QUEUE_W2_HEAD = s.qf x.1 x.2.queue R.QUEUE_W2_HEAD :=
    hkeeps.fld hs fun _ _ _ => rfl
  rw [State.commitFinish_eq, ← hhead]
  exact State.finishMembers_head hbefore hg (fun y hy => ⟨State.members_lt hy, hq y hy⟩) (s.members_nodup g) x hx

/-! The members of a bracket whose lists run. -/

theorem State.members_eq (s : State) (g : Group) : s.members g = ((openDies g.words).filter fun d => !g.gone.contains d).filterMap
    fun d => if s.present d then (s.memberOf g d).map (d, ·) else none := by
  rw [State.members, State.openMembers, List.filter_filterMap]
  refine List.filterMap_congr fun d _ => ?_
  cases s.memberOf g d with
  | none => simp
  | some b => simp [Option.filter]

/-- Where each member's bracket has changed alone, and no die has come or gone, the members are the same. -/
theorem State.members_map {f : Nat → Bracket → Bracket} (hid : ∀ d b, (f d b).id = b.id) (hp : ∀ d, d < 4 → t.present d = s.present d)
    (hm : ∀ x ∈ s.members g, (t.job x.1 g.ctx).bracket = some (f x.1 x.2))
    (ho : ∀ d, s.memberOf g d = none → t.memberOf g d = none) :
    t.members g = (s.members g).map fun x => (x.1, f x.1 x.2) := by
  rw [State.members_eq, State.members_eq, List.map_filterMap]
  refine List.filterMap_congr fun d hd => ?_
  obtain ⟨hdie, hgone⟩ := List.mem_filter.1 hd
  rw [hp d (openDies_lt hdie)]
  cases hpresent : s.present d with
  | false => rfl
  | true =>
    cases hb : s.memberOf g d with
    | some b =>
      have hx : (d, b) ∈ s.members g := by
        rw [State.members_eq]
        exact List.mem_filterMap.2 ⟨d, hd, by simp [hpresent, hb]⟩
      have hmember : t.memberOf g d = some (f d b) := by
        rw [State.memberOf, hm _ hx, Option.filter_some, hid, (State.memberOf_eq_some hb).2]
        simp
      simp [hmember]
    | none => simp [ho d hb]

/-- The bracket of a member as its commit-add list starts. -/
def Bracket.start (b : Bracket) : Bracket := { b with adding := true, added := (caddList b.words).isNone }

theorem State.bracket_mapBracket_same (hs : s.Tidy) (d k : Nat) (f : Bracket → Bracket) :
    ((s.mapBracket d k f).job d k).bracket = (s.job d k).bracket.map f :=
  congrArg Job.bracket (State.job_mapBracket_same hs d k f)

theorem State.bracket_mapBracket_apart {d e : Nat} (h : e ≠ d) (k : Nat) (f : Bracket → Bracket) :
    ((s.mapBracket d k f).job e k).bracket = (s.job e k).bracket :=
  congrArg Job.bracket (State.job_setJob_other (by unfold jobKey; omega) _)

/-- Each member's bracket starts its list. -/
def State.startAll (s : State) (g : Group) : State :=
  s.each (s.members g) fun s x => s.mapBracket x.1 g.ctx Bracket.start

theorem State.startAll_regs (s : State) (g : Group) : (s.startAll g).regs = s.regs ∧ (s.startAll g).groups = s.groups :=
  List.foldlRecOn (s.members g) (motive := fun t : State => t.regs = s.regs ∧ t.groups = s.groups) _ ⟨rfl, rfl⟩ fun _ ht _ _ => ht

theorem State.startAll_tidy (hs : s.Tidy) : (s.startAll g).Tidy :=
  List.foldlRecOn (s.members g) _ hs fun t ht _ _ => State.mapBracket_tidy t _ _ _ ht

theorem State.startAll_members (hs : s.Tidy) : (s.startAll g).members g = (s.members g).map fun x => (x.1, x.2.start) := by
  refine State.members_map (f := fun _ => Bracket.start) (fun _ _ => rfl) (fun d _ => ?_) (fun x hx => ?_) fun d hd => ?_
  · rw [State.present, State.dieState, State.fld, State.word, (s.startAll_regs g).1]
    rfl
  · have hother {b : Bracket} {x y : Nat × Bracket} (hxy : x.1 ≠ y.1) (t : State)
        (ht : t.Tidy ∧ (t.job x.1 g.ctx).bracket = some b) : (t.mapBracket y.1 g.ctx Bracket.start).Tidy
          ∧ ((t.mapBracket y.1 g.ctx Bracket.start).job x.1 g.ctx).bracket = some b :=
      ⟨State.mapBracket_tidy _ _ _ _ ht.1, (State.bracket_mapBracket_apart hxy _ _).trans ht.2⟩
    exact (State.each_turns Prod.fst (fun s x => s.mapBracket x.1 g.ctx Bracket.start)
      (fun x t => t.Tidy ∧ (t.job x.1 g.ctx).bracket = some x.2) (fun x t => t.Tidy ∧ (t.job x.1 g.ctx).bracket = some x.2.start)
      (s.members g) s (s.members_nodup g) (fun x _ y _ hxy => hother hxy) (fun x _ y _ hxy => hother hxy)
      (fun x _ t ht => ⟨State.mapBracket_tidy _ _ _ _ ht.1, by rw [State.bracket_mapBracket_same ht.1, ht.2]; rfl⟩)
      (fun x hx => ⟨hs, State.members_bracket hx⟩) x hx).2
  · have hne : ∀ x ∈ s.members g, d ≠ x.1 := by
      rintro x hx rfl
      rw [(State.mem_members hx).2.2.1] at hd
      cases hd
    refine List.foldlRecOn (s.members g) (motive := fun t : State => t.memberOf g d = none) _ hd fun t ht x hx => ?_
    rw [State.memberOf, State.bracket_mapBracket_apart (hne x hx)]
    exact ht

/-- Without lists the commit finishes at once. -/
theorem State.commitStart_of_none (hs : s.Tidy) (hnone : ∀ x ∈ s.members g, caddList x.2.words = none) :
    s.commitStart g = (s.startAll g).commitFinish g := by
  have hstart : s.commitStart g = (s.startAll g).commitMaybe g := by
    refine congrArg (State.commitMaybe · g) (List.foldl_ext _ _ _ fun t x hx => ?_)
    simp only
    split
    · rw [State.caddRun, hnone x hx]
      rfl
    · rfl
  rw [hstart, State.commitMaybe, if_pos]
  rw [State.startAll_members hs, List.all_map, List.all_eq_true]
  intro x hx
  simp [Bracket.start, hnone x hx]

/-- R188: a commit without commit-add lists. -/
theorem State.commitStart_closes (hs : s.Tidy) (hg : g.ctx < 2) (hnone : ∀ x ∈ s.members g, caddList x.2.words = none)
    (hq : ∀ x ∈ s.members g, x.2.queue < 64) :
    let t := s.commitStart g
    (∀ x ∈ s.members g, (t.job x.1 g.ctx).bracket = none
        ∧ t.qf x.1 x.2.queue R.QUEUE_W2_HEAD = (s.qf x.1 x.2.queue R.QUEUE_W2_HEAD + x.2.taken) % 2 ^ 32)
      ∧ t.groups = s.groups.filter fun x => x.id != g.id := by
  have hstart := State.startAll_tidy (g := g) hs
  have hmembers := State.startAll_members (g := g) hs
  obtain ⟨hregs, hgroups⟩ := s.startAll_regs g
  obtain ⟨hclosed, hend⟩ := State.commitFinish_closes hstart hg
  have hmem : ∀ x ∈ s.members g, (x.1, x.2.start) ∈ (s.startAll g).members g := fun x hx =>
    hmembers ▸ List.mem_map_of_mem (f := fun x : Nat × Bracket => (x.1, x.2.start)) hx
  have hhead := State.commitFinish_head hstart hg fun y hy => by
    obtain ⟨x, hx, rfl⟩ := List.mem_map.1 (hmembers ▸ hy)
    exact hq x hx
  rw [State.commitStart_of_none hs hnone]
  refine ⟨fun x hx => ⟨hclosed (x.1, x.2.start) (hmem x hx), (hhead (x.1, x.2.start) (hmem x hx)).trans ?_⟩, hend.trans (congrArg _ hgroups)⟩
  rw [State.qf, State.qf, State.fld, State.fld, State.word, State.word, hregs]
  rfl

end Sys2Proof.Machine
end

section
/-! The outcome replay (R189). -/

namespace Sys2Proof.Machine

variable {α : Type} {p : Ledger → α} {K : Nat → Nat → Prop} {s t : State} {g : Group} {c : Cmd}

/-- The view does not show the dispatched commands. -/
def CmdsBlind (p : Ledger → α) : Prop := ∀ (l : Ledger) (cs : List Cmd), p { l with cmds := cs } = p l

/-- The bracket of a job context on a die. -/
def Ledger.bracketAt (key : Nat) (l : Ledger) : Option Bracket := (Table.get (fun _ => ({} : Job)) l.jobs key).bracket

theorem jobBlind_bracketAt {key d k : Nat} (h : key ≠ jobKey d k) : JobBlind (Ledger.bracketAt key) d k := fun _ _ _ =>
  congrArg Job.bracket (Table.get_set_other _ _ _ _ h _)

section Settled
variable (hK : ∀ a i, K a i → settled a i)
include hK

theorem Leaves.dropCmd (hr : OffResume K) (hc : CmdsBlind p) (s : State) (hdie : c.die < 4) : Leaves p K s (s.dropCmd c) := by
  unfold State.dropCmd
  extract_lets s1 s2 x
  have h1 : Leaves p K s s1 := .ite (.resolveTag hK s hdie) (.refl s)
  have h2 : Leaves p K s1 s2 := .of_ledger (fun hs => hs.fewer List.filter_sublist (Nat.le_refl _)) (hc s1.ledger _) rfl
  exact (((h1.trans h2).trans (.setSampler s2 _ _)).trans (.refreshOutstanding hK _ _ _)).trans (.resumeMaybe hr _ _)

theorem Leaves.resetLocal (hb : SignalBlind p) (s : State) (d : Nat) (w : List Nat) : Leaves p K s (s.resetLocal d w) :=
  .each _ s fun t _ _ => .signal hK hb t _ _

theorem Leaves.replayRecord (s : State) (g : Group) (m : List (Nat × Bracket)) {d : Nat} (hd : d < 4) (b : Bracket)
    (t n tensors : Nat) : Leaves p K s (s.replayRecord g m d b t n tensors) := by
  unfold State.replayRecord
  extract_lets amaxOn amax fmt w st s1
  have h1 : Leaves p K s s1 :=
    (Leaves.of_ledger (t := s.stamp.2) (fun hs => State.stamp_tidy hs) rfl rfl).trans (.numRecord hK _ hd _)
  exact h1.trans (.count hK _ _ (counts_num hd (by simp)))

end Settled

/-! The steps of a replay. -/

/-- The steps before the members go back. -/
def State.replayBefore (s : State) (g : Group) : State :=
  let m := s.members g
  let s := s.moveSlots g C.ARY_SLOT_WASTED_REPLAY
  let add (t : Table Nat) (o : Nat × Nat) : Table Nat := Table.set (fun _ => 0) t o.1 (Table.get (fun _ => 0) t o.1 + o.2)
  let total := m.foldl (fun t x => x.2.overflow.foldl add t) ([] : Table Nat)
  match m.head?, total.head? with
    | some (d, b), some (t, n) => s.replayRecord g m d b t n total.length
    | _, _ => s

/-- A bracket at the start of its next attempt. -/
def Bracket.replayed (b : Bracket) : Bracket :=
  { b with level := min 3 (b.level + 1), taken := 0, failing := false, errors := [], held := [], overflow := [] }

/-- A member goes back to the commands after its LAYER_OPEN. -/
def State.replayMember (g : Group) (s : State) (x : Nat × Bracket) : State :=
  let s := match s.closeOf x.1 x.2 with
    | some c => s.dropCmd c
    | none => s
  let s := s.mapBracket x.1 g.ctx Bracket.replayed
  let s := s.qput x.1 x.2.queue R.QUEUE_W5_FETCH x.2.fetch
  (s.showBracket x.1 g.ctx).resetLocal x.1 x.2.words

theorem State.replayBracket_eq (s : State) (g : Group) :
    s.replayBracket g = (s.replayBefore g).each (s.members g) (State.replayMember g) := rfl

theorem Leaves.replayBefore (hK : ∀ a i, K a i → settled a i) (s : State) (hg : g.ctx < 2) : Leaves p K s (s.replayBefore g) := by
  unfold State.replayBefore
  extract_lets m s1 add total
  have h1 : Leaves p K s s1 := .moveSlots hK s hg (by simp)
  split
  next hhead _ => exact h1.trans (.replayRecord hK s1 g m (State.members_lt (List.mem_of_mem_head? hhead)) _ _ _ _)
  next => exact h1

section Member
variable (hK : ∀ a i, K a i → settled a i) (hr : OffResume K) (hc : CmdsBlind p) (hb : SignalBlind p) {x : Nat × Bracket}
  (hfetch : ∀ i, ¬ K (page x.1 B.CAL + (R.QUEUE_W5_FETCH x.2.queue).off) i) (hshown : ∀ a i, K a i → ¬ shownBits x.1 g.ctx a i)
include hK hr hc hb hfetch hshown

/-- But for its own bracket a member's way back leaves what signals and the end of commands do. -/
theorem State.replayMember_leaves (s : State) (hx : x.1 < 4) :
    ∃ u, Leaves p K s u ∧ Leaves p K (u.mapBracket x.1 g.ctx Bracket.replayed) (s.replayMember g x) := by
  unfold State.replayMember
  extract_lets u s2 s3
  refine ⟨u, ?_, ?_⟩
  · simp only [u]
    split
    next c h => exact .dropCmd hK hr hc s ((State.closeOf_eq_some h).2.1 ▸ hx)
    next => exact .refl s
  · exact ((Leaves.put s2 _ _ _ (show 32 + 16 ≤ 64 by decide) fun i _ _ => hfetch i).trans
      (.showBracket x.1 g.ctx hshown s3)).trans (.resetLocal hK hb _ _ _)

end Member

theorem headBits_offFetch {d q e r : Nat} (i : Nat) :
    ¬ headBits d q (page e B.CAL + (R.QUEUE_W5_FETCH r).off) i := fun h => by
  simp only [headBits, page, R.QUEUE_W2_HEAD, R.QUEUE_W5_FETCH] at h
  omega

/-- R189: each member's bracket rises a level, and its queue stands at the commands after LAYER_OPEN. -/
theorem State.replayBracket_shows (hs : s.Tidy) (hg : g.ctx < 2) (hq : ∀ x ∈ s.members g, x.2.queue < 64) :
    (∀ x ∈ s.members g, ((s.replayBracket g).job x.1 g.ctx).bracket = some x.2.replayed
        ∧ (s.replayBracket g).qf x.1 x.2.queue R.QUEUE_W2_HEAD = s.qf x.1 x.2.queue R.QUEUE_W2_HEAD)
      ∧ (s.replayBracket g).groups = s.groups := by
  rw [State.replayBracket_eq]
  constructor
  · let shows (b : Option Bracket) (x : Nat × Bracket) : State → Prop :=
      State.Shows (Ledger.bracketAt (jobKey x.1 g.ctx)) (headBits x.1 x.2.queue) b fun a i => (s.word a).testBit i
    have hparts (x y : Nat × Bracket) (hx : x ∈ s.members g) (hy : y ∈ s.members g) (t : State) :=
      State.replayMember_leaves (g := g) (p := Ledger.bracketAt (jobKey x.1 g.ctx)) (K := headBits x.1 x.2.queue)
        (x := y) (headBits_settled (hq x hx)) (headBits_offResume (hq x hx)) (fun _ _ => rfl) (fun _ _ _ _ => rfl)
        headBits_offFetch (fun _ _ h => headBits_offShown (hq x hx) hg h) t (State.members_lt hy)
    have hother (b : Nat × Bracket → Option Bracket) : ∀ x ∈ s.members g, ∀ y ∈ s.members g, x.1 ≠ y.1 → ∀ t,
        shows (b x) x t → shows (b x) x (t.replayMember g y) := fun x hx y hy hxy t ht => by
      obtain ⟨u, hu, hend⟩ := hparts x y hx hy t
      obtain ⟨hut, hub, huw⟩ := hu.shows ht
      refine hend.shows ⟨State.mapBracket_tidy _ _ _ _ hut, ?_, huw⟩
      exact (jobBlind_bracketAt (by unfold jobKey; omega) u _ hut).trans hub
    have hturns := State.each_turns Prod.fst (State.replayMember g) (fun x => shows (some x.2) x)
      (fun x => shows (some x.2.replayed) x) (s.members g) (s.replayBefore g) (s.members_nodup g) (hother _) (hother _)
      (fun x hx t ht => by
        obtain ⟨u, hu, hend⟩ := hparts x x hx hx t
        obtain ⟨hut, hub, huw⟩ := hu.shows ht
        refine hend.shows ⟨State.mapBracket_tidy _ _ _ _ hut, ?_, huw⟩
        exact (State.bracket_mapBracket_same hut _ _ _).trans (congrArg (Option.map _) hub))
      (fun x hx => (Leaves.replayBefore (headBits_settled (hq x hx)) s hg).shows
        ⟨hs, State.members_bracket hx, fun _ _ _ => rfl⟩)
    intro x hx
    obtain ⟨-, hbracket, hword⟩ := hturns x hx
    refine ⟨hbracket, congrArg (bits · 0 32) (Nat.eq_of_testBit_eq fun i => hword _ i rfl)⟩
  · refine (List.foldlRecOn (s.members g) (motive := State.Views Ledger.groups s.groups) _
      ((Leaves.replayBefore noBits_settled s hg).shows (State.Views.mk hs)) fun t ht x hx => ?_).2.1
    obtain ⟨u, hu, hend⟩ := State.replayMember_leaves (g := g) (p := Ledger.groups) (x := x) noBits_settled noBits_offResume
      (fun _ _ => rfl) (fun _ _ _ _ => rfl) (fun _ => id) (fun _ _ => False.elim) t (State.members_lt hx)
    obtain ⟨hut, hug, -⟩ := hu.shows ht
    exact hend.shows ⟨State.mapBracket_tidy _ _ _ _ hut, hug, fun _ _ => False.elim⟩

end Sys2Proof.Machine
end

section
/-! What errors and drained queues leave (R190, R198, R513). -/

namespace Sys2Proof.Machine

variable {α : Type} {p : Ledger → α} {K : Nat → Nat → Prop} {s t : State} {g : Group} {c : Cmd} {P Q : State → Prop}

/-! Causes. -/

/-- The bits of JCX_NUM_STS of a context. -/
def stsBits (d k a _i : Nat) : Prop := a = page d B.JCX + (R.JCX_NUM_STS k).off

/-- The view does not show what is kept of causes for the next step. -/
def NextBlind (p : Ledger → α) : Prop :=
  ∀ (s : State) (d k n : Nat), s.Tidy → p (s.setJob d k { s.job d k with next := n }).ledger = p s.ledger

/-- What writes words that hold no bit of `K`. -/
theorem Leaves.of_words (hK : ∀ a i, K a i → settled a i) {l : List Nat} (ht : s.Tidy → t.Tidy) (h : OnlyWords s t l)
    (hl : ∀ a i, K a i → a ∉ l) : Leaves p K s t := fun hs =>
  ⟨ht hs, congrArg p (h.1.part State.ledger fun _ _ _ _ => rfl), fun a i ha => by rw [h.word a (hK a i ha).1 (hl a i ha)]⟩

theorem Leaves.setCause (hK : ∀ a i, K a i → settled a i) (hn : NextBlind p) (s : State) (d k b : Nat)
    (hsts : ∀ a i, K a i → ¬ stsBits d k a i) : Leaves p K s (s.setCause d k b) := by
  cases h : s.sampled d k with
  | true =>
    rw [State.setCause_next h]
    exact fun hs => ⟨State.setJob_tidy _ _ _ hs, hn s d k _ hs, fun _ _ _ => rfl⟩
  | false =>
    rw [State.setCause_now h]
    exact .of_words hK (State.putCauses_tidy s d k _) (.putCauses s d k _) fun a i ha h =>
      hsts a i ha (List.mem_singleton.1 h)

/-! A queue that is drained. -/

/-- The view shows of brackets no more than whether they are open. -/
def BracketBlind (p : Ledger → α) : Prop :=
  ∀ (s : State) (d k : Nat) (f : Bracket → Bracket), s.Tidy → p (s.mapBracket d k f).ledger = p s.ledger

theorem BracketBlind.jobs (hp : BracketBlind p) : JobsBlind p := fun s d k f hs _ => hp s d k f hs

section Drain
variable (hp : BracketBlind p) (hb : SignalBlind p) {d q : Nat} (hhead : ∀ i, ¬ K (page d B.CAL + (R.QUEUE_W2_HEAD q).off) i)
  (hfetch : ∀ i, ¬ K (page d B.CAL + (R.QUEUE_W5_FETCH q).off) i)
include hp hhead hfetch

theorem Leaves.consume (s : State) : Leaves p K s (s.consume d q) := by
  unfold State.consume
  extract_lets s1
  have h1 : Leaves p K s s1 := .ite (.put s _ _ _ (show 32 + 16 ≤ 64 by decide) fun i _ _ => hfetch i) (.refl s)
  exact .ite (h1.trans fun hs => ⟨State.mapBracket_tidy _ _ _ _ hs, hp _ _ _ _ hs, fun _ _ _ => rfl⟩)
    (h1.trans (.put _ _ _ _ (show 0 + 32 ≤ 64 by decide) fun i _ _ => hhead i))

include hb

omit hp hhead hfetch in
theorem Leaves.setQueue (s : State) (k : Nat) (x : Queue) : Leaves p K s (s.setQueue k x) :=
  .of_ledger (State.setQueue_tidy k x) (hb s.ledger s.cells s.waits _) rfl

theorem Leaves.drainHead (s : State) (h : Head) : Leaves p K s (s.drainHead d q h) := by
  unfold State.drainHead
  extract_lets close s1
  have h1 : Leaves p K s s1 := .of_ledger (fun hs => { hs with }) (hb s.ledger s.cells _ s.queues) rfl
  exact (h1.trans (.consume hp hhead hfetch s1)).trans (.setQueue hb _ _ _)

theorem Leaves.drainQueue : ∀ (fuel : Nat) (s : State), Leaves p K s (s.drainQueue d q fuel)
  | 0, s => .refl s
  | fuel + 1, s => by
    unfold State.drainQueue
    split
    · split
      · exact (Leaves.drainHead hp hb hhead hfetch s _).trans (.drainQueue fuel _)
      · exact .refl s
    · exact .refl s

end Drain

/-! Callers that are halted and not asked to resume. -/

/-- The bits of CAL_RESUME of a die. -/
def resumeBits (d a _i : Nat) : Prop := a = page d B.CAL + R.CAL_RESUME.off

theorem resumeBits_settled {d : Nat} : ∀ a i, resumeBits d a i → settled a i := by
  rintro a i rfl
  obtain ⟨-, hblock, hrest⟩ := page_offset d (i := B.CAL) (off := R.CAL_RESUME.off) (by decide) (by decide)
  have hmod : (page d B.CAL + R.CAL_RESUME.off) % 64 = 16 := by
    simp only [R.CAL_RESUME] at *
    omega
  exact ⟨accounting_page d (by decide) (by decide) (by decide) (by decide), by omega, .inr (.inr ⟨hblock, .inr hmod⟩)⟩

/-- No RESUME of a die is asked for, and callers of it are halted. -/
def State.Halts (d : Nat) (who : Nat → Prop) (s : State) : Prop :=
  s.Tidy ∧ s.fld (page d B.CAL) R.CAL_RESUME_RESUME = 0 ∧ ∀ k, who k → s.halted d k = true

variable {d : Nat} {who : Nat → Prop}

theorem Leaves.halts (h : Leaves p (resumeBits d) s t) (hs : s.Halts d who) : t.Halts d who := by
  obtain ⟨hs, hresume, hhalted⟩ := hs
  have hfld {f : Fld} (hf : f.off = R.CAL_RESUME.off) : t.fld (page d B.CAL) f = s.fld (page d B.CAL) f :=
    h.fld hs fun _ _ _ => congrArg _ hf
  refine ⟨(h hs).1, (hfld (f := R.CAL_RESUME_RESUME) rfl).trans hresume, fun k hk => ?_⟩
  rw [State.halted, hfld (f := R.CAL_RESUME_HALTED) rfl]
  exact hhalted k hk

theorem resumeBits_apart {e : Nat} (h : e ≠ d) (i : Nat) : ¬ resumeBits d (page e B.CAL + R.CAL_RESUME.off) i := fun hbits => by
  simp only [resumeBits, page] at hbits
  omega

/-- Other words than CAL_RESUME of the die. -/
theorem State.Halts.put {e : Nat} (h : e ≠ d) {f : Fld} (hf : f.off = R.CAL_RESUME.off ∧ f.lsb + f.width ≤ 64) (n : Nat)
    (hs : s.Halts d who) : (s.put (page e B.CAL) f n).Halts d who :=
  (Leaves.put (p := fun _ => ()) s _ f n hf.2 fun i _ _ => hf.1 ▸ resumeBits_apart h i).halts hs

theorem State.halted_put (hs : s.Tidy) (e n k : Nat) (hk : k < 8) :
    (s.put (page e B.CAL) R.CAL_RESUME_HALTED n).halted e k = n.testBit k := by
  rw [State.halted, State.fld_put_same hs.regs _ _ _ (by decide), bitOn_eq_testBit, Nat.testBit_mod_two_pow]
  exact Bool.and_eq_right_iff_imp.2 fun _ => decide_eq_true hk

theorem State.halted_lt {e k : Nat} (h : s.halted e k = true) : k < 8 := Nat.lt_of_not_le fun hle => by
  have hlt := Nat.lt_of_lt_of_le (State.fld_lt s (page e B.CAL) R.CAL_RESUME_HALTED) (Nat.pow_le_pow_right (by decide) hle)
  rw [State.halted, bitOn_eq_testBit, Nat.testBit_lt_two_pow hlt] at h
  cases h

/-- A caller halts: those that were halted are, and it is. -/
theorem State.Halts.halt (hs : s.Halts d who) (e k : Nat) :
    (s.halt e k).Halts d fun n => who n ∨ (e = d ∧ n = k ∧ k < 8) := by
  refine (Leaves.haltShown (p := fun _ => ()) resumeBits_settled (fun _ _ _ _ _ _ => rfl) s e k).halts ?_
  by_cases h : e = d
  · subst h
    obtain ⟨hs, hresume, hhalted⟩ := hs
    refine ⟨State.put_tidy _ _ _ hs, ?_, fun n hn => ?_⟩
    · rw [State.fld_put_apart hs.regs _ _ _ _ _ (by decide) (.inr (.inl (by decide)))]
      exact hresume
    · rcases hn with hn | ⟨-, rfl, hk⟩
      · have hbit := hhalted n hn
        rw [State.halted_put hs _ _ _ (State.halted_lt hbit), Nat.testBit_or, ← bitOn_eq_testBit]
        exact Bool.or_eq_true_iff.2 (.inl hbit)
      · rw [State.halted_put hs _ _ _ hk, Nat.testBit_or, Nat.testBit_two_pow_self, Bool.or_true]
  · obtain ⟨ht, hresume, hhalted⟩ := hs.put h (f := R.CAL_RESUME_HALTED) ⟨rfl, by decide⟩ _
    exact ⟨ht, hresume, fun n hn => hn.elim (hhalted n) fun hn => absurd hn.1 h⟩

theorem State.Halts.mono {what : Nat → Prop} (hs : s.Halts d who) (h : ∀ k, what k → who k) : s.Halts d what :=
  ⟨hs.1, hs.2.1, fun k hk => hs.2.2 k (h k hk)⟩

/-- Nothing is asked of the die's callers, so none of them resumes. -/
theorem State.Halts.resumeMaybe (hs : s.Halts d who) (e : Nat) : (s.resumeMaybe e).Halts d who := by
  unfold State.resumeMaybe
  refine List.foldlRecOn (motive := State.Halts d who) (List.range 8) _ hs fun t ht k _ => ?_
  extract_lets busy
  split
  next hcond =>
    have h : e ≠ d := by
      rintro rfl
      simp [ht.2.1, bitOn, bits] at hcond
    refine State.Halts.put (f := R.CAL_RESUME_HALTED) h ⟨rfl, by decide⟩ _ ?_
    exact State.Halts.put (f := R.CAL_RESUME_RESUME) h ⟨rfl, by decide⟩ _ ht
  next => exact ht

theorem Stable.halts (d : Nat) (who : Nat → Prop) : Stable (State.Halts d who) where
  tidy _ h := h.1
  leaves _ _ h := (h.weaken (q := fun _ => ()) (fun _ _ _ => rfl) resumeBits_settled).halts
  halt _ e k h := (h.halt e k).mono fun _ => .inl
  resume _ e h := h.resumeMaybe e
  bracket s e k _ hf := (Leaves.mapBracket (p := fun _ => ()) (fun _ _ _ _ _ _ => rfl) s e k hf).halts

theorem signalled_halts (d : Nat) (who : Nat → Prop) : Signalled (State.Halts d who) := fun s g o =>
  (Leaves.signal (p := fun _ => ()) resumeBits_settled (fun _ _ _ _ => rfl) s g o).halts

end Sys2Proof.Machine
end

section
/-! The outcome failure (R190, R513). -/

namespace Sys2Proof.Machine

variable {α : Type} {p : Ledger → α} {K : Nat → Nat → Prop} {s t : State} {g : Group} {c : Cmd} {P Q : State → Prop}
  {x : Nat × Bracket} {err : Nat}

/-! The steps of a failure. -/

/-- The pending slots and magnitudes of the attempt go. -/
def State.failMerge (s : State) (g : Group) : State :=
  (s.moveSlots g C.ARY_SLOT_WASTED_REPLAY).each (s.members g) fun s x => s.mergeAmax g x.1 x.2 false

/-- A member takes the cause BRACKET_FAILED. -/
def State.failMark (g : Group) (s : State) (x : Nat × Bracket) : State :=
  (s.setCause x.1 g.ctx causeBit.bracketFailed).count (page x.1 B.NUM) C.NUM_BRACKETS_FAILED 1

/-- The record of the failure. -/
def State.failNote (g : Group) (err : Nat) (m : List (Nat × Bracket)) (s : State) : State :=
  match m.head? with
    | some (d, _) => s.numEvent d g.ctx 2 0 (wf g.words 2 16 16) (wf g.words 2 0 16) (wf g.words 2 32 1) err 0
    | none => s

/-- The bracket of a member closes; its LAYER_CLOSE fails, or its caller halts and its queue is drained. -/
def State.failMember (g : Group) (err : Nat) (s : State) (x : Nat × Bracket) : State :=
  let close := s.closeOf x.1 x.2
  let s := s.closeMember g x.1 x.2
  match close with
  | some c => s.fail c err 0
  | none =>
    let s := s.halt x.1 (s.callerOf x.1 x.2.queue)
    let s := s.setQueue (queueNo x.1 x.2.queue) { s.queue (queueNo x.1 x.2.queue) with drain := true }
    s.drainQueue x.1 x.2.queue (2 ^ s.qf x.1 x.2.queue R.QUEUE_W1_SIZE)

/-- The state in which the members of a failed bracket close. -/
def State.failBefore (s : State) (g : Group) (err : Nat) : State :=
  State.failNote g err (s.members g) ((s.failMerge g).each (s.members g) (State.failMark g))

theorem State.failBracket_eq (s : State) (g : Group) (err : Nat) :
    s.failBracket g err = ((s.failBefore g err).each (s.members g) (State.failMember g err)).endGroup g := rfl

section Settled
variable (hK : ∀ a i, K a i → settled a i)
include hK

theorem Leaves.failMerge (s : State) (hg : g.ctx < 2) : Leaves p K s (s.failMerge g) :=
  (Leaves.moveSlots hK s hg (by simp)).trans (.each _ _ fun t x _ => .mergeAmax hK t g x.1 x.2 false)

theorem Leaves.failMark (hn : NextBlind p) (s : State) (hx : x.1 < 4) (hsts : ∀ a i, K a i → ¬ stsBits x.1 g.ctx a i) :
    Leaves p K s (s.failMark g x) :=
  (Leaves.setCause hK hn s _ _ _ hsts).trans (.count hK _ _ (counts_num hx (by simp)))

theorem Leaves.failNote (s : State) {m : List (Nat × Bracket)} (hm : ∀ x ∈ m, x.1 < 4) :
    Leaves p K s (State.failNote g err m s) := by
  unfold State.failNote
  split
  next hhead => exact .numEvent hK s (hm _ (List.mem_of_mem_head? hhead)) _ _ _ _ _ _ _ _
  next => exact .refl s

theorem Leaves.failBefore (hn : NextBlind p) (s : State) (hg : g.ctx < 2)
    (hsts : ∀ x ∈ s.members g, ∀ a i, K a i → ¬ stsBits x.1 g.ctx a i) : Leaves p K s (s.failBefore g err) :=
  ((Leaves.failMerge hK s hg).trans (.each _ _ fun t x hx => .failMark hK hn t (State.members_lt hx) (hsts x hx))).trans
    (.failNote hK _ fun _ hx => State.members_lt hx)

end Settled

/-! A member closes. -/

/-- What the closed bracket shows stays when its LAYER_CLOSE fails or its queue is drained. -/
theorem Stable.failMember (hQ : Stable Q) (hsig : Signalled Q) (hx : x.1 < 4)
    (hgone : ∀ c, s.closeOf x.1 x.2 = some c → ∀ u, Q u → Q { u with cmds := u.cmds.filter fun y => y.id != c.id })
    (hdrain : ∀ u k z n, Q u → Q ((u.setQueue k z).drainQueue x.1 x.2.queue n))
    (hclose : Q (s.closeMember g x.1 x.2)) : Q (s.failMember g err x) := by
  unfold State.failMember
  extract_lets close s1 s2
  cases hc : close with
  | some c => exact hQ.complete hQ ((State.closeOf_eq_some hc).2.1 ▸ hx) (fun _ => hsig) (hgone c hc) _ _ _ _ hclose
  | none => exact hdrain _ _ _ _ (hQ.halt _ _ _ hclose)

section Shows
variable (hK : ∀ a i, K a i → settled a i) (hr : OffResume K) (hp : BracketBlind p) (hb : SignalBlind p)
  (hhead : ∀ i, ¬ K (page x.1 B.CAL + (R.QUEUE_W2_HEAD x.2.queue).off) i)
  (hfetch : ∀ i, ¬ K (page x.1 B.CAL + (R.QUEUE_W5_FETCH x.2.queue).off) i)
include hK hr hp hb hhead hfetch

theorem State.Shows.failMember {v : α} {w : Nat → Nat → Bool} (hx : x.1 < 4)
    (hgone : ∀ c, s.closeOf x.1 x.2 = some c → ∀ u : State, u.Shows p K v w →
      State.Shows p K v w { u with cmds := u.cmds.filter fun y => y.id != c.id })
    (hclose : (s.closeMember g x.1 x.2).Shows p K v w) : (s.failMember g err x).Shows p K v w :=
  (Stable.shows hK hr hp.jobs v w).failMember (signalled_shows hK hb v w) hx hgone
    (fun u k z n => ((Leaves.setQueue hb u k z).trans (.drainQueue hp hb hhead hfetch n _)).shows) hclose

end Shows

theorem bracketBlind_open (key : Nat) : BracketBlind (Ledger.open key) := fun _ d k f hs => State.open_mapBracket hs d k f key

/-- The members' brackets close one by one. -/
theorem State.failMembers_closed (hs : s.Tidy) {l : List (Nat × Bracket)} (hlt : ∀ x ∈ l, x.1 < 4)
    (hnodup : (l.map Prod.fst).Nodup) : ∀ x ∈ l, ((s.each l (State.failMember g err)).job x.1 g.ctx).bracket = none := by
  have hstep {key : Nat} {v : Bool} (y : Nat × Bracket) (hy : y ∈ l) {t : State}
      (h : State.Views (Ledger.open key) v (t.closeMember g y.1 y.2)) : State.Views (Ledger.open key) v (t.failMember g err y) :=
    State.Shows.failMember noBits_settled noBits_offResume (bracketBlind_open _) (fun _ _ _ _ => rfl) (fun _ => id) (fun _ => id)
      (hlt y hy) (fun c _ u hu => cmdBlind_shows (fun _ _ => rfl) _ _ u _ List.filter_sublist hu) h
  have hturns := State.each_turns Prod.fst (State.failMember g err) (fun _ => State.Tidy)
    (fun x => State.Views (Ledger.open (jobKey x.1 g.ctx)) false) l s hnodup
    (fun _ _ y hy _ t ht => (hstep (key := 0) y hy (.mk (State.closeMember_tidy t g y.1 y.2 ht))).1)
    (fun x _ y hy hxy t ht => hstep y hy
      ((Leaves.closeMember t y (jobBlind_open (by unfold jobKey; omega)) (fun _ => id) fun _ _ => False.elim).shows ht))
    (fun x hx t ht => hstep x hx ((Leaves.closeShown t x (fun _ => id) fun _ _ => False.elim).shows
        ⟨State.dropBracket_tidy x.1 g.ctx ht, State.open_dropBracket ht x.1 g.ctx, fun _ _ => False.elim⟩))
    (fun _ _ => hs)
  intro x hx
  obtain ⟨-, hopen, -⟩ := hturns x hx
  exact Option.isNone_iff_eq_none.1 (by simpa [State.open_ledger] using hopen)

/-- What no member's close touches. -/
theorem State.failMembers_shows (hK : ∀ a i, K a i → settled a i) (hr : OffResume K) (hp : BracketBlind p) (hb : SignalBlind p)
    (hc : CmdsBlind p) (hg : ∀ d, JobBlind p d g.ctx) {v : α} {w : Nat → Nat → Bool} (hs : s.Shows p K v w) {l : List (Nat × Bracket)}
    (hlt : ∀ x ∈ l, x.1 < 4) (hhead : ∀ x ∈ l, ∀ i, ¬ K (page x.1 B.CAL + (R.QUEUE_W2_HEAD x.2.queue).off) i)
    (hfetch : ∀ x ∈ l, ∀ i, ¬ K (page x.1 B.CAL + (R.QUEUE_W5_FETCH x.2.queue).off) i)
    (hshown : ∀ x ∈ l, ∀ a i, K a i → ¬ shownBits x.1 g.ctx a i) : (s.each l (State.failMember g err)).Shows p K v w :=
  List.foldlRecOn l _ hs fun t ht x hx => State.Shows.failMember hK hr hp hb (hhead x hx) (hfetch x hx) (hlt x hx)
    (fun _ _ u hu => cmdBlind_shows hc v w u _ List.filter_sublist hu)
    ((Leaves.closeMember t x (hg x.1) (hhead x hx) (hshown x hx)).shows ht)

end Sys2Proof.Machine
end

section
/-! What a failed bracket leaves on its members: the cause of the step, and the halted callers (R187, R190, R198). -/

namespace Sys2Proof.Machine

variable {α : Type} {p : Ledger → α} {K : Nat → Nat → Prop} {s t : State} {g : Group} {c : Cmd} {x : Nat × Bracket} {err : Nat}

/-! The cause. -/

/-- The bit of the cause BRACKET_FAILED. -/
def failedBit (d k a i : Nat) : Prop := stsBits d k a i ∧ i = 10

theorem stsBits_settled {d k : Nat} (hk : k < 2) : ∀ a i, stsBits d k a i → settled a i := by
  rintro a i rfl
  have hoff : (R.JCX_NUM_STS k).off = 0x110 + 8 * k := rfl
  obtain ⟨-, hblock, hrest⟩ := page_offset d (i := B.JCX) (off := (R.JCX_NUM_STS k).off) (by decide) (by omega)
  have hplain : accounting (page d B.JCX + (R.JCX_NUM_STS k).off) = false :=
    accounting_page d (by decide) (by decide) (by omega) (show 0x110 + 8 * k ≠ 0x30 by omega)
  exact ⟨hplain, by omega, .inl hblock⟩

/-- JCX_NUM_STS is a word of no other page and of no other context. -/
theorem stsBits_apart {d e k a i : Nat} (h : d ≠ e) (ha : stsBits d k a i) : ¬ stsBits e k a i := fun hb => by
  simp only [stsBits, page, R.JCX_NUM_STS] at ha hb
  omega

theorem stsBits_offCal {d e k off : Nat} (hk : k < 2) (hoff : off < 0x10000) (i : Nat) : ¬ stsBits d k (page e B.CAL + off) i :=
  fun h => by
    simp only [stsBits, page, R.JCX_NUM_STS, B.JCX, B.CAL] at h
    omega

theorem failedBit_settled {d k : Nat} (hk : k < 2) : ∀ a i, failedBit d k a i → settled a i := fun a i h => stsBits_settled hk a i h.1

theorem State.sampled_of_gates {t : State} (h : t.gates = s.gates) (d k : Nat) : t.sampled d k = s.sampled d k := by
  rw [State.sampled, State.sampled, State.gate, State.gate, h]

/-- Each member shows the cause BRACKET_FAILED, where the gate word of the step has not formed. -/
theorem State.failMarks_cause (hs : s.Tidy) (hg : g.ctx < 2) {l : List (Nat × Bracket)} (hlt : ∀ x ∈ l, x.1 < 4)
    (hnodup : (l.map Prod.fst).Nodup) : ∀ x ∈ l, s.sampled x.1 g.ctx = false →
      (s.each l (State.failMark g)).Shows (fun _ => ()) (failedBit x.1 g.ctx) () fun _ _ => true := by
  refine State.each_turns Prod.fst (State.failMark g) (fun _ => State.Views Ledger.gates s.gates)
    (fun x t => s.sampled x.1 g.ctx = false → t.Shows (fun _ => ()) (failedBit x.1 g.ctx) () fun _ _ => true) l s hnodup
    (fun x _ y hy _ t ht => ?_) (fun x _ y hy hxy t ht hsampled => ?_) (fun x hx t ht hsampled => ?_) fun _ _ => .mk hs
  · exact (Leaves.failMark noBits_settled (fun _ _ _ _ _ => rfl) t (hlt y hy) fun _ _ => False.elim).shows ht
  · exact (Leaves.failMark (failedBit_settled hg) (fun _ _ _ _ _ => rfl) t (hlt y hy)
      fun _ _ h => stsBits_apart hxy h.1).shows (ht hsampled)
  · obtain ⟨ht, hgates, -⟩ := ht
    refine (Leaves.count (failedBit_settled hg) _ _ (counts_num (hlt x hx) (by simp))).shows
      ⟨State.setCause_tidy _ _ _ _ ht, rfl, ?_⟩
    rintro a i ⟨rfl, rfl⟩
    rw [State.setCause_now ((State.sampled_of_gates hgates _ _).trans hsampled), State.putCauses_word ht, causesWord_bracketFailed,
      Nat.testBit_or, causeBit.bracketFailed, Nat.testBit_two_pow_self, Bool.or_true]

theorem State.on_of_testBit {pg off i : Nat} (h : (s.word (pg + off)).testBit i = true) : s.on pg ⟨off, i, 1⟩ = true := by
  rw [← bitOn_eq_testBit, bitOn, beq_iff_eq] at h
  rw [State.on, State.fld, h]
  rfl

theorem State.failBracket_cause (hs : s.Tidy) (hg : g.ctx < 2) (hq : ∀ x ∈ s.members g, x.2.queue < 64) :
    ∀ x ∈ s.members g, s.sampled x.1 g.ctx = false →
      (s.failBracket g err).on (page x.1 B.JCX) (R.JCX_NUM_STS_BRACKET_FAILED g.ctx) = true := by
  intro x hx hsampled
  have hlt : ∀ x ∈ s.members g, x.1 < 4 := fun x hx => State.members_lt hx
  obtain ⟨hmerge, hgates, -⟩ := Leaves.failMerge (p := Ledger.gates) noBits_settled s hg hs
  have hmarks := State.failMarks_cause hmerge hg hlt (s.members_nodup g) x hx
    ((State.sampled_of_gates hgates _ _).trans hsampled)
  have hnote := (Leaves.failNote (g := g) (err := err) (failedBit_settled hg) _ hlt).shows hmarks
  rw [State.failBracket_eq]
  obtain ⟨-, -, hbit⟩ := State.failMembers_shows (err := err) (failedBit_settled hg) (fun _ _ h => stsBits_offCal hg (by decide) _ h.1)
    (fun _ _ _ _ _ => rfl) (fun _ _ _ _ => rfl) (fun _ _ => rfl) (fun _ _ _ _ => rfl) hnote hlt
    (fun y hy _ h => stsBits_offCal hg (queueWord_lt ⟨_, hq y hy⟩ (by decide)) _ h.1)
    (fun y hy _ h => stsBits_offCal hg (queueWord_lt ⟨_, hq y hy⟩ (by decide)) _ h.1)
    (fun y _ a i h hshown => by
      have hrange := hshown.2
      have hten := h.2
      omega)
  exact State.on_of_testBit (hbit _ 10 ⟨rfl, rfl⟩)

/-! The callers. -/

/-- The bits of CALLER of a queue. -/
def callerBits (d q a i : Nat) : Prop := a = page d B.CAL + (R.QUEUE_W1_CALLER q).off ∧ 51 ≤ i

theorem callerBits_settled {d q : Nat} (hq : q < 64) : ∀ a i, callerBits d q a i → settled a i := by
  rintro a i ⟨rfl, hi⟩
  have hoff : (R.QUEUE_W1_CALLER q).off = 0x1008 + 64 * q := rfl
  obtain ⟨-, hblock, hrest⟩ := page_offset d (i := B.CAL) (off := (R.QUEUE_W1_CALLER q).off) (by decide) (by omega)
  have hmod : (page d B.CAL + (R.QUEUE_W1_CALLER q).off) % 64 = 8 := by omega
  exact ⟨accounting_queueWord d ⟨q, hq⟩ (off := 0x1008) (by decide) (by decide), by omega, .inr (.inr ⟨hblock, .inl hmod⟩)⟩

/-- The commands of a die. -/
def Ledger.cmdsOf (d : Nat) (l : Ledger) : List Cmd := l.cmds.filter fun c => c.die == d

theorem find?_of_filter {β : Type} {f g : β → Bool} (h : ∀ x, g x = true → f x = true) (l : List β) :
    (l.filter f).find? g = l.find? g := by
  rw [List.find?_filter]
  refine congrArg (List.find? · l) (funext fun x => ?_)
  cases hg : g x with
  | false => simp
  | true => simp [h x hg]

theorem State.closeOf_plain (s : State) (d : Nat) (b : Bracket) : (s.closeOf d b).map Cmd.plain
    = (s.ledger.cmdsOf d).find? fun c => c.die == d && c.queue == b.queue && c.stage == .close := by
  rw [Ledger.cmdsOf, find?_of_filter (fun c h => by simp only [Bool.and_eq_true] at h; exact h.1.1), State.ledger, List.find?_map]
  rfl

/-- Commands bear different identifiers. -/
theorem State.Tidy.id_inj (hs : s.Tidy) {x y : Cmd} (hx : x ∈ s.cmds) (hy : y ∈ s.cmds) (h : x.id = y.id) : x = y := by
  have hids : (s.cmds.map Cmd.id).Pairwise (· < ·) := (List.pairwise_append.1 hs.ids).1
  exact List.inj_on_of_nodup_map (hids.imp fun h => Nat.ne_of_lt h) hx hy h

/-- A command of another die that goes is none of the die's. -/
theorem State.cmdsOf_erase (hs : s.Tidy) (hc : c ∈ s.cmds) {d : Nat} (hd : c.die ≠ d) {u : State}
    (hu : u.ledger.cmdsOf d = s.ledger.cmdsOf d) :
    (State.ledger { u with cmds := u.cmds.filter fun y => y.id != c.id }).cmdsOf d = s.ledger.cmdsOf d := by
  have hkeep : ∀ y ∈ s.ledger.cmdsOf d, (y.id != c.id) = true := fun y hy => by
    obtain ⟨hmem, hdie⟩ := List.mem_filter.1 hy
    obtain ⟨z, hz, rfl⟩ := List.mem_map.1 hmem
    rw [bne_iff_ne]
    intro hid
    exact hd (hs.id_inj hz hc hid ▸ beq_iff_eq.1 hdie)
  have hmap : (State.ledger { u with cmds := u.cmds.filter fun y => y.id != c.id }).cmds
      = u.ledger.cmds.filter fun y => y.id != c.id := by
    simp only [State.ledger, List.filter_map]
    rfl
  rw [Ledger.cmdsOf, hmap, List.filter_comm]
  exact (congrArg (List.filter _) hu).trans (List.filter_eq_self.2 hkeep)

/-- A member whose caller has not halted yet: its commands, its caller, and no RESUME of its die asked for. -/
def State.Awaits (s : State) (x : Nat × Bracket) (t : State) : Prop :=
  t.Halts x.1 (fun _ => False) ∧ t.Shows (Ledger.cmdsOf x.1) (callerBits x.1 x.2.queue) (s.ledger.cmdsOf x.1)
    fun a i => (s.word a).testBit i

theorem Stable.awaits (s : State) (hq : x.2.queue < 64) : Stable (s.Awaits x) :=
  (Stable.halts _ _).and (.shows (callerBits_settled hq) (fun e i h => by
    have haddr := h.1
    simp only [page, R.QUEUE_W1_CALLER, R.CAL_RESUME] at haddr
    omega) (fun _ _ _ _ _ _ => rfl) _ _)

theorem signalled_awaits (s : State) (hq : x.2.queue < 64) : Signalled (s.Awaits x) :=
  (signalled_halts _ _).and (signalled_shows (callerBits_settled hq) (fun _ _ _ _ => rfl) _ _)

/-- HEAD and FETCH of a queue and the words of JCX hold no bit of CAL_RESUME and none of CALLER. -/
theorem resumeBits_offQueue {d e q off : Nat} (hq : q < 64) (hoff : 0x1000 ≤ off ∧ off < 0x2000) (i : Nat) :
    ¬ resumeBits d (page e B.CAL + (off + 64 * q)) i := fun h => by
  simp only [resumeBits, page, R.CAL_RESUME] at h
  omega

theorem callerBits_offQueue {d e q r off : Nat} (hoff : off % 64 ≠ 8) (i : Nat) :
    ¬ callerBits d q (page e B.CAL + (off + 64 * r)) i := fun h => by
  have haddr := h.1
  simp only [page, R.QUEUE_W1_CALLER] at haddr
  omega

theorem shownBits_offCal {d e k a i off : Nat} (hk : k < 2) (hoff : off < 0x10000) (ha : a = page e B.CAL + off) :
    ¬ shownBits d k a i := fun h => stsBits_offCal hk hoff i (ha ▸ h.1)

/-- A member closes, and nobody's commands, callers and RESUME change. -/
theorem State.Awaits.closeMember {y : Nat × Bracket} (h : s.Awaits x t) (hg : g.ctx < 2) (hx : x.2.queue < 64) (hy : y.2.queue < 64) :
    s.Awaits x (t.closeMember g y.1 y.2) :=
  ⟨(Leaves.closeMember (p := fun _ => ()) t y (fun _ _ _ => rfl) (resumeBits_offQueue hy (by decide))
      fun _ _ h => shownBits_offCal hg (by decide) h).halts h.1,
    (Leaves.closeMember t y (fun _ _ _ => rfl) (callerBits_offQueue (by decide))
      fun _ _ h => shownBits_offCal hg (queueWord_lt ⟨_, hx⟩ (by decide)) h.1).shows h.2⟩

/-- The drain of a queue resumes nobody. -/
theorem State.Halts.drain {d e q : Nat} {who : Nat → Prop} (hq : q < 64) (h : t.Halts d who) (k : Nat) (z : Queue) (n : Nat) :
    ((t.setQueue k z).drainQueue e q n).Halts d who :=
  ((Leaves.setQueue (p := fun _ => ()) (fun _ _ _ _ => rfl) t k z).trans (.drainQueue (fun _ _ _ _ _ => rfl) (fun _ _ _ _ => rfl)
    (resumeBits_offQueue hq (by decide)) (resumeBits_offQueue hq (by decide)) n _)).halts h

/-- Another member closes. -/
theorem State.Awaits.failOther {y : Nat × Bracket} (h : s.Awaits x t) (hg : g.ctx < 2) (hx : x.2.queue < 64) (hy : y.2.queue < 64)
    (hlt : y.1 < 4) (hxy : x.1 ≠ y.1) : s.Awaits x (t.failMember g err y) := by
  refine (Stable.awaits s hx).failMember (signalled_awaits s hx) hlt (fun c hc u hu => ?_) (fun u k z n hu => ?_) (h.closeMember hg hx hy)
  · obtain ⟨hmem, hdie, -, -⟩ := State.closeOf_eq_some hc
    obtain ⟨ht, hcmds, -⟩ := h.2
    obtain ⟨⟨-, hresume, -⟩, hu, hucmds, hbits⟩ := hu
    have hgone := hu.fewer (List.filter_sublist (p := fun y : Cmd => y.id != c.id)) (Nat.le_refl _)
    exact ⟨⟨hgone, hresume, nofun⟩, hgone,
      (State.cmdsOf_erase ht hmem (by omega) (hucmds.trans hcmds.symm)).trans hcmds, hbits⟩
  · exact ⟨hu.1.drain hy k z n, ((Leaves.setQueue (fun _ _ _ _ => rfl) u k z).trans (.drainQueue (fun _ _ _ _ _ => rfl)
      (fun _ _ _ _ => rfl) (callerBits_offQueue (by decide)) (callerBits_offQueue (by decide)) n _)).shows hu.2⟩

theorem State.Awaits.callerOf (h : s.Awaits x t) : t.callerOf x.1 x.2.queue = s.callerOf x.1 x.2.queue := by
  obtain ⟨-, -, -, hbits⟩ := h
  refine Nat.eq_of_testBit_eq fun i => ?_
  simp only [State.callerOf, State.qf, State.fld, testBit_bits]
  rw [hbits _ _ ⟨rfl, by simp only [R.QUEUE_W1_CALLER]; omega⟩]

/-- The caller of a member halts as the member closes. -/
theorem State.Awaits.failOwn (h : s.Awaits x t) (hg : g.ctx < 2) (hq : x.2.queue < 64) (hlt : x.1 < 4)
    (hclose : ∀ y, s.closeOf x.1 x.2 = some y → y.attempt = none) :
    (t.failMember g err x).Halts x.1 (· = s.callerOf x.1 x.2.queue) := by
  have hmember := h.closeMember hg hq hq
  have hhalt (u : State) (hu : s.Awaits x u) : (u.halt x.1 (u.callerOf x.1 x.2.queue)).Halts x.1 (· = s.callerOf x.1 x.2.queue) := by
    refine (hu.1.halt _ _).mono fun k hk => .inr ⟨rfl, ?_⟩
    rw [hu.callerOf, hk]
    exact ⟨rfl, s.fld_lt _ _⟩
  unfold State.failMember
  extract_lets close s1 s2
  cases hc : close with
  | none => exact (hhalt _ hmember).drain hq _ _ _
  | some c =>
    obtain ⟨-, hdie, hqueue, hstage⟩ := State.closeOf_eq_some hc
    have hattempt : c.attempt = none := by
      have hplain := (State.closeOf_plain t x.1 x.2).symm.trans (congrArg (Option.map Cmd.plain) hc)
      rw [h.2.2.1, ← State.closeOf_plain] at hplain
      obtain ⟨y, hy, hyc⟩ := Option.map_eq_some_iff.1 hplain
      exact (congrArg Cmd.attempt hyc).symm.trans (hclose y hy)
    have hhalts := Stable.halts x.1 (· = s.callerOf x.1 x.2.queue)
    refine (Stable.awaits s hq).complete_by (status := Status.ERROR) hhalts hhalts (hdie ▸ hlt) (fun h => absurd h (by decide))
      (fun h => absurd rfl h) (fun u e n hu => ?_) (fun u hu => ?_) s1 err 0 hmember
    · have herror : u.cmdError c e n = u.halt x.1 (u.callerOf x.1 x.2.queue) := by
        simp only [State.cmdError, hattempt, hstage, hdie, hqueue]
        rfl
      exact herror ▸ hhalt u hu
    · exact ⟨hu.1.fewer List.filter_sublist (Nat.le_refl _), hu.2⟩

/-- Another member closes, and those halted stay so. -/
theorem State.Halts.failOther {who : Nat → Prop} {y : Nat × Bracket} {d : Nat} (h : t.Halts d who) (hg : g.ctx < 2)
    (hy : y.2.queue < 64) (hlt : y.1 < 4) : (t.failMember g err y).Halts d who :=
  (Stable.halts d who).failMember (signalled_halts d who) hlt
    (fun _ _ u hu => ⟨hu.1.fewer List.filter_sublist (Nat.le_refl _), hu.2⟩) (fun u k z n hu => hu.drain hy k z n)
    ((Leaves.closeMember (p := fun _ => ()) t y (fun _ _ _ => rfl) (resumeBits_offQueue hy (by decide))
      fun _ _ h => shownBits_offCal hg (by decide) h).halts h)

/-- What precedes the close of the members leaves their commands and callers. -/
theorem State.failBefore_awaits (hs : s.Tidy) (hg : g.ctx < 2) (hx : x.2.queue < 64)
    (hresume : s.fld (page x.1 B.CAL) R.CAL_RESUME_RESUME = 0) : s.Awaits x (s.failBefore g err) :=
  ⟨(Leaves.failBefore (p := fun _ => ()) resumeBits_settled (fun _ _ _ _ _ => rfl) s hg
      fun _ _ a i h hb => stsBits_offCal hg (by decide) i (h ▸ hb)).halts ⟨hs, hresume, nofun⟩,
    (Leaves.failBefore (callerBits_settled hx) (fun _ _ _ _ _ => rfl) s hg
      fun _ _ a i h hb => stsBits_offCal hg (queueWord_lt ⟨_, hx⟩ (by decide)) i (h.1 ▸ hb)).shows ⟨hs, rfl, fun _ _ _ => rfl⟩⟩

/-- R187, R190: where no RESUME is asked for, the members' callers halt. -/
theorem State.failBracket_halts (hs : s.Tidy) (hg : g.ctx < 2) (hq : ∀ x ∈ s.members g, x.2.queue < 64) :
    ∀ x ∈ s.members g, (∀ y, s.closeOf x.1 x.2 = some y → y.attempt = none) → s.fld (page x.1 B.CAL) R.CAL_RESUME_RESUME = 0 →
      (s.failBracket g err).halted x.1 (s.callerOf x.1 x.2.queue) = true := by
  intro x hx hclose hresume
  have hturns := State.each_turns Prod.fst (State.failMember g err)
    (fun x t => s.fld (page x.1 B.CAL) R.CAL_RESUME_RESUME = 0 → s.Awaits x t)
    (fun x t => (∀ y, s.closeOf x.1 x.2 = some y → y.attempt = none) → s.fld (page x.1 B.CAL) R.CAL_RESUME_RESUME = 0 →
      t.Halts x.1 (· = s.callerOf x.1 x.2.queue)) (s.members g) (s.failBefore g err) (s.members_nodup g)
    (fun x hx y hy hxy t ht h => (ht h).failOther hg (hq x hx) (hq y hy) (State.members_lt hy) hxy)
    (fun x _ y hy _ t ht h1 h2 => (ht h1 h2).failOther hg (hq y hy) (State.members_lt hy))
    (fun x hx t ht h1 h2 => (ht h2).failOwn hg (hq x hx) (State.members_lt hx) h1)
    (fun x hx => State.failBefore_awaits hs hg (hq x hx))
  exact (hturns x hx hclose hresume).2.2 _ rfl

/-- R190: a failure closes the brackets of the members, and the bracket leaves the floor. -/
theorem State.failBracket_closes (hs : s.Tidy) (hg : g.ctx < 2) :
    (∀ x ∈ s.members g, ((s.failBracket g err).job x.1 g.ctx).bracket = none)
      ∧ (s.failBracket g err).groups = s.groups.filter fun x => x.id != g.id := by
  have hlt : ∀ x ∈ s.members g, x.1 < 4 := fun x hx => State.members_lt hx
  have hbefore := (Leaves.failBefore (err := err) (p := Ledger.groups) noBits_settled (fun _ _ _ _ _ => rfl) s hg
    fun _ _ _ _ => False.elim).shows (State.Views.mk hs)
  have hgroups := State.failMembers_shows (g := g) (err := err) noBits_settled noBits_offResume (fun _ _ _ _ _ => rfl)
    (fun _ _ _ _ => rfl) (fun _ _ => rfl) (fun _ _ _ _ => rfl) hbefore hlt (fun _ _ _ => id) (fun _ _ _ => id)
    (fun _ _ _ _ => False.elim)
  rw [State.failBracket_eq]
  exact ⟨State.failMembers_closed hbefore.1 hlt (s.members_nodup g), congrArg (List.filter _) hgroups.2.1⟩

end Sys2Proof.Machine
end

section
/-! The outcome of a bracket, and the end of a commit-add list (R187–R192). -/

namespace Sys2Proof.Machine

variable {s t : State} {g : Group} {d k : Nat} {b : Bracket}

/-- The outcome of a bracket whose members have all reached their close, where no list runs yet. -/
theorem State.bracketOutcome_eq (hgroup : s.groupOf d k = some g) (hreached : (openDies g.words).all (s.reached g) = true)
    (hadding : (s.members g).any (fun x => x.2.adding) = false) : s.bracketOutcome d k = match s.outcomeOf g with
      | .commit => s.commitStart g
      | .replay => s.replayBracket g
      | .failed e => s.failBracket g e := by
  unfold State.bracketOutcome
  rw [hgroup]
  simp only [hreached, hadding]
  rfl

/-- The list of a member whose granules have landed is done. -/
theorem State.commitAddDone_eq (hgroup : s.groupOf d k = some g) (hb : (s.job d k).bracket = some b) (hadding : b.adding = true)
    (hadded : b.added = false) (hlanded : ∀ x, s.closeOf d b = some x → s.allLanded x.id = true) :
    s.commitAddDone d k = (s.mapBracket d k fun b => { b with added := true }).commitMaybe g := by
  unfold State.commitAddDone
  rw [hgroup, hb]
  refine if_pos ?_
  rw [hadding, hadded]
  cases hc : s.closeOf d b with
  | none => rfl
  | some c =>
    have hland := hlanded c hc
    simp only [State.allLanded, Bool.not_eq_true'] at hland
    simp [hland]

/-- A bracket whose list is done. -/
def Bracket.addDone (d e : Nat) (b : Bracket) : Bracket := if e = d then { b with added := true } else b

theorem State.addDone_members (hs : s.Tidy) : (s.mapBracket d g.ctx fun b => { b with added := true }).members g
    = (s.members g).map fun x => (x.1, x.2.addDone d x.1) := by
  refine State.members_map (f := Bracket.addDone d) (fun e b => ?_) (fun _ _ => rfl) (fun x hx => ?_) fun e he => ?_
  · unfold Bracket.addDone
    split <;> rfl
  · unfold Bracket.addDone
    split
    next h => rw [h, State.bracket_mapBracket_same hs, ← h, State.members_bracket hx]; rfl
    next h => rw [State.bracket_mapBracket_apart h, State.members_bracket hx]
  · by_cases h : e = d
    · subst h
      rw [State.memberOf, State.bracket_mapBracket_same hs]
      rw [State.memberOf, Option.filter_eq_none_iff] at he
      rw [Option.filter_eq_none_iff]
      intro _ hafter
      obtain ⟨b, hb, rfl⟩ := Option.map_eq_some_iff.1 hafter
      exact he b hb
    · rw [State.memberOf, State.bracket_mapBracket_apart h]
      exact he

/-- R188, R192: the last list that is done closes the brackets of the members. -/
theorem State.addDone_closes (hs : s.Tidy) (hg : g.ctx < 2) (hothers : ∀ x ∈ s.members g, x.1 ≠ d → x.2.added = true) :
    let t := (s.mapBracket d g.ctx fun b => { b with added := true }).commitMaybe g
    (∀ x ∈ s.members g, (t.job x.1 g.ctx).bracket = none) ∧ t.groups = s.groups.filter fun x => x.id != g.id := by
  have hmembers := State.addDone_members (d := d) (g := g) hs
  have hall : ((s.mapBracket d g.ctx fun b => { b with added := true }).members g).all (fun x => x.2.added) = true := by
    rw [hmembers, List.all_map, List.all_eq_true]
    intro x hx
    by_cases h : x.1 = d
    · simp [Bracket.addDone, h]
    · simp [Bracket.addDone, h, hothers x hx h]
  obtain ⟨hclosed, hgroups⟩ := State.commitFinish_closes (g := g)
    (State.mapBracket_tidy s d g.ctx (fun b => { b with added := true }) hs) hg
  rw [State.commitMaybe, if_pos hall]
  refine ⟨fun x hx => hclosed (x.1, x.2.addDone d x.1) ?_, hgroups⟩
  rw [hmembers]
  exact List.mem_map_of_mem (f := fun x : Nat × Bracket => (x.1, x.2.addDone d x.1)) hx

/-- While a list of another member runs the bracket waits. -/
theorem State.addDone_waits (hs : s.Tidy) (hother : ∃ x ∈ s.members g, x.1 ≠ d ∧ x.2.added = false) :
    (s.mapBracket d g.ctx fun b => { b with added := true }).commitMaybe g
      = s.mapBracket d g.ctx fun b => { b with added := true } := by
  obtain ⟨x, hx, hxd, hadded⟩ := hother
  refine if_neg fun hall => ?_
  rw [State.addDone_members hs, List.all_map, List.all_eq_true] at hall
  have hdone := hall x hx
  simp [Bracket.addDone, hxd, hadded] at hdone

end Sys2Proof.Machine
end

section
/-! A command without checks that is taken (R161, R253): its row runs it on a state in which it has joined the dispatched ones,
and brackets, groups, cells and the words of JCX are as they were. -/

namespace Sys2Proof.Machine

variable {α : Type} {p : Ledger → α} {K : Nat → Nat → Prop} {s t : State} {d q : Nat} {h : Head} {c : Cmd}

/-! The head. -/

theorem mkHead_words {legacy poisoned : Bool} {w : List Nat} (hl : (mkHead d legacy poisoned w).legacy = false)
    (hp : (mkHead d legacy poisoned w).poisoned = false) :
    (mkHead d legacy poisoned w).words = some w ∧ (mkHead d legacy poisoned w).opc = hOpc w := by
  cases poisoned with
  | true => cases hp
  | false => cases legacy with
    | true => cases hl
    | false => exact ⟨rfl, rfl⟩

/-- A head of the second format that is not poisoned shows its words. -/
theorem State.headOf_words {ext : HostSlot} (hhead : s.headOf d q ext = some h) (hl : h.legacy = false)
    (hp : h.poisoned = false) : h.words = some h.cmdWords ∧ h.opc = hOpc h.cmdWords := by
  have hmk : ∃ legacy poisoned w, h = mkHead d legacy poisoned w := by
    unfold State.headOf at hhead
    extract_lets legacy n a slot at hhead
    split at hhead
    · exact ⟨_, _, _, (Option.some.inj hhead).symm⟩
    · split at hhead
      · exact ⟨_, _, _, (Option.some.inj hhead).symm⟩
      · split at hhead
        · exact ⟨_, _, _, (Option.some.inj hhead).symm⟩
        · cases hhead
  obtain ⟨legacy, poisoned, w, rfl⟩ := hmk
  obtain ⟨hwords, hopc⟩ := mkHead_words hl hp
  rw [Head.cmdWords, hwords]
  exact ⟨rfl, hopc⟩

/-- What it is that a command of the second format is taken. -/
theorem State.takes_facts {d : Fin 4} {q : Fin 64} {ext : HostSlot} {opc : Nat} (ht : s.takes d q ext h false opc = true) :
    s.taken d q ext h = true ∧ h.legacy = false ∧ rowOf opc h = true ∧ h.words = some h.cmdWords ∧ hOpc h.cmdWords = opc
      ∧ h.poisoned = false ∧ s.fixedOutcome d q h = none := by
  simp only [State.takes, Bool.and_eq_true, beq_iff_eq] at ht
  obtain ⟨⟨htaken, hlegacy⟩, rfl⟩ := ht
  obtain ⟨-, -, -, hhead, hfixed, -⟩ := State.taken_iff.1 htaken
  have hpoisoned := State.not_poisoned_of_fixedOutcome hfixed
  obtain ⟨hwords, hopc⟩ := State.headOf_words hhead hlegacy hpoisoned
  exact ⟨htaken, hlegacy, by simp [rowOf, hpoisoned], hwords, hopc.symm, hpoisoned, hfixed⟩

/-- A command that no bracket admits is taken outside brackets. -/
theorem State.takes_outside {d : Fin 4} {q : Fin 64} {ext : HostSlot} {opc : Nat} (ht : s.takes d q ext h false opc = true)
    (hopc : bracketAdmits opc = false) : s.bracketOf d q = none := by
  obtain ⟨htaken, -, -, -, hwords, -⟩ := State.takes_facts ht
  obtain ⟨-, -, -, -, -, -, -, -, hbracket⟩ := State.taken_iff.1 htaken
  rw [hwords, hopc] at hbracket
  exact Option.isNone_iff_eq_none.1 (hbracket.resolve_right Bool.false_ne_true)

/-- A LAYER_CLOSE is taken inside its bracket. -/
theorem State.takes_inside {d : Fin 4} {q : Fin 64} {ext : HostSlot} (ht : s.takes d q ext h false Opc.LAYER_CLOSE = true) :
    (s.bracketOf d q).isSome = true := by
  obtain ⟨-, -, -, hwords, hopc, hpoisoned, hfixed⟩ := State.takes_facts ht
  have hclose : (!h.poisoned && hOpc h.cmdWords == Opc.LAYER_CLOSE && h.words.isSome) = true := by
    simp [hpoisoned, hopc, hwords]
  unfold State.fixedOutcome at hfixed
  simp only [hclose] at hfixed
  cases hb : s.bracketOf d q with
  | some b => rfl
  | none =>
    exfalso
    simp only [hb] at hfixed
    split at hfixed
    · cases hfixed
    · split at hfixed
      · cases hfixed
      · split at hfixed <;> simp at hfixed

/-- A STEP_GATE does not signal (R200). -/
theorem State.takes_gate {d : Fin 4} {q : Fin 64} {ext : HostSlot} (ht : s.takes d q ext h false Opc.STEP_GATE = true) :
    hSigEn h.cmdWords = false := by
  obtain ⟨-, -, -, hwords, hopc, hpoisoned, hfixed⟩ := State.takes_facts ht
  by_contra hsig
  have hinvalid : s.invalid d q h.cmdWords = true := by
    simp only [State.invalid, hopc, Bool.eq_true_of_not_eq_false hsig, Bool.or_eq_true, Bool.and_eq_true]
    simp
  have hrefusal : s.refusal d q h = some (Err.CMD_INVALID, 0) := by
    simp [State.refusal, hpoisoned, hwords, hinvalid]
  unfold State.fixedOutcome at hfixed
  simp only [hrefusal] at hfixed
  split at hfixed
  · cases hfixed
  · split at hfixed <;> cases hfixed

/-- Its caller halts after the run, where a window that asks for it ends (R264). -/
def State.windowHalt (s : State) (b : Bool) (d q : Nat) : State := if b then s.halt d (s.callerOf d q) else s

/-- The row of a command without checks. -/
theorem State.dispatch_runs {d : Fin 4} {q : Fin 64} {ext : HostSlot} {opc : Nat} (hs : s.Tidy)
    (ht : s.takes d q ext h false opc = true) (hcredit : s.credit d opc = true) (run : State → Cmd → State) :
    ∃ u b, Requeued s u ∧ s.v2 d q ext opc noPrep run
      = (run (u.enrolHead d q h (s.mkCmd d q h)) (s.mkCmd d q h)).windowHalt b d q := by
  obtain ⟨htaken, hlegacy, hrow, -, hopc, -, -⟩ := State.takes_facts ht
  have hclears : s.clears d q h noPrep = true := by
    rw [State.clears, hopc, hcredit]
    rfl
  obtain ⟨u, hu, houtcome, hdispatch⟩ := State.dispatch_of_taken (run := run) hs htaken hrow hclears fun _ _ => rfl
  refine ⟨u, ((u.passHead d q (s.mkCmd d q h)).closeWindow d q).2, hu, ?_⟩
  rw [hlegacy] at hdispatch
  rw [State.v2, hdispatch, State.take_eq houtcome]
  rfl

theorem Leaves.windowHalt (hK : ∀ a i, K a i → settled a i) (hr : OffResume K) (hp : JobsBlind p) (s : State) (b : Bool) (d q : Nat) :
    Leaves p K s (s.windowHalt b d q) := by
  unfold State.windowHalt
  split
  · exact .halt hK hr hp s _ _
  · exact .refl s

theorem KeepsTake.windowHalt {d : Fin 4} {q : Fin 64} (s : State) (b : Bool) : KeepsTake d q s (s.windowHalt b d q) :=
  .ite (.halt _ _) (.refl _)

end Sys2Proof.Machine
end

section
/-! What the take of a head leaves of brackets, groups, cells and registers (R161, R246, R252, R602). -/

namespace Sys2Proof.Machine

variable {α : Type} {p : Ledger → α} {K : Nat → Nat → Prop} {s t : State} {d : Fin 4} {q : Fin 64} {h : Head} {c : Cmd}

/-- The view shows neither the dispatched commands nor what callers keep of queues and waits. -/
def TakeBlind (p : Ledger → α) : Prop := ∀ (l : Ledger) (cs : List Cmd) (n : Nat) (ws : List Wait) (qs : Table Queue),
  p { l with cmds := cs, nextId := n, waits := ws, queues := qs } = p l

/-- The view does not show what callers keep of queues. -/
def QueuesBlind (p : Ledger → α) : Prop := ∀ (l : Ledger) (qs : Table Queue), p { l with queues := qs } = p l

theorem TakeBlind.queues (hp : TakeBlind p) : QueuesBlind p := fun l => hp l l.cmds l.nextId l.waits

theorem counts_dispatched (d : Fin 4) {f : Fld} (hf : f ∈ [C.CAL_CMDS_DISPATCHED, C.CAL_LEGACY_CMDS]) :
    Counts (page d B.CAL) f := by
  unfold Counts
  revert d f
  decide

theorem counts_caller (d : Fin 4) (k : Fin 8) : Counts (page d B.PMU) (C.PMU_CALLER_DISPATCHED k) := by
  unfold Counts
  revert d k
  decide

section Settled
variable (hK : ∀ a i, K a i → settled a i)
include hK

theorem Leaves.chargeHead (s : State) (d q : Nat) (c : Cmd) : Leaves p K s (s.chargeHead d q c) := by
  unfold State.chargeHead
  extract_lets space t1 t2
  have hhif : Counts (hifPage (space - 1)) C.HIF_RX_BYTES := by
    have hspace : space < 4 := State.fld_lt s (page d B.CAL) (R.QUEUE_W1_SPACE q)
    clear_value space
    unfold Counts
    revert space
    decide
  have h1 : Leaves p K s t1 := .ite (.countRead hK s _ _ _) (.count hK s _ hhif)
  have h2 : Leaves p K t1 t2 := .ite (.refl t1) (.countRead hK t1 _ _ _)
  exact (h1.trans h2).trans (.each _ t2 fun t r _ => .countRead hK t _ _ _)

/-- What precedes the consumption of the head. -/
theorem Leaves.chargedHead (hq : QueuesBlind p) (s : State) (d q : Nat) (c : Cmd) :
    Leaves p K s ((if s.chosenOf d (s.callerOf d q) = some q then s.chargeHead d q c
      else (s.chargeHead d q c).ageRivals d q).choose d (s.callerOf d q) none) := by
  refine (Leaves.trans (.chargeHead hK s d q c) (.ite (.refl _) (.each _ _ fun t r _ => ?_))).before rfl rfl
    (State.choose_tidy _ _ _ _)
  exact .of_ledger (State.setQueue_tidy _ _) (hq t.ledger _) rfl

end Settled

theorem State.bracketOf_of_leaves (hs : s.Tidy) (h : Leaves Ledger.jobs (callerBits d q) s t) : t.bracketOf d q = s.bracketOf d q := by
  have hctx : t.ctxOf d q = s.ctxOf d q := h.fld hs fun i hi _ => ⟨rfl, by simp only [R.QUEUE_W1_CONTEXT] at hi; omega⟩
  have hjobs : t.jobs = s.jobs := (h hs).2.1
  rw [State.bracketOf, State.bracketOf, hctx, State.job, State.job, hjobs]

section Pass
variable (hK : ∀ a i, K a i → settled a i) (hfetch : ∀ i, ¬ K (page d B.CAL + (R.QUEUE_W5_FETCH q).off) i)
include hK hfetch

/-- Outside brackets HEAD goes on. -/
theorem Leaves.passHead_outside (hp : QueuesBlind p) (hhead : ∀ i, ¬ K (page d B.CAL + (R.QUEUE_W2_HEAD q).off) i) (hs : s.Tidy)
    (hb : s.bracketOf d q = none) (c : Cmd) : Leaves p K s (s.passHead d q c) := by
  have hcharged := Leaves.chargedHead (p := Ledger.jobs) (callerBits_settled (d := d) q.isLt) (fun _ _ => rfl) s d q c
  have hbracket := (State.bracketOf_of_leaves hs hcharged).trans hb
  refine (Leaves.chargedHead hK hp s d q c).trans ?_
  show Leaves p K _ (State.consume _ d q)
  unfold State.consume
  rw [hbracket]
  exact (Leaves.ite (.put _ _ _ _ (show 32 + 16 ≤ 64 by decide) fun i _ _ => hfetch i) (.refl _)).trans
    (.put _ _ _ _ (show 0 + 32 ≤ 64 by decide) fun i _ _ => hhead i)

/-- Inside a bracket the bracket counts the command. -/
theorem Leaves.passHead_inside (hp : QueuesBlind p) (hbb : BracketBlind p) (hs : s.Tidy) (hb : (s.bracketOf d q).isSome = true)
    (c : Cmd) : Leaves p K s (s.passHead d q c) := by
  have hcharged := Leaves.chargedHead (p := Ledger.jobs) (callerBits_settled (d := d) q.isLt) (fun _ _ => rfl) s d q c
  have hbracket := (congrArg Option.isSome (State.bracketOf_of_leaves hs hcharged)).trans hb
  refine (Leaves.chargedHead hK hp s d q c).trans ?_
  show Leaves p K _ (State.consume _ d q)
  unfold State.consume
  rw [if_pos hbracket]
  exact (Leaves.ite (.put _ _ _ _ (show 32 + 16 ≤ 64 by decide) fun i _ _ => hfetch i) (.refl _)).trans
    fun hs => ⟨State.mapBracket_tidy _ _ _ _ hs, hbb _ _ _ _ hs, fun _ _ _ => rfl⟩

end Pass

section Enrol
variable (hK : ∀ a i, K a i → settled a i)
include hK

/-- What follows the command in the list of the dispatched ones counts it. -/
theorem Leaves.enrolled (s : State) (h : Head) (c : Cmd) :
    Leaves p K (((s.passHead d q c).closeWindow d q).1.enlist c) (s.enrolHead d q h c) := by
  unfold State.enrolHead
  extract_lets s0 s1 s2 s3 s4
  have hcal (t : State) {f : Fld} (hf : f ∈ [C.CAL_CMDS_DISPATCHED, C.CAL_LEGACY_CMDS]) :
      Leaves p K t (t.count (page d B.CAL) f 1) := .count hK t 1 (counts_dispatched d hf)
  have hcaller (t : State) (k : Fin 8) : Leaves p K t (t.count (page d B.PMU) (C.PMU_CALLER_DISPATCHED k) 1) :=
    .count hK t 1 (counts_caller d k)
  have h1 : Leaves p K s0 s1 := .put s0 _ _ _ (show 44 + 1 ≤ 64 by decide) fun i h1 h2 hk => (hK _ i hk).2.1 ⟨by
    simp only [R.QUEUE_W1_OUTSTANDING, page]
    omega, by
    simp only [R.QUEUE_W1_OUTSTANDING] at h1 h2
    omega⟩
  have h3 : Leaves p K s1 s3 := (hcal s1 (by simp)).trans (.ite (hcal s2 (by simp)) (.refl s2))
  have h4 : Leaves p K s3 s4 := hcaller s3 ⟨_, s3.callerOf_lt d q⟩
  refine ((h1.trans h3).trans h4).trans ?_
  unfold State.sampleDispatch
  extract_lets pg t x
  exact .ite ((Leaves.resolveTag hK s4 d.isLt).trans (.ite (.setSampler t d _) (.setSampler t d _))) (.refl s4)

omit hK in
/-- The command joins the dispatched ones, and what its caller kept of the head goes. -/
theorem Leaves.enlist (hp : TakeBlind p) (s : State) (c : Cmd) : Leaves p K s ((s.closeWindow d q).1.enlist c) :=
  .of_ledger (fun hs => State.enlist_tidy _ c (State.closeWindow_tidy s d q hs)) (hp s.ledger _ _ _ _) rfl

theorem Leaves.enrolHead_outside (hp : TakeBlind p) (hfetch : ∀ i, ¬ K (page d B.CAL + (R.QUEUE_W5_FETCH q).off) i)
    (hhead : ∀ i, ¬ K (page d B.CAL + (R.QUEUE_W2_HEAD q).off) i) (hs : s.Tidy) (hb : s.bracketOf d q = none) (h : Head) (c : Cmd) :
    Leaves p K s (s.enrolHead d q h c) :=
  ((Leaves.passHead_outside hK hfetch hp.queues hhead hs hb c).trans (.enlist hp _ c)).trans (.enrolled hK s h c)

theorem Leaves.enrolHead_inside (hp : TakeBlind p) (hbb : BracketBlind p)
    (hfetch : ∀ i, ¬ K (page d B.CAL + (R.QUEUE_W5_FETCH q).off) i) (hs : s.Tidy) (hb : (s.bracketOf d q).isSome = true) (h : Head)
    (c : Cmd) : Leaves p K s (s.enrolHead d q h c) :=
  ((Leaves.passHead_inside hK hfetch hp.queues hbb hs hb c).trans (.enlist hp _ c)).trans (.enrolled hK s h c)

end Enrol

theorem State.waits_ledger (s : State) : s.ledger.waits = s.waits := rfl

theorem State.waits_enlist (s : State) (c : Cmd) :
    ((s.closeWindow d q).1.enlist c).waits = s.waits.filter fun w => w.queue != queueNo d q := rfl

/-- No wait is added. -/
theorem State.enrolHead_waits (hs : s.Tidy) (hb : s.bracketOf d q = none) (h : Head) (c : Cmd) :
    (s.enrolHead d q h c).waits ⊆ s.waits := by
  obtain ⟨ht, hpass, -⟩ := Leaves.passHead_outside (p := Ledger.waits) noBits_settled (fun _ => id) (fun _ _ => rfl) (fun _ => id)
    hs hb c hs
  obtain ⟨-, hrest, -⟩ := Leaves.enrolled (p := Ledger.waits) (d := d) (q := q) noBits_settled s h c
    (State.enlist_tidy _ c (State.closeWindow_tidy _ d q ht))
  rw [State.waits_ledger, State.waits_ledger] at hpass hrest
  rw [hrest, State.waits_enlist, hpass]
  exact fun w hw => (List.mem_filter.1 hw).1

end Sys2Proof.Machine
end

section
/-! The rows of LAYER_CLOSE and STEP_GATE that wait (R182, R187, R200). -/

namespace Sys2Proof.Machine

variable {α : Type} {p : Ledger → α} {K : Nat → Nat → Prop} {s t u : State} {d : Fin 4} {q : Fin 64} {h : Head} {c : Cmd}
  {ext : HostSlot} {opc : Nat}

/-- What the take of a head leaves of the ledger. -/
def Ledger.rest (l : Ledger) : Ledger := { l with cmds := [], nextId := 0, waits := [], queues := [] }

theorem takeBlind_rest : TakeBlind Ledger.rest := fun _ _ _ _ _ => rfl

/-- The settled bits but those of HEAD. -/
def passBits (d q a i : Nat) : Prop := settled a i ∧ ¬ headBits d q a i

theorem passBits_settled {d q : Nat} : ∀ a i, passBits d q a i → settled a i := fun _ _ => And.left

theorem passBits_offFetch (i : Nat) : ¬ passBits d q (page d B.CAL + (R.QUEUE_W5_FETCH q).off) i := fun h => by
  obtain ⟨⟨-, -, hblock⟩, -⟩ := h
  have hoff : (R.QUEUE_W5_FETCH q).off = 0x1028 + 64 * q := rfl
  obtain ⟨-, hcal, hrest⟩ := page_offset d (i := B.CAL) (off := (R.QUEUE_W5_FETCH q).off) (by decide) (by omega)
  have hmod : (page d B.CAL + (R.QUEUE_W5_FETCH q).off) % 64 = 40 := by omega
  rw [hcal, hmod] at hblock
  revert hblock
  decide

theorem Requeued.leaves (hr : Requeued s u) (hp : QueuesBlind p) : Leaves p K s u := .of_ledger (fun _ => hr.tidy)
  (hr.part (fun x => p x.ledger) fun x l _ => hp x.ledger l) (hr.part State.regs fun _ _ _ => rfl)

theorem Requeued.enrols (hr : Requeued s u) (h : Head) (x : Head) :
    (u.enrolHead d q h (s.mkCmd d q x)).Tidy
      ∧ (u.enrolHead d q h (s.mkCmd d q x)).takeView d q = (s.takeView d q).passed.joined (s.mkCmd d q x) := by
  have hview : u.takeView d q = s.takeView d q := hr.part (State.takeView · d q) fun _ _ _ => rfl
  have hnext : u.nextId = s.nextId := congrArg TakeView.nextId hview
  obtain ⟨htidy, henrolled⟩ := State.enrolHead_takeView (d := d) (q := q) (c := s.mkCmd d q x) hr.tidy h hnext.symm
  exact ⟨htidy, henrolled.trans (congrArg (fun v : TakeView => v.passed.joined (s.mkCmd d q x)) hview)⟩

/-- The row of a command that no bracket admits. -/
theorem State.row_outside (hs : s.Tidy) (ht : s.takes d q ext h false opc = true) (hopc : bracketAdmits opc = false)
    (hcredit : s.credit d opc = true) (run : State → Cmd → State) :
    ∃ u b, s.v2 d q ext opc noPrep run = (run u (s.mkCmd d q h)).windowHalt b d q ∧ u.Tidy
      ∧ u.takeView d q = (s.takeView d q).passed.joined (s.mkCmd d q h) ∧ u.waits ⊆ s.waits
      ∧ Leaves Ledger.rest (passBits d q) s u := by
  obtain ⟨u, b, hr, hrow⟩ := State.dispatch_runs hs ht hcredit run
  have hb : u.bracketOf d q = none := (congrFun (congrFun hr.bracketOf d) q).trans (State.takes_outside ht hopc)
  obtain ⟨htidy, hview⟩ := hr.enrols (d := d) (q := q) h h
  refine ⟨_, b, hrow, htidy, hview, ?_, (hr.leaves takeBlind_rest.queues).trans
    (.enrolHead_outside passBits_settled takeBlind_rest passBits_offFetch (fun i h => h.2 rfl) hr.tidy hb h _)⟩
  exact (hr.part State.waits fun _ _ _ => rfl : u.waits = s.waits) ▸ State.enrolHead_waits hr.tidy hb h _

/-- A view that the take leaves. -/
theorem Leaves.of_rest (h : Leaves Ledger.rest (passBits d q) s u) (hp : ∀ l, p l = p l.rest)
    (hK : ∀ a i, K a i → passBits d q a i) : Leaves p K s u :=
  h.weaken (fun x y hxy => (hp x).trans ((congrArg p hxy).trans (hp y).symm)) hK

/-- Its command is the last one. -/
theorem State.enrolled_mem (hview : u.takeView d q = (s.takeView d q).passed.joined c) : c.request ∈ u.cmds.map Cmd.request := by
  have hrequests : u.cmds.map Cmd.request = s.cmds.map Cmd.request ++ [c.request] := congrArg TakeView.requests hview
  rw [hrequests]
  simp

theorem State.enrolled_headNo (hview : u.takeView d q = (s.takeView d q).passed.joined c) :
    u.headNo d q = (s.headNo d q + 1) % 2 ^ 32 ∧ u.nextId = s.nextId + 1 :=
  ⟨congrArg TakeView.headNo hview, congrArg TakeView.nextId hview⟩

theorem State.enrolled_mem_eq (hview : u.takeView d q = (s.takeView d q).passed.joined c) : u.mem = s.mem :=
  congrArg TakeView.mem hview

/-- A command that stands where its row has led it, after its caller may have halted. -/
theorem State.row_stands {x : Stage} (hview : u.takeView d q = (s.takeView d q).passed.joined (s.mkCmd d q h))
    (henters : Enters u t d q (s.mkCmd d q h) x) (b : Bool) :
    Consumed s (t.windowHalt b d q) d q ∧ (t.windowHalt b d q).mem = s.mem
      ∧ ∃ y ∈ (t.windowHalt b d q).cmds, y.id = s.nextId ∧ y.stage = x := by
  obtain ⟨hhead, hnext⟩ := State.enrolled_headNo hview
  obtain ⟨-, hkept⟩ := KeepsTake.windowHalt (d := d) (q := q) t b henters.tidy
  simp only [State.takeView, TakeView.mk.injEq] at hkept
  obtain ⟨thead, -, tmem, -, -, tnext, trequests⟩ := hkept
  obtain ⟨y, hy, hyc⟩ := State.stands_of_cmds trequests henters.stands
  simp only [Cmd.request, Prod.mk.injEq] at hyc
  obtain ⟨hid, hstage, -⟩ := hyc
  exact ⟨⟨thead.trans (henters.headNo.trans hhead), tnext.trans (henters.nextId.trans hnext)⟩,
    tmem.trans (henters.mem.trans (State.enrolled_mem_eq hview)), y, hy, hid, hstage⟩

/-- The row of a LAYER_CLOSE. -/
theorem State.row_inside (hs : s.Tidy) (ht : s.takes d q ext h false Opc.LAYER_CLOSE = true) (run : State → Cmd → State) :
    ∃ u b, s.v2 d q ext Opc.LAYER_CLOSE noPrep run = (run u (s.mkCmd d q h)).windowHalt b d q ∧ u.Tidy
      ∧ u.takeView d q = (s.takeView d q).passed.joined (s.mkCmd d q h) ∧ Leaves (fun _ => ()) (headBits d q) s u := by
  obtain ⟨u, b, hr, hrow⟩ := State.dispatch_runs hs ht rfl run
  obtain ⟨htidy, hview⟩ := hr.enrols (d := d) (q := q) h h
  have hb : (u.bracketOf d q).isSome = true :=
    (congrArg Option.isSome (congrFun (congrFun hr.bracketOf d) q)).trans (State.takes_inside ht)
  exact ⟨_, b, hrow, htidy, hview, (hr.leaves fun _ _ => rfl).trans
    (.enrolHead_inside (headBits_settled q.isLt) (fun _ _ _ _ _ => rfl) (fun _ _ _ _ _ => rfl) headBits_offFetch hr.tidy hb h _)⟩

/-- R182, R187: a LAYER_CLOSE waits for the outcome, and its queue counts it as taken. -/
theorem State.layerClose_waits (hs : s.Tidy) (ht : s.takes d q ext h false Opc.LAYER_CLOSE = true) :
    let t := s.v2 d q ext Opc.LAYER_CLOSE noPrep fun s c => s.mapCmd c.id fun x => { x with stage := .close }
    Consumed s t d q ∧ t.mem = s.mem ∧ (∃ x ∈ t.cmds, x.id = s.nextId ∧ x.stage = .close)
      ∧ t.qf d q R.QUEUE_W2_HEAD = s.qf d q R.QUEUE_W2_HEAD := by
  obtain ⟨u, b, hrow, htidy, hview, hleaves⟩ :=
    State.row_inside hs ht fun s c => s.mapCmd c.id fun x => { x with stage := .close }
  have henters := Enters.mapCmd (d := d) (q := q) (c := s.mkCmd d q h) htidy (State.enrolled_mem hview) .close
  obtain ⟨hconsumed, hmem, hstands⟩ := State.row_stands hview henters b
  have hclose : Leaves (fun _ => ()) (headBits d q) u (u.mapCmd (s.mkCmd d q h).id fun x => { x with stage := .close }) :=
    .of_ledger (State.mapCmd_tidy _ _ _) rfl rfl
  have hhalt := (hleaves.trans hclose).trans (.windowHalt (headBits_settled q.isLt) (headBits_offResume q.isLt)
    (fun _ _ _ _ _ _ => rfl) _ b d q)
  dsimp only at hrow ⊢
  rw [hrow]
  exact ⟨hconsumed, hmem, hstands, hhalt.fld hs fun _ _ _ => rfl⟩

end Sys2Proof.Machine
end

section
/-! STEP_GATE (R200–R202). -/

namespace Sys2Proof.Machine

variable {α : Type} {p : Ledger → α} {K : Nat → Nat → Prop} {s t u : State} {d : Fin 4} {q : Fin 64} {h : Head} {c : Cmd}
  {ext : HostSlot} {opc : Nat} {k : Nat}

/-! Words of JCX. -/

/-- The bits of STEP, of JCX_NUM_STS and of the gate's record of both contexts. -/
def jcxBits (d : Nat) (a i : Nat) : Prop :=
  ∃ off, 0x100 ≤ off ∧ off < 0x130 ∧ (off < 0x110 → i < 32) ∧ a = page d B.JCX + off

theorem jcxBits_settled {d : Nat} : ∀ a i, jcxBits d a i → settled a i := by
  rintro a i ⟨off, hlow, hhigh, hi, rfl⟩
  obtain ⟨-, hblock, hrest⟩ := page_offset d (i := B.JCX) (off := off) (by decide) (by omega)
  have hplain : accounting (page d B.JCX + off) = false :=
    accounting_page d (by decide) (by decide) (by omega) (show off ≠ 0x30 by omega)
  exact ⟨hplain, by omega, .inl hblock⟩

theorem jcxBits_offCal {d e off : Nat} (hoff : off < 0x10000) (i : Nat) : ¬ jcxBits d (page e B.CAL + off) i := by
  rintro ⟨m, -, hm, -, ha⟩
  simp only [page, B.JCX, B.CAL] at ha
  omega

theorem jcxBits_offResume {d : Nat} : OffResume (jcxBits d) := fun _ i => jcxBits_offCal (by decide) i

theorem jcxBits_pass : ∀ a i, jcxBits d a i → passBits d q a i := fun a i h =>
  ⟨jcxBits_settled a i h, fun hhead => jcxBits_offCal (queueWord_lt q (by decide)) i (hhead ▸ h)⟩

theorem State.ctxOf_lt (s : State) (d q : Nat) : s.ctxOf d q < 2 := s.fld_lt _ _

/-- A field of JCX_NUM_STS, of STEP or of the gate's record, where the bits stay. -/
theorem Leaves.jcx (h : Leaves p (jcxBits d) s t) (hs : s.Tidy) {f : Fld} (hlow : 0x100 ≤ f.off) (hhigh : f.off < 0x130)
    (hf : f.off < 0x110 → f.lsb + f.width ≤ 32) : t.fld (page d B.JCX) f = s.fld (page d B.JCX) f :=
  h.fld hs fun _ _ hi => ⟨f.off, hlow, hhigh, fun h => by have := hf h; omega, rfl⟩

theorem Leaves.jcxOn (h : Leaves p (jcxBits d) s t) (hs : s.Tidy) {f : Fld} (hlow : 0x100 ≤ f.off) (hhigh : f.off < 0x130)
    (hf : f.off < 0x110 → f.lsb + f.width ≤ 32) : t.on (page d B.JCX) f = s.on (page d B.JCX) f :=
  congrArg (· != 0) (h.jcx hs hlow hhigh hf)

/-! A STEP_GATE that waits. -/

/-- A word of JCX is none of the queue's. -/
theorem Enters.putJcx {x : Stage} (h : Enters s t d q c x) {f : Fld} (hf : f.lsb + f.width ≤ 64) (hoff : f.off < 0x10000) (n : Nat) :
    Enters s (t.put (page d B.JCX) f n) d q c x := by
  have hapart {g : Fld} (hg : g.off < 0x10000) : FldApart (page d B.CAL) g (page d B.JCX) f := by
    refine .inl ?_
    simp only [page, B.JCX, B.CAL]
    omega
  have hput {g : Nat → Fld} (hg : (g q).off < 0x10000) : (t.put (page d B.JCX) f n).qf d q g = t.qf d q g :=
    State.fld_put_apart h.tidy.regs _ _ _ _ n hf (hapart hg)
  have hhead : (t.put (page d B.JCX) f n).headNo d q = t.headNo d q :=
    State.headNo_of_flds (hput (queueWord_lt q (by decide))) (hput (queueWord_lt q (by decide))) rfl
  exact ⟨State.put_tidy _ _ _ h.tidy, hhead.trans h.headNo, h.mem, h.poison, h.nextId, h.stands⟩

theorem State.on_put_one (hs : s.Tidy) (pg : Nat) {f : Fld} (hf : f.lsb + f.width ≤ 64) (hw : f.width = 1) :
    (s.put pg f 1).on pg f = true := by
  rw [State.on, State.fld_put_same hs.regs _ _ _ hf, hw]
  rfl

/-- A STEP_GATE waits for its gate. -/
def State.gateWait (s : State) (c : Cmd) : State :=
  (s.mapCmd c.id fun x => { x with stage := .gate }).put (page c.die B.JCX) (R.JCX_NUM_STS_GATE_WAIT c.context) 1

theorem State.stepGate_of_open (hdone : s.on (page c.die B.JCX) (R.JCX_NUM_STS_GATE_DONE c.context) = false) :
    s.stepGate c = s.gateWait c := if_neg fun h => Bool.false_ne_true (hdone.symm.trans h)

theorem State.gateWait_enters (hs : s.Tidy) (hc : c.request ∈ s.cmds.map Cmd.request) (hdie : c.die = d) (hctx : c.context < 2) :
    Enters s (s.gateWait c) d q c .gate ∧ (s.gateWait c).on (page d B.JCX) (R.JCX_NUM_STS_GATE_WAIT c.context) = true := by
  have hoff : (R.JCX_NUM_STS_GATE_WAIT c.context).off = 0x110 + 8 * c.context := rfl
  have hmap := Enters.mapCmd (d := d) (q := q) hs hc .gate
  unfold State.gateWait
  rw [hdie]
  exact ⟨hmap.putJcx (show 6 + 1 ≤ 64 by decide) (by omega) 1,
    State.on_put_one hmap.tidy _ (show 6 + 1 ≤ 64 by decide) rfl⟩

/-- R200: a STEP_GATE whose gate has not evaluated the step waits for it. -/
theorem State.stepGate_waits (hs : s.Tidy) (ht : s.takes d q ext h false Opc.STEP_GATE = true)
    (hdone : s.on (page d B.JCX) (R.JCX_NUM_STS_GATE_DONE (s.ctxOf d q)) = false) :
    let t := s.v2 d q ext Opc.STEP_GATE noPrep State.stepGate
    Consumed s t d q ∧ (∃ x ∈ t.cmds, x.id = s.nextId ∧ x.stage = .gate)
      ∧ t.on (page d B.JCX) (R.JCX_NUM_STS_GATE_WAIT (s.ctxOf d q)) = true ∧ t.cells = s.cells := by
  have hctx := s.ctxOf_lt d q
  obtain ⟨u, b, hrow, htidy, hview, -, hrest⟩ := State.row_outside hs ht rfl rfl State.stepGate
  have hleaves : Leaves Ledger.cells (jcxBits d) s u := hrest.of_rest (fun _ => rfl) jcxBits_pass
  have hdoneOff : (R.JCX_NUM_STS_GATE_DONE (s.ctxOf d q)).off = 0x110 + 8 * s.ctxOf d q := rfl
  have hwaitOff : (R.JCX_NUM_STS_GATE_WAIT (s.ctxOf d q)).off = 0x110 + 8 * s.ctxOf d q := rfl
  have hopen : u.on (page d B.JCX) (R.JCX_NUM_STS_GATE_DONE (s.ctxOf d q)) = false :=
    (hleaves.jcxOn hs (by omega) (by omega) (by omega)).trans hdone
  have hrun : u.stepGate (s.mkCmd d q h) = u.gateWait (s.mkCmd d q h) := State.stepGate_of_open hopen
  obtain ⟨henters, hwait⟩ := State.gateWait_enters (q := q) (c := s.mkCmd d q h) htidy (State.enrolled_mem hview) rfl hctx
  obtain ⟨hconsumed, -, hstands⟩ := State.row_stands hview henters b
  have hcells : (u.gateWait (s.mkCmd d q h)).ledger.cells = u.ledger.cells := rfl
  generalize u.gateWait (s.mkCmd d q h) = v at *
  have hhalt := Leaves.windowHalt (p := Ledger.cells) (K := jcxBits d) jcxBits_settled jcxBits_offResume
    (fun _ _ _ _ _ _ => rfl) v b d q
  dsimp only
  rw [hrow, hrun]
  exact ⟨hconsumed, hstands, (hhalt.jcxOn henters.tidy (by omega) (by omega) (by omega)).trans hwait,
    (hhalt henters.tidy).2.1.trans (hcells.trans (hleaves hs).2.1)⟩

end Sys2Proof.Machine
end

section
/-! A command that completes as its row runs it: its queue stands at the next command, and it is dispatched no longer. -/

namespace Sys2Proof.Machine

variable {α : Type} {p : Ledger → α} {K : Nat → Nat → Prop} {s t u : State} {d : Fin 4} {q : Fin 64} {h : Head} {c : Cmd}

/-! Signals that no wait takes (R256, R262). -/

/-- A signal of a cell that no wait is for gives it its value, and counts. -/
theorem Leaves.signalQuiet (hK : ∀ a i, K a i → settled a i) (g : Signal) (o : Origin) (hs : s.Tidy) (hw : ∀ w ∈ s.waits, w.cell ≠ g.cell) :
    Leaves p K (s.setCell g.cell (if g.set then g.value else s.cell g.cell + g.value)) (s.signal g o) := by
  unfold State.signal State.updateCell
  extract_lets e s1
  have hwatched (β : Type) (r : Ledger → β) : Leaves r K (s.setCell g.cell (if g.set then g.value else s.cell g.cell + g.value)) s1 :=
    .testWatches hK _ _
  have hwaits : s1.waits = s.waits := (hwatched _ Ledger.waits (State.setCell_tidy _ _ hs)).2.1
  have hnone : (s1.waits.filter fun w => w.cell == g.cell) = [] := by
    rw [hwaits, List.filter_eq_nil_iff]
    exact fun w hwait => by simpa using hw w hwait
  rw [hnone]
  exact (hwatched _ p).trans (.countOrigin hK s1 _ o)

theorem State.cell_setCell_same (hs : s.Tidy) (n v : Nat) : (s.setCell n v).cell n = v % 2 ^ 32 := Table.get_set_same _ _ _ _ hs.cells

theorem State.cell_setCell_other {n m : Nat} (h : m ≠ n) (v : Nat) : (s.setCell n v).cell m = s.cell m :=
  Table.get_set_other _ _ _ _ h _

/-! Where a queue stands. -/

/-- The bracket of a job context on a die, without what its commands' errors and signals add. -/
def Ledger.coreAt (key : Nat) (l : Ledger) : Option Bracket := (l.bracketAt key).map Bracket.core

theorem jobsBlind_coreAt (key : Nat) : JobsBlind (Ledger.coreAt key) := fun s d k f hs hf => by
  unfold Ledger.coreAt Ledger.bracketAt State.mapBracket State.setJob State.ledger
  by_cases h : key = jobKey d k
  · subst h
    rw [Table.get_set_same _ _ _ _ hs.jobs, Option.map_map]
    exact congrArg (Option.map · _) (funext hf)
  · rw [Table.get_set_other _ _ _ _ h]

/-- The bits of CALLER and CONTEXT of a queue, and of HEAD. -/
def posBits (d q a i : Nat) : Prop := callerBits d q a i ∨ headBits d q a i

theorem posBits_settled : ∀ a i, posBits d q a i → settled a i := fun a i h =>
  h.elim (callerBits_settled q.isLt a i) (headBits_settled q.isLt a i)

theorem posBits_offResume : OffResume (posBits d q) := fun e i h => h.elim (fun h => by
    have haddr := h.1
    simp only [page, R.QUEUE_W1_CALLER, R.CAL_RESUME] at haddr
    omega) (headBits_offResume q.isLt e i)

theorem State.ctxOf_of_leaves (h : Leaves p (posBits d q) s t) (hs : s.Tidy) : t.ctxOf d q = s.ctxOf d q :=
  h.fld hs fun i hi _ => .inl ⟨rfl, by simp only [R.QUEUE_W1_CONTEXT] at hi; omega⟩

/-- Where the queue stands follows from HEAD and from what its bracket has taken. -/
theorem State.headNo_of_leaves (hs : s.Tidy) (h : Leaves (Ledger.coreAt (jobKey d (s.ctxOf d q))) (posBits d q) s t) :
    t.headNo d q = s.headNo d q := by
  have hctx := State.ctxOf_of_leaves h hs
  have hhead : t.qf d q R.QUEUE_W2_HEAD = s.qf d q R.QUEUE_W2_HEAD := h.fld hs fun _ _ _ => .inr rfl
  have hcore : (t.job d (s.ctxOf d q)).bracket.map Bracket.core = (s.job d (s.ctxOf d q)).bracket.map Bracket.core := (h hs).2.1
  have htaken (o : Option Bracket) : ((o.filter fun b => b.queue == q.val).map Bracket.taken).getD 0
      = (((o.map Bracket.core).filter fun b => b.queue == q.val).map Bracket.taken).getD 0 := by
    cases o with
    | none => rfl
    | some b => by_cases hb : b.queue = q.val <;> simp [Option.filter, Bracket.core, hb]
  rw [State.headNo, State.headNo, State.bracketOf, State.bracketOf, hhead, hctx, htaken, hcore, ← htaken]

/-! The end of the command. -/

/-- A view that does not show the commands stays when one completes. -/
theorem Leaves.complete (hK : ∀ a i, K a i → settled a i) (hr : OffResume K) (hp : JobsBlind p) (hc : CmdsBlind p)
    (hb : hSigEn c.words = true → SignalBlind p) (hdie : c.die < 4) (s : State) (status err detail : Nat) :
    Leaves p K s (s.complete c status err detail) := .of_shows fun v w hs =>
  (Stable.shows hK hr hp v w).complete (.shows hK hr hp v w) hdie (fun h => signalled_shows hK (hb h) v w)
    (fun u hu => cmdBlind_shows hc v w u _ List.filter_sublist hu) s status err detail hs

theorem State.enrolled_ids (hview : u.takeView d q = (s.takeView d q).passed.joined (s.mkCmd d q h)) :
    u.cmds.map Cmd.id = s.cmds.map Cmd.id ++ [s.nextId] := by
  have hrequests : u.cmds.map Cmd.request = s.cmds.map Cmd.request ++ [(s.mkCmd d q h).request] :=
    congrArg TakeView.requests hview
  have hids := congrArg (List.map Prod.fst) hrequests
  rw [List.map_append, List.map_map, List.map_map] at hids
  exact hids

/-- What holds of a taken command that completes at the end of its row. -/
theorem State.row_ends (ht : t.Tidy) (hhead : t.headNo d q = (s.headNo d q + 1) % 2 ^ 32) (hnext : t.nextId = s.nextId + 1)
    (hids : t.cmds.map Cmd.id = s.cmds.map Cmd.id ++ [s.nextId]) (hdie : c.die = d) (hid : c.id = s.nextId) (b : Bool) :
    Consumed s ((t.done c).windowHalt b d q) d q ∧ Left s ((t.done c).windowHalt b d q) := by
  have hdie4 : c.die < 4 := hdie ▸ d.isLt
  have hblind : JobsBlind fun l => (l.coreAt (jobKey d (t.ctxOf d q)), l.nextId) := fun s e k f hs hf =>
    congrArg (·, s.nextId) (jobsBlind_coreAt _ s e k f hs hf)
  have hdone : Leaves (fun l => (l.coreAt (jobKey d (t.ctxOf d q)), l.nextId)) (posBits d q) t ((t.done c).windowHalt b d q) :=
    (Leaves.complete posBits_settled posBits_offResume hblind (fun _ _ => rfl) (fun _ _ _ _ _ => rfl) hdie4 t _ _ _).trans
      (.windowHalt posBits_settled posBits_offResume hblind _ b d q)
  have hcmds : Leaves (fun l => l.cmds.map Cmd.id) noBits (t.done c) ((t.done c).windowHalt b d q) :=
    .windowHalt noBits_settled noBits_offResume (fun _ _ _ _ _ _ => rfl) _ b d q
  obtain ⟨-, -, hleft⟩ := State.complete_units hdie t Status.OK 0 0
  have hids' : ((t.done c).windowHalt b d q).cmds.map Cmd.id = (t.done c).cmds.map Cmd.id := by
    have hplain := (hcmds (State.done_tidy t c ht)).2.1
    simp only [State.ledger, List.map_map] at hplain
    exact hplain
  have hpos := State.headNo_of_leaves ht (hdone.weaken (fun x y hxy => congrArg Prod.fst hxy) fun _ _ => id)
  have hnext' : ((t.done c).windowHalt b d q).nextId = t.nextId := congrArg Prod.snd (hdone ht).2.1
  refine ⟨⟨hpos.trans hhead, hnext'.trans hnext⟩, ?_⟩
  have hdone' : (t.done c).cmds.map Cmd.id = (t.cmds.map Cmd.id).filter (· != c.id) := hleft
  rw [Left, hids', hdone', hids, hid, List.filter_append]
  simp

end Sys2Proof.Machine
end

section
/-! A STEP_GATE takes the outcome of its gate (R201, R202, R264). -/

namespace Sys2Proof.Machine

variable {α : Type} {p : Ledger → α} {K : Nat → Nat → Prop} {s t u : State} {d : Fin 4} {q : Fin 64} {h : Head} {c : Cmd}
  {ext : HostSlot} {opens : Bool}

/-- The cell that a STEP_GATE adds 1 to. -/
def gateCell (w : List Nat) (opens : Bool) : Option Nat :=
  if opens then some (cellNo (wf w 2 14 2) (wf w 2 0 14))
  else if wf w 2 32 1 = 1 then some (cellNo (wf w 2 30 2) (wf w 2 16 14)) else none

theorem cellNo_die {d n : Nat} (hd : d < 4) (hn : n < 16384) : cellNo d n / 16384 < 4 := by
  unfold cellNo
  omega

theorem gateCell_die {w : List Nat} {x : Nat} (h : gateCell w opens = some x) : x / 16384 < 4 := by
  unfold gateCell at h
  split at h
  · cases h
    exact cellNo_die (bits_lt _ _ _) (bits_lt _ _ _)
  · split at h
    · cases h
      exact cellNo_die (bits_lt _ _ _) (bits_lt _ _ _)
    · cases h

/-- The cell is told. -/
def State.gateSignal (s : State) (c : Cmd) (opens : Bool) : State :=
  match gateCell c.words opens with
  | some x => s.signalLive ⟨x, false, 1⟩ (fromDie c.die)
  | none => s

/-- The OPT_COUNT commands that follow are let through or skipped. -/
def State.gateWindow (s : State) (c : Cmd) (opens lost : Bool) : State :=
  let n := wf c.words 2 48 16
  s.setQueue (queueNo c.die c.queue) { s.queue (queueNo c.die c.queue) with
    opt := if opens then n else 0, skip := if opens then 0 else n, haltAfter := lost && n != 0 }

/-- The die of the cell, where it is lost. -/
def State.gateLost (s : State) (c : Cmd) (opens : Bool) : Option Nat :=
  ((gateCell c.words opens).map fun x => x / 16384).filter fun d => !s.present d

theorem State.gateTake_eq (s : State) (c : Cmd) (opens : Bool) : s.gateTake c opens =
    let t := (s.gateSignal c opens).gateWindow c opens (s.gateLost c opens).isSome
    match s.gateLost c opens with
    | some d => t.fail { c with stage := .gate } Err.DIE_ABSENT d
    | none => t.done c := rfl

theorem State.gateLost_of_present (hp : ∀ e : Fin 4, s.present e = true) (c : Cmd) (opens : Bool) : s.gateLost c opens = none := by
  unfold State.gateLost
  cases hc : gateCell c.words opens with
  | none => rfl
  | some x =>
    have hpresent : s.present (x / 16384) = true := hp ⟨_, gateCell_die hc⟩
    simp [Option.filter, hpresent]

theorem Leaves.gateSignal (hK : ∀ a i, K a i → settled a i) (hb : SignalBlind p) (s : State) (c : Cmd) (opens : Bool) :
    Leaves p K s (s.gateSignal c opens) := by
  unfold State.gateSignal
  split
  · exact .signalLive hK hb s _ _
  · exact .refl s

theorem State.queue_gateWindow (hs : s.Tidy) (c : Cmd) (opens lost : Bool) :
    ((s.gateWindow c opens lost).queue (queueNo c.die c.queue)).opt = (if opens then wf c.words 2 48 16 else 0)
      ∧ ((s.gateWindow c opens lost).queue (queueNo c.die c.queue)).skip = (if opens then 0 else wf c.words 2 48 16) := by
  rw [State.gateWindow, State.queue_setQueue_same hs]
  exact ⟨rfl, rfl⟩

theorem Leaves.gateTake (hK : ∀ a i, K a i → settled a i) (hr : OffResume K) (hp : JobsBlind p) (hb : SignalBlind p)
    (hc : CmdsBlind p) (hdie : c.die < 4) (s : State) (opens : Bool) : Leaves p K s (s.gateTake c opens) := by
  have hwindow (lost : Bool) : Leaves p K s ((s.gateSignal c opens).gateWindow c opens lost) :=
    (Leaves.gateSignal hK hb s c opens).trans (.setQueue hb _ _ _)
  rw [State.gateTake_eq]
  dsimp only
  split
  next e _ =>
    exact (hwindow _).trans (.complete (c := { c with stage := .gate }) hK hr hp hc (fun _ => hb) hdie _ Status.ERROR Err.DIE_ABSENT e)
  next => exact (hwindow _).trans (.complete hK hr hp hc (fun _ => hb) hdie _ Status.OK 0 0)

/-! The row. -/

/-- The cells after a STEP_GATE that no wait is for and whose dies are all present. -/
theorem State.gateSignal_leaves (hs : s.Tidy) (hK : ∀ a i, K a i → settled a i) (hp : ∀ e : Fin 4, s.present e = true)
    (hw : s.waits = []) (c : Cmd) (opens : Bool) : match gateCell c.words opens with
      | some x => Leaves p K (s.setCell x (s.cell x + 1)) (s.gateSignal c opens)
      | none => Leaves p K s (s.gateSignal c opens) := by
  unfold State.gateSignal
  cases hc : gateCell c.words opens with
  | none => exact .refl s
  | some x =>
    have hpresent : s.present (x / 16384) = true := hp ⟨_, gateCell_die hc⟩
    have hlive : s.signalLive ⟨x, false, 1⟩ (fromDie c.die) = s.signal ⟨x, false, 1⟩ (fromDie c.die) := if_pos hpresent
    dsimp only
    rw [hlive]
    exact .signalQuiet hK ⟨x, false, 1⟩ _ hs (by simp [hw])

theorem dieCtl_pass {e : Nat} (he : e < 4) : ∀ i, 8 ≤ i → i < 12 →
    passBits d q (page 4 B.D2D + (R.D2D_DIE_CTL_STATE e).off) i := fun i _ hi => by
  have hoff : (R.D2D_DIE_CTL_STATE e).off = 0x100 + 8 * e := rfl
  obtain ⟨-, hblock, -⟩ := page_offset 4 (i := B.D2D) (off := (R.D2D_DIE_CTL_STATE e).off) (by decide) (by omega)
  have hplain : accounting (page 4 B.D2D + (R.D2D_DIE_CTL_STATE e).off) = false :=
    accounting_page 4 (by decide) (by decide) (by omega) (show 0x100 + 8 * e ≠ 0x30 by omega)
  refine ⟨⟨hplain, by omega, .inr (.inl hblock)⟩, fun hhead => ?_⟩
  simp only [headBits, page, hoff, R.QUEUE_W2_HEAD, B.D2D, B.CAL] at hhead
  omega

theorem State.present_of_leaves (h : Leaves p (passBits d q) s t) (hs : s.Tidy) {e : Nat} (he : e < 4) : t.present e = s.present e :=
  congrArg (· == 0) (h.fld hs fun i h1 h2 => dieCtl_pass he i h1 h2)

/-- R201, R202: a STEP_GATE whose gate has evaluated the step takes its outcome. -/
theorem State.stepGate_takes (hs : s.Tidy) (ht : s.takes d q ext h false Opc.STEP_GATE = true)
    (hdone : s.on (page d B.JCX) (R.JCX_NUM_STS_GATE_DONE (s.ctxOf d q)) = true) (hp : ∀ e : Fin 4, s.present e = true)
    (hw : s.waits = []) :
    let w := h.cmdWords
    let opens := s.on (page d B.JCX) (R.JCX_GATE_OPEN (s.ctxOf d q))
    let t := s.v2 d q ext Opc.STEP_GATE noPrep State.stepGate
    Consumed s t d q ∧ Left s t
      ∧ (t.queue (queueNo d q)).opt = (if opens then wf w 2 48 16 else 0)
      ∧ (t.queue (queueNo d q)).skip = (if opens then 0 else wf w 2 48 16)
      ∧ t.cells = match gateCell w opens with
        | some x => (s.setCell x (s.cell x + 1)).cells
        | none => s.cells := by
  intro w opens
  have hctx := s.ctxOf_lt d q
  obtain ⟨u, b, hrow, htidy, hview, hwaits, hrest⟩ := State.row_outside hs ht rfl rfl State.stepGate
  have hjcx : Leaves Ledger.cells (jcxBits d) s u := hrest.of_rest (fun _ => rfl) jcxBits_pass
  have hcells : u.cells = s.cells := (hjcx hs).2.1
  have hdoneOff : (R.JCX_NUM_STS_GATE_DONE (s.ctxOf d q)).off = 0x110 + 8 * s.ctxOf d q := rfl
  have hopenOff : (R.JCX_GATE_OPEN (s.ctxOf d q)).off = 0x120 + 8 * s.ctxOf d q := rfl
  have hudone : u.on (page d B.JCX) (R.JCX_NUM_STS_GATE_DONE (s.ctxOf d q)) = true :=
    (hjcx.jcxOn hs (by omega) (by omega) (by omega)).trans hdone
  have huopens : u.on (page d B.JCX) (R.JCX_GATE_OPEN (s.ctxOf d q)) = opens := hjcx.jcxOn hs (by omega) (by omega) (by omega)
  have hup : ∀ e : Fin 4, u.present e = true := fun e => (State.present_of_leaves hrest hs e.isLt).trans (hp e)
  have huw : u.waits = [] := List.eq_nil_of_subset_nil (hw ▸ hwaits)
  obtain ⟨c, hc⟩ : ∃ c, c = s.mkCmd d q h := ⟨_, rfl⟩
  obtain ⟨hdie, hqueue, hid, hwords⟩ : c.die = d ∧ c.queue = q ∧ c.id = s.nextId ∧ c.words = w := hc ▸ ⟨rfl, rfl, rfl, rfl⟩
  obtain ⟨x, hx⟩ : ∃ x, x = (u.gateSignal c opens).gateWindow c opens false := ⟨_, rfl⟩
  have hrun : u.stepGate (s.mkCmd d q h) = x.done c := by
    have htake : u.stepGate (s.mkCmd d q h) = u.gateTake (s.mkCmd d q h) opens := (if_pos hudone).trans (congrArg _ huopens)
    rw [htake, ← hc, State.gateTake_eq, State.gateLost_of_present hup, hx]
    rfl
  have hsignal {β : Type} (r : Ledger → β) (hb : SignalBlind r) : Leaves r (posBits d q) u x :=
    hx ▸ (Leaves.gateSignal posBits_settled hb u c opens).trans (.setQueue hb _ _ _)
  obtain ⟨huhead, hunext⟩ := State.enrolled_headNo hview
  have hxhead := State.headNo_of_leaves htidy (hsignal (Ledger.coreAt _) fun _ _ _ _ => rfl)
  obtain ⟨hxt, hxnext, -⟩ := hsignal Ledger.nextId (fun _ _ _ _ => rfl) htidy
  have hxids : x.cmds.map Cmd.id = s.cmds.map Cmd.id ++ [s.nextId] := by
    have hplain := (hsignal (fun l => l.cmds.map Cmd.id) (fun _ _ _ _ => rfl) htidy).2.1
    simp only [State.ledger, List.map_map] at hplain
    exact hplain.trans (State.enrolled_ids hview)
  obtain ⟨hconsumed, hleft⟩ := State.row_ends hxt (hxhead.trans huhead) (hxnext.trans hunext) hxids hdie hid b
  have hsig : hSigEn c.words = false := hwords ▸ State.takes_gate ht
  have hend : Leaves (fun l => (l.cells, l.queues)) noBits x ((x.done c).windowHalt b d q) :=
    (Leaves.complete noBits_settled noBits_offResume (fun _ _ _ _ _ _ => rfl) (fun _ _ => rfl)
      (fun h => absurd (hsig.symm.trans h) Bool.false_ne_true) (hdie ▸ d.isLt) x Status.OK 0 0).trans
      (.windowHalt noBits_settled noBits_offResume (fun _ _ _ _ _ _ => rfl) _ b d q)
  obtain ⟨htcells, htqueues⟩ := Prod.mk.inj (hend hxt).2.1
  have hxcells : x.cells = match gateCell w opens with
      | some n => (s.setCell n (s.cell n + 1)).cells
      | none => s.cells := by
    have hcell := State.gateSignal_leaves (p := Ledger.cells) htidy noBits_settled hup huw c opens
    rw [hwords] at hcell
    rw [hx]
    cases hn : gateCell w opens with
    | none =>
      rw [hn] at hcell
      exact (hcell htidy).2.1.trans hcells
    | some n =>
      rw [hn] at hcell
      refine (hcell (State.setCell_tidy _ _ htidy)).2.1.trans ?_
      show Table.set _ u.cells n ((Table.get _ u.cells n + 1) % 2 ^ 32) = _
      rw [hcells]
      rfl
  have hqueues := State.queue_gateWindow (Leaves.gateSignal noBits_settled (p := fun _ => ()) (fun _ _ _ _ => rfl) u c opens htidy).1
    c opens false
  rw [← hx, hdie, hqueue, hwords] at hqueues
  dsimp only
  rw [hrow, hrun]
  generalize (x.done c).windowHalt b d q = t at hconsumed hleft htcells htqueues ⊢
  have htq : t.queue (queueNo d q) = x.queue (queueNo d q) :=
    congrArg (fun l => Table.get (fun _ => ({} : Queue)) l (queueNo d q)) htqueues
  rw [htq]
  exact ⟨hconsumed, hleft, hqueues.1, hqueues.2, htcells.trans hxcells⟩

end Sys2Proof.Machine
end

section
/-! The gate of a die evaluates the job gate word (R200–R202, R209, R210). -/

namespace Sys2Proof.Machine

variable {α : Type} {p : Ledger → α} {K : Nat → Nat → Prop} {s t u : State} {d : Fin 4} {q : Fin 64} {k : Nat} {c : Cmd}
  {word : Nat} {opens : Bool}

/-! What the evaluation does before the STEP_GATE commands take it. -/

/-- The first evaluation of a step reads the package amax (R176). -/
def State.gateAmax (s : State) (ctx : Nat) (opens : Bool) : State :=
  let g := s.gate ctx
  if g.done.isEmpty then s.setGate ctx { g with amax := if opens then s.packageAmax ctx else [] } else s

/-- An open gate: the histories take the package amax, and STEP moves on (R176, R202). -/
def State.gateCommit (s : State) (d ctx t : Nat) : State :=
  ((s.historyUpdate d ctx (s.gate ctx).amax).put (page d B.JCX) (R.JCX_STEP_STEP ctx) (t + 1)).count (page d B.NUM)
    C.NUM_STEPS_COMMITTED 1

/-- A shut gate: the amax of the step goes, and the lowest present die records the shut (R202, R204). -/
def State.gateShut (s : State) (d ctx word : Nat) : State :=
  let s := (s.discardAmax d ctx).count (page d B.NUM) C.NUM_STEPS_SHUT 1
  let s := if s.presentDies.head? = some d ∧ !(s.gate ctx).shutRec then
      (s.setGate ctx { s.gate ctx with shutRec := true }).numEvent d ctx 4 0 0 0 0 0 word
    else s
  s.intSet (page d B.NUM) 1

/-- Histories and STEP as the outcome is. -/
def State.gateJudged (s : State) (d ctx word : Nat) : State :=
  if word == 0 then (s.gateAmax ctx (word == 0)).gateCommit d ctx (s.stepOf d ctx)
  else (s.gateAmax ctx (word == 0)).gateShut d ctx word

/-- The causes kept for the next step become those of the step (R198). -/
def State.causesTurn (s : State) (d ctx : Nat) (opens : Bool) : State :=
  ((s.setJob d ctx { s.job d ctx with next := 0, afterOpen := opens }).putCauses d ctx (s.job d ctx).next).put (page d B.JCX)
    (R.JCX_NUM_STS_NF_AFTER_GATE ctx) 0

/-- The record of the gate (R209). -/
def State.gateRecord (s : State) (d ctx t word : Nat) (opens : Bool) : State :=
  let pg := page d B.JCX
  (((s.put pg (R.JCX_GATE_STEP ctx) t).put pg (R.JCX_GATE_VALID ctx) 1).flag pg (R.JCX_GATE_OPEN ctx) opens).put pg
    (R.JCX_GATE_WORD ctx) word

/-- GATE_DONE and GATE_WAIT (R210). -/
def State.gateShow (s : State) (d ctx : Nat) : State :=
  (s.put (page d B.JCX) (R.JCX_NUM_STS_GATE_DONE ctx) 1).put (page d B.JCX) (R.JCX_NUM_STS_GATE_WAIT ctx) 0

/-- The die has evaluated the step, and the package once. -/
def State.gateNoted (s : State) (d ctx t : Nat) (opens first : Bool) : State :=
  let s := s.intSet (page d B.JCX) ctx
  let s := s.setGate ctx { s.gate ctx with done := setInsert d (s.gate ctx).done }
  if first ∧ ctx = 0 then s.firstEvaluation opens t else s

/-- The STEP_GATE commands that wait take the outcome. -/
def State.gateTakes (s : State) (d ctx : Nat) (opens : Bool) : State :=
  s.each (s.gateCmds d ctx) fun s c => s.gateTake c opens

theorem State.evaluate_eq (s : State) (d ctx word : Nat) : s.evaluate d ctx word =
    (((((((s.gateJudged d ctx word).causesTurn d ctx (word == 0)).gateRecord d ctx (s.stepOf d ctx) word (word == 0)).gateShow
      d ctx).gateNoted d ctx (s.stepOf d ctx) (word == 0) (s.gate ctx).done.isEmpty)).gateTakes d ctx (word == 0)).gateSettle ctx := rfl

/-! What each leaves. -/

section Settled
variable (hK : ∀ a i, K a i → settled a i)
include hK

theorem Leaves.historyUpdate (s : State) (e ctx : Nat) (l : List (Nat × Nat)) : Leaves p K s (s.historyUpdate e ctx l) := by
  refine .each _ s fun t x _ => ?_
  split
  · exact .refl t
  · exact (((Leaves.putEntry hK t _ _ _ _ _).trans (.putEntry hK _ _ _ _ _ _)).trans (.putEntry hK _ _ _ _ _ _)).trans
      (.putEntry hK _ _ _ _ _ _)

theorem Leaves.discardAmax (s : State) (e ctx : Nat) : Leaves p K s (s.discardAmax e ctx) := by
  refine .each _ s fun t x _ => ?_
  split
  · exact .putEntry hK t _ _ _ _ _
  · exact .refl t

theorem Leaves.governor (s : State) (n : Nat) : Leaves p K s (s.governor n) := by
  have hput (t : State) {f : Fld} (hf : f.off < 0x10000) (v : Nat) : Leaves p K t (t.put snpPage f v) :=
    .put_block hK t 4 v (by decide) (by decide) hf
  unfold State.governor
  extract_lets ctl mode s1 since s2
  have h2 : Leaves p K s s2 := (hput s (by decide) _).trans (.ite (hput s1 (by decide) _) (.refl s1))
  clear_value s2 mode
  split
  · exact h2.trans (hput _ (by decide) _)
  · exact h2.trans (hput _ (by decide) _)
  · exact h2.trans (hput _ (by decide) _)
  · exact h2.trans ((hput _ (by decide) _).after rfl rfl State.draw_tidy)

end Settled

/-- STAT entries stand above every block of a die. -/
theorem Leaves.putStat (s : State) (off lsb width n : Nat) (hf : lsb + width ≤ 64 := by decide) :
    Leaves p (jcxBits d) s (s.put clxPage ⟨off, lsb, width⟩ n) :=
  .put s _ _ _ hf fun i _ _ => by
    rintro ⟨m, -, hm, -, ha⟩
    have hd := d.isLt
    simp only [clxPage, page, B.JCX, B.CLX] at ha
    omega

theorem Leaves.statsGate (s : State) (opens : Bool) (n : Nat) : Leaves p (jcxBits d) s (s.statsGate opens n) := by
  unfold State.statsGate
  extract_lets l clx s1
  have h1 : Leaves p (jcxBits d) s s1 := .of_ledger (fun hs => { hs with }) rfl rfl
  refine .ite (h1.trans (Leaves.trans (.each l s1 fun t e _ => ?_) (.putStat _ 0x118 0 64 _))) h1
  exact ((((((Leaves.putStat t _ 0 64 e.g2).trans (.putStat _ _ 0 64 e.sEma)).trans (.putStat _ _ 0 64 e.noise)).trans
    (.putStat _ _ 32 32 n)).trans (.putStat _ _ 31 1 1)).trans (.putStat _ _ 30 1 (if e.valid then 1 else 0))).trans
    (.putStat _ _ 0 16 _)

theorem Leaves.firstEvaluation (s : State) (opens : Bool) (n : Nat) : Leaves p (jcxBits d) s (s.firstEvaluation opens n) := by
  unfold State.firstEvaluation
  extract_lets s1 clx s2 s3 s4
  have h2 : Leaves p (jcxBits d) s s2 := (Leaves.statsGate s opens n).trans (.of_ledger (fun hs => { hs with }) rfl rfl)
  have h4 : Leaves p (jcxBits d) s s4 := (h2.trans (.governor jcxBits_settled s2 _)).trans
    (.put_block jcxBits_settled s3 4 _ (by decide) (by decide) (by decide))
  exact .ite (h4.trans (.of_ledger (fun hs => { hs with }) rfl rfl)) h4

/-! Where STEP and the registers of the gate stand. -/

theorem Leaves.stepOf (h : Leaves p (jcxBits d) s t) (hs : s.Tidy) (hk : k < 2) : t.stepOf d k = s.stepOf d k :=
  h.jcx hs (by simp only [R.JCX_STEP_STEP]; omega) (by simp only [R.JCX_STEP_STEP]; omega) fun _ => show 0 + 32 ≤ 32 by decide

theorem Leaves.gateAmax (s : State) (k : Nat) (opens : Bool) : Leaves (fun _ => ()) K s (s.gateAmax k opens) :=
  .ite (.of_ledger (State.setGate_tidy _ _) rfl rfl) (.refl s)

/-- The STEP_SHUT record of the package. -/
theorem Leaves.shutRecord (s : State) (d : Fin 4) (k word : Nat) (g : Gate) :
    Leaves (fun _ => ()) (jcxBits d) s ((s.setGate k g).numEvent d k 4 0 0 0 0 0 word) :=
  (Leaves.of_ledger (State.setGate_tidy _ _) rfl rfl).trans (.numEvent jcxBits_settled _ d.isLt _ _ _ _ _ _ _ _)

theorem Leaves.gateShut (s : State) (d : Fin 4) (k word : Nat) : Leaves (fun _ => ()) (jcxBits d) s (s.gateShut d k word) := by
  have hdiscard : Leaves (fun _ => ()) (jcxBits d) s ((s.discardAmax d k).count (page d B.NUM) C.NUM_STEPS_SHUT 1) :=
    (Leaves.discardAmax jcxBits_settled s d k).trans (.count jcxBits_settled _ 1 (counts_num d.isLt (by simp)))
  unfold State.gateShut
  generalize (s.discardAmax d k).count (page d B.NUM) C.NUM_STEPS_SHUT 1 = t at hdiscard ⊢
  exact (hdiscard.trans (.ite (.shutRecord t d k word _) (.refl t))).trans (.intSet jcxBits_settled _ d B.NUM 1)

theorem State.gateCommit_stepOf (hs : s.Tidy) (d : Fin 4) (hk : k < 2) (n : Nat) :
    (s.gateCommit d k n).Tidy ∧ (s.gateCommit d k n).stepOf d k = (n + 1) % 2 ^ 32 := by
  obtain ⟨hu, -⟩ := Leaves.historyUpdate (p := fun _ => ()) noBits_settled s d k (s.gate k).amax hs
  unfold State.gateCommit
  generalize s.historyUpdate d k (s.gate k).amax = u at hu ⊢
  generalize n + 1 = m
  have hput := State.put_tidy (page d B.JCX) (R.JCX_STEP_STEP k) m hu
  have hstep : (u.put (page d B.JCX) (R.JCX_STEP_STEP k) m).stepOf d k = m % 2 ^ 32 :=
    State.fld_put_same hu.regs _ _ _ (show 0 + 32 ≤ 64 by decide)
  generalize u.put (page d B.JCX) (R.JCX_STEP_STEP k) m = v at hput hstep ⊢
  have hcount : Leaves (fun _ => ()) (jcxBits d) v (v.count (page d B.NUM) C.NUM_STEPS_COMMITTED 1) :=
    .count jcxBits_settled v 1 (counts_num d.isLt (by simp))
  exact ⟨(hcount hput).1, (hcount.stepOf hput hk).trans hstep⟩

/-- R202, R209: an open gate moves STEP on, and a shut one does not. -/
theorem State.gateJudged_stepOf (hs : s.Tidy) (d : Fin 4) (hk : k < 2) (word : Nat) : (s.gateJudged d k word).Tidy
    ∧ (s.gateJudged d k word).stepOf d k = if word = 0 then (s.stepOf d k + 1) % 2 ^ 32 else s.stepOf d k := by
  have hamax := Leaves.gateAmax (K := jcxBits d) s k (word == 0)
  have hstep := hamax.stepOf hs hk
  obtain ⟨hu, -⟩ := hamax hs
  unfold State.gateJudged
  generalize s.gateAmax k (word == 0) = u at hu hstep ⊢
  by_cases hw : word = 0
  · rw [if_pos (beq_iff_eq.2 hw), if_pos hw]
    exact State.gateCommit_stepOf hu d hk _
  · have hshut := Leaves.gateShut u d k word
    rw [if_neg (mt beq_iff_eq.1 hw), if_neg hw]
    exact ⟨(hshut hu).1, (hshut.stepOf hu hk).trans hstep⟩

/-- The word of the gate's record. -/
def gateWordOf (w t word : Nat) (opens : Bool) : Nat :=
  setBits (setBits (setBits (setBits w 32 32 t) 31 1 1) 30 1 (if opens then 1 else 0)) 0 16 word

theorem State.gateRecord_word (hs : s.Tidy) (d k t word : Nat) (opens : Bool) :
    (s.gateRecord d k t word opens).word (page d B.JCX + (0x120 + 8 * k))
      = gateWordOf (s.word (page d B.JCX + (0x120 + 8 * k))) t word opens := by
  have hput {s : State} (hs : s.Tidy) (lsb width v : Nat) (hf : lsb + width ≤ 64) :
      (s.put (page d B.JCX) ⟨0x120 + 8 * k, lsb, width⟩ v).Tidy
      ∧ (s.put (page d B.JCX) ⟨0x120 + 8 * k, lsb, width⟩ v).word (page d B.JCX + (0x120 + 8 * k))
        = setBits (s.word (page d B.JCX + (0x120 + 8 * k))) lsb width v :=
    ⟨State.put_tidy _ _ _ hs, State.word_put_same hs.regs _ _ _ hf⟩
  obtain ⟨h1, w1⟩ := hput hs 32 32 t (by decide)
  obtain ⟨h2, w2⟩ := hput h1 31 1 1 (by decide)
  obtain ⟨h3, w3⟩ := hput h2 30 1 (if opens then 1 else 0) (by decide)
  obtain ⟨-, w4⟩ := hput h3 0 16 word (by decide)
  exact w4.trans (by rw [w3, w2, w1]; rfl)

theorem OnlyWords.gateRecord (s : State) (d k t word : Nat) (opens : Bool) :
    OnlyWords s (s.gateRecord d k t word opens) [page d B.JCX + (0x120 + 8 * k)] := by
  have hput (s : State) (lsb width v : Nat) : OnlyWords s (s.put (page d B.JCX) ⟨0x120 + 8 * k, lsb, width⟩ v)
      [page d B.JCX + (0x120 + 8 * k)] := .put s _ _ _ _ (.inr List.mem_cons_self)
  exact (((hput s 32 32 t).trans (hput _ 31 1 1)).trans (hput _ 30 1 (if opens then 1 else 0))).trans (hput _ 0 16 word)

theorem OnlyWords.causesTurn (s : State) (d k : Nat) (opens : Bool) (hjobs : t = s.setJob d k { s.job d k with next := 0, afterOpen := opens }) :
    OnlyWords t (s.causesTurn d k opens) [page d B.JCX + (0x110 + 8 * k)] := by
  subst hjobs
  exact (OnlyWords.putCauses _ d k _).trans (.put _ _ ⟨0x110 + 8 * k, 16, 1⟩ 0 _ (.inr List.mem_cons_self))

end Sys2Proof.Machine
end

section
/-! A step's gate on one die, from its evaluation to the commands that take it (R198, R200–R202, R209, R210). -/

namespace Sys2Proof.Machine

variable {s t u : State} {d : Fin 4} {k : Nat} {c : Cmd} {word n : Nat} {opens first : Bool}

/-! The registers. -/

theorem jcx_plain {d off : Nat} (hlow : 0x100 ≤ off) (hhigh : off < 0x130) : accounting (page d B.JCX + off) = false :=
  accounting_page d (by decide) (by decide) (by omega) (show off ≠ 0x30 by omega)

/-- A word of JCX that is none of those written. -/
theorem OnlyWords.jcx_apart {d m : Nat} (h : OnlyWords s t [page d B.JCX + m]) {off : Nat} (hlow : 0x100 ≤ off) (hhigh : off < 0x130)
    (hne : off ≠ m) : t.word (page d B.JCX + off) = s.word (page d B.JCX + off) :=
  h.word _ (jcx_plain hlow hhigh) fun hmem => hne (by have := List.mem_singleton.1 hmem; omega)

theorem State.causesTurn_tidy (hs : s.Tidy) (d k : Nat) (opens : Bool) : (s.causesTurn d k opens).Tidy :=
  State.put_tidy _ _ _ (State.putCauses_tidy _ _ _ _ (State.setJob_tidy _ _ _ hs))

theorem State.gateRecord_tidy (hs : s.Tidy) (d k n word : Nat) (opens : Bool) : (s.gateRecord d k n word opens).Tidy :=
  State.put_tidy _ _ _ (State.put_tidy _ _ _ (State.put_tidy _ _ _ (State.put_tidy _ _ _ hs)))

theorem State.gateShow_shows (hs : s.Tidy) (d k : Nat) : (s.gateShow d k).Tidy
    ∧ OnlyWords s (s.gateShow d k) [page d B.JCX + (0x110 + 8 * k)]
    ∧ (s.gateShow d k).on (page d B.JCX) (R.JCX_NUM_STS_GATE_DONE k) = true
    ∧ (s.gateShow d k).on (page d B.JCX) (R.JCX_NUM_STS_GATE_WAIT k) = false := by
  have hdone := State.put_tidy (page d B.JCX) (R.JCX_NUM_STS_GATE_DONE k) 1 hs
  refine ⟨State.put_tidy _ _ _ hdone, ?_, ?_, ?_⟩
  · exact (OnlyWords.put s _ (R.JCX_NUM_STS_GATE_DONE k) 1 _ (.inr List.mem_cons_self)).trans
      (.put _ _ (R.JCX_NUM_STS_GATE_WAIT k) 0 _ (.inr List.mem_cons_self))
  · exact (congrArg (· != 0) (State.fld_put_apart hdone.regs _ _ _ _ _ (show 6 + 1 ≤ 64 by decide)
      (.inr (.inl (show 2 + 1 ≤ 6 by decide))))).trans
      (State.on_put_one hs (page d B.JCX) (f := R.JCX_NUM_STS_GATE_DONE k) (show 2 + 1 ≤ 64 by decide) rfl)
  · exact congrArg (· != 0) (State.fld_put_same hdone.regs (page d B.JCX) (R.JCX_NUM_STS_GATE_WAIT k) 0 (show 6 + 1 ≤ 64 by decide))

/-- What the registers of a gate show once it has evaluated a step (R209, R210). -/
structure State.GateShows (s : State) (d k step n word : Nat) (opens : Bool) : Prop where
  step  : s.stepOf d k = step
  since : s.fld (page d B.JCX) (R.JCX_GATE_STEP k) = n
  word  : s.fld (page d B.JCX) (R.JCX_GATE_WORD k) = word % 2 ^ 16
  opens : s.on (page d B.JCX) (R.JCX_GATE_OPEN k) = opens
  valid : s.on (page d B.JCX) (R.JCX_GATE_VALID k) = true
  done  : s.on (page d B.JCX) (R.JCX_NUM_STS_GATE_DONE k) = true
  wait  : s.on (page d B.JCX) (R.JCX_NUM_STS_GATE_WAIT k) = false

theorem State.gateRegisters_show (hs : s.Tidy) (d : Fin 4) (hk : k < 2) (hn : n < 2 ^ 32) (word : Nat) (opens : Bool) :
    (((s.causesTurn d k opens).gateRecord d k n word opens).gateShow d k).Tidy
    ∧ (((s.causesTurn d k opens).gateRecord d k n word opens).gateShow d k).GateShows d k (s.stepOf d k) n word opens := by
  have hturn := State.causesTurn_tidy hs d k opens
  have hrecord := State.gateRecord_tidy hturn d k n word opens
  obtain ⟨hshow, hwords, hdone, hwait⟩ := State.gateShow_shows hrecord d k
  have hstep : (((s.causesTurn d k opens).gateRecord d k n word opens).gateShow d k).word (page d B.JCX + (0x100 + 8 * k))
      = s.word (page d B.JCX + (0x100 + 8 * k)) :=
    (hwords.jcx_apart (by omega) (by omega) (by omega)).trans
      (((OnlyWords.gateRecord _ d k n word opens).jcx_apart (by omega) (by omega) (by omega)).trans
        ((OnlyWords.causesTurn s d k opens rfl).jcx_apart (by omega) (by omega) (by omega)))
  have hgate : (((s.causesTurn d k opens).gateRecord d k n word opens).gateShow d k).word (page d B.JCX + (0x120 + 8 * k))
      = gateWordOf ((s.causesTurn d k opens).word (page d B.JCX + (0x120 + 8 * k))) n word opens :=
    (hwords.jcx_apart (by omega) (by omega) (by omega)).trans (State.gateRecord_word hturn d k n word opens)
  generalize ((s.causesTurn d k opens).gateRecord d k n word opens).gateShow d k = t at hstep hgate hshow hdone hwait ⊢
  generalize (s.causesTurn d k opens).word (page d B.JCX + (0x120 + 8 * k)) = w at hgate
  have hfield (lsb width : Nat) : t.fld (page d B.JCX) ⟨0x120 + 8 * k, lsb, width⟩ = bits (gateWordOf w n word opens) lsb width :=
    congrArg (bits · lsb width) hgate
  refine ⟨hshow, congrArg (bits · 0 32) hstep, (hfield 32 32).trans ?_, (hfield 0 16).trans ?_,
    (congrArg (· != 0) (hfield 30 1)).trans ?_, (congrArg (· != 0) (hfield 31 1)).trans ?_, hdone, hwait⟩
  · rw [gateWordOf, bits_setBits_apart _ _ _ _ _ _ (.inr (by decide)), bits_setBits_apart _ _ _ _ _ _ (.inr (by decide)),
      bits_setBits_apart _ _ _ _ _ _ (.inr (by decide)), bits_setBits_same, Nat.mod_eq_of_lt hn]
  · rw [gateWordOf, bits_setBits_same]
  · rw [gateWordOf, bits_setBits_apart _ _ _ _ _ _ (.inr (by decide)), bits_setBits_same]
    cases opens <;> rfl
  · rw [gateWordOf, bits_setBits_apart _ _ _ _ _ _ (.inr (by decide)), bits_setBits_apart _ _ _ _ _ _ (.inr (by decide)),
      bits_setBits_same]
    rfl

/-- What leaves the words of JCX leaves what the gate shows. -/
theorem State.GateShows.of_leaves {step : Nat} (h : s.GateShows d k step n word opens) (ht : Leaves (fun _ => ()) (jcxBits d) s t)
    (hs : s.Tidy) (hk : k < 2) : t.GateShows d k step n word opens := by
  obtain ⟨h1, h2, h3, h4, h5, h6, h7⟩ := h
  have hfld (off lsb width : Nat) (hlow : 0x100 ≤ off) (hhigh : off < 0x130) (hf : off < 0x110 → lsb + width ≤ 32) :
      t.fld (page d B.JCX) ⟨off, lsb, width⟩ = s.fld (page d B.JCX) ⟨off, lsb, width⟩ := ht.jcx hs hlow hhigh hf
  exact ⟨(hfld (0x100 + 8 * k) 0 32 (by omega) (by omega) (by omega)).trans h1,
    (hfld (0x120 + 8 * k) 32 32 (by omega) (by omega) (by omega)).trans h2,
    (hfld (0x120 + 8 * k) 0 16 (by omega) (by omega) (by omega)).trans h3,
    (congrArg (· != 0) (hfld (0x120 + 8 * k) 30 1 (by omega) (by omega) (by omega))).trans h4,
    (congrArg (· != 0) (hfld (0x120 + 8 * k) 31 1 (by omega) (by omega) (by omega))).trans h5,
    (congrArg (· != 0) (hfld (0x110 + 8 * k) 2 1 (by omega) (by omega) (by omega))).trans h6,
    (congrArg (· != 0) (hfld (0x110 + 8 * k) 6 1 (by omega) (by omega) (by omega))).trans h7⟩

/-! The commands that take the outcome. -/

/-- Whether a command waits on a die for the gate of a context. -/
def Cmd.gated (d k : Nat) (c : Cmd) : Bool := c.die == d && c.context == k && c.stage == .gate

/-- The commands that wait for a gate are among these. -/
def Ledger.gatedIn (d k : Nat) (ids : List Nat) (l : Ledger) : Prop := ∀ c ∈ l.cmds, c.gated d k = true → c.id ∈ ids

theorem State.gatedIn_iff {ids : List Nat} : s.ledger.gatedIn d k ids ↔ ∀ c ∈ s.gateCmds d k, c.id ∈ ids := by
  simp only [Ledger.gatedIn, State.ledger, List.forall_mem_map, State.gateCmds, List.mem_filter, and_imp]
  exact Iff.rfl

/-- A command that takes the outcome waits no longer. -/
theorem State.gateTake_gatedIn (hs : s.Tidy) (hdie : c.die < 4) {ids : List Nat} (h : s.ledger.gatedIn d k (c.id :: ids))
    (opens : Bool) : (s.gateTake c opens).Tidy ∧ (s.gateTake c opens).ledger.gatedIn d k ids := by
  have hend (x : Cmd) (hid : x.id = c.id) (hx : x.die < 4) (lost : Bool) (status err detail : Nat) :
      (((s.gateSignal c opens).gateWindow c opens lost).complete x status err detail).Views (Ledger.gatedIn d k ids) True := by
    have hstart : s.Views (Ledger.gatedIn d k (c.id :: ids)) True := ⟨hs, eq_true h, fun _ _ => False.elim⟩
    have hwindow : (((s.gateSignal c opens).gateWindow c opens lost)).Views (Ledger.gatedIn d k (c.id :: ids)) True := ((Leaves.gateSignal noBits_settled (fun _ _ _ _ => rfl) s c opens).trans
      (.setQueue (fun _ _ _ _ => rfl) _ _ _)).shows hstart
    refine (Stable.views (fun _ _ _ _ _ _ => rfl) True).complete (.views (fun _ _ _ _ _ _ => rfl) True) hx
      (fun _ => signalled_views (fun _ _ _ _ => rfl) True) (fun u hu => ?_) _ status err detail hwindow
    obtain ⟨ht, hin, -⟩ := hu
    refine ⟨ht.fewer List.filter_sublist (Nat.le_refl _), eq_true ?_, fun _ _ => False.elim⟩
    intro y hy hgated
    obtain ⟨z, hz, rfl⟩ := List.mem_map.1 hy
    obtain ⟨hz, hne⟩ := List.mem_filter.1 hz
    have hmem := of_eq_true hin z.plain (List.mem_map_of_mem hz) hgated
    have hne : z.plain.id ≠ c.id := fun h => by
      have : z.id = x.id := h.trans hid.symm
      simp [this] at hne
    exact (List.mem_cons.1 hmem).resolve_left hne
  rw [State.gateTake_eq]
  dsimp only
  split
  next e _ =>
    obtain ⟨ht, hin, -⟩ := hend { c with stage := .gate } rfl hdie (s.gateLost c opens).isSome Status.ERROR Err.DIE_ABSENT e
    exact ⟨ht, of_eq_true hin⟩
  next =>
    obtain ⟨ht, hin, -⟩ := hend c rfl hdie (s.gateLost c opens).isSome Status.OK 0 0
    exact ⟨ht, of_eq_true hin⟩

theorem State.each_gateTake (opens : Bool) : ∀ (l : List Cmd) (s : State), s.Tidy → (∀ c ∈ l, c.die < 4) →
    s.ledger.gatedIn d k (l.map Cmd.id) → (s.each l fun s c => s.gateTake c opens).ledger.gatedIn d k []
  | [], _, _, _, h => h
  | c :: l, s, hs, hl, h => by
    obtain ⟨ht, hin⟩ := State.gateTake_gatedIn hs (hl c List.mem_cons_self) h opens
    exact State.each_gateTake opens l (s.gateTake c opens) ht (fun x hx => hl x (List.mem_cons_of_mem _ hx)) hin

theorem State.gateTakes_shows (hs : s.Tidy) (d : Fin 4) (k : Nat) (opens : Bool) : (s.gateTakes d k opens).gateCmds d k = []
    ∧ Leaves (fun _ => ()) (jcxBits d) s (s.gateTakes d k opens) := by
  have hdie : ∀ c ∈ s.gateCmds d k, c.die < 4 := fun c hc => by
    have hgated := (List.mem_filter.1 hc).2
    simp only [Bool.and_eq_true, beq_iff_eq] at hgated
    omega
  constructor
  · have hin := State.each_gateTake (d := d) (k := k) opens _ s hs hdie (State.gatedIn_iff.2 fun c hc => List.mem_map_of_mem hc)
    exact List.eq_nil_iff_forall_not_mem.2 fun c hc => List.not_mem_nil (State.gatedIn_iff.1 hin c hc)
  · exact .each _ s fun t c hc => .gateTake jcxBits_settled jcxBits_offResume (fun _ _ _ _ _ _ => rfl) (fun _ _ _ _ => rfl)
      (fun _ _ => rfl) (hdie c hc) t opens

/-! The evaluation. -/

theorem Leaves.gateNoted (s : State) (d : Fin 4) (k n : Nat) (opens first : Bool) :
    Leaves (fun _ => ()) (jcxBits d) s (s.gateNoted d k n opens first) := by
  unfold State.gateNoted
  extract_lets s1 x s2
  have h2 : Leaves (fun _ => ()) (jcxBits d) s s2 :=
    (Leaves.intSet jcxBits_settled s d B.JCX k).trans (.of_ledger (State.setGate_tidy _ _) rfl rfl)
  exact .ite (h2.trans (.firstEvaluation s2 opens n)) h2

theorem State.gateSettle_keeps (s : State) (k : Nat) : (s.gateSettle k).cmds = s.cmds ∧ (s.gateSettle k).regs = s.regs := by
  unfold State.gateSettle
  extract_lets g left s1
  split
  · split
    · exact ⟨rfl, rfl⟩
    · exact ⟨rfl, rfl⟩
  · exact ⟨rfl, rfl⟩

/-- R201, R202: the gate of a die evaluates a step. -/
theorem State.evaluate_shows (hs : s.Tidy) (d : Fin 4) (hk : k < 2) (word : Nat) :
    (s.evaluate d k word).gateCmds d k = []
    ∧ (s.evaluate d k word).GateShows d k (if word = 0 then (s.stepOf d k + 1) % 2 ^ 32 else s.stepOf d k) (s.stepOf d k) word
        (word == 0) := by
  obtain ⟨hjudged, hstep⟩ := State.gateJudged_stepOf hs d hk word
  have hlt : s.stepOf d k < 2 ^ 32 := State.fld_lt s _ _
  obtain ⟨ht, hshows⟩ := State.gateRegisters_show hjudged d hk hlt word (word == 0)
  rw [hstep] at hshows
  rw [State.evaluate_eq]
  generalize (((s.gateJudged d k word).causesTurn d k (word == 0)).gateRecord d k (s.stepOf d k) word (word == 0)).gateShow d k = t
    at ht hshows ⊢
  have hnoted := Leaves.gateNoted t d k (s.stepOf d k) (word == 0) (s.gate k).done.isEmpty
  obtain ⟨hu, -⟩ := hnoted ht
  generalize t.gateNoted d k (s.stepOf d k) (word == 0) (s.gate k).done.isEmpty = u at hnoted hu ⊢
  obtain ⟨hnone, htakes⟩ := State.gateTakes_shows hu d k (word == 0)
  generalize u.gateTakes d k (word == 0) = v at hnone htakes ⊢
  obtain ⟨hcmds, hregs⟩ := v.gateSettle_keeps k
  refine ⟨(congrArg (List.filter _) hcmds).trans hnone, hshows.of_leaves ((hnoted.trans htakes).trans ?_) ht hk⟩
  exact .of_ledger (State.gateSettle_tidy v k) rfl hregs

theorem State.gateEvaluation_eq (hjob : (s.gate k).job = some word) (hpresent : s.present d = true)
    (hdone : (s.gate k).done.contains d.val = false) (hcmds : s.gateCmds d k ≠ [])
    (hnone : ∀ e ∈ s.presentDies, (s.job e k).bracket = none) : s.gateEvaluation d k = s.evaluate d k word := by
  have hopen : (s.presentDies.any fun e => (s.job e k).bracket.isSome) = false :=
    List.any_eq_false.2 fun e he => by simp [hnone e he]
  rw [State.gateEvaluation, hjob]
  exact if_pos (by simp [hpresent, hcmds, hopen]; simpa using hdone)

/-! The cells that a STEP_GATE has told. -/

theorem State.gateCell_told (hs : s.Tidy) {w : List Nat} (ht : t.cells = match gateCell w opens with
      | some x => (s.setCell x (s.cell x + 1)).cells
      | none => s.cells) :
    (opens = true → t.cell (cellNo (wf w 2 14 2) (wf w 2 0 14)) = (s.cell (cellNo (wf w 2 14 2) (wf w 2 0 14)) + 1) % 2 ^ 32)
    ∧ (opens = false → wf w 2 32 1 = 1 →
        t.cell (cellNo (wf w 2 30 2) (wf w 2 16 14)) = (s.cell (cellNo (wf w 2 30 2) (wf w 2 16 14)) + 1) % 2 ^ 32)
    ∧ (opens = false → wf w 2 32 1 = 0 → t.cells = s.cells) := by
  have htold {x : Nat} (h : gateCell w opens = some x) : t.cell x = (s.cell x + 1) % 2 ^ 32 := by
    rw [h] at ht
    exact (congrArg (fun l => Table.get (fun _ => 0) l x) ht).trans (State.cell_setCell_same hs _ _)
  refine ⟨fun h => htold (if_pos h), fun h hflag => htold ?_, fun h hflag => ?_⟩
  · rw [gateCell, if_neg (by simp [h]), if_pos hflag]
  · have hcell : gateCell w opens = none := by
      rw [gateCell, if_neg (by simp [h]), if_neg (by simp [hflag])]
    rw [hcell] at ht
    exact ht

/-- Settles O25: a STEP_GATE waits or takes as GATE_DONE says, and an evaluation ends with no STEP_GATE that waits. -/
theorem gatesTakeTheirOutcome : Obligations.GatesTakeTheirOutcome := by
  unfold Obligations.GatesTakeTheirOutcome
  refine ⟨fun s d q ext h hs ht => ⟨fun hdone => ?_, fun hdone hpresent hwaits => ?_⟩,
    fun s d c word hs hjob hpresent hdone hcmds hnone => ?_⟩
  · exact ⟨_, rfl, State.stepGate_waits hs ht hdone⟩
  · obtain ⟨hconsumed, hleft, hopt, hskip, hcells⟩ := State.stepGate_takes hs ht hdone hpresent hwaits
    exact ⟨_, rfl, hconsumed, hleft, hopt, hskip, State.gateCell_told hs hcells⟩
  · obtain ⟨hgone, hstep, hsince, hword, hopens, hvalid, hshown, hwait⟩ := State.evaluate_shows hs d (ctxNo_lt c) word
    rw [← State.gateEvaluation_eq hjob hpresent hdone hcmds hnone] at hgone hstep hsince hword hopens hvalid hshown hwait
    exact ⟨_, rfl, hstep, hsince, hword, hopens, hvalid, hshown, hwait, hgone⟩

end Sys2Proof.Machine
end

section
/-! LAYER_OPEN opens a bracket (R181, R182, R184, R187, R210). -/

namespace Sys2Proof.Machine

variable {α : Type} {p : Ledger → α} {K : Nat → Nat → Prop} {s t u : State} {d : Fin 4} {q : Fin 64} {h : Head} {c : Cmd}
  {ext : HostSlot} {k : Nat}

/-! What a LAYER_OPEN of a member does. -/

/-- The number of the bracket that it joins or begins. -/
def State.openId (s : State) (c : Cmd) : Nat := ((s.joins c.die c.context).map Group.id).getD s.nextGroup

/-- A bracket that none of its dies has opened begins. -/
def State.openGroup (s : State) (c : Cmd) : State :=
  match s.joins c.die c.context with
  | some _ => s
  | none => { s with
      groups := s.groups ++ [⟨s.openId c, c.context, c.words, (openDies c.words).filter fun e => !s.present e, []⟩]
      nextGroup := s.nextGroup + 1 }

/-- The bracket on the die. -/
def State.opening (s : State) (c : Cmd) : Bracket := {
  id := s.openId c, queue := c.queue, words := c.words, number := c.number
  fetch := (s.openGroup c).qf c.die c.queue R.QUEUE_W5_FETCH, step := c.step }

/-- The context takes it. -/
def State.openJob (s : State) (c : Cmd) : State :=
  (s.openGroup c).setJob c.die c.context { (s.openGroup c).job c.die c.context with bracket := some (s.opening c), afterOpen := false }

/-- JCX_NUM_STS shows it, and a gate not evaluated. -/
def State.openShow (s : State) (d ctx : Nat) : State := (s.put (page d B.JCX) (R.JCX_NUM_STS_GATE_DONE ctx) 0).showBracket d ctx

theorem State.layerOpen_eq (hmem : (openDies c.words).contains c.die = true) :
    s.layerOpen c = (((s.openJob c).openShow c.die c.context).resetLocal c.die c.words).done c :=
  if_neg (by simpa using hmem)

theorem State.openGroup_shows (hs : s.Tidy) (c : Cmd) : (s.openGroup c).Tidy
    ∧ ∃ g ∈ (s.openGroup c).groups, g.id = s.openId c ∧ g.ctx = c.context := by
  unfold State.openGroup State.openId
  cases hj : s.joins c.die c.context with
  | none => exact ⟨{ hs with }, _, List.mem_append_right _ (List.mem_singleton.2 rfl), rfl, rfl⟩
  | some g =>
    have hctx := List.find?_some hj
    simp only [Bool.and_eq_true, beq_iff_eq] at hctx
    exact ⟨hs, g, List.mem_of_find?_eq_some hj, rfl, hctx.1.1⟩

/-- What begins a bracket changes no more than the groups. -/
theorem State.openGroup_part {β : Type} (f : State → β) (hf : ∀ x gs n, f { x with groups := gs, nextGroup := n } = f x)
    (s : State) (c : Cmd) : f (s.openGroup c) = f s := by
  unfold State.openGroup
  split
  · rfl
  · exact hf s _ _

theorem State.openJob_tidy (hs : s.Tidy) (c : Cmd) : (s.openJob c).Tidy := by
  obtain ⟨ht, -⟩ := State.openGroup_shows hs c
  exact State.setJob_tidy _ _ _ ht

theorem State.openJob_bracket (hs : s.Tidy) (c : Cmd) : ((s.openJob c).job c.die c.context).bracket = some (s.opening c) := by
  obtain ⟨ht, -⟩ := State.openGroup_shows hs c
  rw [State.openJob, State.job_setJob_same ht]

theorem State.fld_of_regs (h : t.regs = s.regs) (pg : Nat) (f : Fld) : t.fld pg f = s.fld pg f := by
  rw [State.fld, State.fld, State.word, State.word, h]

/-- The new bracket has taken nothing: the queue stands where it stood. -/
theorem State.openJob_headNo (hs : s.Tidy) (hb : s.bracketOf c.die c.queue = none) (hctx : s.ctxOf c.die c.queue = c.context) :
    (s.openJob c).headNo c.die c.queue = s.headNo c.die c.queue := by
  have hregs : (s.openJob c).regs = s.regs := State.openGroup_part State.regs (fun _ _ _ => rfl) s c
  have hctx' : (s.openJob c).ctxOf c.die c.queue = c.context := (State.fld_of_regs hregs _ _).trans hctx
  have hhead : (s.openJob c).qf c.die c.queue R.QUEUE_W2_HEAD = s.qf c.die c.queue R.QUEUE_W2_HEAD := State.fld_of_regs hregs _ _
  have hopen : (s.openJob c).bracketOf c.die c.queue = some (s.opening c) := by
    rw [State.bracketOf, hctx', State.openJob_bracket hs]
    exact Option.filter_some_pos (beq_self_eq_true _)
  rw [State.headNo, State.headNo, hopen, hb, hhead]
  rfl

/-! The cells (R184). -/

theorem Leaves.signalZero {n : Nat} (hs : s.Tidy) (hw : ∀ w ∈ s.waits, w.cell ≠ n) (o : Origin) :
    Leaves (fun l => (l.cells, l.waits)) noBits (s.setCell n 0) (s.signal ⟨n, true, 0⟩ o) :=
  .signalQuiet noBits_settled ⟨n, true, 0⟩ o hs hw

/-- What a view of cells and waits says of both. -/
theorem State.zeroed_of_view {n : Nat} (hself : u.cell n = 0) (hother : ∀ m, m ≠ n → u.cell m = s.cell m)
    (hview : (t.ledger.cells, t.ledger.waits) = (u.ledger.cells, u.ledger.waits)) :
    t.waits = u.waits ∧ t.cell n = 0 ∧ ∀ m, s.cell m = 0 → t.cell m = 0 := by
  obtain ⟨hcells, hwaits⟩ := Prod.mk.inj hview
  have hcell (m : Nat) : t.cell m = u.cell m := congrArg (fun l => Table.get (fun _ => 0) l m) hcells
  refine ⟨hwaits, (hcell n).trans hself, fun m hm => (hcell m).trans ?_⟩
  by_cases hmn : m = n
  · rw [hmn, hself]
  · exact (hother m hmn).trans hm

/-- A cell that no wait is for is set to zero. -/
theorem State.signal_zero {n : Nat} (hs : s.Tidy) (hw : ∀ w ∈ s.waits, w.cell ≠ n) (o : Origin) :
    (s.signal ⟨n, true, 0⟩ o).Tidy ∧ (s.signal ⟨n, true, 0⟩ o).waits = s.waits
      ∧ (s.signal ⟨n, true, 0⟩ o).cell n = 0 ∧ ∀ m, s.cell m = 0 → (s.signal ⟨n, true, 0⟩ o).cell m = 0 := by
  obtain ⟨ht, hview, -⟩ := Leaves.signalZero hs hw o (State.setCell_tidy n 0 hs)
  exact ⟨ht, State.zeroed_of_view (u := s.setCell n 0) (State.cell_setCell_same hs n 0)
    (fun _ h => State.cell_setCell_other h 0) hview⟩

/-- So are cells one after the other. -/
theorem State.each_zero (f : Nat → Nat) (o : Origin) : ∀ (l : List Nat) (s : State), s.Tidy → (∀ w ∈ s.waits, ∀ i ∈ l, w.cell ≠ f i) →
    (∀ n, s.cell n = 0 → (s.each l fun s i => s.signal ⟨f i, true, 0⟩ o).cell n = 0)
    ∧ ∀ i ∈ l, (s.each l fun s i => s.signal ⟨f i, true, 0⟩ o).cell (f i) = 0
  | [], s, _, _ => ⟨fun _ h => h, nofun⟩
  | i :: l, s, hs, hw => by
    obtain ⟨ht, hwaits, hself, hothers⟩ := State.signal_zero hs (fun w hwait => hw w hwait i List.mem_cons_self) o
    obtain ⟨hkept, hzero⟩ := State.each_zero f o l (s.signal ⟨f i, true, 0⟩ o) ht fun w hwait j hj =>
      hw w (hwaits ▸ hwait) j (List.mem_cons_of_mem _ hj)
    refine ⟨fun n hn => hkept n (hothers n hn), fun j hj => ?_⟩
    rcases List.mem_cons.1 hj with rfl | hj
    · exact hkept _ hself
    · exact hzero j hj

/-! JCX_NUM_STS (R210). -/

theorem State.openShow_shows (hs : s.Tidy) (d k : Nat) (hb : (s.job d k).bracket.isSome = true) : (s.openShow d k).Tidy
    ∧ (s.openShow d k).on (page d B.JCX) (R.JCX_NUM_STS_BRACKET_OPEN k) = true
    ∧ (s.openShow d k).on (page d B.JCX) (R.JCX_NUM_STS_GATE_DONE k) = false
    ∧ (s.openShow d k).ledger = s.ledger := by
  have h1 := State.put_tidy (page d B.JCX) (R.JCX_NUM_STS_GATE_DONE k) 0 hs
  have hdone : (s.put (page d B.JCX) (R.JCX_NUM_STS_GATE_DONE k) 0).on (page d B.JCX) (R.JCX_NUM_STS_GATE_DONE k) = false :=
    congrArg (· != 0) (State.fld_put_same hs.regs _ _ _ (show 2 + 1 ≤ 64 by decide))
  have hjob : ((s.put (page d B.JCX) (R.JCX_NUM_STS_GATE_DONE k) 0).job d k).bracket.isSome = true := hb
  have hl : (s.put (page d B.JCX) (R.JCX_NUM_STS_GATE_DONE k) 0).ledger = s.ledger := rfl
  unfold State.openShow State.showBracket
  generalize s.put (page d B.JCX) (R.JCX_NUM_STS_GATE_DONE k) 0 = t at h1 hdone hjob hl ⊢
  have hopen : (t.put (page d B.JCX) (R.JCX_NUM_STS_BRACKET_OPEN k) 1).on (page d B.JCX) (R.JCX_NUM_STS_BRACKET_OPEN k) = true :=
    State.on_put_one h1 _ (show 3 + 1 ≤ 64 by decide) rfl
  have h2 := State.put_tidy (page d B.JCX) (R.JCX_NUM_STS_BRACKET_OPEN k) 1 h1
  have h3 := fun n => State.put_tidy (page d B.JCX) (R.JCX_NUM_STS_LEVEL k) n h2
  have happart (n m : Nat) {f : Fld} (hf : f.lsb + f.width ≤ 4) :
      (((t.put (page d B.JCX) (R.JCX_NUM_STS_BRACKET_OPEN k) 1).put (page d B.JCX) (R.JCX_NUM_STS_LEVEL k) n).put (page d B.JCX)
        (R.JCX_NUM_STS_BRACKET_LAYER k) m).on (page d B.JCX) f
      = (t.put (page d B.JCX) (R.JCX_NUM_STS_BRACKET_OPEN k) 1).on (page d B.JCX) f :=
    congrArg (· != 0) ((State.fld_put_apart (h3 n).regs _ _ _ _ _ (show 32 + 16 ≤ 64 by decide)
      (.inr (.inl (show f.lsb + f.width ≤ 32 by omega)))).trans
      (State.fld_put_apart h2.regs _ _ _ _ _ (show 4 + 2 ≤ 64 by decide) (.inr (.inl hf))))
  simp only [State.flag, hjob, if_true]
  refine ⟨State.put_tidy _ _ _ (h3 _), (happart _ _ (show 3 + 1 ≤ 4 by decide)).trans hopen,
    (happart _ _ (show 2 + 1 ≤ 4 by decide)).trans ?_, hl⟩
  exact (congrArg (· != 0) (State.fld_put_apart h1.regs _ _ _ _ _ (show 3 + 1 ≤ 64 by decide)
    (.inr (.inl (show 2 + 1 ≤ 3 by decide))))).trans hdone

end Sys2Proof.Machine
end

section
/-! The row of LAYER_OPEN (R181, R182, R184, R210, R253). -/

namespace Sys2Proof.Machine

variable {α : Type} {p : Ledger → α} {K : Nat → Nat → Prop} {s t u : State} {d : Fin 4} {q : Fin 64} {h : Head} {c : Cmd}
  {ext : HostSlot} {k : Nat}

theorem callerBits_pass : ∀ a i, callerBits d q a i → passBits d q a i := fun a i h =>
  ⟨callerBits_settled q.isLt a i h, fun hhead => by
    have haddr := h.1
    simp only [headBits, R.QUEUE_W1_CALLER, R.QUEUE_W2_HEAD] at haddr hhead
    omega⟩

/-- What the take leaves of where a queue stands. -/
theorem State.outside_of_rest (hs : s.Tidy) (h : Leaves Ledger.rest (passBits d q) s u) (hb : s.bracketOf d q = none) :
    u.bracketOf d q = none ∧ u.ctxOf d q = s.ctxOf d q := by
  have hjobs : Leaves Ledger.jobs (callerBits d q) s u := h.of_rest (fun _ => rfl) callerBits_pass
  exact ⟨(State.bracketOf_of_leaves hs hjobs).trans hb, hjobs.fld hs fun i hi _ => ⟨rfl, by
    simp only [R.QUEUE_W1_CONTEXT] at hi
    omega⟩⟩

theorem Leaves.openShow (s : State) (d k : Nat) (hk : ∀ a i, K a i → ¬ stsBits d k a i) : Leaves p K s (s.openShow d k) := by
  have hput : Leaves p K s (s.put (page d B.JCX) (R.JCX_NUM_STS_GATE_DONE k) 0) :=
    .put s _ _ _ (show 2 + 1 ≤ 64 by decide) fun i _ _ hi => hk _ i hi rfl
  exact hput.trans (.showBracket d k (fun a i hi hshown => hk a i hi hshown.1) _)

theorem posBits_offSts {e : Nat} (hk : k < 2) : ∀ a i, posBits d q a i → ¬ stsBits e k a i := by
  rintro a i (⟨rfl, -⟩ | rfl)
  · exact stsBits_offCal hk (queueWord_lt q (by decide)) i
  · exact stsBits_offCal hk (queueWord_lt q (by decide)) i

/-- A bit of JCX_NUM_STS, where the bits of JCX stay. -/
theorem Leaves.stsOn (h : Leaves p (jcxBits d) s t) (hs : s.Tidy) (hk : k < 2) (lsb : Nat) :
    t.on (page d B.JCX) ⟨0x110 + 8 * k, lsb, 1⟩ = s.on (page d B.JCX) ⟨0x110 + 8 * k, lsb, 1⟩ :=
  h.jcxOn hs (show 0x100 ≤ 0x110 + 8 * k by omega) (show 0x110 + 8 * k < 0x130 by omega)
    fun hlt => absurd hlt (show ¬ 0x110 + 8 * k < 0x110 by omega)

/-- What a new bracket shows. -/
def Bracket.Fresh (b : Bracket) (q : Nat) (w : List Nat) : Prop := b.queue = q ∧ b.words = w ∧ b.level = 0 ∧ b.taken = 0

/-- What stands when a die has opened its bracket, and its LAYER_OPEN is not done yet. -/
structure State.Opened (s t : State) (d : Fin 4) (q k : Nat) (w : List Nat) : Prop where
  tidy    : t.Tidy
  headNo  : t.headNo d q = s.headNo d q
  nextId  : t.nextId = s.nextId
  ids     : t.cmds.map Cmd.id = s.cmds.map Cmd.id
  bracket : ∃ b, t.ledger.coreAt (jobKey d k) = some b ∧ b.Fresh q w ∧ ∃ g ∈ t.groups, g.id = b.id ∧ g.ctx = k
  shown   : t.on (page d B.JCX) (R.JCX_NUM_STS_BRACKET_OPEN k) = true
  done    : t.on (page d B.JCX) (R.JCX_NUM_STS_GATE_DONE k) = false
  cells   : (∀ x ∈ s.waits, ∀ i, i < wf w 2 56 8 → x.cell ≠ cellNo d (wf w 3 0 14 + i)) →
    ∀ i, i < wf w 2 56 8 → t.cell (cellNo d (wf w 3 0 14 + i)) = 0

/-- The bracket opens on the die, and JCX_NUM_STS shows it. -/
theorem State.openJob_opened (hs : s.Tidy) (hdie : c.die = d) (hqueue : c.queue = q) (hk : c.context < 2)
    (hb : s.bracketOf d q = none) (hctx : s.ctxOf d q = c.context) :
    let t := (s.openJob c).openShow d c.context
    t.Tidy ∧ t.headNo d q = s.headNo d q
      ∧ t.on (page d B.JCX) (R.JCX_NUM_STS_BRACKET_OPEN c.context) = true
      ∧ t.on (page d B.JCX) (R.JCX_NUM_STS_GATE_DONE c.context) = false
      ∧ t.ledger = (s.openJob c).ledger := by
  rw [← hdie, ← hqueue] at hb hctx
  have hjob := State.openJob_tidy hs c
  have hbracket := State.openJob_bracket hs c
  have hhead := State.openJob_headNo hs hb hctx
  rw [hdie] at hbracket
  rw [hdie, hqueue] at hhead
  generalize s.openJob c = v at hjob hbracket hhead ⊢
  obtain ⟨ht, hshown, hdone, hledger⟩ := State.openShow_shows hjob d c.context (by rw [hbracket]; rfl)
  exact ⟨ht, (State.headNo_of_leaves hjob (.openShow v d c.context (posBits_offSts hk))).trans hhead, hshown, hdone, hledger⟩

theorem State.opened (hs : s.Tidy) (hdie : c.die = d) (hqueue : c.queue = q) (hk : c.context < 2)
    (hb : s.bracketOf d q = none) (hctx : s.ctxOf d q = c.context) :
    s.Opened (((s.openJob c).openShow d c.context).resetLocal d c.words) d q c.context c.words := by
  obtain ⟨ht, hhead, hshown, hdone, hledger⟩ := State.openJob_opened hs hdie hqueue hk hb hctx
  have hbracket := State.openJob_bracket hs c
  rw [hdie] at hbracket
  obtain ⟨-, g, hg, hgid, hgctx⟩ := State.openGroup_shows hs c
  have hgroups : g ∈ (s.openJob c).groups := hg
  have hnext : (s.openJob c).ledger.nextId = s.nextId := State.openGroup_part State.nextId (fun _ _ _ => rfl) s c
  have hcmds : (s.openJob c).ledger.cmds = s.cmds.map Cmd.plain :=
    State.openGroup_part (fun x => x.cmds.map Cmd.plain) (fun _ _ _ => rfl) s c
  have hwaits : (s.openJob c).ledger.waits = s.waits := State.openGroup_part State.waits (fun _ _ _ => rfl) s c
  generalize (s.openJob c).openShow d c.context = u at ht hhead hshown hdone hledger ⊢
  rw [← hledger] at hnext hcmds hwaits
  have hcore : u.ledger.coreAt (jobKey d c.context) = some (s.opening c).core := by
    rw [hledger]
    exact congrArg (Option.map Bracket.core) hbracket
  have hmem : g ∈ u.ledger.groups := by
    rw [hledger]
    exact hgroups
  clear hledger hgroups
  have hreset {β : Type} {r : Ledger → β} {L : Nat → Nat → Prop} (hL : ∀ a i, L a i → settled a i) (hr : SignalBlind r) :
      Leaves r L u (u.resetLocal d c.words) := .resetLocal hL hr u d c.words
  have hjcx : Leaves (fun _ => ()) (jcxBits d) u (u.resetLocal d c.words) := hreset jcxBits_settled fun _ _ _ _ => rfl
  have hcells : (∀ x ∈ u.waits, ∀ i ∈ List.range (wf c.words 2 56 8), x.cell ≠ cellNo d (wf c.words 3 0 14 + i)) →
      ∀ i ∈ List.range (wf c.words 2 56 8), (u.resetLocal d c.words).cell (cellNo d (wf c.words 3 0 14 + i)) = 0 := fun hw =>
    (State.each_zero (fun i => cellNo d (wf c.words 3 0 14 + i)) (fromDie d) _ u ht hw).2
  have hhead' : (u.resetLocal d c.words).headNo d q = u.headNo d q :=
    State.headNo_of_leaves ht (hreset posBits_settled fun _ _ _ _ => rfl)
  obtain ⟨ht', hview, -⟩ := hreset (r := fun l => (l.cmds.map Cmd.id, l.nextId, l.groups, l.coreAt (jobKey d c.context)))
    noBits_settled (fun _ _ _ _ => rfl) ht
  simp only [Prod.mk.injEq] at hview
  obtain ⟨hids, hnext', hgroups, hcore'⟩ := hview
  generalize u.resetLocal d c.words = t at *
  have hids : t.cmds.map Cmd.id = s.cmds.map Cmd.id := by
    rw [hcmds] at hids
    simp only [State.ledger, List.map_map] at hids
    exact hids
  exact ⟨ht', hhead'.trans hhead, hnext'.trans hnext, hids, ⟨_, hcore'.trans hcore, ⟨hqueue, rfl, rfl, rfl⟩, g,
    (congrArg (g ∈ ·) hgroups).mpr hmem, hgid, hgctx⟩, (hjcx.stsOn ht hk 3).trans hshown, (hjcx.stsOn ht hk 2).trans hdone,
    fun hw i hi => hcells (fun x hx j hj => hw x (hwaits ▸ hx) j (List.mem_range.1 hj)) i (List.mem_range.2 hi)⟩

/-- R181, R182, R184: a LAYER_OPEN of a member opens a bracket on its die. -/
theorem State.layerOpen_opens (hs : s.Tidy) (ht : s.takes d q ext h false Opc.LAYER_OPEN = true)
    (hmem : (openDies h.cmdWords).contains d.val = true) :
    let w := h.cmdWords
    let ctx := s.ctxOf d q
    let t := s.v2 d q ext Opc.LAYER_OPEN noPrep State.layerOpen
    Consumed s t d q ∧ Left s t
      ∧ (∃ b, (t.job d ctx).bracket = some b ∧ b.queue = q ∧ b.words = w ∧ b.level = 0 ∧ b.taken = 0
        ∧ ∃ g ∈ t.groups, g.id = b.id ∧ g.ctx = ctx)
      ∧ t.on (page d B.JCX) (R.JCX_NUM_STS_BRACKET_OPEN ctx) = true
      ∧ t.on (page d B.JCX) (R.JCX_NUM_STS_GATE_DONE ctx) = false
      ∧ (hSigEn w = false → (∀ x ∈ s.waits, ∀ i, i < wf w 2 56 8 → x.cell ≠ cellNo d (wf w 3 0 14 + i)) →
        ∀ i, i < wf w 2 56 8 → t.cell (cellNo d (wf w 3 0 14 + i)) = 0) := by
  intro w ctx
  obtain ⟨u, b, hrow, htidy, hview, hwaits, hrest⟩ := State.row_outside hs ht rfl rfl State.layerOpen
  obtain ⟨hub, huctx⟩ := State.outside_of_rest hs hrest (State.takes_outside ht rfl)
  obtain ⟨huhead, hunext⟩ := State.enrolled_headNo hview
  obtain ⟨c, hc⟩ : ∃ c, c = s.mkCmd d q h := ⟨_, rfl⟩
  obtain ⟨hdie, hqueue, hid, hwords, hcctx⟩ :
      c.die = d ∧ c.queue = q ∧ c.id = s.nextId ∧ c.words = w ∧ c.context = ctx := hc ▸ ⟨rfl, rfl, rfl, rfl, rfl⟩
  have hctx : c.context < 2 := hcctx ▸ s.ctxOf_lt d q
  have hopened := State.opened htidy hdie hqueue hctx hub (huctx.trans hcctx.symm)
  have hrun : u.layerOpen (s.mkCmd d q h) = (((u.openJob c).openShow d c.context).resetLocal d c.words).done c := by
    rw [← hc, State.layerOpen_eq (by rw [hwords, hdie]; exact hmem), hdie]
  generalize ((u.openJob c).openShow d c.context).resetLocal d c.words = x at hopened hrun
  rw [hcctx, hwords] at hopened
  obtain ⟨hx, hxhead, hxnext, hxids, ⟨y, hy, hfresh, g, hg, hgid, hgctx⟩, hshown, hdone, hcells⟩ := hopened
  obtain ⟨hconsumed, hleft⟩ := State.row_ends hx (hxhead.trans huhead) (hxnext.trans hunext)
    (hxids.trans (State.enrolled_ids hview)) hdie hid b
  have hdie4 : c.die < 4 := hdie ▸ d.isLt
  have hend : Leaves (fun l => (l.coreAt (jobKey d ctx), l.groups)) (jcxBits d) x ((x.done c).windowHalt b d q) := by
    have hjobs : JobsBlind fun l => (l.coreAt (jobKey d ctx), l.groups) := fun s e k f hs hf =>
      congrArg (·, s.groups) (jobsBlind_coreAt _ s e k f hs hf)
    exact (Leaves.complete jcxBits_settled jcxBits_offResume hjobs (fun _ _ => rfl) (fun _ _ _ _ _ => rfl) hdie4 x _ _ _).trans
      (.windowHalt jcxBits_settled jcxBits_offResume hjobs _ b d q)
  have hcell : hSigEn w = false → Leaves Ledger.cells noBits x ((x.done c).windowHalt b d q) := fun hsig =>
    (Leaves.complete noBits_settled noBits_offResume (fun _ _ _ _ _ _ => rfl) (fun _ _ => rfl)
      (fun h => absurd (hsig.symm.trans (hwords ▸ h)) Bool.false_ne_true) hdie4 x Status.OK 0 0).trans
      (.windowHalt noBits_settled noBits_offResume (fun _ _ _ _ _ _ => rfl) _ b d q)
  dsimp only
  rw [hrow, hrun]
  generalize (x.done c).windowHalt b d q = t at hconsumed hleft hend hcell ⊢
  obtain ⟨hcore, hgroups⟩ := Prod.mk.inj (hend hx).2.1
  obtain ⟨z, hz, rfl⟩ := Option.map_eq_some_iff.1 (hcore.trans hy)
  obtain ⟨hzq, hzw, hzl, hzt⟩ := hfresh
  have hctx' : ctx < 2 := s.ctxOf_lt d q
  refine ⟨hconsumed, hleft, ⟨z, hz, hzq, hzw, hzl, hzt, g, (congrArg (g ∈ ·) hgroups).mpr hg, hgid, hgctx⟩,
    (hend.stsOn hx hctx' 3).trans hshown, (hend.stsOn hx hctx' 2).trans hdone, fun hsig hw i hi => ?_⟩
  exact (congrArg (fun l => Table.get (fun _ => 0) l _) (hcell hsig hx).2.1).trans
    (hcells (fun v hv => hw v (hwaits hv)) i hi)

/-- Settles O23: LAYER_OPEN completes in its row, with the bracket open before it is done; LAYER_CLOSE stays for the outcome. -/
theorem bracketsOpenAndWait : Obligations.BracketsOpenAndWait := by
  unfold Obligations.BracketsOpenAndWait
  exact ⟨fun s d q ext h hs ht hmem => ⟨_, rfl, State.layerOpen_opens hs ht hmem⟩,
    fun s d q ext h hs ht => ⟨_, rfl, State.layerClose_waits hs ht⟩⟩

end Sys2Proof.Machine
end

section
/-! Memory after a whole granule lands in staging, the wide buffer or an ACC (R213, R215, R229, R503). -/

namespace Sys2Proof.Machine

variable {s t : State} {a g data : Nat}

/-! Places beyond DRAM. -/

/-- An address of a window beyond DRAM lies above every address that a retired page moves to. -/
theorem stgBase_le (ha : dramEnd ≤ a) (hr : (regionOf a).isSome = true) : stgBase ≤ a := by
  by_contra hlt
  unfold regionOf at hr
  rw [if_neg (by omega), if_pos (by omega)] at hr
  cases hr

theorem State.phys_high (ha : dramEnd ≤ a) : s.phys a = a := if_neg (by omega)

theorem State.phys_lt (ha : a < dramEnd) : s.phys a < stgBase := by
  rw [State.phys, if_pos ha]
  split
  next q hq =>
    have hlt : q < 2 ^ 20 := by
      obtain ⟨e, -, he⟩ := List.exists_of_findSome?_eq_some hq
      simp only at he
      split at he
      · cases he
        exact bits_lt _ _ _
      · cases he
    have hmod : a % pageBytes < pageBytes := Nat.mod_lt _ (by decide)
    simp only [pageBytes, stgBase] at *
    omega
  next =>
    simp only [dramEnd, stgBase] at *
    omega

/-- Where nothing of staging and the wide buffer is fenced, nothing beyond DRAM is. -/
theorem State.fencedAt_high (ha : dramEnd ≤ a) (hstg : s.fencedStg = []) (hwbf : s.fencedWbf = []) : s.fencedAt a = false := by
  have hdram : regionOf a ≠ some .dram := fun h => by
    unfold regionOf at h
    rw [if_neg (by omega)] at h
    repeat' split at h
    all_goals cases h
  unfold State.fencedAt
  split
  next h => exact absurd h hdram
  · rw [hstg]; rfl
  · rw [hwbf]; rfl
  · rfl

theorem State.readBehind_high (ha : dramEnd ≤ a) : s.readBehind a = [] := by
  unfold State.readBehind
  split
  · rw [if_neg (by simp only [Bool.and_eq_true, decide_eq_true_eq]; omega)]
  · rfl

/-! The bytes of a granule. -/

/-- A table whose `n` keys from `g` on are set. -/
theorem get_forUpto_set {f : Nat → Byte} (g k : Nat) : ∀ (n : Nat) (m : Table Byte), Table.wf (fun _ => 0) m →
    Table.get (fun _ => 0) (forUpto (fun i m => Table.set (fun _ => 0) m (g + i) (f i)) n m) k
      = if g ≤ k ∧ k < g + n then f (k - g) else Table.get (fun _ => 0) m k
  | 0, m, _ => by rw [if_neg (by omega)]; rfl
  | n + 1, m, hm => by
    have hwf : Table.wf (fun _ => 0) (forUpto (fun i m => Table.set (fun _ => 0) m (g + i) (f i)) n m) :=
      forUpto_wf (dflt := fun _ => 0) (fun _ _ h => Table.wf_set _ _ _ _ h) n hm
    show Table.get _ (Table.set _ _ (g + n) (f n)) k = _
    by_cases hk : k = g + n
    · subst hk
      rw [Table.get_set_same _ _ _ _ hwf, if_pos (by omega), Nat.add_sub_cancel_left]
    · rw [Table.get_set_other _ _ _ _ hk, get_forUpto_set g k n m hm]
      exact if_congr (by omega) rfl rfl

/-- A byte under the mask of a whole granule is the new one. -/
theorem maskedByte_full (old new : Byte) {i : Nat} (hi : i < 64) : maskedByte old new fullMask i = new := by
  have hbit (j : Nat) (hj : j < 128) : bitOn fullMask j = true := by
    rw [bitOn_eq_testBit, fullMask, Nat.testBit_two_pow_sub_one]
    exact decide_eq_true hj
  simp only [maskedByte, hbit (2 * i) (by omega), hbit (2 * i + 1) (by omega), if_true]
  rw [show 16 * (new.toNat / 16) + new.toNat % 16 = new.toNat by omega]
  exact BitVec.eq_of_toNat_eq (by simp)

/-- Memory with a granule set. -/
def memWith (β : Nat → Byte) (g data a : Nat) : Byte := if g ≤ a ∧ a < g + 64 then BitVec.ofNat 8 (data >>> (8 * (a - g))) else β a

theorem State.rawByte_storeGranule (hs : s.Tidy) (hg : g % 64 = 0) (data a : Nat) :
    (s.storeGranule g data fullMask).rawByte a = memWith s.rawByte g data a := by
  have hmem : (s.storeGranule g data fullMask).mem = forUpto (fun i m => Table.set (fun _ => 0) m (g + i)
      (maskedByte (s.rawByte (g + i)) (BitVec.ofNat 8 (data >>> (8 * i))) fullMask i)) 64 s.mem := by
    simp only [State.storeGranule]
  have hget := get_forUpto_set (f := fun i => maskedByte (s.rawByte (g + i)) (BitVec.ofNat 8 (data >>> (8 * i))) fullMask i)
    g a 64 s.mem hs.mem
  rw [← hmem] at hget
  clear hmem
  have hlost : (s.storeGranule g data fullMask).lostSet = if s.lostGen.isEmpty then s.lostSet else setInsert g s.lostSet := by
    simp only [State.storeGranule]
  have hgen : (s.storeGranule g data fullMask).lostGen = s.lostGen := by simp only [State.storeGranule]
  rw [State.rawByte, hget, hlost, hgen, memWith]
  by_cases hin : g ≤ a ∧ a < g + 64
  · have hcell : a / 64 * 64 = g := by omega
    simp only [if_pos hin, maskedByte_full _ _ (show a - g < 64 by omega), hcell]
    split
    · rfl
    next => rw [contains_setInsert, if_pos (.inr rfl)]
  · have hcell : a / 64 * 64 ≠ g := by omega
    simp only [if_neg hin]
    rw [State.rawByte]
    split
    · rfl
    next =>
      have hmem : (setInsert g s.lostSet).contains (a / 64 * 64) = s.lostSet.contains (a / 64 * 64) := by
        rw [Bool.eq_iff_iff, List.contains_iff_mem, List.contains_iff_mem, mem_setInsert]
        simp [hcell]
      rw [hmem]

/-- A store changes the stored bytes, and which of them have been written since an event. -/
theorem State.storeGranule_part {β : Type} (f : State → β) (hf : ∀ x m l, f { x with mem := m, lostSet := l } = f x) (s : State)
    (g data mask : Nat) : f (s.storeGranule g data mask) = f s := hf s _ _

section Store
variable (hs : s.Tidy) (hg : g % 64 = 0) (hhigh : stgBase ≤ g)

theorem State.badAt_storeGranule (s : State) (g data mask a : Nat) : (s.storeGranule g data mask).badAt a = s.badAt a :=
  State.storeGranule_part (State.badAt · a) (fun _ _ _ => rfl) s g data mask

theorem State.readBehind_storeGranule (s : State) (g data mask a : Nat) :
    (s.storeGranule g data mask).readBehind a = s.readBehind a :=
  State.storeGranule_part (State.readBehind · a) (fun _ _ _ => rfl) s g data mask

include hs hg hhigh

theorem State.byteAt_storeGranule (hbad : s.badAt g = false) (data a : Nat) :
    (s.storeGranule g data fullMask).byteAt a = memWith s.byteAt g data a := by
  have hphys : (s.storeGranule g data fullMask).phys a = s.phys a :=
    State.storeGranule_part (State.phys · a) (fun _ _ _ => rfl) s g data fullMask
  have hdram : dramEnd < stgBase := by decide
  rw [State.byteAt, State.badAt_storeGranule, hphys, State.rawByte_storeGranule hs hg]
  by_cases hin : g ≤ a ∧ a < g + 64
  · have hcell : s.badAt a = s.badAt g := by
      rw [State.badAt, State.badAt, show a / 64 * 64 = g / 64 * 64 by omega]
    rw [hcell, hbad, State.phys_high (by omega : dramEnd ≤ a), memWith, memWith, if_pos hin, if_pos hin]
    rfl
  · have hout : ¬ (g ≤ s.phys a ∧ s.phys a < g + 64) := fun h => by
      by_cases ha : a < dramEnd
      · have := s.phys_lt ha
        omega
      · rw [State.phys_high (by omega)] at h
        exact hin h
    rw [memWith, memWith, if_neg hout, if_neg hin, State.byteAt]

/-- Granules of DRAM do not change. -/
theorem State.granuleWith_storeGranule (hbad : s.badAt g = false) (data : Nat) (ha : a < dramEnd) (l : List HeldWrite) :
    (s.storeGranule g data fullMask).granuleWith a l = s.granuleWith a l := by
  have hbyte (i : Nat) (hi : i < 64) : (s.storeGranule g data fullMask).byteAt (a / 64 * 64 + i) = s.byteAt (a / 64 * 64 + i) := by
    rw [State.byteAt_storeGranule hs hg hhigh hbad, memWith, if_neg]
    simp only [dramEnd, stgBase] at *
    omega
  have hbytes : tabulate (fun i => (s.storeGranule g data fullMask).byteAt (a / 64 * 64 + i)) 64
      = tabulate (fun i => s.byteAt (a / 64 * 64 + i)) 64 := List.map_congr_left fun i hi => hbyte i (List.mem_range.1 hi)
  rw [State.granuleWith, State.granuleWith, State.badAt_storeGranule, hbytes]

theorem State.bad_storeGranule (hbad : s.badAt g = false) (data a : Nat) : (s.storeGranule g data fullMask).bad a = s.bad a := by
  have hfenced : (s.storeGranule g data fullMask).fencedAt ((s.storeGranule g data fullMask).phys (a / 64 * 64))
      = s.fencedAt (s.phys (a / 64 * 64)) :=
    State.storeGranule_part (fun s => s.fencedAt (s.phys (a / 64 * 64))) (fun _ _ _ => rfl) s g data fullMask
  rw [State.bad, State.bad, State.readBehind_storeGranule, State.badAt_storeGranule]
  by_cases ha : a < dramEnd
  · simp only [State.granuleWith_storeGranule hs hg hhigh hbad data ha, hfenced]
  · rw [State.readBehind_high (by omega)]

theorem State.byte_storeGranule (hbad : s.badAt g = false) (data a : Nat) :
    (s.storeGranule g data fullMask).byte a = memWith s.byte g data a := by
  have hat : (s.storeGranule g data fullMask).byteAt a = memWith s.byteAt g data a :=
    State.byteAt_storeGranule hs hg hhigh hbad data a
  rw [State.byte, State.readBehind_storeGranule, hat]
  by_cases ha : a < dramEnd
  · have hout : ¬ (g ≤ a ∧ a < g + 64) := by
      simp only [dramEnd, stgBase] at *
      omega
    simp only [memWith, if_neg hout, State.bad_storeGranule hs hg hhigh hbad, State.granuleWith_storeGranule hs hg hhigh hbad data ha]
    rw [State.byte]
  · have hread (x : Nat) (hx : dramEnd ≤ x) : s.byte x = s.byteAt x := by rw [State.byte, State.readBehind_high hx]
    rw [State.readBehind_high (by omega), memWith, memWith, hread a (by omega)]

end Store

end Sys2Proof.Machine
end

section
/-! What runs a commit-add list reads and writes (R191, R192, R196). -/

namespace Sys2Proof.Machine

variable {s t u : State} {a g data d k : Nat}

/-! What access to memory depends on. -/

/-- The parts of the state that a read of memory looks at, but for the retirement table. -/
def State.accessParts (s : State) : Table Byte × List Nat × List Nat × List Nat × List Nat × Table Nat × List Nat × Table Page
    × List HeldWrite × List Nat × Option Retiring :=
  (s.mem, s.poison, s.fencedPch, s.fencedStg, s.fencedWbf, s.lostGen, s.lostSet, s.pages, s.heldWrites, s.preserving, s.retiring)

theorem State.reads_of_parts (h : t.accessParts = s.accessParts) (hspare : ∀ n, t.spareOf n = s.spareOf n) :
    t.byte = s.byte ∧ t.bad = s.bad := by
  simp only [State.accessParts, Prod.mk.injEq] at h
  obtain ⟨hmem, hpoison, hpch, hstg, hwbf, hgen, hset, hpages, hheld, hpreserving, hretiring⟩ := h
  have hphys (x : Nat) : t.phys x = s.phys x := State.phys_of_spareOf hspare x
  have hfenced (x : Nat) : t.fencedAt x = s.fencedAt x := by rw [State.fencedAt, State.fencedAt, hpch, hstg, hwbf]
  have hbad (x : Nat) : t.badAt x = s.badAt x := by rw [State.badAt, State.badAt, hphys, hfenced, hpoison]
  have hraw (x : Nat) : t.rawByte x = s.rawByte x := by rw [State.rawByte, State.rawByte, hgen, hset, hmem]
  have hat (x : Nat) : t.byteAt x = s.byteAt x := by rw [State.byteAt, State.byteAt, hbad, hphys, hraw]
  have hpage : t.pageSt = s.pageSt := funext fun p => by rw [State.pageSt, State.pageSt, hpages]
  have hbehind (x : Nat) : t.readBehind x = s.readBehind x := by
    rw [State.readBehind, State.readBehind, hretiring, hpage, hpreserving, hheld]
  have hwith (x : Nat) (l : List HeldWrite) : t.granuleWith x l = s.granuleWith x l := by
    simp only [State.granuleWith, hbad, hat]
  have hdelivered (x : Nat) : t.bad x = s.bad x := by simp only [State.bad, hbehind, hbad, hfenced, hphys, hwith]
  exact ⟨funext fun x => by simp only [State.byte, hbehind, hat, hdelivered, hwith], funext hdelivered⟩

theorem State.spareOf_of_word (hs : s.Tidy) (ht : t.Tidy) (h : ∀ a, retireWord a = true → t.word a = s.word a) (n : Nat) :
    t.spareOf n = s.spareOf n := by
  have hword (a : Nat) (ha : retireWord a = true) : Table.get resetWord t.regs a = Table.get resetWord s.regs a :=
    BitVec.eq_of_toNat_eq (h a ha)
  rw [State.spareOf_eq, State.spareOf_eq, Table.filter_eq_of_get resetWord retireWord ht.regs hs.regs hword]

/-! What the run of a list leaves. -/

/-- The commands, the brackets that are open and their brackets on the dies. -/
def Ledger.standing (l : Ledger) : List Cmd × List Group × (Nat → Option Bracket) := (l.cmds, l.groups, (l.bracketAt ·))

/-- A run writes counters and words of CLX and JCX, and nothing that brackets or reads depend on but bytes. -/
structure State.Runs (s t : State) : Prop where
  tidy     : t.Tidy
  standing : t.ledger.standing = s.ledger.standing
  bad      : t.bad = s.bad
  held     : t.heldWrites = s.heldWrites
  poison   : t.poison = s.poison
  fences   : t.fencedStg = s.fencedStg ∧ t.fencedWbf = s.fencedWbf
  word     : ∀ a, accounting a = false → a / 0x10000 % 0x100 ∉ [B.CLX, B.JCX] → t.word a = s.word a

theorem State.Runs.refl (hs : s.Tidy) : s.Runs s := ⟨hs, rfl, rfl, rfl, rfl, ⟨rfl, rfl⟩, fun _ _ _ => rfl⟩

theorem State.Runs.trans (h1 : s.Runs t) (h2 : t.Runs u) : s.Runs u :=
  ⟨h2.tidy, h2.standing.trans h1.standing, h2.bad.trans h1.bad, h2.held.trans h1.held, h2.poison.trans h1.poison,
    ⟨h2.fences.1.trans h1.fences.1, h2.fences.2.trans h1.fences.2⟩,
    fun a ha hb => (h2.word a ha hb).trans (h1.word a ha hb)⟩

theorem retireWord_block (h : retireWord a = true) : a / 0x10000 % 0x100 ∉ [B.CLX, B.JCX] := by
  simp only [retireWord, Bool.and_eq_true, beq_iff_eq] at h
  rw [h.1.1]
  decide

/-- What changes none of the parts that reads look at. -/
theorem State.Runs.of_parts (hs : s.Tidy) (ht : t.Tidy) (hparts : t.accessParts = s.accessParts)
    (hstanding : t.ledger.standing = s.ledger.standing)
    (hword : ∀ a, accounting a = false → a / 0x10000 % 0x100 ∉ [B.CLX, B.JCX] → t.word a = s.word a) :
    s.Runs t ∧ t.byte = s.byte := by
  obtain ⟨hbyte, hbad⟩ := State.reads_of_parts hparts
    (State.spareOf_of_word hs ht fun a ha => hword a (accounting_retireWord ha) (retireWord_block ha))
  simp only [State.accessParts, Prod.mk.injEq] at hparts
  obtain ⟨-, hpoison, -, hstg, hwbf, -, -, -, hheld, -, -⟩ := hparts
  exact ⟨⟨ht, hstanding, hbad, hheld, hpoison, ⟨hstg, hwbf⟩, hword⟩, hbyte⟩

theorem State.Runs.of_onlyWords {l : List Nat} (hs : s.Tidy) (ht : t.Tidy) (h : OnlyWords s t l)
    (hl : ∀ a ∈ l, a / 0x10000 % 0x100 ∈ [B.CLX, B.JCX]) : s.Runs t ∧ t.byte = s.byte :=
  State.Runs.of_parts hs ht (h.1.part State.accessParts fun _ _ _ _ => rfl) (h.1.part (fun x => x.ledger.standing) fun _ _ _ _ => rfl)
    fun a ha hb => h.word a ha fun hmem => hb (hl a hmem)

theorem State.Runs.count (hs : s.Tidy) {pg : Nat} {f : Fld} (h : Counts pg f) (n : Nat) :
    s.Runs (s.count pg f n) ∧ (s.count pg f n).byte = s.byte :=
  State.Runs.of_onlyWords hs (State.count_tidy s pg f n hs) (.count_of_accounting s pg f n [] h.1 h.2) nofun

/-! Quiet memory. -/

/-- Nothing is poisoned, nothing beyond DRAM is fenced, and no numeric event is recorded. -/
structure State.Quiet (s : State) : Prop where
  poison : s.poison = []
  stg    : s.fencedStg = []
  wbf    : s.fencedWbf = []
  events : ∀ e, e < 4 → s.on (page e B.NUM) R.NUM_EVT_CTL_EN = false

theorem State.Quiet.runs (h : s.Quiet) (hr : s.Runs t) : t.Quiet := by
  refine ⟨hr.poison.trans h.poison, hr.fences.1.trans h.stg, hr.fences.2.trans h.wbf, fun e he => ?_⟩
  obtain ⟨-, hblock, -⟩ := page_offset e (i := B.NUM) (off := R.NUM_EVT_CTL_EN.off) (by decide) (by decide)
  have hword := hr.word (page e B.NUM + R.NUM_EVT_CTL_EN.off)
    (accounting_page e (by decide) (by decide) (by decide) (by decide)) (by rw [hblock]; decide)
  exact (congrArg (fun w => bits w 8 1 != 0) hword).trans (h.events e he)

theorem State.Quiet.badAt (h : s.Quiet) (ha : dramEnd ≤ a) : s.badAt a = false := by
  have hcell : dramEnd ≤ a / 64 * 64 := by
    simp only [dramEnd] at *
    omega
  rw [State.badAt, State.phys_high hcell, h.poison, State.fencedAt_high hcell h.stg h.wbf]
  rfl

theorem State.Quiet.bad (h : s.Quiet) (ha : dramEnd ≤ a) : s.bad a = false := by
  rw [State.bad, State.readBehind_high ha]
  exact h.badAt ha

/-! A whole granule lands. -/

theorem State.markWritten_runs (hs : s.Tidy) (a : Nat) : s.Runs (s.markWritten a) ∧ (s.markWritten a).byte = s.byte := by
  have hregs (hit : Nat × Word → Bool) (hblock : ∀ e, hit e = true → e.1 / 0x10000 % 0x100 = B.CLX) (f : State → Nat → Nat) :
      ((s.each ((s.regs.filter hit).map Prod.fst) fun t r => t.setWord r (f t r)).accessParts = s.accessParts
        ∧ (s.each ((s.regs.filter hit).map Prod.fst) fun t r => t.setWord r (f t r)).ledger.standing = s.ledger.standing)
      ∧ ∀ b, b / 0x10000 % 0x100 ∉ [B.CLX, B.JCX] →
        (s.each ((s.regs.filter hit).map Prod.fst) fun t r => t.setWord r (f t r)).word b = s.word b := by
    refine List.foldlRecOn _ _ (motive := fun t : State => (t.accessParts = s.accessParts
      ∧ t.ledger.standing = s.ledger.standing) ∧ ∀ b, b / 0x10000 % 0x100 ∉ [B.CLX, B.JCX] → t.word b = s.word b)
      ⟨⟨rfl, rfl⟩, fun _ _ => rfl⟩ fun t ht r hr => ⟨ht.1, fun b hb => ?_⟩
    obtain ⟨e, he, rfl⟩ := List.mem_map.1 hr
    rw [State.word_setWord_other, ht.2 b hb]
    rintro rfl
    exact hb (by rw [hblock e (List.mem_filter.1 he).2]; decide)
  have hall : ((s.markWritten a).accessParts = s.accessParts ∧ (s.markWritten a).ledger.standing = s.ledger.standing)
      ∧ ∀ b, b / 0x10000 % 0x100 ∉ [B.CLX, B.JCX] → (s.markWritten a).word b = s.word b := by
    refine hregs _ (fun e he => ?_) fun t r => setBits (t.word r) 62 1 1
    simp only [Bool.and_eq_true, decide_eq_true_eq] at he
    obtain ⟨⟨⟨⟨⟨⟨hbase, htop⟩, -⟩, -⟩, -⟩, -⟩, -⟩ := he
    simp only [page, B.CLX] at *
    omega
  obtain ⟨⟨hparts, hstanding⟩, hword⟩ := hall
  exact State.Runs.of_parts hs (State.markWritten_tidy s a hs) hparts hstanding fun b _ hb => hword b hb

theorem State.storeGranule_runs (hs : s.Tidy) (hg : g % 64 = 0) (hhigh : stgBase ≤ g) (hbad : s.badAt g = false) (data : Nat) :
    s.Runs (s.storeGranule g data fullMask) ∧ (s.storeGranule g data fullMask).byte = memWith s.byte g data := by
  have hpart {β : Type} (f : State → β) (hf : ∀ x m l, f { x with mem := m, lostSet := l } = f x) :=
    State.storeGranule_part f hf s g data fullMask
  exact ⟨⟨State.storeGranule_tidy s g data fullMask hs, hpart (fun x => x.ledger.standing) fun _ _ _ => rfl,
    funext (State.bad_storeGranule hs hg hhigh hbad data), hpart State.heldWrites fun _ _ _ => rfl,
    hpart State.poison fun _ _ _ => rfl, ⟨hpart State.fencedStg fun _ _ _ => rfl, hpart State.fencedWbf fun _ _ _ => rfl⟩,
    fun a _ _ => hpart (State.word · a) fun _ _ _ => rfl⟩, funext (State.byte_storeGranule hs hg hhigh hbad data)⟩

end Sys2Proof.Machine
end

section
/-! A commit-add list runs (R191, R192, R196). -/

namespace Sys2Proof.Machine

variable {s t u : State} {a g data d k owner src dst : Nat} {store : Bool} {e : List Nat}

/-! Granules. -/

/-- A whole granule beyond DRAM lands. -/
theorem State.land_runs (hs : s.Tidy) (hq : s.Quiet) (hg : g % 64 = 0) (hhigh : stgBase ≤ g) (data : Nat) :
    s.Runs (s.land .engine g data fullMask false) ∧ (s.land .engine g data fullMask false).byte = memWith s.byte g data := by
  have hdram : dramEnd ≤ g := Nat.le_trans (by decide) hhigh
  obtain ⟨hcount, hcountByte⟩ := State.Runs.of_onlyWords hs (State.countBytes_tidy s .engine true g (maskBytes fullMask) hs)
    (.countBytes s .engine true g (maskBytes fullMask)) nofun
  unfold State.land
  simp only [State.phys_high hdram, State.fencedAt_high hdram hq.stg hq.wbf, if_neg (Nat.not_lt.2 hdram), Bool.false_eq_true, if_false, if_true]
  generalize s.countBytes .engine true g (maskBytes fullMask) = u at hcount hcountByte ⊢
  have hu := hq.runs hcount
  have hsame : ({ u with poison := setErase g u.poison } : State) = u := by
    rw [show setErase g u.poison = u.poison by rw [hu.poison]; rfl]
  obtain ⟨hstore, hbyte⟩ := State.storeGranule_runs hcount.tidy hg hhigh (hu.badAt hdram) data
  obtain ⟨hmark, hmarkByte⟩ := State.markWritten_runs hstore.tidy g
  rw [hsame]
  exact ⟨(hcount.trans hstore).trans hmark, hmarkByte.trans (hbyte.trans (congrArg (memWith · g data) hcountByte))⟩

/-- So does one of a command whose writes have landed. -/
theorem State.writeGranule_runs (hs : s.Tidy) (hq : s.Quiet) (hlanded : s.allLanded owner = true) (hg : g % 64 = 0)
    (hhigh : stgBase ≤ g) (data : Nat) :
    s.Runs (s.writeGranule .engine (some owner) g data fullMask false)
      ∧ (s.writeGranule .engine (some owner) g data fullMask false).byte = memWith s.byte g data := by
  have hdram : ¬ g < dramEnd := Nat.not_lt.2 (Nat.le_trans (by decide) hhigh)
  have hfollows (w : HeldWrite) (hw : w.owner = some owner ∧ w.cpl = none) : s.heldWrites.any w.follows = false := by
    rw [State.allLanded, Bool.not_eq_true', List.any_eq_false] at hlanded
    refine List.any_eq_false.2 fun v hv => ?_
    have hne := hlanded v hv
    simp only [HeldWrite.follows, hw.1, hw.2]
    simpa using hne
  unfold State.writeGranule State.arrive
  rw [if_neg (by rw [hfollows _ ⟨rfl, rfl⟩]; exact Bool.false_ne_true), if_neg fun h => hdram h.1]
  exact State.land_runs hs hq hg hhigh data

/-! Events of numbers that are not finite. -/

theorem nextBlind_standing : NextBlind Ledger.standing := fun s d k n hs => by
  refine Prod.ext rfl (Prod.ext rfl (funext fun key => ?_))
  show Ledger.bracketAt key (s.setJob d k { s.job d k with next := n }).ledger = Ledger.bracketAt key s.ledger
  by_cases h : key = jobKey d k
  · subst h
    have hjob := congrArg Job.bracket (State.job_setJob_same hs d k { s.job d k with next := n })
    exact hjob
  · exact jobBlind_bracketAt h s _ hs

theorem jcx_block (d : Nat) {off : Nat} (hoff : off < 0x10000) : (page d B.JCX + off) / 0x10000 % 0x100 ∈ [B.CLX, B.JCX] := by
  obtain ⟨-, hblock, -⟩ := page_offset d (i := B.JCX) (by decide) hoff
  rw [hblock]
  decide

theorem State.setCause_runs (hs : s.Tidy) (d : Nat) (hk : k < 2) (b : Nat) :
    s.Runs (s.setCause d k b) ∧ (s.setCause d k b).byte = s.byte := by
  have ht := State.setCause_tidy s d k b hs
  cases h : s.sampled d k with
  | true =>
    rw [State.setCause_next h] at ht ⊢
    exact State.Runs.of_parts hs ht rfl (nextBlind_standing s d k _ hs) fun _ _ _ => rfl
  | false =>
    rw [State.setCause_now h] at ht ⊢
    refine State.Runs.of_onlyWords hs ht (.putCauses s d k _) fun a ha => ?_
    rw [List.mem_singleton.1 ha]
    exact jcx_block d (show 0x110 + 8 * k < 0x10000 by omega)

/-- R196, R204: a number that is not finite, where no record is kept. -/
theorem State.nonfinite_runs (hs : s.Tidy) (hq : s.Quiet) (hd : d < 4) (hk : k < 2) :
    s.Runs (s.nonfinite d k) ∧ (s.nonfinite d k).byte = s.byte := by
  unfold State.nonfinite
  extract_lets pg now s1 s2
  have h1 : s.Runs s1 ∧ s1.byte = s.byte := by
    simp only [s1]
    split
    · exact ⟨.refl hs, rfl⟩
    · exact State.Runs.count hs (counts_num hd (by simp)) 1
  obtain ⟨h1, b1⟩ := h1
  have h2 : s1.Runs s2 ∧ s2.byte = s1.byte := State.setCause_runs h1.tidy d hk _
  obtain ⟨h2, b2⟩ := h2
  clear_value s1 s2
  have hput := State.put_tidy pg (R.JCX_NUM_STS_NF_AFTER_GATE k) 1 h2.tidy
  obtain ⟨h3, b3⟩ := State.Runs.of_onlyWords h2.tidy hput
    (.put s2 pg (R.JCX_NUM_STS_NF_AFTER_GATE k) 1 [pg + (0x110 + 8 * k)] (.inr List.mem_cons_self)) fun a ha => by
      rw [List.mem_singleton.1 ha]
      exact jcx_block d (show 0x110 + 8 * k < 0x10000 by omega)
  generalize s2.put pg (R.JCX_NUM_STS_NF_AFTER_GATE k) 1 = s3 at h3 b3 ⊢
  split
  · have hoff : s3.stamp.2.on (page d B.NUM) R.NUM_EVT_CTL_EN = false := (hq.runs ((h1.trans h2).trans h3)).events d hd
    have hevent : s3.numEvent d k 5 0 0 0 0 0 0 = s3.stamp.2 := if_pos (by rw [hoff]; rfl)
    obtain ⟨h4, b4⟩ := State.Runs.of_parts (t := s3.stamp.2) h3.tidy (State.stamp_tidy h3.tidy) rfl rfl fun _ _ _ => rfl
    rw [hevent]
    exact ⟨((h1.trans h2).trans h3).trans h4, b4.trans (b3.trans (b2.trans b1))⟩
  · exact ⟨h1.trans h2, b2.trans b1⟩

end Sys2Proof.Machine
end

section
/-! What a commit-add list makes of memory (R191, R192). -/

namespace Sys2Proof.Machine

variable {s t u : State} {a g data d k owner src dst : Nat} {store : Bool} {e : List Nat} {β γ : Nat → Byte}

/-! Memory as a function of addresses. -/

/-- The little-endian number of `n` bytes at `a`. -/
def readMem (β : Nat → Byte) (a n : Nat) : Nat := leNat (tabulate (fun i => β (a + i)) n)

theorem State.load_eq (s : State) (a n : Nat) : s.load a n = readMem s.byte a n := rfl

theorem readMem_congr {n : Nat} (h : ∀ x, a ≤ x → x < a + n → γ x = β x) : readMem γ a n = readMem β a n :=
  congrArg leNat (List.map_congr_left fun i hi => h (a + i) (by omega) (by have := List.mem_range.1 hi; omega))

/-- The sixteen codes that a granule of an entry gives its destination. -/
def addGranule (β : Nat → Byte) (store : Bool) (src dst : Nat) : List Nat :=
  if store then codes16 (readMem β src 64) else List.zipWith (fadd .fp32) (codes16 (readMem β dst 64)) (codes16 (readMem β src 64))

/-- Memory after a granule of an entry. -/
def addedMem (β : Nat → Byte) (store : Bool) (src dst : Nat) : Nat → Byte :=
  memWith β dst (packElems 32 (addGranule β store src dst))

/-- Memory after the first `n` granules of an entry. -/
def entryMem (β : Nat → Byte) (e : List Nat) (n : Nat) : Nat → Byte :=
  (List.range n).foldl (fun β i => addedMem β (wf e 2 32 1 == 1) (caddSrc e + 64 * i) (wf e 1 0 52 + 64 * i)) β

/-- Memory after entries. -/
def entriesMem (β : Nat → Byte) (es : List (List Nat)) : Nat → Byte :=
  es.foldl (fun β e => entryMem β e (wf e 2 0 32 / 16)) β

/-! The codes of a granule. -/

theorem length_codes16 (n : Nat) : (codes16 n).length = 16 := by simp [codes16, tabulate]

theorem length_addGranule (β : Nat → Byte) (store : Bool) (src dst : Nat) : (addGranule β store src dst).length = 16 := by
  unfold addGranule
  split
  · exact length_codes16 _
  · simp [length_codes16]

theorem packElems_lt : ∀ l : List Nat, packElems 32 l < 256 ^ (4 * l.length)
  | [] => by simp [packElems]
  | x :: l => by
    have ih := packElems_lt l
    have hx : x % 2 ^ 32 < 2 ^ 32 := Nat.mod_lt _ (by decide)
    have hpow : (256 : Nat) ^ (4 * (l.length + 1)) = 256 ^ (4 * l.length) * 2 ^ 32 := Nat.pow_add 256 (4 * l.length) 4
    rw [packElems, List.length_cons, hpow]
    calc x % 2 ^ 32 + packElems 32 l * 2 ^ 32 < (packElems 32 l + 1) * 2 ^ 32 := by omega
      _ ≤ 256 ^ (4 * l.length) * 2 ^ 32 := Nat.mul_le_mul_right _ ih

theorem bits_packElems : ∀ (l : List Nat) (i : Nat), i < l.length → bits (packElems 32 l) (32 * i) 32 = l.getD i 0 % 2 ^ 32
  | [], _, h => absurd h (by simp)
  | x :: l, 0, _ => by
    rw [packElems, bits]
    simp
  | x :: l, i + 1, h => by
    have ih := bits_packElems l i (by simpa using h)
    have hx : x % 2 ^ 32 < 2 ^ 32 := Nat.mod_lt _ (by decide)
    rw [packElems, List.getD_cons_succ, ← ih, bits, bits, Nat.shiftRight_eq_div_pow, Nat.shiftRight_eq_div_pow,
      show 32 * (i + 1) = 32 + 32 * i by omega, Nat.pow_add, ← Nat.div_div_eq_div_mul, Nat.add_mul_div_right _ _ (by decide),
      Nat.div_eq_of_lt hx, Nat.zero_add]

/-- The codes that were packed read back. -/
theorem codes16_packElems {l : List Nat} (h : l.length = 16) : codes16 (packElems 32 l) = l.map (· % 2 ^ 32) := by
  refine List.ext_getElem (by simp [length_codes16, h]) fun i h1 h2 => ?_
  have hi : i < l.length := by rwa [length_codes16, ← h] at h1
  have hget : (codes16 (packElems 32 l))[i] = bits (packElems 32 l) (32 * i) 32 := by simp [codes16, tabulate]
  refine hget.trans ((bits_packElems l i hi).trans ?_)
  rw [List.getElem_map, List.getD_eq_getElem _ _ hi]

theorem leNat_tabulate : ∀ (n data : Nat), leNat (tabulate (fun i => BitVec.ofNat 8 (data >>> (8 * i))) n) = data % 256 ^ n
  | 0, data => by simp [tabulate, leNat, Nat.mod_one]
  | n + 1, data => by
    have htail : tabulate (fun i => BitVec.ofNat 8 (data >>> (8 * i))) (n + 1)
        = BitVec.ofNat 8 data :: tabulate (fun i => BitVec.ofNat 8 ((data >>> 8) >>> (8 * i))) n := by
      simp only [tabulate, List.range_succ_eq_map, List.map_cons, List.map_map, Nat.mul_zero, Nat.shiftRight_zero]
      refine congrArg _ (List.map_congr_left fun i _ => ?_)
      simp only [Function.comp, ← Nat.shiftRight_add]
      rw [show 8 * i.succ = 8 + 8 * i by omega]
    have hpow : (256 : Nat) ^ (n + 1) = 256 * 256 ^ n := Nat.pow_succ'
    rw [htail, leNat, leNat_tabulate n, Nat.shiftRight_eq_div_pow, BitVec.toNat_ofNat, hpow, Nat.mod_mul]

/-- A granule that was set reads back. -/
theorem readMem_memWith (h : data < 256 ^ 64) : readMem (memWith β g data) g 64 = data := by
  have hbytes : tabulate (fun i => memWith β g data (g + i)) 64 = tabulate (fun i => BitVec.ofNat 8 (data >>> (8 * i))) 64 :=
    List.map_congr_left fun i hi => by
      have hlt := List.mem_range.1 hi
      rw [memWith, if_pos (by omega), Nat.add_sub_cancel_left]
  rw [readMem, hbytes, leNat_tabulate, Nat.mod_eq_of_lt h]

/-! Entries that lie apart. -/

theorem addGranule_congr (h : ∀ x, src ≤ x ∧ x < src + 64 ∨ dst ≤ x ∧ x < dst + 64 → γ x = β x) :
    addGranule γ store src dst = addGranule β store src dst := by
  have hsrc : readMem γ src 64 = readMem β src 64 := readMem_congr fun x h1 h2 => h x (.inl ⟨h1, h2⟩)
  have hdst : readMem γ dst 64 = readMem β dst 64 := readMem_congr fun x h1 h2 => h x (.inr ⟨h1, h2⟩)
  rw [addGranule, addGranule, hsrc, hdst]

/-- The granule that an entry has given its destination. -/
theorem readMem_addedMem (β : Nat → Byte) (store : Bool) (src dst : Nat) :
    codes16 (readMem (addedMem β store src dst) dst 64) = (addGranule β store src dst).map (· % 2 ^ 32) := by
  have hlt := packElems_lt (addGranule β store src dst)
  rw [length_addGranule, show 4 * 16 = 64 from rfl] at hlt
  rw [addedMem, readMem_memWith hlt, codes16_packElems (length_addGranule _ _ _ _)]

theorem addedMem_apart {x : Nat} (h : x < dst ∨ dst + 64 ≤ x) : addedMem β store src dst x = β x := if_neg (by omega)

/-- An entry changes its destination alone. -/
theorem entryMem_apart (β : Nat → Byte) (e : List Nat) {x : Nat} :
    ∀ n, (x < wf e 1 0 52 ∨ wf e 1 0 52 + 64 * n ≤ x) → entryMem β e n x = β x
  | 0, _ => rfl
  | n + 1, h => by
    rw [entryMem, List.range_succ, List.foldl_append]
    exact (addedMem_apart (by omega)).trans (entryMem_apart β e n (by omega))

/-- Where an entry's source lies apart from its destination each granule is what memory before the entry gives. -/
theorem readMem_entryMem (β : Nat → Byte) (e : List Nat) {i : Nat} : ∀ n, i < n →
    (caddSrc e + 64 * n ≤ wf e 1 0 52 ∨ wf e 1 0 52 + 64 * n ≤ caddSrc e) →
    codes16 (readMem (entryMem β e n) (wf e 1 0 52 + 64 * i) 64)
      = (addGranule β (wf e 2 32 1 == 1) (caddSrc e + 64 * i) (wf e 1 0 52 + 64 * i)).map (· % 2 ^ 32)
  | 0, h, _ => absurd h (Nat.not_lt_zero _)
  | n + 1, h, hsrc => by
    rw [entryMem, List.range_succ, List.foldl_append]
    show codes16 (readMem (addedMem (entryMem β e n) _ _ _) _ 64) = _
    by_cases hi : i = n
    · subst hi
      rw [readMem_addedMem, addGranule_congr fun x hx => entryMem_apart β e i (by omega)]
    · rw [readMem_congr fun x h1 h2 => addedMem_apart (by omega)]
      exact readMem_entryMem β e n (by omega) (by omega)

/-- Whether a range lies apart from the destination of an entry. -/
def ApartFrom (a n : Nat) (e : List Nat) : Prop := a + n ≤ wf e 1 0 52 ∨ wf e 1 0 52 + 4 * wf e 2 0 32 ≤ a

theorem entriesMem_apart {x : Nat} : ∀ (es : List (List Nat)) (β : Nat → Byte), (∀ e ∈ es, wf e 2 0 32 % 16 = 0) →
    (∀ e ∈ es, ApartFrom x 1 e) → entriesMem β es x = β x
  | [], _, _, _ => rfl
  | e :: es, β, hn, h => by
    have he := h e List.mem_cons_self
    have hmod := hn e List.mem_cons_self
    exact (entriesMem_apart es (entryMem β e (wf e 2 0 32 / 16)) (fun f hf => hn f (.tail _ hf)) fun f hf => h f (.tail _ hf)).trans
      (entryMem_apart β e _ (by unfold ApartFrom at he; omega))

/-- R191, R192: entries that lie apart each give their destination what memory before the list says. -/
theorem readMem_entriesMem : ∀ (es : List (List Nat)) (β : Nat → Byte), (∀ e ∈ es, wf e 2 0 32 % 16 = 0) →
    es.Pairwise (fun e f => ApartFrom (wf f 1 0 52) (4 * wf f 2 0 32) e) →
    (∀ e ∈ es, ∀ f ∈ es, ApartFrom (caddSrc f) (4 * wf f 2 0 32) e) → ∀ e ∈ es, ∀ i, i < wf e 2 0 32 / 16 →
      codes16 (readMem (entriesMem β es) (wf e 1 0 52 + 64 * i) 64)
        = (addGranule β (wf e 2 32 1 == 1) (caddSrc e + 64 * i) (wf e 1 0 52 + 64 * i)).map (· % 2 ^ 32)
  | [], _, _, _, _ => nofun
  | e :: es, β, hn, hpair, hsrc => by
    obtain ⟨hfirst, hrest⟩ := List.pairwise_cons.1 hpair
    have hmod := hn e List.mem_cons_self
    intro f hf i hi
    have hmodf := hn f hf
    rcases List.mem_cons.1 hf with rfl | hf
    · have hself := hsrc f hf f hf
      have hlater : ∀ x, wf f 1 0 52 + 64 * i ≤ x → x < wf f 1 0 52 + 64 * i + 64 →
          entriesMem (entryMem β f (wf f 2 0 32 / 16)) es x = entryMem β f (wf f 2 0 32 / 16) x := fun x h1 h2 =>
        entriesMem_apart es _ (fun y hy => hn y (.tail _ hy)) fun y hy => by
          have hy := hfirst y hy
          unfold ApartFrom at hy ⊢
          omega
      exact (congrArg codes16 (readMem_congr hlater)).trans
        (readMem_entryMem β f _ hi (by unfold ApartFrom at hself; omega))
    · have hfe := hfirst f hf
      have hse := hsrc e List.mem_cons_self f (.tail _ hf)
      refine (readMem_entriesMem es (entryMem β e (wf e 2 0 32 / 16)) (fun y hy => hn y (.tail _ hy)) hrest
        (fun x hx y hy => hsrc x (.tail _ hx) y (.tail _ hy)) f hf i hi).trans ?_
      rw [addGranule_congr fun x hx => entryMem_apart β e _ (by unfold ApartFrom at hfe hse; omega)]

end Sys2Proof.Machine
end

section
/-! The lists of the members run on memory (R191, R192). -/

namespace Sys2Proof.Machine

variable {s t u : State} {a d k owner src dst : Nat} {store : Bool} {e : List Nat} {w : List Nat}

/-! A granule. -/

theorem State.granuleOf_landed {x : Nat} (hlanded : s.allLanded owner = true) (hx : x % 64 = 0) :
    s.granuleOf (some owner) x = (s.bad x, readMem s.byte x 64) := by
  have hnone : (s.heldWrites.filter fun v => v.owner == some owner && v.addr == x / 64 * 64) = [] := by
    rw [State.allLanded, Bool.not_eq_true', List.any_eq_false] at hlanded
    refine List.filter_eq_nil_iff.2 fun v hv => ?_
    have hne := hlanded v hv
    simp_all
  rw [State.granuleOf, hnone, State.load_eq, show x / 64 * 64 = x by omega]

theorem State.caddGranule_runs (hs : s.Tidy) (hq : s.Quiet) (hlanded : s.allLanded owner = true) (hsrc : src % 64 = 0)
    (hdst : dst % 64 = 0) (hhigh : stgBase ≤ dst) (hbad : s.bad src = false) (hd : d < 4) (hk : k < 2) (store : Bool) :
    s.Runs (s.caddGranule d k owner store src dst)
      ∧ (s.caddGranule d k owner store src dst).byte = addedMem s.byte store src dst := by
  have hdstBad : s.bad dst = false := hq.bad (Nat.le_trans (by decide) hhigh)
  unfold State.caddGranule
  rw [State.granuleOf_landed hlanded hsrc, State.granuleOf_landed hlanded hdst]
  obtain ⟨hwrite, hbyte⟩ := State.writeGranule_runs hs hq hlanded hdst hhigh (packElems 32 (addGranule s.byte store src dst))
  extract_lets a b x y poison t
  have hy : y = addGranule s.byte store src dst := rfl
  have hpoison : poison = false := by simp [poison, a, b, hbad, hdstBad]
  have ht : t = s.writeGranule .engine (some owner) dst (packElems 32 (addGranule s.byte store src dst)) fullMask false := by
    rw [← hy, ← hpoison]
  rw [← ht] at hwrite hbyte
  clear_value t
  split
  · obtain ⟨hevent, hsame⟩ := State.nonfinite_runs hwrite.tidy (hq.runs hwrite) hd hk
    exact ⟨hwrite.trans hevent, hsame.trans hbyte⟩
  · exact ⟨hwrite, hbyte⟩

/-! An entry. -/

/-- An entry that passes the check of R192, whose source is whole and whose dies are present. -/
structure State.Sound (s : State) (e : List Nat) : Prop where
  count : wf e 2 0 32 % 16 = 0
  src   : caddSrc e % 64 = 0
  dst   : wf e 1 0 52 % 64 = 0
  high  : wf e 2 0 32 ≠ 0 → stgBase ≤ wf e 1 0 52
  there : s.absentAt (wf e 1 0 52) = none ∧ s.absentAt (caddSrc e) = none
  whole : ∀ i, i < wf e 2 0 32 / 16 → s.bad (caddSrc e + 64 * i) = false

theorem State.Runs.present (h : s.Runs t) (hd : d < 4) : t.present d = s.present d := by
  have hoff : (R.D2D_DIE_CTL_STATE d).off = 0x100 + 8 * d := rfl
  obtain ⟨-, hblock, -⟩ := page_offset 4 (i := B.D2D) (off := (R.D2D_DIE_CTL_STATE d).off) (by decide) (by omega)
  have hword := h.word (page 4 B.D2D + (R.D2D_DIE_CTL_STATE d).off)
    (accounting_page 4 (by decide) (by decide) (by omega) (show 0x100 + 8 * d ≠ 0x30 by omega)) (by rw [hblock]; decide)
  exact congrArg (fun w => bits w 8 4 == 0) hword

theorem accDie_lt {x : Nat} (h : accDie a = some x) : x < 4 := by
  unfold accDie at h
  split at h
  next y hy =>
    cases h
    unfold regionOf at hy
    repeat' split at hy
    all_goals cases hy
    simp only [accBase] at *
    omega
  · cases h

theorem State.Runs.absentAt (h : s.Runs t) (a : Nat) : t.absentAt a = s.absentAt a := by
  unfold State.absentAt
  cases ha : accDie a with
  | none => rfl
  | some x => simp only [Option.filter, h.present (accDie_lt ha)]

theorem State.Sound.runs (h : s.Sound e) (hr : s.Runs t) : t.Sound e :=
  ⟨h.count, h.src, h.dst, h.high, ⟨(hr.absentAt _).trans h.there.1, (hr.absentAt _).trans h.there.2⟩,
    fun i hi => (congrFun hr.bad _).trans (h.whole i hi)⟩

theorem State.Runs.allLanded (h : s.Runs t) (id : Nat) : t.allLanded id = s.allLanded id := by
  rw [State.allLanded, State.allLanded, h.held]

theorem State.caddGranules_runs (hs : s.Tidy) (hq : s.Quiet) (hlanded : s.allLanded owner = true) (he : s.Sound e) (hd : d < 4)
    (hk : k < 2) : ∀ n, n ≤ wf e 2 0 32 / 16 →
      let t := s.each (List.range n) fun s i =>
        s.caddGranule d k owner (wf e 2 32 1 == 1) (caddSrc e + 64 * i) (wf e 1 0 52 + 64 * i)
      s.Runs t ∧ t.byte = entryMem s.byte e n
  | 0, _ => ⟨.refl hs, rfl⟩
  | n + 1, hn => by
    obtain ⟨hruns, hbyte⟩ := State.caddGranules_runs hs hq hlanded he hd hk n (by omega)
    have hdst := he.dst
    have hsrc := he.src
    have hhigh := he.high (by omega)
    rw [State.each, List.range_succ, List.foldl_append, entryMem, List.range_succ, List.foldl_append]
    rw [State.each] at hruns hbyte
    generalize (List.range n).foldl (fun s i =>
      State.caddGranule s d k owner (wf e 2 32 1 == 1) (caddSrc e + 64 * i) (wf e 1 0 52 + 64 * i)) s = t at hruns hbyte ⊢
    obtain ⟨hstep, hnew⟩ := State.caddGranule_runs (src := caddSrc e + 64 * n) (dst := wf e 1 0 52 + 64 * n) hruns.tidy
      (hq.runs hruns) ((hruns.allLanded owner).trans hlanded) (by omega) (by omega) (by omega)
      ((congrFun hruns.bad _).trans (he.whole n (by omega))) hd hk (wf e 2 32 1 == 1)
    exact ⟨hruns.trans hstep, hnew.trans (congrArg (addedMem · _ _ _) hbyte)⟩

theorem counts_moved (hd : d < 4) : Counts (page 4 B.STG) (nth C.STG_MOVE_BYTES_0 d) := by
  unfold Counts
  revert d
  decide

/-- An entry runs. -/
theorem State.caddEntry_runs (hs : s.Tidy) (hq : s.Quiet) (hlanded : s.allLanded owner = true) (he : s.Sound e) (hd : d < 4)
    (hk : k < 2) : s.Runs (s.caddEntry d k owner e) ∧ (s.caddEntry d k owner e).byte = entryMem s.byte e (wf e 2 0 32 / 16) := by
  unfold State.caddEntry
  extract_lets n src dst s1 s2 s3
  obtain ⟨hdst, hsrc⟩ := he.there
  by_cases hn : n = 0
  · have hzero : wf e 2 0 32 = 0 := hn
    rw [if_pos hn, hzero]
    exact ⟨.refl hs, rfl⟩
  · rw [if_neg hn, hdst, hsrc]
    obtain ⟨h1, b1⟩ := State.Runs.of_onlyWords hs (State.countRead_tidy s .engine src (4 * n) hs) (.countRead s .engine src (4 * n)) nofun
    have h2 : s1.Runs s2 ∧ s2.byte = s1.byte := by
      simp only [s2]
      split
      · exact ⟨.refl h1.tidy, rfl⟩
      · exact State.Runs.of_onlyWords h1.tidy (State.countRead_tidy s1 .engine dst (4 * n) h1.tidy) (.countRead s1 .engine dst (4 * n)) nofun
    obtain ⟨h2, b2⟩ := h2
    have h12 := h1.trans h2
    obtain ⟨h3, b3⟩ := State.caddGranules_runs h2.tidy (hq.runs h12) ((h12.allLanded owner).trans hlanded) (he.runs h12) hd hk
      (wf e 2 0 32 / 16) (Nat.le_refl _)
    have h3 : s2.Runs s3 := h3
    have b3 : s3.byte = entryMem s2.byte e (wf e 2 0 32 / 16) := b3
    obtain ⟨h4, b4⟩ := State.Runs.count h3.tidy (counts_num (f := C.NUM_COMMIT_ADD_ELEMENTS) hd (by simp)) n
    obtain ⟨h5, b5⟩ := State.Runs.count h4.tidy (counts_moved hd) (4 * n)
    refine ⟨((h12.trans h3).trans h4).trans h5, (b5.trans b4).trans (b3.trans ?_)⟩
    rw [b2, b1]

/-- Entries run one after the other. -/
theorem State.caddEntries_runs (hd : d < 4) (hk : k < 2) : ∀ (es : List (List Nat)) (s : State), s.Tidy → s.Quiet →
    s.allLanded owner = true → (∀ e ∈ es, s.Sound e) →
    s.Runs (s.each es fun s e => s.caddEntry d k owner e) ∧ (s.each es fun s e => s.caddEntry d k owner e).byte = entriesMem s.byte es
  | [], s, hs, _, _, _ => ⟨.refl hs, rfl⟩
  | e :: es, s, hs, hq, hlanded, he => by
    obtain ⟨h1, b1⟩ := State.caddEntry_runs hs hq hlanded (he e List.mem_cons_self) hd hk
    obtain ⟨h2, b2⟩ := State.caddEntries_runs hd hk es (s.caddEntry d k owner e) h1.tidy (hq.runs h1)
      ((h1.allLanded owner).trans hlanded) fun f hf => (he f (List.mem_cons_of_mem _ hf)).runs h1
    exact ⟨h1.trans h2, b2.trans (congrArg (entriesMem · es) b1)⟩

/-- The entries of a member's list. -/
def State.entriesOf (s : State) (w : List Nat) : List (List Nat) :=
  match caddList w with
  | none => []
  | some l => tabulate (fun i => s.words (l.1 + 32 * i) 4) l.2

/-- A list runs. -/
theorem State.caddRun_runs (hs : s.Tidy) (hq : s.Quiet) (hlanded : s.allLanded owner = true) (he : ∀ e ∈ s.entriesOf w, s.Sound e)
    (hd : d < 4) (hk : k < 2) :
    s.Runs (s.caddRun d k owner w) ∧ (s.caddRun d k owner w).byte = entriesMem s.byte (s.entriesOf w) := by
  unfold State.caddRun
  unfold State.entriesOf at he ⊢
  cases hl : caddList w with
  | none => exact ⟨.refl hs, rfl⟩
  | some l =>
    rw [hl] at he
    obtain ⟨h1, b1⟩ := State.Runs.of_onlyWords hs (State.countRead_tidy s .engine l.1 (32 * l.2) hs)
      (.countRead s .engine l.1 (32 * l.2)) nofun
    obtain ⟨h2, b2⟩ := State.caddEntries_runs hd hk _ (s.countRead .engine l.1 (32 * l.2)) h1.tidy (hq.runs h1)
      ((h1.allLanded owner).trans hlanded) fun e hmem => (he e hmem).runs h1
    exact ⟨h1.trans h2, b2.trans (congrArg (entriesMem · _) b1)⟩

end Sys2Proof.Machine
end

section
/-! A bracket commits with commit-add lists (R187, R188, R191, R192). -/

namespace Sys2Proof.Machine

variable {s t u v : State} {g : Group} {d k : Nat} {e w : List Nat} {x : Nat × Bracket}

/-! What the outcome commit says of the members. -/

theorem State.mem_results (hx : x ∈ s.members g) : (x.1, x.2, s.listError g.ctx x.1 x.2) ∈ s.results g := by
  have hdie := State.members_lt hx
  have hopen : x ∈ s.openMembers g := (List.mem_filter.1 hx).1
  have hrange : x.1 ∈ [0, 1, 2, 3] := by
    simp only [List.mem_cons, List.not_mem_nil, or_false]
    omega
  refine List.mem_flatMap.2 ⟨x.1, hrange, List.mem_append_right _ (List.mem_map.2 ⟨x, List.mem_filter.2 ⟨hopen, ?_⟩, rfl⟩)⟩
  exact beq_self_eq_true _

theorem firstError_list {b : Bracket} {list : Option Nat} (h : firstError b list = none) : list = none := by
  unfold firstError at h
  extract_lets order first at h
  generalize first = o at h
  cases o with
  | none => exact h
  | some e => cases h

/-- Nobody halted, and no command and no list failed. -/
theorem State.outcome_commit (h : s.outcomeOf g = .commit) (hx : x ∈ s.members g) :
    x.2.halted = false ∧ s.listError g.ctx x.1 x.2 = none := by
  have hmem := State.mem_results hx
  unfold State.outcomeOf at h
  extract_lets m differ at h
  split at h
  · cases h
  · split at h
    · cases h
    next hnone =>
      have herror := List.findSome?_eq_none_iff.1 hnone _ hmem
      split at h
      · cases h
      next hlost =>
        simp only [Bool.or_eq_true, not_or, Bool.not_eq_true, List.any_eq_false] at hlost
        exact ⟨hlost.2 _ hmem, firstError_list herror⟩

/-- Every member stands at its close, and its list passes the check of R192. -/
theorem State.commit_members (h : s.outcomeOf g = .commit) (hreached : (openDies g.words).all (s.reached g) = true)
    (hx : x ∈ s.members g) : (s.closeOf x.1 x.2).isSome = true ∧ s.caddError x.1 g.ctx x.2.words = none := by
  obtain ⟨hhalted, hlist⟩ := State.outcome_commit h hx
  obtain ⟨hopen, hgone, hmember, -⟩ := State.mem_members hx
  have hat := List.all_eq_true.1 hreached x.1 hopen
  have hclose : (s.closeOf x.1 x.2).isSome = true := by
    unfold State.reached at hat
    rw [hmember] at hat
    simp only [hhalted, Bool.or_eq_true, Bool.and_eq_true, Bool.false_or] at hat
    rcases hat with hat | hat
    · rw [hgone] at hat
      cases hat
    · exact hat.1
  refine ⟨hclose, ?_⟩
  unfold State.listError at hlist
  rw [if_pos (by rw [hclose]; rfl)] at hlist
  exact hlist

/-! The entries of a list that passes the check. -/

theorem State.entry_checked (hcheck : s.caddError d k w = none) (he : e ∈ s.entriesOf w) : s.caddEntryError d k e = none := by
  unfold State.caddError at hcheck
  unfold State.entriesOf at he
  cases hl : caddList w with
  | none =>
    rw [hl] at he
    cases he
  | some l =>
    rw [hl] at he hcheck
    obtain ⟨i, hi, rfl⟩ := List.mem_map.1 he
    dsimp only at hcheck
    split at hcheck
    · cases hcheck
    · split at hcheck
      · cases hcheck
      · exact List.findSome?_eq_none_iff.1 hcheck i hi

/-- R192: what the check of an entry that passes says of its places. -/
theorem State.entry_aligned (h : s.caddEntryError d k e = none) :
    wf e 2 0 32 % 16 = 0 ∧ caddSrc e % 64 = 0 ∧ wf e 1 0 52 % 64 = 0 := by
  unfold State.caddEntryError at h
  extract_lets n place at h
  split at h
  · cases h
  next hform =>
    split at h
    · cases h
    next hplace =>
      simp only [not_or, not_not] at hform hplace
      obtain ⟨-, -, -, -, -, hcount⟩ := hform
      obtain ⟨hsrc, hdst⟩ := hplace
      refine ⟨hcount, ?_, hdst⟩
      unfold caddSrc
      split
      · simp only [accAddr, accBase]
        omega
      · exact hsrc

theorem windowOf_isSome {a n : Nat} (h : inMap a n = true) (hn : n ≠ 0) : (regionOf a).isSome = true := by
  simp only [inMap, Bool.or_eq_true, beq_iff_eq, hn, false_or, Bool.and_eq_true] at h
  have hwindow := h.1
  unfold windowOf at hwindow
  cases hr : regionOf a with
  | none =>
    rw [hr] at hwindow
    cases hwindow
  | some _ => rfl

/-- No granule of a whole range is bad. -/
theorem State.bad_of_badRange {a n i : Nat} (h : s.badRange a (64 * n) = false) (ha : a % 64 = 0) (hi : i < n) :
    s.bad (a + 64 * i) = false := by
  simp only [State.badRange, Bool.and_eq_false_iff, bne_eq_false_iff_eq, List.any_eq_false] at h
  have hbad := (h.resolve_left (by omega)) i (List.mem_range.2 (by omega))
  rw [show (a / 64 + i) * 64 = a + 64 * i by omega] at hbad
  simpa using hbad

theorem State.sound_of_check (hcheck : s.caddEntryError d k e = none) (hopen : s.open (wf e 1 0 52) (4 * wf e 2 0 32) = true)
    (hdst : s.absentAt (wf e 1 0 52) = none) (hsrc : s.absentAt (caddSrc e) = none)
    (hwhole : s.badRange (caddSrc e) (4 * wf e 2 0 32) = false) : s.Sound e := by
  obtain ⟨hcount, halign, hdstAlign⟩ := State.entry_aligned hcheck
  simp only [State.open, Bool.and_eq_true, decide_eq_true_eq] at hopen
  obtain ⟨⟨⟨⟨hhigh, hmap⟩, -⟩, -⟩, -⟩ := hopen
  refine ⟨hcount, halign, hdstAlign, fun hn => stgBase_le hhigh (windowOf_isSome hmap (by omega)), ⟨hdst, hsrc⟩, fun i hi => ?_⟩
  rw [show 4 * wf e 2 0 32 = 64 * (wf e 2 0 32 / 16) by omega] at hwhole
  exact State.bad_of_badRange hwhole halign hi

end Sys2Proof.Machine
end

section
/-! The lists of all members run, and the bracket waits for them (R188, R191, R192). -/

namespace Sys2Proof.Machine

variable {s t u v : State} {g : Group} {d k : Nat} {e w : List Nat} {x : Nat × Bracket} {l : List (Nat × Bracket)}

/-! What stands alike. -/

theorem State.bracket_of_standing (h : t.ledger.standing = s.ledger.standing) (d k : Nat) :
    (t.job d k).bracket = (s.job d k).bracket := congrFun (congrArg (fun v => v.2.2) h) (jobKey d k)

theorem State.groups_of_standing (h : t.ledger.standing = s.ledger.standing) : t.groups = s.groups := congrArg (fun v => v.2.1) h

/-- The LAYER_CLOSE of a member is the same command. -/
theorem State.closeOf_of_standing (h : t.ledger.standing = s.ledger.standing) (d : Nat) (b : Bracket) :
    (t.closeOf d b).map Cmd.id = (s.closeOf d b).map Cmd.id := by
  have hcmds : t.cmds.map Cmd.plain = s.cmds.map Cmd.plain := congrArg Prod.fst h
  have hfind (v : State) : (v.closeOf d b).map Cmd.plain
      = (v.cmds.map Cmd.plain).find? fun c => c.die == d && c.queue == b.queue && c.stage == .close := by
    rw [List.find?_map]
    rfl
  have hplain := (hfind t).trans ((congrArg _ hcmds).trans (hfind s).symm)
  have hid := congrArg (Option.map Cmd.id) hplain
  rw [Option.map_map, Option.map_map] at hid
  exact hid

theorem State.members_of_runs (h : s.Runs t) (g : Group) : t.members g = s.members g := by
  rw [State.members_eq, State.members_eq]
  refine List.filterMap_congr fun d hd => ?_
  have hdie := openDies_lt (List.mem_filter.1 hd).1
  rw [h.present hdie, State.memberOf, State.memberOf, State.bracket_of_standing h.standing]

theorem State.standing_mapBracket (hs : s.Tidy) (ht : t.Tidy) (h : t.ledger.standing = s.ledger.standing) (d k : Nat)
    (f : Bracket → Bracket) : (t.mapBracket d k f).ledger.standing = (s.mapBracket d k f).ledger.standing := by
  have hsame := State.bracket_of_standing h d k
  have hcmds : t.ledger.cmds = s.ledger.cmds := congrArg Prod.fst h
  have hgroups : t.ledger.groups = s.ledger.groups := congrArg (fun v => v.2.1) h
  refine Prod.ext hcmds (Prod.ext hgroups (funext fun key => ?_))
  show Ledger.bracketAt key (t.mapBracket d k f).ledger = Ledger.bracketAt key (s.mapBracket d k f).ledger
  by_cases hkey : key = jobKey d k
  · subst hkey
    have hmap := (State.bracket_mapBracket_same ht d k f).trans
      ((congrArg (Option.map f) hsame).trans (State.bracket_mapBracket_same hs d k f).symm)
    exact hmap
  · have hother := (jobBlind_bracketAt hkey t { t.job d k with bracket := (t.job d k).bracket.map f } ht).trans
      ((congrFun (congrArg (fun v => v.2.2) h) key).trans
        (jobBlind_bracketAt hkey s { s.job d k with bracket := (s.job d k).bracket.map f } hs).symm)
    exact hother

theorem State.Runs.mapBracket (hs : s.Tidy) (h : s.Runs t) (d k : Nat) (f : Bracket → Bracket) :
    (s.mapBracket d k f).Runs (t.mapBracket d k f) :=
  ⟨State.mapBracket_tidy t d k f h.tidy, State.standing_mapBracket hs h.tidy h.standing d k f, h.bad, h.held, h.poison, h.fences, h.word⟩

/-! Reads of lists. -/

theorem State.entriesOf_congr (h : ∀ p, caddList w = some p → ∀ a, p.1 ≤ a → a < p.1 + 32 * p.2 → t.byte a = s.byte a) :
    t.entriesOf w = s.entriesOf w := by
  unfold State.entriesOf
  cases hl : caddList w with
  | none => rfl
  | some p =>
    refine List.map_congr_left fun i hi => ?_
    have hi := List.mem_range.1 hi
    rw [State.words, State.words]
    refine List.map_congr_left fun j hj => ?_
    have hj := List.mem_range.1 hj
    rw [State.load_eq, State.load_eq]
    exact readMem_congr fun a h1 h2 => h p hl a (by omega) (by omega)

/-- The entries of members, in the order of the members. -/
def State.listed (s : State) (l : List (Nat × Bracket)) : List (List Nat) := l.flatMap fun x => s.entriesOf x.2.words

/-! The fold. -/

/-- A member's bracket starts its list, and the list runs. -/
def State.startRun (g : Group) (s : State) (x : Nat × Bracket) : State :=
  let s := s.mapBracket x.1 g.ctx Bracket.start
  match s.closeOf x.1 x.2 with
  | some c => s.caddRun x.1 g.ctx c.id x.2.words
  | none => s

theorem State.commitStart_eq (s : State) (g : Group) : s.commitStart g = (s.each (s.members g) (State.startRun g)).commitMaybe g := rfl

/-- What a member needs so that its list runs: it stands at a close whose writes have landed, and its entries are sound. -/
structure State.Lists (s : State) (x : Nat × Bracket) : Prop where
  die    : x.1 < 4
  close  : ∃ c, s.closeOf x.1 x.2 = some c ∧ s.allLanded c.id = true
  sound  : ∀ e ∈ s.entriesOf x.2.words, s.Sound e

/-- A bracket that changes on a die changes none of it. -/
theorem State.Lists.mapBracket (h : s.Lists x) (d k : Nat) (f : Bracket → Bracket) : (s.mapBracket d k f).Lists x :=
  ⟨h.die, h.close, fun e he => by
    obtain ⟨h1, h2, h3, h4, h5, h6⟩ := h.sound e he
    exact ⟨h1, h2, h3, h4, h5, h6⟩⟩

theorem State.startRun_runs (hv : v.Tidy) (hq : v.Quiet) (hg : g.ctx < 2) (hx : v.Lists x) (ht : v.Runs t)
    (hread : t.entriesOf x.2.words = v.entriesOf x.2.words) :
    (v.mapBracket x.1 g.ctx Bracket.start).Runs (t.startRun g x)
      ∧ (t.startRun g x).byte = entriesMem t.byte (v.entriesOf x.2.words) := by
  have hmap := ht.mapBracket hv x.1 g.ctx Bracket.start
  have hmapByte : (t.mapBracket x.1 g.ctx Bracket.start).byte = t.byte := rfl
  have hmapRead : (t.mapBracket x.1 g.ctx Bracket.start).entriesOf x.2.words = v.entriesOf x.2.words := hread
  have hvmap := hx.mapBracket x.1 g.ctx Bracket.start
  have hqmap : (v.mapBracket x.1 g.ctx Bracket.start).Quiet := ⟨hq.poison, hq.stg, hq.wbf, hq.events⟩
  have hvread : (v.mapBracket x.1 g.ctx Bracket.start).entriesOf x.2.words = v.entriesOf x.2.words := rfl
  unfold State.startRun
  generalize t.mapBracket x.1 g.ctx Bracket.start = t' at hmap hmapByte hmapRead ⊢
  generalize v.mapBracket x.1 g.ctx Bracket.start = v' at hmap hvmap hqmap hvread
  obtain ⟨hdie, ⟨c, hc, hlanded⟩, hsound⟩ := hvmap
  have hclose := State.closeOf_of_standing hmap.standing x.1 x.2
  rw [hc] at hclose
  obtain ⟨c', hc', hid⟩ := Option.map_eq_some_iff.1 hclose
  obtain ⟨hruns, hbyte⟩ := State.caddRun_runs (w := x.2.words) (owner := c'.id) (d := x.1) (k := g.ctx) hmap.tidy (hqmap.runs hmap)
    (by rw [hid]; exact (hmap.allLanded _).trans hlanded)
    (fun e he => (hsound e (by rw [hvread, ← hmapRead]; exact he)).runs hmap) hdie hg
  rw [hmapRead, hmapByte] at hbyte
  dsimp only
  rw [hc']
  exact ⟨hmap.trans hruns, hbyte⟩

/-- Lists that lie apart from what entries write read as before them. -/
theorem State.entriesOf_after (hbyte : t.byte = entriesMem s.byte (v.entriesOf x.2.words)) (hsound : ∀ e ∈ v.entriesOf x.2.words, v.Sound e)
    (hapart : ∀ e ∈ v.entriesOf x.2.words, ∀ p, caddList w = some p → ApartFrom p.1 (32 * p.2) e) :
    t.entriesOf w = s.entriesOf w := by
  refine State.entriesOf_congr fun p hp a h1 h2 => ?_
  rw [hbyte]
  refine entriesMem_apart _ _ (fun e he => (hsound e he).count) fun e he => ?_
  have hrange := hapart e he p hp
  unfold ApartFrom at hrange ⊢
  omega

theorem State.startRuns (hg : g.ctx < 2) : ∀ (l : List (Nat × Bracket)) (v t : State), v.Tidy → v.Quiet → (∀ x ∈ l, v.Lists x) →
    v.Runs t → (∀ x ∈ l, t.entriesOf x.2.words = v.entriesOf x.2.words) →
    (∀ x ∈ l, ∀ y ∈ l, ∀ e ∈ v.entriesOf x.2.words, ∀ p, caddList y.2.words = some p → ApartFrom p.1 (32 * p.2) e) →
    (v.each l fun s x => s.mapBracket x.1 g.ctx Bracket.start).Runs (t.each l (State.startRun g))
      ∧ (t.each l (State.startRun g)).byte = entriesMem t.byte (v.listed l)
  | [], v, t, _, _, _, ht, _, _ => ⟨ht, rfl⟩
  | x :: l, v, t, hv, hq, hl, ht, hread, hapart => by
    have hx := hl x List.mem_cons_self
    obtain ⟨hstep, hbyte⟩ := State.startRun_runs hv hq hg hx ht (hread x List.mem_cons_self)
    have hlater : ∀ y ∈ l, (t.startRun g x).entriesOf y.2.words = v.entriesOf y.2.words := fun y hy =>
      (State.entriesOf_after hbyte hx.sound fun e he p hp =>
        hapart x List.mem_cons_self y (List.mem_cons_of_mem _ hy) e he p hp).trans (hread y (List.mem_cons_of_mem _ hy))
    obtain ⟨hruns, hend⟩ := State.startRuns hg l (v.mapBracket x.1 g.ctx Bracket.start) (t.startRun g x)
      (State.mapBracket_tidy _ _ _ _ hv) ⟨hq.poison, hq.stg, hq.wbf, hq.events⟩
      (fun y hy => (hl y (List.mem_cons_of_mem _ hy)).mapBracket _ _ _) hstep hlater
      fun y hy z hz => hapart y (List.mem_cons_of_mem _ hy) z (List.mem_cons_of_mem _ hz)
    refine ⟨hruns, hend.trans ?_⟩
    rw [hbyte]
    exact (List.foldl_append ..).symm

/-! The commit. -/

/-- R188, R192: the brackets wait for the lists, whose entries have run. -/
theorem State.commitStart_adds (hs : s.Tidy) (hq : s.Quiet) (hg : g.ctx < 2) (hl : ∀ x ∈ s.members g, s.Lists x)
    (hsome : ∃ x ∈ s.members g, caddList x.2.words ≠ none)
    (hapart : ∀ x ∈ s.members g, ∀ y ∈ s.members g, ∀ e ∈ s.entriesOf x.2.words, ∀ p, caddList y.2.words = some p →
      ApartFrom p.1 (32 * p.2) e) :
    (∀ x ∈ s.members g, ((s.commitStart g).job x.1 g.ctx).bracket = some x.2.start)
      ∧ (s.commitStart g).groups = s.groups ∧ (s.commitStart g).byte = entriesMem s.byte (s.listed (s.members g)) := by
  obtain ⟨hruns, hbyte⟩ := State.startRuns hg (s.members g) s s hs hq hl (.refl hs) (fun _ _ => rfl) hapart
  have hruns : (s.startAll g).Runs (s.each (s.members g) (State.startRun g)) := hruns
  have hmembers := (State.members_of_runs hruns g).trans (State.startAll_members hs)
  have hgroups := (State.groups_of_standing hruns.standing).trans (s.startAll_regs g).2
  rw [State.commitStart_eq]
  generalize s.each (s.members g) (State.startRun g) = t at hruns hbyte hmembers hgroups ⊢
  have hwait : t.commitMaybe g = t := by
    refine if_neg fun hall => ?_
    obtain ⟨x, hx, hlist⟩ := hsome
    rw [hmembers, List.all_map, List.all_eq_true] at hall
    have hadded := hall x hx
    simp only [Function.comp, Bracket.start, Option.isNone_iff_eq_none] at hadded
    exact hlist hadded
  rw [hwait]
  refine ⟨fun x hx => ?_, hgroups, hbyte⟩
  have hmem : (x.1, x.2.start) ∈ t.members g := hmembers ▸ List.mem_map_of_mem (f := fun x : Nat × Bracket => (x.1, x.2.start)) hx
  exact State.members_bracket hmem

end Sys2Proof.Machine
end

section
/-! The outcome of brackets (R187–R192). -/

namespace Sys2Proof.Machine

variable {s t : State} {g : Group} {d k : Nat} {e : List Nat} {x : Nat × Bracket}

/-- A list that is not empty has an entry. -/
theorem State.entriesOf_ne_nil {w : List Nat} (h : caddList w ≠ none) : ∃ e, e ∈ s.entriesOf w := by
  unfold State.entriesOf
  cases hl : caddList w with
  | none => exact absurd hl h
  | some p =>
    have hn : p.2 ≠ 0 := by
      unfold caddList at hl
      split at hl
      · cases hl
      next hne =>
        cases hl
        exact fun h0 => hne (.inr h0)
    exact ⟨_, List.mem_map_of_mem (List.mem_range.2 (Nat.pos_of_ne_zero hn))⟩

/-- What a store to an open place says of memory. -/
theorem State.quiet_of_open {a n : Nat} (h : s.open a n = true)
    (hevents : ∀ e : Fin 4, s.on (page e B.NUM) R.NUM_EVT_CTL_EN = false) : s.Quiet := by
  simp only [State.open, Bool.and_eq_true, List.isEmpty_iff] at h
  obtain ⟨⟨⟨-, hstg⟩, hwbf⟩, hpoison⟩ := h
  exact ⟨hpoison, hstg, hwbf, fun e he => hevents ⟨e, he⟩⟩

/-- The members of a bracket that commits, where their entries lie in open places. -/
theorem State.commit_lists (h : s.outcomeOf g = .commit) (hreached : (openDies g.words).all (s.reached g) = true)
    (hplaces : ∀ e ∈ s.listed (s.members g), s.open (wf e 1 0 52) (4 * wf e 2 0 32) = true ∧ s.absentAt (wf e 1 0 52) = none
      ∧ s.absentAt (caddSrc e) = none ∧ s.badRange (caddSrc e) (4 * wf e 2 0 32) = false)
    (hlanded : ∀ x ∈ s.members g, ∀ y, s.closeOf x.1 x.2 = some y → s.allLanded y.id = true) (hx : x ∈ s.members g) : s.Lists x := by
  obtain ⟨hclose, hcheck⟩ := State.commit_members h hreached hx
  obtain ⟨c, hc⟩ := Option.isSome_iff_exists.1 hclose
  refine ⟨State.members_lt hx, ⟨c, hc, hlanded x hx c hc⟩, fun e he => ?_⟩
  obtain ⟨hopen, hdst, hsrc, hwhole⟩ := hplaces e (List.mem_flatMap.2 ⟨x, hx, he⟩)
  exact State.sound_of_check (State.entry_checked hcheck he) hopen hdst hsrc hwhole

/-- The result of a granule of an entry, in the words of R192. -/
theorem addGranule_eq (s : State) (e : List Nat) (src dst : Nat) : addGranule s.byte (wf e 2 32 1 == 1) src dst
    = if wf e 2 32 1 = 1 then codes16 (s.load src 64)
      else List.zipWith (fadd .fp32) (codes16 (s.load dst 64)) (codes16 (s.load src 64)) := by
  unfold addGranule
  by_cases h : wf e 2 32 1 = 1
  · rw [if_pos (beq_iff_eq.2 h), if_pos h, State.load_eq]
  · rw [if_neg (mt beq_iff_eq.1 h), if_neg h, State.load_eq, State.load_eq]

/-- R191, R192: a commit with commit-add lists runs them and waits. -/
theorem State.commit_runs_lists (hs : s.Tidy) (hg : g.ctx < 2) (houtcome : s.outcomeOf g = .commit)
    (hreached : (openDies g.words).all (s.reached g) = true) (hsome : ∃ x ∈ s.members g, caddList x.2.words ≠ none)
    (hplaces : ∀ e ∈ s.listed (s.members g), s.open (wf e 1 0 52) (4 * wf e 2 0 32) = true ∧ s.absentAt (wf e 1 0 52) = none
      ∧ s.absentAt (caddSrc e) = none ∧ s.badRange (caddSrc e) (4 * wf e 2 0 32) = false)
    (hpair : (s.listed (s.members g)).Pairwise fun e f => ApartFrom (wf f 1 0 52) (4 * wf f 2 0 32) e)
    (hsrc : ∀ e ∈ s.listed (s.members g), ∀ f ∈ s.listed (s.members g), ApartFrom (caddSrc f) (4 * wf f 2 0 32) e)
    (hlists : ∀ e ∈ s.listed (s.members g), ∀ x ∈ s.members g, ∀ p, caddList x.2.words = some p → ApartFrom p.1 (32 * p.2) e)
    (hlanded : ∀ x ∈ s.members g, ∀ y, s.closeOf x.1 x.2 = some y → s.allLanded y.id = true)
    (hevents : ∀ e : Fin 4, s.on (page e B.NUM) R.NUM_EVT_CTL_EN = false) :
    let t := s.commitStart g
    (∀ x ∈ s.members g, ∃ b, (t.job x.1 g.ctx).bracket = some b ∧ b.adding = true ∧ b.added = (caddList x.2.words).isNone)
      ∧ t.groups = s.groups
      ∧ ∀ e ∈ s.listed (s.members g), ∀ i, i < wf e 2 0 32 / 16 →
        codes16 (t.load (wf e 1 0 52 + 64 * i) 64)
          = (if wf e 2 32 1 = 1 then codes16 (s.load (caddSrc e + 64 * i) 64)
             else List.zipWith (fadd .fp32) (codes16 (s.load (wf e 1 0 52 + 64 * i) 64))
               (codes16 (s.load (caddSrc e + 64 * i) 64))).map (· % 2 ^ 32) := by
  have hl : ∀ x ∈ s.members g, s.Lists x := fun x hx => State.commit_lists houtcome hreached hplaces hlanded hx
  have hcount : ∀ e ∈ s.listed (s.members g), wf e 2 0 32 % 16 = 0 := fun e he => by
    obtain ⟨x, hx, he⟩ := List.mem_flatMap.1 he
    exact ((hl x hx).sound e he).count
  have hq : s.Quiet := by
    obtain ⟨x, hx, hlist⟩ := hsome
    obtain ⟨e, he⟩ := State.entriesOf_ne_nil (s := s) hlist
    exact State.quiet_of_open (hplaces e (List.mem_flatMap.2 ⟨x, hx, he⟩)).1 hevents
  obtain ⟨hbrackets, hgroups, hbyte⟩ := State.commitStart_adds hs hq hg hl hsome fun x hx y hy e he p hp =>
    hlists e (List.mem_flatMap.2 ⟨x, hx, he⟩) y hy p hp
  refine ⟨fun x hx => ⟨_, hbrackets x hx, rfl, rfl⟩, hgroups, fun e he i hi => ?_⟩
  rw [State.load_eq, hbyte, readMem_entriesMem _ s.byte hcount hpair hsrc e he i hi, addGranule_eq]

/-- Settles O24: the outcome of a bracket as its cases, and the end of a commit-add list. -/
theorem bracketsCommitReplayOrFail : Obligations.BracketsCommitReplayOrFail := by
  unfold Obligations.BracketsCommitReplayOrFail
  refine ⟨fun s d c g hs hgroup hctx hreached hadding hq => ?_, fun s d c g hs hgroup hctx hreached hadding houtcome hsome => ?_,
    fun s d c g b hs hgroup hctx hb hadding hadded hlanded => ?_⟩
  · have hg : g.ctx < 2 := hctx ▸ ctxNo_lt c
    have hrun := State.bracketOutcome_eq hgroup hreached hadding
    refine ⟨fun houtcome hnone => ⟨_, rfl, ?_⟩, fun houtcome => ⟨_, rfl, ?_⟩, fun err houtcome => ⟨_, rfl, ?_⟩⟩
    · rw [hrun, houtcome]
      exact State.commitStart_closes hs hg hnone hq
    · rw [hrun, houtcome]
      obtain ⟨hmembers, hgroups⟩ := State.replayBracket_shows hs hg hq
      refine ⟨fun x hx => ?_, hgroups⟩
      obtain ⟨hbracket, hhead⟩ := hmembers x hx
      exact ⟨_, hbracket, rfl, rfl, rfl, rfl, rfl, hhead⟩
    · rw [hrun, houtcome]
      obtain ⟨hclosed, hgroups⟩ := State.failBracket_closes (err := err) hs hg
      exact ⟨fun x hx => ⟨hclosed x hx, State.failBracket_cause hs hg hq x hx, State.failBracket_halts hs hg hq x hx⟩, hgroups⟩
  · intro entriesOf es len dst apart hplaces hpair hsrc hlists hlanded hevents
    have hrun := State.bracketOutcome_eq hgroup hreached hadding
    rw [houtcome] at hrun
    have hall := State.commit_runs_lists hs (hctx ▸ ctxNo_lt c) houtcome hreached hsome hplaces hpair hsrc hlists hlanded hevents
    refine ⟨_, rfl, ?_⟩
    rw [hrun]
    exact hall
  · have hg : g.ctx < 2 := hctx ▸ ctxNo_lt c
    have hrun := State.commitAddDone_eq hgroup hb hadding hadded hlanded
    rw [← hctx] at hb hrun
    refine ⟨fun hothers => ⟨_, rfl, ?_⟩, fun hother => ⟨_, rfl, ?_⟩⟩
    · rw [← hctx, hrun]
      exact State.addDone_closes hs hg hothers
    · rw [← hctx, hrun, State.addDone_waits hs hother]
      refine ⟨?_, rfl, rfl⟩
      rw [State.bracket_mapBracket_same hs, hb]
      rfl

end Sys2Proof.Machine
end
